-- ==== Sys2Proof/Word.lean ====
section
/-! DEFINITION. The word types of the Audom 480. -/

namespace Sys2Proof

/-- One byte of host memory or state memory (R5). -/
abbrev Byte := BitVec 8

/-- The bit pattern of an IEEE 754 binary32 value, format code 0x7 (R66). -/
abbrev F32 := BitVec 32

end Sys2Proof
end

