-- ==== Sys2Proof/Syntax.lean ====
section
/-! DEFINITION. The commands of the block: one constructor of `Instr` for each row of
spec/opcode_table.json, and the types of their operands. An operand carries what reaches the module
from outside (a value on the bus, a sensor reading, the outcome of a check in hardware), never what the
specification lets the module compute from its own state. -/

namespace Sys2Proof

/-- A write by a host into its own memory, made since the module last read that memory (R224). -/
structure HostWrite where
  port : Fin 4
  addr : BitVec 64
  data : List Byte
  deriving DecidableEq, Repr

/-- A PCIe configuration request (R356, R400): a read of one item of R400, or a write of Bus Master Enable. -/
inductive CfgReq where
  | vendor
  | device
  | revision
  | classCode
  | headerType
  | busMaster (on : Bool)
  deriving DecidableEq, Repr

/-- The state of a CSI-2 packet header after its error code is applied (R270). -/
inductive HdrEcc where
  | good
  | corrected
  | bad
  deriving DecidableEq, Repr

/-- A received CSI-2 long packet (R270, R271). `line` is the number of a CSI-2 line-start packet, when the source sends one. -/
structure CsiPkt where
  vc : Fin 32
  dataType : BitVec 6
  ecc : HdrEcc
  line : Option (BitVec 16)
  frameStart : Bool
  frameEnd : Bool
  crcError : Bool
  payload : List Byte
  deriving DecidableEq, Repr

/-- A received Ethernet frame, without its FCS (R270, R275). -/
structure EthFrame where
  bytes : List Byte
  fcsOk : Bool
  deriving DecidableEq, Repr

/-- A received CAN FD frame (R270, R271). -/
structure CanFd where
  ident : BitVec 29
  ext : Bool
  fd : Bool
  brs : Bool
  dlc : Fin 16
  data : List Byte
  deriving DecidableEq, Repr

/-- A symbol of a codeword that arrives with wrong bits: which of the granule's two codewords, the symbol, the bits (R160, R165). -/
structure SymbolError where
  word : Fin 2
  symbol : Fin 72
  bits : BitVec 4
  deriving DecidableEq, Repr

/-- What a read of a granule meets at the memory: the gang it lies in, and the symbols with wrong bits (R160, R161, R164). -/
structure GranuleFinding where
  gang : Fin 4
  errors : List SymbolError
  deriving DecidableEq, Repr

/-- What a physical granule holds: the specification does not give the map from physical granules to
realm units, so the command names it (R156, R173). -/
inductive GranuleUse where
  | unmapped
  | window (realm : Fin 8) (addr : BitVec 48)
  | room (realm : Fin 8) (room : BitVec 32) (off : Nat)
  | directory (realm : Fin 8) (room : BitVec 32)
  deriving DecidableEq, Repr

/-- A granule that a job's reads meet with wrong bits (R160, R166). -/
structure GranuleRead where
  mem : Fin 10
  granule : Nat
  what : GranuleUse
  finding : GranuleFinding
  deriving DecidableEq, Repr

/-- How far a job command takes its job (R230, R326). `start`: the job starts and runs on, and die stewards fetch rooms ahead for it, each
through the room-table entry at an address (R138).
`whole`: it executes and, in duplex, both sides' digests agree within the step.
`withhold`: it executes and its result waits for the comparison of R329.
A job that executes may meet granules with wrong bits in its reads (R166). -/
inductive JobRun where
  | start (ahead : List (Fin 4 × Nat) := [])
  | whole (reads : List GranuleRead := [])
  | withhold (reads : List GranuleRead := [])
  deriving DecidableEq, Repr

/-- The three forms of a tile operation (R131). -/
inductive TileKind where
  | array
  | merge
  | vector
  deriving DecidableEq, Repr

/-- The output tile of a matrix product (R131, R133): the matrix of the batch, the block of 16 rows and the block of 64 columns. -/
structure TilePos where
  batch : Nat
  row : Nat
  col : Nat
  deriving DecidableEq, Repr

/-- What a tile operation computes (R131): the subtree over groups q × 2^s to (q + 1) × 2^s − 1 of an output tile, the tree nodes above the
subtree roots with the epilogue, or a block of 64 rows by 256 columns of another operator's output. -/
inductive TileWork where
  | array (pos : TilePos) (q s : Nat)
  | merge (pos : TilePos)
  | vector (row col : Nat)
  deriving DecidableEq, Repr

/-- The form of a tile operation. -/
def TileWork.kind : TileWork → TileKind
  | .array _ _ _ => .array
  | .merge _ => .merge
  | .vector _ _ => .vector

/-- A tile operation the die steward issues (R131, R136): whose it is, what it computes and where it goes. -/
structure TileDesc where
  realm : Fin 8
  job : Nat
  node : Nat
  work : TileWork
  cluster : Fin 24
  array : Fin 8
  deriving DecidableEq, Repr

/-- What goes wrong in the hardware that works on a tile (R148, R150): cells whose 112-bit group accumulator, or whose residue accumulator,
is off by an amount; vector lanes and tree adders off by an amount; stored words of the tile store with wrong bits (72 stored bits),
and the tiles that used such a word; bytes of the score ledger and of the common store with wrong bits (9 stored bits). -/
structure TileFault where
  groups : List (Fin 16 × Fin 64 × Int) := []
  cells : List (Fin 16 × Fin 64 × Nat) := []
  lanes : List Int := []
  sram : List (BitVec 72) := []
  users : List Nat := []
  ledger : List (BitVec 9) := []
  common : List (BitVec 9) := []
  deriving DecidableEq, Repr

/-- A run of the golden tile (R141): the bytes among its results and check outcomes that come out wrong, each with its wrong bits. -/
structure GoldenRun where
  wrong : List (Nat × Byte) := []
  deriving DecidableEq, Repr

/-- The two sides of a duplex pair (R326). -/
inductive Side where
  | a
  | b
  deriving DecidableEq, Repr

/-- What a duplex comparison is about: a job, a fusion service's result or a planning service's (R329). -/
inductive DupSubject where
  | job (acc : Nat)
  | fusion (svc : Fin 4)
  | plan (svc : Fin 2)
  deriving DecidableEq, Repr

/-- A side's verdict after diagnosis (R330): what its read checks found failing, a die by its fabric, common store or steward, clusters by
their tile stores or score ledgers. -/
inductive SideVerdict where
  | pass
  | fail (removed : Option (Fin 4)) (clusters : List (Fin 4 × Fin 24) := [])
  deriving DecidableEq, Repr

/-- An element under an extended test (R332): a compute die, or engine FUS_A, FUS_B, PLE_A, PLE_B (0 to 3). -/
inductive DupElement where
  | die (k : Fin 4)
  | engine (e : Fin 4)
  deriving DecidableEq, Repr

/-- The two safety islands (R10). -/
inductive Isl where
  | a
  | b
  deriving DecidableEq, Repr

/-- The verdict of an island self-test (R319). -/
inductive CoreVerdict where
  | bothGood
  | mainBroken
  | checkerBroken
  | bothBroken
  deriving DecidableEq, Repr

/-- A debug licence as presented (R325): whether its signature verifies, the module's serial number it names, its expiry, its scope. -/
structure DebugLicence where
  signatureOk : Bool
  serial : BitVec 128
  expiry : Nat
  scope : BitVec 4
  deriving DecidableEq, Repr

/-- What a debugger acts on (R325): an island's main core, or a die steward (4: the IOD's). -/
inductive DebugTarget where
  | island (i : Isl)
  | steward (d : Fin 5)
  deriving DecidableEq, Repr

/-- A debugger action (R325): registers and memory of a core are named by a number, registers from 2^64 on. -/
inductive DebugAct where
  | halt
  | step
  | writeReg (reg : Nat) (value : BitVec 64)
  | writeMem (addr : BitVec 64) (value : BitVec 64)
  | readReg (reg : Nat)
  | readMem (addr : BitVec 64)
  deriving DecidableEq, Repr

/-- The direction of a link (R340). -/
inductive Dir where
  | fwd
  | rev
  deriving DecidableEq, Repr

/-- A flit but for its numbers (R341): type, credits and 128 payload bytes. -/
structure Flit where
  type : BitVec 4
  credits : BitVec 8
  payload : Vector Byte 128
  deriving DecidableEq, Repr

/-- What one link meets when it trains after a reset of one die (R348): lanes that fail the training
pattern, and the lanes the full lane test finds good. -/
structure LinkTrain where
  link : Fin 8
  badFwd : BitVec 68
  badRev : BitVec 68
  testFwd : BitVec 68
  testRev : BitVec 68
  deriving DecidableEq, Repr

/-- A boot slot as SI_A reads it (R353): the public key in its header, whether the header's signature verifies under it, the security version,
the digests the header lists, the components in load order, and whether the image asks to raise the fused minimum. -/
structure SlotImage where
  key : List Byte
  sigOk : Bool
  svn : BitVec 16
  listed : List (List Byte)
  components : List (List Byte)
  raiseMin : Bool
  deriving DecidableEq, Repr

/-- What SI_A sends over the management ring as it arrives (R354): whether the header's signature verifies, SI_B's firmware, the code of the
five stewards, the IOD's last. -/
structure RingLoad where
  sigOk : Bool
  firmware : List Byte
  codes : List (List Byte)
  deriving DecidableEq, Repr

/-- An edge at a capture input (R268): its direction, and for how many ticks the level is held after it. -/
structure CapEdge where
  rising : Bool
  held : Nat
  deriving DecidableEq, Repr

/-- What one port end hears (R350): whether the remote end answered, its die type, identity and port. -/
structure EndAnn where
  answered : Bool
  rtype : Fin 3
  rid : BitVec 64
  rport : Fin 8
  deriving DecidableEq, Repr

/-- The manifest (R351): whether its signature verifies, the serial number it names, the identity of each die and stack. -/
structure Manifest where
  sigOk : Bool
  serial : BitVec 128
  dies : List (BitVec 64)
  hbmIds : List (BitVec 128)
  deriving DecidableEq, Repr

/-- A rail with an undervoltage detector (R423). -/
inductive Rail where
  | cd (k : Fin 4)
  | iod
  | h1v1
  | q0v4
  | sia
  | sib
  deriving DecidableEq, Repr

/-- One sampling of sensors (R382): the diode pairs of a die (4: the IOD) in 1/16 °C, the coolant
(inlet and outlet in 1/16 °C, flow in 0.001 L/min), or the rail power of the five sampled dies in 0.1 W. -/
inductive Sample where
  | hotSpots (die : Fin 5) (diodes : List (Int × Int))
  | coolant (inlet outlet flow : Int)
  | power (dies : List Nat)
  deriving DecidableEq, Repr

/-- The commands of the block, one constructor for each row of spec/opcode_table.json, in its order. -/
inductive Instr where
  | graph (job : Nat) (run : JobRun)
  | step (job : Nat) (run : JobRun)
  | prefill (job : Nat) (run : JobRun)
  | fuse (job : Nat) (run : JobRun)
  | fuseReplay (job : Nat) (run : JobRun)
  | plan (job : Nat)
  | planReplay (job : Nat) (run : JobRun)
  | move (job : Nat) (run : JobRun)
  | roomsCreate (job : Nat) (run : JobRun)
  | roomsFork (job : Nat) (run : JobRun)
  | roomsTruncate (job : Nat) (run : JobRun)
  | roomsFree (job : Nat) (run : JobRun)
  | roomsLoad (job : Nat) (run : JobRun)
  | roomsSave (job : Nat) (run : JobRun)
  | roomsPlace (job : Nat) (run : JobRun)
  | curtain (job : Nat)
  | curtainSwap
  | fence (job : Nat)
  | fenceComplete (job : Nat)
  | digestCheck (job : Nat) (run : JobRun)
  | lodge (job : Nat)
  | recall (job : Nat)
  | recallGraceEnd
  | recallRestore (checkerA checkerB : Bool)
  | recallDone
  | barrier (job : Nat)
  | dormantBarrier (job : Nat)
  | mapUpdate (job : Nat)
  | mapPublish (job : Nat)
  | doorbellPoll (port : Fin 4) (writes : List HostWrite) (ok : Bool)
  | statusBlockWrite (port : Fin 4)
  | hostEnable (port : Fin 4)
  | hostDisable (port : Fin 4)
  | ringEnable (port : Fin 4) (ring : Fin 8) (log2 : Fin 16)
  | ringDisable (port : Fin 4) (ring : Fin 8) (log2 : Fin 16)
  | eventRingEnable (port : Fin 4) (log2 : Fin 16)
  | eventRingDisable (port : Fin 4) (log2 : Fin 16)
  | ethTxRingEnable (port : Fin 4) (mac : Fin 4) (log2 : Fin 16) (pauseEn : Bool)
  | ethTxFrame (mac : Fin 4) (writes : List HostWrite)
  | portEnable (port : Fin 4) (ing : Fin 30) (testLine : Bool)
  | portDisable (port : Fin 4) (ing : Fin 30) (testLine : Bool)
  | tbIncCommit (port : Fin 4) (int : BitVec 8)
  | tbStep (port : Fin 4) (ns : BitVec 32)
  | tbBaseline (port : Fin 4)
  | tbSnap (port : Fin 4)
  | lnkRetrainRequest (port : Fin 4) (mask : BitVec 8)
  | attestQuote (port : Fin 4) (realm : Fin 8)
  | attestCertificate (port : Fin 4) (realm : Fin 8)
  | attestDone (port : Fin 4)
  | understudyEnable (port : Fin 4) (realm : Fin 8)
  | understudyPromote (port : Fin 4) (realm : Fin 8)
  | understudyOrphan (port : Fin 4) (realm : Fin 8)
  | undOrphanTimeout
  | w1cWrite (port : Fin 4) (off : BitVec 16) (value : BitVec 32)
  | rcRead (port : Fin 4) (off : BitVec 16) (size : Nat)
  | registerWrite (port : Fin 4) (off : BitVec 16) (size : Nat) (value : BitVec 64)
  | configRequest (port : Fin 4) (req : CfgReq)
  | timeBaseTick (n : Nat)
  | cueEdge (g : Fin 16)
  | cuePulseEnd (g : Fin 16)
  | frameStart (tableBad : List (Fin 4))
  | sensorHealth
  | csiPacket (p : Fin 12) (pkt : CsiPkt)
  | ethRxFrame (mac : Fin 4) (frame : EthFrame)
  | pauseFrameRx (mac : Fin 4) (quanta : BitVec 16)
  | canFrame (can : Fin 4) (frame : CanFd)
  | canBusOff (can : Fin 4) (errors : BitVec 32)
  | spiTrigger (m : Fin 2)
  | spiTransactionEnd (m : Fin 2) (rx : List Byte)
  | captureEdge (c : Fin 8) (edge : CapEdge)
  | pauseRepeat (mac : Fin 4)
  | ingressDrain (ing : Fin 30) (writes : List HostWrite)
  | testLineCheck (stream : Fin 32)
  | postStreamRead (writes : List HostWrite)
  | fusionAdmission (svc : Fin 4)
  | fusionResult (svc : Fin 4) (side : Side) (fault : Option (List Byte))
  | egoAdmission
  | planAdmission (svc : Fin 2)
  | planSearchEnd (subj : DupSubject)
  | planRecheck (subj : DupSubject)
  | streamMissing (out : Fin 6)
  | goldenWorkload (engine : Fin 4) (pass : Bool)
  | tileIssue (die : Fin 4) (tile : TileDesc)
  | tileRetire (die : Fin 4) (tile : Nat) (fault : TileFault) (again : Option (Fin 24 × Fin 8))
  | rehearsal (die : Fin 4) (cluster : Fin 24) (array : Fin 8)
  | rehearsalEnd (die : Fin 4) (cluster : Fin 24) (array : Fin 8) (run : GoldenRun)
  | rehearsalTableReload (die : Fin 4)
  | detectionLimit (die : Fin 4) (cluster : Fin 24) (array : Option (Fin 8))
  | keepwarmLoop (die : Fin 4) (loops : List (Fin 24 × Fin 8 × GoldenRun)) (short : Bool)
  | scrubGranule (mem : Fin 10) (granule : Nat) (what : GranuleUse) (finding : GranuleFinding)
  | memErased (mem : Fin 10) (gang : Fin 4) (symbol : Fin 72)
  | roomPromote (realm : Fin 8) (room : BitVec 32)
  | roomDemote (realm : Fin 8) (die : Fin 4)
  | cellarInitUnit (unit : Nat)
  | duplexCompare (subj : DupSubject) (faultA faultB : Option (List Byte))
  | dpxWaitTimeout (subj : DupSubject) (missing : Side)
  | duplexVerdict (subj : DupSubject) (a b : SideVerdict)
  | duplexSplit (pair : Fin 4)
  | extendedTestDone (el : DupElement) (pass : Bool)
  | islandHeartbeat (sender : Isl) (arrived : Bool)
  | islandLost (lost : Isl)
  | haltNotice (sender : Isl)
  | islandMismatch (isl : Isl) (cycles : BitVec 64)
  | signatureWindowClose (isl : Isl) (same : Bool) (cycles : BitVec 64)
  | islandVerdict (isl : Isl) (verdict : CoreVerdict)
  | islandLatent (isl : Isl) (same mainParity checkerParity : Bool)
  | islandLatentLimit (isl : Isl)
  | selfTestSlice (isl : Isl) (mainCore pass : Bool)
  | debugSession (lic : DebugLicence)
  | debugAction (target : DebugTarget) (act : DebugAct)
  | flitReceive (link : Fin 8) (dir : Dir) (seq : Nat) (flit : Flit) (errors : List (Fin 68 × Fin 72))
  | replayLimit (link : Fin 8) (goodFwd goodRev : BitVec 68)
  | laneErrorThreshold (link : Fin 10) (dir : Dir) (lane : Fin 68) (errors : Nat)
  | laneSpared (link : Fin 8) (dir : Dir) (lane : Fin 68)
  | linkNarrowed (link : Fin 8) (dir : Dir)
  | linkRetrain (link : Fin 8) (goodFwd goodRev : BitVec 68) (us : BitVec 64)
  | mgmtSegmentBreak (seg : Fin 7)
  | partialReset (die : Fin 4) (train : List LinkTrain)
  | partialResetRejoin (die : Fin 4)
  | mrstRelease (straps : Fin 4) (railsGood : Bool)
  | mrstAssert
  | bootSlot (slot : Fin 2) (image : SlotImage)
  | sibFirmwareVerify (load : RingLoad)
  | stewardLoad
  | linkTrainingDone (ends : List EndAnn) (hbmIds : List (BitVec 128)) (goodFwd goodRev : List (BitVec 68))
  | manifestCheck (m : Manifest)
  | memoryTrainingDone (stacksBad : List (Fin 8)) (cellarBad : Bool)
  | bootRehearsalDone (arraysBad : List (Fin 4 × Fin 24 × Fin 8)) (enginesBad : List (Fin 4))
  | hostWindowsReady
  | bootResume
  | perstAssert (port : Fin 4)
  | functionLevelReset (port : Fin 4)
  | busMasterEnableFall (port : Fin 4)
  | islandReset (isl : Isl)
  | wake
  | undervoltage (rail : Rail)
  | refclkSysLoss
  | refclkSwitch (toTime : Bool)
  | islandClockLoss (isl : Isl)
  | avsFault (die : Fin 4) (level : Fin 6)
  | avsConfirmTimeout (die : Fin 4)
  | sensorSample (sample : Sample)
  | thermalTrip (die : Fin 5)
  | thermalThrottle
  | flowStop
  | limpExit
  | flowSensor
  | wearWrite
  | dormantInletSample (reading : Int)
  | powerRemoval
  | perstRelease (port : Fin 4)
  | islandResetRelease (isl : Isl) (firmwareOk : Bool)
  | railsGood
  | romSelfTest (siaGood sibGood : Bool)
  | debugSessionClose
  deriving DecidableEq, Repr

end Sys2Proof
end

