-- ==== Sys2Proof/Machine/Bits.lean ====
section
/-! DEFINITION. Bit fields, byte order, two's complement and small list helpers. -/

namespace Sys2Proof.Machine

/-- The `n` bits of `v` that start at bit `lo`: the manual's field [lo+n-1 : lo] (R4). -/
def bitsAt (v lo n : Nat) : Nat := v / 2 ^ lo % 2 ^ n

/-- Bit `i` of `v` (R4). -/
def bitOf (v i : Nat) : Bool := v / 2 ^ i % 2 == 1

/-- `v` with bit `i` set to `b`. -/
def withBit (v i : Nat) (b : Bool) : Nat :=
  if bitOf v i then (if b then v else v - 2 ^ i) else (if b then v + 2 ^ i else v)

/-- The number of bits set among the `n` lowest bits of `v`. -/
def popCount (n v : Nat) : Nat := ((List.range n).filter (bitOf v)).length

/-- The number whose bits are the list, bit 0 first. -/
def ofBits : List Bool → Nat
  | [] => 0
  | b :: bs => b.toNat + 2 * ofBits bs

/-- One step of a count that saturates at `cap` (the manual's "saturates"). -/
def satInc (cap v : Nat) : Nat := if v < cap then v + 1 else cap

/-- The largest 32-bit count. -/
abbrev max32 : Nat := 0xFFFFFFFF

/-- The `n` low bytes of `v`, least significant first (R5). -/
def leBytes : Nat → Nat → List Byte
  | 0, _ => []
  | n + 1, v => BitVec.ofNat 8 (v % 256) :: leBytes n (v / 256)

/-- The value of bytes in little-endian order (R5). -/
def leVal : List Byte → Nat
  | [] => 0
  | b :: bs => b.toNat + 256 * leVal bs

/-- The value of bytes in big-endian order (R286, R372). -/
def beVal (bs : List Byte) : Nat := leVal bs.reverse

/-- The `n` low bytes of `v`, most significant first (R372). -/
def beBytes (n v : Nat) : List Byte := (leBytes n v).reverse

/-- `n` zero bytes. -/
def zeros (n : Nat) : List Byte := List.replicate n 0

/-- The little-endian field of `n` bytes at offset `off` of a structure (R5). -/
def fieldAt (bs : List Byte) (off n : Nat) : Nat := leVal ((bs.drop off).take n)

/-- The two's-complement value of the `n`-bit pattern `v`. -/
def toSigned (n v : Nat) : Int :=
  if v % 2 ^ n < 2 ^ (n - 1) then Int.ofNat (v % 2 ^ n) else Int.ofNat (v % 2 ^ n) - Int.ofNat (2 ^ n)

/-- The `n`-bit two's-complement pattern of `i`. -/
def ofSigned (n : Nat) (i : Int) : Nat := (i % Int.ofNat (2 ^ n)).toNat

/-- `v` rounded up to a multiple of `k`. -/
def roundUp (v k : Nat) : Nat := (v + k - 1) / k * k

/-- What a pair of registers holds whose low field stands at bit `k` and whose high register counts in 2^32. -/
def addr64 (k lo hi : Nat) : Nat := 2 ^ k * lo + 2 ^ 32 * hi

/-- The quotient `v / k` rounded up. -/
def ceilDiv (v k : Nat) : Nat := (v + k - 1) / k

/-- `v` held between `lo` and `hi`: "values outside take effect as the nearer bound". -/
def clampNat (lo hi v : Nat) : Nat := if v < lo then lo else if hi < v then hi else v

/-- `i` held between `lo` and `hi`. -/
def clampInt (lo hi i : Int) : Int := if i < lo then lo else if hi < i then hi else i

/-- The element at `i`, or `d` past the end. -/
def nth {α : Type} (l : List α) (i : Nat) (d : α) : α := l.getD i d

/-- The list with element `i` replaced by `f` of it. -/
def modAt {α : Type} (l : List α) (i : Nat) (f : α → α) : List α := l.modify i f

/-- The first `some` of a list of options. -/
def firstSome {α β : Type} (f : α → Option β) : List α → Option β
  | [] => none
  | x :: xs => (f x).orElse fun _ => firstSome f xs

/-- Whether no element of the list comes twice. -/
def allDistinct {α : Type} [BEq α] : List α → Bool
  | [] => true
  | x :: xs => !xs.contains x && allDistinct xs

/-- Insertion before the first element that does not come before it in the order `lt`. -/
def insertBy {α : Type} (lt : α → α → Bool) (x : α) : List α → List α
  | [] => [x]
  | y :: ys => if lt y x then y :: insertBy lt x ys else x :: y :: ys

/-- Stable sort by insertion: equal elements keep their order. -/
def sortBy {α : Type} (lt : α → α → Bool) (l : List α) : List α := l.foldr (insertBy lt) []

/-- Bytes whose index is a multiple of `k`, in pieces of `k`. -/
def chunksOf {α : Type} (k : Nat) : Nat → List α → List (List α)
  | 0, _ => []
  | _, [] => []
  | n + 1, l => l.take k :: chunksOf k n (l.drop k)

end Sys2Proof.Machine
end

