-- ==== Sys2Proof/Machine/Hash.lean ====
section
/-! DEFINITION. SHA-256 (R53 to R55) and SHA-384 (R353, R372) over byte lists, and the Philox draws of R51. -/

namespace Sys2Proof.Machine

/-- The 80 round constants of SHA-384 (R353, FIPS 180-4); the upper halves of the first 64 are those of SHA-256. -/
def shaK : List Nat :=
  [0x428A2F98D728AE22, 0x7137449123EF65CD, 0xB5C0FBCFEC4D3B2F, 0xE9B5DBA58189DBBC, 0x3956C25BF348B538, 0x59F111F1B605D019, 0x923F82A4AF194F9B, 0xAB1C5ED5DA6D8118] ++
  [0xD807AA98A3030242, 0x12835B0145706FBE, 0x243185BE4EE4B28C, 0x550C7DC3D5FFB4E2, 0x72BE5D74F27B896F, 0x80DEB1FE3B1696B1, 0x9BDC06A725C71235, 0xC19BF174CF692694] ++
  [0xE49B69C19EF14AD2, 0xEFBE4786384F25E3, 0xFC19DC68B8CD5B5, 0x240CA1CC77AC9C65, 0x2DE92C6F592B0275, 0x4A7484AA6EA6E483, 0x5CB0A9DCBD41FBD4, 0x76F988DA831153B5] ++
  [0x983E5152EE66DFAB, 0xA831C66D2DB43210, 0xB00327C898FB213F, 0xBF597FC7BEEF0EE4, 0xC6E00BF33DA88FC2, 0xD5A79147930AA725, 0x6CA6351E003826F, 0x142929670A0E6E70] ++
  [0x27B70A8546D22FFC, 0x2E1B21385C26C926, 0x4D2C6DFC5AC42AED, 0x53380D139D95B3DF, 0x650A73548BAF63DE, 0x766A0ABB3C77B2A8, 0x81C2C92E47EDAEE6, 0x92722C851482353B] ++
  [0xA2BFE8A14CF10364, 0xA81A664BBC423001, 0xC24B8B70D0F89791, 0xC76C51A30654BE30, 0xD192E819D6EF5218, 0xD69906245565A910, 0xF40E35855771202A, 0x106AA07032BBD1B8] ++
  [0x19A4C116B8D2D0C8, 0x1E376C085141AB53, 0x2748774CDF8EEB99, 0x34B0BCB5E19B48A8, 0x391C0CB3C5C95A63, 0x4ED8AA4AE3418ACB, 0x5B9CCA4F7763E373, 0x682E6FF3D6B2B8A3] ++
  [0x748F82EE5DEFB2FC, 0x78A5636F43172F60, 0x84C87814A1F0AB72, 0x8CC702081A6439EC, 0x90BEFFFA23631E28, 0xA4506CEBDE82BDE9, 0xBEF9A3F7B2C67915, 0xC67178F2E372532B] ++
  [0xCA273ECEEA26619C, 0xD186B8C721C0C207, 0xEADA7DD6CDE0EB1E, 0xF57D4F7FEE6ED178, 0x6F067AA72176FBA, 0xA637DC5A2C898A6, 0x113F9804BEF90DAE, 0x1B710B35131C471B] ++
  [0x28DB77F523047D84, 0x32CAAB7B40C72493, 0x3C9EBE0A15C9BEBC, 0x431D67C49C100D4C, 0x4CC5D4BECB3E42B6, 0x597F299CFC657E2A, 0x5FCB6FAB3AD6FAEC, 0x6C44198C4A475817]

/-- The initial hash value of SHA-256. -/
def sha256Init : List Nat :=
  [0x6A09E667, 0xBB67AE85, 0x3C6EF372, 0xA54FF53A, 0x510E527F, 0x9B05688C, 0x1F83D9AB, 0x5BE0CD19]

/-- The initial hash value of SHA-384. -/
def sha384Init : List Nat :=
  [0xCBBB9D5DC1059ED8, 0x629A292A367CD507, 0x9159015A3070DD17, 0x152FECD8F70E5939, 0x67332667FFC00B31, 0x8EB44A8768581511, 0xDB0C2E0D64F98FA7, 0x47B5481DBEFA4FA4]

/-- What differs between the two hash functions: word width, rounds, rotation amounts. -/
structure ShaSpec where
  w : Nat
  rounds : Nat
  s0 : Nat × Nat × Nat
  s1 : Nat × Nat × Nat
  e0 : Nat × Nat × Nat
  e1 : Nat × Nat × Nat
  deriving DecidableEq, Repr

/-- SHA-256. -/
def sha256Spec : ShaSpec := ⟨32, 64, (7, 18, 3), (17, 19, 10), (2, 13, 22), (6, 11, 25)⟩
/-- SHA-384. -/
def sha384Spec : ShaSpec := ⟨64, 80, (1, 8, 7), (19, 61, 6), (28, 34, 39), (14, 18, 41)⟩

/-- Rotation right of a `w`-bit word. -/
def rotr (w n x : Nat) : Nat := x / 2 ^ n + x % 2 ^ n * 2 ^ (w - n)

/-- A sigma function of the message schedule: two rotations and a shift. -/
def shaSigma (w : Nat) (t : Nat × Nat × Nat) (x : Nat) : Nat :=
  Nat.xor (Nat.xor (rotr w t.1 x) (rotr w t.2.1 x)) (x / 2 ^ t.2.2)

/-- A sigma function of the rounds: three rotations. -/
def shaSum (w : Nat) (t : Nat × Nat × Nat) (x : Nat) : Nat :=
  Nat.xor (Nat.xor (rotr w t.1 x) (rotr w t.2.1 x)) (rotr w t.2.2 x)

/-- The message schedule, newest word first, `n` words more. -/
def shaSchedule (sp : ShaSpec) : Nat → List Nat → List Nat
  | 0, ws => ws
  | n + 1, ws =>
    let x := (shaSigma sp.w sp.s1 (ws.getD 1 0) + ws.getD 6 0 + shaSigma sp.w sp.s0 (ws.getD 14 0) + ws.getD 15 0) % 2 ^ sp.w
    shaSchedule sp n (x :: ws)

/-- One round over the eight working words. -/
def shaRound (sp : ShaSpec) (st : List Nat) (kw : Nat × Nat) : List Nat :=
  match st with
  | [a, b, c, d, e, f, g, h] =>
    let m := 2 ^ sp.w
    let ch := Nat.xor (Nat.land e f) (Nat.land (m - 1 - e) g)
    let maj := Nat.xor (Nat.xor (Nat.land a b) (Nat.land a c)) (Nat.land b c)
    let t1 := h + shaSum sp.w sp.e1 e + ch + kw.1 + kw.2
    let t2 := shaSum sp.w sp.e0 a + maj
    [(t1 + t2) % m, a, b, c, (d + t1) % m, e, f, g]
  | _ => st

/-- One block. -/
def shaBlock (sp : ShaSpec) (hs : List Nat) (blk : List Byte) : List Nat :=
  let n := sp.w / 8
  let ws := (chunksOf n 16 blk).map beVal
  let sched := (shaSchedule sp (sp.rounds - 16) ws.reverse).reverse
  let ks := (shaK.take sp.rounds).map fun k => k / 2 ^ (64 - sp.w)
  let out := (ks.zip sched).foldl (shaRound sp) hs
  (hs.zip out).map fun p => (p.1 + p.2) % 2 ^ sp.w

/-- The padding of a message of `len` bytes to whole blocks. -/
def shaPad (sp : ShaSpec) (len : Nat) : List Byte :=
  let n := sp.w * 2
  let lenBytes := sp.w / 4
  let z := (2 * n - (len + 1 + lenBytes) % n) % n
  [0x80] ++ zeros z ++ beBytes lenBytes (8 * len)

/-- The hash words of a message. -/
def shaWords (sp : ShaSpec) (init : List Nat) (msg : List Byte) : List Nat :=
  let p := msg ++ shaPad sp msg.length
  (chunksOf (sp.w * 2) (p.length / (sp.w * 2)) p).foldl (shaBlock sp) init

/-- SHA-256, 32 bytes in digest byte order. -/
def sha256 (msg : List Byte) : List Byte := (shaWords sha256Spec sha256Init msg).flatMap (beBytes 4)

/-- SHA-384, 48 bytes in digest byte order. -/
def sha384 (msg : List Byte) : List Byte := ((shaWords sha384Spec sha384Init msg).take 6).flatMap (beBytes 8)

/-- The counter words and key words of Philox4x32-10 during its rounds (R51). -/
structure PhiloxState where
  c0 : Nat
  c1 : Nat
  c2 : Nat
  c3 : Nat
  k0 : Nat
  k1 : Nat
  deriving DecidableEq, Repr

/-- One round of Philox4x32-10 (R51). -/
def philoxRound (s : PhiloxState) : PhiloxState :=
  let p0 := 0xD2511F53 * s.c0
  let p1 := 0xCD9E8D57 * s.c2
  { c0 := Nat.xor (Nat.xor (p1 / 2 ^ 32) s.c1) s.k0, c1 := p1 % 2 ^ 32,
    c2 := Nat.xor (Nat.xor (p0 / 2 ^ 32) s.c3) s.k1, c3 := p0 % 2 ^ 32,
    k0 := (s.k0 + 0x9E3779B9) % 2 ^ 32, k1 := (s.k1 + 0xBB67AE85) % 2 ^ 32 }

/-- `n` rounds. -/
def philoxRounds : Nat → PhiloxState → PhiloxState
  | 0, s => s
  | n + 1, s => philoxRounds n (philoxRound s)

/-- Word 0 of the draw for an element of a tensor (R51). -/
def philoxDraw (seed element ordinal purpose : Nat) : Nat :=
  (philoxRounds 10 { c0 := bitsAt element 0 32, c1 := bitsAt element 32 32, c2 := ordinal, c3 := purpose,
                     k0 := bitsAt seed 0 32, k1 := bitsAt seed 32 32 }).c0

end Sys2Proof.Machine
end

