-- ==== Sys2Proof/Machine/Crc.lean ====
section
/-! DEFINITION. The CRC-32 of ISO 3309: of flits (R341), of Ethernet frames (R263) and of rehearsal signatures (R141). -/

namespace Sys2Proof.Machine

/-- The generator polynomial of ISO 3309, bit-reversed. -/
abbrev crcPoly : BitVec 32 := 0xEDB88320

/-- One bit of the CRC register. -/
def crcBit (c : BitVec 32) : BitVec 32 := if c &&& 1 = 1 then (c >>> 1) ^^^ crcPoly else c >>> 1

/-- One byte of the CRC register, least significant bit first. -/
def crcByte (c : BitVec 32) (b : Byte) : BitVec 32 := (List.range 8).foldl (fun c _ => crcBit c) (c ^^^ b.setWidth 32)

/-- The CRC-32 of a list of bytes (ISO 3309): all ones to start with, complemented at the end. -/
def crc32 (bs : List Byte) : BitVec 32 := ~~~(bs.foldl crcByte 0xFFFFFFFF)

end Sys2Proof.Machine
end

