-- ==== Sys2Proof/Machine/Num.lean ====
section
/-! DEFINITION. Exact values, the one rounding of R75 to R77, and the binary32 operations of R78. -/

namespace Sys2Proof.Machine

/-- An exact value: a NaN, an infinity, or (−1)^neg × m × 2^e, a zero with its sign (R66). -/
inductive Num where
  | nan
  | inf (neg : Bool)
  | fin (neg : Bool) (m : Nat) (e : Int)
  deriving DecidableEq, Repr

/-- A floating-point format of R66: width in bits, significand bits with the hidden one, exponent of the
smallest subnormal, magnitude codes of the largest finite value and of infinity, canonical NaN. -/
structure FloatSpec where
  bits : Nat
  prec : Nat
  emin : Int
  maxCode : Nat
  infCode : Option Nat
  nanCode : Nat
  deriving DecidableEq, Repr

/-- FP32 (R66). -/
def fp32Spec : FloatSpec := ⟨32, 24, -149, 0x7F7FFFFF, some 0x7F800000, 0x7FC00000⟩
/-- FP16 (R66). -/
def fp16Spec : FloatSpec := ⟨16, 11, -24, 0x7BFF, some 0x7C00, 0x7E00⟩
/-- BF16 (R66). -/
def bf16Spec : FloatSpec := ⟨16, 8, -133, 0x7F7F, some 0x7F80, 0x7FC0⟩
/-- FP8 E4M3 (R66). -/
def e4m3Spec : FloatSpec := ⟨8, 4, -9, 0x7E, none, 0x7F⟩
/-- FP8 E5M2 (R66). -/
def e5m2Spec : FloatSpec := ⟨8, 3, -16, 0x7B, some 0x7C, 0x7E⟩
/-- E2M1, the element of an MXFP4 block (R66); it has no NaN. -/
def e2m1Spec : FloatSpec := ⟨4, 2, -1, 7, none, 0⟩

/-- The multiple of 2^q nearest m × 2^e, ties to even, as a count of 2^q (R75). -/
def rneAt (m : Nat) (e q : Int) : Nat :=
  if q ≤ e then m * 2 ^ (e - q).toNat
  else
    let d := 2 ^ (q - e).toNat
    let t := m / d
    let r := m % d
    if 2 * r < d then t else if d < 2 * r then t + 1 else t + t % 2

/-- The multiple of 2^q at or below m × 2^e, as a count of 2^q. -/
def floorAt (m : Nat) (e q : Int) : Nat :=
  if q ≤ e then m * 2 ^ (e - q).toNat else m / 2 ^ (q - e).toNat

/-- floor(log2 (m × 2^e)) for m > 0. -/
def ilog2 (m : Nat) (e : Int) : Int := Int.ofNat (Nat.log2 m) + e

/-- The exponent of the spacing of the format's values around m × 2^e, the exponent range without upper limit (R75). -/
def quantumOf (f : FloatSpec) (m : Nat) (e : Int) : Int :=
  let q := ilog2 m e - (Int.ofNat f.prec - 1)
  if q < f.emin then f.emin else q

/-- The magnitude code of `c` multiples of 2^q; the codes of R66 are linear in this way. -/
def magCode (f : FloatSpec) (q : Int) (c : Nat) : Nat := (q - f.emin).toNat * 2 ^ (f.prec - 1) + c

/-- A code with its sign bit (R66). -/
def signCode (f : FloatSpec) (neg : Bool) (mag : Nat) : Nat := if neg then 2 ^ (f.bits - 1) + mag else mag

/-- The magnitude code nearest m × 2^e, without upper limit (R75). -/
def rneCode (f : FloatSpec) (m : Nat) (e : Int) : Nat :=
  if m = 0 then 0 else let q := quantumOf f m e; magCode f q (rneAt m e q)

/-- The magnitude code chosen by stochastic rounding with draw `r` (R50). -/
def srCode (f : FloatSpec) (r : Nat) (m : Nat) (e : Int) : Nat :=
  if m = 0 then 0
  else
    let q := quantumOf f m e
    if q ≤ e then magCode f q (rneAt m e q)
    else
      let d := 2 ^ (q - e).toNat
      let a := m / d
      let frac := m % d * 2 ^ 32 / d
      magCode f q (if 2 ^ 32 ≤ frac + r then a + 1 else a)

/-- Whether m × 2^e is above the value of magnitude code `c`. -/
def aboveCode (f : FloatSpec) (c : Nat) (m : Nat) (e : Int) : Bool :=
  if m = 0 then false
  else
    let q := quantumOf f m e
    let fl := magCode f q (floorAt m e q)
    decide (c < fl) || (fl == c && decide (q > e) && m % 2 ^ (q - e).toNat != 0)

/-- Conversion of an exact value into a floating-point format (R75 to R77, R50): the code, and whether SATURATED is set.
`sr` is the draw of a stochastic node. -/
def encFloat (f : FloatSpec) (sr : Option Nat) : Num → Nat × Bool
  | .nan => (f.nanCode, false)
  | .inf neg =>
    match f.infCode with
    | some c => (signCode f neg c, false)
    | none => (signCode f neg f.maxCode, true)
  | .fin neg m e =>
    let c := match sr with
      | none => rneCode f m e
      | some r => if aboveCode f f.maxCode m e then rneCode f m e else srCode f r m e
    if c ≤ f.maxCode then (signCode f neg c, false)
    else match f.infCode with
      | some i => (signCode f neg i, false)
      | none => (signCode f neg f.maxCode, true)

/-- The value of a code of a floating-point format (R66, R68). -/
def decFloat (f : FloatSpec) (code : Nat) : Num :=
  let mag := code % 2 ^ (f.bits - 1)
  let neg := bitOf code (f.bits - 1)
  if mag ≤ f.maxCode then
    let ex := mag / 2 ^ (f.prec - 1)
    let fr := mag % 2 ^ (f.prec - 1)
    if ex = 0 then .fin neg fr f.emin else .fin neg (2 ^ (f.prec - 1) + fr) (f.emin + Int.ofNat ex - 1)
  else if f.infCode = some mag then .inf neg else .nan

/-- Conversion into a two's-complement integer format of `n` bits (R76, R77): the pattern, and whether SATURATED is set. -/
def encInt (n : Nat) (sr : Option Nat) : Num → Nat × Bool
  | .nan => (0, true)
  | .inf neg => (if neg then 2 ^ (n - 1) else 2 ^ (n - 1) - 1, true)
  | .fin neg m e =>
    let top := if neg then 2 ^ (n - 1) else 2 ^ (n - 1) - 1
    let fl := floorAt m e 0
    let d := 2 ^ (-e).toNat
    let exact := decide (0 ≤ e) || m % d == 0
    let v := match sr with
      | some r =>
        if exact || decide (top < fl) || (fl == top && !exact) then rneAt m e 0
        else if 2 ^ 32 ≤ m % d * 2 ^ 32 / d + r then fl + 1 else fl
      | none => rneAt m e 0
    let w := if v ≤ top then v else top
    (if neg then (2 ^ n - w) % 2 ^ n else w, decide (top < v))

/-- The value of an `n`-bit two's-complement pattern (R65). -/
def decInt (n v : Nat) : Num :=
  let w := v % 2 ^ n
  if w < 2 ^ (n - 1) then .fin false w 0 else .fin true (2 ^ n - w) 0

/-- A signed integer as an exact value. -/
def numInt (i : Int) : Num := .fin (decide (i < 0)) i.natAbs 0

/-- The count of 2^q in a finite value, q at or below its exponent. -/
def scaledInt (neg : Bool) (m : Nat) (e q : Int) : Int :=
  let v := Int.ofNat (m * 2 ^ (e - q).toNat)
  if neg then -v else v

/-- The smaller of two integers. -/
def minInt (a b : Int) : Int := if a ≤ b then a else b

/-- The exact sum, with the signed zeros of IEEE 754 in round-to-nearest. -/
def numAdd : Num → Num → Num
  | .nan, _ => .nan
  | _, .nan => .nan
  | .inf a, .inf b => if a == b then .inf a else .nan
  | .inf a, .fin _ _ _ => .inf a
  | .fin _ _ _, .inf b => .inf b
  | .fin na ma ea, .fin nb mb eb =>
    let q := minInt ea eb
    let v := scaledInt na ma ea q + scaledInt nb mb eb q
    if v = 0 then .fin (na && nb) 0 0 else .fin (decide (v < 0)) v.natAbs q

/-- The exact product. -/
def numMul : Num → Num → Num
  | .nan, _ => .nan
  | _, .nan => .nan
  | .inf a, .inf b => .inf (a != b)
  | .inf a, .fin nb mb _ => if mb = 0 then .nan else .inf (a != nb)
  | .fin na ma _, .inf b => if ma = 0 then .nan else .inf (na != b)
  | .fin na ma ea, .fin nb mb eb => .fin (na != nb) (ma * mb) (ea + eb)

/-- The value with its sign inverted. -/
def numNeg : Num → Num
  | .nan => .nan
  | .inf a => .inf (!a)
  | .fin a m e => .fin (!a) m e

/-- Whether the value is a NaN. -/
def numIsNan : Num → Bool
  | .nan => true
  | _ => false

/-- Whether the value is a zero of either sign. -/
def numIsZero : Num → Bool
  | .fin _ m _ => m == 0
  | _ => false

/-- Whether the value is below zero. -/
def numIsNeg : Num → Bool
  | .nan => false
  | .inf a => a
  | .fin a m _ => a && m != 0

/-- a < b in value; false where either is a NaN; the zeros are equal. -/
def numLt : Num → Num → Bool
  | .nan, _ => false
  | _, .nan => false
  | .inf a, .inf b => a && !b
  | .inf a, .fin _ _ _ => a
  | .fin _ _ _, .inf b => !b
  | .fin na ma ea, .fin nb mb eb =>
    let q := minInt ea eb
    decide (scaledInt na ma ea q < scaledInt nb mb eb q)

/-- The value of an FP32 pattern. -/
def f32Num (x : F32) : Num := decFloat fp32Spec x.toNat

/-- One rounding into FP32, round-to-nearest-even, NaN canonical (R75, R78). -/
def numF32 (x : Num) : F32 := BitVec.ofNat 32 (encFloat fp32Spec none x).1

/-- +0.0 -/
abbrev f32Zero : F32 := 0
/-- The canonical NaN of FP32 (R66). -/
abbrev f32NaN : F32 := 0x7FC00000
/-- +Inf -/
abbrev f32PosInf : F32 := 0x7F800000
/-- −Inf -/
abbrev f32NegInf : F32 := 0xFF800000
/-- 1.0 -/
abbrev f32One : F32 := 0x3F800000
/-- The FP32 value nearest log2(e) (R103). -/
abbrev f32Log2e : F32 := 0x3FB8AA3B

/-- Binary32 addition (R78). -/
def f32Add (a b : F32) : F32 := numF32 (numAdd (f32Num a) (f32Num b))
/-- Binary32 subtraction (R78). -/
def f32Sub (a b : F32) : F32 := numF32 (numAdd (f32Num a) (numNeg (f32Num b)))
/-- Binary32 multiplication (R78). -/
def f32Mul (a b : F32) : F32 := numF32 (numMul (f32Num a) (f32Num b))

/-- The quotient of magnitudes ma / mb (mb > 0) as a value with a last bit that is set when the division is not exact:
enough bits that one rounding of it is one rounding of the exact quotient. -/
def quotBits (ma mb : Nat) : Nat × Int :=
  let k := 80 + Nat.log2 mb
  let q := ma * 2 ^ k / mb
  let r := ma * 2 ^ k % mb
  (2 * q + (if r = 0 then 0 else 1), -(Int.ofNat k) - 1)

/-- The quotient under IEEE 754, its finite inexact results carrying the last bit of `quotBits`. -/
def numDiv : Num → Num → Num
  | .nan, _ => .nan
  | _, .nan => .nan
  | .inf _, .inf _ => .nan
  | .inf a, .fin nb _ _ => .inf (a != nb)
  | .fin na _ _, .inf b => .fin (na != b) 0 0
  | .fin na ma ea, .fin nb mb eb =>
    if mb = 0 then (if ma = 0 then .nan else .inf (na != nb))
    else if ma = 0 then .fin (na != nb) 0 0
    else let q := quotBits ma mb; .fin (na != nb) q.1 (ea - eb + q.2)

/-- Binary32 division, round-to-nearest-even (R103). -/
def f32Div (a b : F32) : F32 := numF32 (numDiv (f32Num a) (f32Num b))

/-- The integer square root of `v`, found from bit `n`−1 down: `r` is what is found so far. -/
def isqrtFrom (v : Nat) : Nat → Nat → Nat
  | 0, r => r
  | n + 1, r => isqrtFrom v n (if (r + 2 ^ n) * (r + 2 ^ n) ≤ v then r + 2 ^ n else r)

/-- The integer square root of a number below 2^128. -/
def isqrt (v : Nat) : Nat := isqrtFrom v 64 0

/-- The square root under IEEE 754, an inexact result carrying a set last bit (R103). -/
def numSqrt : Num → Num
  | .nan => .nan
  | .inf neg => if neg then .nan else .inf false
  | .fin neg m e =>
    if m = 0 then .fin neg 0 0
    else if neg then .nan
    else
      let h := e % 2
      let v := m * 2 ^ h.toNat * 2 ^ 80
      let s := isqrt v
      .fin false (2 * s + (if s * s = v then 0 else 1)) ((e - h) / 2 - 41)

/-- Binary32 square root (R103). -/
def f32Sqrt (a : F32) : F32 := numF32 (numSqrt (f32Num a))

/-- Whether an FP32 pattern is a NaN. -/
def f32IsNan (a : F32) : Bool := numIsNan (f32Num a)

/-- a < b in value; false on NaN. -/
def f32Lt (a b : F32) : Bool := numLt (f32Num a) (f32Num b)

/-- a = b in value: the zeros are equal, a NaN equals nothing. -/
def f32Eq (a b : F32) : Bool := !f32IsNan a && !f32IsNan b && !f32Lt a b && !f32Lt b a

/-- a ≤ b in value; false on NaN. -/
def f32Le (a b : F32) : Bool := f32Lt a b || f32Eq a b

/-- MAX of R103. -/
def f32Max (a b : F32) : F32 :=
  if f32IsNan a || f32IsNan b then f32NaN
  else if f32Lt a b then b else if f32Lt b a then a
  else a &&& b

/-- MIN of R103. -/
def f32Min (a b : F32) : F32 :=
  if f32IsNan a || f32IsNan b then f32NaN
  else if f32Lt a b then a else if f32Lt b a then b
  else a ||| b

/-- ABS of R103. -/
def f32Abs (a : F32) : F32 := if f32IsNan a then f32NaN else a &&& 0x7FFFFFFF

/-- NEG of R103. -/
def f32Neg (a : F32) : F32 := if f32IsNan a then f32NaN else a ^^^ 0x80000000

/-- An unsigned or signed integer rounded to FP32 (R75). -/
def f32Int (i : Int) : F32 := numF32 (numInt i)

/-- The integer nearest a finite value, ties to even (R75). -/
def numRint : Num → Int
  | .fin neg m e => let v := Int.ofNat (rneAt m e 0); if neg then -v else v
  | _ => 0

/-- The value times 2^k. -/
def numScale (k : Int) : Num → Num
  | .fin neg m e => .fin neg m (e + k)
  | x => x

/-- The smallest power-of-two tree that holds the list, level by level: adjacent pairs are added, a last one without a
neighbour is added to the padding term (R48). `n` bounds the levels. -/
def pairUp {α : Type} (add : α → α → α) (z : α) : List α → List α
  | [] => []
  | [a] => [add a z]
  | a :: b :: t => add a b :: pairUp add z t

/-- The levels of the canonical tree (R48). -/
def treeLevels {α : Type} (add : α → α → α) (z : α) : Nat → List α → α
  | _, [] => z
  | _, [a] => a
  | 0, a :: _ :: _ => a
  | n + 1, a :: b :: t => treeLevels add z n (pairUp add z (a :: b :: t))

/-- The canonical tree over terms in index order (R48): no terms give the padding term. -/
def canonTree {α : Type} (add : α → α → α) (z : α) (l : List α) : α := treeLevels add z (Nat.log2 l.length + 1) l

/-- The canonical sum of FP32 terms (R48). -/
def canonSum (l : List F32) : F32 := canonTree f32Add f32Zero l

/-- One saturating INT32 addition, with the mark of a saturation anywhere below it (R47). -/
def satAdd32 (a b : Int × Bool) : Int × Bool :=
  let v := a.1 + b.1
  let w := clampInt (-2147483648) 2147483647 v
  (w, a.2 || b.2 || decide (w ≠ v))

/-- The saturating INT32 canonical tree (R47, R48): the sum, and whether a node saturated. -/
def canonSumInt (l : List Int) : Int × Bool := canonTree satAdd32 (0, false) (l.map fun i => (i, false))

end Sys2Proof.Machine
end

