-- ==== Sys2Proof/Machine/Formats.lean ====
section
/-! DEFINITION. The ten number formats of R62: their units in memory, the values of the units, and the conversion of
results into them. A unit is an element, or a whole block of MXFP4 or LV4 (R121). -/

namespace Sys2Proof.Machine

/-- The format codes of R62. -/
inductive Fmt where
  | int4
  | int8
  | mxfp4
  | e4m3
  | e5m2
  | bf16
  | fp16
  | fp32
  | int32
  | lv4
  deriving DecidableEq, Repr

/-- The format a 4-bit code names; codes 0xA to 0xF are reserved (R62). -/
def fmtOfCode : Nat → Option Fmt
  | 0 => some .int4
  | 1 => some .int8
  | 2 => some .mxfp4
  | 3 => some .e4m3
  | 4 => some .e5m2
  | 5 => some .bf16
  | 6 => some .fp16
  | 7 => some .fp32
  | 8 => some .int32
  | 9 => some .lv4
  | _ => none

/-- The code of a format (R62). -/
def fmtCode : Fmt → Nat
  | .int4 => 0
  | .int8 => 1
  | .mxfp4 => 2
  | .e4m3 => 3
  | .e5m2 => 4
  | .bf16 => 5
  | .fp16 => 6
  | .fp32 => 7
  | .int32 => 8
  | .lv4 => 9

/-- The bytes of a unit: an element, a block, or the byte that holds two INT4 elements (R62). -/
def fmtBytes : Fmt → Nat
  | .int4 => 1
  | .int8 => 1
  | .mxfp4 => 17
  | .e4m3 => 1
  | .e5m2 => 1
  | .bf16 => 2
  | .fp16 => 2
  | .fp32 => 4
  | .int32 => 4
  | .lv4 => 18

/-- The block formats (R69, R71). -/
def fmtIsBlock (f : Fmt) : Bool := f == .mxfp4 || f == .lv4

/-- The formats whose innermost dimension is packed (R63). -/
def fmtIsPacked (f : Fmt) : Bool := f == .int4 || fmtIsBlock f

/-- The integer formats (R65). -/
def fmtIsInt (f : Fmt) : Bool := f == .int4 || f == .int8 || f == .int32

/-- The alignment of base address and strides (R64). -/
def fmtAlign : Fmt → Nat
  | .bf16 => 2
  | .fp16 => 2
  | .fp32 => 4
  | .int32 => 4
  | _ => 1

/-- The packed size of a row of `d` elements, or its dense size (R63). -/
def rowBytes (f : Fmt) (d : Nat) : Nat :=
  match f with
  | .int4 => ceilDiv d 2
  | .mxfp4 => 17 * ceilDiv d 32
  | .lv4 => 18 * ceilDiv d 32
  | f => d * fmtBytes f

/-- The units of a row of `d` elements. -/
def rowUnits (f : Fmt) (d : Nat) : Nat := if fmtIsBlock f then ceilDiv d 32 else d

/-- The elements in unit `u` of a row of `d` elements. -/
def unitElems (f : Fmt) (d u : Nat) : Nat := if fmtIsBlock f then min 32 (d - 32 * u) else 1

/-- The specification of a floating-point element format. -/
def fmtSpec : Fmt → FloatSpec
  | .e4m3 => e4m3Spec
  | .e5m2 => e5m2Spec
  | .bf16 => bf16Spec
  | .fp16 => fp16Spec
  | _ => fp32Spec

/-- The bytes before the codes of a block: scale, or scale and offset (R69, R71). -/
def blockHead (f : Fmt) : Nat := if f == .lv4 then 2 else 1

/-- A block, as a little-endian number, with the codes past its first `used` elements set to 0x0 (R63). -/
def maskBlock (f : Fmt) (used : Nat) (blk : Nat) : Nat :=
  if fmtIsBlock f then blk % 2 ^ (8 * blockHead f + 4 * used) else blk

/-- Code `i` of a block (R69, R71). -/
def blockCode (f : Fmt) (blk i : Nat) : Nat := bitsAt blk (8 * blockHead f + 4 * i) 4

/-- n of an LV4 code with offset byte `o`: 128 × T[c] + o (R72). -/
def lv4N (c o : Nat) : Int :=
  let t := Int.ofNat (2 ^ (c % 8))
  (if c < 8 then t else -t) + toSigned 8 o

/-- Element `i` of a block (R69, R71, R72). -/
def blockElem (f : Fmt) (blk i : Nat) : Num :=
  let s := bitsAt blk 0 8
  if s = 255 then .nan
  else if f == .lv4 then numScale (Int.ofNat s - 134) (numInt (lv4N (blockCode f blk i) (bitsAt blk 8 8)))
  else numScale (Int.ofNat s - 127) (decFloat e2m1Spec (blockCode f blk i))

/-- The value of a unit that is one element (R65, R66). -/
def elemNum (f : Fmt) (code : Nat) : Num :=
  match f with
  | .int4 => decInt 4 code
  | .int8 => decInt 8 code
  | .int32 => decInt 32 code
  | f => decFloat (fmtSpec f) code

/-- The values of a row of `d` elements from its units. -/
def rowNums (f : Fmt) (d : Nat) (units : List Nat) : List Num :=
  if fmtIsBlock f then
    (units.zipIdx.flatMap fun p => (List.range (unitElems f d p.2)).map (blockElem f p.1))
  else units.map (elemNum f)

/-- Step 4 of R70: the E2M1 code nearest x / 2^q, clamped to ±6. -/
def mxCode (q : Int) (x : F32) : Nat := (encFloat e2m1Spec none (numScale (-q) (f32Num x))).1

/-- The largest of a list of FP32 magnitudes, in value; +0.0 of none. -/
def maxAbs (xs : List F32) : F32 := xs.foldl (fun a x => if f32Lt a (x &&& 0x7FFFFFFF) then x &&& 0x7FFFFFFF else a) f32Zero

/-- Whether a value is a NaN or infinite. -/
def f32Special (x : F32) : Bool := bitsAt x.toNat 23 8 == 255

/-- floor(log2 x) of a finite value above zero. -/
def f32Ilog2 (x : F32) : Int :=
  match f32Num x with
  | .fin _ m e => ilog2 m e
  | _ => 0

/-- The number whose base-16 digits are the list, digit 0 first. -/
def ofNibbles : List Nat → Nat
  | [] => 0
  | d :: ds => d % 16 + 16 * ofNibbles ds

/-- An MXFP4 block, as a little-endian number, of up to 32 FP32 values; missing ones get code 0x0 (R70). -/
def encMx (xs : List F32) : Nat :=
  if xs.any f32Special then 255
  else
    let a := maxAbs xs
    if a = f32Zero then 127 + 256 * ofNibbles (xs.map fun x => if x = f32Zero then 0 else 8)
    else
      let q := clampInt (-127) 127 (f32Ilog2 a - 2)
      (q + 127).toNat + 256 * ofNibbles (xs.map (mxCode q))

/-- The entries of the LV4 table in the order in which R73 breaks ties: smaller magnitude first, code 0x0 before 0x8. -/
def lv4Order : List Nat := [0, 8, 1, 9, 2, 10, 3, 11, 4, 12, 5, 13, 6, 14, 7, 15]

/-- Step 5 of R73: the code whose entry is nearest y = x / 2^e − o / 128. All is counted in units of 2^k, k at or below
the exponents of both terms. -/
def lv4Code (e : Int) (o : Int) (x : F32) : Nat :=
  match f32Num x with
  | .fin neg m ex =>
    let k := minInt (ex - e) (-7)
    let unit := Int.ofNat (2 ^ (-7 - k).toNat)
    let y := scaledInt neg m (ex - e) k - o * unit
    let dist := fun c => (y - lv4N c 0 * unit).natAbs
    lv4Order.foldl (fun b c => if dist c < dist b then c else b) 0
  | _ => 0

/-- Step 4 of R73: the offset from the canonical sum of the block. -/
def lv4Offset (e : Int) (u : F32) : Int :=
  match f32Num u with
  | .nan => 0
  | .inf neg => if neg then -128 else 127
  | .fin neg m ex => clampInt (-128) 127 (numRint (.fin neg m (ex + 2 - e)))

/-- An LV4 block, as a little-endian number, of up to 32 FP32 values; missing ones count as +0.0 and get code 0x0 (R73, R63). -/
def encLv (xs : List F32) : Nat :=
  if xs.any f32Special then 255
  else
    let a := maxAbs xs
    if a = f32Zero then 0xFF00
    else
      let e := clampInt (-127) 127 (f32Ilog2 a + 1)
      let o := lv4Offset e (canonSum (xs ++ List.replicate (32 - xs.length) f32Zero))
      (e + 127).toNat + 256 * ofSigned 8 o + 65536 * ofNibbles (xs.map (lv4Code e o))

/-- Conversion of one value into a format whose units are elements (R75 to R77): the code and the SATURATED mark. -/
def encElem (f : Fmt) (sr : Option Nat) (x : Num) : Nat × Bool :=
  match f with
  | .int4 => encInt 4 sr x
  | .int8 => encInt 8 sr x
  | .int32 => encInt 32 sr x
  | .fp32 => encFloat fp32Spec none x
  | f => encFloat (fmtSpec f) sr x

/-- Conversion of a row into units (R75 to R77, R70, R73); `sr` gives the draw of element `j` of the row for a
stochastic node. -/
def encRow (f : Fmt) (sr : Option (Nat → Nat)) (xs : List F32) : List Nat × Bool :=
  match f with
  | .mxfp4 => ((chunksOf 32 (ceilDiv xs.length 32) xs).map encMx, false)
  | .lv4 => ((chunksOf 32 (ceilDiv xs.length 32) xs).map encLv, false)
  | f =>
    let us := xs.zipIdx.map fun p => encElem f (sr.map fun g => g p.2) (f32Num p.1)
    (us.map (·.1), us.any (·.2))

/-- The bytes of a row's units as memory holds them (R63). -/
def packRow (f : Fmt) (units : List Nat) : List Byte :=
  match f with
  | .int4 => (chunksOf 2 (ceilDiv units.length 2) units).map fun p => BitVec.ofNat 8 (ofNibbles p)
  | f => units.flatMap (leBytes (fmtBytes f))

/-- The units of a packed row of `d` elements from its bytes as they stand in memory (R121). -/
def unpackRaw (f : Fmt) (d : Nat) (bs : List Byte) : List Nat :=
  match f with
  | .int4 => (bs.flatMap fun b => [b.toNat % 16, b.toNat / 16]).take d
  | f => (chunksOf (fmtBytes f) (rowUnits f d) bs).map leVal

/-- The units of a packed row of `d` elements from its bytes, unused positions as 0x0 (R63). -/
def unpackRow (f : Fmt) (d : Nat) (bs : List Byte) : List Nat :=
  (unpackRaw f d bs).zipIdx.map fun p => maskBlock f (unitElems f d p.2) p.1

/-- The unit that encodes +0.0 in a format (R112): 0, and for a block the encoding of 32 times +0.0. -/
def zeroUnit (f : Fmt) : Nat :=
  match f with
  | .mxfp4 => 127
  | .lv4 => 0xFF00
  | _ => 0

end Sys2Proof.Machine
end

