-- ==== Sys2Proof/Config.lean ====
section
/-! DEFINITION. What one implementation fixes and the values the specification leaves open: constants
without a body, of which nothing can be proved but that they are functions of their arguments. -/

namespace Sys2Proof

/-- The number, among `free` free numbers, of the room the realm steward takes for the `ctr`-th allocation (R174).
DESIGN CHOICE, safe: notes/assumptions/9. -/
opaque Config.roomPick (ctr free : Nat) : Nat

/-- Which, among `free` free slots of a place, the `ctr`-th choice of a slot takes (R172, R179, R188). Free.
DESIGN CHOICE, safe: notes/assumptions/9. -/
opaque Config.slotPick (ctr free : Nat) : Nat

/-- What UND_VERIFIED and UND_DONE read after an enable while no job has matched or completed: the specification gives no value (R374,
R376). Free, by the start index.
DESIGN CHOICE, safe: notes/assumptions/10. -/
opaque Config.undNone (start : Nat) : BitVec 64

/-- The core cycle count an ISLAND_MISMATCH carries where the mismatch is not found by a compare of bus outputs (R321, R338). Free.
DESIGN CHOICE, safe: notes/assumptions/11. -/
opaque Config.cycles (ctr : Nat) : BitVec 64

/-- Whether a checker core passes its self-test at a rejoin that no command reports (R323, R324). Free.
DESIGN CHOICE, safe: notes/assumptions/12. -/
opaque Config.rejoinPass (ctr : Nat) : Bool

/-- The signature of a quote: the 96 bytes of ECDSA P-384 over the quote with a key that never leaves the islands (R372). Free, by the
160 bytes signed and the free counter.
DESIGN CHOICE, safe: notes/assumptions/13. -/
opaque Config.quoteSignature (ctr : Nat) (body : List (BitVec 8)) : Vector (BitVec 8) 96

/-- The attestation certificate in DER form (R371): its bytes and its length, which the specification bounds by 2,048. Free.
DESIGN CHOICE, safe: notes/assumptions/13. -/
opaque Config.certificate : Vector (BitVec 8) 2048
opaque Config.certificateLen : Fin 2049

/-- The size of the post stream of a channel: 2 to the power of 16 plus this, within the sizes of a packet stream (R272, R285). The
specification gives no register for it.
DESIGN CHOICE, safe: notes/assumptions/14. -/
opaque Config.postLog2 (chan : Nat) : Fin 15

/-- A raw wheel speed or yaw rate where no sample has been admitted or a frame is too short for its offset (R293). Free.
DESIGN CHOICE, safe: notes/assumptions/15. -/
opaque Config.noRaw (ctr : Nat) : BitVec 16

/-- A displacement whose FP32 value is not finite or whose fixed-point value leaves 64 bits (R293). Free, by the value.
DESIGN CHOICE, safe: notes/assumptions/15. -/
opaque Config.egoFix (v : BitVec 32) : BitVec 64

/-- The oldest source time of an admission record that admits no sample (R296). Free, by the instant.
DESIGN CHOICE, safe: notes/assumptions/16. -/
opaque Config.noOldest (instant : Nat) : BitVec 64

/-- A pose where the rules give none: neither the ticks nor the POSE samples around the time are there, or the ego source is none
(R294, R297). Free, by the instant and the time.
DESIGN CHOICE, safe: notes/assumptions/16. -/
opaque Config.noPose (instant time : Nat) : BitVec 192

/-- An element of a VECTOR channel that the second sample of an interpolation or extrapolation lacks (R291). Free.
DESIGN CHOICE, safe: notes/assumptions/17. -/
opaque Config.noElement (instant chan elem : Nat) : BitVec 32

/-- The item count and the payload of the block of a POSE channel in a fused result record, which R297 does not give. Free, by the
admitted samples' payloads.
DESIGN CHOICE, safe: notes/assumptions/17. -/
opaque Config.poseItems (payloads : List (List (BitVec 8))) : BitVec 16
opaque Config.poseBlock (payloads : List (List (BitVec 8))) : List (BitVec 8)

/-- v and ω of a replay whose admission record this module has not made: the record does not carry them (R296, R299). Free.
DESIGN CHOICE, safe: notes/assumptions/18. -/
opaque Config.replayMotion (record : List (BitVec 8)) : BitVec 64

/-- The last out_time that STREAM_MISSING names for an output stream without a record yet (R312, R313). Free.
DESIGN CHOICE, safe: notes/assumptions/19. -/
opaque Config.noOutTime (out : Nat) : BitVec 64

/-- The start cell, heading and speed bin of a NO_PLAN record whose start was not formed, and the cost of a NO_PLAN record (R309). Free, by
the instant.
DESIGN CHOICE, safe: notes/assumptions/20. -/
opaque Config.noStart (instant : Nat) : BitVec 48
opaque Config.noCost (instant : Nat) : BitVec 64

/-- What the code makes of a codeword with more symbols in error than R160 and R163 speak of: 0 it detects the error, 1 it takes another codeword
for the one that was stored and reports a corrected symbol, 2 it sees no error; the symbol it then reports, and the 32 stored bytes
that it takes the codeword for. Free.
DESIGN CHOICE, safe: notes/assumptions/80. -/
opaque Config.wideOutcome (ctr : Nat) : Fin 3
opaque Config.wideSymbol (ctr : Nat) : Fin 72
opaque Config.wideWord (ctr : Nat) : Vector (BitVec 8) 32

/-- What TOPK and COMPARE write for an index that INT32 cannot hold (R114, R121). Free, by the index.
DESIGN CHOICE, safe: notes/assumptions/83. -/
opaque Config.wideIndex (index : Nat) : BitVec 32

/-- The 64 bytes of a realm's AES-256-XTS key, by the realm and the number of keys made for it, and of the module key (R169, R170). The
specification lets nothing read a key. Free.
DESIGN CHOICE, safe: notes/assumptions/81. -/
opaque Config.realmKey (realm gen : Nat) : Vector (BitVec 8) 64
opaque Config.moduleKey : Vector (BitVec 8) 64

/-- The bytes that a read through the host window gives where Bus Master Enable of the host's function is 0, and no DMA is made (R156,
R401). Free.
DESIGN CHOICE, safe: notes/assumptions/82. -/
opaque Config.noDma (ctr bus : Nat) : BitVec 8

/-- The golden operands of the rehearsal table (R141): the unit of an operand of a pass, which the specification does not give. Free, by the
pass, the operand (0 the rows, 1 the columns), the row or column, and the unit.
DESIGN CHOICE, safe: notes/assumptions/85. -/
opaque Config.goldenUnit (pass operand row unit : Nat) : BitVec 144

/-- A word that a fault which every check of R148 lets pass leaves in a tile's result, and whether three or more wrong bits of a stored word
show as a double-bit error, or else as a single-bit one (R148). Free.
DESIGN CHOICE, safe: notes/assumptions/86. -/
opaque Config.slippedWord (ctr index : Nat) : BitVec 33
opaque Config.manyBits (ctr index : Nat) : Bool

/-- What a debugger reads of a core's register or memory that it has not written while the core is halted, or of a die steward (R325). Free.
DESIGN CHOICE, safe: notes/assumptions/88. -/
opaque Config.coreWord (ctr word : Nat) : BitVec 64

/-- Whether a granule stays poisoned, and the bytes of memory, where a job that ends during its execution was to write: neither is given
(R39, R91). Free, by the free counter and the granule or the address.
DESIGN CHOICE, safe: notes/assumptions/78. -/
opaque Config.leftPoisoned (ctr granule : Nat) : Bool
opaque Config.leftByte (ctr addr : Nat) : BitVec 8

/-- Walks in flight and busy porter channels of a die while a job executes: not given (R191); log 33. -/
opaque Config.walksNow : Nat → Nat → Nat → Fin 65
/-- See `Config.walksNow`. -/
opaque Config.portersNow : Nat → Nat → Nat → BitVec 16

end Sys2Proof
end

