-- ==== Sys2Proof/Machine/RegTable.lean ====
section
/-! DEFINITION. The set-up register map (R402) as data: one row for each field of the manual's register
tables, with its place, access code and reset value (R7), the configuration bank of an RWS field
(R406), and a key name for each field. -/

namespace Sys2Proof.Machine

/-- The access codes of R7. -/
inductive Access where
  | ro
  | rw
  | rws
  | w1c
  | wo
  | rc
  deriving DecidableEq, Repr

/-- One field of the register tables: `addr` is its offset in the window (R402), repeated `n1` times every
`s1` bytes and, inside that, `n2` times every `s2` bytes; bits `[hi:lo]`; `bank` is its bit of R406, 7 for none. -/
structure FieldRow where
  addr : Nat
  s1 : Nat
  n1 : Nat
  s2 : Nat
  n2 : Nat
  hi : Nat
  lo : Nat
  acc : Access
  reset : Nat
  bank : Nat
  deriving DecidableEq, Repr

/-- Whether `off` is one of the row's offsets. -/
def rowHas (r : FieldRow) (off : Nat) : Bool :=
  decide (r.addr ≤ off) &&
    (let d := off - r.addr
     let i := d / r.s1
     let e := d % r.s1
     decide (i < r.n1) && decide (e % r.s2 = 0) && decide (e / r.s2 < r.n2))

/-- The key of a register field in the register file: the window offset (with the port above bit 15
for the blocks each port has of its own) and the field's lowest bit. -/
abbrev fieldKey (addr lo : Nat) : Nat := addr * 32 + lo

/-- The fields of block ENGINE (R153), in the order of the manual's table. -/
def rowsENGINE : List FieldRow :=
  [⟨0x2800, 0x100, 4, 4, 1, 11, 0, .ro, 0, 7⟩,
   ⟨0x2804, 0x100, 4, 4, 1, 11, 0, .rc, 0, 7⟩,
   ⟨0x2808, 0x100, 4, 4, 1, 10, 0, .rws, 256, 0⟩,
   ⟨0x280C, 0x100, 4, 4, 1, 6, 0, .rw, 64, 7⟩,
   ⟨0x2810, 0x100, 4, 4, 6, 31, 0, .ro, 0, 7⟩,
   ⟨0x2830, 0x100, 4, 4, 6, 31, 0, .ro, 0xffffffff, 7⟩,
   ⟨0x2848, 0x100, 4, 4, 1, 31, 0, .ro, 0, 7⟩,
   ⟨0x284C, 0x100, 4, 4, 1, 7, 0, .ro, 0, 7⟩,
   ⟨0x2850, 0x100, 4, 4, 1, 31, 0, .ro, 0, 7⟩,
   ⟨0x2854, 0x100, 4, 4, 1, 15, 0, .ro, 0, 7⟩]

/-- The fields of block MEMORY (R191), in the order of the manual's table. -/
def rowsMEMORY : List FieldRow :=
  [⟨0x2000, 0x4, 1, 4, 1, 8, 0, .rw, 24, 7⟩,
   ⟨0x2004, 0x4, 1, 4, 1, 31, 0, .ro, 0, 7⟩,
   ⟨0x2008, 0x4, 1, 4, 1, 9, 0, .ro, 0, 7⟩,
   ⟨0x200C, 0x4, 1, 4, 1, 31, 0, .rc, 0, 7⟩,
   ⟨0x2010, 0x4, 1, 4, 1, 31, 0, .rc, 0, 7⟩,
   ⟨0x2014, 0x4, 1, 4, 1, 31, 0, .ro, 0, 7⟩,
   ⟨0x2018, 0x4, 1, 4, 1, 31, 0, .ro, 0, 7⟩,
   ⟨0x2020, 0x4, 8, 4, 1, 7, 0, .ro, 0, 7⟩,
   ⟨0x2040, 0x4, 1, 4, 1, 3, 0, .ro, 0, 7⟩,
   ⟨0x2100, 0x20, 8, 4, 1, 9, 0, .rws, 0, 0⟩,
   ⟨0x2100, 0x20, 8, 4, 1, 19, 10, .rws, 0, 0⟩,
   ⟨0x2104, 0x20, 8, 4, 1, 12, 0, .rws, 0, 0⟩,
   ⟨0x2104, 0x20, 8, 4, 1, 25, 13, .rws, 0, 0⟩,
   ⟨0x2108, 0x20, 8, 4, 1, 6, 0, .rws, 16, 0⟩,
   ⟨0x2108, 0x20, 8, 4, 1, 8, 7, .rws, 0, 0⟩,
   ⟨0x210C, 0x20, 8, 4, 1, 31, 0, .ro, 0, 7⟩,
   ⟨0x2110, 0x20, 8, 4, 1, 31, 12, .rws, 0, 0⟩,
   ⟨0x2114, 0x20, 8, 4, 1, 31, 0, .rws, 0, 0⟩,
   ⟨0x2118, 0x20, 8, 4, 1, 31, 0, .ro, 0, 7⟩,
   ⟨0x211C, 0x20, 8, 4, 1, 31, 0, .ro, 0, 7⟩,
   ⟨0x2200, 0x10, 4, 4, 1, 31, 0, .rc, 0, 7⟩,
   ⟨0x2204, 0x10, 4, 4, 1, 31, 0, .rc, 0, 7⟩,
   ⟨0x2208, 0x10, 4, 4, 1, 6, 0, .ro, 0, 7⟩,
   ⟨0x220C, 0x10, 4, 4, 1, 15, 0, .ro, 0, 7⟩]

/-- The fields of block HOSTCFG (R220), in the order of the manual's table. -/
def rowsHOSTCFG : List FieldRow :=
  [⟨0x0000, 0x4, 1, 4, 1, 0, 0, .rw, 0, 7⟩,
   ⟨0x0004, 0x4, 1, 4, 1, 0, 0, .ro, 0, 7⟩,
   ⟨0x0004, 0x4, 1, 4, 1, 1, 1, .ro, 0, 7⟩,
   ⟨0x0004, 0x4, 1, 4, 1, 2, 2, .ro, 0, 7⟩,
   ⟨0x0008, 0x4, 1, 4, 1, 7, 0, .rw, 10, 7⟩,
   ⟨0x000C, 0x4, 1, 4, 1, 31, 0, .rc, 0, 7⟩,
   ⟨0x0010, 0x4, 1, 4, 1, 31, 0, .rc, 0, 7⟩,
   ⟨0x0018, 0x4, 1, 4, 1, 31, 7, .rw, 0, 7⟩,
   ⟨0x001C, 0x4, 1, 4, 1, 31, 0, .rw, 0, 7⟩,
   ⟨0x0020, 0x4, 1, 4, 1, 31, 6, .rw, 0, 7⟩,
   ⟨0x0024, 0x4, 1, 4, 1, 31, 0, .rw, 0, 7⟩,
   ⟨0x0028, 0x4, 1, 4, 1, 31, 5, .rw, 0, 7⟩,
   ⟨0x002C, 0x4, 1, 4, 1, 31, 0, .rw, 0, 7⟩,
   ⟨0x0030, 0x4, 1, 4, 1, 3, 0, .rw, 6, 7⟩,
   ⟨0x0030, 0x4, 1, 4, 1, 8, 8, .rw, 0, 7⟩,
   ⟨0x0100, 0x20, 8, 4, 1, 31, 7, .rw, 0, 7⟩,
   ⟨0x0104, 0x20, 8, 4, 1, 31, 0, .rw, 0, 7⟩,
   ⟨0x0108, 0x20, 8, 4, 1, 31, 5, .rw, 0, 7⟩,
   ⟨0x010C, 0x20, 8, 4, 1, 31, 0, .rw, 0, 7⟩,
   ⟨0x0110, 0x20, 8, 4, 1, 3, 0, .rw, 0, 7⟩,
   ⟨0x0110, 0x20, 8, 4, 1, 8, 8, .rw, 0, 7⟩,
   ⟨0x0114, 0x20, 8, 4, 1, 0, 0, .ro, 0, 7⟩,
   ⟨0x0114, 0x20, 8, 4, 1, 1, 1, .ro, 0, 7⟩,
   ⟨0x0114, 0x20, 8, 4, 1, 2, 2, .ro, 0, 7⟩,
   ⟨0x0114, 0x20, 8, 4, 1, 5, 3, .ro, 0, 7⟩,
   ⟨0x0114, 0x20, 8, 4, 1, 6, 6, .ro, 1, 7⟩]

/-- The fields of block JOBCFG (R250), in the order of the manual's table. -/
def rowsJOBCFG : List FieldRow :=
  [⟨0x1000, 0x4, 1, 4, 1, 11, 0, .rws, 512, 1⟩,
   ⟨0x1004, 0x4, 1, 4, 1, 12, 0, .ro, 0, 7⟩,
   ⟨0x1008, 0x4, 1, 4, 1, 12, 0, .rc, 0, 7⟩,
   ⟨0x1010, 0x10, 1, 4, 1, 0, 0, .rws, 1, 1⟩,
   ⟨0x1020, 0x10, 7, 4, 1, 0, 0, .rws, 0, 1⟩,
   ⟨0x1010, 0x10, 8, 4, 1, 2, 1, .rws, 0, 1⟩,
   ⟨0x1010, 0x10, 8, 4, 1, 5, 3, .rws, 0, 1⟩,
   ⟨0x1014, 0x10, 8, 4, 1, 12, 0, .rws, 0x1000, 1⟩,
   ⟨0x1018, 0x10, 8, 4, 1, 31, 0, .ro, 0, 7⟩,
   ⟨0x101C, 0x10, 8, 4, 1, 31, 0, .ro, 0, 7⟩,
   ⟨0x1100, 0x4, 1, 4, 1, 0, 0, .ro, 0, 7⟩,
   ⟨0x1100, 0x4, 1, 4, 1, 7, 1, .ro, 0, 7⟩,
   ⟨0x1104, 0x4, 1, 4, 1, 31, 0, .rc, 0, 7⟩,
   ⟨0x1108, 0x4, 1, 4, 1, 31, 0, .ro, 0, 7⟩]

/-- The fields of block TIMEBASE (R259), in the order of the manual's table. -/
def rowsTIMEBASE : List FieldRow :=
  [⟨0x1400, 0x4, 1, 4, 1, 0, 0, .ro, 0, 7⟩,
   ⟨0x1400, 0x4, 1, 4, 1, 1, 1, .ro, 0, 7⟩,
   ⟨0x1400, 0x4, 1, 4, 1, 2, 2, .w1c, 0, 7⟩,
   ⟨0x1400, 0x4, 1, 4, 1, 3, 3, .w1c, 0, 7⟩,
   ⟨0x1400, 0x4, 1, 4, 1, 4, 4, .w1c, 0, 7⟩,
   ⟨0x1404, 0x4, 1, 4, 1, 31, 0, .rw, 0, 7⟩,
   ⟨0x1408, 0x4, 1, 4, 1, 7, 0, .rw, 2, 7⟩,
   ⟨0x140C, 0x4, 1, 4, 1, 31, 0, .wo, 0, 7⟩,
   ⟨0x1410, 0x4, 1, 4, 1, 19, 0, .rw, 1000, 7⟩,
   ⟨0x1414, 0x4, 1, 4, 1, 29, 0, .rw, 0, 7⟩,
   ⟨0x1418, 0x4, 1, 4, 1, 31, 0, .rw, 0, 7⟩,
   ⟨0x141C, 0x4, 1, 4, 1, 15, 0, .rw, 0, 7⟩,
   ⟨0x1420, 0x4, 1, 4, 1, 0, 0, .wo, 0, 7⟩,
   ⟨0x1424, 0x4, 1, 4, 1, 31, 0, .ro, 0, 7⟩,
   ⟨0x1428, 0x4, 1, 4, 1, 0, 0, .wo, 0, 7⟩,
   ⟨0x142C, 0x4, 1, 4, 1, 31, 0, .ro, 0, 7⟩,
   ⟨0x1430, 0x4, 1, 4, 1, 29, 0, .ro, 0, 7⟩,
   ⟨0x1434, 0x4, 1, 4, 1, 31, 0, .ro, 0, 7⟩,
   ⟨0x1438, 0x4, 1, 4, 1, 15, 0, .ro, 0, 7⟩,
   ⟨0x143C, 0x4, 1, 4, 1, 31, 0, .ro, 0, 7⟩]

/-- The fields of block CUES (R269), in the order of the manual's table. -/
def rowsCUES : List FieldRow :=
  [⟨0x2400, 0x20, 16, 4, 1, 31, 0, .rws, 50000000, 3⟩,
   ⟨0x2404, 0x20, 16, 4, 1, 31, 0, .rws, 0, 3⟩,
   ⟨0x2408, 0x20, 16, 4, 1, 0, 0, .rws, 0, 3⟩,
   ⟨0x2408, 0x20, 16, 4, 1, 1, 1, .rws, 0, 3⟩,
   ⟨0x2408, 0x20, 16, 4, 1, 2, 2, .rws, 0, 3⟩,
   ⟨0x2408, 0x20, 16, 4, 1, 6, 4, .rws, 0, 3⟩,
   ⟨0x240C, 0x20, 16, 4, 1, 31, 0, .rws, 1000, 3⟩,
   ⟨0x2410, 0x20, 16, 4, 1, 31, 0, .ro, 0, 7⟩,
   ⟨0x2414, 0x20, 16, 4, 1, 31, 0, .ro, 0, 7⟩,
   ⟨0x2600, 0x10, 8, 4, 1, 1, 0, .rws, 0, 2⟩,
   ⟨0x2600, 0x10, 8, 4, 1, 2, 2, .rws, 1, 2⟩,
   ⟨0x2604, 0x10, 8, 4, 1, 31, 0, .ro, 0, 7⟩,
   ⟨0x2608, 0x10, 8, 4, 1, 29, 0, .ro, 0, 7⟩]

/-- The fields of block INGRESS (R284), in the order of the manual's table. -/
def rowsINGRESS : List FieldRow :=
  [⟨0x4000, 0x40, 30, 4, 1, 0, 0, .rw, 0, 7⟩,
   ⟨0x4000, 0x40, 30, 4, 1, 1, 1, .rw, 1, 7⟩,
   ⟨0x4004, 0x40, 16, 4, 1, 9, 0, .rws, 384, 2⟩,
   ⟨0x4404, 0x40, 6, 4, 1, 9, 0, .rws, 12, 2⟩,
   ⟨0x4584, 0x40, 8, 4, 1, 9, 0, .rws, 3, 2⟩,
   ⟨0x4004, 0x40, 16, 4, 1, 25, 16, .rws, 256, 2⟩,
   ⟨0x4404, 0x40, 6, 4, 1, 25, 16, .rws, 8, 2⟩,
   ⟨0x4584, 0x40, 8, 4, 1, 25, 16, .rws, 2, 2⟩,
   ⟨0x4008, 0x40, 30, 4, 1, 21, 0, .ro, 0, 7⟩,
   ⟨0x400C, 0x40, 30, 4, 1, 31, 0, .rc, 0, 7⟩,
   ⟨0x4010, 0x40, 30, 4, 1, 31, 0, .rc, 0, 7⟩,
   ⟨0x4014, 0x40, 30, 4, 1, 31, 0, .rc, 0, 7⟩,
   ⟨0x4018, 0x40, 30, 4, 1, 23, 0, .rws, 0, 2⟩,
   ⟨0x401C, 0x40, 30, 4, 1, 0, 0, .ro, 1, 7⟩,
   ⟨0x4020, 0x40, 30, 4, 1, 31, 0, .rc, 0, 7⟩,
   ⟨0x4324, 0x40, 4, 4, 1, 23, 0, .rw, 0, 7⟩,
   ⟨0x4328, 0x40, 4, 4, 1, 23, 0, .rw, 0, 7⟩,
   ⟨0x432C, 0x40, 4, 4, 1, 31, 0, .rw, 0, 7⟩,
   ⟨0x4330, 0x40, 4, 4, 1, 31, 5, .rw, 0, 7⟩,
   ⟨0x4334, 0x40, 4, 4, 1, 31, 0, .rw, 0, 7⟩,
   ⟨0x4338, 0x40, 4, 4, 1, 3, 0, .rw, 2, 7⟩,
   ⟨0x4338, 0x40, 4, 4, 1, 8, 8, .rw, 0, 7⟩,
   ⟨0x4338, 0x40, 4, 4, 1, 9, 9, .rw, 1, 7⟩,
   ⟨0x4424, 0x40, 4, 4, 1, 31, 0, .rw, 0, 7⟩,
   ⟨0x4428, 0x40, 4, 4, 1, 31, 0, .rw, 0, 7⟩,
   ⟨0x403C, 0x40, 30, 4, 1, 31, 0, .ro, 0, 7⟩,
   ⟨0x4800, 0x20, 32, 4, 1, 0, 0, .rws, 0, 2⟩,
   ⟨0x4800, 0x20, 32, 4, 1, 5, 1, .rws, 0, 2⟩,
   ⟨0x4800, 0x20, 32, 4, 1, 7, 6, .rws, 0, 2⟩,
   ⟨0x4800, 0x20, 32, 4, 1, 8, 8, .rws, 0, 2⟩,
   ⟨0x4800, 0x20, 32, 4, 1, 11, 9, .rws, 0, 2⟩,
   ⟨0x4804, 0x20, 32, 4, 1, 31, 12, .rws, 0, 2⟩,
   ⟨0x4808, 0x20, 32, 4, 1, 15, 0, .rws, 0, 2⟩,
   ⟨0x480C, 0x20, 32, 4, 1, 4, 0, .rws, 16, 2⟩,
   ⟨0x480C, 0x20, 32, 4, 1, 28, 16, .rws, 0, 2⟩,
   ⟨0x4810, 0x20, 32, 4, 1, 16, 0, .rws, 0, 2⟩,
   ⟨0x4814, 0x20, 32, 4, 1, 15, 0, .rws, 0, 2⟩,
   ⟨0x4814, 0x20, 32, 4, 1, 27, 16, .rws, 0, 2⟩,
   ⟨0x4814, 0x20, 32, 4, 1, 28, 28, .rws, 0, 2⟩,
   ⟨0x4818, 0x20, 32, 4, 1, 3, 0, .rws, 0, 2⟩] ++
  [⟨0x4818, 0x20, 32, 4, 1, 4, 4, .rws, 0, 2⟩,
   ⟨0x4818, 0x20, 32, 4, 1, 25, 8, .rws, 100000, 2⟩,
   ⟨0x4C00, 0x20, 2, 4, 1, 1, 0, .rw, 0, 7⟩,
   ⟨0x4C00, 0x20, 2, 4, 1, 9, 2, .rw, 3, 7⟩,
   ⟨0x4C00, 0x20, 2, 4, 1, 13, 10, .rw, 0, 7⟩,
   ⟨0x4C00, 0x20, 2, 4, 1, 14, 14, .rw, 0, 7⟩,
   ⟨0x4C00, 0x20, 2, 4, 1, 22, 16, .rw, 0, 7⟩,
   ⟨0x4C04, 0x20, 2, 4, 1, 4, 0, .rw, 0, 7⟩,
   ⟨0x4C08, 0x20, 2, 4, 4, 31, 0, .rw, 0, 7⟩]

/-- The fields of block FUSION (R314), in the order of the manual's table. -/
def rowsFUSION : List FieldRow :=
  [⟨0x3000, 0x4, 1, 4, 1, 16, 0, .rws, 2000, 2⟩,
   ⟨0x3010, 0x4, 1, 4, 1, 0, 0, .rws, 0, 2⟩,
   ⟨0x3010, 0x4, 1, 4, 1, 2, 1, .rws, 0, 2⟩,
   ⟨0x3010, 0x4, 1, 4, 1, 3, 3, .rws, 0, 2⟩,
   ⟨0x3010, 0x4, 1, 4, 1, 8, 4, .rws, 0, 2⟩,
   ⟨0x3014, 0x4, 1, 4, 1, 28, 0, .rws, 0, 2⟩,
   ⟨0x3014, 0x4, 1, 4, 1, 29, 29, .rws, 0, 2⟩,
   ⟨0x3018, 0x4, 1, 4, 1, 15, 0, .rws, 0, 2⟩,
   ⟨0x301C, 0x4, 1, 4, 1, 31, 0, .rws, 0, 2⟩,
   ⟨0x3020, 0x4, 1, 4, 1, 7, 0, .rws, 0, 2⟩,
   ⟨0x3024, 0x4, 1, 4, 1, 31, 0, .rws, 0, 2⟩,
   ⟨0x3028, 0x4, 1, 4, 1, 31, 0, .rws, 0x3fc00000, 2⟩,
   ⟨0x302C, 0x4, 1, 4, 1, 31, 0, .rws, 0x3dcccccd, 2⟩,
   ⟨0x3030, 0x4, 1, 4, 1, 1, 0, .ro, 2, 7⟩,
   ⟨0x3034, 0x4, 1, 4, 1, 31, 0, .ro, 0, 7⟩,
   ⟨0x3038, 0x4, 1, 4, 1, 31, 0, .rc, 0, 7⟩,
   ⟨0x3100, 0x20, 32, 4, 1, 0, 0, .rws, 0, 2⟩,
   ⟨0x3100, 0x20, 32, 4, 1, 2, 1, .rws, 0, 2⟩,
   ⟨0x3100, 0x20, 32, 4, 1, 3, 3, .rws, 0, 2⟩,
   ⟨0x3100, 0x20, 32, 4, 1, 8, 4, .rws, 0, 2⟩,
   ⟨0x3100, 0x20, 32, 4, 1, 9, 9, .rws, 0, 2⟩,
   ⟨0x3100, 0x20, 32, 4, 1, 21, 10, .rws, 0, 2⟩,
   ⟨0x3104, 0x20, 32, 4, 1, 31, 0, .rws, 100000000, 2⟩,
   ⟨0x3108, 0x20, 32, 4, 1, 31, 0, .rws, 0, 2⟩,
   ⟨0x310C, 0x20, 32, 4, 1, 7, 0, .rws, 50, 2⟩,
   ⟨0x3110, 0x20, 32, 4, 1, 31, 12, .rws, 0, 2⟩,
   ⟨0x3114, 0x20, 32, 4, 1, 15, 0, .rws, 0, 2⟩,
   ⟨0x3118, 0x20, 32, 4, 1, 0, 0, .ro, 0, 7⟩,
   ⟨0x311C, 0x20, 32, 4, 1, 31, 0, .rc, 0, 7⟩,
   ⟨0x3500, 0x10, 4, 4, 1, 0, 0, .rws, 0, 2⟩,
   ⟨0x3500, 0x10, 4, 4, 1, 4, 1, .rws, 0, 2⟩,
   ⟨0x3500, 0x10, 4, 4, 1, 7, 5, .rws, 0, 2⟩,
   ⟨0x3504, 0x10, 4, 4, 1, 31, 0, .rws, 0, 2⟩,
   ⟨0x3600, 0x20, 2, 4, 1, 0, 0, .rws, 0, 2⟩,
   ⟨0x3600, 0x20, 2, 4, 1, 4, 1, .rws, 0, 2⟩,
   ⟨0x3600, 0x20, 2, 4, 1, 7, 5, .rws, 0, 2⟩,
   ⟨0x3600, 0x20, 2, 4, 1, 9, 8, .rws, 0, 2⟩,
   ⟨0x3604, 0x20, 2, 4, 1, 31, 0, .rws, 0, 2⟩,
   ⟨0x3608, 0x20, 2, 4, 1, 15, 0, .rws, 0, 2⟩,
   ⟨0x360C, 0x20, 2, 4, 1, 31, 0, .rws, 0, 2⟩] ++
  [⟨0x3610, 0x20, 2, 4, 1, 15, 0, .rws, 0, 2⟩,
   ⟨0x3700, 0x20, 6, 4, 1, 31, 12, .rws, 0, 2⟩,
   ⟨0x3704, 0x20, 6, 4, 1, 15, 0, .rws, 0, 2⟩,
   ⟨0x3708, 0x20, 6, 4, 1, 4, 0, .rws, 20, 2⟩,
   ⟨0x370C, 0x20, 6, 4, 1, 9, 0, .rws, 100, 4⟩,
   ⟨0x3710, 0x20, 6, 4, 1, 10, 0, .rws, 200, 4⟩,
   ⟨0x3714, 0x20, 6, 4, 1, 31, 0, .rc, 0, 7⟩,
   ⟨0x3718, 0x20, 6, 4, 1, 31, 0, .rc, 0, 7⟩]

/-- The fields of block SAFETY (R339), in the order of the manual's table. -/
def rowsSAFETY : List FieldRow :=
  [⟨0x1300, 0x4, 1, 4, 1, 0, 0, .rws, 0, 6⟩,
   ⟨0x1304, 0x4, 1, 4, 1, 15, 0, .rws, 2000, 6⟩,
   ⟨0x1308, 0x4, 1, 4, 1, 0, 0, .rws, 0, 6⟩,
   ⟨0x1308, 0x4, 1, 4, 1, 24, 8, .rws, 0x1000, 6⟩,
   ⟨0x1310, 0x4, 1, 4, 1, 2, 0, .ro, 0, 7⟩,
   ⟨0x1310, 0x4, 1, 4, 1, 6, 4, .ro, 0, 7⟩,
   ⟨0x1310, 0x4, 1, 4, 1, 8, 8, .ro, 0, 7⟩,
   ⟨0x1314, 0x4, 1, 4, 1, 7, 0, .ro, 0, 7⟩,
   ⟨0x1314, 0x4, 1, 4, 1, 15, 8, .ro, 0, 7⟩,
   ⟨0x1318, 0x4, 1, 4, 1, 31, 0, .ro, 0, 7⟩,
   ⟨0x131C, 0x4, 1, 4, 1, 31, 0, .ro, 0, 7⟩,
   ⟨0x1320, 0x4, 1, 4, 1, 15, 0, .ro, 0, 7⟩,
   ⟨0x1324, 0x4, 1, 4, 1, 3, 0, .ro, 0, 7⟩,
   ⟨0x1324, 0x4, 1, 4, 1, 11, 8, .ro, 0, 7⟩,
   ⟨0x1328, 0x4, 1, 4, 1, 31, 0, .ro, 0, 7⟩,
   ⟨0x132C, 0x4, 1, 4, 1, 7, 0, .ro, 0, 7⟩,
   ⟨0x132C, 0x4, 1, 4, 1, 15, 8, .ro, 0, 7⟩,
   ⟨0x1330, 0x4, 1, 4, 1, 0, 0, .ro, 0, 7⟩,
   ⟨0x1330, 0x4, 1, 4, 1, 7, 4, .ro, 0, 7⟩]

/-- The fields of block LINKS (R363), in the order of the manual's table. -/
def rowsLINKS : List FieldRow :=
  [⟨0x1600, 0x4, 1, 4, 1, 3, 0, .ro, 0, 7⟩,
   ⟨0x1600, 0x4, 1, 4, 1, 11, 8, .ro, 0, 7⟩,
   ⟨0x1600, 0x4, 1, 4, 1, 12, 12, .ro, 0, 7⟩,
   ⟨0x1600, 0x4, 1, 4, 1, 13, 13, .ro, 0, 7⟩,
   ⟨0x1604, 0x4, 1, 4, 1, 31, 0, .ro, 0, 7⟩,
   ⟨0x1608, 0x4, 1, 4, 1, 15, 0, .ro, 0, 7⟩,
   ⟨0x160C, 0x4, 1, 4, 1, 15, 0, .ro, 0, 7⟩,
   ⟨0x1640, 0x4, 1, 4, 1, 15, 0, .rw, 1000, 7⟩,
   ⟨0x1644, 0x4, 1, 4, 1, 7, 0, .wo, 0, 7⟩,
   ⟨0x1700, 0x20, 8, 4, 1, 1, 0, .ro, 0, 7⟩,
   ⟨0x1700, 0x20, 8, 4, 1, 9, 8, .ro, 0, 7⟩,
   ⟨0x1700, 0x20, 8, 4, 1, 11, 10, .ro, 0, 7⟩,
   ⟨0x1700, 0x20, 8, 4, 1, 22, 16, .ro, 0, 7⟩,
   ⟨0x1700, 0x20, 8, 4, 1, 30, 24, .ro, 0, 7⟩,
   ⟨0x1704, 0x20, 8, 4, 1, 31, 0, .ro, 0, 7⟩,
   ⟨0x1708, 0x20, 8, 4, 1, 31, 0, .rc, 0, 7⟩,
   ⟨0x170C, 0x20, 8, 4, 1, 31, 0, .ro, 0, 7⟩,
   ⟨0x1710, 0x20, 8, 4, 1, 6, 0, .ro, 0, 7⟩,
   ⟨0x1710, 0x20, 8, 4, 1, 7, 7, .ro, 0, 7⟩]

/-- The fields of block LODGING (R380), in the order of the manual's table. -/
def rowsLODGING : List FieldRow :=
  [⟨0x1800, 0x4, 1, 4, 1, 0, 0, .ro, 0, 7⟩,
   ⟨0x1800, 0x4, 1, 4, 1, 15, 8, .ro, 0, 7⟩,
   ⟨0x1800, 0x4, 1, 4, 1, 16, 16, .ro, 0, 7⟩,
   ⟨0x1804, 0x4, 1, 4, 1, 7, 0, .rw, 150, 7⟩,
   ⟨0x1808, 0x4, 1, 4, 1, 31, 0, .ro, 0, 7⟩,
   ⟨0x180C, 0x4, 1, 4, 1, 31, 0, .rc, 0, 7⟩,
   ⟨0x1810, 0x4, 1, 4, 1, 31, 0, .rc, 0, 7⟩,
   ⟨0x1900, 0x4, 1, 4, 1, 0, 0, .rw, 0, 7⟩,
   ⟨0x1900, 0x4, 1, 4, 1, 3, 1, .rw, 0, 7⟩,
   ⟨0x1900, 0x4, 1, 4, 1, 4, 4, .wo, 0, 7⟩,
   ⟨0x1904, 0x4, 1, 4, 1, 31, 6, .rw, 0, 7⟩,
   ⟨0x1908, 0x4, 1, 4, 1, 31, 0, .rw, 0, 7⟩,
   ⟨0x190C, 0x4, 1, 4, 1, 3, 0, .rw, 8, 7⟩,
   ⟨0x1910, 0x4, 1, 4, 1, 31, 0, .rw, 0, 7⟩,
   ⟨0x1914, 0x4, 1, 4, 1, 31, 0, .rw, 0, 7⟩,
   ⟨0x1918, 0x4, 1, 4, 1, 31, 0, .ro, 0, 7⟩,
   ⟨0x191C, 0x4, 1, 4, 1, 31, 0, .ro, 0, 7⟩,
   ⟨0x1920, 0x4, 1, 4, 1, 31, 0, .ro, 0, 7⟩,
   ⟨0x1924, 0x4, 1, 4, 1, 31, 0, .ro, 0, 7⟩,
   ⟨0x1928, 0x4, 1, 4, 1, 1, 0, .ro, 0, 7⟩,
   ⟨0x192C, 0x4, 1, 4, 1, 15, 0, .rw, 10000, 7⟩]

/-- The fields of block ATTEST (R380), in the order of the manual's table. -/
def rowsATTEST : List FieldRow :=
  [⟨0x0400, 0x4, 1, 4, 1, 0, 0, .wo, 0, 7⟩,
   ⟨0x0400, 0x4, 1, 4, 1, 1, 1, .rw, 0, 7⟩,
   ⟨0x0400, 0x4, 1, 4, 1, 4, 2, .rw, 0, 7⟩,
   ⟨0x0404, 0x4, 1, 4, 1, 0, 0, .ro, 0, 7⟩,
   ⟨0x0404, 0x4, 1, 4, 1, 1, 1, .w1c, 0, 7⟩,
   ⟨0x0404, 0x4, 1, 4, 1, 3, 2, .ro, 0, 7⟩,
   ⟨0x0408, 0x4, 1, 4, 1, 31, 8, .rw, 0, 7⟩,
   ⟨0x040C, 0x4, 1, 4, 1, 31, 0, .rw, 0, 7⟩,
   ⟨0x0420, 0x4, 8, 4, 1, 31, 0, .rw, 0, 7⟩]

/-- The fields of block THERMAL (R399), in the order of the manual's table. -/
def rowsTHERMAL : List FieldRow :=
  [⟨0x1C00, 0x4, 1, 4, 1, 0, 0, .ro, 1, 7⟩,
   ⟨0x1C00, 0x4, 1, 4, 1, 1, 1, .ro, 0, 7⟩,
   ⟨0x1C00, 0x4, 1, 4, 1, 2, 2, .ro, 0, 7⟩,
   ⟨0x1C00, 0x4, 1, 4, 1, 5, 4, .ro, 0, 7⟩,
   ⟨0x1C04, 0x4, 1, 4, 1, 15, 0, .ro, 0, 7⟩,
   ⟨0x1C04, 0x4, 1, 4, 1, 31, 16, .ro, 0, 7⟩,
   ⟨0x1C08, 0x4, 1, 4, 1, 15, 0, .ro, 0, 7⟩,
   ⟨0x1C08, 0x4, 1, 4, 1, 31, 16, .ro, 0, 7⟩,
   ⟨0x1C0C, 0x4, 1, 4, 1, 9, 0, .ro, 420, 7⟩,
   ⟨0x1C10, 0x4, 1, 4, 1, 9, 0, .rws, 420, 5⟩,
   ⟨0x1C14, 0x4, 1, 4, 1, 6, 0, .rws, 100, 5⟩,
   ⟨0x1C18, 0x4, 1, 4, 1, 5, 0, .rws, 40, 5⟩,
   ⟨0x1C18, 0x4, 1, 4, 1, 8, 8, .rws, 1, 5⟩,
   ⟨0x1C1C, 0x4, 1, 4, 1, 3, 0, .rws, 2, 5⟩,
   ⟨0x1C20, 0x4, 1, 4, 1, 31, 0, .rws, 0x426b999a, 5⟩,
   ⟨0x1C24, 0x4, 1, 4, 1, 31, 0, .rws, 0x3ecccccd, 5⟩,
   ⟨0x1C28, 0x4, 1, 4, 1, 7, 0, .rws, 30, 5⟩,
   ⟨0x1D00, 0x10, 5, 4, 4, 15, 0, .ro, 0, 7⟩,
   ⟨0x1D00, 0x10, 5, 4, 4, 31, 16, .ro, 0, 7⟩,
   ⟨0x1D60, 0x4, 3, 4, 1, 31, 0, .ro, 0, 7⟩,
   ⟨0x1D70, 0x4, 4, 4, 1, 15, 0, .ro, 0, 7⟩,
   ⟨0x1D80, 0x4, 1, 4, 1, 31, 0, .ro, 0, 7⟩,
   ⟨0x1D84, 0x4, 1, 4, 1, 3, 0, .ro, 0, 7⟩,
   ⟨0x1E00, 0x4, 5, 4, 1, 31, 0, .ro, 0, 7⟩,
   ⟨0x1E20, 0x4, 5, 4, 1, 31, 0, .ro, 0, 7⟩,
   ⟨0x1E40, 0x4, 8, 4, 1, 31, 0, .ro, 0, 7⟩,
   ⟨0x1E60, 0x4, 1, 4, 1, 31, 0, .ro, 0, 7⟩,
   ⟨0x1E64, 0x4, 1, 4, 1, 31, 0, .ro, 0, 7⟩]

/-- The fields of block PARTMAP (R407), in the order of the manual's table. -/
def rowsPARTMAP : List FieldRow :=
  [⟨0x1200, 0x10, 1, 4, 1, 0, 0, .rws, 0, 0⟩,
   ⟨0x1200, 0x10, 8, 4, 1, 7, 4, .rws, 15, 0⟩,
   ⟨0x1200, 0x10, 8, 4, 1, 23, 16, .rws, 1, 0⟩,
   ⟨0x1280, 0x4, 1, 4, 1, 0, 0, .ro, 0, 7⟩,
   ⟨0x1280, 0x4, 1, 4, 1, 1, 1, .ro, 0, 7⟩]

/-- The fields of block IDENTITY (R409), in the order of the manual's table. The vendor identifier and the serial number have no stated value, but are
never 0: the model's are 1 (DESIGN CHOICE, unsafe: notes/assumptions/6). -/
def rowsIDENTITY : List FieldRow :=
  [⟨0x0800, 0x4, 1, 4, 1, 15, 0, .ro, 0x480, 7⟩,
   ⟨0x0800, 0x4, 1, 4, 1, 23, 16, .ro, 176, 7⟩,
   ⟨0x0804, 0x4, 1, 4, 1, 15, 0, .ro, 1, 7⟩,
   ⟨0x0804, 0x4, 1, 4, 1, 31, 16, .ro, 0x480, 7⟩,
   ⟨0x0808, 0x4, 1, 4, 1, 15, 0, .ro, 256, 7⟩,
   ⟨0x080C, 0x4, 3, 4, 1, 15, 0, .ro, 0, 7⟩,
   ⟨0x0808, 0x4, 4, 4, 1, 31, 16, .ro, 0, 7⟩,
   ⟨0x0820, 0x4, 1, 4, 1, 31, 0, .ro, 1, 7⟩,
   ⟨0x0824, 0x4, 3, 4, 1, 31, 0, .ro, 0, 7⟩,
   ⟨0x0830, 0x4, 1, 4, 1, 1, 0, .ro, 0, 7⟩,
   ⟨0x0834, 0x4, 1, 4, 1, 3, 0, .ro, 0, 7⟩,
   ⟨0x0834, 0x4, 1, 4, 1, 11, 8, .ro, 0, 7⟩,
   ⟨0x0834, 0x4, 1, 4, 1, 12, 12, .ro, 0, 7⟩,
   ⟨0x0834, 0x4, 1, 4, 1, 13, 13, .ro, 0, 7⟩,
   ⟨0x0840, 0x8, 7, 4, 1, 31, 0, .ro, 0, 7⟩,
   ⟨0x0844, 0x8, 7, 4, 1, 31, 0, .ro, 0, 7⟩,
   ⟨0x0880, 0x10, 8, 4, 4, 31, 0, .ro, 0, 7⟩,
   ⟨0x0900, 0x10, 20, 4, 4, 31, 0, .ro, 0, 7⟩,
   ⟨0x0B00, 0x4, 12, 4, 1, 31, 0, .ro, 0, 7⟩]

/-- All fields of the map, each port's own blocks included once (R402). -/
def fieldRows : List FieldRow :=
  rowsENGINE ++ rowsMEMORY ++ rowsHOSTCFG ++ rowsJOBCFG ++ rowsTIMEBASE ++ rowsCUES ++ rowsINGRESS ++ rowsFUSION ++ rowsSAFETY ++ rowsLINKS ++ rowsLODGING ++ rowsATTEST ++ rowsTHERMAL ++ rowsPARTMAP ++ rowsIDENTITY

/-- ENG_INFLIGHT.tiles (R153). -/
abbrev K.ENG_INFLIGHT_tiles (i : Nat) : Nat := fieldKey (0x2800 + 0x100 * i) 0
/-- ENG_HIGH_WATER.tiles (R153). -/
abbrev K.ENG_HIGH_WATER_tiles (i : Nat) : Nat := fieldKey (0x2804 + 0x100 * i) 0
/-- ENG_VEH_RESERVE.tiles (R153). -/
abbrev K.ENG_VEH_RESERVE_tiles (i : Nat) : Nat := fieldKey (0x2808 + 0x100 * i) 0
/-- ENG_RUNAHEAD.nodes (R153). -/
abbrev K.ENG_RUNAHEAD_nodes (i : Nat) : Nat := fieldKey (0x280C + 0x100 * i) 0
/-- REH_DONE.arrays (R153). -/
abbrev K.REH_DONE_arrays (i : Nat) (j : Nat) : Nat := fieldKey (0x2810 + 0x100 * i + 0x4 * j) 0
/-- SERVICE.arrays (R153). -/
abbrev K.SERVICE_arrays (i : Nat) (j : Nat) : Nat := fieldKey (0x2830 + 0x100 * i + 0x4 * j) 0
/-- DET_TRANSIENT.count (R153). -/
abbrev K.DET_TRANSIENT_count (i : Nat) : Nat := fieldKey (0x2848 + 0x100 * i) 0
/-- DET_WITHDRAWN.arrays (R153). -/
abbrev K.DET_WITHDRAWN_arrays (i : Nat) : Nat := fieldKey (0x284C + 0x100 * i) 0
/-- REH_DEFER.count (R153). -/
abbrev K.REH_DEFER_count (i : Nat) : Nat := fieldKey (0x2850 + 0x100 * i) 0
/-- REH_MISSED.count (R153). -/
abbrev K.REH_MISSED_count (i : Nat) : Nat := fieldKey (0x2854 + 0x100 * i) 0
/-- MEM_SCRUB.period_h (R191). -/
abbrev K.MEM_SCRUB_period_h : Nat := fieldKey (0x2000) 0
/-- MEM_SCRUB_PASS.count (R191). -/
abbrev K.MEM_SCRUB_PASS_count : Nat := fieldKey (0x2004) 0
/-- MEM_SCRUB_POS.permille (R191). -/
abbrev K.MEM_SCRUB_POS_permille : Nat := fieldKey (0x2008) 0
/-- MEM_CE_COUNT.count (R191). -/
abbrev K.MEM_CE_COUNT_count : Nat := fieldKey (0x200C) 0
/-- MEM_UE_COUNT.count (R191). -/
abbrev K.MEM_UE_COUNT_count : Nat := fieldKey (0x2010) 0
/-- MEM_POISON_COUNT.count (R191). -/
abbrev K.MEM_POISON_COUNT_count : Nat := fieldKey (0x2014) 0
/-- MEM_LAST_ERR.locator (R191). -/
abbrev K.MEM_LAST_ERR_locator : Nat := fieldKey (0x2018) 0
/-- MEM_ERASED.gangs (R191). -/
abbrev K.MEM_ERASED_gangs (i : Nat) : Nat := fieldKey (0x2020 + 0x4 * i) 0
/-- MEM_ERASED_CEL.gangs (R191). -/
abbrev K.MEM_ERASED_CEL_gangs : Nat := fieldKey (0x2040) 0
/-- MPART_HBM.win_units (R191). -/
abbrev K.MPART_HBM_win_units (i : Nat) : Nat := fieldKey (0x2100 + 0x20 * i) 0
/-- MPART_HBM.room_units (R191). -/
abbrev K.MPART_HBM_room_units (i : Nat) : Nat := fieldKey (0x2100 + 0x20 * i) 10
/-- MPART_CEL.win_units (R191). -/
abbrev K.MPART_CEL_win_units (i : Nat) : Nat := fieldKey (0x2104 + 0x20 * i) 0
/-- MPART_CEL.room_units (R191). -/
abbrev K.MPART_CEL_room_units (i : Nat) : Nat := fieldKey (0x2104 + 0x20 * i) 13
/-- MPART_ROOM.size_4k (R191). -/
abbrev K.MPART_ROOM_size_4k (i : Nat) : Nat := fieldKey (0x2108 + 0x20 * i) 0
/-- MPART_ROOM.kv_format (R191). -/
abbrev K.MPART_ROOM_kv_format (i : Nat) : Nat := fieldKey (0x2108 + 0x20 * i) 7
/-- MPART_ROOMCOUNT.rooms (R191). -/
abbrev K.MPART_ROOMCOUNT_rooms (i : Nat) : Nat := fieldKey (0x210C + 0x20 * i) 0
/-- MPART_HOSTWIN_LO.base (R191). -/
abbrev K.MPART_HOSTWIN_LO_base (i : Nat) : Nat := fieldKey (0x2110 + 0x20 * i) 12
/-- MPART_HOSTWIN_HI.base (R191). -/
abbrev K.MPART_HOSTWIN_HI_base (i : Nat) : Nat := fieldKey (0x2114 + 0x20 * i) 0
/-- MPART_FREE.rooms (R191). -/
abbrev K.MPART_FREE_rooms (i : Nat) : Nat := fieldKey (0x2118 + 0x20 * i) 0
/-- MPART_EPOCH.epoch (R191). -/
abbrev K.MPART_EPOCH_epoch (i : Nat) : Nat := fieldKey (0x211C + 0x20 * i) 0
/-- INNK_HIT.count (R191). -/
abbrev K.INNK_HIT_count (i : Nat) : Nat := fieldKey (0x2200 + 0x10 * i) 0
/-- INNK_MISS.count (R191). -/
abbrev K.INNK_MISS_count (i : Nat) : Nat := fieldKey (0x2204 + 0x10 * i) 0
/-- INNK_WALKS.walks (R191). -/
abbrev K.INNK_WALKS_walks (i : Nat) : Nat := fieldKey (0x2208 + 0x10 * i) 0
/-- PORTER_BUSY.channels (R191). -/
abbrev K.PORTER_BUSY_channels (i : Nat) : Nat := fieldKey (0x220C + 0x10 * i) 0
/-- HOST_CTRL.enable (R220). -/
abbrev K.HOST_CTRL_enable (p : Nat) : Nat := fieldKey (0x10000 * p + 0x0000) 0
/-- HOST_STATUS.running (R220). -/
abbrev K.HOST_STATUS_running (p : Nat) : Nat := fieldKey (0x10000 * p + 0x0004) 0
/-- HOST_STATUS.manager (R220). -/
abbrev K.HOST_STATUS_manager (p : Nat) : Nat := fieldKey (0x10000 * p + 0x0004) 1
/-- HOST_STATUS.err (R220). -/
abbrev K.HOST_STATUS_err (p : Nat) : Nat := fieldKey (0x10000 * p + 0x0004) 2
/-- HOST_POLL.period_us (R220). -/
abbrev K.HOST_POLL_period_us (p : Nat) : Nat := fieldKey (0x10000 * p + 0x0008) 0
/-- HOST_POLL_ERR.count (R220). -/
abbrev K.HOST_POLL_ERR_count (p : Nat) : Nat := fieldKey (0x10000 * p + 0x000C) 0
/-- HOST_DENIED.count (R220). -/
abbrev K.HOST_DENIED_count (p : Nat) : Nat := fieldKey (0x10000 * p + 0x0010) 0
/-- DB_BASE_LO.base (R220). -/
abbrev K.DB_BASE_LO_base (p : Nat) : Nat := fieldKey (0x10000 * p + 0x0018) 7
/-- DB_BASE_HI.base (R220). -/
abbrev K.DB_BASE_HI_base (p : Nat) : Nat := fieldKey (0x10000 * p + 0x001C) 0
/-- STATUS_ADDR_LO.base (R220). -/
abbrev K.STATUS_ADDR_LO_base (p : Nat) : Nat := fieldKey (0x10000 * p + 0x0020) 6
/-- STATUS_ADDR_HI.base (R220). -/
abbrev K.STATUS_ADDR_HI_base (p : Nat) : Nat := fieldKey (0x10000 * p + 0x0024) 0
/-- EVT_BASE_LO.base (R220). -/
abbrev K.EVT_BASE_LO_base (p : Nat) : Nat := fieldKey (0x10000 * p + 0x0028) 5
/-- EVT_BASE_HI.base (R220). -/
abbrev K.EVT_BASE_HI_base (p : Nat) : Nat := fieldKey (0x10000 * p + 0x002C) 0
/-- EVT_CTRL.log2_entries (R220). -/
abbrev K.EVT_CTRL_log2_entries (p : Nat) : Nat := fieldKey (0x10000 * p + 0x0030) 0
/-- EVT_CTRL.enable (R220). -/
abbrev K.EVT_CTRL_enable (p : Nat) : Nat := fieldKey (0x10000 * p + 0x0030) 8
/-- RING_SQ_LO.base (R220). -/
abbrev K.RING_SQ_LO_base (p : Nat) (i : Nat) : Nat := fieldKey (0x10000 * p + 0x0100 + 0x20 * i) 7
/-- RING_SQ_HI.base (R220). -/
abbrev K.RING_SQ_HI_base (p : Nat) (i : Nat) : Nat := fieldKey (0x10000 * p + 0x0104 + 0x20 * i) 0
/-- RING_CQ_LO.base (R220). -/
abbrev K.RING_CQ_LO_base (p : Nat) (i : Nat) : Nat := fieldKey (0x10000 * p + 0x0108 + 0x20 * i) 5
/-- RING_CQ_HI.base (R220). -/
abbrev K.RING_CQ_HI_base (p : Nat) (i : Nat) : Nat := fieldKey (0x10000 * p + 0x010C + 0x20 * i) 0
/-- RING_CTRL.log2_entries (R220). -/
abbrev K.RING_CTRL_log2_entries (p : Nat) (i : Nat) : Nat := fieldKey (0x10000 * p + 0x0110 + 0x20 * i) 0
/-- RING_CTRL.enable (R220). -/
abbrev K.RING_CTRL_enable (p : Nat) (i : Nat) : Nat := fieldKey (0x10000 * p + 0x0110 + 0x20 * i) 8
/-- RING_STATUS.running (R220). -/
abbrev K.RING_STATUS_running (p : Nat) (i : Nat) : Nat := fieldKey (0x10000 * p + 0x0114 + 0x20 * i) 0
/-- RING_STATUS.err (R220). -/
abbrev K.RING_STATUS_err (p : Nat) (i : Nat) : Nat := fieldKey (0x10000 * p + 0x0114 + 0x20 * i) 1
/-- RING_STATUS.bound (R220). -/
abbrev K.RING_STATUS_bound (p : Nat) (i : Nat) : Nat := fieldKey (0x10000 * p + 0x0114 + 0x20 * i) 2
/-- RING_STATUS.realm (R220). -/
abbrev K.RING_STATUS_realm (p : Nat) (i : Nat) : Nat := fieldKey (0x10000 * p + 0x0114 + 0x20 * i) 3
/-- RING_STATUS.idle (R220). -/
abbrev K.RING_STATUS_idle (p : Nat) (i : Nat) : Nat := fieldKey (0x10000 * p + 0x0114 + 0x20 * i) 6
/-- JOB_VEH_RESERVE.jobs (R250). -/
abbrev K.JOB_VEH_RESERVE_jobs : Nat := fieldKey (0x1000) 0
/-- JOB_INFLIGHT.jobs (R250). -/
abbrev K.JOB_INFLIGHT_jobs : Nat := fieldKey (0x1004) 0
/-- JOB_HIGH_WATER.jobs (R250). -/
abbrev K.JOB_HIGH_WATER_jobs : Nat := fieldKey (0x1008) 0
/-- REALM_BIND.enabled (R250). -/
abbrev K.REALM_BIND_enabled (i : Nat) : Nat := fieldKey (0x1010 + 0x10 * i) 0
/-- REALM_BIND.host (R250). -/
abbrev K.REALM_BIND_host (i : Nat) : Nat := fieldKey (0x1010 + 0x10 * i) 1
/-- REALM_BIND.ring (R250). -/
abbrev K.REALM_BIND_ring (i : Nat) : Nat := fieldKey (0x1010 + 0x10 * i) 3
/-- REALM_QUOTA.jobs (R250). -/
abbrev K.REALM_QUOTA_jobs (i : Nat) : Nat := fieldKey (0x1014 + 0x10 * i) 0
/-- REALM_EPOCH_LO.epoch (R250). -/
abbrev K.REALM_EPOCH_LO_epoch (i : Nat) : Nat := fieldKey (0x1018 + 0x10 * i) 0
/-- REALM_EPOCH_HI.epoch (R250). -/
abbrev K.REALM_EPOCH_HI_epoch (i : Nat) : Nat := fieldKey (0x101C + 0x10 * i) 0
/-- CFG_CURTAIN.pending (R250). -/
abbrev K.CFG_CURTAIN_pending : Nat := fieldKey (0x1100) 0
/-- CFG_CURTAIN.banks (R250). -/
abbrev K.CFG_CURTAIN_banks : Nat := fieldKey (0x1100) 1
/-- CFG_SHADOW_DROPPED.count (R250). -/
abbrev K.CFG_SHADOW_DROPPED_count : Nat := fieldKey (0x1104) 0
/-- CFG_GEN.gen (R250). -/
abbrev K.CFG_GEN_gen : Nat := fieldKey (0x1108) 0
/-- TB_STATUS.valid (R259). -/
abbrev K.TB_STATUS_valid : Nat := fieldKey (0x1400) 0
/-- TB_STATUS.holding (R259). -/
abbrev K.TB_STATUS_holding : Nat := fieldKey (0x1400) 1
/-- TB_STATUS.inc_refused (R259). -/
abbrev K.TB_STATUS_inc_refused : Nat := fieldKey (0x1400) 2
/-- TB_STATUS.step_refused (R259). -/
abbrev K.TB_STATUS_step_refused : Nat := fieldKey (0x1400) 3
/-- TB_STATUS.baseline_refused (R259). -/
abbrev K.TB_STATUS_baseline_refused : Nat := fieldKey (0x1400) 4
/-- TB_INC_FRAC.frac (R259). -/
abbrev K.TB_INC_FRAC_frac : Nat := fieldKey (0x1404) 0
/-- TB_INC_INT.int (R259). -/
abbrev K.TB_INC_INT_int : Nat := fieldKey (0x1408) 0
/-- TB_STEP.ns (R259). -/
abbrev K.TB_STEP_ns : Nat := fieldKey (0x140C) 0
/-- TB_JUMP_LIMIT.ns (R259). -/
abbrev K.TB_JUMP_LIMIT_ns : Nat := fieldKey (0x1410) 0
/-- TB_BASE_NS.ns (R259). -/
abbrev K.TB_BASE_NS_ns : Nat := fieldKey (0x1414) 0
/-- TB_BASE_SEC_LO.sec (R259). -/
abbrev K.TB_BASE_SEC_LO_sec : Nat := fieldKey (0x1418) 0
/-- TB_BASE_SEC_HI.sec (R259). -/
abbrev K.TB_BASE_SEC_HI_sec : Nat := fieldKey (0x141C) 0
/-- TB_BASELINE.go (R259). -/
abbrev K.TB_BASELINE_go : Nat := fieldKey (0x1420) 0
/-- TB_GEN.gen (R259). -/
abbrev K.TB_GEN_gen : Nat := fieldKey (0x1424) 0
/-- TB_SNAP.take (R259). -/
abbrev K.TB_SNAP_take : Nat := fieldKey (0x1428) 0
/-- TB_SNAP_FRAC.frac (R259). -/
abbrev K.TB_SNAP_FRAC_frac : Nat := fieldKey (0x142C) 0
/-- TB_SNAP_NS.ns (R259). -/
abbrev K.TB_SNAP_NS_ns : Nat := fieldKey (0x1430) 0
/-- TB_SNAP_SEC_LO.sec (R259). -/
abbrev K.TB_SNAP_SEC_LO_sec : Nat := fieldKey (0x1434) 0
/-- TB_SNAP_SEC_HI.sec (R259). -/
abbrev K.TB_SNAP_SEC_HI_sec : Nat := fieldKey (0x1438) 0
/-- TB_STEP_COUNT.count (R259). -/
abbrev K.TB_STEP_COUNT_count : Nat := fieldKey (0x143C) 0
/-- CUE_PERIOD.ns (R269). -/
abbrev K.CUE_PERIOD_ns (i : Nat) : Nat := fieldKey (0x2400 + 0x20 * i) 0
/-- CUE_PHASE.ns (R269). -/
abbrev K.CUE_PHASE_ns (i : Nat) : Nat := fieldKey (0x2404 + 0x20 * i) 0
/-- CUE_CTRL.enable (R269). -/
abbrev K.CUE_CTRL_enable (i : Nat) : Nat := fieldKey (0x2408 + 0x20 * i) 0
/-- CUE_CTRL.pin (R269). -/
abbrev K.CUE_CTRL_pin (i : Nat) : Nat := fieldKey (0x2408 + 0x20 * i) 1
/-- CUE_CTRL.pol (R269). -/
abbrev K.CUE_CTRL_pol (i : Nat) : Nat := fieldKey (0x2408 + 0x20 * i) 2
/-- CUE_CTRL.targets (R269). -/
abbrev K.CUE_CTRL_targets (i : Nat) : Nat := fieldKey (0x2408 + 0x20 * i) 4
/-- CUE_WIDTH.ns (R269). -/
abbrev K.CUE_WIDTH_ns (i : Nat) : Nat := fieldKey (0x240C + 0x20 * i) 0
/-- CUE_EDGE_LO.edge (R269). -/
abbrev K.CUE_EDGE_LO_edge (i : Nat) : Nat := fieldKey (0x2410 + 0x20 * i) 0
/-- CUE_EDGE_HI.edge (R269). -/
abbrev K.CUE_EDGE_HI_edge (i : Nat) : Nat := fieldKey (0x2414 + 0x20 * i) 0
/-- CAP_CTRL.edge (R269). -/
abbrev K.CAP_CTRL_edge (i : Nat) : Nat := fieldKey (0x2600 + 0x10 * i) 0
/-- CAP_CTRL.filter (R269). -/
abbrev K.CAP_CTRL_filter (i : Nat) : Nat := fieldKey (0x2600 + 0x10 * i) 2
/-- CAP_COUNT.count (R269). -/
abbrev K.CAP_COUNT_count (i : Nat) : Nat := fieldKey (0x2604 + 0x10 * i) 0
/-- CAP_LAST_NS.ns (R269). -/
abbrev K.CAP_LAST_NS_ns (i : Nat) : Nat := fieldKey (0x2608 + 0x10 * i) 0
/-- ING_CTRL.enable (R284). -/
abbrev K.ING_CTRL_enable (i : Nat) : Nat := fieldKey (0x4000 + 0x40 * i) 0
/-- ING_CTRL.test_line (R284). -/
abbrev K.ING_CTRL_test_line (i : Nat) : Nat := fieldKey (0x4000 + 0x40 * i) 1
/-- ING_WM.high_4k (R284). -/
abbrev K.ING_WM_high_4k (i : Nat) : Nat := fieldKey (0x4004 + 0x40 * i) 0
/-- ING_WM.low_4k (R284). -/
abbrev K.ING_WM_low_4k (i : Nat) : Nat := fieldKey (0x4004 + 0x40 * i) 16
/-- ING_FILL.bytes (R284). -/
abbrev K.ING_FILL_bytes (i : Nat) : Nat := fieldKey (0x4008 + 0x40 * i) 0
/-- ING_LOST_PKTS.count (R284). -/
abbrev K.ING_LOST_PKTS_count (i : Nat) : Nat := fieldKey (0x400C + 0x40 * i) 0
/-- ING_LOST_BYTES.count (R284). -/
abbrev K.ING_LOST_BYTES_count (i : Nat) : Nat := fieldKey (0x4010 + 0x40 * i) 0
/-- ING_DISCARD.count (R284). -/
abbrev K.ING_DISCARD_count (i : Nat) : Nat := fieldKey (0x4014 + 0x40 * i) 0
/-- ING_DROP_LIMIT.pkts (R284). -/
abbrev K.ING_DROP_LIMIT_pkts (i : Nat) : Nat := fieldKey (0x4018 + 0x40 * i) 0
/-- ING_HOLD.asserted (R284). -/
abbrev K.ING_HOLD_asserted (i : Nat) : Nat := fieldKey (0x401C + 0x40 * i) 0
/-- ING_HOLD_COUNT.count (R284). -/
abbrev K.ING_HOLD_COUNT_count (i : Nat) : Nat := fieldKey (0x4020 + 0x40 * i) 0
/-- ETH_RX_LAT.lat (R284). -/
abbrev K.ETH_RX_LAT_lat (i : Nat) : Nat := fieldKey (0x4324 + 0x40 * i) 0
/-- ETH_TX_LAT.lat (R284). -/
abbrev K.ETH_TX_LAT_lat (i : Nat) : Nat := fieldKey (0x4328 + 0x40 * i) 0
/-- ETH_ASYM.asym (R284). -/
abbrev K.ETH_ASYM_asym (i : Nat) : Nat := fieldKey (0x432C + 0x40 * i) 0
/-- ETH_TX_BASE_LO.base (R284). -/
abbrev K.ETH_TX_BASE_LO_base (i : Nat) : Nat := fieldKey (0x4330 + 0x40 * i) 5
/-- ETH_TX_BASE_HI.base (R284). -/
abbrev K.ETH_TX_BASE_HI_base (i : Nat) : Nat := fieldKey (0x4334 + 0x40 * i) 0
/-- ETH_TX_CTRL.log2_entries (R284). -/
abbrev K.ETH_TX_CTRL_log2_entries (i : Nat) : Nat := fieldKey (0x4338 + 0x40 * i) 0
/-- ETH_TX_CTRL.enable (R284). -/
abbrev K.ETH_TX_CTRL_enable (i : Nat) : Nat := fieldKey (0x4338 + 0x40 * i) 8
/-- ETH_TX_CTRL.pause_en (R284). -/
abbrev K.ETH_TX_CTRL_pause_en (i : Nat) : Nat := fieldKey (0x4338 + 0x40 * i) 9
/-- CAN_NBT.timing (R284). -/
abbrev K.CAN_NBT_timing (i : Nat) : Nat := fieldKey (0x4424 + 0x40 * i) 0
/-- CAN_DBT.timing (R284). -/
abbrev K.CAN_DBT_timing (i : Nat) : Nat := fieldKey (0x4428 + 0x40 * i) 0
/-- TEST_FAIL.count (R284). -/
abbrev K.TEST_FAIL_count (i : Nat) : Nat := fieldKey (0x403C + 0x40 * i) 0
/-- STR_CTRL.enable (R284). -/
abbrev K.STR_CTRL_enable (i : Nat) : Nat := fieldKey (0x4800 + 0x20 * i) 0
/-- STR_CTRL.port (R284). -/
abbrev K.STR_CTRL_port (i : Nat) : Nat := fieldKey (0x4800 + 0x20 * i) 1
/-- STR_CTRL.vc (R284). -/
abbrev K.STR_CTRL_vc (i : Nat) : Nat := fieldKey (0x4800 + 0x20 * i) 6
/-- STR_CTRL.kind (R284). -/
abbrev K.STR_CTRL_kind (i : Nat) : Nat := fieldKey (0x4800 + 0x20 * i) 8
/-- STR_CTRL.realm (R284). -/
abbrev K.STR_CTRL_realm (i : Nat) : Nat := fieldKey (0x4800 + 0x20 * i) 9
/-- STR_CB_LO.base (R284). -/
abbrev K.STR_CB_LO_base (i : Nat) : Nat := fieldKey (0x4804 + 0x20 * i) 12
/-- STR_CB_HI.base (R284). -/
abbrev K.STR_CB_HI_base (i : Nat) : Nat := fieldKey (0x4808 + 0x20 * i) 0
/-- STR_SIZE.n_or_slots (R284). -/
abbrev K.STR_SIZE_n_or_slots (i : Nat) : Nat := fieldKey (0x480C + 0x20 * i) 0
/-- STR_SIZE.lines (R284). -/
abbrev K.STR_SIZE_lines (i : Nat) : Nat := fieldKey (0x480C + 0x20 * i) 16
/-- STR_PITCH.bytes (R284). -/
abbrev K.STR_PITCH_bytes (i : Nat) : Nat := fieldKey (0x4810 + 0x20 * i) 0
/-- STR_FILTER.ethertype (R284). -/
abbrev K.STR_FILTER_ethertype (i : Nat) : Nat := fieldKey (0x4814 + 0x20 * i) 0
/-- STR_FILTER.vlan (R284). -/
abbrev K.STR_FILTER_vlan (i : Nat) : Nat := fieldKey (0x4814 + 0x20 * i) 16
/-- STR_FILTER.vlan_en (R284). -/
abbrev K.STR_FILTER_vlan_en (i : Nat) : Nat := fieldKey (0x4814 + 0x20 * i) 28
/-- STR_STAMP.source (R284). -/
abbrev K.STR_STAMP_source (i : Nat) : Nat := fieldKey (0x4818 + 0x20 * i) 0
/-- STR_STAMP.src_kind (R284). -/
abbrev K.STR_STAMP_src_kind (i : Nat) : Nat := fieldKey (0x4818 + 0x20 * i) 4
/-- STR_STAMP.window_us (R284). -/
abbrev K.STR_STAMP_window_us (i : Nat) : Nat := fieldKey (0x4818 + 0x20 * i) 8
/-- SPI_CTRL.mode (R284). -/
abbrev K.SPI_CTRL_mode (i : Nat) : Nat := fieldKey (0x4C00 + 0x20 * i) 0
/-- SPI_CTRL.div (R284). -/
abbrev K.SPI_CTRL_div (i : Nat) : Nat := fieldKey (0x4C00 + 0x20 * i) 2
/-- SPI_CTRL.trig (R284). -/
abbrev K.SPI_CTRL_trig (i : Nat) : Nat := fieldKey (0x4C00 + 0x20 * i) 10
/-- SPI_CTRL.trig_kind (R284). -/
abbrev K.SPI_CTRL_trig_kind (i : Nat) : Nat := fieldKey (0x4C00 + 0x20 * i) 14
/-- SPI_CTRL.rlen (R284). -/
abbrev K.SPI_CTRL_rlen (i : Nat) : Nat := fieldKey (0x4C00 + 0x20 * i) 16
/-- SPI_CMD.len (R284). -/
abbrev K.SPI_CMD_len (i : Nat) : Nat := fieldKey (0x4C04 + 0x20 * i) 0
/-- SPI_CMD.bytes (R284). -/
abbrev K.SPI_CMD_bytes (i : Nat) (j : Nat) : Nat := fieldKey (0x4C08 + 0x20 * i + 0x4 * j) 0
/-- FUS_ADMIT.wait_us (R314). -/
abbrev K.FUS_ADMIT_wait_us : Nat := fieldKey (0x3000) 0
/-- EGO_CTRL.enable (R314). -/
abbrev K.EGO_CTRL_enable : Nat := fieldKey (0x3010) 0
/-- EGO_CTRL.can (R314). -/
abbrev K.EGO_CTRL_can : Nat := fieldKey (0x3010) 1
/-- EGO_CTRL.spi (R314). -/
abbrev K.EGO_CTRL_spi : Nat := fieldKey (0x3010) 3
/-- EGO_CTRL.pose_ch (R314). -/
abbrev K.EGO_CTRL_pose_ch : Nat := fieldKey (0x3010) 4
/-- EGO_CAN_ID.id (R314). -/
abbrev K.EGO_CAN_ID_id : Nat := fieldKey (0x3014) 0
/-- EGO_CAN_ID.ext (R314). -/
abbrev K.EGO_CAN_ID_ext : Nat := fieldKey (0x3014) 29
/-- EGO_WHEEL.offsets (R314). -/
abbrev K.EGO_WHEEL_offsets : Nat := fieldKey (0x3018) 0
/-- EGO_WHEEL_SCALE.scale (R314). -/
abbrev K.EGO_WHEEL_SCALE_scale : Nat := fieldKey (0x301C) 0
/-- EGO_IMU.off_yaw (R314). -/
abbrev K.EGO_IMU_off_yaw : Nat := fieldKey (0x3020) 0
/-- EGO_IMU_SCALE.scale (R314). -/
abbrev K.EGO_IMU_SCALE_scale : Nat := fieldKey (0x3024) 0
/-- EGO_TRACK.m (R314). -/
abbrev K.EGO_TRACK_m : Nat := fieldKey (0x3028) 0
/-- EGO_SLIP.rad_s (R314). -/
abbrev K.EGO_SLIP_rad_s : Nat := fieldKey (0x302C) 0
/-- EGO_STATUS.source (R314). -/
abbrev K.EGO_STATUS_source : Nat := fieldKey (0x3030) 0
/-- EGO_TICKS.count (R314). -/
abbrev K.EGO_TICKS_count : Nat := fieldKey (0x3034) 0
/-- FUS_MALFORMED.count (R314). -/
abbrev K.FUS_MALFORMED_count : Nat := fieldKey (0x3038) 0
/-- FUS_CH_CTRL.enable (R314). -/
abbrev K.FUS_CH_CTRL_enable (i : Nat) : Nat := fieldKey (0x3100 + 0x20 * i) 0
/-- FUS_CH_CTRL.kind (R314). -/
abbrev K.FUS_CH_CTRL_kind (i : Nat) : Nat := fieldKey (0x3100 + 0x20 * i) 1
/-- FUS_CH_CTRL.post (R314). -/
abbrev K.FUS_CH_CTRL_post (i : Nat) : Nat := fieldKey (0x3100 + 0x20 * i) 3
/-- FUS_CH_CTRL.stream (R314). -/
abbrev K.FUS_CH_CTRL_stream (i : Nat) : Nat := fieldKey (0x3100 + 0x20 * i) 4
/-- FUS_CH_CTRL.src_en (R314). -/
abbrev K.FUS_CH_CTRL_src_en (i : Nat) : Nat := fieldKey (0x3100 + 0x20 * i) 9
/-- FUS_CH_CTRL.src_off (R314). -/
abbrev K.FUS_CH_CTRL_src_off (i : Nat) : Nat := fieldKey (0x3100 + 0x20 * i) 10
/-- FUS_CH_PERIOD.ns (R314). -/
abbrev K.FUS_CH_PERIOD_ns (i : Nat) : Nat := fieldKey (0x3104 + 0x20 * i) 0
/-- FUS_CH_LAT.ns (R314). -/
abbrev K.FUS_CH_LAT_ns (i : Nat) : Nat := fieldKey (0x3108 + 0x20 * i) 0
/-- FUS_CH_EXTRAP.ms (R314). -/
abbrev K.FUS_CH_EXTRAP_ms (i : Nat) : Nat := fieldKey (0x310C + 0x20 * i) 0
/-- FUS_CH_POST_LO.base (R314). -/
abbrev K.FUS_CH_POST_LO_base (i : Nat) : Nat := fieldKey (0x3110 + 0x20 * i) 12
/-- FUS_CH_POST_HI.base (R314). -/
abbrev K.FUS_CH_POST_HI_base (i : Nat) : Nat := fieldKey (0x3114 + 0x20 * i) 0
/-- FUS_CH_STATE.unsync (R314). -/
abbrev K.FUS_CH_STATE_unsync (i : Nat) : Nat := fieldKey (0x3118 + 0x20 * i) 0
/-- FUS_CH_LATE.count (R314). -/
abbrev K.FUS_CH_LATE_count (i : Nat) : Nat := fieldKey (0x311C + 0x20 * i) 0
/-- FUS_SVC_CTRL.enable (R314). -/
abbrev K.FUS_SVC_CTRL_enable (i : Nat) : Nat := fieldKey (0x3500 + 0x10 * i) 0
/-- FUS_SVC_CTRL.gen (R314). -/
abbrev K.FUS_SVC_CTRL_gen (i : Nat) : Nat := fieldKey (0x3500 + 0x10 * i) 1
/-- FUS_SVC_CTRL.out (R314). -/
abbrev K.FUS_SVC_CTRL_out (i : Nat) : Nat := fieldKey (0x3500 + 0x10 * i) 5
/-- FUS_SVC_MASK.channels (R314). -/
abbrev K.FUS_SVC_MASK_channels (i : Nat) : Nat := fieldKey (0x3504 + 0x10 * i) 0
/-- PLE_SVC_CTRL.enable (R314). -/
abbrev K.PLE_SVC_CTRL_enable (i : Nat) : Nat := fieldKey (0x3600 + 0x20 * i) 0
/-- PLE_SVC_CTRL.gen (R314). -/
abbrev K.PLE_SVC_CTRL_gen (i : Nat) : Nat := fieldKey (0x3600 + 0x20 * i) 1
/-- PLE_SVC_CTRL.out (R314). -/
abbrev K.PLE_SVC_CTRL_out (i : Nat) : Nat := fieldKey (0x3600 + 0x20 * i) 5
/-- PLE_SVC_CTRL.fus (R314). -/
abbrev K.PLE_SVC_CTRL_fus (i : Nat) : Nat := fieldKey (0x3600 + 0x20 * i) 8
/-- PLE_REQ_LO.addr (R314). -/
abbrev K.PLE_REQ_LO_addr (i : Nat) : Nat := fieldKey (0x3604 + 0x20 * i) 0
/-- PLE_REQ_HI.addr (R314). -/
abbrev K.PLE_REQ_HI_addr (i : Nat) : Nat := fieldKey (0x3608 + 0x20 * i) 0
/-- PLE_MAP_LO.addr (R314). -/
abbrev K.PLE_MAP_LO_addr (i : Nat) : Nat := fieldKey (0x360C + 0x20 * i) 0
/-- PLE_MAP_HI.addr (R314). -/
abbrev K.PLE_MAP_HI_addr (i : Nat) : Nat := fieldKey (0x3610 + 0x20 * i) 0
/-- OUT_CB_LO.base (R314). -/
abbrev K.OUT_CB_LO_base (i : Nat) : Nat := fieldKey (0x3700 + 0x20 * i) 12
/-- OUT_CB_HI.base (R314). -/
abbrev K.OUT_CB_HI_base (i : Nat) : Nat := fieldKey (0x3704 + 0x20 * i) 0
/-- OUT_SIZE.log2 (R314). -/
abbrev K.OUT_SIZE_log2 (i : Nat) : Nat := fieldKey (0x3708 + 0x20 * i) 0
/-- AGE_LIMIT.ms (R314). -/
abbrev K.AGE_LIMIT_ms (i : Nat) : Nat := fieldKey (0x370C + 0x20 * i) 0
/-- MISS_LIMIT.ms (R314). -/
abbrev K.MISS_LIMIT_ms (i : Nat) : Nat := fieldKey (0x3710 + 0x20 * i) 0
/-- OUT_STALE.count (R314). -/
abbrev K.OUT_STALE_count (i : Nat) : Nat := fieldKey (0x3714 + 0x20 * i) 0
/-- OUT_DROPPED.count (R314). -/
abbrev K.OUT_DROPPED_count (i : Nat) : Nat := fieldKey (0x3718 + 0x20 * i) 0
/-- DPX_PAIR.pairing (R339). -/
abbrev K.DPX_PAIR_pairing : Nat := fieldKey (0x1300) 0
/-- DPX_WAIT.us (R339). -/
abbrev K.DPX_WAIT_us : Nat := fieldKey (0x1304) 0
/-- ISL_CMP.mode (R339). -/
abbrev K.ISL_CMP_mode : Nat := fieldKey (0x1308) 0
/-- ISL_CMP.window (R339). -/
abbrev K.ISL_CMP_window : Nat := fieldKey (0x1308) 8
/-- ISL_STATUS.sia (R339). -/
abbrev K.ISL_STATUS_sia : Nat := fieldKey (0x1310) 0
/-- ISL_STATUS.sib (R339). -/
abbrev K.ISL_STATUS_sib : Nat := fieldKey (0x1310) 4
/-- ISL_STATUS.holder (R339). -/
abbrev K.ISL_STATUS_holder : Nat := fieldKey (0x1310) 8
/-- ISL_LATENT.sia (R339). -/
abbrev K.ISL_LATENT_sia : Nat := fieldKey (0x1314) 0
/-- ISL_LATENT.sib (R339). -/
abbrev K.ISL_LATENT_sib : Nat := fieldKey (0x1314) 8
/-- DPX_FRAME.frame (R339). -/
abbrev K.DPX_FRAME_frame : Nat := fieldKey (0x1318) 0
/-- DPX_TRANSIENT.count (R339). -/
abbrev K.DPX_TRANSIENT_count : Nat := fieldKey (0x131C) 0
/-- DPX_RECENT.counts (R339). -/
abbrev K.DPX_RECENT_counts : Nat := fieldKey (0x1320) 0
/-- DPX_STATE.simplex (R339). -/
abbrev K.DPX_STATE_simplex : Nat := fieldKey (0x1324) 0
/-- DPX_STATE.split (R339). -/
abbrev K.DPX_STATE_split : Nat := fieldKey (0x1324) 8
/-- FAULT_LAST.source (R339). -/
abbrev K.FAULT_LAST_source : Nat := fieldKey (0x1328) 0
/-- FAULT_COUNT.c (R339). -/
abbrev K.FAULT_COUNT_c : Nat := fieldKey (0x132C) 0
/-- FAULT_COUNT.d (R339). -/
abbrev K.FAULT_COUNT_d : Nat := fieldKey (0x132C) 8
/-- DBG_STATUS.active (R339). -/
abbrev K.DBG_STATUS_active : Nat := fieldKey (0x1330) 0
/-- DBG_STATUS.scope (R339). -/
abbrev K.DBG_STATUS_scope : Nat := fieldKey (0x1330) 4
/-- BOOT_STATUS.phase (R363). -/
abbrev K.BOOT_STATUS_phase : Nat := fieldKey (0x1600) 0
/-- BOOT_STATUS.code (R363). -/
abbrev K.BOOT_STATUS_code : Nat := fieldKey (0x1600) 8
/-- BOOT_STATUS.slot (R363). -/
abbrev K.BOOT_STATUS_slot : Nat := fieldKey (0x1600) 12
/-- BOOT_STATUS.cellar_init (R363). -/
abbrev K.BOOT_STATUS_cellar_init : Nat := fieldKey (0x1600) 13
/-- BOOT_TIME.us (R363). -/
abbrev K.BOOT_TIME_us : Nat := fieldKey (0x1604) 0
/-- BOOT_SVN.svn (R363). -/
abbrev K.BOOT_SVN_svn : Nat := fieldKey (0x1608) 0
/-- BOOT_SVN_FUSED.svn (R363). -/
abbrev K.BOOT_SVN_FUSED_svn : Nat := fieldKey (0x160C) 0
/-- LNK_THRESH.errors (R363). -/
abbrev K.LNK_THRESH_errors : Nat := fieldKey (0x1640) 0
/-- LNK_CTRL.retrain (R363). -/
abbrev K.LNK_CTRL_retrain : Nat := fieldKey (0x1644) 0
/-- LNK_STATUS.state (R363). -/
abbrev K.LNK_STATUS_state (i : Nat) : Nat := fieldKey (0x1700 + 0x20 * i) 0
/-- LNK_STATUS.width_fwd (R363). -/
abbrev K.LNK_STATUS_width_fwd (i : Nat) : Nat := fieldKey (0x1700 + 0x20 * i) 8
/-- LNK_STATUS.width_rev (R363). -/
abbrev K.LNK_STATUS_width_rev (i : Nat) : Nat := fieldKey (0x1700 + 0x20 * i) 10
/-- LNK_STATUS.extra_fwd (R363). -/
abbrev K.LNK_STATUS_extra_fwd (i : Nat) : Nat := fieldKey (0x1700 + 0x20 * i) 16
/-- LNK_STATUS.extra_rev (R363). -/
abbrev K.LNK_STATUS_extra_rev (i : Nat) : Nat := fieldKey (0x1700 + 0x20 * i) 24
/-- LNK_EPOCH.epoch (R363). -/
abbrev K.LNK_EPOCH_epoch (i : Nat) : Nat := fieldKey (0x1704 + 0x20 * i) 0
/-- LNK_RETRY.count (R363). -/
abbrev K.LNK_RETRY_count (i : Nat) : Nat := fieldKey (0x1708 + 0x20 * i) 0
/-- LNK_RETRAIN.count (R363). -/
abbrev K.LNK_RETRAIN_count (i : Nat) : Nat := fieldKey (0x170C + 0x20 * i) 0
/-- LNK_LANE_ERR.lane (R363). -/
abbrev K.LNK_LANE_ERR_lane (i : Nat) : Nat := fieldKey (0x1710 + 0x20 * i) 0
/-- LNK_LANE_ERR.dir (R363). -/
abbrev K.LNK_LANE_ERR_dir (i : Nat) : Nat := fieldKey (0x1710 + 0x20 * i) 7
/-- LDG_STATUS.admitted (R380). -/
abbrev K.LDG_STATUS_admitted : Nat := fieldKey (0x1800) 0
/-- LDG_STATUS.realms (R380). -/
abbrev K.LDG_STATUS_realms : Nat := fieldKey (0x1800) 8
/-- LDG_STATUS.split (R380). -/
abbrev K.LDG_STATUS_split : Nat := fieldKey (0x1800) 16
/-- LDG_GRACE.ms (R380). -/
abbrev K.LDG_GRACE_ms : Nat := fieldKey (0x1804) 0
/-- LDG_LAST_RECALL.us (R380). -/
abbrev K.LDG_LAST_RECALL_us : Nat := fieldKey (0x1808) 0
/-- LDG_CHECKPOINTED.count (R380). -/
abbrev K.LDG_CHECKPOINTED_count : Nat := fieldKey (0x180C) 0
/-- LDG_ABANDONED.count (R380). -/
abbrev K.LDG_ABANDONED_count : Nat := fieldKey (0x1810) 0
/-- UND_CTRL.enable (R380). -/
abbrev K.UND_CTRL_enable : Nat := fieldKey (0x1900) 0
/-- UND_CTRL.realm (R380). -/
abbrev K.UND_CTRL_realm : Nat := fieldKey (0x1900) 1
/-- UND_CTRL.orphan (R380). -/
abbrev K.UND_CTRL_orphan : Nat := fieldKey (0x1900) 4
/-- UND_TABLE_LO.base (R380). -/
abbrev K.UND_TABLE_LO_base : Nat := fieldKey (0x1904) 6
/-- UND_TABLE_HI.base (R380). -/
abbrev K.UND_TABLE_HI_base : Nat := fieldKey (0x1908) 0
/-- UND_TABLE_CTRL.log2_entries (R380). -/
abbrev K.UND_TABLE_CTRL_log2_entries : Nat := fieldKey (0x190C) 0
/-- UND_START_LO.index (R380). -/
abbrev K.UND_START_LO_index : Nat := fieldKey (0x1910) 0
/-- UND_START_HI.index (R380). -/
abbrev K.UND_START_HI_index : Nat := fieldKey (0x1914) 0
/-- UND_VERIFIED_LO.index (R380). -/
abbrev K.UND_VERIFIED_LO_index : Nat := fieldKey (0x1918) 0
/-- UND_VERIFIED_HI.index (R380). -/
abbrev K.UND_VERIFIED_HI_index : Nat := fieldKey (0x191C) 0
/-- UND_DONE_LO.index (R380). -/
abbrev K.UND_DONE_LO_index : Nat := fieldKey (0x1920) 0
/-- UND_DONE_HI.index (R380). -/
abbrev K.UND_DONE_HI_index : Nat := fieldKey (0x1924) 0
/-- UND_STATE.state (R380). -/
abbrev K.UND_STATE_state : Nat := fieldKey (0x1928) 0
/-- UND_ORPHAN.ms (R380). -/
abbrev K.UND_ORPHAN_ms : Nat := fieldKey (0x192C) 0
/-- ATT_CTRL.go (R380). -/
abbrev K.ATT_CTRL_go (p : Nat) : Nat := fieldKey (0x10000 * p + 0x0400) 0
/-- ATT_CTRL.op (R380). -/
abbrev K.ATT_CTRL_op (p : Nat) : Nat := fieldKey (0x10000 * p + 0x0400) 1
/-- ATT_CTRL.realm (R380). -/
abbrev K.ATT_CTRL_realm (p : Nat) : Nat := fieldKey (0x10000 * p + 0x0400) 2
/-- ATT_STATUS.busy (R380). -/
abbrev K.ATT_STATUS_busy (p : Nat) : Nat := fieldKey (0x10000 * p + 0x0404) 0
/-- ATT_STATUS.done (R380). -/
abbrev K.ATT_STATUS_done (p : Nat) : Nat := fieldKey (0x10000 * p + 0x0404) 1
/-- ATT_STATUS.err (R380). -/
abbrev K.ATT_STATUS_err (p : Nat) : Nat := fieldKey (0x10000 * p + 0x0404) 2
/-- ATT_ADDR_LO.base (R380). -/
abbrev K.ATT_ADDR_LO_base (p : Nat) : Nat := fieldKey (0x10000 * p + 0x0408) 8
/-- ATT_ADDR_HI.base (R380). -/
abbrev K.ATT_ADDR_HI_base (p : Nat) : Nat := fieldKey (0x10000 * p + 0x040C) 0
/-- ATT_NONCE.nonce (R380). -/
abbrev K.ATT_NONCE_nonce (p : Nat) (i : Nat) : Nat := fieldKey (0x10000 * p + 0x0420 + 0x4 * i) 0
/-- THM_STATUS.sensor_ok (R399). -/
abbrev K.THM_STATUS_sensor_ok : Nat := fieldKey (0x1C00) 0
/-- THM_STATUS.cal_valid (R399). -/
abbrev K.THM_STATUS_cal_valid : Nat := fieldKey (0x1C00) 1
/-- THM_STATUS.keepwarm_short (R399). -/
abbrev K.THM_STATUS_keepwarm_short : Nat := fieldKey (0x1C00) 2
/-- THM_STATUS.limp_cause (R399). -/
abbrev K.THM_STATUS_limp_cause : Nat := fieldKey (0x1C00) 4
/-- THM_FLOW.sensor (R399). -/
abbrev K.THM_FLOW_sensor : Nat := fieldKey (0x1C04) 0
/-- THM_FLOW.cal (R399). -/
abbrev K.THM_FLOW_cal : Nat := fieldKey (0x1C04) 16
/-- THM_COOLANT.inlet (R399). -/
abbrev K.THM_COOLANT_inlet : Nat := fieldKey (0x1C08) 0
/-- THM_COOLANT.outlet (R399). -/
abbrev K.THM_COOLANT_outlet : Nat := fieldKey (0x1C08) 16
/-- THM_CAP.w (R399). -/
abbrev K.THM_CAP_w : Nat := fieldKey (0x1C0C) 0
/-- THM_USER_CAP.w (R399). -/
abbrev K.THM_USER_CAP_w : Nat := fieldKey (0x1C10) 0
/-- THM_THROTTLE.c (R399). -/
abbrev K.THM_THROTTLE_c : Nat := fieldKey (0x1C14) 0
/-- THM_FLOOR.c (R399). -/
abbrev K.THM_FLOOR_c : Nat := fieldKey (0x1C18) 0
/-- THM_FLOOR.enable (R399). -/
abbrev K.THM_FLOOR_enable : Nat := fieldKey (0x1C18) 8
/-- THM_RAMP.k_s (R399). -/
abbrev K.THM_RAMP_k_s : Nat := fieldKey (0x1C1C) 0
/-- THM_FLUID_K.k (R399). -/
abbrev K.THM_FLUID_K_k : Nat := fieldKey (0x1C20) 0
/-- THM_RDIE.k_w (R399). -/
abbrev K.THM_RDIE_k_w : Nat := fieldKey (0x1C24) 0
/-- THM_TAU.ms (R399). -/
abbrev K.THM_TAU_ms : Nat := fieldKey (0x1C28) 0
/-- THM_HOT.readingsLo (R399). -/
abbrev K.THM_HOT_readingsLo (i : Nat) (j : Nat) : Nat := fieldKey (0x1D00 + 0x10 * i + 0x4 * j) 0
/-- THM_HOT.readingsHi (R399). -/
abbrev K.THM_HOT_readingsHi (i : Nat) (j : Nat) : Nat := fieldKey (0x1D00 + 0x10 * i + 0x4 * j) 16
/-- THM_DIODE_FAIL.diodes (R399). -/
abbrev K.THM_DIODE_FAIL_diodes (i : Nat) : Nat := fieldKey (0x1D60 + 0x4 * i) 0
/-- THM_LEVEL.levels (R399). -/
abbrev K.THM_LEVEL_levels (i : Nat) : Nat := fieldKey (0x1D70 + 0x4 * i) 0
/-- THM_BLIND.spots (R399). -/
abbrev K.THM_BLIND_spots : Nat := fieldKey (0x1D80) 0
/-- THM_BLIND_IOD.spots (R399). -/
abbrev K.THM_BLIND_IOD_spots : Nat := fieldKey (0x1D84) 0
/-- WEAR_CYCLES.count (R399). -/
abbrev K.WEAR_CYCLES_count (i : Nat) : Nat := fieldKey (0x1E00 + 0x4 * i) 0
/-- WEAR_HOT.minutes (R399). -/
abbrev K.WEAR_HOT_minutes (i : Nat) : Nat := fieldKey (0x1E20 + 0x4 * i) 0
/-- WEAR_RETRAIN.count (R399). -/
abbrev K.WEAR_RETRAIN_count (i : Nat) : Nat := fieldKey (0x1E40 + 0x4 * i) 0
/-- WEAR_POWER.hours (R399). -/
abbrev K.WEAR_POWER_hours : Nat := fieldKey (0x1E60) 0
/-- WEAR_DORMANT.count (R399). -/
abbrev K.WEAR_DORMANT_count : Nat := fieldKey (0x1E64) 0
/-- PART_CTRL.drive (R407). -/
abbrev K.PART_CTRL_drive (i : Nat) : Nat := fieldKey (0x1200 + 0x10 * i) 0
/-- PART_CTRL.dies (R407). -/
abbrev K.PART_CTRL_dies (i : Nat) : Nat := fieldKey (0x1200 + 0x10 * i) 4
/-- PART_CTRL.share (R407). -/
abbrev K.PART_CTRL_share (i : Nat) : Nat := fieldKey (0x1200 + 0x10 * i) 16
/-- PART_DRIVE.active (R407). -/
abbrev K.PART_DRIVE_active : Nat := fieldKey (0x1280) 0
/-- PART_DRIVE.limp_drive (R407). -/
abbrev K.PART_DRIVE_limp_drive : Nat := fieldKey (0x1280) 1
/-- ID_PART.part (R409). -/
abbrev K.ID_PART_part : Nat := fieldKey (0x0800) 0
/-- ID_PART.stepping (R409). -/
abbrev K.ID_PART_stepping : Nat := fieldKey (0x0800) 16
/-- ID_PCI.vendor (R409). -/
abbrev K.ID_PCI_vendor : Nat := fieldKey (0x0804) 0
/-- ID_PCI.device (R409). -/
abbrev K.ID_PCI_device : Nat := fieldKey (0x0804) 16
/-- ID_LEVELS.levelLo (R409). -/
abbrev K.ID_LEVELS_levelLo (i : Nat) : Nat := fieldKey (0x0808 + 0x4 * i) 0
/-- ID_LEVELS.levelHi (R409). -/
abbrev K.ID_LEVELS_levelHi (i : Nat) : Nat := fieldKey (0x0808 + 0x4 * i) 16
/-- ID_SERIAL.serial (R409). -/
abbrev K.ID_SERIAL_serial (i : Nat) : Nat := fieldKey (0x0820 + 0x4 * i) 0
/-- ID_MGR.port (R409). -/
abbrev K.ID_MGR_port : Nat := fieldKey (0x0830) 0
/-- ID_DIES.present (R409). -/
abbrev K.ID_DIES_present : Nat := fieldKey (0x0834) 0
/-- ID_DIES.in_service (R409). -/
abbrev K.ID_DIES_in_service : Nat := fieldKey (0x0834) 8
/-- ID_DIES.sia_ok (R409). -/
abbrev K.ID_DIES_sia_ok : Nat := fieldKey (0x0834) 12
/-- ID_DIES.sib_ok (R409). -/
abbrev K.ID_DIES_sib_ok : Nat := fieldKey (0x0834) 13
/-- ID_DIE_LO.id (R409). -/
abbrev K.ID_DIE_LO_id (i : Nat) : Nat := fieldKey (0x0840 + 0x8 * i) 0
/-- ID_DIE_HI.id (R409). -/
abbrev K.ID_DIE_HI_id (i : Nat) : Nat := fieldKey (0x0844 + 0x8 * i) 0
/-- ID_HBM.id (R409). -/
abbrev K.ID_HBM_id (i : Nat) (j : Nat) : Nat := fieldKey (0x0880 + 0x10 * i + 0x4 * j) 0
/-- ID_TOPO.entry (R409). -/
abbrev K.ID_TOPO_entry (i : Nat) (j : Nat) : Nat := fieldKey (0x0900 + 0x10 * i + 0x4 * j) 0
/-- ID_MEASURE.m (R409). -/
abbrev K.ID_MEASURE_m (i : Nat) : Nat := fieldKey (0x0B00 + 0x4 * i) 0

end Sys2Proof.Machine
end

