-- ==== Sys2Proof/Machine/Table.lean ====
section
/-! DEFINITION. Sparse data by key: a list of key and value pairs, keys strictly rising, where a key that is
not listed reads as a default the reader gives. Registers, memories and the like things the manual numbers are held so. -/

namespace Sys2Proof.Machine

/-- The value at key `k`; `d` where `k` is not listed. -/
def tget {α : Type} (d : α) (k : Nat) : List (Nat × α) → α
  | [] => d
  | (j, v) :: t => if j = k then v else tget d k t

/-- The list without key `k`. -/
def tdrop {α : Type} (k : Nat) (t : List (Nat × α)) : List (Nat × α) := t.filter fun e => e.1 != k

/-- Insertion of a pair before the first key that is not below it. -/
def tinsert {α : Type} (k : Nat) (v : α) : List (Nat × α) → List (Nat × α)
  | [] => [(k, v)]
  | (j, w) :: t => if j < k then (j, w) :: tinsert k v t else (k, v) :: (j, w) :: t

/-- The list with `v` at key `k`; writing the default removes the entry, so equal contents are equal lists. -/
def tset {α : Type} [DecidableEq α] (d : α) (k : Nat) (v : α) (t : List (Nat × α)) : List (Nat × α) :=
  if v = d then tdrop k t else tinsert k v (tdrop k t)

/-- The list with the value at key `k` replaced by `f` of it. -/
def tmod {α : Type} [DecidableEq α] (d : α) (k : Nat) (f : α → α) (t : List (Nat × α)) : List (Nat × α) :=
  tset d k (f (tget d k t)) t

/-- Whether the keys rise strictly. -/
def tsorted {α : Type} : List (Nat × α) → Bool
  | [] => true
  | [_] => true
  | (j, _) :: (k, w) :: t => decide (j < k) && tsorted ((k, w) :: t)

/-- The canonical form: keys strictly rising, no entry equal to what its key reads as unlisted. -/
def tcanon {α : Type} [DecidableEq α] (d : Nat → α) (t : List (Nat × α)) : Bool :=
  tsorted t && t.all fun e => decide (e.2 ≠ d e.1)

end Sys2Proof.Machine
end

