-- ==== Sys2Proof/Machine/State.lean ====
section
/-! DEFINITION. The state of the module as plain data, and its value at reset. -/

namespace Sys2Proof.Machine

/-- Why a step stops with a fault. No command of the module does: every command ends in a next state (the
faults of R333 are effects on the state). Safe. -/
inductive Fault where
  deriving DecidableEq, Repr

/-- Why a command is refused. -/
inductive Refusal where
  /-- Raised by `exec` for a command that has no meaning in the model yet. Safe. -/
  | notModelled (mnemonic : String)
  deriving DecidableEq, Repr

/-- The operating states of R27; `booting` is the time from a module reset or wake to WARM_IDLE. -/
inductive OpState where
  | off
  | booting
  | warmIdle
  | drive
  | lodge
  | limp
  | safeOff
  | dormant
  deriving DecidableEq, Repr

/-- The states of a room (R173). -/
inductive RoomState where
  | free
  | limbo
  | hot
  | cold
  | promoting
  | demoting
  deriving DecidableEq, Repr

/-- A room slot (R172, R188): a die (0 to 3) or a cellar gang (4 gang L, 5 gang R), and the slot's number there. -/
structure Slot where
  place : Nat
  index : Nat
  deriving DecidableEq, Repr

/-- A room directory entry (R173): `inHbm` says where its slots are, `lost` marks a room whose only slot was on a removed
die (R203), `fill` is how many positions its table has committed in it (R188), `slots` the current slot or slots, in realm 0 the home
die's, or gang L's, first (R201). -/
structure Room where
  count : Nat
  freeEpoch : Nat
  gen : Nat
  home : Nat
  st : RoomState
  inHbm : Bool
  lost : Bool
  fill : Nat
  slots : List Slot
  deriving DecidableEq, Repr

/-- The entry of a room number never allocated. -/
def Room.init : Room := ⟨0, 0, 0, 0, .free, false, false, 0, []⟩

/-- A slot left by a promotion or demotion, in limbo with its free epoch (R188). -/
structure SlotLimbo where
  realm : Nat
  slot : Slot
  epoch : Nat
  deriving DecidableEq, Repr

/-- The kinds of work-journal entry (R217). -/
inductive JKind where
  | length
  | alloc
  | cow
  deriving DecidableEq, Repr

/-- A work-journal entry (R217), the die that holds it, and what decides that die anew when a die leaves: the sequence's placement, the
table's capacity and the block (R200, R218). -/
structure JEntry where
  kind : JKind
  group : Nat
  layer : Nat
  block : Nat
  table : Nat
  oldLength : Nat
  oldRoom : Nat
  newRoom : Nat
  job : Nat
  die : Nat
  place : Nat
  cap : Nat
  by_ : Nat
  deriving DecidableEq, Repr

/-- A guest-book entry (R184, R185): realm and address of the table entry, room, generation, state and slots. -/
structure Guest where
  realm : Nat
  addr : Nat
  room : Nat
  gen : Nat
  st : RoomState
  slots : List Slot
  deriving DecidableEq, Repr

/-- A physical granule: memory of R164 and granule number. -/
structure Granule where
  mem : Nat
  num : Nat
  deriving DecidableEq, Repr

/-- A granule at which a DQ group showed a corrected error, with the tick of the showing (R163). -/
structure CeShow where
  mem : Nat
  gang : Nat
  group : Nat
  granule : Nat
  tick : Nat
  deriving DecidableEq, Repr

/-- The memories behind the module and their marks. The keys of `host` are port × 2^64 + bus address, of `win` realm × 2^48 +
realm address, of `room` (realm × 2^32 + room) × 2^20 + offset; the second copy of the vehicle realm's mirrored HBM window is kept 2^51 higher in
`win`, that of its mirrored rooms 2^19 higher in `room` (R201, R327); the poison lists hold the granule numbers of `win` and
`room` (their keys / 64), directory entries (realm × 2^32 + room) and physical granules (R165 to R168); `scrubbed` counts the granules of the running scrub pass. -/
structure Memory where
  host : List Host.Cell
  win : List Host.Cell
  room : List Host.Cell
  poisonWin : List Nat
  poisonRoom : List Nat
  poisonDir : List Nat
  poisonRaw : List Granule
  dirs : List (Nat × Room)
  slotLimbo : List SlotLimbo
  journal : List JEntry
  books : List (Nat × List Guest)
  shows : List CeShow
  erased : List (Nat × List Nat)
  initUnits : List Nat
  scrubbed : Nat
  deriving DecidableEq, Repr

/-- The memory with nothing listed. -/
def Memory.init : Memory := ⟨[], [], [], [], [], [], [], [], [], [], [], [], [], [], 0⟩

/-- What the model keeps of one realm outside its registers: fencing epoch (R233), reader epoch (R181), how many keys SI_A
has created and whether its slot is loaded (R170), a count of memory mappings, the rooms used in the current and the
previous frame and the rooms asked for hot placement (R188), the rooms selected, oldest first. -/
structure Realm where
  epoch : Nat
  reader : Nat
  keyGen : Nat
  keyLoaded : Bool
  used : List Nat
  usedPrev : List Nat
  askedHot : List Nat
  selected : List Nat
  deriving DecidableEq, Repr

/-- A realm at reset. -/
def Realm.init : Realm := ⟨0, 0, 0, false, [], [], [], []⟩

/-- The indices of one ring (R223), the producer and the completion consumer as the last poll read them, and whether the doorbell is
invalid (R225). -/
structure Ring where
  sqProducer : Nat
  sqConsumed : Nat
  cqConsumer : Nat
  cqProducer : Nat
  invalid : Bool
  deriving DecidableEq, Repr

/-- A ring when it is enabled (R222). -/
def Ring.init : Ring := ⟨0, 0, 0, 0, false⟩

/-- A pending gap marker (R243): lost records, time of the first and of the last. -/
structure Gap where
  count : Nat
  first : Nat
  last : Nat
  deriving DecidableEq, Repr

/-- What the module keeps for one host outside its registers (R223 to R247). `attn` lists the indices of records with the
attention flag that the host has not consumed; `status` is the block as last written, without heartbeat and time; `ready` is whether the last
block written showed no reason, which HRDY_n follows, and `falls` how often HRDY_n has fallen at a write (R249); `quiet` is set only
while a job whose records are discarded executes (R356). -/
structure HostPort where
  rings : List (Nat × Ring)
  evtProducer : Nat
  evtConsumer : Nat
  attn : List Nat
  gap : Option Gap
  dropped : Nat
  heartbeat : Nat
  pollFails : Nat
  busMaster : Bool
  perstLow : Bool
  status : List Byte
  ready : Bool
  falls : Nat
  quiet : Bool
  deriving DecidableEq, Repr

/-- A host port at reset. -/
def HostPort.init : HostPort := ⟨[], 0, 0, [], none, 0, 0, 0, false, true, [], false, 0, false⟩

/-- A full timestamp (R260): the time base in units of 2^−32 ns since 0 s, and its valid mark. -/
structure Stamp where
  units : Nat
  valid : Bool
  deriving DecidableEq, Repr

/-- The time base outside its count and registers (R253 to R257): INC in force and the one that applies from the next tick, the phase step
and the BASELINE that take effect there, and the hold debt, in units of 2^−32 ns. -/
structure TimeBase where
  inc : Nat
  incNext : Option Nat
  step : Option Int
  base : Option Nat
  debt : Nat
  deriving DecidableEq, Repr

/-- The time base at power-up: 2.0 ns for each tick (R254). -/
def TimeBase.init : TimeBase := ⟨2 ^ 33, none, none, none, 0⟩

/-- A cue generator (R264 to R267): its edge number, the time up to which its edges have fired or passed, the end of its pin's pulse while
one runs, the stamp of its last edge. -/
structure Cue where
  edges : Nat
  last : Nat
  pulse : Option Nat
  stamp : Option Stamp
  deriving DecidableEq, Repr

/-- A cue generator at power-up. -/
def Cue.init : Cue := ⟨0, 0, none, none⟩

/-- A capture input (R268): its last 16 stamps, newest first, the tick of the last accepted edge, edges unstamped since a stamp. -/
structure Capture where
  stamps : List Stamp
  tick : Option Nat
  unstamped : Nat
  deriving DecidableEq, Repr

/-- A capture input at power-up. -/
def Capture.init : Capture := ⟨[], none, 0⟩

/-- A packet in a FIFO behind its header slot (R271): stream, class, flags, stamp, info, payload, and for the first line of a camera frame
its frame stamp and whether it has none (R274). -/
structure Packet where
  stream : Nat
  cls : Nat
  flags : Nat
  stamp : Stamp
  info : Nat
  payload : List Byte
  frame : Option (Stamp × Bool)
  deriving DecidableEq, Repr

/-- A gap marker (R271, R278): the stream of its first lost packet, first and last time, packets and payload bytes lost. -/
structure GapMark where
  stream : Nat
  first : Stamp
  last : Stamp
  count : Nat
  bytes : Nat
  deriving DecidableEq, Repr

/-- What a FIFO holds: packets, gap markers, test lines, and the places of test lines that were not injected (R271, R278, R281). -/
inductive FifoItem where
  | packet (p : Packet)
  | gap (g : GapMark)
  | test (stream : Nat) (line : List Byte)
  | noTest (stream : Nat)
  deriving DecidableEq, Repr

/-- An ingress port outside its registers (R270 to R282): its FIFO, oldest first, whether the watermarks ask for its hold, packets and bytes
lost in the current second, whether it is marked failed, the streams and frames of its test-line failures. -/
structure IngPort where
  items : List FifoItem
  high : Bool
  secPkts : Nat
  secBytes : Nat
  failed : Bool
  fails : List (Nat × Nat)
  deriving DecidableEq, Repr

/-- An ingress port at reset. -/
def IngPort.init : IngPort := ⟨[], false, 0, 0, false, []⟩

/-- A camera frame that is being written (R272 to R274): arrival, frame stamp, whether it has no sync, lines written without error, lines lost,
with a CRC error and beyond H, whether its frame end was missing, whether it is closed and waits for its test line to be checked. -/
structure FrameAsm where
  arrival : Stamp
  stamp : Stamp
  noSync : Bool
  lines : List Nat
  lost : Nat
  crc : Nat
  extra : Nat
  incomplete : Bool
  closed : Bool
  deriving DecidableEq, Repr

/-- A stream outside its registers (R272 to R281): producer, packets and bytes lost, whether STREAM_INVALID stops it, the number of the
next line at its input, the frame being written; for the next frame to be published: whether a test line has been written,
whether it has been checked with its outcome, whether it was not injected; whether, with the end of the frame being written lost, the test line
of the frame after it has been written, or was not injected. -/
structure Stream where
  producer : Nat
  lostPkts : Nat
  lostBytes : Nat
  stopped : Bool
  line : Nat
  cur : Option FrameAsm
  tested : Bool
  checked : Option Bool
  skipped : Bool
  testedNext : Bool
  skippedNext : Bool
  deriving DecidableEq, Repr

/-- A stream before its first record. -/
def Stream.init : Stream := ⟨0, 0, 0, false, 0, none, false, none, false, false, false⟩

/-- What an Ethernet MAC sends: a frame with its FCS, or a PAUSE frame with its quanta (R263, R277). -/
inductive EthOut where
  | frame (bytes : List Byte)
  | pause (quanta : Nat)
  deriving DecidableEq, Repr

/-- An Ethernet MAC outside its registers: the consumer index of its transmit ring, the tick to which a received PAUSE frame holds its own
transmission, the tick of its last PAUSE frame, what it has sent. -/
structure Mac where
  txCons : Nat
  pausedTo : Nat
  pauseAt : Nat
  sent : List EthOut
  deriving DecidableEq, Repr

/-- A MAC at reset. -/
def Mac.init : Mac := ⟨0, 0, 0, []⟩

/-- An SPI master (R275): stamps of trigger edges not yet served, the stamp of the running transaction and the command
bytes it sends, the number of the next. -/
structure Spi where
  due : List Stamp
  busy : Option Stamp
  cmd : List Byte
  next : Nat
  deriving DecidableEq, Repr

/-- An SPI master at reset. -/
def Spi.init : Spi := ⟨[], none, [], 0⟩

/-- Cues, captures and sensor ingress (chapter 9); `second` is the last whole second at which lost packets were compared (R280). -/
structure Ingress where
  cues : List (Nat × Cue)
  caps : List (Nat × Capture)
  ports : List (Nat × IngPort)
  streams : List (Nat × Stream)
  macs : List (Nat × Mac)
  spis : List (Nat × Spi)
  second : Nat
  deriving DecidableEq, Repr

/-- Ingress at reset. -/
def Ingress.init : Ingress := ⟨[], [], [], [], [], [], 0⟩

/-- A sample in a channel's history (R286): sequence number, source time in ns, payload. -/
structure ChanSample where
  seq : Nat
  s : Nat
  payload : List Byte
  deriving DecidableEq, Repr

/-- A fusion channel outside its registers (R285 to R290): the next sequence number, its history ordered by source time, the arrival time of
the last sample whose residual was not below a quarter of the period, malformed samples since the last event and that event's time,
the consumer of its post stream, the latest instant admitted. -/
structure Channel where
  next : Nat
  hist : List ChanSample
  badAt : Option Nat
  malformed : Nat
  toldAt : Option Nat
  post : Nat
  admitted : Option Nat
  deriving DecidableEq, Repr

/-- A channel at power-up. -/
def Channel.init : Channel := ⟨0, [], none, 0, none, 0, none⟩

/-- A pose (R293, R294): its time in ns, x and y in units of 2^−20 m, c and s. -/
structure Pose where
  t : Nat
  x : Int
  y : Int
  c : BitVec 32
  s : BitVec 32
  deriving DecidableEq, Repr

/-- The ego-motion integrator (R293 to R295): whether it runs, the number of its next step, the poses of the last 2,000 ticks, newest first,
the speeds of the rear wheels, speed and yaw rate of its last step, wheel and IMU samples by source time, newest first; times from which
conditions W, I and D have held, and since when all have been clear. -/
structure Ego where
  on : Bool
  next : Nat
  poses : List Pose
  v : BitVec 32
  yaw : BitVec 32
  wheels : List (Nat × BitVec 16 × BitVec 16)
  imus : List (Nat × BitVec 16)
  wFrom : Option Nat
  iFrom : Option Nat
  dFrom : Option Nat
  clearFrom : Option Nat
  deriving DecidableEq, Repr

/-- The integrator before it is enabled. -/
def Ego.init : Ego := ⟨false, 0, [], 0, 0, [], [], none, none, none, none⟩

/-- The records of a fusion or planning result (R296, R297, R309): the result record with bytes 16 to 35 zero, the admission record, the
instant, sequence number and oldest source time, whether it is NO_PLAN with its reason, whether it is a replay, the output stream that
its service names, for a job the addresses of its two records. -/
structure Outcome where
  result : List Byte
  adm : List Byte
  instant : Nat
  seq : Nat
  oldest : Nat
  noPlan : Option Nat
  replay : Bool
  out : Nat
  resultAt : Nat
  admAt : Nat
  deriving DecidableEq, Repr

/-- A service result that is not yet released: its records and the digest each side has sent (R289, R297, R329, R330); `dispute` where a
disagreement is being settled. -/
structure Pend where
  o : Outcome
  digA : Option (List Byte)
  digB : Option (List Byte)
  dispute : Bool
  deriving DecidableEq, Repr

/-- A candidate of a plan's final beam (R307): primitive indices, rank key, end cell, heading, speed bin, elapsed slices, cost, reference
cells from the start on, and the voxels it occupies: slice, z, u, v. -/
structure Cand where
  prims : List Nat
  key : Nat
  cell : Int × Int
  heading : Nat
  bin : Nat
  elapsed : Nat
  cost : Nat
  cells : List (Int × Int)
  voxels : List (Nat × Nat × Int × Int)
  deriving DecidableEq, Repr

/-- A plan in progress (R308): subject, planning service, instant, sequence number, configuration, ego source and UNSYNC channels at its
admission, the sequence number, instant and ego state of the fused result bound, map set, the epochs admitted with the bound one first, the
candidates left in rank order, rechecks made, whether one runs, the reason of NO_PLAN, start cell, heading and bin, its oldest time, replay,
the addresses of a job's records. -/
structure PlanRun where
  subj : DupSubject
  svc : Nat
  instant : Nat
  seq : Nat
  cfgGen : Nat
  ego : Nat
  unsync : Nat
  fused : Option (Nat × Nat × List Byte)
  mapSet : Nat
  epochs : List Nat
  cands : List Cand
  rechecks : Nat
  checking : Bool
  reason : Nat
  start : Int × Int
  heading : Nat
  bin : Nat
  oldest : Nat
  replay : Bool
  resultAt : Nat
  admAt : Nat
  deriving DecidableEq, Repr

/-- A service outside its registers: instants due with their edge numbers, results not yet released, oldest first, results released, newest
first (R289, R308). -/
structure Svc where
  due : List (Nat × Nat)
  work : List Pend
  done : List Outcome
  deriving DecidableEq, Repr

/-- A service with nothing due. -/
def Svc.init : Svc := ⟨[], [], []⟩

/-- An output stream outside its registers (R298, R312): producer, the pending gap marker, packets and bytes lost, whether STREAM_INVALID
stops it, the time of the curtain that enabled it, the time of its last record, whether it is missing. -/
structure OutStream where
  producer : Nat
  gap : Option GapMark
  lostPkts : Nat
  lostBytes : Nat
  stopped : Bool
  from_ : Nat
  last : Option Nat
  missing : Bool
  deriving DecidableEq, Repr

/-- An output stream before its first record. -/
def OutStream.init : OutStream := ⟨0, none, 0, 0, false, 0, none, false⟩

/-- Fusion and planning outside their registers (chapter 10): channels, the integrator, services 0 to 3 of fusion and 4, 5 of planning, plans in
progress, output streams, the last integrator inputs of each admission record made (R43, R297). -/
structure Fusion where
  chans : List (Nat × Channel)
  ego : Ego
  svcs : List (Nat × Svc)
  plans : List PlanRun
  outs : List (Nat × OutStream)
  motions : List (List Byte × BitVec 32 × BitVec 32)
  deriving DecidableEq, Repr

/-- Fusion and planning at reset. -/
def Fusion.init : Fusion := ⟨[], Ego.init, [], [], [], []⟩

/-- The phases of a job in flight: accepted; started, but held until an earlier job that names one of its room tables has completed (R180);
executing; executed with its result withheld (R230, R329). -/
inductive JobPhase where
  | accepted
  | held
  | running
  | withheld
  deriving DecidableEq, Repr

/-- The result of an executed job: status, auxiliary flags, detail, digest, and the new length of each room table the job
touched with its committed length before (R236, R216). -/
structure JobResult where
  status : Nat
  aux : Nat
  detail : Nat
  digest : List Byte
  lens : List (Nat × Nat × Nat)
  extents : List (Nat × Nat)
  out : Option Outcome
  deriving DecidableEq, Repr

/-- A held comparison of two sides' results that is in dispute (R329, R330): each side's digest, where it has arrived. -/
structure Dispute where
  digA : Option (List Byte)
  digB : Option (List Byte)
  deriving DecidableEq, Repr

/-- A job in flight (R228 to R231): acceptance number, ring, descriptor, phase, reader epoch pinned (R181), room tables
named and those of them the job changes (R180), the rooms reserved (R179), the jobs a FENCE waits for (R233), whether its
completion is discarded (R356), the withheld result and its dispute, the commit index in understudy mode (R373), the instant of a FUSE or
PLAN job that has started (R299), the active banks at its start, which it keeps (R251), the work-journal entries reserved on each die
(R140). -/
structure Job where
  acc : Nat
  port : Nat
  ring : Nat
  realm : Nat
  desc : List Byte
  phase : JobPhase
  pin : Option Nat
  tables : List Nat
  changed : List Nat
  reserve : Nat
  waitFor : List Nat
  mute : Bool
  held : Option JobResult
  dispute : Option Dispute
  commit : Option Nat
  instant : Option Nat
  banks : List (Nat × Nat)
  need : List Nat
  deriving DecidableEq, Repr

/-- The CURTAIN job that has started and not completed (R250, R251): acceptance number, bank mask, whether a cue edge is awaited,
its generator and edge number, 0 for an edge at which no affected job executes, the edge at which its named point was reached, and whether the
exchange is in progress. -/
structure Curtain where
  acc : Nat
  mask : Nat
  atEdge : Bool
  gen : Nat
  edge : Nat
  reached : Option Nat
  swapping : Bool
  deriving DecidableEq, Repr

/-- A diagnosis of both sides of a withheld result (R330): its subject, the arrays of the clusters that held a tile of it, by die, or for an
engine pair 4 + engine with 0, and 1 once its golden workload has run; whether an element of side A, or of side B, has failed. -/
structure Diag where
  subj : DupSubject
  arrays : List (Nat × Nat)
  failA : Bool
  failB : Bool
  deriving DecidableEq, Repr

/-- Duplex state outside the registers: the dies (0 to 3) and engines (4 to 7: FUS_A, FUS_B, PLE_A, PLE_B) under an extended test
(R332), those that wait for their turn, those that passed and rejoin at the next frame start, the pairs split there, the engines removed, the frames of
the transient verdicts of each pair, the two dies of the LIMP pair, side A first, empty outside LIMP (R391), and the diagnoses that run (R330). -/
structure Duplex where
  testing : List Nat
  testNext : List Nat
  rejoin : List Nat
  splitNext : List Nat
  engOut : List Nat
  transients : List (Nat × Nat)
  limpPair : List Nat
  diags : List Diag
  deriving DecidableEq, Repr

/-- No test, no verdict and no LIMP pair. -/
def Duplex.init : Duplex := ⟨[], [], [], [], [], [], [], []⟩

/-- A tile operation in flight on a die (R131, R134): its number, realm, job and node, what it computes, its place, the places it has
failed at (R152), and its result in the tile store of its cluster (R137): for each output its rows of units, for an array tile the rows
of subtree roots, each an FP32 encoding or an INT32 one with bit 32 as the mark of a saturation. -/
structure Tile where
  id : Nat
  realm : Nat
  job : Nat
  node : Nat
  work : TileWork
  cluster : Nat
  array : Nat
  failed : List (Nat × Nat)
  result : List (List (List Nat))
  deriving DecidableEq, Repr

/-- A retired tile operation and its cluster (R137): a subtree root waits in the tree stacks of its output tile, the other forms are home in a tensor
or the score ledger. -/
structure Home where
  job : Nat
  node : Nat
  work : TileWork
  cluster : Nat
  result : List (List (List Nat))
  deriving DecidableEq, Repr

/-- A tile operation that was discarded and is to be issued again, with the places it has failed at (R21, R150, R152). -/
structure Owed where
  job : Nat
  node : Nat
  work : TileWork
  failed : List (Nat × Nat)
  deriving DecidableEq, Repr

/-- A room copy fetched ahead into the staging region (R138, R139): the realm, the address of the room-table entry it was read through,
the entry as read then, and the bytes it takes. -/
structure Staged where
  realm : Nat
  addr : Nat
  entry : Nat
  size : Nat
  deriving DecidableEq, Repr

/-- The engine of one compute die (chapter 5): tiles in flight, whose descriptors are the tile window of R126 and whose results lie in the tile
stores, and the number of the next; abandoned tiles whose checks still run (R140); retired tiles of live jobs; discarded tiles to be issued
again; the issues to each realm in the running rotation (R135); arrays due for their frame rehearsal with the deferrals taken in the frame
(R144); arrays rehearsing with whether a detection fell on them meanwhile; arrays, and clusters from 192 on, called to an out-of-turn
rehearsal, with the arrays that have still to pass (R150), and clusters from 1000 on, called by a diagnosis (R330); whether the rehearsal table fails its CRC (R147); the passes of the frame before
(words of R153); frames of the detections of each array or cluster (R151); the clusters with a tile-store double error in the frame (R150);
the room staging region, oldest first; the nodes whose operands are in operand staging (R126). -/
structure Engine where
  tiles : List Tile
  nextTile : Nat
  ghosts : List Tile
  homes : List Home
  owed : List Owed
  spent : List (Nat × Nat)
  due : List (Nat × Nat)
  rehearsing : List (Nat × Bool)
  called : List (Nat × List Nat)
  tableBad : Bool
  prevPass : List Nat
  detections : List (Nat × Nat)
  doubles : List Nat
  staged : List Staged
  operands : List (Nat × Nat)
  deriving DecidableEq, Repr

/-- An engine at reset. -/
def Engine.init : Engine := ⟨[], 0, [], [], [], [], [], [], [], false, [], [], [], [], []⟩

/-- The frame (R142): whether it is due to begin and the cue edge it begins at, the time base when the running frame began and its
edge, the engines (0 to 3) with a golden pass in it and in the one before (R310), and how many results or plans
each engine may still let go ahead of its golden workload, two and the one in progress at the frame start (R144, R310). -/
structure Frame where
  due : Bool
  dueEdge : Option (Nat × Nat)
  start : Nat
  edge : Option (Nat × Nat)
  golden : List Nat
  goldenPrev : List Nat
  ahead : List (Nat × Nat)
  deriving DecidableEq, Repr

/-- No frame begun. -/
def Frame.init : Frame := ⟨false, none, 0, none, [], [], []⟩

/-- A decision of an island that waits for its signature window to close (R318): the release of a duplex result, a verdict, a split, the
outcome of an extended test, the removal of a die or an engine with its cause, the return of a die, a role message. -/
inductive Decision where
  | release (subj : DupSubject)
  | verdict (subj : DupSubject) (a b : SideVerdict)
  | split (pair : Nat)
  | tested (el : Nat) (pass : Bool)
  | removeDie (k cause : Nat)
  | removeEngine (e cause : Nat)
  | restoreDie (k : Nat)
  | role (new : Isl) (cause : Nat)
  deriving DecidableEq, Repr

/-- One island outside its registers (R315 to R325, R426): stopped by reset, rail or clock; declared lost; heartbeats missed in a
row; ticks of its re-locks in the last 60 min; whether the core it runs on alone is the checker; halted by the debugger;
whether its reset ball is low; whether a halt notice of it is under way; whether one of its cores is broken until the next module
reset (R324); what a debugger has written into its main core since it halted, registers from 2^64 on, and its replay into the checker (R325). -/
structure Island where
  stopped : Bool
  lost : Bool
  missed : Nat
  relocks : List Nat
  onChecker : Bool
  dbgHalt : Bool
  resetLow : Bool
  notice : Bool
  oneCore : Bool
  core : List (Nat × Nat)
  checker : List (Nat × Nat)
  deriving DecidableEq, Repr

/-- An island at reset. -/
def Island.init : Island := ⟨false, false, 0, [], false, false, false, false, false, [], []⟩

/-- The islands together: each of them, the island that has taken every duty (none while the duties lie as after reset, R315),
decisions gated by signature mode, each with the island whose window it waits for (R318), the serial number of the open debug licence and
whether a session has been opened since power-up (R325, R372), what the debugger has read last, and whether the cause of a class D under
R320 waits for a self-test that leaves a working core. -/
structure Islands where
  a : Island
  b : Island
  duty : Option Isl
  gated : List (Isl × Decision)
  dbgSerial : Nat
  dbgEver : Bool
  dbgRead : Nat
  report : Bool
  deriving DecidableEq, Repr

/-- The islands at reset. -/
def Islands.init : Islands := ⟨Island.init, Island.init, none, [], 0, false, 0, false⟩

/-- One direction of a link, or its record at one end (R341, R347): width in lanes, physical lane of each logical lane, good lanes
as a 68-bit mask, map epoch. -/
structure LinkDir where
  width : Nat
  map : List Nat
  good : Nat
  epoch : Nat
  deriving DecidableEq, Repr

/-- A direction at full width with every lane good (R341). -/
def LinkDir.init : LinkDir := ⟨64, List.range 64, 2 ^ 68 - 1, 0⟩

/-- The flits of one direction of a link (R342): the number of flits delivered, which is the sequence number of the one expected; replays of
it in a row; the number of flits the sender has sent; its replay buffer, oldest first, whose last flit is the last sent; the flit delivered
last. -/
structure LinkFlow where
  want : Nat
  run : Nat
  sent : Nat
  buf : List Flit
  got : Option Flit
  deriving DecidableEq, Repr

/-- A direction before its first flit. -/
def LinkFlow.init : LinkFlow := ⟨0, 0, 0, [], none⟩

/-- A link outside its registers: its two directions and their flits, lanes that have left the good set and await their step (true: reverse
direction), whether it has trained since power-up, why it retrains: 0 replays, 1 step, 2 partial reset, 3 full (R342 to R349, R362), and the
lane-parity errors of the last second: direction, lane, tick (R343). -/
structure Link where
  fwd : LinkDir
  rev : LinkDir
  flowF : LinkFlow
  flowR : LinkFlow
  left : List (Bool × Nat)
  trained : Bool
  retrain : Option Nat
  errs : List (Bool × Nat × Nat)
  deriving DecidableEq, Repr

/-- A link at reset. -/
def Link.init : Link := ⟨LinkDir.init, LinkDir.init, LinkFlow.init, LinkFlow.init, [], false, none, []⟩

/-- Boot, resets and control balls (chapters 12 and 16): MRST_N low, every rail good, WAKE seen during a power-down, the tick of the
MRST_N release, the failure code of slot 0, of the slot booted: its key, the digests its header lists, its security version, whether it asks to
raise the fused minimum; the measurement log (R353); the code that reached each steward, whether the stewards are loaded and the dies powered, the dies whose steward refused its
code (R354), the gathered announcements and stack identities, host windows ready, the cellar in service, whether this boot is
a wake, segments of the management ring broken, ticks of the last reset of each die alone, dies being reset alone, dies removed by
a failed extended test. -/
structure Boot where
  mrstLow : Bool
  railsGood : Bool
  relTick : Nat
  slot0 : Option Nat
  key : List Byte
  listed : List (List Byte)
  svn : Nat
  raiseMin : Bool
  log : List (List Byte)
  codes : List (List Byte)
  loaded : Bool
  refused : List Nat
  ends : List EndAnn
  windows : Bool
  cellarIn : Bool
  wake : Bool
  broken : List Nat
  resetAt : List (Nat × Nat)
  resetting : List Nat
  noReset : List Nat
  deriving DecidableEq, Repr

/-- MRST_N held low after power-up. -/
def Boot.init : Boot :=
  ⟨true, true, 0, none, [], [], 0, false, [], [], false, [], [], false, true, false, [], [], [], []⟩

/-- A RECALL that runs (R366): its acceptance number, mode, the tick of its start and the tick its bounds count from (R434), whether the lodging jobs have been stopped, whether
the lodged realms have been released, whether the return copy is active again, jobs checkpointed and abandoned. -/
structure Recall where
  acc : Nat
  mode : Nat
  t0 : Nat
  from_ : Nat
  stopped : Bool
  restored : Bool
  ckpt : Nat
  aban : Nat
  deriving DecidableEq, Repr

/-- Lodging (R364 to R369): the return copy of banks 0 and 1, the realms lodged and not yet released, whether a LIMP entry has abandoned
them and their release waits for running ROOMS jobs, the running RECALL. -/
structure Lodging where
  saved : List (Nat × Nat)
  realms : List Nat
  limpStop : Bool
  running : Option Recall
  deriving DecidableEq, Repr

/-- No lodging. -/
def Lodging.init : Lodging := ⟨[], [], false, none⟩

/-- An attestation request in progress (R371): operation and realm. -/
structure Attest where
  op : Nat
  realm : Nat
  deriving DecidableEq, Repr

/-- A completed understudy job whose entry has not been matched (R373): commit index, whether its status is OK, digest, tick. -/
structure UndJob where
  commit : Nat
  ok : Bool
  digest : List Byte
  tick : Nat
  deriving DecidableEq, Repr

/-- Understudy mode outside its registers (R373 to R376): the start index of the last enable, the next commit index, the verified and
the highest completed index where a job has matched or completed, jobs that matched above the verified index, jobs that wait for
their entry. -/
structure Understudy where
  start : Option Nat
  next : Nat
  verified : Option Nat
  done : Option Nat
  matched : List Nat
  waiting : List UndJob
  deriving DecidableEq, Repr

/-- Understudy mode never enabled. -/
def Understudy.init : Understudy := ⟨none, 0, none, none, [], []⟩

/-- What the thermal controller keeps of one die (R383 to R395): readings of its diodes as last sampled, time stamps of the ends of the
4 K disagreements (hot spot, tick from which the gap has stayed within 4 K), predicted temperature as FP32, excess history of the rise
test, newest first, the level cap its regulator holds it to; the sums of its readings and their number over the last second, newest first
(R395), whether keep-warm loops hold its floor (R394), the voltage of its rail VDD_CD_k in mV, 750 until first set (R385, R419). -/
structure DieTherm where
  diodes : List (Int × Int)
  disagree : List (Nat × Option Nat)
  pred : Option (BitVec 32)
  excess : List (BitVec 32)
  levelCap : Nat
  throttled : Option Nat
  turnHi : Int
  turnLo : Int
  rising : Bool
  turns : Nat
  hotMinute : Bool
  means : List (Nat × Int × Nat)
  warming : Bool
  rail : Nat
  deriving DecidableEq, Repr

/-- A die before its first sample. -/
def DieTherm.init : DieTherm := ⟨[], [], none, [], 0, none, 0, 0, true, 0, false, [], false, 750⟩

/-- One sample of the coolant (R382): tick, inlet and outlet in sixteenths, flow in 0.001 L/min. -/
structure Coolant where
  tick : Nat
  inlet : Int
  outlet : Int
  flow : Int
  deriving DecidableEq, Repr

/-- The thermal controller outside its registers: per die state, coolant and power samples of the last second (newest first), cool
intervals of each cluster group in ms (4 × die + group), cap last reported, ticks from which flow has been below 0.3 L/min, at or
above 1.8 L/min, and 20 % above the estimate, whether that disagreement has been reported, the tick of the last KEEPWARM_SHORT, tick
of LIMP entry, inlet readings logged in DORMANT, and the SAFE_OFF triggers that have been acted on (hot spot: 16 × die + spot, analogue
trip: 256 + die; R382). -/
structure Thermal where
  dies : List (Nat × DieTherm)
  coolant : List Coolant
  power : List (Nat × List Nat)
  cool : List (Nat × Nat)
  capReported : Nat
  lowFrom : Option Nat
  goodFrom : Option Nat
  differFrom : Option Nat
  warmShort : Option Nat
  limpAt : Nat
  inletLog : List Int
  fired : List Nat
  deriving DecidableEq, Repr

/-- The thermal controller at reset. -/
def Thermal.init : Thermal := ⟨[], [], [], [], 420, none, none, none, none, 0, [], []⟩

/-- What outlives resets, DORMANT and power removal: the wear counters as last written to the non-volatile store (keys of their
registers, R396), the link records of the always-on block (4 × link + 2 × end + direction, R347), the fused minimum security
version and the key hashes fused in SI_A and SI_B (R353, R354). -/
structure Kept where
  wear : List (Nat × Nat)
  svnMin : Nat
  records : List (Nat × LinkDir)
  keyHashA : List Byte
  keyHashB : List Byte
  deriving DecidableEq, Repr

/-- A module fresh from manufacture; the key hashes of its fuses are not given, DESIGN CHOICE 48 zero bytes (log 90). -/
def Kept.init : Kept := ⟨[], 0, [], List.replicate 48 0, List.replicate 48 0⟩

/-- The whole state of the block. -/
structure State where
  pending : List Instr
  freeCtr : Nat
  lastRead : List Nat
  op : OpState
  inDrive : Bool
  reg : List (Nat × Nat)
  active : List (Nat × Nat)
  shadow : List (Nat × Nat)
  mem : Memory
  realms : List (Nat × Realm)
  hosts : List (Nat × HostPort)
  jobs : List Job
  accCtr : Nat
  lastServed : Nat
  curtain : Option Curtain
  lastClass : Nat
  mgrPort : Nat
  tbUnits : Nat
  ticks : Nat
  refSys : Bool
  dpx : Duplex
  engines : List (Nat × Engine)
  frame : Frame
  isl : Islands
  links : List (Nat × Link)
  boot : Boot
  lodging : Lodging
  attest : List (Nat × Attest)
  und : Understudy
  thm : Thermal
  time : TimeBase
  ing : Ingress
  fus : Fusion
  kept : Kept
  opLog : List (Nat × Nat)
  deriving DecidableEq, Repr

/-- The module right after reset. -/
def State.reset : State :=
  { pending := [], freeCtr := 0, lastRead := [], op := .off, inDrive := false, reg := [], active := [], shadow := [],
    mem := Memory.init, realms := [], hosts := [], jobs := [], accCtr := 0, lastServed := 31, curtain := none,
    lastClass := 0, mgrPort := 0, tbUnits := 0, ticks := 0, refSys := false, dpx := Duplex.init, engines := [],
    frame := Frame.init, isl := Islands.init, links := [], boot := Boot.init, lodging := Lodging.init, attest := [],
    und := Understudy.init, thm := Thermal.init, time := TimeBase.init, ing := Ingress.init, fus := Fusion.init, kept := Kept.init, opLog := [] }

end Sys2Proof.Machine
end

