-- ==== Sys2Proof/Machine/Mem.lean ====
section
/-! DEFINITION. Registers by field, the memories of hosts, windows and rooms, and the realm address space. -/

namespace Sys2Proof.Machine

/-- The row of a register field by its key. -/
def keyRow (key : Nat) : Option FieldRow :=
  fieldRows.find? fun r => r.lo == key % 32 && rowHas r (key / 32 % 0x10000)

/-- The reset value of a register field (R7); 0 where the map has no such field. -/
def resetOf (key : Nat) : Nat :=
  match keyRow key with
  | some r => r.reset
  | none => 0

/-- A field of a register that is not RWS. -/
def regGet (s : State) (key : Nat) : Nat := tget (resetOf key) key s.reg
/-- The active copy of an RWS field (R250). -/
def actGet (s : State) (key : Nat) : Nat := tget (resetOf key) key s.active
/-- The shadow copy of an RWS field (R250). -/
def shGet (s : State) (key : Nat) : Nat := tget (resetOf key) key s.shadow

/-- Write of a field of a register that is not RWS. -/
def regSet (key v : Nat) (s : State) : State := { s with reg := tset (resetOf key) key v s.reg }
/-- Write of the shadow copy of an RWS field. -/
def shSet (key v : Nat) (s : State) : State := { s with shadow := tset (resetOf key) key v s.shadow }
/-- Change of the active copy of an RWS field. -/
def actSet (key v : Nat) (s : State) : State := { s with active := tset (resetOf key) key v s.active }

/-- A field changed by a function of it. -/
def regMod (key : Nat) (f : Nat → Nat) (s : State) : State := regSet key (f (regGet s key)) s

/-- One more in a 32-bit count that saturates. -/
def regInc (key : Nat) (s : State) : State := regMod key (satInc max32) s

/-- `n` bytes of a memory from key `k`; an unlisted byte reads 0. -/
def memRead (m : List Host.Cell) (k n : Nat) : List Byte := (List.range n).map fun i => tget 0 (k + i) m

/-- The memory with bytes written from key `k`. -/
def memWrite (k : Nat) (bs : List Byte) (m : List Host.Cell) : List Host.Cell :=
  bs.zipIdx.foldl (fun m p => tset 0 (k + p.2) p.1 m) m

/-- Whether the memories of hosts, windows and rooms are in canonical form: keys strictly rising, no entry that an unlisted byte reads as. -/
def Memory.wf (m : Memory) : Bool := tcanon (fun _ => 0) m.host && tcanon (fun _ => 0) m.win && tcanon (fun _ => 0) m.room

/-- The key of a byte of host memory; bus addresses wrap at 2^64. -/
def hostKey (port bus : Nat) : Nat := 2 ^ 64 * port + bus % 2 ^ 64

/-- `n` bytes of a host's memory. -/
def hostRead (s : State) (port bus n : Nat) : List Byte := (List.range n).map fun i => tget 0 (hostKey port (bus + i)) s.mem.host

/-- Bytes written into a host's memory. -/
def hostWrite (port bus : Nat) (bs : List Byte) (s : State) : State :=
  { s with mem := { s.mem with
      host := bs.zipIdx.foldl (fun m p => tset 0 (hostKey port (bus + p.2)) p.1 m) s.mem.host } }

/-- The hosts' own writes, in order (R224). -/
def applyWrites (ws : List HostWrite) (s : State) : State :=
  ws.foldl (fun s w => hostWrite w.port.val w.addr.toNat w.data s) s

/-- The state of a host port. -/
def portOf (s : State) (p : Nat) : HostPort := tget HostPort.init p s.hosts
/-- A host port changed. -/
def modPort (p : Nat) (f : HostPort → HostPort) (s : State) : State := { s with hosts := tmod HostPort.init p f s.hosts }
/-- The state of a realm. -/
def realmOf (s : State) (r : Nat) : Realm := tget Realm.init r s.realms
/-- A realm changed. -/
def modRealm (r : Nat) (f : Realm → Realm) (s : State) : State := { s with realms := tmod Realm.init r f s.realms }
/-- A ring of a host port. -/
def ringOf (s : State) (p i : Nat) : Ring := tget Ring.init i (portOf s p).rings
/-- A ring changed. -/
def modRing (p i : Nat) (f : Ring → Ring) (s : State) : State :=
  modPort p (fun h => { h with rings := tmod Ring.init i f h.rings }) s

/-- `n` bytes of a host's memory read by DMA, which is made only while Bus Master Enable is 1 (R401). -/
def dmaRead (s : State) (p bus n : Nat) : List Byte :=
  if (portOf s p).busMaster then hostRead s p bus n else (List.range n).map fun i => Config.noDma s.freeCtr (hostKey p (bus + i))

/-- Bytes written into a host's memory by DMA, which is made only while Bus Master Enable is 1 (R401). -/
def dmaWrite (p bus : Nat) (bs : List Byte) (s : State) : State := if (portOf s p).busMaster then hostWrite p bus bs s else s

/-- The whole memory changed. -/
def modMem (f : Memory → Memory) (s : State) : State := { s with mem := f s.mem }

/-- 64 MiB, the unit of the partition map (R158). -/
abbrev unitBytes : Nat := 2 ^ 26

/-- The base of the cellar window (R156). -/
abbrev cellarBase : Nat := 0x004000000000
/-- The base of the host window (R156). -/
abbrev hostWinBase : Nat := 0x800000000000

/-- The compute dies a realm's partition uses, as a mask: all for realm 0, PART_CTRL.dies for realms 1 to 7 (R407). -/
def realmDies (s : State) (r : Nat) : Nat := if r = 0 then 15 else actGet s (K.PART_CTRL_dies r)

/-- The number of compute dies a realm's partition uses (R172). -/
def realmDieCount (s : State) (r : Nat) : Nat := popCount 4 (realmDies s r)

/-- Whether every die quarter from the `lo`-th to the `hi`-th is mapped. -/
def quartersMapped (mask lo hi : Nat) : Bool :=
  decide (hi < 4) && (List.range 4).all fun k => bitOf mask k || decide (k < lo) || decide (hi < k)

/-- Whether the `n` bytes from realm address `a` lie in one region and are all mapped (R156, R157); no byte is always mapped. -/
def extentMapped (s : State) (r a n : Nat) : Bool :=
  if n = 0 then true
  else
    let last := a + n - 1
    if last < cellarBase then
      let q := actGet s (K.MPART_HBM_win_units r) * unitBytes
      decide (0 < q) && quartersMapped (realmDies s r) (a / q) (last / q)
    else if a < cellarBase then false
    else if last < 0x00C000000000 then
      decide (last < cellarBase + actGet s (K.MPART_CEL_win_units r) * unitBytes)
    else decide (hostWinBase ≤ a) && decide (last < 2 ^ 48)

/-- The port of the host a realm is bound to (R250). -/
def realmPort (s : State) (r : Nat) : Nat := actGet s (K.REALM_BIND_host r)

/-- The host bus address of a host-window address (R156). -/
def hostWinBus (s : State) (r a : Nat) : Nat :=
  addr64 12 (actGet s (K.MPART_HOSTWIN_LO_base r)) (actGet s (K.MPART_HOSTWIN_HI_base r)) + (a - hostWinBase)

/-- The key of a byte of the HBM or cellar window of a realm. -/
def winKey (r a : Nat) : Nat := 2 ^ 48 * r + a

/-! The two copies of the vehicle realm's HBM window and rooms (R201, R327) -/

/-- The duplex partner of a compute die under the active pairing (R326). -/
def partnerOf (s : State) (d : Nat) : Nat :=
  if actGet s K.DPX_PAIR_pairing = 0 then Nat.xor d 1 else Nat.xor d 2

/-- Whether a compute die is in service (R409). -/
def dieIn (s : State) (d : Nat) : Bool := bitOf (regGet s K.ID_DIES_in_service) d

/-- How much higher than the copy on a quarter's own die the copy on that die's partner is kept in `win`. -/
abbrev mirrorKey : Nat := 2 ^ 51

/-- How much higher than a mirrored room's first copy its second is kept in `room`. -/
abbrev mirrorOff : Nat := 2 ^ 19

/-- Whether a realm address lies in the mirrored window: realm 0's HBM window (R327). -/
def mirrored (r a : Nat) : Bool := r == 0 && decide (a < cellarBase)

/-- The die quarter of an address of realm 0's HBM window (R156). -/
def quarterOf (s : State) (a : Nat) : Nat := a / max 1 (actGet s (K.MPART_HBM_win_units 0) * unitBytes)

/-- The copies of a quarter of realm 0's window that can be read, side A's first (R327, R328): the distance of each in `win`. -/
def quarterCopies (s : State) (q : Nat) : List Nat :=
  let p := partnerOf s q
  ((if q < p then [(q, 0), (p, mirrorKey)] else [(p, mirrorKey), (q, 0)]).filter fun c => dieIn s c.1).map (·.2)

/-- The distance in `win` of the copy that side A reads, or side B's where side A has none (R327, R328). -/
def sideCopy (s : State) (q : Nat) : Nat := (quarterCopies s q).headD 0

/-- `n` bytes from realm address `a`, through the host window or from the realm's own memory (R156). -/
def realmRead (s : State) (r a n : Nat) : List Byte :=
  if hostWinBase ≤ a then dmaRead s (realmPort s r) (hostWinBus s r a) n
  else if mirrored r a then (List.range n).map fun i => tget 0 (winKey r (a + i) + sideCopy s (quarterOf s (a + i))) s.mem.win
  else memRead s.mem.win (winKey r a) n

/-- The granules of the `n` bytes from `k`. -/
def granulesOf (k n : Nat) : List Nat := if n = 0 then [] else (List.range ((k + n - 1) / 64 - k / 64 + 1)).map (k / 64 + ·)

/-- Whether a granule of a window, by its number in `win`, is poisoned in a copy that a side reads (R166, R327). -/
def winBad (s : State) (g : Nat) : Bool :=
  s.mem.poisonWin.any fun p =>
    if mirrored (g * 64 / 2 ^ 48) (g * 64 % 2 ^ 48) then (quarterCopies s (quarterOf s (g * 64))).any fun c => p == g + c / 64 else p == g

/-- Whether a granule of a window is poisoned in the copy that a MOVE or a DIGEST_CHECK reads (R327). -/
def winBadA (s : State) (g : Nat) : Bool :=
  s.mem.poisonWin.any fun p => p == g + (if mirrored (g * 64 / 2 ^ 48) (g * 64 % 2 ^ 48) then sideCopy s (quarterOf s (g * 64)) / 64 else 0)

/-- The first of a realm's granules that is poisoned among the bytes a job's sides read (R166); none in the host window. -/
def poisonedRead (s : State) (r a n : Nat) : Option Nat :=
  if hostWinBase ≤ a then none else (granulesOf (winKey r a) n).find? (winBad s)

/-- The first poisoned granule among the bytes that a MOVE or a DIGEST_CHECK reads (R166, R327). -/
def poisonedReadA (s : State) (r a n : Nat) : Option Nat :=
  if hostWinBase ≤ a then none else (granulesOf (winKey r a) n).find? (winBadA s)

/-- The first poisoned granule that a write covers only in part (R167). -/
def poisonedWrite (s : State) (r a n : Nat) : Option Nat :=
  if hostWinBase ≤ a then none
  else (granulesOf (winKey r a) n).find? fun g =>
    winBad s g && !(decide (winKey r a ≤ g * 64) && decide (g * 64 + 64 ≤ winKey r a + n))

/-- Granules wholly covered by the `n` bytes from `k`. -/
def granuleCovered (k n g : Nat) : Bool := decide (k ≤ g * 64) && decide (g * 64 + 64 ≤ k + n)

/-- Bytes written into one copy of a realm's window, which begins `c` higher in `win`; granules written whole lose their poison (R167). -/
def copyWrite (r a c : Nat) (bs : List Byte) (m : Memory) : Memory :=
  { m with
    win := memWrite (winKey r a + c) bs m.win,
    poisonWin := m.poisonWin.filter fun g => !granuleCovered (winKey r a + c) bs.length g }

/-- Bytes written at realm address `a`, into both copies of a mirrored window: each side writes its own the same bytes, and a write from
outside the sides goes to both (R156, R327). -/
def realmWrite (r a : Nat) (bs : List Byte) (s : State) : State :=
  if hostWinBase ≤ a then dmaWrite (realmPort s r) (hostWinBus s r a) bs s
  else { s with mem := if mirrored r a then copyWrite r a mirrorKey bs (copyWrite r a 0 bs s.mem) else copyWrite r a 0 bs s.mem }

/-- The key of a byte of a room. -/
def roomKey (r room off : Nat) : Nat := 2 ^ 20 * (2 ^ 32 * r + room) + off

/-- The key of a room directory entry. -/
def dirKey (r room : Nat) : Nat := 2 ^ 32 * r + room

/-- A room directory entry (R173). -/
def roomOf (s : State) (r room : Nat) : Room := tget Room.init (dirKey r room) s.mem.dirs

/-- A room directory entry changed. -/
def modRoom (r room : Nat) (f : Room → Room) (s : State) : State :=
  modMem (fun m => { m with dirs := tmod Room.init (dirKey r room) f m.dirs }) s

/-- Whether a place holds the second copy of a mirrored room: not its home die, or gang R (R201). -/
def secondPlace (e : Room) (place : Nat) : Bool := if place < 4 then place != e.home else place == 5

/-- The copies of a room that can be read, side A's first: the distance of each in `room` (R201, R328). A mirrored hot room has its first
copy on its home die and its second on that die's partner; side A is the lower of the two. -/
def roomCopies (s : State) (r room : Nat) : List Nat :=
  if r ≠ 0 then [0]
  else
    let e := roomOf s r room
    let p := partnerOf s e.home
    if !e.inHbm then [0, mirrorOff]
    else ((if e.home < p then [(e.home, 0), (p, mirrorOff)] else [(p, mirrorOff), (e.home, 0)]).filter fun c => dieIn s c.1).map (·.2)

/-- `n` bytes of a room, of the copy that side A reads, or side B's where side A has none (R201, R328). -/
def roomRead (s : State) (r room off n : Nat) : List Byte :=
  memRead s.mem.room (roomKey r room off + (roomCopies s r room).headD 0) n

/-- Bytes written into one copy of a room. -/
def roomCopyWrite (r room off c : Nat) (bs : List Byte) (m : Memory) : Memory :=
  { m with
    room := memWrite (roomKey r room off + c) bs m.room,
    poisonRoom := m.poisonRoom.filter fun g => !granuleCovered (roomKey r room off + c) bs.length g }

/-- Bytes written into a room; each side writes its own slot of a mirrored room (R201). -/
def roomWrite (r room off : Nat) (bs : List Byte) (s : State) : State :=
  { s with mem := if r = 0 then roomCopyWrite r room off mirrorOff bs (roomCopyWrite r room off 0 bs s.mem)
      else roomCopyWrite r room off 0 bs s.mem }

/-- Whether a granule of a room, by its number in `room`, is poisoned in a copy that a side reads (R166, R201). -/
def roomBad (s : State) (r room g : Nat) : Bool :=
  s.mem.poisonRoom.any fun p => (roomCopies s r room).any fun c => p == g + c / 64

/-- The byte offset of the first poisoned granule among the bytes of a room that a job's sides read (R166). -/
def roomPoisonAt (s : State) (r room off n : Nat) : Option Nat :=
  ((granulesOf (roomKey r room off) n).find? (roomBad s r room)).map fun g => g * 64 - roomKey r room 0

/-- Whether a granule of the bytes of a room is poisoned. -/
def roomPoisoned (s : State) (r room off n : Nat) : Bool := (roomPoisonAt s r room off n).isSome

/-- The byte offset of the first poisoned granule of a room that a write covers only in part (R167). -/
def roomPoisonPart (s : State) (r room off n : Nat) : Option Nat :=
  ((granulesOf (roomKey r room off) n).find? fun g =>
    roomBad s r room g && !granuleCovered (roomKey r room off) n g).map fun g => g * 64 - roomKey r room 0

/-- The room size of a realm in bytes (R191). -/
def roomSize (s : State) (r : Nat) : Nat := 4096 * clampNat 1 64 (actGet s (K.MPART_ROOM_size_4k r))

/-- The key/value format of a realm's rooms: 0 LV4, 1 FP8 E4M3, 2 FP8 E5M2 (R191). -/
def kvFormat (s : State) (r : Nat) : Nat :=
  let v := actGet s (K.MPART_ROOM_kv_format r)
  if v = 3 then 0 else v

/-- The HBM room slots of a realm on one die (R172). -/
def hbmSlots (s : State) (r : Nat) : Nat := actGet s (K.MPART_HBM_room_units r) * unitBytes / roomSize s r

/-- The cellar room slots of a realm (R172). -/
def cellarSlots (s : State) (r : Nat) : Nat := actGet s (K.MPART_CEL_room_units r) * unitBytes / roomSize s r

/-- MPART_ROOMCOUNT.rooms (R172). -/
def roomCount (s : State) (r : Nat) : Nat := realmDieCount s r * hbmSlots s r + cellarSlots s r

/-- "No room" (R172). -/
abbrev noRoom : Nat := 0xFFFFFFFF

end Sys2Proof.Machine
end

