-- ==== Sys2Proof/Machine/Trans.lean ====
section
/-! DEFINITION. The three primitives of R106 to R108 with their tables, and the functions built on them. -/

namespace Sys2Proof.Machine

/-- TEXP[i] = round(2^(i/64) × 2^30) (R106). -/
def tableTEXP : List Nat :=
  [1073741824, 1085434106, 1097253708, 1109202018, 1121280436, 1133490379, 1145833280, 1158310587, 1170923762, 1183674286, 1196563654, 1209593378, 1222764986, 1236080024, 1249540052, 1263146652] ++
  [1276901417, 1290805962, 1304861917, 1319070932, 1333434672, 1347954824, 1362633090, 1377471191, 1392470869, 1407633882, 1422962010, 1438457051, 1454120821, 1469955159, 1485961921, 1502142985] ++
  [1518500250, 1535035634, 1551751076, 1568648537, 1585730000, 1602997467, 1620452965, 1638098541, 1655936265, 1673968228, 1692196547, 1710623359, 1729250827, 1748081133, 1767116489, 1786359126] ++
  [1805811301, 1825475297, 1845353420, 1865448001, 1885761398, 1906295993, 1927054196, 1948038440, 1969251188, 1990694927, 2012372174, 2034285470, 2056437387, 2078830522, 2101467502, 2124350982]

/-- RINV[i] = round(2^37 / (129 + 2i)) (R107). -/
def rinv (i : Nat) : Nat := (2 * 2 ^ 37 + (129 + 2 * i)) / (2 * (129 + 2 * i))

/-- LG[i] = round(2^32 × log2(2^30 / RINV[i])) (R107). -/
def tableLG : List Nat :=
  [48220695, 143550696, 237436253, 329920477, 421044590, 510848020, 599368494, 686642161, 772703655, 857586192, 941321626, 1023940558, 1105472364, 1185945288, 1265386481, 1343822059] ++
  [1421277170, 1497776015, 1573341933, 1647997390, 1721764071, 1794662886, 1866714022, 1937936972, 2008350541, 2077972937, 2146821735, 2214913937, 2282265995, 2348893816, 2414812825, 2480037929] ++
  [2544583599, 2608463836, 2671692224, 2734281929, 2796245721, 2857596002, 2918344809, 2978503802, 3038084341, 3097097430, 3155553788, 3213463824, 3270837634, 3327685082, 3384015726, 3439838878] ++
  [3495163604, 3549998720, 3604352830, 3658234273, 3711651230, 3764611615, 3817123189, 3869193475, 3920829844, 3972039459, 4022829319, 4073206244, 4123176897, 4172747787, 4221925258, 4270715493]

/-- SRS[j] = round(2^31 / sqrt(((j mod 32) + 32.5) / 32 × (j ≥ 32 ? 2 : 1))) (R108). -/
def tableSRS : List Nat :=
  [2130900515, 2098855072, 2068213208, 2038875364, 2010751598, 1983760420, 1957827796, 1932886296, 1908874354, 1885735628, 1863418444, 1841875310, 1821062491, 1800939636, 1781469447, 1762617387] ++
  [1744351429, 1726641819, 1709460876, 1692782810, 1676583559, 1660840642, 1645533028, 1630641020, 1616146146, 1602031062, 1588279468, 1574876026, 1561806289, 1549056637, 1536614214, 1524466875] ++
  [1506774204, 1484114654, 1462447584, 1441702596, 1421816090, 1402730445, 1384393311, 1366757007, 1349778000, 1333416450, 1317635818, 1302402522, 1287685637, 1273456629, 1259689126, 1246358707] ++
  [1233442724, 1220920139, 1208771378, 1196978204, 1185523604, 1174391680, 1163567563, 1153037323, 1142787899, 1132807028, 1123083182, 1113605518, 1104363818, 1095348453, 1086550331, 1077960865]

/-- m × 2^sh rounded once to FP32 (R106). -/
def roundRneF32 (m : Nat) (sh : Int) : F32 := numF32 (.fin false m sh)

/-- exp2_s (R106). -/
def exp2S (x : F32) : F32 :=
  let v := f32Num x
  if numIsNan v then f32NaN
  else if !numLt v (.fin false 128 0) then f32PosInf
  else if numLt v (.fin true 160 0) then f32Zero
  else
    let xi := numRint (numScale 24 v)
    let n := xi / 2 ^ 24
    let f := (xi % 2 ^ 24).toNat
    let i := f / 2 ^ 18
    let t := f % 2 ^ 18 * 2 ^ 8
    let q := 0x0E35846C
    let q := 0x3D7F7BFF + q * t / 2 ^ 32
    let q := 0xB17217F8 + q * t / 2 ^ 32
    let p := q * t / 2 ^ 32
    let e := tableTEXP.getD i 0
    roundRneF32 (e + e * p / 2 ^ 32) (n - 30)

/-- The significand of 24 bits and the exponent of a finite value above zero: x = mant × 2^(e − 23) (R107). -/
def normalise (m : Nat) (e : Int) : Nat × Int :=
  let l := Nat.log2 m
  (if l ≤ 23 then m * 2 ^ (23 - l) else m / 2 ^ (l - 23), e + Int.ofNat l)

/-- log2_s on a finite value above zero (R107). -/
def log2Fin (mant : Nat) (e : Int) : F32 :=
  if mant = 0x800000 then f32Int e
  else
    let i := mant / 2 ^ 17 - 64
    let y : Int := Int.ofNat (mant * rinv i / 2 ^ 21) - 2 ^ 32
    let q : Int := -0x5C551D95
    let q := 0x7B1C2771 + q * y / 2 ^ 32
    let q := -0xB8AA3B29 + q * y / 2 ^ 32
    let q := 0x171547653 + q * y / 2 ^ 32
    let s := q * y / 2 ^ 32
    let l := e * 2 ^ 32 + Int.ofNat (tableLG.getD i 0) + s
    numF32 (.fin (decide (l < 0)) l.natAbs (-32))

/-- log2_s (R107). -/
def log2S (x : F32) : F32 :=
  match f32Num x with
  | .nan => f32NaN
  | .inf neg => if neg then f32NaN else f32PosInf
  | .fin neg m e =>
    if m = 0 then f32NegInf
    else if neg then f32NaN
    else let n := normalise m e; log2Fin n.1 n.2

/-- One Newton step of R108. -/
def rsqrtNewton (u g : Nat) : Nat :=
  let hh := g * g / 2 ^ 31
  let pr := u * hh / 2 ^ 30
  g * (0x180000000 - pr) / 2 ^ 32

/-- rsqrt_s (R108). -/
def rsqrtS (x : F32) : F32 :=
  match f32Num x with
  | .nan => f32NaN
  | .inf neg => if neg then f32NaN else f32Zero
  | .fin neg m e =>
    if m = 0 then (if neg then f32NegInf else f32PosInf)
    else if neg then f32NaN
    else
      let n := normalise m e
      let h := (n.2 % 2).toNat
      let k := (n.2 - Int.ofNat h) / 2
      let u := n.1 * 2 ^ (7 + h)
      let g := tableSRS.getD (n.1 / 2 ^ 18 % 32 + 32 * h) 0
      roundRneF32 (rsqrtNewton u (rsqrtNewton u g)) (-31 - k)

/-- sigmoid_s (R105). -/
def sigmoidS (x : F32) : F32 := f32Div f32One (f32Add f32One (exp2S (f32Mul x 0xBFB8AA3B)))

/-- The exponential of a difference, as SOFTMAX and SAMPLE form it (R110, R118). -/
def expDiff (z m : F32) : F32 := exp2S (f32Mul (f32Sub z m) f32Log2e)

end Sys2Proof.Machine
end

