-- ==== Sys2Proof/Machine/Tensor.lean ====
section
/-! DEFINITION. Tensor and node descriptors (R87, R90), tensors in realm memory, products along k, conversion of results. -/

namespace Sys2Proof.Machine

/-- A tensor descriptor as its 96 bytes give it (R87): raw fields, six sizes, six strides. -/
structure TDesc where
  ord : Nat
  fmtByte : Nat
  rank : Nat
  role : Nat
  res1 : Nat
  addr : Nat
  dims6 : List Nat
  strides6 : List Nat
  res2 : Nat
  deriving DecidableEq, Repr

/-- The descriptor in 96 bytes (R87). -/
def parseTensor (ord : Nat) (b : List Byte) : TDesc :=
  { ord := ord, fmtByte := fieldAt b 0 1, rank := fieldAt b 1 1, role := fieldAt b 2 1, res1 := fieldAt b 3 5,
    addr := fieldAt b 8 8, dims6 := (List.range 6).map fun j => fieldAt b (16 + 4 * j) 4,
    strides6 := (List.range 6).map fun j => fieldAt b (40 + 8 * j) 8, res2 := fieldAt b 88 8 }

/-- The element format, if its code is not reserved (R62). -/
def tFmt? (t : TDesc) : Option Fmt := fmtOfCode (t.fmtByte % 16)
/-- The element format of a checked tensor. -/
def tFmt (t : TDesc) : Fmt := (tFmt? t).getD .int8
/-- Whether the rank is one of R87. -/
def tRankOk (t : TDesc) : Bool := decide (1 ≤ t.rank) && decide (t.rank ≤ 6)
/-- The sizes d_0 to d_(rank−1). -/
def tDims (t : TDesc) : List Nat := t.dims6.take t.rank
/-- The size of the innermost dimension. -/
def tLast (t : TDesc) : Nat := (tDims t).getLastD 1
/-- The number of elements. -/
def tElems (t : TDesc) : Nat := (tDims t).prod
/-- The outer dimensions with their strides. -/
def tOuter (t : TDesc) : List (Nat × Nat) := ((tDims t).zip t.strides6).take (t.rank - 1)
/-- The stride of the innermost dimension, the dense element size for 0 (R88). -/
def tInner (t : TDesc) : Nat :=
  let s := t.strides6.getD (t.rank - 1) 0 % 2 ^ 48
  if s = 0 then fmtBytes (tFmt t) else s
/-- Whether a row lies in consecutive bytes. -/
def tRowDense (t : TDesc) : Bool := fmtIsPacked (tFmt t) || tInner t == fmtBytes (tFmt t)

/-- The bytes from the first byte of a row to its last (R89). -/
def tRowSpan (t : TDesc) : Nat :=
  if fmtIsPacked (tFmt t) then rowBytes (tFmt t) (tLast t) else (tLast t - 1) * tInner t + fmtBytes (tFmt t)

/-- The bytes from a tensor's base to the last byte of its last element; 0 with no element (R89). -/
def tSpan (t : TDesc) : Nat :=
  if tElems t = 0 then 0 else ((tOuter t).map fun p => (p.1 - 1) * (p.2 % 2 ^ 48)).sum + tRowSpan t

/-- The base address. -/
def tBase (t : TDesc) : Nat := t.addr % 2 ^ 48

/-- The offsets of all index tuples of dimensions with strides, in row-major order. -/
def offsetsOf : List (Nat × Nat) → List Nat
  | [] => [0]
  | (d, st) :: t => (List.range d).flatMap fun i => (offsetsOf t).map (i * (st % 2 ^ 48) + ·)

/-- The addresses of the rows, in row-major order; none for an empty tensor. -/
def tRows (t : TDesc) : List Nat := if tElems t = 0 then [] else (offsetsOf (tOuter t)).map (tBase t + ·)

/-- The pieces of consecutive bytes of a row. -/
def rowSegs (t : TDesc) (row : Nat) : List (Nat × Nat) :=
  if tRowDense t then [(row, rowBytes (tFmt t) (tLast t))]
  else (List.range (tLast t)).map fun j => (row + j * tInner t, fmtBytes (tFmt t))

/-- The pieces of consecutive bytes of a tensor, in row-major order. -/
def tSegs (t : TDesc) : List (Nat × Nat) := (tRows t).flatMap (rowSegs t)

/-- The units of a tensor, in row-major order (R63). -/
def tRead (s : State) (r : Nat) (t : TDesc) : List Nat :=
  (tRows t).flatMap fun row =>
    unpackRow (tFmt t) (tLast t) ((rowSegs t row).flatMap fun g => realmRead s r g.1 g.2)

/-- The units of a tensor in logical row-major order, whole in every bit, as COMPARE reads them (R121). -/
def tReadRaw (s : State) (r : Nat) (t : TDesc) : List Nat :=
  (tRows t).flatMap fun row =>
    unpackRaw (tFmt t) (tLast t) ((rowSegs t row).flatMap fun g => realmRead s r g.1 g.2)

/-- Whether a read of the tensor meets a poisoned granule (R166). -/
def tPoisoned (s : State) (r : Nat) (t : TDesc) : Bool := (tSegs t).any fun g => (poisonedRead s r g.1 g.2).isSome

/-- Consecutive pieces joined, so that a granule written by several of them counts as written whole (R165). -/
def joinSegs : List (Nat × List Byte) → List (Nat × List Byte)
  | [] => []
  | (a, b) :: t =>
    match joinSegs t with
    | (c, d) :: u => if a + b.length = c then (a, b ++ d) :: u else (a, b) :: (c, d) :: u
    | [] => [(a, b)]

/-- The bytes of a row's units cut into the row's pieces. -/
def rowWrites (t : TDesc) (row : Nat) (units : List Nat) : List (Nat × List Byte) :=
  let bs := packRow (tFmt t) units
  if tRowDense t then [(row, bs)]
  else (chunksOf (fmtBytes (tFmt t)) (tLast t) bs).zipIdx.map fun p => (row + p.2 * tInner t, p.1)

/-- The writes that store a tensor's units (R63): unused code positions of a partial block are 0x0. -/
def tWrites (t : TDesc) (units : List Nat) : List (Nat × List Byte) :=
  let n := rowUnits (tFmt t) (tLast t)
  let rows := (tRows t).zip (chunksOf n (tRows t).length units)
  joinSegs (rows.flatMap fun p =>
    rowWrites t p.1 (p.2.zipIdx.map fun u => maskBlock (tFmt t) (unitElems (tFmt t) (tLast t) u.2) u.1))

/-- A tensor with its units as read. -/
structure TVal where
  d : TDesc
  units : List Nat
  deriving DecidableEq, Repr

/-- The exact values of the elements, in row-major order. -/
def tvNums (v : TVal) : List Num :=
  let f := tFmt v.d
  let n := tLast v.d
  if fmtIsBlock f then
    (chunksOf (rowUnits f n) (tElems v.d / n) v.units).flatMap (rowNums f n)
  else v.units.map (elemNum f)

/-- The elements converted to FP32 (R101). -/
def tvF32 (v : TVal) : List F32 := (tvNums v).map numF32

/-- The elements of an integer tensor. -/
def tvInts (v : TVal) : List Int := (tvNums v).map numRint

/-- The index of the element of an operand that faces output element `i`: sizes from the innermost outward, an operand size of 1 or a
missing one is reused (R99, R102); `st` is the operand's dense stride in elements. -/
def bcastIdx : List Nat → List Nat → Nat → Nat → Nat
  | d :: ds, e :: es, i, st => (if e = 1 then 0 else i % d * st) + bcastIdx ds es (i / d) (st * e)
  | _, _, _, _ => 0

/-- The index of the element of an operand of sizes `din` that faces element `i` of sizes `dout`. -/
def bcastAt (dout din : List Nat) (i : Nat) : Nat := bcastIdx dout.reverse din.reverse i 1

/-- The broadcast of two size lists from the innermost outward (R102); `none` where they do not broadcast. -/
def bcastDims : List Nat → List Nat → Option (List Nat)
  | [], es => some es
  | ds, [] => some ds
  | d :: ds, e :: es =>
    if d = e || d = 1 || e = 1 then
      match bcastDims ds es with
      | some t => some ((if d = 1 then e else d) :: t)
      | none => none
    else none

/-- Whether sizes `din` broadcast to sizes `dout` (R102, R110); leading sizes of 1 beyond the rank of `dout` broadcast too. DEDUCED:
notes/assumptions/79. -/
def bcastsTo (dout din : List Nat) : Bool :=
  let o := dout.reverse
  din.reverse.zipIdx.all fun p => p.1 == 1 || p.1 == o.getD p.2 1

/-- Sizes aligned from the right: a size of the operand equals the output's or is 1 (R99). -/
def batchFits (dout din : List Nat) : Bool :=
  decide (din.length ≤ dout.length) && bcastsTo dout din

/-- The multi-index of element `i` of sizes given from the innermost outward, innermost first. -/
def unravelRev : List Nat → Nat → List Nat
  | [], _ => []
  | d :: ds, i => (i % d) :: unravelRev ds (i / d)

/-- The multi-index of element `i`, outermost first. -/
def unravel (dims : List Nat) (i : Nat) : List Nat := (unravelRev dims.reverse i).reverse

/-- The row-major index of a multi-index. -/
def ravel (dims idx : List Nat) : Nat := (dims.zip idx).foldl (fun a p => a * p.1 + p.2) 0

/-- The auxiliary flags of R123 and R238. -/
structure Aux where
  sat : Bool
  emptyRow : Bool
  oor : Bool
  differs : Bool
  deriving DecidableEq, Repr

/-- No flag. -/
def Aux.none : Aux := ⟨false, false, false, false⟩
/-- Flags of two parts of a job (R123: sticky). -/
def auxOr (a b : Aux) : Aux := ⟨a.sat || b.sat, a.emptyRow || b.emptyRow, a.oor || b.oor, a.differs || b.differs⟩
/-- The flags as the u32 of R238. -/
def auxBits (a : Aux) : Nat := ofBits [a.sat, a.emptyRow, a.oor, a.differs]

/-- Conversion of FP32 results, in row-major order, into a tensor's format under the node's rounding mode (R50, R51, R101): the
units and whether SATURATED is set. -/
def convertOut (t : TDesc) (stoch : Bool) (seed : Nat) (xs : List F32) : List Nat × Bool :=
  let n := tLast t
  let rows := chunksOf n (if n = 0 then 0 else tElems t / n) xs
  let out := rows.zipIdx.map fun p =>
    encRow (tFmt t) (if stoch then some fun j => philoxDraw seed (p.2 * n + j) t.ord 0 else none) p.1
  (out.flatMap (·.1), out.any (·.2))

/-- Conversion of exact integers into an integer tensor (R98, R115): each unit and whether SATURATED is set. -/
def convertInts (t : TDesc) (xs : List Int) : List Nat × Bool :=
  let out := xs.map fun i => encElem (tFmt t) none (numInt i)
  (out.map (·.1), out.any (·.2))

/-- An INT32 unit. -/
def int32Unit (i : Int) : Nat := ofSigned 32 i

/-- The INT32 unit of an index; one of 2^31 or above has no INT32 value, and the specification states none (R114, R121): a free value. DESIGN
CHOICE: notes/assumptions/83. -/
def indexUnit (i : Nat) : Nat := if i < 2 ^ 31 then i else (Config.wideIndex i).toNat

/-- The operand pairs of R80, in one order. -/
def arrayPairOne (a b : Fmt) : Bool :=
  match a, b with
  | .int4, .int4 | .int4, .int8 | .int8, .int8 => true
  | .e4m3, .e4m3 | .e4m3, .e5m2 | .e5m2, .e5m2 => true
  | .mxfp4, .mxfp4 | .mxfp4, .e4m3 | .mxfp4, .e5m2 => true
  | .bf16, .bf16 | .bf16, .fp16 | .fp16, .fp16 => true
  | .lv4, .bf16 | .lv4, .fp16 | .lv4, .lv4 => true
  | _, _ => false

/-- The operand pairs the arrays accept (R80). -/
def arrayPair (a b : Fmt) : Bool := arrayPairOne a b || arrayPairOne b a

/-- Whether a pair has groups of 16 under R46. -/
def pair16 (a : Fmt) : Bool := a == .bf16 || a == .fp16 || a == .lv4

/-- The value with which an element enters the arrays: an LV4 element as BF16 (R82). -/
def arrayNum (f : Fmt) (x : Num) : Num := if f == .lv4 then decFloat bf16Spec (encFloat bf16Spec none x).1 else x

/-- The group value of R45: the exact sum rounded once; an exact zero gives +0.0. -/
def groupExact (ps : List Num) : F32 := numF32 (ps.foldl numAdd (.fin false 0 0))

/-- The largest floor(log2 |p|) of the non-zero products (R46). -/
def groupTop (ps : List Num) : Option Int :=
  ps.foldl (fun a p => match p with
    | .fin _ m e => if m = 0 then a else
        (match a with
         | some t => some (if t < ilog2 m e then ilog2 m e else t)
         | none => some (ilog2 m e))
    | _ => a) none

/-- A product truncated to a multiple of 2^q, with the mark of discarded bits (R46). -/
def truncAt (q : Int) : Num → Int × Bool
  | .fin neg m e =>
    let v := Int.ofNat (floorAt m e q)
    (if neg then -v else v, decide (e < q) && m % 2 ^ (q - e).toNat != 0)
  | _ => (0, false)

/-- The group value of R46. -/
def groupAligned (ps : List Num) : F32 :=
  match ps.foldl numAdd (.fin false 0 0) with
  | .nan => f32NaN
  | .inf neg => if neg then f32NegInf else f32PosInf
  | .fin _ _ _ =>
    match groupTop ps with
    | none => f32Zero
    | some e =>
      let q := e - 40
      let ts := ps.map (truncAt q)
      let sum := (ts.map (·.1)).sum
      let sticky := ts.any (·.2)
      if sum = 0 then f32Zero
      else numF32 (.fin (decide (sum < 0)) (sum.natAbs * 2 ^ 64 + (if sticky then 1 else 0)) (q - 64))

/-- The FP32 value of the products along k of a floating-point pair: group values under R45 or R46, joined by the canonical
tree (R48, R98). -/
def dotFloat (aligned : Bool) (ps : List Num) : F32 :=
  let w := if aligned then 16 else 64
  canonSum ((chunksOf w (ceilDiv ps.length w) ps).map (if aligned then groupAligned else groupExact))

/-- The saturating INT32 value of the products along k of an integer pair (R47). -/
def dotInt (ps : List Int) : Int × Bool :=
  canonSumInt ((chunksOf 64 (ceilDiv ps.length 64) ps).map List.sum)

end Sys2Proof.Machine
end

