-- ==== Sys2Proof/Machine/GraphOps.lean ====
section
/-! DEFINITION. The operators of R95 other than ATTEND, each as a function of its operands' units (R98 to R121). -/

namespace Sys2Proof.Machine

/-- A node descriptor as its 64 bytes give it (R90). -/
structure GNode where
  idx : Nat
  opByte : Nat
  sub : Nat
  nIn : Nat
  nOut : Nat
  roundByte : Nat
  res : Nat
  ins4 : List Nat
  outs2 : List Nat
  p : List Nat
  deriving DecidableEq, Repr

/-- The descriptor in 64 bytes (R90). -/
def parseNode (idx : Nat) (b : List Byte) : GNode :=
  { idx := idx, opByte := fieldAt b 0 1, sub := fieldAt b 1 1, nIn := fieldAt b 2 1, nOut := fieldAt b 3 1,
    roundByte := fieldAt b 4 1, res := fieldAt b 5 3,
    ins4 := (List.range 4).map fun j => fieldAt b (8 + 4 * j) 4,
    outs2 := (List.range 2).map fun j => fieldAt b (24 + 4 * j) 4,
    p := (List.range 8).map fun j => fieldAt b (32 + 4 * j) 4 }

/-- A parameter word. -/
def nP (n : GNode) (i : Nat) : Nat := n.p.getD i 0
/-- A parameter word as an FP32 pattern. -/
def nF (n : GNode) (i : Nat) : F32 := BitVec.ofNat 32 (nP n i)
/-- The input ordinals. -/
def nIns (n : GNode) : List Nat := n.ins4.take n.nIn
/-- The output ordinals. -/
def nOuts (n : GNode) : List Nat := n.outs2.take n.nOut
/-- Whether the node rounds stochastically (R90). -/
def nStoch (n : GNode) : Bool := n.roundByte % 4 == 1

/-- What an operator gives: the units of each output, and its flags. -/
structure OpOut where
  outs : List (List Nat)
  aux : Aux
  deriving DecidableEq, Repr

/-- One output converted from FP32 results. -/
def outF32 (y : TDesc) (n : GNode) (seed : Nat) (xs : List F32) (aux : Aux) : OpOut :=
  let c := convertOut y (nStoch n) seed xs
  ⟨[c.1], { aux with sat := aux.sat || c.2 }⟩

/-- One output of exact integers. -/
def outInts (y : TDesc) (xs : List Int) (aux : Aux) : OpOut :=
  let c := convertInts y xs
  ⟨[c.1], { aux with sat := aux.sat || c.2 }⟩

/-- One output of units moved bit for bit. -/
def outUnits (us : List Nat) : OpOut := ⟨[us], Aux.none⟩

/-- The sizes of a tensor with the innermost one in units. -/
def unitDims (t : TDesc) : List Nat := (tDims t).dropLast ++ [rowUnits (tFmt t) (tLast t)]

/-- The rows of a list along the last dimension. -/
def rowsOf {α : Type} (t : TDesc) (l : List α) : List (List α) :=
  let n := tLast t
  chunksOf n (if n = 0 then 0 else tElems t / n) l

/-! Matrix products -/

/-- The value an output element takes from its products and the bias (R98): the exact integer where no FP32 step applies. -/
structure DotVal where
  f : F32
  i : Int
  sat : Bool
  deriving DecidableEq, Repr

/-- The canonical sum of the products of one output element, as FP32 and, for integer pairs, as an integer (R98). -/
def dotVal (fa : Fmt) (ps : List (Num × Num)) : DotVal :=
  if fmtIsInt fa then
    let t := dotInt (ps.map fun p => numRint p.1 * numRint p.2)
    ⟨f32Int t.1, t.1, t.2⟩
  else ⟨dotFloat (pair16 fa) (ps.map fun p => numMul p.1 p.2), 0, false⟩

/-- A matrix-style product (R98 to R100): its matrices, rows, columns and depth along k, the values of the two operands of each by
position, and where along k a row meets a zero product. -/
structure MatView where
  batches : Nat
  rows : Nat
  cols : Nat
  depth : Nat
  fmtA : Fmt
  fmtB : Fmt
  a : Nat → Nat → Nat → Num
  b : Nat → Nat → Nat → Num
  inside : Nat → Nat → Bool

/-- The value +0. -/
abbrev numZero : Num := .fin false 0 0

/-- The two factors of one product: matrix, row, column and place along k. -/
def MatView.term (v : MatView) (e i j q : Nat) : Num × Num := if v.inside i q then (v.a e i q, v.b e q j) else (numZero, numZero)

/-- The products of one output element in order of k. -/
def MatView.terms (v : MatView) (e i j : Nat) : List (Num × Num) := (List.range v.depth).map (v.term e i j)

/-- The product of MATMUL and BATCH_MATMUL (R98, R99). -/
def matmulView (n : GNode) (ins : List TVal) (y : TDesc) : Option MatView :=
  match ins with
  | a :: b :: _ =>
    let an := ((tvNums a).map (arrayNum (tFmt a.d))).toArray
    let bn := ((tvNums b).map (arrayNum (tFmt b.d))).toArray
    let da := tDims a.d
    let db := tDims b.d
    let dy := tDims y
    let m := nth dy (dy.length - 2) 0
    let cols := nth dy (dy.length - 1) 0
    let k := nth da (da.length - 1) 0
    let tr := bitOf (nP n 1) 0
    let by' := dy.take (dy.length - 2)
    some { batches := by'.prod, rows := m, cols := cols, depth := k, fmtA := tFmt a.d, fmtB := tFmt b.d,
           a := fun e i q => an.getD (bcastAt by' (da.take (da.length - 2)) e * (m * k) + i * k + q) numZero,
           b := fun e q j => bn.getD (bcastAt by' (db.take (db.length - 2)) e * (k * cols) + (if tr then j * k + q else q * cols + j)) numZero,
           inside := fun _ _ => true }
  | _ => none

/-- The implicit product of CONV2D (R100): a row is an output position, k counts kh, kw and c with c fastest. -/
def convView (n : GNode) (ins : List TVal) (y : TDesc) : Option MatView :=
  match ins with
  | x :: w :: _ =>
    match tDims x.d, tDims w.d, tDims y with
    | [_, h, wd, c], [kh, kw, _, o], [nb, oh, ow, _] =>
      let xn := ((tvNums x).map (arrayNum (tFmt x.d))).toArray
      let wn := ((tvNums w).map (arrayNum (tFmt w.d))).toArray
      let p := nP n 2
      let ih := fun i q => i / ow % oh * bitsAt (nP n 1) 0 8 + q / c / kw * bitsAt (nP n 1) 16 8
      let iw := fun i q => i % ow * bitsAt (nP n 1) 8 8 + q / c % kw * bitsAt (nP n 1) 24 8
      let pt := bitsAt p 0 8
      let pl := bitsAt p 16 8
      some { batches := 1, rows := nb * oh * ow, cols := o, depth := kh * kw * c, fmtA := tFmt x.d, fmtB := tFmt w.d,
             a := fun _ i q => xn.getD (((i / ow / oh * h + (ih i q - pt)) * wd + (iw i q - pl)) * c + q % c) numZero,
             b := fun _ q j => wn.getD (q * o + j) numZero,
             inside := fun i q => decide (pt ≤ ih i q) && decide (ih i q - pt < h) && decide (pl ≤ iw i q) && decide (iw i q - pl < wd) }
    | _, _, _ => none
  | _ => none

/-- The matrix-style product of a node (R133). -/
def matView (n : GNode) (ins : List TVal) (y : TDesc) : Option MatView :=
  if n.opByte = 0x03 then convView n ins y else if n.opByte = 0x01 ∨ n.opByte = 0x02 then matmulView n ins y else none

/-- The epilogue of a matrix product over the value of each output element in row-major order (R98). -/
def matEpilogue (n : GNode) (seed : Nat) (fa : Fmt) (y : TDesc) (bias : Option (List F32)) (cols : Nat) (vals : List DotVal) : OpOut :=
  let aux := { Aux.none with sat := vals.any (·.sat) }
  if fmtIsInt fa && fmtIsInt (tFmt y) && nF n 0 == f32One && bias.isNone then outInts y (vals.map (·.i)) aux
  else
    let barr := (bias.getD []).toArray
    let fs := vals.zipIdx.map fun v =>
      let f := f32Mul v.1.f (nF n 0)
      if bias.isSome then f32Add f (barr.getD (v.2 % cols) 0) else f
    outF32 y n seed fs aux

/-- The bias of a matrix product, its third input where it has one. -/
def matBias (ins : List TVal) : Option (List F32) := (ins.drop 2).head?.map tvF32

/-- MATMUL, BATCH_MATMUL and CONV2D (R98 to R100). -/
def opMatrix (n : GNode) (seed : Nat) (ins : List TVal) (y : TDesc) : OpOut :=
  match matView n ins y with
  | some v =>
    matEpilogue n seed v.fmtA y (matBias ins) v.cols
      ((List.range v.batches).flatMap fun e => (List.range v.rows).flatMap fun i => (List.range v.cols).map fun j =>
        dotVal v.fmtA (v.terms e i j))
  | none => ⟨[], Aux.none⟩

/-! Elementwise operators and activations -/

/-- The binary sub-operations of R103. -/
def ewBinary (sub : Nat) (a b : F32) : F32 :=
  match sub with
  | 0 => f32Add a b
  | 1 => f32Sub a b
  | 2 => f32Mul a b
  | 3 => f32Div a b
  | 4 => f32Max a b
  | _ => f32Min a b

/-- The unary sub-operations of R103. -/
def ewUnary (sub : Nat) (c0 c1 a : F32) : F32 :=
  match sub with
  | 6 => f32Abs a
  | 7 => f32Neg a
  | 8 => f32Sqrt a
  | 9 => rsqrtS a
  | 10 => exp2S (f32Mul a f32Log2e)
  | 11 => f32Mul (log2S a) 0x3F317218
  | 12 => exp2S a
  | 13 => log2S a
  | 14 => f32Div f32One a
  | 15 => f32Add (f32Mul a c0) c1
  | 16 => f32Min (f32Max a c0) c1
  | _ => f32Mul a a

/-- ELEMENTWISE (R102, R103). -/
def opElementwise (n : GNode) (seed : Nat) (ins : List TVal) (y : TDesc) : OpOut :=
  match ins with
  | [a] => outF32 y n seed ((tvF32 a).map (ewUnary n.sub (nF n 0) (nF n 1))) Aux.none
  | a :: b :: _ =>
    let fa := (tvF32 a).toArray
    let fb := (tvF32 b).toArray
    let dy := tDims y
    outF32 y n seed ((List.range (tElems y)).map fun i =>
      ewBinary n.sub (fa.getD (bcastAt dy (tDims a.d) i) 0) (fb.getD (bcastAt dy (tDims b.d) i) 0)) Aux.none
  | [] => ⟨[], Aux.none⟩

/-- The functions of R104. -/
def activate (sub : Nat) (slope x : F32) : F32 :=
  match sub with
  | 0 => if f32IsNan x then f32NaN else if f32Lt f32Zero x then x else f32Zero
  | 1 => sigmoidS x
  | 2 => f32Mul x (sigmoidS x)
  | 3 =>
    let u := f32Mul (f32Mul x x) x
    let u := f32Mul u 0x3D372713
    let u := f32Add u x
    let u := f32Mul u 0x3FCC422A
    f32Mul x (sigmoidS u)
  | 4 => f32Sub (f32Mul 0x40000000 (sigmoidS (f32Mul 0x40000000 x))) f32One
  | _ => if f32IsNan x then f32NaN else if f32Lt f32Zero x then x else f32Mul x slope

/-- ACTIVATE (R104). -/
def opActivate (n : GNode) (seed : Nat) (ins : List TVal) (y : TDesc) : OpOut :=
  match ins with
  | x :: _ => outF32 y n seed ((tvF32 x).map (activate n.sub (nF n 0))) Aux.none
  | [] => ⟨[], Aux.none⟩

/-! Normalisation, softmax, rotary embedding -/

/-- One row of NORM (R109). -/
def normRow (layer : Bool) (eps : F32) (gamma beta : Option (List F32)) (x : List F32) : List F32 :=
  let n := f32Int (Int.ofNat x.length)
  let d := if layer then (let mu := f32Div (canonSum x) n; x.map fun v => f32Sub v mu) else x
  let v := f32Add (f32Div (canonSum (d.map fun t => f32Mul t t)) n) eps
  let r := rsqrtS v
  let z := d.map fun t => f32Mul t r
  let z := match gamma with
    | some g => (z.zip g).map fun p => f32Mul p.1 p.2
    | none => z
  match beta with
  | some b => (z.zip b).map fun p => f32Add p.1 p.2
  | none => z

/-- NORM (R109). -/
def opNorm (n : GNode) (seed : Nat) (ins : List TVal) (y : TDesc) : OpOut :=
  match ins with
  | x :: rest =>
    outF32 y n seed ((rowsOf x.d (tvF32 x)).flatMap
      (normRow (n.sub == 1) (nF n 0) (rest.head?.map tvF32) ((rest.drop 1).head?.map tvF32))) Aux.none
  | [] => ⟨[], Aux.none⟩

/-- One row of SOFTMAX from its scaled values (R110): the results and whether the row is empty. -/
def softmaxRow (z : List F32) : List F32 × Bool :=
  if z.any fun v => f32IsNan v || v == f32PosInf then (z.map fun _ => f32NaN, false)
  else
    let m := z.foldl f32Max f32NegInf
    if m == f32NegInf then (z.map fun _ => f32Zero, true)
    else
      let e := z.map fun v => expDiff v m
      let s := canonSum e
      (e.map fun v => f32Div v s, false)

/-- SOFTMAX (R110). -/
def opSoftmax (n : GNode) (seed : Nat) (ins : List TVal) (y : TDesc) : OpOut :=
  match ins with
  | x :: rest =>
    let mask := (rest.head?.map fun m => ((tvInts m).toArray, tDims m.d))
    let z := (tvF32 x).zipIdx.map fun p =>
      let masked := match mask with
        | some (a, d) => a.getD (bcastAt (tDims x.d) d p.2) 1 == 0
        | none => false
      if masked then f32NegInf else f32Mul p.1 (nF n 0)
    let rows := (rowsOf x.d z).map softmaxRow
    outF32 y n seed (rows.flatMap (·.1)) { Aux.none with emptyRow := rows.any (·.2) }
  | [] => ⟨[], Aux.none⟩

/-- One row of ROPE at table row `cs` of (cosine, sine) pairs (R111). -/
def ropeRow (half : Bool) (cs : List (F32 × F32)) (x : List F32) : List F32 :=
  let a := x.toArray
  let c := cs.toArray
  let k := cs.length
  x.zipIdx.map fun p =>
    let i := p.2
    if 2 * k ≤ i then p.1
    else if half then
      (if i < k then
        let w := c.getD i (0, 0)
        f32Sub (f32Mul p.1 w.1) (f32Mul (a.getD (i + k) 0) w.2)
      else
        let w := c.getD (i - k) (0, 0)
        f32Add (f32Mul (a.getD (i - k) 0) w.2) (f32Mul p.1 w.1))
    else
      let w := c.getD (i / 2) (0, 0)
      if i % 2 = 0 then f32Sub (f32Mul p.1 w.1) (f32Mul (a.getD (i + 1) 0) w.2)
      else f32Add (f32Mul (a.getD (i - 1) 0) w.2) (f32Mul p.1 w.1)

/-- ROPE (R111). -/
def opRope (n : GNode) (seed : Nat) (ins : List TVal) (y : TDesc) : OpOut :=
  match ins with
  | x :: pos :: table :: _ =>
    let ps := (tvInts pos).toArray
    let tab := (tvF32 table).toArray
    let big := nth (tDims table.d) 0 0
    let k := nP n 0 / 2
    let outer := (tDims x.d).dropLast
    let rows := (rowsOf x.d (tvF32 x)).zipIdx.map fun r =>
      let p := ps.getD (bcastAt outer (tDims pos.d) r.2) 0
      if p < 0 || decide (Int.ofNat big ≤ p) then (r.1, true)
      else
        let cs := (List.range k).map fun j =>
          (tab.getD ((p.toNat * k + j) * 2) 0, tab.getD ((p.toNat * k + j) * 2 + 1) 0)
        (ropeRow (n.sub == 1) cs r.1, false)
    outF32 y n seed (rows.flatMap (·.1)) { Aux.none with oor := rows.any (·.2) }
  | _ => ⟨[], Aux.none⟩

/-! Indexing, selection, reduction -/

/-- The index into a dimension of size `d`, if it lies inside (R112). -/
def idxIn (d : Nat) (i : Int) : Option Nat := if i < 0 || decide (Int.ofNat d ≤ i) then none else some i.toNat

/-- GATHER (R112). -/
def opGather (n : GNode) (ins : List TVal) : OpOut :=
  match ins with
  | x :: idx :: _ =>
    let us := x.units.toArray
    let ud := unitDims x.d
    let ax := nP n 0
    let d := nth ud ax 0
    let pre := (ud.take ax).prod
    let post := (ud.drop (ax + 1)).prod
    let is := (tvInts idx).map (idxIn d)
    let z := zeroUnit (tFmt x.d)
    let out := (List.range pre).flatMap fun a => is.flatMap fun i => (List.range post).map fun b =>
      match i with
      | some i => us.getD ((a * d + i) * post + b) 0
      | none => z
    ⟨[out], { Aux.none with oor := is.any (·.isNone) }⟩
  | _ => ⟨[], Aux.none⟩

/-- EMBED (R112). -/
def opEmbed (n : GNode) (seed : Nat) (ins : List TVal) (y : TDesc) : OpOut :=
  match ins with
  | table :: idx :: _ =>
    let t := (tvF32 table).toArray
    let v := nth (tDims table.d) 0 0
    let d := nth (tDims table.d) 1 0
    let is := (tvInts idx).map (idxIn v)
    let xs := is.flatMap fun i => (List.range d).map fun j =>
      match i with
      | some i => f32Mul (t.getD (i * d + j) 0) (nF n 0)
      | none => f32Zero
    outF32 y n seed xs { Aux.none with oor := is.any (·.isNone) }
  | _ => ⟨[], Aux.none⟩

/-- A list with the elements from `k` replaced by those of `r`. -/
def putAt {α : Type} (l : List α) (k : Nat) (r : List α) : List α := l.take k ++ r ++ l.drop (k + r.length)

/-- One row added in SCATTER's add mode: each element rounded into the tensor's format (R113). -/
def scatterAdd (y : TDesc) (n : GNode) (seed k : Nat) (old upd : List Nat) : List (Nat × Bool) :=
  (old.zip upd).zipIdx.map fun p =>
    let f := f32Add (numF32 (elemNum (tFmt y) p.1.1)) (numF32 (elemNum (tFmt y) p.1.2))
    encElem (tFmt y) (if nStoch n then some (philoxDraw seed (k + p.2) y.ord 0) else none) (f32Num f)

/-- SCATTER (R113). -/
def opScatter (n : GNode) (seed : Nat) (ins : List TVal) (y : TDesc) : OpOut :=
  match ins with
  | base :: idx :: upd :: _ =>
    let ud := unitDims base.d
    let row := if (tDims base.d).length = 1 then 1 else (ud.drop 1).prod
    let d := nth (tDims base.d) 0 0
    let rows := (tvInts idx).zip (chunksOf row (tElems idx.d) upd.units)
    let st := rows.foldl (fun (st : List Nat × Aux) p =>
      match idxIn d p.1 with
      | none => (st.1, { st.2 with oor := true })
      | some i =>
        if n.sub = 0 then (putAt st.1 (i * row) p.2, st.2)
        else
          let r := scatterAdd y n seed (i * row) ((st.1.drop (i * row)).take row) p.2
          (putAt st.1 (i * row) (r.map (·.1)), { st.2 with sat := st.2.sat || r.any (·.2) }))
      (base.units, Aux.none)
    ⟨[st.1], st.2⟩
  | _ => ⟨[], Aux.none⟩

/-- Whether value `a` ranks before `b` (R114): NaN after every number, equal values keep their order. -/
def rankBefore (smallest : Bool) (a b : Num) : Bool :=
  if numIsNan a then false
  else if numIsNan b then true
  else if smallest then numLt a b else numLt b a

/-- The indices of a row in rank order (R114). -/
def rankOrder (smallest : Bool) (row : List Num) : List (Num × Nat) :=
  sortBy (fun a b => rankBefore smallest a.1 b.1) row.zipIdx

/-- TOPK (R114). -/
def opTopk (n : GNode) (ins : List TVal) : OpOut :=
  match ins with
  | x :: _ =>
    let k := nP n 0
    let rows := ((rowsOf x.d (tvNums x)).zip (rowsOf x.d x.units)).map fun r =>
      let us := r.2.toArray
      ((rankOrder (n.sub == 1) r.1).take k).map fun e => (us.getD e.2 0, indexUnit e.2)
    ⟨[rows.flatMap fun r => r.map (·.1), rows.flatMap fun r => r.map (·.2)], Aux.none⟩
  | [] => ⟨[], Aux.none⟩

/-- All multi-indices with one entry from each list, in row-major order. -/
def cartesian : List (List Nat) → List (List Nat)
  | [] => [[]]
  | l :: t => l.flatMap fun i => (cartesian t).map (i :: ·)

/-- The indices of the input elements that reduce into output element `i` (R115). -/
def reduceTerms (dims : List Nat) (mask i : Nat) : List Nat :=
  let od := dims.zipIdx.map fun p => if bitOf mask p.2 then 1 else p.1
  let oi := unravel od i
  (cartesian ((dims.zip oi).zipIdx.map fun p => if bitOf mask p.2 then List.range p.1.1 else [p.1.2])).map (ravel dims)

/-- One reduction over FP32 terms (R115). -/
def reduceF32 (sub : Nat) (ts : List F32) : F32 :=
  match sub with
  | 0 => canonSum ts
  | 1 => ts.foldl f32Max f32NegInf
  | 2 => ts.foldl f32Min f32PosInf
  | 3 => f32Div (canonSum ts) (f32Int (Int.ofNat ts.length))
  | _ => canonSum (ts.map fun t => f32Mul t t)

/-- REDUCE (R115). -/
def opReduce (n : GNode) (seed : Nat) (ins : List TVal) (y : TDesc) : OpOut :=
  match ins with
  | x :: _ =>
    let dims := tDims x.d
    let idx := (List.range (tElems y)).map (reduceTerms dims (nP n 0))
    let whole := fmtIsInt (tFmt x.d) && tFmt y == .int32 && (n.sub == 0 || n.sub == 3) && nP n 0 != 0
    if whole then
      let is := (tvInts x).toArray
      let sums := idx.map fun l => (canonSumInt (l.map fun j => is.getD j 0), l.length)
      let aux := { Aux.none with sat := sums.any fun p => p.1.2 }
      if n.sub = 0 then outInts y (sums.map fun p => p.1.1) aux
      else outF32 y n seed (sums.map fun p => f32Div (f32Int p.1.1) (f32Int (Int.ofNat p.2))) aux
    else if nP n 0 = 0 then outF32 y n seed (tvF32 x) Aux.none
    else
      let fs := (tvF32 x).toArray
      outF32 y n seed (idx.map fun l => reduceF32 n.sub (l.map fun j => fs.getD j 0)) Aux.none
  | [] => ⟨[], Aux.none⟩

/-! Layout, conversion, constants -/

/-- The source dimensions of TRANSPOSE (R97). -/
def permOf (n : GNode) (rank : Nat) : List Nat := (List.range rank).map fun j => bitsAt (nP n 0) (3 * j) 3

/-- TRANSPOSE (R116). -/
def opTranspose (n : GNode) (ins : List TVal) : OpOut :=
  match ins with
  | x :: _ =>
    let us := x.units.toArray
    let ud := unitDims x.d
    let perm := permOf n ud.length
    let yd := perm.map fun p => nth ud p 0
    outUnits ((List.range yd.prod).map fun i =>
      let yi := unravel yd i
      let xi := (List.range ud.length).map fun j => nth yi (perm.idxOf j) 0
      us.getD (ravel ud xi) 0)
  | [] => ⟨[], Aux.none⟩

/-- CONCAT (R116). -/
def opConcat (n : GNode) (ins : List TVal) : OpOut :=
  match ins with
  | x :: _ =>
    let ax := nP n 0
    let pre := ((unitDims x.d).take ax).prod
    let parts := ins.map fun v =>
      let w := ((unitDims v.d).drop ax).prod
      (chunksOf w pre v.units).toArray
    outUnits ((List.range pre).flatMap fun a => parts.flatMap fun p => p.getD a [])
  | [] => ⟨[], Aux.none⟩

/-- SLICE (R116). -/
def opSlice (n : GNode) (ins : List TVal) (y : TDesc) : OpOut :=
  match ins with
  | x :: _ =>
    let us := x.units.toArray
    let ud := unitDims x.d
    let yd := unitDims y
    let starts := (List.range ud.length).map fun j =>
      if fmtIsBlock (tFmt x.d) && j + 1 == ud.length then nP n j / 32 else nP n j
    outUnits ((List.range yd.prod).map fun i =>
      us.getD (ravel ud (((unravel yd i).zip starts).map fun p => p.1 + p.2)) 0)
  | [] => ⟨[], Aux.none⟩

/-- COPY and RESHAPE (R116). -/
def opCopy (ins : List TVal) : OpOut :=
  match ins with
  | x :: _ => outUnits x.units
  | [] => ⟨[], Aux.none⟩

/-- FILL (R116). -/
def opFill (n : GNode) (seed : Nat) (y : TDesc) : OpOut :=
  outF32 y n seed (List.replicate (tElems y) (nF n 0)) Aux.none

/-- QUANTIZE and DEQUANTIZE: `f` is the division or the multiplication by the scale (R117). -/
def opScale (f : F32 → F32 → F32) (n : GNode) (seed : Nat) (ins : List TVal) (y : TDesc) : OpOut :=
  match ins with
  | [x] => outF32 y n seed ((tvF32 x).map fun v => f v (nF n 0)) Aux.none
  | x :: sc :: _ =>
    let ss := (tvF32 sc).toArray
    outF32 y n seed ((tvF32 x).zipIdx.map fun p => f p.1 (ss.getD (bcastAt (tDims x.d) (tDims sc.d) p.2) 0)) Aux.none
  | [] => ⟨[], Aux.none⟩

/-! Decoding operators -/

/-- The sequential walk of R118: the first token whose prefix sum passes `u`. -/
def sampleWalk (u : F32) : F32 → List (F32 × Nat) → Nat → Nat
  | _, [], last => last
  | c, (e, tok) :: t, _ => let c' := f32Add c e; if f32Lt u c' then tok else sampleWalk u c' t tok

/-- One row of SAMPLE (R118): the token, −1 for an empty row. -/
def sampleRow (temp : F32) (topK draw : Nat) (row : List Num) : Int :=
  let cand := ((rankOrder false row).filter fun e => !numIsNan e.1).take (if topK = 0 then row.length else topK)
  match cand with
  | [] => -1
  | c0 :: _ =>
    if c0.1 = .inf true then -1
    else if numIsZero (f32Num temp) || topK == 1 || c0.1 == .inf false then Int.ofNat c0.2
    else
      let z := cand.map fun e => (f32Div (numF32 e.1) temp, e.2)
      let z0 := (z.head?.map (·.1)).getD f32Zero
      let es := z.map fun p => (expDiff p.1 z0, p.2)
      let s := canonSum (es.map (·.1))
      let u := f32Mul s (numF32 (.fin false (draw / 2 ^ 8) (-24)))
      Int.ofNat (sampleWalk u f32Zero es 0)

/-- SAMPLE (R118). -/
def opSample (n : GNode) (seed : Nat) (ins : List TVal) (y : TDesc) : OpOut :=
  match ins with
  | x :: _ =>
    let rows := if tLast x.d = 0 then List.replicate (nth (tDims x.d) 0 0) [] else rowsOf x.d (tvNums x)
    let toks := rows.zipIdx.map fun r => sampleRow (nF n 0) (nP n 1) (philoxDraw seed r.2 y.ord 1) r.1
    ⟨[toks.map int32Unit], { Aux.none with emptyRow := toks.any (· == -1) }⟩
  | [] => ⟨[], Aux.none⟩

/-- The length of the common prefix of candidates and target, at most `n` (R119). -/
def agreeLen : Nat → List Int → List Int → Nat
  | 0, _, _ => 0
  | n + 1, c :: cs, t :: ts => if c = t then agreeLen n cs ts + 1 else 0
  | _, _, _ => 0

/-- VERIFY (R119). -/
def opVerify (ins : List TVal) : OpOut :=
  match ins with
  | cand :: target :: count :: _ =>
    let c := nth (tDims cand.d) 1 0
    let cs := (tvInts cand).toArray
    let ts := (tvInts target).toArray
    let rows := (tvInts count).zipIdx.map fun p =>
      let cnt := clampInt 0 (Int.ofNat c) p.1
      let row := (List.range c).map fun j => cs.getD (p.2 * c + j) 0
      let tgt := (List.range (c + 1)).map fun j => ts.getD (p.2 * (c + 1) + j) 0
      let a := agreeLen cnt.toNat row tgt
      (a, nth tgt a 0, decide (cnt ≠ p.1))
    ⟨[rows.map fun r => int32Unit (Int.ofNat r.1), rows.map fun r => int32Unit r.2.1],
      { Aux.none with oor := rows.any fun r => r.2.2 }⟩
  | _ => ⟨[], Aux.none⟩

/-! Checking operators -/

/-- The canonical serialisation of a tensor from its units (R53). -/
def serialise (t : TDesc) (units : List Nat) : List Byte :=
  [BitVec.ofNat 8 (fmtCode (tFmt t)), BitVec.ofNat 8 t.rank, 0, 0] ++
  ((tDims t ++ List.replicate (6 - t.rank) 0).flatMap (leBytes 4)) ++ leBytes 4 t.ord ++
  ((chunksOf (rowUnits (tFmt t) (tLast t)) (tRows t).length units).flatMap (packRow (tFmt t)))

/-- The serialisation of bytes as a rank-1 INT8 tensor of ordinal 0 (R235). -/
def serialiseBytes (bs : List Byte) : List Byte :=
  [1, 1, 0, 0] ++ leBytes 4 bs.length ++ zeros 20 ++ zeros 4 ++ bs

/-- DIGEST (R120). -/
def opDigest (ins : List TVal) : OpOut :=
  match ins with
  | x :: _ => outUnits ((sha256 (serialise x.d x.units)).map BitVec.toNat)
  | [] => ⟨[], Aux.none⟩

/-- COMPARE (R121). -/
def opCompare (ins : List TVal) : OpOut :=
  match ins with
  | a :: b :: _ =>
    let ds := (a.units.zip b.units).zipIdx.filter fun p => p.1.1 != p.1.2
    let n := clampNat 0 2147483647 ds.length
    let first : Nat := match ds with
      | [] => int32Unit (-1)
      | d :: _ => indexUnit d.2
    ⟨[[n, first]], { Aux.none with differs := decide (0 < n) }⟩
  | _ => ⟨[], Aux.none⟩

/-- The operator of a node other than ATTEND (R95). -/
def evalOp (n : GNode) (seed : Nat) (ins : List TVal) (outs : List TDesc) : OpOut :=
  match outs with
  | [] => ⟨[], Aux.none⟩
  | y :: _ =>
    match n.opByte with
    | 0x00 => opCopy ins
    | 0x01 => opMatrix n seed ins y
    | 0x02 => opMatrix n seed ins y
    | 0x03 => opMatrix n seed ins y
    | 0x04 => opElementwise n seed ins y
    | 0x05 => opActivate n seed ins y
    | 0x06 => opNorm n seed ins y
    | 0x07 => opSoftmax n seed ins y
    | 0x08 => opRope n seed ins y
    | 0x09 => opGather n ins
    | 0x0A => opScatter n seed ins y
    | 0x0B => opEmbed n seed ins y
    | 0x0C => opTopk n ins
    | 0x0D => opReduce n seed ins y
    | 0x0E => opTranspose n ins
    | 0x0F => opConcat n ins
    | 0x10 => opSlice n ins y
    | 0x11 => opScale f32Div n seed ins y
    | 0x12 => opScale f32Mul n seed ins y
    | 0x14 => opSample n seed ins y
    | 0x15 => opVerify ins
    | 0x16 => opDigest ins
    | 0x17 => opCompare ins
    | 0x18 => opFill n seed y
    | _ => opCopy ins

end Sys2Proof.Machine
end

