-- ==== Sys2Proof/Machine/GraphCheck.lean ====
section
/-! DEFINITION. The pre-execution checks of a graph (R86 to R97, R38). -/

namespace Sys2Proof.Machine

/-- A graph as its tables give it (R86). -/
structure Graph where
  level : Nat
  hdrRes : Bool
  tensorTable : Nat
  nodeTable : Nat
  ioAddr : Nat
  inCount : Nat
  tensors : List TDesc
  nodes : List GNode
  io : List Nat
  deriving DecidableEq, Repr

/-- The header's counts: tensors, nodes, inputs, outputs. -/
def hdrCounts (h : List Byte) : Nat × Nat × Nat × Nat := (fieldAt h 4 4, fieldAt h 8 4, fieldAt h 12 2, fieldAt h 14 2)

/-- The header's table addresses as written: tensors, nodes, io_list. -/
def hdrTables (h : List Byte) : Nat × Nat × Nat := (fieldAt h 16 8, fieldAt h 24 8, fieldAt h 32 8)

/-- The extents of the graph's structures behind the header (R157). -/
def hdrExtents (h : List Byte) : List (Nat × Nat) :=
  let c := hdrCounts h
  let t := hdrTables h
  [(t.1 % 2 ^ 48, 96 * c.1), (t.2.1 % 2 ^ 48, 64 * c.2.1), (t.2.2 % 2 ^ 48, 4 * (c.2.2.1 + c.2.2.2))]

/-- Whether the graph's structures break LENGTH_RANGE: an unmapped extent or a count above its maximum (R86, R89, R157). -/
def hdrLengthFault (s : State) (r addr : Nat) : Option Nat :=
  if !extentMapped s r addr 64 then some 48
  else
    let h := realmRead s r addr 64
    let c := hdrCounts h
    if decide (65535 < c.1) || decide (16384 < c.2.1) || decide (256 < c.2.2.1) || decide (256 < c.2.2.2) then some 0
    else if (hdrExtents h).any fun e => decide (2 ^ 48 < e.1 + e.2) || !extentMapped s r e.1 e.2 then some 0
    else none

/-- The graph behind a header whose structures are mapped. -/
def readGraph (s : State) (r addr : Nat) : Graph :=
  let h := realmRead s r addr 64
  let c := hdrCounts h
  let t := hdrTables h
  { level := fieldAt h 0 2, hdrRes := fieldAt h 2 2 != 0 || fieldAt h 40 24 != 0,
    tensorTable := t.1, nodeTable := t.2.1, ioAddr := t.2.2, inCount := c.2.2.1,
    tensors := (List.range c.1).map fun i => parseTensor i (realmRead s r (t.1 % 2 ^ 48 + 96 * i) 96),
    nodes := (List.range c.2.1).map fun i => parseNode i (realmRead s r (t.2.1 % 2 ^ 48 + 64 * i) 64),
    io := (List.range (c.2.2.1 + c.2.2.2)).map fun i => fieldAt (realmRead s r (t.2.2 % 2 ^ 48 + 4 * i) 4) 0 4 }

/-- The first poisoned granule of the graph's structures (R166). -/
def graphPoison (s : State) (r addr : Nat) : Option Nat :=
  firstSome (fun e => poisonedRead s r e.1 e.2) ((addr, 64) :: hdrExtents (realmRead s r addr 64))

/-- The tensor of an ordinal. -/
def gTensor (g : Graph) (o : Nat) : Option TDesc := g.tensors[o]?
/-- The input descriptors of a node. -/
def gIns (g : Graph) (n : GNode) : List TDesc := (nIns n).filterMap (gTensor g)
/-- The output descriptors of a node. -/
def gOuts (g : Graph) (n : GNode) : List TDesc := (nOuts n).filterMap (gTensor g)

/-- The lowest index of a list whose element has a fault. -/
def firstFault {α : Type} (idx : α → Nat) (bad : α → Bool) (l : List α) : Option Nat := (l.find? bad).map idx

/-- LENGTH_RANGE of one tensor (R89, R157). -/
def tensorLengthFault (s : State) (r : Nat) (t : TDesc) : Bool :=
  t.dims6.any (· == max32) || t.strides6.any (fun x => x % 2 ^ 48 == 2 ^ 48 - 1) ||
  ((tFmt? t).isSome && tRankOk t && (decide (2 ^ 48 < tBase t + tSpan t) || !extentMapped s r (tBase t) (tSpan t)))

/-- GRAPH_INVALID of one tensor (R92) that does not depend on nodes: reserved fields, rank, role. -/
def tensorInvalid (g : Graph) (t : TDesc) : Bool :=
  decide (16 ≤ t.fmtByte) || decide (2 < t.role) || t.res1 != 0 || t.res2 != 0 || decide (2 ^ 48 ≤ t.addr) || !tRankOk t ||
  (tRankOk t && ((t.dims6.drop t.rank).any (· != 0) || (t.strides6.drop t.rank).any (· != 0))) ||
  t.strides6.any (fun x => decide (2 ^ 48 ≤ x)) ||
  (t.role == 1) != (g.io.take g.inCount).contains t.ord ||
  (t.role == 2) != (g.io.drop g.inCount).contains t.ord ||
  (t.role == 2 && tElems t != 0 && !(g.nodes.any fun n => (nOuts n).contains t.ord))

/-- The first offending position of io_list (R92, R94): an ordinal out of range or listed before. -/
def ioFault (g : Graph) : Option Nat :=
  (List.range g.io.length).find? fun i =>
    let o := nth g.io i 0
    decide (g.tensors.length ≤ o) || (g.io.take i).contains o

/-- GRAPH_INVALID of the header alone (R92). -/
def headerInvalid (g : Graph) (level : Nat) : Bool :=
  g.level != level || g.hdrRes || g.tensors.isEmpty || g.tensorTable % 8 != 0 || g.nodeTable % 8 != 0 || g.ioAddr % 4 != 0 ||
  decide (2 ^ 48 ≤ g.tensorTable) || decide (2 ^ 48 ≤ g.nodeTable) || decide (2 ^ 48 ≤ g.ioAddr)

/-- The numbers of inputs and outputs an operator allows (R95, R103, R192): least and most inputs, least and most outputs. -/
def opArity (n : GNode) : Nat × Nat × Nat × Nat :=
  match n.opByte with
  | 0x01 | 0x02 | 0x03 => (2, 3, 1, 1)
  | 0x04 => if n.sub ≤ 5 then (2, 2, 1, 1) else (1, 1, 1, 1)
  | 0x06 => (1, 3, 1, 1)
  | 0x07 => (1, 2, 1, 1)
  | 0x08 => (3, 3, 1, 1)
  | 0x09 => (2, 2, 1, 1)
  | 0x0A => (3, 3, 1, 1)
  | 0x0B => (2, 2, 1, 1)
  | 0x0C => (1, 1, 2, 2)
  | 0x0F => (2, 4, 1, 1)
  | 0x11 | 0x12 => (1, 2, 1, 1)
  | 0x13 => if bitOf (nP n 6) 0 then (3, 4, 1, 2) else (1, 2, 1, 2)
  | 0x15 => (3, 3, 2, 2)
  | 0x17 => (2, 2, 1, 1)
  | 0x18 => (0, 0, 1, 1)
  | _ => (1, 1, 1, 1)

/-- Whether the parameter words from `i` on are 0. -/
def zerosFrom (n : GNode) (i : Nat) : Bool := (n.p.drop i).all (· == 0)

/-- Whether a value is finite and not below zero. -/
def f32FiniteNonNeg (x : F32) : Bool := !f32Special x && !f32Lt x f32Zero

/-- Whether the sub-operation and parameters of a node other than ATTEND are in range (R97, R103, R104). A range that depends on
a tensor whose rank is itself at fault is not judged. TRANSPOSE entries below the rank that are no permutation are a fault of the parameter:
DEDUCED, notes/assumptions/79. -/
def paramsOk (g : Graph) (n : GNode) : Bool :=
  let x := (gIns g n).head?
  let rankOf := match x with
    | some t => if tRankOk t then some t.rank else none
    | none => none
  let rk := rankOf.getD 6
  let last := match x with
    | some t => if tRankOk t then tLast t else max32
    | none => max32
  match n.opByte with
  | 0x01 | 0x02 => n.sub == 0 && decide (nP n 1 < 2) && zerosFrom n 2
  | 0x03 =>
    n.sub == 0 && ((List.range 4).all fun j => let v := bitsAt (nP n 1) (8 * j) 8; decide (1 ≤ v) && decide (v ≤ 16)) &&
    ((List.range 4).all fun j => decide (bitsAt (nP n 2) (8 * j) 8 ≤ 31)) && zerosFrom n 3
  | 0x04 =>
    if n.sub = 15 then zerosFrom n 2
    else if n.sub = 16 then zerosFrom n 2 && f32Le (nF n 0) (nF n 1)
    else decide (n.sub ≤ 17) && zerosFrom n 0
  | 0x05 => decide (n.sub ≤ 5) && zerosFrom n (if n.sub = 5 then 1 else 0)
  | 0x06 => decide (n.sub ≤ 1) && f32FiniteNonNeg (nF n 0) && zerosFrom n 1
  | 0x08 => decide (n.sub ≤ 1) && nP n 0 % 2 == 0 && decide (2 ≤ nP n 0) && decide (nP n 0 ≤ last) && zerosFrom n 1
  | 0x09 | 0x0F => n.sub == 0 && decide (nP n 0 < rk) && zerosFrom n 1
  | 0x0A => decide (n.sub ≤ 1) && zerosFrom n 0
  | 0x07 | 0x0B | 0x18 => n.sub == 0 && zerosFrom n 1
  | 0x0C => decide (n.sub ≤ 1) && decide (1 ≤ nP n 0) && decide (nP n 0 ≤ 1024) && zerosFrom n 1
  | 0x0D => decide (n.sub ≤ 4) && decide (nP n 0 < 2 ^ rk) && zerosFrom n 1
  | 0x0E =>
    n.sub == 0 && zerosFrom n 1 &&
    (match rankOf with
     | some k => decide (nP n 0 < 2 ^ (3 * k)) && allDistinct (permOf n k) && (permOf n k).all fun p => decide (p < k)
     | none => true)
  | 0x10 => n.sub == 0 && zerosFrom n rk
  | 0x11 | 0x12 => n.sub == 0 && zerosFrom n (if n.nIn = 2 then 0 else 1)
  | 0x14 => n.sub == 0 && decide (nP n 0 < 0x7F800000) && decide (nP n 1 ≤ 1024) && zerosFrom n 2
  | _ => n.sub == 0 && zerosFrom n 0

/-- The structural faults of a node that hold for every operator (R92): ordinals, counts, reserved fields, roles. -/
def nodeStructFault (g : Graph) (n : GNode) : Bool :=
  let ar := opArity n
  decide (0x1A ≤ n.opByte) || n.res != 0 || decide (2 ≤ n.roundByte) ||
  decide (n.nIn < ar.1) || decide (ar.2.1 < n.nIn) || decide (n.nOut < ar.2.2.1) || decide (ar.2.2.2 < n.nOut) ||
  (n.ins4.drop n.nIn).any (· != 0) || (n.outs2.drop n.nOut).any (· != 0) ||
  (nIns n ++ nOuts n).any (fun o => decide (g.tensors.length ≤ o)) ||
  (gOuts g n).any (fun t => t.role == 1) ||
  (gIns g n).any (fun t => t.role == 0 && !((g.nodes.take n.idx).any fun m => (nOuts m).contains t.ord))

/-- Whether an operator is ATTEND. -/
def isAttend (n : GNode) : Bool := n.opByte == 0x13

/-- GRAPH_INVALID of a node, ATTEND's own parameters apart (R92). -/
def nodeInvalid (g : Graph) (n : GNode) : Bool :=
  nodeStructFault g n || (!isAttend n && !paramsOk g n)

/-- FORMAT_UNSUPPORTED of the formats an operator does not list (R95). -/
def opFormatsOk (n : GNode) (i : List Fmt) (o : List Fmt) : Bool :=
  let float3 := fun f => f == Fmt.fp32 || f == .bf16 || f == .fp16
  let fp8 := fun f => f == Fmt.e4m3 || f == .e5m2
  match n.opByte, i, o with
  | 0x00, x :: _, y :: _ => x == y
  | 0x01, a :: b :: t, _ | 0x02, a :: b :: t, _ | 0x03, a :: b :: t, _ => arrayPair a b && t.all (· == .fp32)
  | 0x06, _ :: t, _ => t.all fun f => f == .fp32 || f == .bf16
  | 0x07, x :: t, _ => float3 x && t.all (· == .int8)
  | 0x08, x :: p :: t :: _, _ => float3 x && p == .int32 && t == .fp32
  | 0x09, x :: j :: _, y :: _ => x == y && j == .int32
  | 0x0A, b :: j :: u :: _, y :: _ => b == y && u == y && j == .int32
  | 0x0B, _ :: j :: _, y :: _ => j == .int32 && (float3 y || fp8 y)
  | 0x0C, x :: _, v :: j :: _ => (float3 x || fp8 x || x == .int8 || x == .int32) && v == x && j == .int32
  | 0x0E, x :: _, y :: _ | 0x10, x :: _, y :: _ | 0x19, x :: _, y :: _ => x == y
  | 0x0F, xs, y :: _ => xs.all (· == y)
  | 0x11, _ :: t, _ => t.all (· == .fp32)
  | 0x12, _ :: t, y :: _ => t.all (· == .fp32) && float3 y
  | 0x14, x :: _, y :: _ => float3 x && y == .int32
  | 0x15, xs, ys => (xs ++ ys).all (· == .int32)
  | 0x16, _, y :: _ => y == .int8
  | 0x17, a :: b :: _, y :: _ => a == b && y == .int32
  | _, _, _ => true

/-- FORMAT_UNSUPPORTED of MXFP4 operands whose blocks do not lie along k (R81). -/
def mxAlongK (n : GNode) (ins : List TDesc) : Bool :=
  match n.opByte, ins with
  | 0x01, _ :: b :: _ | 0x02, _ :: b :: _ => tFmt b != .mxfp4 || bitOf (nP n 1) 0
  | 0x03, x :: w :: _ => tFmt w != .mxfp4 && (tFmt x != .mxfp4 || tLast x % 32 == 0)
  | _, _ => true

/-- FORMAT_UNSUPPORTED of moves that split a block (R96). -/
def blockMoveOk (n : GNode) (ins outs : List TDesc) : Bool :=
  match n.opByte, ins, outs with
  | 0x0E, x :: _, _ => !fmtIsBlock (tFmt x) || nth (permOf n x.rank) (x.rank - 1) 0 == x.rank - 1
  | 0x09, x :: _, _ => !fmtIsBlock (tFmt x) || nP n 0 + 1 != x.rank
  | 0x0A, b :: _, _ => !fmtIsBlock (tFmt b) || (n.sub == 0 && b.rank != 1)
  | 0x10, x :: _, _ => !fmtIsBlock (tFmt x) || nP n (x.rank - 1) % 32 == 0
  | 0x0F, xs, y :: _ =>
    !fmtIsBlock (tFmt y) || nP n 0 + 1 != y.rank || xs.dropLast.all fun t => tLast t % 32 == 0
  | 0x19, x :: _, y :: _ =>
    !fmtIsBlock (tFmt x) || tLast x == tLast y || (tLast x % 32 == 0 && tLast y % 32 == 0)
  | _, _, _ => true

/-- FORMAT_UNSUPPORTED of a node other than ATTEND (R95, R80, R81, R96). -/
def nodeFormatFault (g : Graph) (n : GNode) : Bool :=
  let ins := gIns g n
  let outs := gOuts g n
  if isAttend n || (ins ++ outs).any fun t => (tFmt? t).isNone then false
  else !(opFormatsOk n (ins.map tFmt) (outs.map tFmt) && mxAlongK n ins && blockMoveOk n ins outs)

/-- The innermost size of a dimension's content: the bytes a stride must step over (R64, R88). -/
def innerSize (t : TDesc) (j : Nat) : Nat :=
  if j + 2 = t.rank then (if fmtIsPacked (tFmt t) then rowBytes (tFmt t) (tLast t) else tLast t * tInner t)
  else nth (tDims t) (j + 1) 0 * (nth t.strides6 (j + 1) 0 % 2 ^ 48)

/-- LAYOUT_INVALID of a tensor (R63, R64, R88). -/
def tensorLayoutFault (g : Graph) (t : TDesc) : Bool :=
  if (tFmt? t).isNone || !tRankOk t then false
  else
    let al := fmtAlign (tFmt t)
    let ss := (t.strides6.take t.rank).map (· % 2 ^ 48)
    let outer := List.range (t.rank - 1)
    tBase t % al != 0 || ss.any (fun x => x % al != 0) ||
    (fmtIsPacked (tFmt t) && (nth ss (t.rank - 1) 0 != 0 ||
      outer.any fun j => nth ss j 0 != 0 && decide (nth ss j 0 < innerSize t j))) ||
    (t.role != 1 && outer.any fun j => nth ss j 0 == 0) ||
    ((g.nodes.any fun n => (nOuts n).contains t.ord) && outer.any fun j => decide (nth ss j 0 < innerSize t j))

/-- The output size of a convolution along one axis, if it is at least 1 (R100). -/
def convSize (h pad0 pad1 dil k st : Nat) : Option Nat :=
  if h + pad0 + pad1 < dil * (k - 1) + 1 then none else some ((h + pad0 + pad1 - (dil * (k - 1) + 1)) / st + 1)

/-- Whether a matrix product's sizes agree (R95, R98, R99). -/
def matShapeOk (n : GNode) (a b y : TDesc) (rest : List TDesc) (batch : Bool) : Bool :=
  let da := tDims a
  let db := tDims b
  let dy := tDims y
  let at2 := fun (d : List Nat) k => nth d (d.length - k) 0
  let tr := bitOf (nP n 1) 0
  (if batch then decide (2 ≤ a.rank) && decide (2 ≤ b.rank) && decide (2 ≤ y.rank) else a.rank == 2 && b.rank == 2 && y.rank == 2) &&
  at2 da 2 == at2 dy 2 && decide (at2 da 1 ≤ 16777216) &&
  at2 db (if tr then 1 else 2) == at2 da 1 && at2 db (if tr then 2 else 1) == at2 dy 1 &&
  batchFits (dy.take (dy.length - 2)) (da.take (da.length - 2)) && batchFits (dy.take (dy.length - 2)) (db.take (db.length - 2)) &&
  rest.all fun t => tDims t == [at2 dy 1]

/-- Whether a convolution's sizes agree (R95, R100). -/
def convShapeOk (n : GNode) (x w y : TDesc) (rest : List TDesc) : Bool :=
  match tDims x, tDims w, tDims y with
  | [nb, h, wd, c], [kh, kw, c', o], [nb', oh, ow, o'] =>
    let b := fun i k => bitsAt (nP n i) (8 * k) 8
    nb == nb' && c == c' && o == o' && decide (1 ≤ kh) && decide (kh ≤ 32) && decide (1 ≤ kw) && decide (kw ≤ 32) &&
    decide (kh * kw * c ≤ 16777216) && convSize h (b 2 0) (b 2 1) (b 1 2) kh (b 1 0) == some oh &&
    convSize wd (b 2 2) (b 2 3) (b 1 3) kw (b 1 1) == some ow && rest.all fun t => tDims t == [o]
  | _, _, _ => false

/-- Whether an operator's sizes agree (R95, R99 to R119); ATTEND has its own rule. NORM takes gamma and beta of any rank whose last size and
element count are d_last: DEDUCED, notes/assumptions/79. -/
def opShapeOk (n : GNode) (ins outs : List TDesc) : Bool :=
  match n.opByte, ins, outs with
  | 0x01, a :: b :: t, y :: _ => matShapeOk n a b y t false
  | 0x02, a :: b :: t, y :: _ => matShapeOk n a b y t true
  | 0x03, x :: w :: t, y :: _ => convShapeOk n x w y t
  | 0x04, [a], y :: _ => tDims a == tDims y
  | 0x04, a :: b :: _, y :: _ => bcastDims (tDims a).reverse (tDims b).reverse == some (tDims y).reverse
  | 0x06, x :: t, y :: _ => tDims x == tDims y && decide (tLast x ≤ 16777216) && t.all fun v => tLast v == tLast x && tElems v == tLast x
  | 0x07, x :: t, y :: _ => tDims x == tDims y && decide (tLast x ≤ 16777216) && t.all fun v => bcastsTo (tDims x) (tDims v)
  | 0x08, x :: p :: t :: _, y :: _ =>
    tDims x == tDims y && bcastsTo (tDims x).dropLast (tDims p) && t.rank == 3 && (tDims t).drop 1 == [nP n 0 / 2, 2]
  | 0x09, x :: j :: _, y :: _ =>
    tDims y == (tDims x).take (nP n 0) ++ tDims j ++ (tDims x).drop (nP n 0 + 1)
  | 0x0A, b :: j :: u :: _, y :: _ => tDims y == tDims b && j.rank == 1 && tDims u == tDims j ++ (tDims b).drop 1
  | 0x0B, t :: j :: _, y :: _ => t.rank == 2 && tDims y == tDims j ++ [tLast t]
  | 0x0C, x :: _, v :: j :: _ =>
    decide (nP n 0 ≤ tLast x) && tDims v == (tDims x).dropLast ++ [nP n 0] && tDims j == tDims v
  | 0x0D, x :: _, y :: _ => tDims y == (tDims x).zipIdx.map fun p => if bitOf (nP n 0) p.2 then 1 else p.1
  | 0x0E, x :: _, y :: _ => tDims y == (permOf n x.rank).map fun p => nth (tDims x) p 0
  | 0x0F, xs, y :: _ =>
    let ax := nP n 0
    (xs.all fun t => t.rank == y.rank && (tDims t).zipIdx.all fun p => p.2 == ax || p.1 == nth (tDims y) p.2 0) &&
    nth (tDims y) ax 0 == (xs.map fun t => nth (tDims t) ax 0).sum
  | 0x10, x :: _, y :: _ =>
    x.rank == y.rank && (tDims x).zipIdx.all fun p => decide (nP n p.2 + nth (tDims y) p.2 0 ≤ p.1)
  | 0x11, x :: t, y :: _ | 0x12, x :: t, y :: _ => tDims x == tDims y && t.all fun v => bcastsTo (tDims x) (tDims v)
  | 0x14, x :: _, y :: _ => x.rank == 2 && decide (tLast x ≤ 16777216) && tDims y == [nth (tDims x) 0 0]
  | 0x15, c :: t :: k :: _, a :: m :: _ =>
    c.rank == 2 && decide (tLast c ≤ 8) && tDims t == [nth (tDims c) 0 0, tLast c + 1] &&
    tDims k == [nth (tDims c) 0 0] && tDims a == tDims k && tDims m == tDims k
  | 0x16, _, y :: _ => tDims y == [32]
  | 0x17, a :: b :: _, y :: _ => tDims a == tDims b && tDims y == [2]
  | 0x18, _, _ => true
  | 0x19, x :: _, y :: _ => tElems x == tElems y
  | _, x :: _, y :: _ => tDims x == tDims y
  | _, _, _ => true

/-- SHAPE_MISMATCH of a node other than ATTEND. -/
def nodeShapeFault (g : Graph) (n : GNode) : Bool := !isAttend n && !opShapeOk n (gIns g n) (gOuts g n)

/-- Whether two extents share a byte (R38). -/
def overlaps (a b : TDesc) : Bool :=
  decide (0 < tSpan a) && decide (0 < tSpan b) && decide (tBase a < tBase b + tSpan b) && decide (tBase b < tBase a + tSpan a)

/-- The operators that may update an internal tensor in place (R93). -/
def inPlaceOp (n : GNode) : Bool := [0x04, 0x05, 0x06, 0x07, 0x08, 0x0A].contains n.opByte

/-- OVERLAP of a node (R93). -/
def nodeOverlap (g : Graph) (n : GNode) : Bool :=
  (gOuts g n).any fun o => (gIns g n).any fun i =>
    overlaps o i && !(inPlaceOp n && o.ord == i.ord && o.role == 0)

/-- OVERLAP of a tensor (R38, R93): an output with another output or an input, an internal tensor with either. -/
def tensorOverlap (g : Graph) (t : TDesc) : Bool :=
  g.tensors.any fun u => u.ord != t.ord && overlaps t u &&
    ((t.role == 2 && u.role != 0) || (t.role == 1 && u.role == 2) || (t.role == 0 && u.role != 0) || (t.role != 0 && u.role == 0))

/-- The lowest node at fault, else the lowest tensor at fault (R94). -/
def nodeThenTensor (g : Graph) (bn : GNode → Bool) (bt : TDesc → Bool) : Option Nat :=
  (firstFault (·.idx) bn g.nodes).orElse fun _ => firstFault (·.ord) bt g.tensors

/-- GRAPH_INVALID of a graph with its detail (R92, R94); `more` gives the faults of a node that other rules add (R192, R199). -/
def graphInvalid (g : Graph) (level : Nat) (more : GNode → Bool) : Option Nat :=
  (nodeThenTensor g (fun n => nodeInvalid g n || (!nodeStructFault g n && more n)) (tensorInvalid g)).orElse fun _ =>
    (ioFault g).orElse fun _ => if headerInvalid g level then some 0 else none

end Sys2Proof.Machine
end

