-- ==== Sys2Proof/Machine/Ops.lean ====
section
/-! DEFINITION. Time stamps, event records and gap markers (R240 to R244), fault records (R333, R339). -/

namespace Sys2Proof.Machine

/-- One second of the time base in units of 2^−32 ns (R253). -/
abbrev unitsPerSec : Nat := 1000000000 * 2 ^ 32

/-- The nanoseconds field of the time base (R253). -/
def tbNs (s : State) : Nat := s.tbUnits % unitsPerSec / 2 ^ 32
/-- The seconds field of the time base (R253). -/
def tbSec (s : State) : Nat := s.tbUnits / unitsPerSec % 2 ^ 48

/-- Whether the time base is valid (R258). -/
def tbValid (s : State) : Bool := regGet s K.TB_STATUS_valid == 1

/-- The time word of records and status blocks (R240, R245): 0 before the time base is valid. -/
def timeWord (s : State) : Nat := if tbValid s then tbSec s % 2 ^ 32 * 2 ^ 32 + tbNs s else 0

/-- The time base as an integer count of nanoseconds since 0 s (R264). -/
def tauNow (s : State) : Nat := s.tbUnits / 2 ^ 32

/-- A stamp taken now (R260). -/
def stampNow (s : State) : Stamp := ⟨s.tbUnits, tbValid s⟩

/-- The nanoseconds of a stamp. -/
def stampTau (x : Stamp) : Nat := x.units / 2 ^ 32

/-- The 16 bytes of a full timestamp (R260). -/
def stampBytes (x : Stamp) : List Byte :=
  leBytes 4 (x.units % 2 ^ 32) ++ leBytes 4 (x.units % unitsPerSec / 2 ^ 32) ++ leBytes 6 (x.units / unitsPerSec) ++
  leBytes 1 x.valid.toNat ++ [0]

/-- A management node address (R18). -/
def nodeAddr (die unit sub : Nat) : Nat := die * 4096 + unit * 64 + sub * 4

/-- The IOD is die 4, SI_A die 5, SI_B die 6 (R18). -/
abbrev iodSteward : Nat := 0x4000

/-- The management node of an island (R18). -/
def islNode : Isl → Nat
  | .a => 0x5000
  | .b => 0x6000

/-- The other island. -/
def otherIsl : Isl → Isl
  | .a => .b
  | .b => .a

/-- The island that holds the duties SI_A holds after reset: the safety role, realm keys, debug licences (R315). -/
def keyIsl (s : State) : Isl := s.isl.duty.getD .a

/-- The island that holds the duties SI_B holds after reset: the age monitor, the thermal emergency path (R315). -/
def ageIsl (s : State) : Isl := s.isl.duty.getD .b

/-- The state field of an island (R339): 0 LOCKED, 1 SPLIT, 2 SELF_TEST, 3 SINGLE, 4 FAILED, 5 RELOCKING. -/
def islKey : Isl → Nat
  | .a => K.ISL_STATUS_sia
  | .b => K.ISL_STATUS_sib

/-- The state of an island pair. -/
def islState (s : State) (i : Isl) : Nat := regGet s (islKey i)

/-- The number of an island in events. -/
def islNum : Isl → Nat
  | .a => 0
  | .b => 1

/-- An island outside its registers. -/
def islOf (s : State) : Isl → Island
  | .a => s.isl.a
  | .b => s.isl.b

/-- An island changed. -/
def modIsl (i : Isl) (f : Island → Island) (s : State) : State :=
  match i with
  | .a => { s with isl := { s.isl with a := f s.isl.a } }
  | .b => { s with isl := { s.isl with b := f s.isl.b } }

/-- An island's state set, with its bit of ID_DIES (R409). -/
def setIsl (i : Isl) (v : Nat) (s : State) : State :=
  let s := regSet (islKey i) v s
  regSet (match i with
    | .a => K.ID_DIES_sia_ok
    | .b => K.ID_DIES_sib_ok) (if v = 4 then 0 else 1) s

/-- Whether an island's core pair runs: neither stopped nor halted for self-test or for good. -/
def islRuns (s : State) (i : Isl) : Bool :=
  !(islOf s i).stopped && !(islOf s i).lost && islState s i != 2 && islState s i != 4

/-- Whether an island's pair is locked and runs (R30). -/
def islLocked (s : State) (i : Isl) : Bool := islState s i == 0 && !(islOf s i).stopped && !(islOf s i).lost

/-- The island that holds the safety role (R315). -/
def holder (s : State) : Isl := if regGet s K.ISL_STATUS_holder = 1 then .b else .a

/-- The compare mode in force (R318). -/
def cmpMode (s : State) : Nat := actGet s K.ISL_CMP_mode

/-- Whether an island gates its decisions: in signature mode, while its pair is locked (R318). -/
def gates (s : State) (i : Isl) : Bool := cmpMode s == 1 && islLocked s i

/-- A decision that waits for an island's signature window to close, once (R318). -/
def gate (i : Isl) (d : Decision) (s : State) : State :=
  if s.isl.gated.contains (i, d) then s else { s with isl := { s.isl with gated := s.isl.gated ++ [(i, d)] } }

/-- A decision of the holder island: in signature mode it waits for its window, else it is carried out (R318). -/
def gateOr (d : Decision) (act : State → State) (s : State) : State := if gates s (holder s) then gate (holder s) d s else act s

/-- An event to be recorded (R240): class 0 none, 1 A, 2 B, 3 C, 4 D. -/
structure Ev where
  code : Nat
  cls : Nat
  attn : Bool
  src : Nat
  a0 : Nat
  a1 : Nat
  a2 : Nat
  deriving DecidableEq, Repr

/-- Whom an event concerns (R242). -/
inductive EvDest where
  | realm (r : Nat)
  | port (p : Nat)
  | manager
  deriving DecidableEq, Repr

/-- The phase bit of the record at an index of a ring of `e` entries (R237). -/
def phaseBit (e idx : Nat) : Nat := (idx / e + 1) % 2

/-- The entries of a port's event ring (R220). -/
def evtEntries (s : State) (p : Nat) : Nat := 2 ^ regGet s (K.EVT_CTRL_log2_entries p)

/-- Whether a port's event ring is in use. -/
def evtOn (s : State) (p : Nat) : Bool := regGet s (K.EVT_CTRL_enable p) == 1

/-- Whether the event ring has a free slot (R243). -/
def evtFree (s : State) (p : Nat) : Bool :=
  let h := portOf s p
  decide ((h.evtProducer + 65536 - h.evtConsumer) % 65536 < evtEntries s p)

/-- The base address of a port's event ring. -/
def evtBase (s : State) (p : Nat) : Nat := addr64 5 (regGet s (K.EVT_BASE_LO_base p)) (regGet s (K.EVT_BASE_HI_base p))

/-- The 32 bytes of an event record at index `idx` (R240). -/
def evBytes (s : State) (p idx : Nat) (e : Ev) : List Byte :=
  leBytes 2 e.code ++ leBytes 1 e.cls ++
  leBytes 1 (ofBits [phaseBit (evtEntries s p) idx == 1, e.attn || decide (3 ≤ e.cls), !tbValid s]) ++
  leBytes 4 e.src ++ leBytes 8 (timeWord s) ++ leBytes 4 e.a0 ++ leBytes 4 e.a1 ++ leBytes 8 e.a2

/-- The 32 bytes of a gap marker (R240). -/
def gapBytes (s : State) (p idx : Nat) (g : Gap) : List Byte :=
  leBytes 2 1 ++ [0] ++ leBytes 1 (ofBits [phaseBit (evtEntries s p) idx == 1, true, !tbValid s]) ++ zeros 4 ++
  leBytes 4 g.count ++ zeros 4 ++ leBytes 8 g.first ++ leBytes 8 g.last

/-- A record written at the event producer index, which moves on. -/
def putRecord (p : Nat) (bs : List Byte) (attn : Bool) (s : State) : State :=
  let h := portOf s p
  modPort p (fun h => { h with evtProducer := (h.evtProducer + 1) % 65536,
                               attn := if attn then h.attn ++ [h.evtProducer] else h.attn })
    (hostWrite p (evtBase s p + 32 * (h.evtProducer % evtEntries s p)) bs s)

/-- A pending gap marker written as soon as a slot is free (R243). -/
def flushGap (p : Nat) (s : State) : State :=
  match (portOf s p).gap with
  | none => s
  | some g =>
    if evtOn s p && evtFree s p then
      modPort p (fun h => { h with gap := none })
        (putRecord p (gapBytes s p (portOf s p).evtProducer g) true s)
    else s

/-- A count of lost records raised (R243, R356). -/
def countDropped (p : Nat) (s : State) : State := modPort p (fun h => { h with dropped := satInc max32 h.dropped }) s

/-- An event lost at a port with an event ring: counted, and the gap marker started or extended (R243). -/
def loseEvent (p : Nat) (s : State) : State :=
  countDropped p (modPort p (fun h => { h with
    gap := match h.gap with
      | none => some ⟨1, timeWord s, timeWord s⟩
      | some g => some { g with count := g.count + 1, last := timeWord s } }) s)

/-- An event offered to one host (R242, R243). Without a running event ring it is lost; where the port has been reset or has lost Bus
Master Enable, and for a job whose records are discarded, the manager host's count takes it (R356, R401). -/
def sendEvent (p : Nat) (e : Ev) (s : State) : State :=
  if (portOf s p).quiet || !(portOf s p).busMaster then countDropped s.mgrPort s
  else if !evtOn s p then countDropped p s
  else
    let s := flushGap p s
    if evtFree s p && (portOf s p).gap.isNone then
      putRecord p (evBytes s p (portOf s p).evtProducer e) (e.attn || decide (3 ≤ e.cls)) s
    else loseEvent p s

/-- The ports an event goes to (R242). -/
def evPorts (s : State) (d : EvDest) (cls : Nat) : List Nat :=
  let main := match d with
    | .realm r => realmPort s r
    | .port p => p
    | .manager => s.mgrPort
  if 3 ≤ cls then (List.range 4).filter fun p => evtOn s p || p == main else [main]

/-- An event delivered (R242); one of class A to D is the most recent fault record (R245). -/
def raise (d : EvDest) (e : Ev) (s : State) : State :=
  let s := if 1 ≤ e.cls then { s with lastClass := e.cls } else s
  (evPorts s d e.cls).foldl (fun s p => sendEvent p e s) s

/-- A fault record of a class (R333, R339): class B to D enter FAULT_LAST, C and D are counted. -/
def recordFault (cls src : Nat) (s : State) : State :=
  let s := if 2 ≤ cls then regSet K.FAULT_LAST_source src s else s
  if cls = 3 then regMod K.FAULT_COUNT_c (satInc 255) s
  else if cls = 4 then regMod K.FAULT_COUNT_d (satInc 255) s
  else s

/-- An event that is the record of its detection. -/
def raiseFault (d : EvDest) (e : Ev) (s : State) : State := raise d e (recordFault e.cls e.src s)

end Sys2Proof.Machine
end

