-- ==== Sys2Proof/Machine/Understudy.lean ====
section
/-! DEFINITION. Understudy mode (R373 to R376): commit indices, comparison with the expectation table, divergence, orphaning. -/

namespace Sys2Proof.Machine

/-- UND_STATE: 0 off, 1 following, 2 diverged, 3 orphaned. -/
def undState (s : State) : Nat := regGet s K.UND_STATE_state

/-- Whether a realm is in understudy mode: enabled and not ended since (R373, R376). -/
def undIn (s : State) : Bool := regGet s K.UND_CTRL_enable == 1

/-- The understudied realm. -/
def undRealm (s : State) : Nat := regGet s K.UND_CTRL_realm

/-- A 64-bit value in a pair of registers, low word first. -/
def pairGet (s : State) (lo hi : Nat) : Nat := addr64 0 (regGet s lo) (regGet s hi)

/-- A 64-bit value written to a pair of registers. -/
def pairSet (lo hi v : Nat) (s : State) : State := regSet hi (v / 2 ^ 32 % 2 ^ 32) (regSet lo (v % 2 ^ 32) s)

/-- A commit index as a register shows it: free after an enable while there is none, 0 before the first (R374, R376). -/
def undShown (s : State) (v : Option Nat) : Nat :=
  match v, s.und.start with
  | some c, _ => c
  | none, some st => (Config.undNone st).toNat
  | none, none => 0

/-- The verified commit index, UND_VERIFIED. -/
def undVerified (s : State) : Nat := undShown s s.und.verified

/-- The bus address of the expectation entry of a commit index (R373). -/
def undEntry (s : State) (c : Nat) : Nat :=
  addr64 6 (regGet s K.UND_TABLE_LO_base) (regGet s K.UND_TABLE_HI_base) +
    64 * (c % 2 ^ regGet s K.UND_TABLE_CTRL_log2_entries)

/-- The verified index moved up over the jobs that have matched (R374); `n` bounds the moves. -/
def advance (start : Nat) : Nat → Understudy → Understudy
  | 0, u => u
  | n + 1, u =>
    let v := match u.verified with
      | some v => (v + 1) % 2 ^ 64
      | none => start
    if u.matched.contains v then advance start n { u with verified := some v, matched := u.matched.filter (· != v) } else u

/-- A completed job compared with its entry, where the entry is there (R373, R374). -/
def undCompare (u : UndJob) (s : State) : State :=
  if undState s ≠ 1 then s
  else
    let e := hostRead s (realmPort s (undRealm s)) (undEntry s u.commit) 64
    if fieldAt e 0 8 ≠ u.commit then s
    else
      let lead := fieldAt e 8 2
      let s := { s with und := { s.und with waiting := s.und.waiting.filter (· != u) } }
      if (u.ok && lead == 0 && u.digest == (e.drop 16).take 32) || (!u.ok && lead != 0) then
        let m := s.und.matched ++ [u.commit]
        { s with und := advance (s.und.start.getD 0) m.length { s.und with matched := m } }
      else
        raise (.realm (undRealm s)) ⟨0x0804, 0, true, islNode (keyIsl s), undRealm s, lead, u.commit⟩
          (regSet K.UND_STATE_state 2 { s with und := { s.und with waiting := [] } })

/-- A job of the understudied realm has completed (R373, R376). -/
def undComplete (commit : Option Nat) (ok : Bool) (digest : List Byte) (s : State) : State :=
  match commit with
  | none => s
  | some c =>
    if undState s = 0 then s
    else
      let s := { s with und := { s.und with done := some (max c (s.und.done.getD 0)) } }
      if undState s = 1 then
        let u : UndJob := ⟨c, ok, digest, s.ticks⟩
        undCompare u { s with und := { s.und with waiting := s.und.waiting ++ [u] } }
      else s

/-- Every waiting job's entry read again, at a poll of the realm's host (R373). -/
def undPoll (s : State) : State := s.und.waiting.foldl (fun s u => undCompare u s) s

/-- The realm becomes orphaned (R376). -/
def orphan (cause : Nat) (s : State) : State :=
  let s := regSet K.UND_STATE_state 3 s
  raise (.realm (undRealm s)) ⟨0x0805, 0, true, islNode (keyIsl s), undRealm s, cause, undVerified s⟩ s

/-- Understudy mode ends when its realm is released (R376). -/
def undEnd (s : State) : State :=
  regSet K.UND_STATE_state 0 (regSet K.UND_CTRL_enable 0 { s with und := { s.und with waiting := [], matched := [] } })

/-- The end of understudy mode where the realm released is the understudied one. -/
def undRelease (r : Nat) (s : State) : State := if undState s ≠ 0 && undRealm s == r then undEnd s else s

end Sys2Proof.Machine
end

