-- ==== Sys2Proof/Machine/Rooms.lean ====
section
/-! DEFINITION. Room tables, the room directory, allocation and limbo, copy-on-write, the work journal, guest books
(R171 to R189, R217, R218). -/

namespace Sys2Proof.Machine

/-- A room table header (R175). -/
structure RTable where
  addr : Nat
  length : Nat
  capacity : Nat
  heads : Nat
  groups : Nat
  headDim : Nat
  layer : Nat
  res : Nat
  entries : Nat
  seq : Nat
  deriving DecidableEq, Repr

/-- The header at a table address. -/
def readTable (s : State) (r a : Nat) : RTable :=
  let b := realmRead s r a 64
  { addr := a, length := fieldAt b 0 4, capacity := fieldAt b 4 4, heads := fieldAt b 8 1, groups := fieldAt b 9 1,
    headDim := fieldAt b 10 2, layer := fieldAt b 12 2, res := fieldAt b 14 2 + fieldAt b 32 32,
    entries := fieldAt b 16 8, seq := fieldAt b 24 8 }

/-- LENGTH_RANGE of a header (R175): its own extent first. -/
def tableLengthFault (s : State) (r a : Nat) : Bool :=
  !extentMapped s r a 64 ||
  (let t := readTable s r a
   t.length == max32 || decide (67108864 < t.capacity) || decide (64 * t.capacity < t.length) ||
   !extentMapped s r (t.entries % 2 ^ 48) (4 * t.capacity * t.groups))

/-- ROOM_INVALID of a header (R175). -/
def tableInvalid (s : State) (r a : Nat) : Bool :=
  let t := readTable s r a
  t.capacity == 0 || t.heads == 0 || decide (64 < t.heads) || t.groups == 0 || decide (64 < t.groups) ||
  t.headDim == 0 || decide (512 < t.headDim) || t.headDim % 32 != 0 || a % 8 != 0 || t.res != 0 || decide (2 ^ 48 ≤ t.entries)

/-- The bytes of a key or value row (R171). -/
def rowLen (kv d : Nat) : Nat := if kv = 0 then 18 * (d / 32) else d

/-- The bytes of the keys area, and of the values area, of a room (R171). -/
def areaLen (kv h d : Nat) : Nat := h * 64 * rowLen kv d

/-- Whether a table's geometry fits the realm's room size (R171). -/
def geometryFits (s : State) (r : Nat) (t : RTable) : Bool :=
  decide (2 * areaLen (kvFormat s r) t.heads t.headDim ≤ roomSize s r)

/-- The address of the entry of a block and head group (R175). -/
def entryAddr (t : RTable) (b g : Nat) : Nat := t.entries % 2 ^ 48 + 4 * (b * t.groups + g)

/-- The room number in the entry of a block and head group. -/
def tableEntry (s : State) (r : Nat) (t : RTable) (b g : Nat) : Nat := fieldAt (realmRead s r (entryAddr t b g) 4) 0 4

/-! Guest books -/

/-- The set of the guest book for an entry address (R185). -/
def bookSet (a : Nat) : Nat := Nat.xor (bitsAt a 3 10) (bitsAt a 13 10)

/-- The guest-book entries of a table entry dropped on every die (R185). -/
def invalidate (r a : Nat) (s : State) : State :=
  modMem (fun m => { m with books :=
    (m.books.map fun e => (e.1, e.2.filter fun g => !(g.realm == r && g.addr == a))).filter fun e => !e.2.isEmpty }) s

/-- All guest-book entries of a realm dropped (R185). -/
def invalidateRealm (r : Nat) (s : State) : State :=
  modMem (fun m => { m with books :=
    (m.books.map fun e => (e.1, e.2.filter fun g => g.realm != r)).filter fun e => !e.2.isEmpty }) s

/-- All guest-book entries dropped on every die (R218). -/
def invalidateBooks (s : State) : State := modMem (fun m => { m with books := [] }) s

/-- A walk of a die's innkeeper to a table entry: the guest book is consulted, filled on a miss, and counts (R184, R185). -/
def walk (die r a room : Nat) (s : State) : State :=
  let key := die * 1024 + bookSet a
  let set := tget [] key s.mem.books
  let hit := set.any fun g => g.realm == r && g.addr == a && g.room == room
  let rest := set.filter fun g => !(g.realm == r && g.addr == a)
  let e := roomOf s r room
  let g : Guest := ⟨r, a, room, e.gen, e.st, e.slots⟩
  let s := modMem (fun m => { m with books := tset [] key ((g :: rest).take 8) m.books }) s
  regInc (if hit then K.INNK_HIT_count die else K.INNK_MISS_count die) s

/-- The bytes of the room staging region of a die's common store (R126). -/
abbrev stagingSize : Nat := 6144 * 1024

/-- Room copies that a staging region of its size can hold with a new one: the oldest leave first (R140). -/
def makeRoom (size : Nat) : List Staged → List Staged
  | [] => []
  | x :: xs => if size + ((x :: xs).map (·.size)).sum ≤ stagingSize then x :: xs else makeRoom size xs

/-- A room copy fetched ahead by a die's steward through the table entry at an address, with the entry as its tag (R138, R139). -/
def fetchAhead (r die a : Nat) (s : State) : State :=
  let x : Staged := ⟨r, a, fieldAt (realmRead s r a 4) 0 4, roomSize s r⟩
  { s with engines := tmod Engine.init die (fun e => { e with
      staged := makeRoom x.size (e.staged.filter fun y => !(y.realm == r && y.addr == a)) ++ [x] }) s.engines }

/-- Retrieval has selected the room of a table entry on a die: its staged copy, if any, is used where the entry is still its tag, else dropped and
the room read afresh (R138, R139); either way the copy's bytes are those of the room, and its staging slot is free again. -/
def useStaged (r die a : Nat) (s : State) : State :=
  if (tget Engine.init die s.engines).staged.any (fun y => y.realm == r && y.addr == a) then
    { s with engines := tmod Engine.init die (fun e => { e with staged := e.staged.filter fun y => !(y.realm == r && y.addr == a) }) s.engines }
  else s

/-- The part of a die's work journal that its common store caches: the most recent 256 KiB (R126, R140). -/
def journalCache (s : State) (die : Nat) : List JEntry :=
  let l := s.mem.journal.filter fun e => e.die == die
  l.drop (l.length - 8192)

/-- The room number written into a table entry, with the invalidations of R185. -/
def setEntry (r : Nat) (t : RTable) (b g room : Nat) (s : State) : State :=
  invalidate r (entryAddr t b g) (realmWrite r (entryAddr t b g) (leBytes 4 room) s)

/-- The committed positions of a block of a table of a given length. -/
def committedIn (len b : Nat) : Nat := clampNat 0 64 (len - 64 * b)

/-- How far a table's rooms are filled noted for the blocks between its old length and its new one (R188). -/
def noteFill (r : Nat) (t : RTable) (len : Nat) (s : State) : State :=
  let lo := min t.length len / 64
  let places := (List.range (ceilDiv (max t.length len) 64 - lo)).flatMap fun i => (List.range t.groups).map fun g => (lo + i, g)
  places.foldl (fun s p =>
    let e := tableEntry s r t p.1 p.2
    if e = noRoom || roomCount s r ≤ e then s
    else modRoom r e (fun x => { x with fill := if x.count = 1 then committedIn len p.1 else max x.fill (committedIn len p.1) }) s) s

/-- The committed length written into a header. -/
def setLength (r a len : Nat) (s : State) : State := noteFill r (readTable s r a) len (realmWrite r a (leBytes 4 len) s)

/-! The room directory -/

/-- The directory entries of a realm. -/
def realmRooms (s : State) (r : Nat) : List (Nat × Room) :=
  (s.mem.dirs.filter fun e => e.1 / 2 ^ 32 == r).map fun e => (e.1 % 2 ^ 32, e.2)

/-- Whether a room number cannot be allocated: in use, in limbo, retired by poison or by loss (R167, R203). -/
def roomBusy (s : State) (r : Nat) (e : Nat × Room) : Bool :=
  e.2.st != .free || e.2.lost || s.mem.poisonDir.contains (dirKey r e.1)

/-- The slots each room of a realm takes (R172, R201). -/
def slotsPer (r : Nat) : Nat := if r = 0 then 2 else 1

/-- Rooms of a realm that can still be allocated: MPART_FREE (R172, R173, R191). -/
def freeRooms (s : State) (r : Nat) : Nat :=
  let busy := ((realmRooms s r).filter (roomBusy s r)).length
  let limbo := (s.mem.slotLimbo.filter fun x => x.realm == r).length
  (roomCount s r - busy * slotsPer r - limbo) / slotsPer r

/-- Rooms of a realm in limbo (R181). -/
def limboRooms (s : State) (r : Nat) : Nat := ((realmRooms s r).filter fun e => e.2.st == .limbo).length

/-- Rooms of a realm that could be allocated once the rooms and slots in limbo have drained (R172, R179). -/
def drainedRooms (s : State) (r : Nat) : Nat :=
  let busy := ((realmRooms s r).filter fun e => roomBusy s r e && e.2.st != .limbo).length
  (roomCount s r - busy * slotsPer r) / slotsPer r

/-- The k-th number that is not in a rising list. -/
def kthFree (k : Nat) (busy : List Nat) : Nat := busy.foldl (fun n u => if u ≤ n then n + 1 else n) k

/-- The room slots of a realm at a place (R172, R201): of the cellar slots every second lies in gang R. -/
def slotTotal (s : State) (r place : Nat) : Nat :=
  if place < 4 then hbmSlots s r else if place = 4 then (cellarSlots s r + 1) / 2 else cellarSlots s r / 2

/-- The numbers of a realm's slots in use or in limbo at a place. -/
def slotsUsed (s : State) (r place : Nat) : List Nat :=
  ((((realmRooms s r).flatMap fun e => e.2.slots) ++ (s.mem.slotLimbo.filter fun x => x.realm == r).map (·.slot)).filter
    fun x => x.place == place).map (·.index)

/-- The free slots of a realm at a place. -/
def slotsFree (s : State) (r place : Nat) : Nat := slotTotal s r place - (slotsUsed s r place).length

/-- The free HBM room slots of a realm on a die (R179, R188). -/
def hbmFreeOn (s : State) (r d : Nat) : Nat := if bitOf (realmDies s r) d && dieIn s d then slotsFree s r d else 0

/-- A free slot of a place; which, the specification leaves open (R188). -/
def pickSlot (s : State) (r : Nat) (ctr place : Nat) : Slot :=
  let used := sortBy (fun a b => decide (a < b)) (slotsUsed s r place)
  let free := slotsFree s r place
  ⟨place, kthFree (if free = 0 then 0 else Config.slotPick ctr free % free) used⟩

/-- The places of the slots a room takes in HBM: its home die, for a mirrored room the partner too while it is in service (R201). -/
def hotPlaces (s : State) (r home : Nat) : List Nat :=
  if r = 0 && dieIn s (partnerOf s home) then [home, partnerOf s home] else [home]

/-- The places of the slots a room takes in the cellar: one of either gang, for a mirrored room one of each (R201). -/
def coldPlaces (s : State) (r ctr : Nat) : List Nat :=
  if r = 0 then [4, 5]
  else if slotsFree s r 4 = 0 then [5]
  else if slotsFree s r 5 = 0 then [4]
  else [4 + Config.slotPick ctr 2 % 2]

/-- New slots for a room, hot or cold. -/
def newSlots (s : State) (r home : Nat) (hot : Bool) : List Slot :=
  (if hot then hotPlaces s r home else coldPlaces s r s.freeCtr).map (pickSlot s r s.freeCtr)

/-- Whether a room allocated with a home die is hot (R179). -/
def placeHot (s : State) (r d : Nat) : Bool :=
  decide (0 < hbmFreeOn s r d) && (r != 0 || decide (0 < hbmFreeOn s r (partnerOf s d)) || !dieIn s (partnerOf s d))

/-- A room taken from the free pool with count 1 and written whole with zero bytes (R174, R179); which number it is, the
specification leaves to timing. -/
def allocRoom (r home : Nat) (s : State) : State × Nat :=
  let busy := ((realmRooms s r).filter (roomBusy s r)).map (·.1)
  let free := roomCount s r - busy.length
  let n := kthFree (if free = 0 then 0 else Config.roomPick s.freeCtr free % free) busy
  let hot := placeHot s r home
  let slots := newSlots s r home hot
  let s := { s with freeCtr := s.freeCtr + 1 }
  let s := modRoom r n (fun e => { count := 1, freeEpoch := 0, gen := e.gen + 1, home := home, st := if hot then .hot else .cold,
                                   inHbm := hot, lost := false, fill := 0, slots := slots }) s
  (roomWrite r n 0 (zeros (roomSize s r)) s, n)

/-- The epochs pinned by jobs of a realm. -/
def pinsOf (s : State) (r : Nat) : List Nat := (s.jobs.filter fun j => j.realm == r).filterMap (·.pin)

/-- Whether a pin at or below an epoch is held (R181). -/
def pinnedAt (s : State) (r e : Nat) : Bool := (pinsOf s r).any fun p => decide (p ≤ e)

/-- Rooms and slots in limbo that no pin holds return to the free pool (R181). -/
def drainLimbo (r : Nat) (s : State) : State :=
  modMem (fun m => { m with
    dirs := m.dirs.map fun e =>
      if e.1 / 2 ^ 32 == r && e.2.st == .limbo && !pinnedAt s r e.2.freeEpoch
      then (e.1, { e.2 with st := .free, inHbm := false, freeEpoch := 0, slots := [] }) else e,
    slotLimbo := m.slotLimbo.filter fun x => x.realm != r || pinnedAt s r x.epoch }) s

/-- A room's count lowered by 1; at 0 it enters limbo with the current reader epoch, which then rises (R181). -/
def dropCount (r room : Nat) (s : State) : State :=
  let e := roomOf s r room
  if e.count ≤ 1 then
    let s := modRoom r room (fun e => { e with count := 0, freeEpoch := (realmOf s r).reader,
                                               st := if e.lost then .free else .limbo, lost := false }) s
    drainLimbo r (modRealm r (fun m => { m with reader := m.reader + 1 }) s)
  else modRoom r room (fun e => { e with count := e.count - 1 }) s

/-- A tentatively allocated room returned to the free pool at once (R183). -/
def freeNow (r room : Nat) (s : State) : State :=
  modRoom r room (fun e => { e with count := 0, st := .free, inHbm := false, freeEpoch := 0, lost := false, slots := [] }) s

/-- The count of a room raised again by a rollback; a room in limbo is taken out of it (R183, R218). -/
def restoreCount (r room : Nat) (s : State) : State :=
  modRoom r room (fun e =>
    if e.st = .limbo then { e with count := 1, freeEpoch := 0, st := if e.inHbm then .hot else .cold }
    else { e with count := e.count + 1 }) s

/-! Failures during execution -/

/-- Why a job fails while it executes (R190, R239): status code and detail. -/
structure Fail where
  status : Nat
  detail : Nat
  deriving DecidableEq, Repr

/-- The pin of a running job (R181). -/
def pinOf (s : State) (acc : Nat) : Option Nat := (s.jobs.find? fun j => j.acc == acc).bind (·.pin)

/-- Whether a pin holds a room: it is in limbo, freed at or after the epoch of the pin (R181, R182). -/
def pinHolds (pin : Option Nat) (e : Room) : Bool :=
  match pin with
  | some p => e.st == .limbo && decide (p ≤ e.freeEpoch)
  | none => false

/-- The fault a job with a pin meets when it reaches the room of an entry (R167, R184, R203). -/
def roomFault (s : State) (r : Nat) (pin : Option Nat) (room : Nat) : Option Fail :=
  if room = noRoom || roomCount s r ≤ room then some ⟨0x0F, room⟩
  else if s.mem.poisonDir.contains (dirKey r room) then some ⟨0x20, room⟩
  else if (roomOf s r room).lost then some ⟨0x21, room⟩
  else if (roomOf s r room).count = 0 && !pinHolds pin (roomOf s r room) then some ⟨0x0F, room⟩
  else none

/-- The node that reports memory events of a realm address (R156, R433): the die's HBM controller pair, or C_0 or C_4 for the
cellar gang. -/
def winNode (s : State) (r a : Nat) : Nat :=
  if a < cellarBase then nodeAddr (a / max 1 (actGet s (K.MPART_HBM_win_units r) * unitBytes)) 25 0
  else nodeAddr 4 (if a / 4096 % 2 = 0 then 5 else 9) 0

/-- The place of the slot in which a granule of a room is poisoned: of a mirrored room, that of the copy that is (R201). -/
def poisonPlace (s : State) (r room off : Nat) : Nat :=
  let e := roomOf s r room
  let second := s.mem.poisonRoom.contains ((roomKey r room off + mirrorOff) / 64)
  ((e.slots.find? fun x => secondPlace e x.place == (second && r == 0)).map (·.place)).getD (if e.inHbm then e.home else 4)

/-- The node that reports memory events of a room's granule (R433): the slot's die, C_0 for gang L, C_4 for gang R. -/
def roomNode (s : State) (r room off : Nat) : Nat :=
  let p := poisonPlace s r room off
  if p < 4 then nodeAddr p 25 0 else nodeAddr 4 (if p = 4 then 5 else 9) 0

/-- The event of a poisoned granule of a room, at a byte offset, read by a job (R166, R241). -/
def roomPoisonEvent (r room off : Nat) (s : State) : State :=
  raise (.realm r) ⟨0x0103, 1, false, roomNode s r room off, r, room, off⟩ s

/-- The event of a poisoned granule of a window read by a job (R166, R241); `g` is the granule's number. -/
def winPoisonEvent (r g : Nat) (s : State) : State :=
  raise (.realm r) ⟨0x0103, 1, false, winNode s r (g * 64 - winKey r 0), r, noRoom, g * 64 - winKey r 0⟩ s

/-- A step of a job that reads or copies bytes: where a poisoned granule is among them, given by its number in `win`, the job fails with the
event of it (R166, R239); else the step goes on. -/
def orPoison {α : Type} (r : Nat) (poisoned : Option Nat) (detail : Nat) (s : State) (x : State × Except Fail α) : State × Except Fail α :=
  match poisoned with
  | some g => (winPoisonEvent r g s, .error ⟨0x20, detail⟩)
  | none => x

/-- A write of a job that covers bytes of a poisoned granule in part fails the job in the same way (R167). -/
def orPoisonW (r : Nat) (poisoned : Option Nat) (detail : Nat) (s : State) (x : State × Option Fail) : State × Option Fail :=
  match poisoned with
  | some g => (winPoisonEvent r g s, some ⟨0x20, detail⟩)
  | none => x

/-- A state threaded through a list of steps, each of which may fail. -/
def runAll {α : Type} (f : α → State → State × Except Fail Unit) : List α → State → State × Except Fail Unit
  | [], s => (s, .ok ())
  | a :: t, s =>
    match f a s with
    | (s, .error e) => (s, .error e)
    | (s, .ok ()) => runAll f t s

/-! Appends -/

/-- The rows of the first `n` positions of a room copied into another, keys and values of every head (R179). -/
def copyRows (r : Nat) (kv h d n src dst : Nat) (s : State) : State :=
  let rb := rowLen kv d
  let area := areaLen kv h d
  (List.range 2).foldl (fun s k => (List.range h).foldl (fun s j =>
    roomWrite r dst (k * area + j * 64 * rb) (roomRead s r src (k * area + j * 64 * rb) (n * rb)) s) s) s

/-- A journal entry added (R217). -/
def addJournal (e : JEntry) (s : State) : State := modMem (fun m => { m with journal := m.journal ++ [e] }) s

/-- The room that an append of a job writes for a block and head group: the entry's own, a new one, or a copy (R179). `len` is the committed
length, `place` the sequence's placement; the change is journalled (R217). -/
def openRoom (r : Nat) (t : RTable) (b g len home place acc : Nat) (s : State) : State × Except Fail Nat :=
  let jot := fun (k : JKind) (o n : Nat) => addJournal ⟨k, g, t.layer, b, t.addr, len, o, n, acc % 2 ^ 32, home, place, t.capacity, b⟩
  orPoison r (poisonedRead s r (entryAddr t b g) 4) 0 s <|
    let old := tableEntry s r t b g
    if old = noRoom then
      let a := allocRoom r home s
      (jot .alloc noRoom a.2 (setEntry r t b g a.2 a.1), .ok a.2)
    else match roomFault s r (pinOf s acc) old with
      | some f => (s, .error f)
      | none =>
        if (roomOf s r old).count ≤ 1 then (s, .ok old)
        else match roomPoisonAt s r old 0 (roomSize s r) with
          | some off => (roomPoisonEvent r old off s, .error ⟨0x20, old⟩)
          | none =>
            let a := allocRoom r home s
            let s := copyRows r (kvFormat s r) t.heads t.headDim (committedIn len b) old a.2 a.1
            (jot .cow old a.2 (dropCount r old (setEntry r t b g a.2 s)), .ok a.2)

/-- Bytes written into a room for a job, which fails where they cover a poisoned granule in part (R167). -/
def checkedRoomWrite (r room off : Nat) (bs : List Byte) (s : State) : State × Except Fail Unit :=
  match roomPoisonPart s r room off bs.length with
  | some o => (roomPoisonEvent r room o s, .error ⟨0x20, room⟩)
  | none => (roomWrite r room off bs s, .ok ())

/-- One key or value row written into a room (R171): area 0 keys, 1 values. -/
def putRow (r room : Nat) (kv h d area j p : Nat) (bs : List Byte) (s : State) : State × Except Fail Unit :=
  checkedRoomWrite r room (area * areaLen kv h d + (j * 64 + p) * rowLen kv d) bs s

/-- One key or value row of a room. -/
def getRow (s : State) (r room kv h d area j p : Nat) : List Byte :=
  roomRead s r room (area * areaLen kv h d + (j * 64 + p) * rowLen kv d) (rowLen kv d)

/-- Rollback or commit of the entries of one table from the last to the first (R218). -/
def settleEntries (r newLen : Nat) : List JEntry → State → State
  | [], s => s
  | e :: t, s =>
    if e.kind = .length || e.block * 64 < newLen then settleEntries r newLen t s
    else
      let tab := readTable s r e.table
      let s := freeNow r e.newRoom (setEntry r tab e.block e.group e.oldRoom s)
      settleEntries r newLen t (if e.kind = .cow then restoreCount r e.oldRoom s else s)

/-- Commit or rollback of one table of a job with its new length (R218). -/
def settleTable (r acc a newLen : Nat) (s : State) : State :=
  let mine := fun (e : JEntry) => e.table == a && e.job == acc % 2 ^ 32
  let s := settleEntries r newLen (s.mem.journal.filter mine).reverse s
  let s := invalidateBooks (setLength r a newLen s)
  modMem (fun m => { m with journal := m.journal.filter fun e => !mine e }) s

/-- Commit or rollback of every table a job touched (R215, R216, R218). -/
def settleAll (r acc : Nat) (lens : List (Nat × Nat)) (s : State) : State :=
  drainLimbo r (lens.foldl (fun s l => settleTable r acc l.1 l.2 s) s)

end Sys2Proof.Machine
end

