-- ==== Sys2Proof/Machine/Attend.lean ====
section
/-! DEFINITION. The ATTEND operator and its structures (R192 to R214). -/

namespace Sys2Proof.Machine

/-! Structures -/

/-- An entry of the attention batch descriptor (R195). -/
structure BatchEntry where
  record : Nat
  rows : Nat
  cand : Nat
  res : Nat
  deriving DecidableEq, Repr

/-- A sequence record (R196). -/
structure SeqRec where
  layers : Nat
  globalsN : Nat
  place : Nat
  res : Nat
  tables : Nat
  index : Nat
  globals : Nat
  deriving DecidableEq, Repr

/-- The address of a node's attention batch descriptor (R192). -/
def batchAddr (n : GNode) : Nat := nP n 0 + nP n 1 % 2 ^ 16 * 2 ^ 32
/-- The layer index (R192). -/
def attLayer (n : GNode) : Nat := nP n 2 % 2 ^ 16
/-- The window W (R192). -/
def attWindow (n : GNode) : Nat := nP n 3 % 2 ^ 14
/-- The retrieved rooms R (R192). -/
def attRetrieve (n : GNode) : Nat := bitsAt (nP n 3) 16 9
/-- Whether the node appends (R192). -/
def attAppends (n : GNode) : Bool := bitOf (nP n 6) 0
/-- Whether the node is in list mode (R192). -/
def attList (n : GNode) : Bool := n.sub == 1

/-- The count of a batch descriptor. -/
def batchCount (s : State) (r a : Nat) : Nat := fieldAt (realmRead s r a 4) 0 4
/-- The address of the room-list addresses (R195). -/
def batchLists (s : State) (r a : Nat) : Nat := fieldAt (realmRead s r (a + 8) 8) 0 8
/-- Entry `b` of a batch descriptor. -/
def batchEntry (s : State) (r a b : Nat) : BatchEntry :=
  let e := realmRead s r (a + 32 + 32 * b) 32
  ⟨fieldAt e 0 8, fieldAt e 8 4, fieldAt e 12 2, fieldAt e 14 18⟩
/-- All entries. -/
def batchEntries (s : State) (r a : Nat) : List BatchEntry := (List.range (batchCount s r a)).map (batchEntry s r a)
/-- The sequence record at an address. -/
def seqRec (s : State) (r a : Nat) : SeqRec :=
  let e := realmRead s r a 64
  ⟨fieldAt e 0 2, fieldAt e 2 1, fieldAt e 3 1, fieldAt e 4 4 + fieldAt e 32 32, fieldAt e 8 8, fieldAt e 16 8, fieldAt e 24 8⟩
/-- The room table address of layer `l` (R196). -/
def seqTable (s : State) (r : Nat) (q : SeqRec) (l : Nat) : Nat := fieldAt (realmRead s r (q.tables + 8 * l) 8) 0 8
/-- The coarse-index address of layer `l`, 0 for none (R196). -/
def seqIndex (s : State) (r : Nat) (q : SeqRec) (l : Nat) : Nat :=
  if q.index = 0 then 0 else fieldAt (realmRead s r (q.index + 8 * l) 8) 0 8
/-- The global positions (R196). -/
def seqGlobals (s : State) (r : Nat) (q : SeqRec) : List Nat :=
  (List.range q.globalsN).map fun i => fieldAt (realmRead s r (q.globals + 4 * i) 4) 0 4

/-- A room list entry (R186). -/
structure ListEntry where
  room : Nat
  valid : Nat
  flags : Nat
  seq : Nat
  deriving DecidableEq, Repr

/-- The address of the room list of a layer and head group (R195). -/
def listAddr (s : State) (r lists layer groups g : Nat) : Nat :=
  fieldAt (realmRead s r (lists + 8 * (layer * groups + g)) 8) 0 8
/-- The entries of a room list (R186). -/
def listEntries (s : State) (r a : Nat) : List ListEntry :=
  (List.range (fieldAt (realmRead s r a 4) 0 4)).map fun i =>
    let e := realmRead s r (a + 16 + 8 * i) 8
    ⟨fieldAt e 0 4, fieldAt e 4 1, fieldAt e 5 1, fieldAt e 6 2⟩

/-- LENGTH_RANGE of a room list's extent (R187). -/
def listLengthFault (s : State) (r a : Nat) : Bool :=
  !extentMapped s r a 16 ||
  (let c := fieldAt (realmRead s r a 4) 0 4
   decide (16777216 < c) || !extentMapped s r a (16 + 8 * c))

/-- LENGTH_RANGE of one list entry (R187). -/
def listEntryLength (e : ListEntry) : Bool := decide (64 < e.valid) || e.seq == 65535

/-- ROOM_INVALID of a room list: the room of the first offending entry (R187). -/
def listInvalid (s : State) (r : Nat) (hdrRes : Bool) : List ListEntry → Nat → Option Nat
  | [], _ => if hdrRes then some noRoom else none
  | e :: t, prev =>
    if hdrRes then some noRoom
    else if roomCount s r ≤ e.room || (roomOf s r e.room).count = 0 || e.seq < prev || 2 ≤ e.flags then some e.room
    else listInvalid s r hdrRes t e.seq

/-- A sequence of a node: its number, entry, record and room table. -/
structure ASeq where
  b : Nat
  e : BatchEntry
  q : SeqRec
  t : RTable
  deriving DecidableEq, Repr

/-- The sequences of a node. -/
def nodeSeqs (s : State) (r : Nat) (n : GNode) : List ASeq :=
  (batchEntries s r (batchAddr n)).zipIdx.map fun p =>
    let q := seqRec s r p.1.record
    ⟨p.2, p.1, q, readTable s r (seqTable s r q (attLayer n))⟩

/-! Checks -/

/-- LENGTH_RANGE of a sequence's structures (R199). -/
def seqLengthFault (s : State) (r : Nat) (n : GNode) (e : BatchEntry) : Bool :=
  decide (65536 < e.rows) || decide (8 < e.cand) || !extentMapped s r e.record 64 ||
  (let q := seqRec s r e.record
   let l := attLayer n
   decide (1024 < q.layers) || decide (64 < q.globalsN) || !extentMapped s r q.tables (8 * q.layers) ||
   (q.index != 0 && !extentMapped s r q.index (8 * q.layers)) ||
   !extentMapped s r q.globals (4 * q.globalsN) ||
   (decide (l < q.layers) &&
     (let a := seqTable s r q l
      tableLengthFault s r a ||
      (let t := readTable s r a
       (attAppends n && decide (64 * t.capacity < t.length + e.rows)) ||
       (seqIndex s r q l != 0 &&
         !extentMapped s r (seqIndex s r q l) (t.capacity * t.groups * t.heads * (t.headDim + 8)))))))

/-- LENGTH_RANGE of an ATTEND node (R199, R187 first stage). -/
def attendLength (s : State) (r : Nat) (n : GNode) : Bool :=
  let a := batchAddr n
  !extentMapped s r a 32 || decide (65535 < batchCount s r a) || !extentMapped s r a (32 + 32 * batchCount s r a) ||
  (batchEntries s r a).any (seqLengthFault s r n) ||
  (attList n && batchCount s r a != 0 &&
    (let g := ((nodeSeqs s r n).head?.map (·.t.groups)).getD 0
     let l := batchLists s r a
     !extentMapped s r l (8 * (attLayer n * g + g)) ||
     (List.range g).any fun k => listLengthFault s r (listAddr s r l (attLayer n) g k)))

/-- GRAPH_INVALID of a sequence's structures (R199). -/
def seqInvalid (s : State) (r jobType : Nat) (n : GNode) (e : BatchEntry) : Bool :=
  let q := seqRec s r e.record
  e.res != 0 || e.record % 8 != 0 || (jobType != 2 && e.cand != 0) ||
  (jobType == 2 && e.rows != 0 && e.rows != e.cand + 1) ||
  q.res != 0 || decide (16 ≤ q.place) || q.place / 4 == 3 || decide (q.layers ≤ attLayer n)

/-- GRAPH_INVALID of an ATTEND node (R192, R194, R199). In list mode p3 and p5 are ignored (R214). -/
def attendInvalid (s : State) (r jobType : Nat) (n : GNode) : Bool :=
  let a := batchAddr n
  decide (1 < n.sub) || decide (2 ^ 16 ≤ nP n 1) || decide (1023 < nP n 2) ||
  (!attList n && (attWindow n == 0 || decide (8192 < attWindow n) || bitsAt (nP n 3) 14 2 != 0 ||
    decide (256 < attRetrieve n) || bitsAt (nP n 3) 25 7 != 0 || !f32FiniteNonNeg (nF n 5))) ||
  decide (1 < nP n 6) || nP n 7 != 0 || (jobType == 1 && attAppends n) || (attList n && r == 0) ||
  a % 8 != 0 || fieldAt (realmRead s r (a + 4) 4) 0 4 != 0 || fieldAt (realmRead s r (a + 16) 16) 0 16 != 0 ||
  (!attList n && batchLists s r a != 0) ||
  (batchEntries s r a).any (seqInvalid s r jobType n)

/-- The room format as an operand format (R84, R191). -/
def kvFmt (s : State) (r : Nat) : Fmt :=
  match kvFormat s r with
  | 1 => .e4m3
  | 2 => .e5m2
  | _ => .lv4

/-- Whether the formats of an ATTEND node are those of R193. -/
def attendFormatsOk (s : State) (r : Nat) (n : GNode) (ins outs : List TDesc) : Bool :=
  let fs := ins.map tFmt
  let q := fs.headD .int8
  let kv := if attAppends n then (fs.drop 1).take 2 else []
  let mask := fs.drop (if attAppends n then 3 else 1)
  (if kvFormat s r = 0 then q == .bf16 || q == .fp16 else q == .e4m3 || q == .e5m2) &&
  (kv.all fun f => f == .fp32 || f == .bf16 || f == .fp16) && mask.all (· == .int8) &&
  ((outs.drop 1).map tFmt).all (· == .fp32)

/-- Whether the sizes of an ATTEND node agree (R171, R193, R199). -/
def attendShapeOk (s : State) (r : Nat) (n : GNode) (ins outs : List TDesc) : Bool :=
  let seqs := nodeSeqs s r n
  match ins, (ins.headD (parseTensor 0 [])).rank, tDims (ins.headD (parseTensor 0 [])) with
  | _ :: rest, 4, [b, t, hq, d] =>
    let kv := if attAppends n then rest.take 2 else []
    let mask := if attAppends n then rest.drop 2 else rest
    b == seqs.length && (seqs.all fun x => decide (x.e.rows ≤ t)) &&
    (match seqs with
     | [] => kv.all fun u => u.rank == 4 && tDims u == tDims (kv.headD u) && (tDims u).take 2 == [b, t] && nth (tDims u) 3 0 == d &&
         hq % nth (tDims u) 2 0 == 0
     | x :: _ =>
       let hkv := x.t.heads * x.t.groups
       (seqs.all fun y => y.t.heads == x.t.heads && y.t.groups == x.t.groups && y.t.headDim == x.t.headDim && geometryFits s r y.t) &&
       d == x.t.headDim && decide (0 < hkv) && hq % hkv == 0 && (kv.all fun u => tDims u == [b, t, hkv, d])) &&
    (mask.all fun u => tDims u == [b, t]) &&
    (match outs with
     | y :: z => tDims y == [b, t, hq, d] && z.all fun u => tDims u == [b, t, hq]
     | [] => false) &&
    (attAppends n || seqs.all fun x => decide (x.e.rows ≤ x.t.length))
  | _, _, _ => false

/-- ROOM_INVALID of an ATTEND node that is decided before execution: the detail (R199, R187). -/
def attendRoomInvalid (s : State) (r : Nat) (n : GNode) : Option Nat :=
  let seqs := nodeSeqs s r n
  if (seqs.any fun x => tableInvalid s r x.t.addr || x.t.layer != attLayer n) || !allDistinct (seqs.map (·.t.addr)) then some noRoom
  else if attList n then
    let g := (seqs.head?.map (·.t.groups)).getD 0
    firstSome (fun k =>
      let a := listAddr s r (batchLists s r (batchAddr n)) (attLayer n) g k
      listInvalid s r (fieldAt (realmRead s r (a + 4) 12) 0 12 != 0) (listEntries s r a) 0) (List.range g)
  else none

/-- LENGTH_RANGE of list entries, the second stage of R187. -/
def attendListLength (s : State) (r : Nat) (n : GNode) : Bool :=
  attList n &&
    (let seqs := nodeSeqs s r n
     let g := (seqs.head?.map (·.t.groups)).getD 0
     (List.range g).any fun k =>
       (listEntries s r (listAddr s r (batchLists s r (batchAddr n)) (attLayer n) g k)).any listEntryLength)

/-! Placement -/

/-- The duplex pairs of the pairing in force, lower die first (R326). -/
def duplexPairs (s : State) : List (Nat × Nat) :=
  if actGet s K.DPX_PAIR_pairing = 0 then [(0, 1), (2, 3)] else [(0, 2), (1, 3)]

/-- Whether a die serves the vehicle realm: in service and not under an extended test (R328, R332). -/
def vehicleDie (s : State) (d : Nat) : Bool := dieIn s d && !s.dpx.testing.contains d

/-- The placement list of a side of the vehicle realm (R200, R328, R391). -/
def sideDies (s : State) (sideB : Bool) : List Nat :=
  let ps := if s.dpx.limpPair.length = 2 then [(nth s.dpx.limpPair 0 0, nth s.dpx.limpPair 1 0)] else duplexPairs s
  (sortBy (fun a b => decide (a < b)) (ps.map fun p => if sideB then p.2 else p.1)).filter (vehicleDie s)

/-- The placement list of a realm (R200); for the vehicle realm, side A's, or side B's when side A has no die (R327). -/
def placementList (s : State) (r : Nat) : List Nat :=
  if r = 0 then (if (sideDies s false).isEmpty then sideDies s true else sideDies s false)
  else (List.range 4).filter fun d => dieIn s d && bitOf (realmDies s r) d

/-- The die of a placement list that homes a block of a sequence with a placement (R200). -/
def homeOn (l : List Nat) (place cap b : Nat) : Nat :=
  let want := place / 4 % 4
  let n := min l.length (if want = 0 then l.length else want)
  let first := min (place % 4) (l.length - n)
  nth l (first + b / ceilDiv cap (max n 1)) 0

/-- The home die of a block (R200). -/
def homeDie (s : State) (r : Nat) (q : SeqRec) (cap b : Nat) : Nat := homeOn (placementList s r) q.place cap b

/-- Whether vehicle-realm work runs in duplex now: both sides have a die in service (R326, R328). -/
def diesDuplex (s : State) : Bool := !(sideDies s false).isEmpty && !(sideDies s true).isEmpty

/-! Appends and the coarse index -/

/-- The blocks an append of `n` rows at length `len` touches. -/
def touchedBlocks (len n : Nat) : List Nat :=
  if n = 0 then [] else (List.range ((len + n - 1) / 64 - len / 64 + 1)).map (len / 64 + ·)

/-- The encoded rows of one key or value tensor, one byte row for each (b, t, head), and whether SATURATED is set by a row that is appended:
one of a sequence's first `n_b` rows (R205, R213). -/
def encodeKv (f : Fmt) (d tRows hkv : Nat) (live : List Nat) (v : TVal) : List (List Byte) × Bool :=
  let rows := chunksOf d (if d = 0 then 0 else tElems v.d / d) (tvF32 v)
  let us := rows.map fun x => encRow f none x
  (us.map fun u => packRow f u.1, us.zipIdx.any fun u => u.1.2 && decide (u.2 / hkv % tRows < nth live (u.2 / hkv / tRows) 0))

/-- The appends of one block and head group of a sequence (R179, R205). -/
def appendBlock (r acc : Nat) (x : ASeq) (k v : Array (List Byte)) (tRows hkv : Nat) (bg : Nat × Nat) (s : State) :
    State × Except Fail Unit :=
  let kv := kvFormat s r
  let len := x.t.length
  let o := openRoom r x.t bg.1 bg.2 len (homeDie s r x.q x.t.capacity bg.1) x.q.place acc s
  match o.2 with
  | .error e => (o.1, .error e)
  | .ok room =>
    let rows := (List.range x.e.rows).filter fun i => (len + i) / 64 == bg.1
    let puts := rows.flatMap fun i => (List.range x.t.heads).flatMap fun j => [(i, j, 0), (i, j, 1)]
    runAll (fun p s =>
      let src := (x.b * tRows + p.1) * hkv + bg.2 * x.t.heads + p.2.1
      putRow r room kv x.t.heads x.t.headDim p.2.2 p.2.1 ((len + p.1) % 64) ((if p.2.2 = 0 then k else v).getD src []) s) puts o.1

/-- The appends of one sequence, with its LENGTH entry where no room was opened (R205, R217). -/
def appendSeq (r acc : Nat) (k v : Array (List Byte)) (tRows hkv : Nat) (x : ASeq) (s : State) : State × Except Fail Unit :=
  let bgs := (touchedBlocks x.t.length x.e.rows).flatMap fun b => (List.range x.t.groups).map fun g => (b, g)
  let out := runAll (appendBlock r acc x k v tRows hkv) bgs s
  let none' := !(out.1.mem.journal.any fun e => e.table == x.t.addr && e.job == acc % 2 ^ 32)
  if x.e.rows != 0 && none' then
    let last := (x.t.length + x.e.rows - 1) / 64
    (addJournal ⟨.length, 0, x.t.layer, 0, x.t.addr, x.t.length, noRoom, noRoom, acc % 2 ^ 32,
      homeDie s r x.q x.t.capacity last, x.q.place, x.t.capacity, last⟩ out.1, out.2)
  else out

/-- The values of a stored key or value row. -/
def rowVals (s : State) (r room : Nat) (t : RTable) (area j p : Nat) : List Num :=
  let f := kvFmt s r
  rowNums f t.headDim (unpackRow f t.headDim (getRow s r room (kvFormat s r) t.heads t.headDim area j p))

/-- The square root of the canonical sum of squares (R198, R206). -/
def normOf (x : List F32) : F32 := f32Sqrt (canonSum (x.map fun v => f32Mul v v))

/-- The index entry of a KV head of a block (R198), and whether SATURATED is set. -/
def indexBytes (s : State) (r room : Nat) (t : RTable) (j : Nat) : List Byte × Bool :=
  let ks := (List.range 64).map fun p => (rowVals s r room t 0 j p).map numF32
  let cols := (List.range t.headDim).map fun d => ks.map fun k => nth k d f32Zero
  let mean := cols.map fun c => encFloat e4m3Spec none (f32Num (f32Mul (canonSum c) 0x3C800000))
  let nmax := (ks.map normOf).foldl f32Max f32NegInf
  (mean.map (fun m => BitVec.ofNat 8 m.1) ++ leBytes 4 nmax.toNat ++ zeros 4, mean.any (·.2))

/-- The fault a job meets at the rows of a position of a room, with the byte offset of the poisoned granule where it is that (R166, R184). -/
def rowsFault (s : State) (r acc room : Nat) (t : RTable) (p n : Nat) : Option (Fail × Option Nat) :=
  match roomFault s r (pinOf s acc) room with
  | some f => some (f, none)
  | none =>
    let kv := kvFormat s r
    let rb := rowLen kv t.headDim
    (firstSome (fun area => firstSome (fun j =>
      roomPoisonAt s r room (area * areaLen kv t.heads t.headDim + (j * 64 + p) * rb) (n * rb)) (List.range t.heads)) (List.range 2)).map
        fun o => (⟨0x20, room⟩, some o)

/-- A job fails at a room, with the event of the poisoned granule where it is that (R166). -/
def failAt (r : Nat) (x : Fail × Option Nat) (s : State) : State :=
  match x.2 with
  | some o => roomPoisonEvent r x.1.detail o s
  | none => s

/-- The address of the index entry of a block, head group and KV head (R197). -/
def indexAddr (t : RTable) (base : Nat) (k : Nat × Nat × Nat) : Nat :=
  base + ((k.1 * t.groups + k.2.1) * t.heads + k.2.2) * (t.headDim + 8)

/-- The index entries of the blocks an append has completed, with SATURATED (R198): the keys are read from the rooms, and an entry is
written over a poisoned granule in part only with the job's failure (R166, R167). -/
def writeIndex (r acc : Nat) (n : GNode) (x : ASeq) (s : State) : State × Except Fail Bool :=
  let base := seqIndex s r x.q (attLayer n)
  if base = 0 then (s, .ok false)
  else
    let done := (touchedBlocks x.t.length x.e.rows).filter fun b => decide (64 * b + 64 ≤ x.t.length + x.e.rows)
    let keys := done.flatMap fun b => (List.range x.t.groups).flatMap fun g => (List.range x.t.heads).map fun j => (b, g, j)
    keys.foldl (fun (st : State × Except Fail Bool) k =>
      match st.2 with
      | .error _ => st
      | .ok sat =>
        let room := tableEntry st.1 r x.t k.1 k.2.1
        let a := indexAddr x.t base k
        match rowsFault st.1 r acc room x.t 0 64 with
        | some f => (failAt r f st.1, .error f.1)
        | none =>
          match poisonedWrite st.1 r a (x.t.headDim + 8) with
          | some g => (winPoisonEvent r g st.1, .error ⟨0x20, 0⟩)
          | none =>
            let ent := indexBytes st.1 r room x.t k.2.2
            (realmWrite r a ent.1 st.1, .ok (sat || ent.2))) (s, .ok false)

/-! Scores -/

/-- The canonical tree over sparse terms by index, 2^levels leaves: a node with one skipped child takes the other child's
value, −0.0 becoming +0.0 (R208 to R210). -/
def sparseSum : Nat → List (Nat × F32) → Option F32
  | 0, [] => none
  | 0, (_, v) :: _ => some v
  | n + 1, ts =>
    let lo := ts.filter fun p => p.1 % 2 ^ (n + 1) < 2 ^ n
    let hi := ts.filter fun p => !decide (p.1 % 2 ^ (n + 1) < 2 ^ n)
    let fix := fun (v : F32) => if v = 0x80000000 then f32Zero else v
    match sparseSum n lo, sparseSum n hi with
    | some a, some b => some (f32Add a b)
    | some a, none => some (fix a)
    | none, some b => some (fix b)
    | none, none => none

/-- The levels of the tree over N = 64 × capacity rounded up to a power of two. -/
def treeLevelsOf (cap : Nat) : Nat :=
  let n := 64 * cap
  if 2 ^ Nat.log2 n = n then Nat.log2 n else Nat.log2 n + 1

/-- The canonical group sum of a query row and a key row (R206, R208). -/
def attDot (fq : Fmt) (q k : List Num) : F32 := dotFloat (pair16 fq) ((q.zip k).map fun p => numMul p.1 p.2)

/-- A query row with its liveness. -/
structure QRow where
  t : Nat
  pos : Nat
  live : Bool
  deriving DecidableEq, Repr

/-- What the scoring of a node reads: the operand format and values of q, sizes, the sequence. -/
structure AttCtx where
  fq : Fmt
  qv : Array Num
  tRows : Nat
  hq : Nat
  scale : F32
  lam : F32
  deriving DecidableEq, Repr

/-- A query row's values. -/
def qRowVals (c : AttCtx) (d b t h : Nat) : List Num :=
  (List.range d).map fun i => c.qv.getD (((b * c.tRows + t) * c.hq + h) * d + i) (.fin false 0 0)

/-- The query heads that read a KV head (R193). -/
def headsOfKv (hq hkv j : Nat) : List Nat := (List.range hq).filter fun h => h * hkv / hq == j

/-- The room score of a block and head group for the live rows of a chunk (R206). -/
def roomScore (s : State) (r : Nat) (c : AttCtx) (x : ASeq) (base e g : Nat) (rows : List QRow) : F32 :=
  let t := x.t
  let hkv := t.heads * t.groups
  let cs := (rows.filter (·.live)).flatMap fun row => (List.range t.heads).flatMap fun j =>
    let ent := realmRead s r (base + ((e * t.groups + g) * t.heads + j) * (t.headDim + 8)) (t.headDim + 8)
    let mean := (ent.take t.headDim).map fun b => decFloat e4m3Spec b.toNat
    let nmax : F32 := BitVec.ofNat 32 (fieldAt ent t.headDim 4)
    (headsOfKv c.hq hkv (g * t.heads + j)).map fun h =>
      let q := qRowVals c t.headDim x.b row.t h
      let a := f32Mul (f32Mul (normOf (q.map numF32)) nmax) c.lam
      f32Mul (f32Add (attDot c.fq q mean) a) c.scale
  if cs.any f32IsNan then f32NaN else cs.foldl (fun b v => if f32Lt b v then v else b) f32NegInf

/-- The blocks eligible for a chunk (R206). -/
def eligible (s : State) (r : Nat) (n : GNode) (x : ASeq) (rows : List QRow) : List Nat :=
  let p0 := (rows.head?.map (·.pos)).getD 0
  if attList n || seqIndex s r x.q (attLayer n) = 0 || attRetrieve n = 0 then []
  else (List.range (p0 / 64)).filter fun e => decide (64 * (e + 1) ≤ p0) && decide (64 * e + attWindow n ≤ p0)

/-- The blocks selected for a chunk and head group (R206, R207). -/
def selectBlocks (s : State) (r : Nat) (n : GNode) (c : AttCtx) (x : ASeq) (g : Nat) (rows : List QRow) : List Nat :=
  let scored := (eligible s r n x rows).map fun e => (f32Num (roomScore s r c x (seqIndex s r x.q (attLayer n)) e g rows), e)
  ((sortBy (fun a b => rankBefore false a.1 b.1) scored).take (attRetrieve n)).map (·.2)

/-- A position a row attends to, with the room that holds it. -/
structure APos where
  pos : Nat
  room : Nat
  deriving DecidableEq, Repr

/-- The attended positions of a row and head group in walk mode, rising (R204). -/
def walkPositions (w : Nat) (globals sel : List Nat) (p : Nat) : List Nat :=
  (List.range (p + 1)).filter fun x => decide (p < x + w) || globals.contains x || sel.contains (x / 64)

/-- The positions a list gives sequence `b`, with their rooms (R214). -/
def listPositions (es : List ListEntry) (b : Nat) : List APos :=
  ((es.filter fun e => e.seq == b).zipIdx.flatMap fun e => (List.range e.1.valid).map fun p => ⟨64 * e.2 + p, e.1.room⟩)

/-- The attended positions of a row and head group with their rooms (R204, R214). -/
def attended (s : State) (r : Nat) (n : GNode) (x : ASeq) (g : Nat) (sel : List Nat) (le : List ListEntry) (p : Nat) : List APos :=
  let len := if attAppends n then x.t.length else p + 1
  if attList n then
    ((listPositions le x.b).filter fun a => decide (a.pos < x.t.length) && decide (a.pos ≤ p)) ++
    (((List.range (p + 1)).filter fun q => decide (len ≤ q)).map fun q => ⟨q, tableEntry s r x.t (q / 64) g⟩)
  else (walkPositions (attWindow n) (seqGlobals s r x.q) sel p).map fun q => ⟨q, tableEntry s r x.t (q / 64) g⟩

/-- The fault a read of a position meets, with the byte offset of the poisoned granule where it is that (R166, R184). -/
def posFault (s : State) (r acc : Nat) (x : ASeq) (a : APos) : Option (Fail × Option Nat) :=
  if x.t.capacity ≤ a.pos / 64 then some (⟨0x0F, noRoom⟩, none) else rowsFault s r acc a.room x.t (a.pos % 64) 1

/-- The result of one (row, head) pair: the output row, Z, and whether the row is empty (R208 to R210, R213). -/
structure PairOut where
  y : List F32
  z : F32
  empty : Bool
  deriving DecidableEq, Repr

/-- Passes 1 to 3 for one row and query head (R208 to R210). -/
def attendPair (s : State) (r : Nat) (c : AttCtx) (x : ASeq) (j t h : Nat) (ps : List APos) : PairOut :=
  let d := x.t.headDim
  let f := kvFmt s r
  let q := (qRowVals c d x.b t h)
  let zs := ps.map fun a =>
    f32Mul (attDot c.fq q ((rowVals s r a.room x.t 0 j (a.pos % 64)).map (arrayNum f))) c.scale
  if zs.any fun v => f32IsNan v || v == f32PosInf then ⟨List.replicate d f32NaN, f32NaN, false⟩
  else
    let m := zs.foldl f32Max f32NegInf
    if m == f32NegInf then ⟨List.replicate d f32Zero, f32Zero, true⟩
    else
      let lv := treeLevelsOf x.t.capacity
      let es := zs.map fun v => expDiff v m
      let z := (sparseSum lv ((ps.zip es).map fun p => (p.1.pos, p.2))).getD f32Zero
      let terms := (ps.zip es).map fun p =>
        (p.1.pos, decFloat bf16Spec (encFloat bf16Spec none (f32Num (f32Div p.2 z))).1,
          (rowVals s r p.1.room x.t 1 j (p.1.pos % 64)).map (arrayNum f))
      let groups := (terms.map fun p => p.1 / 16).eraseDups
      let y := (List.range d).map fun i =>
        (sparseSum (lv - 4) (groups.map fun gq =>
          (gq, groupAligned ((terms.filter fun p => p.1 / 16 == gq).map fun p => numMul p.2.1 (nth p.2.2 i (.fin false 0 0)))))).getD f32Zero
      ⟨y, z, false⟩

/-- The rows of a sequence in a node (R204). -/
def seqRows (n : GNode) (x : ASeq) (tRows : Nat) (mask : Option (Array Int)) : List QRow :=
  (List.range x.e.rows).map fun t =>
    ⟨t, if attAppends n then x.t.length + t else x.t.length - x.e.rows + t,
      match mask with
      | some m => m.getD (x.b * tRows + t) 0 != 0
      | none => true⟩

/-- The room list entries of each head group of a node in list mode. -/
def nodeLists (s : State) (r : Nat) (n : GNode) (groups : Nat) : List (List ListEntry) :=
  if attList n then (List.range groups).map fun g =>
    listEntries s r (listAddr s r (batchLists s r (batchAddr n)) (attLayer n) groups g)
  else []

/-- For each live row of a sequence and each head group, the positions attended (R204, R206, R214). -/
def seqAttended (s : State) (r : Nat) (n : GNode) (c : AttCtx) (x : ASeq) (rows : List QRow) : List (QRow × List (List APos)) :=
  let ls := nodeLists s r n x.t.groups
  (chunksOf 64 (ceilDiv rows.length 64) rows).flatMap fun chunk =>
    let sels := (List.range x.t.groups).map fun g => if attList n then [] else selectBlocks s r n c x g chunk
    chunk.map fun row =>
      (row, if row.live then (List.range x.t.groups).map fun g => attended s r n x g (nth sels g []) (nth ls g []) row.pos else [])

/-- The outputs of one sequence: for each row t of T and each query head, y, z and the EMPTY_ROW mark (R213). -/
def seqOut (s : State) (r : Nat) (c : AttCtx) (x : ASeq) (hkv : Nat) (att : List (QRow × List (List APos))) : List PairOut :=
  let blank : PairOut := ⟨List.replicate x.t.headDim f32Zero, f32Zero, false⟩
  (List.range c.tRows).flatMap fun t =>
    match att[t]? with
    | none => List.replicate c.hq blank
    | some (row, ps) =>
      (List.range c.hq).map fun h =>
        let kv := h * hkv / c.hq
        if row.live then attendPair s r c x (kv % x.t.heads) t h (nth ps (kv / x.t.heads) [])
        else { blank with empty := true }

/-- A read of a position by a node: the sequence, the head group, the position with its room. -/
structure ARead where
  x : ASeq
  g : Nat
  a : APos
  deriving DecidableEq, Repr

/-- The reads of a node in order (R204, R214). -/
def nodeReads (att : List (ASeq × List (QRow × List (List APos)))) : List ARead :=
  att.flatMap fun p => p.2.flatMap fun row => row.2.zipIdx.flatMap fun l => l.1.map fun a => ⟨p.1, l.2, a⟩

/-- The dies that walk for a block: its home die on each side of the vehicle realm in duplex (R184, R200, R201). -/
def walkDies (s : State) (r : Nat) (q : SeqRec) (cap b : Nat) : List Nat :=
  let h := homeDie s r q cap b
  if r = 0 && diesDuplex s then [h, homeOn (sideDies s true) q.place cap b] else [h]

/-- The walks of the innkeepers for some reads, one for each block, head group and room (R184); none in list mode for a listed room. -/
def noteWalks (r : Nat) (n : GNode) (rs : List ARead) (s : State) : State :=
  let ws := ((rs.filter fun a => !attList n || decide (a.x.t.length ≤ a.a.pos)).map fun a => (a.x, a.a.pos / 64, a.g, a.a.room)).eraseDups
  ws.foldl (fun s w => (walkDies s r w.1.q w.1.t.capacity w.2.1).foldl (fun s d =>
    useStaged r d (entryAddr w.1.t w.2.1 w.2.2.1) (walk d r (entryAddr w.1.t w.2.1 w.2.2.1) w.2.2.2 s)) s) s

/-- The rooms that retrieval has selected for a sequence (R206, R207). -/
def selectedRooms (s : State) (r : Nat) (n : GNode) (c : AttCtx) (x : ASeq) (rows : List QRow) : List Nat :=
  ((chunksOf 64 (ceilDiv rows.length 64) rows).flatMap fun chunk => (List.range x.t.groups).flatMap fun g =>
    (selectBlocks s r n c x g chunk).map fun b => tableEntry s r x.t b g).eraseDups

/-- The rooms that a node has read and those that retrieval has selected, recorded (R188, R214). -/
def noteUse (r : Nat) (reads sel : List Nat) (s : State) : State :=
  modRealm r (fun m => { m with
    used := m.used ++ reads.filter fun q => !m.used.contains q,
    selected := (m.selected.filter fun q => !sel.contains q) ++ sel }) s

/-- The first poisoned granule in the coarse index that a node's room scores read (R166, R206). -/
def indexPoison (s : State) (r : Nat) (n : GNode) (x : ASeq) (rows : List QRow) : Option Nat :=
  firstSome (fun chunk =>
    if (chunk.filter (·.live)).isEmpty then none
    else firstSome (fun e => firstSome (fun g =>
      poisonedRead s r (indexAddr x.t (seqIndex s r x.q (attLayer n)) (e, g, 0)) (x.t.heads * (x.t.headDim + 8))) (List.range x.t.groups))
        (eligible s r n x chunk)) (chunksOf 64 (ceilDiv rows.length 64) rows)

/-- The first poisoned granule in the table entries of the blocks that a node reads (R166, R184). -/
def entryPoison (s : State) (r : Nat) (n : GNode) (rs : List ARead) : Option Nat :=
  firstSome (fun a : ARead => if attList n && decide (a.a.pos < a.x.t.length) then none else poisonedRead s r (entryAddr a.x.t (a.a.pos / 64) a.g) 4) rs

/-- The extents of a node's own structures: its batch descriptor and entries, sequence records, table addresses, table headers, index addresses,
globals and room lists (R195, R196, R186). -/
def nodeExtents (s : State) (r : Nat) (n : GNode) : List (Nat × Nat) :=
  let a := batchAddr n
  let l := attLayer n
  let g := ((nodeSeqs s r n).head?.map (·.t.groups)).getD 0
  (a, 32 + 32 * batchCount s r a) ::
  (batchEntries s r a).flatMap (fun e =>
    let q := seqRec s r e.record
    [(e.record, 64), (q.tables + 8 * l, 8), (seqTable s r q l, 64), (q.globals, 4 * q.globalsN)] ++
      (if q.index = 0 then [] else [(q.index + 8 * l, 8)])) ++
  (if attList n then
    let ls := batchLists s r a
    (ls + 8 * (l * g), 8 * g) :: (List.range g).map fun k =>
      let la := listAddr s r ls l g k
      (la, 16 + 8 * fieldAt (realmRead s r la 4) 0 4)
  else [])

/-- The first poisoned granule in a node's own structures (R166). -/
def structPoison (s : State) (r : Nat) (n : GNode) : Option Nat := firstSome (fun e => poisonedRead s r e.1 e.2) (nodeExtents s r n)

/-- What an executed ATTEND node leaves: its outputs and the tables it appended to, with committed length and rows. -/
structure AttendOut where
  out : OpOut
  touched : List (Nat × Nat × Nat × Nat)
  deriving DecidableEq, Repr

/-- An ATTEND node with at least one sequence, after its appends (R206 to R213). -/
def attendScore (s : State) (r acc seed : Nat) (n : GNode) (ins : List TVal) (outs : List TDesc) (seqs : List ASeq) (sat : Bool) :
    State × Except Fail OpOut :=
  let q := ins.headD ⟨parseTensor 0 [], []⟩
  let dq := tDims q.d
  let mask := ((ins.drop (if attAppends n then 3 else 1)).head?).map fun m => (tvInts m).toArray
  let c : AttCtx := ⟨tFmt q.d, (tvNums q).toArray, nth dq 1 0, nth dq 2 0, nF n 4, nF n 5⟩
  let rowsOf := fun x => seqRows n x c.tRows mask
  orPoison r (firstSome (fun x => indexPoison s r n x (rowsOf x)) seqs) 0 s <|
  let att := seqs.map fun x => (x, seqAttended s r n c x (rowsOf x))
  let reads := nodeReads att
  orPoison r (entryPoison s r n reads) 0 s <|
  match firstSome (fun a : ARead => posFault s r acc a.x a.a) reads with
  | some f => (failAt r f (noteWalks r n (reads.takeWhile fun a => (posFault s r acc a.x a.a).isNone) s), .error f.1)
  | none =>
    let res : List PairOut := att.flatMap fun p => seqOut s r c p.1 (p.1.t.heads * p.1.t.groups) p.2
    let s := noteUse r (reads.map (·.a.room)).eraseDups (seqs.flatMap fun x => selectedRooms s r n c x (rowsOf x)).eraseDups (noteWalks r n reads s)
    let y := match outs with
      | y :: _ => convertOut y (nStoch n) seed (res.flatMap fun (p : PairOut) => p.y)
      | [] => ([], false)
    let z := match outs with
      | _ :: z :: _ => [(convertOut z (nStoch n) seed (res.map fun (p : PairOut) => p.z)).1]
      | _ => []
    (s, .ok ⟨y.1 :: z, { Aux.none with sat := sat || y.2, emptyRow := res.any fun (p : PairOut) => p.empty }⟩)

/-- The rows that an ATTEND node appends, for every sequence, and whether an encoding saturated (R205). -/
def attendAppend (r acc : Nat) (n : GNode) (ins : List TVal) (seqs : List ASeq) (s : State) : State × Bool × Except Fail Unit :=
  let dq := tDims ((ins.headD ⟨parseTensor 0 [], []⟩).d)
  let hkv := (seqs.head?.map fun x => x.t.heads * x.t.groups).getD 0
  if attAppends n then
    match ins with
    | _ :: k :: v :: _ =>
      let live := seqs.map (·.e.rows)
      let ke := encodeKv (kvFmt s r) (nth dq 3 0) (nth dq 1 0) hkv live k
      let ve := encodeKv (kvFmt s r) (nth dq 3 0) (nth dq 1 0) hkv live v
      let o := runAll (appendSeq r acc ke.1.toArray ve.1.toArray (nth dq 1 0) hkv) seqs s
      (o.1, ke.2 || ve.2, o.2)
    | _ => (s, false, .ok ())
  else (s, false, .ok ())

/-- The index entries of the blocks that the appends filled (R198). -/
def attendIndex (r acc : Nat) (n : GNode) (seqs : List ASeq) (sat : Bool) (s : State) : State × Except Fail Bool :=
  if attAppends n then seqs.foldl (fun (st : State × Except Fail Bool) x =>
      match st.2 with
      | .error _ => st
      | .ok b =>
        let w := writeIndex r acc n x st.1
        (w.1, w.2.map (b || ·))) (s, .ok sat)
  else (s, .ok false)

/-- What the scores of an ATTEND node give: its outputs, and the tables that its sequences appended to. -/
def attendDone (n : GNode) (seqs : List ASeq) (o : State × Except Fail OpOut) : State × Except Fail AttendOut :=
  match o.2 with
  | .error e => (o.1, .error e)
  | .ok out =>
    (o.1, .ok ⟨out, if attAppends n then (seqs.filter fun x => x.e.rows != 0).map fun x => (x.t.addr, x.t.length, x.e.rows, x.b) else []⟩)

/-- The execution of an ATTEND node after its appends. -/
def attendRest (r acc seed : Nat) (n : GNode) (ins : List TVal) (outs : List TDesc) (seqs : List ASeq) (a : State × Bool × Except Fail Unit) :
    State × Except Fail AttendOut :=
  match a.2.2 with
  | .error e => (a.1, .error e)
  | .ok () =>
    let ix := attendIndex r acc n seqs a.2.1 a.1
    match ix.2 with
    | .error e => (ix.1, .error e)
    | .ok sat => attendDone n seqs (attendScore ix.1 r acc seed n ins outs seqs sat)

/-- An ATTEND node (R192 to R214): the appends, the coarse index, the scores. -/
def attendExec (r acc seed : Nat) (n : GNode) (ins : List TVal) (outs : List TDesc) (s : State) :
    State × Except Fail AttendOut :=
  let seqs := nodeSeqs s r n
  orPoison r (structPoison s r n) 0 s (attendRest r acc seed n ins outs seqs (attendAppend r acc n ins seqs s))

end Sys2Proof.Machine
end

