-- ==== Sys2Proof/Machine/Operands.lean ====
section
/-! DEFINITION. The operand forms of jobs: the fields of a 128-byte descriptor and the places where they offend (R228, R229, R232, R299, R302). -/

namespace Sys2Proof.Machine

/-! Descriptors -/

/-- A little-endian field of a job's descriptor. -/
def dF (j : Job) (off n : Nat) : Nat := fieldAt j.desc off n
/-- The job type code (R229). -/
def jType (j : Job) : Nat := dF j 0 1
/-- The after flag (R228). -/
def jAfter (j : Job) : Bool := bitOf (dF j 1 1) 0
/-- The replay flag (R228). -/
def jReplay (j : Job) : Bool := bitOf (dF j 1 1) 1
/-- The dormant flag (R228). -/
def jDormant (j : Job) : Bool := bitOf (dF j 1 1) 2
/-- The digest address (R228). -/
def jDigest (j : Job) : Nat := dF j 24 8 % 2 ^ 48
/-- The seed (R228). -/
def jSeed (j : Job) : Nat := dF j 32 8

/-- The first non-zero byte of a descriptor from `a` up to below `b`. -/
def firstNonZero (j : Job) (a b : Nat) : Option Nat :=
  ((List.range (b - a)).map (a + ·)).find? fun i => dF j i 1 != 0

/-- An address field with bits [63:48] set (R229). -/
def addrFault (j : Job) (off : Nat) : Option Nat := if 2 ^ 48 ≤ dF j off 8 then some off else none

/-- An offset named where a condition holds. -/
def offIf (off : Nat) (bad : Bool) : Option Nat := if bad then some off else none

/-- The fields of the ROOMS body that the table of R229 marks 0 for a sub-operation, as offset and size. -/
def roomsZero (sub : Nat) : List (Nat × Nat) :=
  let geo := [(80, 1), (81, 1), (82, 2), (84, 2), (88, 8)]
  match sub with
  | 0 => [(64, 8), (72, 4), (76, 4)]
  | 1 => [(72, 4), (76, 4)] ++ geo
  | 2 => [(64, 8), (72, 4), (76, 4)] ++ geo
  | 3 => [(52, 4), (64, 8), (72, 4), (76, 4)] ++ geo
  | 4 => [(76, 4)] ++ geo
  | 5 => [(52, 4)] ++ geo
  | _ => [(52, 4), (64, 8), (81, 1), (82, 2), (84, 2), (88, 8)]

/-- The offending places of a ROOMS body (R229). -/
def roomsBodyFaults (j : Job) : List (Option Nat) :=
  let sub := dF j 48 1
  [offIf 48 (decide (6 < sub)), firstNonZero j 49 52, firstNonZero j 86 88, firstNonZero j 96 128, addrFault j 56,
   if sub = 1 || sub = 4 || sub = 5 then addrFault j 64 else none, offIf 80 (sub == 6 && decide (1 < dF j 80 1))] ++
  (if sub ≤ 6 then (roomsZero sub).map fun z => firstNonZero j z.1 (z.1 + z.2) else [])

/-- The offending places of a body, by job type (R229, R299, R302). -/
def bodyFaults (j : Job) : List (Option Nat) :=
  match jType j with
  | 0x04 | 0x05 =>
    [if jReplay j then addrFault j 48 else offIf 48 (dF j 48 8 != 0), offIf 56 (decide ((if jType j = 4 then 3 else 1) < dF j 56 1)),
     firstNonZero j 57 64, addrFault j 72, firstNonZero j 84 88, addrFault j 88, firstNonZero j 100 128]
  | 0x0E => [firstNonZero j 48 56, addrFault j 56, addrFault j 64, firstNonZero j 81 128]
  | 0x01 | 0x02 | 0x03 => [addrFault j 48, firstNonZero j 56 128]
  | 0x06 => [addrFault j 48, addrFault j 56, firstNonZero j 72 128]
  | 0x07 => roomsBodyFaults j
  | 0x08 =>
    [offIf 48 (decide (128 ≤ dF j 48 4)), offIf 52 (decide (1 < dF j 52 1)), offIf 53 (decide (15 < dF j 53 1)),
     firstNonZero j 54 56, firstNonZero j 64 128]
  | 0x09 => [firstNonZero j 56 128]
  | 0x0A => [addrFault j 48, addrFault j 56, firstNonZero j 64 128]
  | 0x0B => [offIf 48 (bitOf (dF j 48 1) 0), offIf 49 (decide (1 < dF j 49 1)), firstNonZero j 50 128]
  | 0x0C => [offIf 48 (decide (1 < dF j 48 1)), firstNonZero j 49 128]
  | 0x0D => [firstNonZero j 48 128]
  | _ => []

/-- The lowest of the offsets named. -/
def lowestOff (l : List (Option Nat)) : Option Nat :=
  l.foldl (fun a o => match a, o with
    | some x, some y => some (min x y)
    | some x, none => some x
    | none, o => o) none

/-- DESC_INVALID with the byte offset of the first offending field (R232, R239); `body` are the places its body offends. -/
def descFault (j : Job) (body : List (Option Nat)) : Option Nat :=
  let ty := jType j
  let fl := dF j 1 1
  lowestOff ([offIf 0 (ty == 0 || decide (0x0E < ty)),
    offIf 1 (decide (8 ≤ fl) || (bitOf fl 1 && ty != 4 && ty != 5) || (bitOf fl 2 && ty != 0x0D)),
    offIf 4 (dF j 4 1 != j.realm), firstNonZero j 5 8, addrFault j 24, firstNonZero j 40 48] ++ body)

end Sys2Proof.Machine
end

