-- ==== Sys2Proof/Machine/Flags.lean ====
section
/-! DEFINITION. The flags and the class of a completion record (R236, R237, R239). -/

namespace Sys2Proof.Machine

/-- The flags byte of a completion (R236): the phase bit, and whether the results come from one side only. -/
def complFlags (entries idx : Nat) (simplex : Bool) : Nat := ofBits [phaseBit entries idx == 1, simplex]

/-- The class of a status (R239): 2 for those of class B, else 0. -/
def statusClass (st : Nat) : Nat :=
  if [0x0F, 0x10, 0x11, 0x20, 0x21, 0x22, 0x23].contains st then 2 else 0

end Sys2Proof.Machine
end

