-- ==== Sys2Proof/Machine/Xts.lean ====
section
/-! DEFINITION. The encryption of state memory: AES-256 in XTS mode over 64-byte granules (R169). The specification names the mode; its
steps are those of the public standards. PRESUMED: notes/assumptions/81. -/

namespace Sys2Proof.Machine

/-- A product in the field of AES, 2^8 elements with the polynomial 0x11B, by eight doublings. -/
def gfMul (a b : Nat) : Nat :=
  ((List.range 8).foldl (fun (st : Nat × Nat) i =>
    (if bitOf b i then Nat.xor st.1 st.2 else st.1, if 128 ≤ st.2 then Nat.xor (st.2 * 2) 0x11B else st.2 * 2)) (0, a)).1

/-- The inverse in the field of AES, 0 for 0: the 254th power. -/
def gfInv (a : Nat) : Nat :=
  let sq := fun x => gfMul x x
  let a2 := sq a
  let a3 := gfMul a2 a
  let a12 := sq (sq a3)
  let a15 := gfMul a12 a3
  let a240 := sq (sq (sq (sq a15)))
  gfMul (gfMul a240 a12) a2

/-- A byte turned left. -/
def turnByte (x n : Nat) : Nat := x * 2 ^ n % 256 + x / 2 ^ (8 - n)

/-- The substitution of a byte, and back. -/
def subByte (x : Nat) : Nat :=
  let y := gfInv x
  Nat.xor (Nat.xor (Nat.xor y (turnByte y 1)) (Nat.xor (turnByte y 2) (turnByte y 3))) (Nat.xor (turnByte y 4) 0x63)
def unsubByte (x : Nat) : Nat :=
  gfInv (Nat.xor (Nat.xor (turnByte x 1) (turnByte x 3)) (Nat.xor (turnByte x 6) 0x05))

/-- Two byte strings combined bit by bit. -/
def xorBytes (a b : List Nat) : List Nat := (a.zip b).map fun p => Nat.xor p.1 p.2

/-- The 60 words of the key schedule of AES-256, from the word before and the word eight back. -/
def keyWords (key : List Nat) : List (List Nat) :=
  (List.range 52).foldl (fun ws k =>
    let i := k + 8
    let prev := nth ws (i - 1) []
    let t := if i % 8 = 0 then
        xorBytes ((prev.drop 1 ++ prev.take 1).map subByte) [2 ^ (i / 8 - 1), 0, 0, 0]
      else if i % 8 = 4 then prev.map subByte else prev
    ws ++ [xorBytes (nth ws (i - 8) []) t]) ((List.range 8).map fun i => (key.drop (4 * i)).take 4)

/-- The round keys of AES-256. -/
def roundKeys (key : List Nat) : List (List Nat) :=
  (List.range 15).map fun r => ((keyWords key).drop (4 * r)).take 4 |>.flatten

/-- The rows of a block shifted, and back: byte 4c + r goes by r columns. -/
def shiftRows (b : List Nat) : List Nat := (List.range 16).map fun i => nth b ((i + 4 * (i % 4)) % 16) 0
def unshiftRows (b : List Nat) : List Nat := (List.range 16).map fun i => nth b ((i + 12 * (i % 4)) % 16) 0

/-- The columns of a block multiplied by a circulant row. -/
def mixWith (m b : List Nat) : List Nat :=
  (List.range 16).map fun i =>
    (List.range 4).foldl (fun x k => Nat.xor x (gfMul (nth m ((k + 4 - i % 4) % 4) 0) (nth b (i / 4 * 4 + k) 0))) 0

/-- A block of 16 bytes encrypted with AES-256. -/
def aesEnc (key b : List Nat) : List Nat :=
  let ks := roundKeys key
  let mid := (List.range 13).foldl (fun x r =>
    xorBytes (mixWith [2, 3, 1, 1] (shiftRows (x.map subByte))) (nth ks (r + 1) [])) (xorBytes b (nth ks 0 []))
  xorBytes (shiftRows (mid.map subByte)) (nth ks 14 [])

/-- A block of 16 bytes decrypted with AES-256. -/
def aesDec (key b : List Nat) : List Nat :=
  let ks := roundKeys key
  let mid := (List.range 13).foldl (fun x r =>
    mixWith [14, 11, 13, 9] (xorBytes ((unshiftRows x).map unsubByte) (nth ks (13 - r) []))) (xorBytes b (nth ks 14 []))
  xorBytes ((unshiftRows mid).map unsubByte) (nth ks 0 [])

/-- A tweak multiplied by the element alpha, bytes little-endian. -/
def tweakNext (t : List Nat) : List Nat :=
  (List.range 16).map fun i =>
    let low := if i = 0 then (if 128 ≤ nth t 15 0 then 0x87 else 0) else nth t (i - 1) 0 / 128
    Nat.xor (nth t i 0 * 2 % 256) low

/-- The tweaks of the blocks of a data unit, from its encrypted number. -/
def tweaks (t : List Nat) : Nat → List (List Nat)
  | 0 => []
  | n + 1 => t :: tweaks (tweakNext t) n

/-- The number of a data unit that forms its tweak (R164, R169): the stack or gang in bits 63 to 60, then the granule's number. -/
def tweakOf (mem num : Nat) : List Nat := (leBytes 16 (mem * 2 ^ 60 + num)).map (·.toNat)

/-- A granule under XTS with a block function: the first half of the key for the data, the second for the tweak. -/
def xtsWith (block : List Nat → List Nat → List Nat) (key : Vector Byte 64) (mem num : Nat) (bs : List Byte) : List Byte :=
  let k := key.toList.map (·.toNat)
  let ts := tweaks (aesEnc (k.drop 32) (tweakOf mem num)) 4
  (ts.zipIdx.flatMap fun t =>
    let b := ((bs.drop (16 * t.2)).take 16).map (·.toNat)
    xorBytes (block (k.take 32) (xorBytes b t.1)) t.1).map (BitVec.ofNat 8)

/-- A granule encrypted (R169). -/
def xtsEncrypt (key : Vector Byte 64) (mem num : Nat) (bs : List Byte) : List Byte := xtsWith aesEnc key mem num bs
/-- A granule decrypted (R169). -/
def xtsDecrypt (key : Vector Byte 64) (mem num : Nat) (bs : List Byte) : List Byte := xtsWith aesDec key mem num bs

/-- The key that a realm's slot holds (R170): by the number of keys made for the realm. -/
def keyOf (s : State) (r : Nat) : Vector Byte 64 := Config.realmKey r (realmOf s r).keyGen

end Sys2Proof.Machine
end

