-- ==== Sys2Proof/Machine/Granules.lean ====
section
/-! DEFINITION. Granules at the memory: where a granule lies, what it stores, codewords and their code, reports and poison
(R156, R160 to R169). -/

namespace Sys2Proof.Machine

/-! Where a granule lies -/

/-- The address of a window granule. -/
def granuleAddr (a : BitVec 48) : Nat := a.toNat / 64 * 64

/-- The die quarter of an address in the HBM window of a realm (R156). -/
def hbmQuarter (s : State) (r a : Nat) : Nat := a / max 1 (actGet s (K.MPART_HBM_win_units r) * unitBytes)

/-- Whether a granule of a memory can hold what the command says it holds (R156, R173, R201): a mapped window granule lies in the stack or gang
of its interleave, on its quarter's die or, mirrored, on that die's partner; a room's in a die or gang that has a slot of the
room; a directory entry in the cellar. -/
def granuleFits (s : State) (mem : Nat) : GranuleUse → Bool
  | .unmapped => true
  | .window r a =>
    let a := granuleAddr a
    extentMapped s r.val a 64 && decide (a < hostWinBase) &&
    (if a < cellarBase then
      decide (mem < 8) && mem % 2 == a / 4096 % 2 &&
        (mem / 2 == hbmQuarter s r.val a || (r.val == 0 && mem / 2 == partnerOf s (hbmQuarter s r.val a)))
    else mem == 8 + a / 4096 % 2)
  | .room r q off =>
    decide (off < roomSize s r.val) && decide (q.toNat < roomCount s r.val) &&
      (roomOf s r.val q.toNat).slots.any fun x => if mem < 8 then x.place == mem / 2 else x.place + 4 == mem
  | .directory r q => decide (8 ≤ mem) && decide (q.toNat < roomCount s r.val)

/-- How much higher the copy that a granule belongs to is kept: of a mirrored window, the copy on the partner of the quarter's die; of a
mirrored room, the copy of its second slot. -/
def copyOf (s : State) (mem : Nat) : GranuleUse → Nat
  | .window r a =>
    let a := granuleAddr a
    if mirrored r.val a && mem / 2 != hbmQuarter s r.val a then mirrorKey else 0
  | .room r q _ => if r.val == 0 && secondPlace (roomOf s r.val q.toNat) (if mem < 8 then mem / 2 else mem - 4) then mirrorOff else 0
  | _ => 0

/-- The key of a granule's first byte in `win` or `room`. -/
def granuleKey (s : State) (mem : Nat) (u : GranuleUse) : Nat :=
  match u with
  | .window r a => winKey r.val (granuleAddr a) + copyOf s mem u
  | .room r q off => roomKey r.val q.toNat (off / 64 * 64) + copyOf s mem u
  | _ => 0

/-- The plain bytes of a granule, where the command says what it holds; 64 zero bytes otherwise. -/
def granuleBytes (s : State) (mem : Nat) (u : GranuleUse) : List Byte :=
  match u with
  | .window _ _ => memRead s.mem.win (granuleKey s mem u) 64
  | .room _ _ _ => memRead s.mem.room (granuleKey s mem u) 64
  | _ => zeros 64

/-- The key under which a granule is stored (R169): its realm's, and the module key for what belongs to no realm. -/
def granuleCipher (s : State) : GranuleUse → Vector Byte 64
  | .unmapped => Config.moduleKey
  | .window r _ => keyOf s r.val
  | .room r _ _ => keyOf s r.val
  | .directory r _ => keyOf s r.val

/-- What a granule stores: its plain bytes encrypted, with the tweak of its physical index (R164, R169). -/
def storedGranule (s : State) (mem num : Nat) (u : GranuleUse) : List Byte :=
  xtsEncrypt (granuleCipher s u) mem num (granuleBytes s mem u)

/-- A granule's plain bytes replaced, as stored bytes decrypt. -/
def storeGranule (mem num : Nat) (u : GranuleUse) (stored : List Byte) (s : State) : State :=
  let bs := xtsDecrypt (granuleCipher s u) mem num stored
  match u with
  | .window _ _ => modMem (fun m => { m with win := memWrite (granuleKey s mem u) bs m.win }) s
  | .room _ _ _ => modMem (fun m => { m with room := memWrite (granuleKey s mem u) bs m.room }) s
  | _ => s

/-! Poison -/

/-- Whether a granule is poisoned, where the command says what it holds (R167). -/
def granulePoisoned (s : State) (mem num : Nat) (u : GranuleUse) : Bool :=
  match u with
  | .unmapped => s.mem.poisonRaw.contains ⟨mem, num⟩
  | .window _ _ => s.mem.poisonWin.contains (granuleKey s mem u / 64)
  | .room _ _ _ => s.mem.poisonRoom.contains (granuleKey s mem u / 64)
  | .directory r q => s.mem.poisonDir.contains (dirKey r.val q.toNat)

/-- A granule poisoned (R166, R167). -/
def poison (mem num : Nat) (u : GranuleUse) (s : State) : State :=
  if granulePoisoned s mem num u then s
  else
    let k := granuleKey s mem u / 64
    modMem (fun m => match u with
    | .unmapped => { m with poisonRaw := m.poisonRaw ++ [⟨mem, num⟩] }
    | .window _ _ => { m with poisonWin := m.poisonWin ++ [k] }
    | .room _ _ _ => { m with poisonRoom := m.poisonRoom ++ [k] }
    | .directory r q => { m with poisonDir := m.poisonDir ++ [dirKey r.val q.toNat] }) s

/-! Codewords -/

/-- The 32-bit memory locator (R164). -/
def locator (mem gang part symbol kind : Nat) : Nat :=
  mem * 2 ^ 28 + gang * 2 ^ 26 + part * 2 ^ 24 + symbol * 2 ^ 17 + kind * 2 ^ 15

/-- The node that reports events of a memory: the die of an HBM stack, C_0 for gang L, C_4 for gang R (R433). -/
def memNode (mem : Nat) : Nat := if mem < 8 then nodeAddr (mem / 2) 25 0 else nodeAddr 4 (if mem = 8 then 5 else 9) 0

/-- The key of a gang's erased groups; a cellar gang is its memory's one gang (R164). -/
def gangKey (mem gang : Nat) : Nat := mem * 4 + (if mem < 8 then gang else 0)

/-- The erased groups of a gang (R163). -/
def erasedOf (s : State) (mem gang : Nat) : List Nat := tget [] (gangKey mem gang) s.mem.erased

/-- The erased groups a gang may have (R163). -/
def erasedMax (mem : Nat) : Nat := if mem < 8 then 2 else 1

/-- The DQ group that carries a symbol (R161, R162): in HBM and for the data symbols of the cellar the symbol's own number; check symbol 64 + j of
the cellar's beat c of eight bursts lies in group (c mod 8) × 8 + j of the check burst. A granule's two codewords are taken as
beats 2n and 2n + 1: DEDUCED, notes/assumptions/80. -/
def groupOf (mem num word symbol : Nat) : Nat :=
  if mem < 8 || symbol < 64 then symbol else (2 * num + word) % 8 * 8 + (symbol - 64)

/-- What the code finds in a codeword (R160, R163): no error, one it corrects in a symbol, by erasure or not, one it only detects, with the
lowest symbol in error, or another codeword than was stored. -/
inductive WordOutcome where
  | clean
  | corrected (symbol : Nat) (erasure : Bool)
  | detected (symbol : Nat)
  | wrong (symbol : Option Nat)
  deriving DecidableEq, Repr

/-- The symbols of a codeword that arrive with wrong bits, rising. -/
def wrongSymbols (word : Nat) (es : List SymbolError) : List Nat :=
  (List.range 72).filter fun y => es.any fun e => e.word.val == word && e.symbol.val == y && e.bits != 0

/-- A codeword with more symbols in error than the rules speak of. -/
def wideWord (s : State) (low : Nat) : WordOutcome :=
  match (Config.wideOutcome s.freeCtr).val with
  | 0 => .detected low
  | 1 => .wrong (some (Config.wideSymbol s.freeCtr).val)
  | _ => .wrong none

/-- The outcome of the code for a codeword of a granule (R160, R163): errors in erased groups are corrected; besides them one symbol is corrected
while fewer groups are erased than the gang may have, and further ones are detected. -/
def judgeWord (s : State) (mem num gang word : Nat) (es : List SymbolError) : WordOutcome :=
  let bad := wrongSymbols word es
  let er := erasedOf s mem gang
  let out := bad.filter fun y => !er.contains (groupOf mem num word y)
  match bad, out with
  | [], _ => .clean
  | y :: _, [] => .corrected y true
  | y :: _, [o] => if er.length < erasedMax mem then .corrected o (!er.isEmpty) else .detected y
  | y :: _, _ => if er.length = erasedMax mem || (er.isEmpty && out.length = 2) then .detected y else wideWord s y

/-- The part of the locator: 1 for a symbol of the cellar's check bursts (R162, R164). -/
def partOf (mem symbol : Nat) : Nat := if 8 ≤ mem && 64 ≤ symbol then 1 else 0

/-- The gang field of a locator. -/
def gangOf (mem gang : Nat) : Nat := if mem < 8 then gang else 0

/-- A codeword reported (R164): its locator kept, counted, recorded as class A. -/
def reportCodeword (mem num loc code key : Nat) (s : State) : State :=
  raiseFault .manager ⟨code, 1, false, memNode mem, loc, 0, mem * 2 ^ 60 + num⟩
    (regSet K.MEM_LAST_ERR_locator loc (regInc key s))

/-- A corrected error of a DQ group noted with its granule; showings older than an hour are forgotten (R163). -/
def noteShow (mem gang group num : Nat) (s : State) : State :=
  modMem (fun m => { m with shows :=
    (m.shows.filter fun x => decide (s.ticks < x.tick + 3600 * 500000000) &&
      !(x.mem == mem && x.gang == gang && x.group == group && x.granule == num)) ++ [⟨mem, gang, group, num, s.ticks⟩] }) s

/-- What follows from one codeword of a granule that is read (R160, R163, R164, R166): a corrected one is reported and its group noted, an
uncorrectable one reported and the granule poisoned, a wrong one changes what the granule holds. -/
def meetWord (mem num gang word : Nat) (u : GranuleUse) (o : WordOutcome) (s : State) : State :=
  let g := gangOf mem gang
  match o with
  | .clean => s
  | .corrected y er =>
    noteShow mem g (groupOf mem num word y) num (reportCodeword mem num (locator mem g (partOf mem y) y er.toNat) 0x0101 K.MEM_CE_COUNT_count s)
  | .detected y => poison mem num u (reportCodeword mem num (locator mem g (partOf mem y) y 2) 0x0102 K.MEM_UE_COUNT_count s)
  | .wrong y =>
    let st := storedGranule s mem num u
    let st := st.take (32 * word) ++ (Config.wideWord s.freeCtr).toList ++ st.drop (32 * word + 32)
    let s := storeGranule mem num u st { s with freeCtr := s.freeCtr + 1 }
    match y with
    | some z => reportCodeword mem num (locator mem g (partOf mem z) z 0) 0x0101 K.MEM_CE_COUNT_count s
    | none => s

/-- A granule read at the memory: each of its two codewords is decoded (R160, R165). -/
def meetGranule (mem num : Nat) (u : GranuleUse) (f : GranuleFinding) (s : State) : State :=
  (List.range 2).foldl (fun s w => meetWord mem num f.gang.val w u (judgeWord s mem num f.gang.val w f.errors) s) s

/-- A granule that a job reads: a poisoned one is noted as such, another is decoded; the job then meets the poison where it is (R164, R166). -/
def jobRead (x : GranuleRead) (s : State) : State :=
  let m := x.mem.val
  if !granuleFits s m x.what then s
  else if granulePoisoned s m x.granule x.what then
    regSet K.MEM_LAST_ERR_locator (locator m (gangOf m x.finding.gang.val) 0 0 3) s
  else meetGranule m x.granule x.what x.finding s

/-- The granules that a job's reads meet with wrong bits. -/
def jobReads (xs : List GranuleRead) (s : State) : State := xs.foldl (fun s x => jobRead x s) s

end Sys2Proof.Machine
end

