-- ==== Sys2Proof/Machine/Jobs.lean ====
section
/-! DEFINITION. Job descriptors and their checks before execution, completions, the execution of graphs, MOVE, ROOMS,
DIGEST_CHECK (R228 to R239, R177 to R180, R215 to R218). -/

namespace Sys2Proof.Machine

/-- The operating-state code of R27; boot and power-off read as WARM_IDLE, whose code is 0. -/
def opCode : OpState → Nat
  | .off => 0
  | .booting => 0
  | .warmIdle => 0
  | .drive => 1
  | .lodge => 2
  | .limp => 3
  | .safeOff => 4
  | .dormant => 5

/-- Whether a job type may be submitted on the job's ring (R229); in understudy mode of the vehicle realm FUSE and PLAN only as a replay
(R375). -/
def permitted (s : State) (j : Job) : Bool :=
  match jType j with
  | 0x04 | 0x05 => j.realm == 0 && (jReplay j || undState s == 0 || undRealm s != 0)
  | 0x0C | 0x0E => j.realm == 0
  | 0x08 | 0x0B => j.realm == 0 && j.port == s.mgrPort
  | 0x0D => !jDormant j || (j.realm == 0 && j.port == s.mgrPort)
  | _ => true

/-- Whether the module lists a contract level (R58). -/
def levelListed (s : State) (lv : Nat) : Bool :=
  lv != 0 && lv != 0xFFFF && ((List.range 4).any fun i =>
    regGet s (K.ID_LEVELS_levelLo i) == lv || regGet s (K.ID_LEVELS_levelHi i) == lv)

/-- Whether lodging is admitted (R31). -/
def lodgingOn (s : State) : Bool := regGet s K.LDG_STATUS_admitted == 1

/-- Whether a state rule refuses a job (R31, R232, R364, R365): a job of realms 1 to 7 outside LODGE, a CURTAIN of bank 0 or 1 and a LODGE
while lodging is admitted, a LODGE outside WARM_IDLE or in drive, a RECALL while lodging is not admitted. The state that counts is the one at the start of the job, not at
its acceptance (R31 speaks of the one, R232 and R364 of the other): DESIGN CHOICE, notes/assumptions/84. -/
def stateRule (s : State) (j : Job) : Bool :=
  (j.realm != 0 && s.op != .lodge) ||
  match jType j with
  | 0x08 => lodgingOn s && dF j 48 4 % 4 != 0
  | 0x0B => s.op != .warmIdle || lodgingOn s || s.inDrive
  | 0x0C => !lodgingOn s
  | _ => false

/-- The checks of R232 and LEVEL_UNSUPPORTED, in their order. -/
def headFail (s : State) (j : Job) (body : List (Option Nat)) : Option Fail :=
  match descFault j body with
  | some off => some ⟨1, off⟩
  | none =>
    let e := (realmOf s j.realm).epoch
    if !permitted s j then some ⟨2, 0⟩
    else if dF j 8 8 < e then some ⟨3, e % 2 ^ 32⟩
    else if e < dF j 8 8 then some ⟨4, e % 2 ^ 32⟩
    else if stateRule s j then some ⟨6, opCode s.op⟩
    else if !levelListed s (dF j 2 2) then some ⟨7, dF j 2 2⟩
    else none

/-- LENGTH_RANGE of the digest area (R234). -/
def digestFail (s : State) (j : Job) : Option Fail :=
  if jDigest j ≠ 0 && !extentMapped s j.realm (jDigest j) 32 then some ⟨8, 24⟩ else none

/-! Order of starts (R231, R180, R251) -/

/-- Whether two jobs share a ring. -/
def sameRing (a b : Job) : Bool := a.port == b.port && a.ring == b.ring

/-- Whether a job type runs one at a time (R231). -/
def soloType (ty : Nat) : Bool := ty == 0x08 || ty == 0x0B || ty == 0x0C

/-- The memory layout fields of a realm (R159). -/
def layoutKeys (r : Nat) : List Nat :=
  [K.MPART_HBM_win_units r, K.MPART_HBM_room_units r, K.MPART_CEL_win_units r, K.MPART_CEL_room_units r,
   K.MPART_ROOM_size_4k r, K.MPART_ROOM_kv_format r] ++ (if r = 0 then [] else [K.PART_CTRL_dies r])

/-- The host window fields of a realm. -/
def hostWinKeys (r : Nat) : List Nat := [K.MPART_HOSTWIN_LO_base r, K.MPART_HOSTWIN_HI_base r]
/-- The binding fields of a realm. -/
def bindKeys (r : Nat) : List Nat := [K.REALM_BIND_enabled r, K.REALM_BIND_host r, K.REALM_BIND_ring r]

/-- Whether a curtain of a bank mask affects a realm (R251): its binding, its memory layout or its host window would change. -/
def affected (s : State) (mask r : Nat) : Bool :=
  let differ := fun (l : List Nat) => l.any fun k => actGet s k != shGet s k
  (bitOf mask 0 && differ (layoutKeys r ++ hostWinKeys r)) || (bitOf mask 1 && differ (bindKeys r))

/-- Whether the pending curtain holds back new jobs of a realm (R251). -/
def curtainHolds (s : State) (j : Job) : Bool :=
  match s.curtain with
  | some c => c.acc != j.acc && affected s c.mask j.realm
  | none => false

/-- Whether the job with an acceptance number may start now, its tables apart (R231, R251); while a RECALL runs, no job of realms 1 to 7
does (R366). -/
def mayStart (s : State) (j : Job) : Bool :=
  let earlier := s.jobs.filter fun k => sameRing k j && decide (k.acc < j.acc)
  j.phase == .accepted && earlier.all (fun k => k.phase != .accepted && jType k != 0x0D) &&
  ((!jAfter j && jType j != 0x0D) || earlier.isEmpty) && !curtainHolds s j &&
  (j.realm == 0 || s.lodging.running.isNone) &&
  (!soloType (jType j) || s.jobs.all fun k => !(soloType (jType k) && decide (k.acc < j.acc)))

/-- Whether a job that names and changes some tables is held by another of its realm: one that executes, or one that was held before it
(R180). -/
def tablesHeld (s : State) (j : Job) (named changed : List Nat) : Bool :=
  s.jobs.any fun k => k.realm == j.realm && k.acc != j.acc && k.phase != .accepted && (k.phase != .held || decide (k.acc < j.acc)) &&
    (k.changed.any named.contains || k.tables.any changed.contains)

/-! Completions -/

/-- The job with an acceptance number. -/
def findJob (s : State) (acc : Nat) : Option Job := s.jobs.find? fun j => j.acc == acc

/-- A job changed. -/
def modJob (acc : Nat) (f : Job → Job) (s : State) : State :=
  { s with jobs := s.jobs.map fun j => if j.acc = acc then f j else j }

/-- A job's result with a status and detail and no outputs. -/
def failResult (f : Fail) : JobResult := ⟨f.status, 0, f.detail, [], [], [], none⟩

/-- The 16-byte trailer of the job digest (R54). -/
def digestTrailer (level aux count : Nat) : List Byte :=
  leBytes 2 0 ++ leBytes 2 level ++ leBytes 4 aux ++ leBytes 4 count ++ zeros 4

/-- The base address of a ring's completion ring. -/
def cqBase (s : State) (p i : Nat) : Nat := addr64 5 (regGet s (K.RING_CQ_LO_base p i)) (regGet s (K.RING_CQ_HI_base p i))

/-- The entries of a ring. -/
def ringEntries (s : State) (p i : Nat) : Nat := 2 ^ regGet s (K.RING_CTRL_log2_entries p i)

/-- The 32 bytes of a completion record at an index (R236). -/
def complBytes (s : State) (j : Job) (idx : Nat) (r : JobResult) (simplex : Bool) (cls : Nat) : List Byte :=
  leBytes 2 r.status ++ leBytes 1 (complFlags (ringEntries s j.port j.ring) idx simplex) ++ leBytes 1 cls ++
  leBytes 4 (if r.status = 0 then r.aux else 0) ++ (if r.status = 0 then r.digest.take 8 else zeros 8) ++
  leBytes 8 (dF j 16 8) ++ leBytes 4 r.detail ++ leBytes 4 (tbNs s)

/-- A job completes: its digest is written, then its completion record; its pin is released (R55, R181, R236, R237). The record is discarded
after a reset of the port and where Bus Master Enable is 0 (R356, R401). -/
def completeJob (j : Job) (r : JobResult) (simplex : Bool) (cls : Nat) (s : State) : State :=
  let s := if r.status = 0 && jDigest j ≠ 0 then realmWrite j.realm (jDigest j) r.digest s else s
  let idx := (ringOf s j.port j.ring).cqProducer
  let bs := complBytes s j idx r simplex cls
  let s := if j.mute || !(portOf s j.port).busMaster then countDropped s.mgrPort s else
    modRing j.port j.ring (fun q => { q with cqProducer := (q.cqProducer + 1) % 65536 })
      (hostWrite j.port (cqBase s j.port j.ring + 32 * (idx % ringEntries s j.port j.ring)) bs s)
  let s := { s with jobs := s.jobs.filter fun k => k.acc != j.acc }
  let s := undComplete j.commit (r.status == 0) r.digest (drainLimbo j.realm s)
  if cls = 2 then recordFault 2 iodSteward { s with lastClass := 2 } else s

/-- A job ends with a status decided before or during execution, all its room changes undone (R190). -/
def failJob (j : Job) (f : Fail) (s : State) : State := completeJob j (failResult f) false (statusClass f.status) s

/-- A job completes OK with no output: its digest is taken over the trailer alone (R235). -/
def okJob (j : Job) (detail : Nat) (s : State) : State :=
  completeJob j ⟨0, 0, detail, sha256 (digestTrailer (dF j 2 2) 0 0), [], [], none⟩ false 0 s

/-! Checks of graph jobs -/

/-- The ATTEND nodes of a graph. -/
def attendNodes (g : Graph) : List GNode := g.nodes.filter isAttend

/-- LENGTH_RANGE of a graph job whose structures are mapped (R89, R199). -/
def graphLength (s : State) (r : Nat) (g : Graph) : Option Nat :=
  nodeThenTensor g (fun n => isAttend n && attendLength s r n) (tensorLengthFault s r)

/-- The VERIFY nodes after the first (R199). -/
def extraVerify (g : Graph) (n : GNode) : Bool :=
  n.opByte == 0x15 && (g.nodes.take n.idx).any fun m => m.opByte == 0x15

/-- FORMAT_UNSUPPORTED of a graph (R94). -/
def graphFormat (s : State) (r : Nat) (g : Graph) : Option Nat :=
  nodeThenTensor g (fun n => nodeFormatFault g n ||
      (isAttend n && (gIns g n ++ gOuts g n).all (fun t => (tFmt? t).isSome) && !attendFormatsOk s r n (gIns g n) (gOuts g n)))
    (fun t => (tFmt? t).isNone)

/-- SHAPE_MISMATCH of a graph (R94, R216). -/
def graphShape (s : State) (r jobType : Nat) (g : Graph) : Option Nat :=
  firstFault (·.idx) (fun n => nodeShapeFault g n || (isAttend n && !attendShapeOk s r n (gIns g n) (gOuts g n)) ||
    (jobType == 2 && n.opByte == 0x15 &&
      (attendNodes g).any fun a => batchCount s r (batchAddr a) != nth ((gIns g n).map fun t => nth (tDims t) 0 0) 0 0)) g.nodes

/-- The places a graph's appends touch: table, block, head group, home die, and whether a room must be found (R179). -/
structure Touch where
  table : Nat
  block : Nat
  group : Nat
  die : Nat
  needs : Bool
  deriving DecidableEq, Repr

/-- The places a sequence's appends touch. -/
def seqTouches (s : State) (r : Nat) (x : ASeq) : List Touch :=
  (touchedBlocks x.t.length x.e.rows).flatMap fun b => (List.range x.t.groups).map fun g =>
    let e := tableEntry s r x.t b g
    ⟨x.t.addr, b, g, homeDie s r x.q x.t.capacity b, e == noRoom || decide (1 < (roomOf s r e).count)⟩

/-- The places the appends of a graph touch. -/
def graphTouches (s : State) (r : Nat) (g : Graph) : List Touch :=
  ((attendNodes g).filter attAppends).flatMap fun n => (nodeSeqs s r n).flatMap (seqTouches s r)

/-- The journal entries a job reserves on a die (R140, R217): for STEP two per sequence, layer and head group, for PREFILL one per
block and head group and one per table. -/
def journalNeed (s : State) (r jobType : Nat) (g : Graph) (die : Nat) : Nat :=
  let seqs := ((attendNodes g).filter attAppends).flatMap fun n => (nodeSeqs s r n).filter fun x => x.e.rows != 0
  (seqs.map fun x =>
    let ts := (seqTouches s r x).filter fun t => t.die == die
    let last := homeDie s r x.q x.t.capacity ((x.t.length + x.e.rows - 1) / 64)
    if jobType = 2 then 2 * ((ts.map fun t => t.group).eraseDups).length
    else ts.length + (if last = die then 1 else 0)).sum

/-- The entries of a die's journal (R140). -/
abbrev journalSize : Nat := 524288

/-- What a job that may execute takes at its start. -/
structure Claim where
  pin : Bool
  tables : List Nat
  changed : List Nat
  reserve : Nat
  need : List Nat
  deriving DecidableEq, Repr

/-- The outcome of the checks before execution: the job fails, waits before it starts, starts and is held by an earlier job on one of the
tables it names and changes, or may execute with what it claims. -/
inductive PreOut where
  | fail (f : Fail)
  | wait
  | hold (named changed : List Nat)
  | go (c : Claim)
  deriving DecidableEq, Repr

/-- The rooms reserved by the other jobs of a realm. -/
def reservedRooms (s : State) (j : Job) : Nat :=
  ((s.jobs.filter fun k => k.realm == j.realm && k.acc != j.acc).map (·.reserve)).sum

/-- The reservation of rooms: the free rooms suffice, or with the rooms and slots in limbo, or not (R172, R179, R239). What other jobs have
reserved is not free. -/
def reserveOut (s : State) (j : Job) (need : Nat) (c : Claim) : PreOut :=
  let held := reservedRooms s j
  if need = 0 || need + held ≤ freeRooms s j.realm then .go { c with reserve := need }
  else if need + held ≤ drainedRooms s j.realm then .wait
  else .fail ⟨0x10, need + held - drainedRooms s j.realm⟩

/-- Checks made when no earlier job holds a job on the tables it names (R180). -/
def whenFree (s : State) (j : Job) (named changed : List Nat) (checks : PreOut) : PreOut :=
  if tablesHeld s j named changed then .hold named changed else checks

/-- The room tables that the entries of an ATTEND node name, as far as its structures are mapped; with `appends`, those that it changes
(R180, R195, R196). -/
def nodeTables (s : State) (r : Nat) (appends : Bool) (n : GNode) : List Nat :=
  let a := batchAddr n
  let l := attLayer n
  if !extentMapped s r a 32 || 65535 < batchCount s r a || !extentMapped s r a (32 + 32 * batchCount s r a) then []
  else (batchEntries s r a).filterMap fun e =>
    let q := seqRec s r e.record
    if (!appends || (attAppends n && e.rows != 0)) && extentMapped s r (e.record % 2 ^ 48) 64 && decide (l < q.layers) &&
       extentMapped s r (q.tables % 2 ^ 48) (8 * q.layers) then some (seqTable s r q l) else none

/-- The tables that a graph names, or those that it changes. -/
def namedTables (s : State) (r : Nat) (appends : Bool) (g : Graph) : List Nat :=
  ((attendNodes g).flatMap (nodeTables s r appends)).eraseDups

/-- The entries of a die's work journal that are not free for a job: those written, and what other jobs have reserved and not yet written
(R140). -/
def journalHeld (s : State) (j : Job) (d : Nat) : Nat :=
  let mine := s.mem.journal.filter fun e => e.die == d
  mine.length + ((s.jobs.filter fun k => k.acc != j.acc).map fun k =>
    nth k.need d 0 - (mine.filter fun e => e.job == k.acc % 2 ^ 32).length).sum

/-- The checks of a graph's rooms, after every check of R94 (R140, R187, R199, R179). -/
def graphRooms (s : State) (j : Job) (g : Graph) : PreOut :=
  let r := j.realm
  let need := (List.range 4).map (journalNeed s r (jType j) g)
  let ats := attendNodes g
  if need.any fun n => decide (journalSize < n) then .fail ⟨0x0E, 0⟩
  else if (List.range 4).any fun d => decide (0 < nth need d 0) && decide (journalSize < journalHeld s j d + nth need d 0) then .wait
  else match firstFault (·.idx) (attendListLength s r) ats with
  | some i => .fail ⟨8, i⟩
  | none =>
    match firstSome (attendRoomInvalid s r) ats with
    | some d => .fail ⟨0x0F, d⟩
    | none =>
      let tabs := (ats.flatMap fun n => (nodeSeqs s r n).map fun x => x.t.addr).eraseDups
      let chg := ((ats.filter attAppends).flatMap fun n => ((nodeSeqs s r n).filter fun x => x.e.rows != 0).map fun x => x.t.addr).eraseDups
      let touches := ((graphTouches s r g).filter (·.needs)).map fun t => (t.table, t.block, t.group)
      reserveOut s j touches.eraseDups.length ⟨!ats.isEmpty, tabs, chg, 0, need⟩

/-- The checks of a graph that is mapped (R94). -/
def graphChecks (s : State) (j : Job) (g : Graph) : PreOut :=
  let r := j.realm
  let ty := jType j
  let lv := dF j 2 2
  match graphLength s r g with
  | some d => .fail ⟨8, d⟩
  | none =>
    match graphInvalid g lv (fun n => (isAttend n && attendInvalid s r ty n) || (ty == 2 && extraVerify g n)) with
    | some d => .fail ⟨9, d⟩
    | none =>
      match graphFormat s r g with
      | some d => .fail ⟨0x0A, d⟩
      | none =>
        match firstFault (·.ord) (tensorLayoutFault g) g.tensors with
        | some d => .fail ⟨0x0B, d⟩
        | none =>
          match graphShape s r ty g with
          | some d => .fail ⟨0x0C, d⟩
          | none =>
            match nodeThenTensor g (nodeOverlap g) (tensorOverlap g) with
            | some d => .fail ⟨0x0D, d⟩
            | none => graphRooms s j g

/-- The checks of a graph job from LENGTH_RANGE on (R94, R180). -/
def graphPre (s : State) (j : Job) : PreOut :=
  let r := j.realm
  let a := dF j 48 8 % 2 ^ 48
  match hdrLengthFault s r a with
  | some d => .fail ⟨8, d⟩
  | none =>
    let g := readGraph s r a
    whenFree s j (namedTables s r false g) (namedTables s r true g) (graphChecks s j g)

/-! Execution of graphs -/

/-- A graph in execution: the state, the flags, the tables appended to (table, committed length, rows, batch entry) and what
VERIFY accepted. -/
structure Run where
  s : State
  aux : Aux
  touched : List (Nat × Nat × Nat × Nat)
  accepted : Option (List Int)
  deriving DecidableEq, Repr

/-- The pieces of a tensor's units stored in realm memory; a piece that covers a poisoned granule in part fails the job (R167). -/
def storeTensor (r : Nat) (t : TDesc) (units : List Nat) (s : State) : State × Option Fail :=
  let ws := tWrites t units
  orPoisonW r (firstSome (fun w => poisonedWrite s r w.1 w.2.length) ws) t.ord s (ws.foldl (fun s w => realmWrite r w.1 w.2 s) s, none)

/-- The outputs of a node stored in order: where two of its outputs are overlapping internal tensors, the second's bytes stay. DESIGN CHOICE:
notes/assumptions/79. -/
def storeOuts (r : Nat) : List (TDesc × List Nat) → State → State × Option Fail
  | [], s => (s, none)
  | p :: t, s =>
    match storeTensor r p.1 p.2 s with
    | (s, some f) => (s, some f)
    | (s, none) => storeOuts r t s

/-- The first poisoned granule of a tensor. -/
def tensorPoison (s : State) (r : Nat) (t : TDesc) : Option Nat := firstSome (fun g => poisonedRead s r g.1 g.2) (tSegs t)

/-- A node executes (R91): its operands are read, its results written. -/
def runNode (g : Graph) (j : Job) (n : GNode) (x : Run) : Run × Option Fail :=
  let r := j.realm
  let ins := gIns g n
  let outs := gOuts g n
  match ins.find? (tPoisoned x.s r) with
  | some t => ({ x with s := (orPoisonW r (tensorPoison x.s r t) t.ord x.s (x.s, none)).1 }, some ⟨0x20, t.ord⟩)
  | none =>
    let vals := ins.map fun t => (⟨t, if n.opByte = 0x17 then tReadRaw x.s r t else tRead x.s r t⟩ : TVal)
    if isAttend n then
      match attendExec r j.acc (jSeed j) n vals outs x.s with
      | (s, .error f) => ({ x with s := s }, some f)
      | (s, .ok a) =>
        let st := storeOuts r (outs.zip a.out.outs) s
        ({ x with s := st.1, aux := auxOr x.aux a.out.aux, touched := x.touched ++ a.touched }, st.2)
    else
      let o := evalOp n (jSeed j) vals outs
      let st := storeOuts r (outs.zip o.outs) x.s
      ({ x with s := st.1, aux := auxOr x.aux o.aux,
                accepted := if n.opByte = 0x15 then (o.outs.head?.map fun us => us.map (toSigned 32)) else x.accepted }, st.2)

/-- The nodes in table order, to the first failure (R91). -/
def runNodes (g : Graph) (j : Job) : List GNode → Run → Run × Option Fail
  | [], x => (x, none)
  | n :: t, x =>
    match runNode g j n x with
    | (x, some f) => (x, some f)
    | (x, none) => runNodes g j t x

/-- The new length of each table a graph job appended to (R215, R216), and whether VERIFY accepted more than the candidates. -/
def newLengths (x : Run) (isStep : Bool) : List (Nat × Nat × Nat) × Bool :=
  let ls := x.touched.map fun t =>
    let cand := t.2.2.1 - 1
    let a := match x.accepted with
      | some l => nth l t.2.2.2 0
      | none => Int.ofNat cand
    if isStep then ((t.1, t.2.1, t.2.1 + 1 + min a.toNat cand), decide (Int.ofNat cand < a))
    else ((t.1, t.2.1, t.2.1 + t.2.2.1), false)
  ((ls.map (·.1)).eraseDups, ls.any (·.2))

/-- The outputs of a graph in the order of io_list (R54, R235). -/
def graphOutputs (g : Graph) : List TDesc := (g.io.drop g.inCount).filterMap (gTensor g)

/-- The job digest over output bytes (R54). -/
def jobDigest (outs : List Byte) (level aux count : Nat) : List Byte := sha256 (outs ++ digestTrailer level aux count)

/-- A stretch of memory that a job which ends during its execution was to write: it holds free bytes, and whether the granules written whole
lose their poison is free (R39, R167). -/
def leaveSeg (ctr r : Nat) (x : Nat × Nat) (s : State) : State :=
  let t := realmWrite r x.1 ((List.range x.2).map fun i => Config.leftByte ctr (x.1 + i)) s
  { t with mem := { t.mem with poisonWin := s.mem.poisonWin.filter fun g => t.mem.poisonWin.contains g || Config.leftPoisoned ctr g } }

/-- What a job that ends during its execution leaves where it writes its outputs (R39). -/
def leaveOpen (r : Nat) (l : List (Nat × Nat)) (s : State) : State :=
  l.foldl (fun t x => leaveSeg s.freeCtr r x t) { s with freeCtr := s.freeCtr + 1 }

/-- What the nodes of a graph write: its output and internal tensors, row by row (R91). -/
def graphWrites (g : Graph) : List (Nat × Nat) := (g.nodes.flatMap (gOuts g)).flatMap tSegs

/-- A graph job executes to its last node: the result, or the failure with every append undone (R91, R215, R216, R218). -/
def runGraph (j : Job) (s : State) : State × Except Fail JobResult :=
  let r := j.realm
  orPoison r (graphPoison s r (dF j 48 8 % 2 ^ 48)) 0 s <|
  let g := readGraph s r (dF j 48 8 % 2 ^ 48)
  let o := runNodes g j g.nodes ⟨s, Aux.none, [], none⟩
  let undo := ((o.1.s.mem.journal.filter fun e => e.job == j.acc % 2 ^ 32).map fun e => (e.table, e.oldLength)).eraseDups
  match o.2 with
  | some f => (settleAll r j.acc undo (leaveOpen r (graphWrites g) o.1.s), .error f)
  | none =>
    let nl := newLengths o.1 (jType j == 2)
    let aux := { o.1.aux with oor := o.1.aux.oor || nl.2 }
    let outs := graphOutputs g
    let bytes := outs.flatMap fun t => serialise t (tRead o.1.s r t)
    (o.1.s, .ok ⟨0, auxBits aux, 0, jobDigest bytes (dF j 2 2) (auxBits aux) outs.length, nl.1,
      graphWrites g, none⟩)

/-- A result record as it is written: out_time and marks in place (R297, R309). -/
def sealedRecord (o : Outcome) (t : Stamp) (marks : Nat) : List Byte := o.result.take 16 ++ stampBytes t ++ leBytes 4 marks ++ o.result.drop 36

/-- Whether a result is older than the limit of its output stream (R311). -/
def isStale (s : State) (o : Outcome) : Bool :=
  !o.replay && decide (o.oldest + max 1 (actGet s (K.AGE_LIMIT_ms o.out)) * 1000000 < tauNow s)

/-- Whether an engine (0 to 3: FUS_A, FUS_B, PLE_A, PLE_B) serves: in service and not under an extended test (R332, R334). -/
def engineServes (s : State) (e : Nat) : Bool := !s.dpx.engOut.contains e && !s.dpx.testing.contains (4 + e)

/-- Whether the pair of engines that makes a result runs in duplex: FUS_A and FUS_B, or PLE_A and PLE_B (R326, R332). -/
def enginesDuplex (s : State) (plan : Bool) : Bool :=
  if plan then engineServes s 2 && engineServes s 3 else engineServes s 0 && engineServes s 1

/-- The marks of a result written now (R297): STALE, SIMPLEX, NO_PLAN, REPLAY; every result of a pair that runs simplex carries SIMPLEX (R332). -/
def outMarks (s : State) (o : Outcome) (simplex : Bool) : Nat :=
  ofBits [isStale s o, simplex || !enginesDuplex s (fieldAt o.adm 2 1 == 1), o.noPlan.isSome, o.replay]

/-- A STALE mark counted for its output stream (R311). -/
def countStale (o : Outcome) (s : State) : State := if isStale s o then regInc (K.OUT_STALE_count o.out) s else s

/-- A job's result and admission records written (R299, R311). -/
def writeOutcome (o : Outcome) (simplex : Bool) (s : State) : State :=
  realmWrite 0 o.resultAt (sealedRecord o (stampNow s) (outMarks s o simplex)) (realmWrite 0 o.admAt o.adm (countStale o s))

/-- A withheld result dropped with a status: its outputs are open (R39), every table returns to its committed length (R331). -/
def dropResult (j : Job) (r : JobResult) (f : Fail) (s : State) : State :=
  failJob j f (settleAll j.realm j.acc (r.lens.map fun l => (l.1, l.2.1)) (leaveOpen j.realm r.extents s))

/-- The first poisoned granule that the last writes of a job would cover in part: the lengths of its tables, its digest (R55, R167, R215). -/
def lastPoison (s : State) (j : Job) (r : JobResult) : Option Nat :=
  firstSome (fun e => poisonedWrite s j.realm e.1 e.2)
    ((r.lens.map fun l => (l.1, 4)) ++ (if r.status = 0 && jDigest j ≠ 0 then [(jDigest j, r.digest.length)] else []))

/-- A result released: the settle of its tables, its records, then the completion (R216, R218, R299, R329). -/
def releaseResult (j : Job) (r : JobResult) (simplex : Bool) (cls : Nat) (s : State) : State :=
  match lastPoison s j r with
  | some g => dropResult j r ⟨0x20, 0⟩ (winPoisonEvent j.realm g s)
  | none =>
    let s := settleAll j.realm j.acc (r.lens.map fun l => (l.1, l.2.2)) s
    completeJob j r simplex cls (match r.out with
      | some o => writeOutcome o simplex s
      | none => s)

/-- A job's claim taken: it is running (R181, R232). -/
def takeClaim (j : Job) (c : Claim) (s : State) : State :=
  modJob j.acc (fun k => { k with phase := .running, tables := c.tables, changed := c.changed, reserve := c.reserve, need := c.need,
                                  banks := if k.phase = .held then k.banks else s.active,
                                  pin := if c.pin then some (realmOf s j.realm).reader else none }) s

/-- The rooms that a job's tentative appends have allocated (R179, R217). -/
def roomsTaken (s : State) (acc : Nat) : Nat := (s.mem.journal.filter fun e => e.job == acc % 2 ^ 32 && e.newRoom != noRoom).length

/-- The granules that a job command says its reads meet with wrong bits. -/
def runReads : JobRun → List GranuleRead
  | .start _ => []
  | .whole l => l
  | .withhold l => l

/-- Whether a job command only starts its job. -/
def onlyStarts : JobRun → Bool
  | .start _ => true
  | _ => false

/-- The rooms that a job command has fetched ahead for a job that has started, on the dies of its realm's placement list (R138, R200). -/
def runAhead (run : JobRun) (j : Job) (s : State) : State :=
  match run with
  | .start l => (l.filter fun x => (placementList s j.realm).contains x.1.val && extentMapped s j.realm x.2 4).foldl
      (fun s x => fetchAhead j.realm x.1.val x.2 s) s
  | _ => s

/-- Whether a job command leaves the result withheld. -/
def withholds : JobRun → Bool
  | .withhold _ => true
  | _ => false

/-- A job's body after its start: the outcome written, or withheld for the comparison, and in signature mode until the window in which the
digests were found to agree has closed (R318, R326, R329). -/
def finishRun (run : JobRun) (duplex : Bool) (j : Job) (o : State × Except Fail JobResult) : State :=
  match o.2 with
  | .error f => failJob j f o.1
  | .ok res =>
    let held := modJob j.acc (fun k => { k with phase := .withheld, held := some res, reserve := k.reserve - roomsTaken o.1 j.acc }) o.1
    if withholds run && duplex then held
    else if duplex && gates o.1 (holder o.1) then gate (holder o.1) (.release (.job j.acc)) held
    else releaseResult j res false 0 o.1

/-- Whether a descriptor names a reserved job type; any job command naming such a job ends it with DESC_INVALID (R229, R232). -/
def reservedType (j : Job) : Bool := jType j == 0 || decide (0x0E < jType j)

/-- Whether the events of the job that runs are discarded at a port (R356, R401). -/
def setQuiet (p : Nat) (q : Bool) (s : State) : State := if q || (portOf s p).quiet then modPort p (fun h => { h with quiet := q }) s else s

/-- A job's body runs under the banks that were active at its start (R251), its events discarded where its completion is (R356); a LODGE job
exchanges banks itself (R364). -/
def underBanks (work : Job → State → State × Except Fail JobResult) (j : Job) (s : State) : State × Except Fail JobResult :=
  if jType j == 0x0B then work j s else
  let o := work j (setQuiet j.port j.mute { s with active := j.banks })
  (setQuiet j.port false { o.1 with active := s.active }, o.2)

/-- A job starts and is held on the tables it names (R180). -/
def holdJob (j : Job) (named changed : List Nat) (s : State) : State :=
  modJob j.acc (fun k => { k with phase := .held, tables := named, changed := changed,
                                  banks := if k.phase = .held then k.banks else s.active }) s

/-- What follows from the outcome of the checks before execution. -/
def startJob (run : JobRun) (duplex : State → Job → Bool) (work : Job → State → State × Except Fail JobResult) (j : Job) (o : PreOut)
    (s : State) : State :=
  match o with
  | .fail f => failJob j f s
  | .wait => s
  | .hold named changed => holdJob j named changed s
  | .go c =>
    let s := takeClaim j c s
    if onlyStarts run then runAhead run j s
    else match findJob s j.acc with
      | some k => finishRun run (duplex s j) j (underBanks work k (jobReads (runReads run) s))
      | none => s

/-- Whether a job is a running ROOMS job that changes a table and is never stopped (R434). -/
def keepsRunning (j : Job) : Bool := jType j == 7 && decide (dF j 48 1 ≤ 4) && j.phase != .accepted && j.phase != .held

/-- Whether a running lodging job has stopped: past the grace period of a RECALL, or from a LIMP entry on, it does nothing more until it
completes CHECKPOINTED or ABANDONED; the ROOMS jobs of R434 and a FENCE are not stopped (R366, R369, R434). -/
def lodgerStopped (s : State) (j : Job) : Bool :=
  s.lodging.realms.contains j.realm && (s.lodging.limpStop || s.lodging.running.any (·.stopped)) && !keepsRunning j && jType j != 9

/-- The shape of a job command: the job named starts if it may, its checks decide, and it executes as far as the command
says. Nothing happens where no such job of the type can start or go on. -/
def jobCommand (types : List Nat) (acc : Nat) (run : JobRun) (body : Job → List (Option Nat)) (pre : State → Job → PreOut)
    (work : Job → State → State × Except Fail JobResult) (duplex : State → Job → Bool) (s : State) : State :=
  match findJob s acc with
  | none => s
  | some j =>
    if !types.contains (jType j) && !reservedType j then s
    else match j.phase with
    | .withheld => s
    | .running =>
      if lodgerStopped s j then s
      else if onlyStarts run then runAhead run j s
      else finishRun run (duplex s j) j (underBanks work j (jobReads (runReads run) s))
    | .held => startJob run duplex work j (pre { s with active := j.banks } j) s
    | .accepted =>
      if !mayStart s j then s
      else match headFail s j (body j) with
      | some f => failJob j f s
      | none =>
        match digestFail s j with
        | some f => failJob j f s
        | none => startJob run duplex work j (pre s j) s

/-- Whether a job of a realm affected by a curtain, itself apart, has started and not completed (R251). -/
def curtainBusy (s : State) (c : Curtain) : Bool :=
  s.jobs.any fun k => k.acc != c.acc && k.phase != .accepted && affected s c.mask k.realm

/-- Whether a job's results are compared between two sides (R326). -/
def jobDuplex (s : State) (j : Job) : Bool := j.realm == 0 && diesDuplex s

end Sys2Proof.Machine
end

