-- ==== Sys2Proof/Machine/JobOps.lean ====
section
/-! DEFINITION. The commands of graph jobs, MOVE, ROOMS, FENCE, DIGEST_CHECK and BARRIER. -/

namespace Sys2Proof.Machine

/-! GRAPH, STEP, PREFILL -/

/-- GRAPH (R91). -/
def execGraph (job : Nat) (run : JobRun) (s : State) : Host.Outcome State Fault Refusal :=
  .next (jobCommand [0x01] job run bodyFaults graphPre runGraph jobDuplex s)

/-- STEP (R216). -/
def execStep (job : Nat) (run : JobRun) (s : State) : Host.Outcome State Fault Refusal :=
  .next (jobCommand [0x02] job run bodyFaults graphPre runGraph jobDuplex s)

/-- PREFILL (R215). -/
def execPrefill (job : Nat) (run : JobRun) (s : State) : Host.Outcome State Fault Refusal :=
  .next (jobCommand [0x03] job run bodyFaults graphPre runGraph jobDuplex s)

/-! MOVE and DIGEST_CHECK -/

/-- Bytes written for a job, which fails with the given detail where they cover a poisoned granule in part (R167). -/
def checkedWrite (r a detail : Nat) (bs : List Byte) (s : State) : State × Option Fail :=
  orPoisonW r (poisonedWrite s r a bs.length) detail s (realmWrite r a bs s, none)

/-- Bytes that a MOVE or a DIGEST_CHECK reads, which fails with the given detail on a poisoned granule of the copy it reads (R166, R327). -/
def checkedRead (r a n detail : Nat) (s : State) : State × Except Fail (List Byte) :=
  orPoison r (poisonedReadA s r a n) detail s (s, .ok (realmRead s r a n))

/-- A result OK with output bytes that enter the digest (R54). -/
def okResult (j : Job) (out : List Byte) (count : Nat) : JobResult :=
  ⟨0, 0, 0, jobDigest out (dF j 2 2) 0 count, [], [], none⟩

/-- No claim on rooms or tables. -/
def noClaim : Claim := ⟨false, [], [], 0, []⟩

/-- The checks of MOVE (R229, R234, R38). -/
def movePre (s : State) (j : Job) : PreOut :=
  let src := dF j 48 8
  let dst := dF j 56 8
  let n := dF j 64 8
  if n = 2 ^ 64 - 1 then .fail ⟨8, 64⟩
  else if n = 0 then .go noClaim
  else if !extentMapped s j.realm src n then .fail ⟨8, 48⟩
  else if !extentMapped s j.realm dst n then .fail ⟨8, 56⟩
  else if src < dst + n && dst < src + n then .fail ⟨0x0D, 0⟩
  else .go noClaim

/-- MOVE copies bytes (R229, R235); a length of 0 moves nothing (R234). -/
def moveWork (j : Job) (s : State) : State × Except Fail JobResult :=
  let n := dF j 64 8
  match checkedRead j.realm (dF j 48 8) n 0 s with
  | (s, .error f) => (leaveOpen j.realm [(dF j 56 8, n)] s, .error f)
  | (s, .ok bs) =>
    match checkedWrite j.realm (dF j 56 8) 0 bs s with
    | (s, some f) => (leaveOpen j.realm [(dF j 56 8, n)] s, .error f)
    | (s, none) => (s, .ok (okResult j (serialiseBytes bs) 1))

/-- Whether no result is compared: the vehicle-realm job types that run once (R326). -/
def once (_ : State) (_ : Job) : Bool := false

/-- MOVE (R235). -/
def execMove (job : Nat) (run : JobRun) (s : State) : Host.Outcome State Fault Refusal :=
  .next (jobCommand [0x06] job run bodyFaults movePre moveWork once s)

/-- The checks of DIGEST_CHECK (R157). -/
def digestCheckPre (s : State) (j : Job) : PreOut :=
  if !extentMapped s j.realm (dF j 48 8) 32 then .fail ⟨8, 48⟩
  else if !extentMapped s j.realm (dF j 56 8) 32 then .fail ⟨8, 56⟩
  else .go noClaim

/-- DIGEST_CHECK compares 32 bytes (R56, R239). -/
def digestCheckWork (j : Job) (s : State) : State × Except Fail JobResult :=
  match checkedRead j.realm (dF j 48 8) 32 0 s with
  | (s, .error f) => (s, .error f)
  | (s, .ok a) =>
    match checkedRead j.realm (dF j 56 8) 32 0 s with
    | (s, .error f) => (s, .error f)
    | (s, .ok b) =>
      match (a.zip b).findIdx? fun p => p.1 != p.2 with
      | some i => (s, .error ⟨0x24, i⟩)
      | none => (s, .ok (okResult j [] 0))

/-- DIGEST_CHECK (R56). -/
def execDigestCheck (job : Nat) (run : JobRun) (s : State) : Host.Outcome State Fault Refusal :=
  .next (jobCommand [0x0A] job run bodyFaults digestCheckPre digestCheckWork once s)

/-! ROOMS -/

/-- Whether a ROOMS command is for the job it names: its sub-operation, or a reserved one, which any of them ends (R229, R232). -/
def subIs (j : Job) (k : Nat) : Bool := jType j != 7 || dF j 48 1 == k || decide (6 < dF j 48 1)

/-- The table a ROOMS job names (R229). -/
def rTab (j : Job) : Nat := dF j 56 8
/-- The other address of a ROOMS body. -/
def rOther (j : Job) : Nat := dF j 64 8
/-- The value field of a ROOMS body. -/
def rValue (j : Job) : Nat := dF j 52 4
/-- The block field of a ROOMS body. -/
def rBlock (j : Job) : Nat := dF j 72 4
/-- The blocks field of a ROOMS body. -/
def rBlocks (j : Job) : Nat := dF j 76 4

/-- The checks of the table at body byte 56 (R171, R175). -/
def tablePre (s : State) (j : Job) : Option Fail :=
  let r := j.realm
  let a := rTab j
  if !extentMapped s r a 64 then some ⟨8, 56⟩
  else if tableLengthFault s r a then some ⟨8, 56⟩
  else if !tableInvalid s r a && !geometryFits s r (readTable s r a) then some ⟨0x0C, 0⟩
  else if tableInvalid s r a then some ⟨0x0F, noRoom⟩
  else none

/-- A block number or range against a table's capacity (R234). -/
def blocksFail (t : RTable) (b n : Nat) : Option Fail :=
  if b = max32 || t.capacity < b then some ⟨8, 72⟩
  else if n = max32 || t.capacity < b + n then some ⟨8, 76⟩
  else none

/-- A claim on the tables that a ROOMS job names and changes. -/
def claimTables (pin : Bool) (named changed : List Nat) : PreOut := .go ⟨pin, named, changed, 0, []⟩

/-- The tables that a ROOMS job names, and those it changes (R177, R180, R229). -/
def roomNames (j : Job) : List Nat := if dF j 48 1 = 1 then [rTab j, rOther j] else [rTab j]
def roomChanges (j : Job) : List Nat :=
  match dF j 48 1 with
  | 1 => [rOther j]
  | 5 | 6 => []
  | _ => [rTab j]

/-- The checks of a ROOMS job, once no earlier job holds it (R180). -/
def roomsPre (checks : State → Job → PreOut) (s : State) (j : Job) : PreOut :=
  whenFree s j (roomNames j) (roomChanges j) (checks s j)

/-- The first poisoned granule among some extents that a ROOMS job reads fails it (R166, R190). -/
def unlessPoisoned (j : Job) (es : List (Nat × Nat)) (work : State → State × Except Fail JobResult) (s : State) : State × Except Fail JobResult :=
  orPoison j.realm (firstSome (fun e => poisonedRead s j.realm e.1 e.2) es) 0 s (work s)

/-- The extents of a table that a job reads: its header and the entries of some places. -/
def tableReads (t : RTable) (places : List (Nat × Nat)) : List (Nat × Nat) := (t.addr, 64) :: places.map fun p => (entryAddr t p.1 p.2, 4)

/-- The two places of a table that ROOMS writes: the header around the entry-array address, and the entries. -/
def writeHeader (r a : Nat) (front back : List Byte) (s : State) : State × Option Fail :=
  match checkedWrite r a 0 front s with
  | (s, some f) => (s, some f)
  | (s, none) => checkedWrite r (a + 24) 0 back s

/-- Every entry of an array set to "no room" (R177). -/
def clearEntries (r a n : Nat) (s : State) : State × Option Fail :=
  match checkedWrite r a 0 (List.replicate (4 * n) 0xFF) s with
  | (s, some f) => (s, some f)
  | (s, none) => ((List.range n).foldl (fun s i => invalidate r (a + 4 * i) s) s, none)

/-- The entry-array address found in the header memory of a table to be created (R177). -/
def newEntries (s : State) (r a : Nat) : Nat := fieldAt (realmRead s r (a + 16) 8) 0 8

/-- The checks of the memory of a table to be created (R175, R177): its header at byte `off` of the descriptor, its entry array. -/
def newTablePre (s : State) (r a off cap groups : Nat) : Option Fail :=
  if !extentMapped s r a 64 then some ⟨8, off⟩
  else if !extentMapped s r (newEntries s r a % 2 ^ 48) (4 * cap * groups) then some ⟨8, off⟩
  else if a % 8 ≠ 0 || 2 ^ 48 ≤ newEntries s r a then some ⟨0x0F, noRoom⟩
  else none

/-- The checks of CREATE (R171, R175, R177, R234). -/
def createPre (s : State) (j : Job) : PreOut :=
  let cap := rValue j
  let heads := dF j 80 1
  let groups := dF j 81 1
  let d := dF j 82 2
  if cap = max32 || 67108864 < cap then .fail ⟨8, 52⟩
  else if cap = 0 then .go noClaim
  else match newTablePre s j.realm (rTab j) 56 cap groups with
  | some f => .fail f
  | none =>
    if heads = 0 || 64 < heads || groups = 0 || 64 < groups || d = 0 || 512 < d || d % 32 ≠ 0 then .fail ⟨0x0F, noRoom⟩
    else if roomSize s j.realm < 2 * areaLen (kvFormat s j.realm) heads d then .fail ⟨0x0C, 0⟩
    else claimTables false [rTab j] [rTab j]

/-- CREATE writes a header with length 0 and empties every entry (R177). -/
def createWork (j : Job) (s : State) : State × Except Fail JobResult :=
  if rValue j = 0 then (s, .ok (okResult j [] 0))
  else unlessPoisoned j [(rTab j, 64)] (fun s =>
    let front := leBytes 4 0 ++ leBytes 4 (rValue j) ++ leBytes 1 (dF j 80 1) ++ leBytes 1 (dF j 81 1) ++ leBytes 2 (dF j 82 2) ++
      leBytes 2 (dF j 84 2) ++ zeros 2
    match writeHeader j.realm (rTab j) front (leBytes 8 (dF j 88 8) ++ zeros 32) s with
    | (s, some f) => (s, .error f)
    | (s, none) =>
      match clearEntries j.realm (newEntries s j.realm (rTab j) % 2 ^ 48) (rValue j * dF j 81 1) s with
      | (s, some f) => (s, .error f)
      | (s, none) => (s, .ok (okResult j [] 0))) s

/-- ROOMS CREATE (R177). -/
def execRoomsCreate (job : Nat) (run : JobRun) (s : State) : Host.Outcome State Fault Refusal :=
  .next (match findJob s job with
    | some j => if subIs j 0 then jobCommand [0x07] job run bodyFaults (roomsPre createPre) createWork once s else s
    | none => s)

/-- The places (block, head group) of a table's first `n` blocks. -/
def tablePlaces (t : RTable) (lo hi : Nat) : List (Nat × Nat) :=
  ((List.range hi).filter fun b => decide (lo ≤ b)).flatMap fun b => (List.range t.groups).map fun g => (b, g)

/-- The rooms a FORK copies (R177). -/
def forkRooms (s : State) (j : Job) : List Nat :=
  let t := readTable s j.realm (rTab j)
  (tablePlaces t 0 (ceilDiv (rValue j) 64)).map fun p => tableEntry s j.realm t p.1 p.2

/-- The checks of FORK (R177, R234). -/
def forkPre (s : State) (j : Job) : PreOut :=
  match tablePre s j with
  | some f => .fail f
  | none =>
    let t := readTable s j.realm (rTab j)
    if rValue j = max32 || t.length < rValue j then .fail ⟨8, 52⟩
    else match newTablePre s j.realm (rOther j) 64 t.capacity t.groups with
    | some f => .fail f
    | none =>
      let rooms := forkRooms s j
      match rooms.find? fun q => decide (max32 ≤ (roomOf s j.realm q).count + rooms.count q) && decide (q < roomCount s j.realm) with
      | some q => .fail ⟨0x11, q⟩
      | none => claimTables true [rTab j, rOther j] [rOther j]

/-- FORK makes a table that shares the rooms of a prefix (R177). -/
def forkWork (j : Job) (s : State) : State × Except Fail JobResult :=
  let r := j.realm
  let t := readTable s r (rTab j)
  unlessPoisoned j ((rOther j, 64) :: tableReads t (tablePlaces t 0 (ceilDiv (rValue j) 64))) (fun s =>
  match firstSome (roomFault s r (pinOf s j.acc)) (forkRooms s j) with
  | some f => (s, .error f)
  | none =>
    let front := leBytes 4 (rValue j) ++ leBytes 4 t.capacity ++ leBytes 1 t.heads ++ leBytes 1 t.groups ++ leBytes 2 t.headDim ++
      leBytes 2 t.layer ++ zeros 2
    let rooms := forkRooms s j
    match checkedWrite r (rOther j) 0 front s with
    | (s, some f) => (s, .error f)
    | (s, none) =>
      match checkedWrite r (rOther j + 32) 0 (zeros 32) s with
      | (s, some f) => (s, .error f)
      | (s, none) =>
        let ea := newEntries s r (rOther j) % 2 ^ 48
        match clearEntries r ea (t.capacity * t.groups) s with
        | (s, some f) => (s, .error f)
        | (s, none) =>
          let s := rooms.zipIdx.foldl (fun s p =>
            modRoom r p.1 (fun e => { e with count := e.count + 1 }) (realmWrite r (ea + 4 * p.2) (leBytes 4 p.1) s)) s
          (s, .ok (okResult j [] 0))) s

/-- ROOMS FORK (R177). -/
def execRoomsFork (job : Nat) (run : JobRun) (s : State) : Host.Outcome State Fault Refusal :=
  .next (match findJob s job with
    | some j => if subIs j 1 then jobCommand [0x07] job run bodyFaults (roomsPre forkPre) forkWork once s else s
    | none => s)

/-- The fault of a room whose count is to be lowered: a number that names no room in use, a poisoned directory entry (R167, R184). -/
def dropFault (s : State) (r room : Nat) : Option Fail :=
  if roomCount s r ≤ room then some ⟨0x0F, room⟩
  else if s.mem.poisonDir.contains (dirKey r room) then some ⟨0x20, room⟩
  else if (roomOf s r room).count = 0 then some ⟨0x0F, room⟩
  else none

/-- The blocks from `lo` on taken out of a table, and its length set (R177). -/
def cutTable (j : Job) (lo len : Nat) (s : State) : State × Except Fail JobResult :=
  let r := j.realm
  let t := readTable s r (rTab j)
  let places := (tablePlaces t lo t.capacity).filter fun p => tableEntry s r t p.1 p.2 != noRoom
  unlessPoisoned j (tableReads t (tablePlaces t lo t.capacity)) (fun s =>
  match firstSome (fun p => dropFault s r (tableEntry s r t p.1 p.2)) places with
  | some f => (s, .error f)
  | none =>
    let s := places.foldl (fun s p => dropCount r (tableEntry s r t p.1 p.2) s) s
    let s := places.foldl (fun s p => setEntry r t p.1 p.2 noRoom s) s
    (setLength r (rTab j) len s, .ok (okResult j [] 0))) s

/-- The checks of TRUNCATE (R177, R234). -/
def truncatePre (s : State) (j : Job) : PreOut :=
  match tablePre s j with
  | some f => .fail f
  | none => if rValue j = max32 then .fail ⟨8, 52⟩ else claimTables false [rTab j] [rTab j]

/-- TRUNCATE lowers a table's length; at or above the current length it does nothing (R177). -/
def truncateWork (j : Job) (s : State) : State × Except Fail JobResult :=
  unlessPoisoned j [(rTab j, 64)] (fun s =>
    if (readTable s j.realm (rTab j)).length ≤ rValue j then (s, .ok (okResult j [] 0))
    else cutTable j (ceilDiv (rValue j) 64) (rValue j) s) s

/-- ROOMS TRUNCATE (R177). -/
def execRoomsTruncate (job : Nat) (run : JobRun) (s : State) : Host.Outcome State Fault Refusal :=
  .next (match findJob s job with
    | some j => if subIs j 2 then jobCommand [0x07] job run bodyFaults (roomsPre truncatePre) truncateWork once s else s
    | none => s)

/-- The checks of FREE. -/
def freePre (s : State) (j : Job) : PreOut :=
  match tablePre s j with
  | some f => .fail f
  | none => claimTables false [rTab j] [rTab j]

/-- ROOMS FREE (R177). -/
def execRoomsFree (job : Nat) (run : JobRun) (s : State) : Host.Outcome State Fault Refusal :=
  .next (match findJob s job with
    | some j => if subIs j 3 then jobCommand [0x07] job run bodyFaults (roomsPre freePre) (fun j s => cutTable j 0 0 s) once s else s
    | none => s)

/-- The bytes of one room image (R178). -/
def imageLen (s : State) (r : Nat) (t : RTable) : Nat := 2 * areaLen (kvFormat s r) t.heads t.headDim

/-- The home die ROOMS LOAD gives a new room: the block's stretch with the sequence placed from the first die (R179, R200). -/
def loadHome (s : State) (r : Nat) (t : RTable) (b : Nat) : Nat := homeDie s r ⟨0, 0, 0, 0, 0, 0, 0⟩ t.capacity b

/-- The checks of LOAD (R177 to R179, R234). -/
def loadPre (s : State) (j : Job) : PreOut :=
  let r := j.realm
  match tablePre s j with
  | some f => .fail f
  | none =>
    let t := readTable s r (rTab j)
    if rValue j = max32 || 64 * t.capacity < rValue j then .fail ⟨8, 52⟩
    else if rBlock j = max32 || t.capacity ≤ rBlock j then .fail ⟨8, 72⟩
    else if !extentMapped s r (rOther j) (t.groups * imageLen s r t) then .fail ⟨8, 64⟩
    else
      let need := if rValue j ≤ 64 * rBlock j then 0
        else ((List.range t.groups).filter fun g =>
          let e := tableEntry s r t (rBlock j) g
          e == noRoom || decide (1 < (roomOf s r e).count)).length
      reserveOut s j need ⟨true, [rTab j], [rTab j], 0, []⟩

/-- The rows of one head group of a block loaded from its image (R178). -/
def loadGroup (j : Job) (t : RTable) (img : List Byte) (rows g : Nat) (s : State) : State × Except Fail Unit :=
  let r := j.realm
  let kv := kvFormat s r
  let rb := rowLen kv t.headDim
  match openRoom r t (rBlock j) g t.length (loadHome s r t (rBlock j)) 0 j.acc s with
  | (s, .error f) => (s, .error f)
  | (s, .ok room) =>
    let places := (List.range 2).flatMap fun area => (List.range t.heads).map fun h => (area, h)
    runAll (fun p s =>
      let off := p.1 * areaLen kv t.heads t.headDim + p.2 * 64 * rb
      checkedRoomWrite r room off ((img.drop (g * imageLen s r t + off)).take (rows * rb)) s) places s

/-- LOAD writes one block of positions into a table and sets its length (R178). -/
def loadWork (j : Job) (s : State) : State × Except Fail JobResult :=
  let r := j.realm
  let t := readTable s r (rTab j)
  let rows := committedIn (rValue j) (rBlock j)
  unlessPoisoned j [(rTab j, 64)] (fun s =>
  match checkedRead r (rOther j) (t.groups * imageLen s r t) 0 s with
  | (s, .error f) => (s, .error f)
  | (s, .ok img) =>
    let o := if rows = 0 then (s, .ok ()) else runAll (loadGroup j t img rows) (List.range t.groups) s
    match o.2 with
    | .error f => (settleAll r j.acc [(rTab j, t.length)] o.1, .error f)
    | .ok () =>
      let s := modMem (fun m => { m with journal := m.journal.filter fun e => e.job != j.acc % 2 ^ 32 }) o.1
      (setLength r (rTab j) (rValue j) s, .ok (okResult j [] 0))) s

/-- ROOMS LOAD (R178). -/
def execRoomsLoad (job : Nat) (run : JobRun) (s : State) : Host.Outcome State Fault Refusal :=
  .next (match findJob s job with
    | some j => if subIs j 4 then jobCommand [0x07] job run bodyFaults (roomsPre loadPre) loadWork once s else s
    | none => s)

/-- The checks of SAVE (R177, R178, R234). -/
def savePre (s : State) (j : Job) : PreOut :=
  match tablePre s j with
  | some f => .fail f
  | none =>
    let t := readTable s j.realm (rTab j)
    match blocksFail t (rBlock j) (rBlocks j) with
    | some f => .fail f
    | none =>
      if rBlocks j ≠ 0 && !extentMapped s j.realm (rOther j) (rBlocks j * t.groups * imageLen s j.realm t) then .fail ⟨8, 64⟩
      else claimTables true [rTab j] []

/-- The image of one room: the rows of committed positions, zero elsewhere (R178). -/
def saveImage (s : State) (r : Nat) (t : RTable) (b g : Nat) : List Byte :=
  let kv := kvFormat s r
  let rb := rowLen kv t.headDim
  let n := committedIn t.length b
  let room := tableEntry s r t b g
  let places := (List.range 2).flatMap fun area => (List.range t.heads).map fun h => (area, h)
  places.flatMap fun p =>
    if room = noRoom then zeros (64 * rb)
    else roomRead s r room (p.1 * areaLen kv t.heads t.headDim + p.2 * 64 * rb) (n * rb) ++ zeros ((64 - n) * rb)

/-- The fault a SAVE meets at a room (R166, R184). -/
def saveFault (s : State) (r acc : Nat) (t : RTable) (b g : Nat) : Option (Fail × Option Nat) :=
  let room := tableEntry s r t b g
  if room = noRoom then none else rowsFault s r acc room t 0 (committedIn t.length b)

/-- Where a SAVE writes (R178). -/
def saveWrites (s : State) (j : Job) : List (Nat × Nat) :=
  let t := readTable s j.realm (rTab j)
  [(rOther j, rBlocks j * t.groups * imageLen s j.realm t)]

/-- SAVE copies rooms into a tensor as block images (R178). -/
def saveWork (j : Job) (s : State) : State × Except Fail JobResult :=
  let r := j.realm
  let t := readTable s r (rTab j)
  let places := tablePlaces t (rBlock j) (rBlock j + rBlocks j)
  unlessPoisoned j (tableReads t places) (fun s =>
  match firstSome (fun p => saveFault s r j.acc t p.1 p.2) places with
  | some f => (leaveOpen r (saveWrites s j) (failAt r f s), .error f.1)
  | none =>
    let bytes := places.flatMap fun p => saveImage s r t p.1 p.2
    match checkedWrite r (rOther j) 0 bytes s with
    | (s, some f) => (leaveOpen r (saveWrites s j) s, .error f)
    | (s, none) => (s, .ok (okResult j (serialiseBytes bytes) 1))) s

/-- Where a job writes its outputs (R39, R235). -/
def jobWrites (s : State) (j : Job) : List (Nat × Nat) :=
  if jType j = 0x06 then [(dF j 56 8, dF j 64 8)]
  else if jType j = 0x07 then (if dF j 48 1 = 5 then saveWrites s j else [])
  else if 0x01 ≤ jType j && jType j ≤ 0x03 then graphWrites (readGraph s j.realm (dF j 48 8 % 2 ^ 48))
  else []

/-- A running job that is stopped leaves its outputs open (R39). -/
def leaveJob (j : Job) (s : State) : State := if j.phase = .running then leaveOpen j.realm (jobWrites s j) s else s

/-- ROOMS SAVE (R178). -/
def execRoomsSave (job : Nat) (run : JobRun) (s : State) : Host.Outcome State Fault Refusal :=
  .next (match findJob s job with
    | some j => if subIs j 5 then jobCommand [0x07] job run bodyFaults (roomsPre savePre) saveWork once s else s
    | none => s)

/-! Hot and cold rooms -/

/-- Whether the cellar has free slots for a room of a realm (R172, R201). -/
def cellarFree (s : State) (r : Nat) : Bool :=
  if r = 0 then decide (0 < slotsFree s r 4) && decide (0 < slotsFree s r 5) else decide (0 < slotsFree s r 4 + slotsFree s r 5)

/-- The slots a room leaves, in limbo with the current reader epoch (R188). -/
def oldSlots (s : State) (r : Nat) (e : Room) : List SlotLimbo := e.slots.map fun x => ⟨r, x, (realmOf s r).reader⟩

/-- The guest-book entries of a room dropped on every die (R185). -/
def invalidateRoom (r room : Nat) (s : State) : State :=
  modMem (fun m => { m with books :=
    (m.books.map fun e => (e.1, e.2.filter fun g => !(g.realm == r && g.room == room))).filter fun e => !e.2.isEmpty }) s

/-- A room moved to HBM or to the cellar; its contents stay (R188, R189). -/
def moveRoom (r room : Nat) (hot : Bool) (s : State) : State :=
  let old := oldSlots s r (roomOf s r room)
  let new := newSlots s r (roomOf s r room).home hot
  let s := modRoom r room (fun e => { e with st := if hot then .hot else .cold, inHbm := hot, slots := new }) { s with freeCtr := s.freeCtr + 1 }
  drainLimbo r (invalidateRoom r room (modMem (fun m => { m with slotLimbo := m.slotLimbo ++ old }) s))

/-- Whether a cold room can be promoted (R188). -/
def canPromote (s : State) (r room : Nat) : Bool :=
  let e := roomOf s r room
  e.st == .cold && placeHot s r e.home

/-- Whether a hot room may be demoted: not used in the current or previous frame, not asked hot, a cellar slot free (R188). -/
def canDemote (s : State) (r room : Nat) : Bool :=
  let e := roomOf s r room
  let m := realmOf s r
  e.st == .hot && !m.used.contains room && !m.usedPrev.contains room && !m.askedHot.contains room && cellarFree s r

/-- The checks of PLACE (R177, R234). -/
def placePre (s : State) (j : Job) : PreOut :=
  match tablePre s j with
  | some f => .fail f
  | none =>
    match blocksFail (readTable s j.realm (rTab j)) (rBlock j) (rBlocks j) with
    | some f => .fail f
    | none => claimTables false [rTab j] []

/-- PLACE asks for blocks to be hot or cold: the request is kept, and a room that can be moved at once is (R177, R188). A partial room is
never demoted. -/
def placeWork (j : Job) (s : State) : State × Except Fail JobResult :=
  let r := j.realm
  let t := readTable s r (rTab j)
  let hot := dF j 80 1 == 0
  let places := (tablePlaces t (rBlock j) (rBlock j + rBlocks j)).filter fun p => tableEntry s r t p.1 p.2 != noRoom
  unlessPoisoned j (tableReads t (tablePlaces t (rBlock j) (rBlock j + rBlocks j))) (fun s =>
  match firstSome (fun p => roomFault s r (pinOf s j.acc) (tableEntry s r t p.1 p.2)) places with
  | some f => (s, .error f)
  | none =>
    let s := places.foldl (fun s p =>
      let room := tableEntry s r t p.1 p.2
      if hot then
        let s := modRealm r (fun m => { m with askedHot := if m.askedHot.contains room then m.askedHot else m.askedHot ++ [room] }) s
        if canPromote s r room then moveRoom r room true s else s
      else
        let s := modRealm r (fun m => { m with askedHot := m.askedHot.filter (· != room) }) s
        if canDemote s r room && committedIn t.length p.1 == 64 then moveRoom r room false s else s) s
    (s, .ok (okResult j [] 0))) s

/-- ROOMS PLACE (R177, R188). -/
def execRoomsPlace (job : Nat) (run : JobRun) (s : State) : Host.Outcome State Fault Refusal :=
  .next (match findJob s job with
    | some j => if subIs j 6 then jobCommand [0x07] job run bodyFaults (roomsPre placePre) placeWork once s else s
    | none => s)

/-! FENCE and BARRIER -/

/-- FENCE sets the realm's epoch at once and then waits for the jobs that started before it (R233). -/
def execFence (job : Nat) (s : State) : Host.Outcome State Fault Refusal :=
  .next (match findJob s job with
    | none => s
    | some j =>
      if jType j ≠ 0x09 || !mayStart s j then s
      else match headFail s j (bodyFaults j), digestFail s j with
      | some f, _ => failJob j f s
      | none, some f => failJob j f s
      | none, none =>
        let e := (realmOf s j.realm).epoch
        if dF j 48 8 ≤ e then failJob j ⟨5, e % 2 ^ 32⟩ s
        else
          let before := (s.jobs.filter fun k => k.realm == j.realm && k.phase != .accepted).map (·.acc)
          modJob job (fun k => { k with phase := .running, waitFor := before })
            (modRealm j.realm (fun m => { m with epoch := dF j 48 8 }) s))

/-- A FENCE completes when every job of its realm that started before it has completed (R233). -/
def execFenceComplete (job : Nat) (s : State) : Host.Outcome State Fault Refusal :=
  .next (match findJob s job with
    | none => s
    | some j =>
      if jType j = 0x09 && j.phase = .running && j.waitFor.all (fun a => (findJob s a).isNone) then okJob j 0 s else s)

/-- A plain BARRIER completes when it may start (R231). -/
def execBarrier (job : Nat) (s : State) : Host.Outcome State Fault Refusal :=
  .next (match findJob s job with
    | none => s
    | some j =>
      if jType j ≠ 0x0D || jDormant j || !mayStart s j then s
      else match headFail s j (bodyFaults j), digestFail s j with
      | some f, _ => failJob j f s
      | none, some f => failJob j f s
      | none, none => okJob j 0 s)

end Sys2Proof.Machine
end

