-- ==== Sys2Proof/Machine/Faults.lean ====
section
/-! DEFINITION. The reactions that several commands share: changes of the operating state, SAFE_OFF, removal of dies and engines,
the drive conditions, LIMP entry, release of realms and the stop of lodging jobs (R29 to R33, R203, R328, R334, R335, R366, R369,
R391). -/

namespace Sys2Proof.Machine

/-! Operating state -/

/-- A change of the operating state, recorded in the always-on block with its time (R28). -/
def setOp (o : OpState) (s : State) : State := { s with op := o, opLog := s.opLog ++ [(opCode o, timeWord s)] }

/-- Whether compute dies, HBM, the cellar and the whole IOD are on and boot is over (R27). -/
def running (s : State) : Bool := s.op == .warmIdle || s.op == .drive || s.op == .lodge || s.op == .limp

/-- Whether any part of the module reports faults: it is powered, and not in DORMANT (R29). -/
def powered (s : State) : Bool := s.op != .off && s.op != .dormant && !s.boot.mrstLow

/-- Whether the IOD's units, the links and the dies' fabrics are powered: in every state but SAFE_OFF and DORMANT (R27). -/
def unitsOn (s : State) : Bool := powered s && s.op != .safeOff

/-- The wear counters' registers (R396). -/
def wearKeys : List Nat :=
  (List.range 5).map K.WEAR_CYCLES_count ++ (List.range 5).map K.WEAR_HOT_minutes ++ (List.range 8).map K.WEAR_RETRAIN_count ++
  [K.WEAR_POWER_hours, K.WEAR_DORMANT_count]

/-- The wear counters written to the non-volatile store (R396). -/
def writeWear (s : State) : State :=
  { s with kept := { s.kept with wear := (wearKeys.map fun k => (k, regGet s k)).filter fun e => e.2 != 0 } }

/-- HBM and the cellar lose their contents (R33, R34). -/
def dropStacks (m : Memory) : Memory :=
  { m with win := [], room := [], poisonWin := [], poisonRoom := [], poisonDir := [], poisonRaw := [], dirs := [], slotLimbo := [],
           journal := [], books := [] }

/-- Every work in progress ended without a record (R33): jobs, the curtain, withheld results, plans, diagnoses, tests, a running RECALL. -/
def endWork (s : State) : State :=
  { s with jobs := [], curtain := none,
           lodging := { s.lodging with running := none, limpStop := false },
           isl := { s.isl with gated := [] },
           dpx := { s.dpx with testing := [], testNext := [], rejoin := [], splitNext := [], limpPair := [], diags := [] },
           engines := s.engines.map fun e => (e.1, { e.2 with tiles := [], ghosts := [], homes := [], owed := [], due := [], rehearsing := [], called := [],
                                                              staged := [], operands := [] }),
           frame := { s.frame with due := false, dueEdge := none },
           fus := { s.fus with plans := [], svcs := s.fus.svcs.map fun e => (e.1, { e.2 with due := [], work := [] }) } }

/-- Entry to SAFE_OFF (R29, R33, R396). -/
def enterSafeOff (s : State) : State := setOp .safeOff (modMem dropStacks (endWork (writeWear s)))

/-- SAFE_STATE (R335). -/
def safeState (cause src : Nat) (s : State) : State := raiseFault .manager ⟨0x060D, 4, true, src, cause, 0, 0⟩ s

/-- SAFE_OFF entered for a cause (R29); a boot that ends so reads phase 15, and code 5 where both islands have failed (R360). -/
def safeOffFor (cause : Nat) (s : State) : State :=
  if s.op = .safeOff then s
  else
    let s := if s.op = .booting then
        regSet K.BOOT_STATUS_phase 15 (if cause = 1 then regSet K.BOOT_STATUS_code 5 s else s) else s
    enterSafeOff s

/-- A class D detection by a node (R334, R335): it takes the module to SAFE_OFF and raises SAFE_STATE with its cause; a later one too, since it
has no other event of its own. -/
def classD (cause src : Nat) (s : State) : State := if powered s then safeState cause src (safeOffFor cause s) else s

/-- Whether an island is in self-test, its pair halted but not stopped from outside (R319). -/
def selfTesting (s : State) (i : Isl) : Bool := islState s i == 2 && !(islOf s i).stopped

/-- Class D under R320: reported by an island with a working core; where the only hope of one is a self-test that runs, its verdict brings the
report; else the IOD steward reports. -/
def islandsFail (s : State) : State :=
  if islRuns s .a then classD 1 (islNode .a) s
  else if islRuns s .b then classD 1 (islNode .b) s
  else if selfTesting s .a || selfTesting s .b then
    if powered s then { safeOffFor 1 s with isl := { (safeOffFor 1 s).isl with report := true } } else s
  else classD 1 iodSteward s

/-- A class D detection that raises an event of its own, before SAFE_STATE where it is the first (R335, R393). -/
def classDWith (e : Ev) (cause : Nat) (s : State) : State :=
  if !powered s then s
  else if s.op = .safeOff then raiseFault .manager e s
  else classD cause e.src (raise .manager e s)

/-! Dies and engines -/

/-- The highest reading of a die's hot spots as its registers show it, in sixteenths (R382, R384); none where all are blind. -/
def hottest (s : State) (d : Nat) : Option Int :=
  let rs := (List.range 4).flatMap fun w => [regGet s (K.THM_HOT_readingsLo d w), regGet s (K.THM_HOT_readingsHi d w)]
  ((rs.take (if d = 4 then 4 else 8)).filter (· != 0x8000)).foldl (fun a r => match a with
    | none => some (toSigned 16 r)
    | some x => some (max x (toSigned 16 r))) none

/-- The hottest reading, or the lowest that the register code gives. -/
def hotOr (s : State) (d : Nat) : Int := (hottest s d).getD (-32768)

/-- Whether the vehicle realm has lost a side's dies and the other side's too (R334). -/
def vehicleGone (s : State) : Bool := (List.range 4).all fun d => !dieIn s d

/-- Whether an engine (0 to 3: FUS_A, FUS_B, PLE_A, PLE_B) is in service. -/
def engineIn (s : State) (e : Nat) : Bool := !s.dpx.engOut.contains e

/-- Whether both engines of a pair are out (R334). -/
def enginesGone (s : State) : Bool := (!engineIn s 0 && !engineIn s 1) || (!engineIn s 2 && !engineIn s 3)

/-- The best of some dies for LIMP: the lowest highest reading, then the lower index (R391). -/
def coolest (s : State) (ds : List Nat) : Option Nat :=
  ds.foldl (fun a d => match a with
    | none => some d
    | some b => if hotOr s d < hotOr s b || (hotOr s d == hotOr s b && decide (d < b)) then some d else some b) none

/-- The hotter reading of a pair. -/
def pairHeat (s : State) (p : Nat × Nat) : Int := max (hotOr s p.1) (hotOr s p.2)

/-- Whether a diagnosis of a die still runs or has failed: it has passed once every array it called has, with no failure on its side (R330,
R337, R391). Where no tile of the disputed result is known on the die, its diagnosis ends with the verdict. -/
def diagPending (s : State) (d : Nat) : Bool :=
  s.dpx.diags.any fun x =>
    (match x.subj with
      | .job _ => true
      | _ => false) && !(x.arrays.any fun q => decide (4 ≤ q.1)) &&
    (let mine := x.arrays.filter fun q => q.1 == d
     (if (sideDies s true).contains d then x.failB else x.failA) || mine.isEmpty ||
     mine.any fun q => (tget Engine.init d s.engines).called.any fun c => decide (1000 ≤ c.1) && c.2.contains q.2)

/-- Whether a die qualifies for LIMP: in service, and it has passed any pending diagnosis (R391). -/
def qualifies (s : State) (d : Nat) : Bool := dieIn s d && !diagPending s d

/-- The LIMP pair chosen (R391): side A's die, then side B's. -/
def chooseLimp (s : State) : Option (Nat × Nat) :=
  let ps := duplexPairs s
  let both := ps.filter fun p => qualifies s p.1 && qualifies s p.2
  match both with
  | [p] => some p
  | p :: q :: _ => some (if pairHeat s q < pairHeat s p || (pairHeat s q == pairHeat s p && decide (q.1 < p.1)) then q else p)
  | [] =>
    match coolest s ((ps.map (·.1)).filter (qualifies s)), coolest s ((ps.map (·.2)).filter (qualifies s)) with
    | some a, some b => some (a, b)
    | _, _ => none

/-- The realm of a window key and the die quarter it lies in; 4 for the cellar. -/
def winQuarter (s : State) (k : Nat) : Nat :=
  let a := k % 2 ^ 48
  if a < cellarBase then a / max 1 (actGet s (K.MPART_HBM_win_units (k / 2 ^ 48)) * unitBytes) else 4

/-- Whether a byte of `win` lies in the stacks of a die: in its own quarter, or in the mirror of its partner's (R156, R327). -/
def winOnDie (s : State) (k key : Nat) : Bool :=
  let q := winQuarter s (key % mirrorKey)
  decide (q < 4) && (if key < mirrorKey then q == k else partnerOf s q == k)

/-- Whether a byte of `room` lies in the stacks of a die. -/
def roomOnDie (s : State) (k key : Nat) : Bool :=
  let e := tget Room.init (key / 2 ^ 20) s.mem.dirs
  let second := secondPlace e k && key / 2 ^ 52 == 0
  e.slots.any fun x => x.place == k && second == (key / mirrorOff % 2 == 1)

/-- A room that loses its slots on a die; without any slot left it is lost (R203, R328). -/
def dropSlots (k : Nat) (e : Room) : Room :=
  if (e.slots.any fun x => x.place == k) then
    let left := e.slots.filter fun x => x.place != k
    { e with slots := left, lost := left.isEmpty }
  else e

/-- What the stacks of a die that has left service held is lost; a mirrored copy elsewhere stays (R203, R328). -/
def loseDie (k : Nat) (s : State) : State :=
  modMem (fun m => { m with
    win := m.win.filter fun c => !winOnDie s k c.1,
    room := m.room.filter fun c => !roomOnDie s k c.1,
    poisonWin := m.poisonWin.filter fun g => !winOnDie s k (g * 64),
    poisonRoom := m.poisonRoom.filter fun g => !roomOnDie s k (g * 64),
    dirs := m.dirs.map fun e => (e.1, dropSlots k e.2),
    slotLimbo := m.slotLimbo.filter fun x => x.slot.place != k,
    books := m.books.filter fun e => e.1 / 1024 != k }) s

/-- The die that a journal entry moves to when its die leaves: the new home die of its block (R200, R218). -/
def newJournalDie (s : State) (e : JEntry) : Nat :=
  match s.jobs.find? fun j => j.acc % 2 ^ 32 == e.job with
  | some j => homeOn (placementList s j.realm) e.place e.cap e.by_
  | none => e.die

/-- The journal entries that a die held, rebuilt by the new home dies of their blocks (R200, R218). -/
def rehomeJournal (k : Nat) (s : State) : State :=
  modMem (fun m => { m with journal := m.journal.map fun e => if e.die = k then { e with die := newJournalDie s e } else e }) s

/-- A die of the LIMP pair replaced by the coolest qualifying die of its side, or SAFE_OFF (R391). -/
def replaceLimp (k : Nat) (s : State) : State :=
  if !s.dpx.limpPair.contains k then s
  else
    let isA := nth s.dpx.limpPair 0 0 == k
    let side := (duplexPairs s).map fun p => if isA then p.1 else p.2
    match coolest s (side.filter (qualifies s)) with
    | none => classD 8 iodSteward s
    | some d => { s with dpx := { s.dpx with limpPair := s.dpx.limpPair.map fun x => if x = k then d else x } }

/-- An engine of a compute die changed. -/
def modEngine (d : Nat) (f : Engine → Engine) (s : State) : State := { s with engines := tmod Engine.init d f s.engines }
/-- The engine of a compute die. -/
def engineOf (s : State) (d : Nat) : Engine := tget Engine.init d s.engines

/-- A compute die removed, class C, with the cause of DIE_REMOVED (R328, R334, R338). -/
def removeDie (k cause : Nat) (s : State) : State :=
  if !dieIn s k || s.op = .safeOff || !powered s then s
  else
    let s := regMod K.ID_DIES_in_service (fun v => withBit v k false) s
    let s := { s with dpx := { s.dpx with testing := s.dpx.testing.filter (· != k), testNext := s.dpx.testNext.filter (· != k),
                                          rejoin := s.dpx.rejoin.filter (· != k) } }
    let s := modEngine k (fun e => { e with tiles := [], ghosts := [], due := [], rehearsing := [], called := [], staged := [], operands := [],
                                            homes := e.homes.filter fun h => h.work.kind != .array }) s
    let s := raiseFault .manager ⟨0x060B, 3, true, iodSteward, k, cause, 0⟩ (rehomeJournal k (loseDie k s))
    if vehicleGone s then classD 0 iodSteward s
    else if s.op = .limp then replaceLimp k s
    else s

/-- An engine removed, class C (R334, R338). -/
def removeEngine (e cause : Nat) (s : State) : State :=
  if !engineIn s e || s.op = .safeOff || !powered s then s
  else
    let s := { s with dpx := { s.dpx with engOut := s.dpx.engOut ++ [e], testing := s.dpx.testing.filter (· != 4 + e),
                                          testNext := s.dpx.testNext.filter (· != 4 + e),
                                          rejoin := s.dpx.rejoin.filter (· != 4 + e) } }
    let s := raiseFault .manager ⟨0x060C, 3, true, iodSteward, e + 1, cause, 0⟩ s
    if enginesGone s then classD 0 iodSteward s else s

/-- A die removed on a decision of the holder island (R318, R334). -/
def orderRemoval (k cause : Nat) (s : State) : State := gateOr (.removeDie k cause) (removeDie k cause) s

/-- An engine removed on a decision of the holder island (R318, R334). -/
def orderEngineRemoval (e cause : Nat) (s : State) : State := gateOr (.removeEngine e cause) (removeEngine e cause) s

/-! Islands -/

/-- Whether an island holds a duty of R315 besides the watch. -/
def holdsDuty (s : State) (i : Isl) : Bool := keyIsl s == i || ageIsl s == i

/-- A split island rejoins (R323, R324): its checker passes its self-test, or the island stays SINGLE, class C. -/
def rejoinIsl (i : Isl) (pass : Bool) (s : State) : State :=
  if islState s i ≠ 1 then s
  else if pass then raise .manager ⟨0x0606, 0, false, islNode i, islNum i, 1, 0⟩ (setIsl i 0 s)
  else
    let s := raise .manager ⟨0x0606, 0, false, islNode i, islNum i, 2, 0⟩
      (modIsl i (fun x => { x with onChecker := false, oneCore := true }) (setIsl i 3 s))
    raiseFault .manager ⟨0x0602, 3, true, islNode i, islNum i, 2, 0⟩ s

/-- Both islands rejoin, SI_A first (R366, R369). -/
def rejoinBoth (passA passB : Bool) (s : State) : State := rejoinIsl .b passB (rejoinIsl .a passA s)

/-! Lodging -/

/-- A stopped lodging job's completion, counted (R366, R367): CHECKPOINTED for mode 0, ABANDONED for mode 1. -/
def stopJob (mode : Nat) (j : Job) (s : State) : State :=
  let s := failJob j ⟨if mode = 0 then 0x26 else 0x25, 0⟩ (leaveJob j s)
  let s := regInc (if mode = 0 then K.LDG_CHECKPOINTED_count else K.LDG_ABANDONED_count) s
  { s with lodging := { s.lodging with running := s.lodging.running.map fun r =>
      if mode = 0 then { r with ckpt := r.ckpt + 1 } else { r with aban := r.aban + 1 } } }

/-- Lodging jobs stopped: those that have executed nothing, and where `all` the running ones too, but for the ROOMS jobs of R434 and a FENCE,
which completes when every earlier job of its realm has (R366, R369). -/
def stopLodgers (mode : Nat) (all : Bool) (s : State) : State :=
  let mine := s.jobs.filter fun j => s.lodging.realms.contains j.realm &&
    (j.phase == .accepted || j.phase == .held || (all && !keepsRunning j && jType j != 9))
  mine.foldl (fun s j => stopJob mode j s) s

/-- The tiles in flight of lodged realms discarded; their checks run on, and a failure found is still recorded (R138, R140, R366). -/
def dropLodgerTiles (s : State) : State :=
  (List.range 4).foldl (fun s d => modEngine d (fun e => { e with
    tiles := e.tiles.filter fun t => !s.lodging.realms.contains t.realm,
    ghosts := e.ghosts ++ e.tiles.filter fun t => s.lodging.realms.contains t.realm }) s) s

/-- Running FENCE jobs of lodged realms completed where nothing holds them. -/
def endFencesOnce (s : State) : State :=
  (s.jobs.filter fun j => s.lodging.realms.contains j.realm && jType j == 9 && j.phase == .running &&
    j.waitFor.all fun a => (findJob s a).isNone).foldl (fun s j => okJob j 0 s) s

/-- Running FENCE jobs of lodged realms completed, each once the earlier jobs of its realm have, other FENCEs among them (R369). -/
def endFences (s : State) : State := (List.range s.jobs.length).foldl (fun s _ => endFencesOnce s) s

/-- The units of a realm unmapped in the active banks (R366). -/
def unmapUnits (r : Nat) (s : State) : State :=
  [K.MPART_HBM_win_units r, K.MPART_HBM_room_units r, K.MPART_CEL_win_units r, K.MPART_CEL_room_units r].foldl (fun s k => actSet k 0 s) s

/-- Whether a running ROOMS job holds the release back (R434). -/
def roomsRunning (s : State) : Bool := s.jobs.any fun j => s.lodging.realms.contains j.realm && keepsRunning j

/-- A realm's memory released (R159): every room freed, the directory emptied, window contents gone; poison marks stay; the reader epoch keeps
counting. -/
def releaseMemory (r : Nat) (s : State) : State :=
  let s := modMem (fun m => { m with
    win := m.win.filter fun c => c.1 % mirrorKey / 2 ^ 48 != r,
    room := m.room.filter fun c => c.1 / 2 ^ 52 != r,
    poisonDir := m.poisonDir.filter fun k => k / 2 ^ 32 != r,
    dirs := m.dirs.filter fun e => e.1 / 2 ^ 32 != r,
    slotLimbo := m.slotLimbo.filter fun x => x.realm != r }) (invalidateRealm r s)
  modRealm r (fun m => { m with used := [], usedPrev := [], askedHot := [], selected := [] }) s

/-- A realm released: its key slots cleared, units unmapped, ring unbound (R170, R366, R379). -/
def releaseRealm (cause r : Nat) (s : State) : State :=
  let s := raise (.realm r) ⟨0x0803, 0, false, islNode (keyIsl s), r, cause, 0⟩ s
  let s := releaseMemory r (modRealm r (fun m => { m with keyLoaded := false }) s)
  undRelease r (actSet (K.REALM_BIND_enabled r) 0 (unmapUnits r s))

/-- The rows of R366 from t0 + 250 ms to t0 + 300 ms, once no ROOMS job holds them (R434). -/
def releaseLodgers (cause mode : Nat) (s : State) : State :=
  if roomsRunning s then s
  else
    let s := endFences (stopLodgers mode true s)
    let s := s.lodging.realms.foldl (fun s r => releaseRealm cause r s) s
    { s with lodging := { s.lodging with realms := [], limpStop := false } }

/-- The release that waited for running ROOMS jobs at a LIMP entry, once they have completed (R369, R434); the islands then rejoin. -/
def limpRelease (s : State) : State :=
  if !s.lodging.limpStop || roomsRunning s then s
  else
    let s := releaseLodgers 1 1 s
    rejoinBoth (Config.rejoinPass s.freeCtr) (Config.rejoinPass (s.freeCtr + 1)) { s with freeCtr := s.freeCtr + 2 }

/-! LIMP -/

/-- The cause of a LIMP entry raised as FLOW_STOP (R390, R398). -/
def flowStop (cause die : Nat) (s : State) : State :=
  raise .manager ⟨0x0703, 0, true, nodeAddr 4 20 0, cause, die, regGet s K.THM_FLOW_sensor⟩ s

/-- Whether a dispute's diagnosis can no longer finish: one of the dies that it still asks about is turned off (R337). -/
def diagStuck (s : State) (acc : Nat) : Bool :=
  s.dpx.diags.any fun x => x.subj == .job acc && (List.range 4).any fun d =>
    dieIn s d && !s.dpx.limpPair.contains d && (x.arrays.isEmpty || x.arrays.any fun q => q.1 == d)

/-- Withheld results in dispute whose diagnosis cannot finish because its dies are turned off complete DUPLEX_MISMATCH; FUSE and PLAN jobs run
on engines, which stay on (R337). -/
def dropDisputes (s : State) : State :=
  (s.jobs.filter fun j => j.dispute.isSome && jType j != 4 && jType j != 5 && diagStuck s j.acc).foldl (fun s j => match j.held with
    | some r => dropResult j r ⟨0x23, regGet s K.DPX_FRAME_frame⟩ { s with dpx := { s.dpx with diags := s.dpx.diags.filter fun x => x.subj != .job j.acc } }
    | none => s) s

/-! Levels -/

/-- The sensors of a die. -/
def thermOf (s : State) (d : Nat) : DieTherm := tget DieTherm.init d s.thm.dies
/-- They changed. -/
def modTherm (d : Nat) (f : DieTherm → DieTherm) (s : State) : State :=
  { s with thm := { s.thm with dies := tmod DieTherm.init d f s.thm.dies } }

/-- The level of a cluster group (R385, R399). -/
def levelOf (s : State) (d g : Nat) : Nat := bitsAt (regGet s (K.THM_LEVEL_levels d)) (4 * g) 3

/-- Whether a hot spot is blind (R384). -/
def spotBlind (s : State) (d h : Nat) : Bool :=
  if d = 4 then bitOf (regGet s K.THM_BLIND_IOD_spots) h else bitOf (regGet s K.THM_BLIND_spots) (8 * d + h)

/-- The fastest level a group may have: its regulator's limit, and L3 under a blind hot spot (R384, R420). -/
def levelLimit (s : State) (d g : Nat) : Nat :=
  max (thermOf s d).levelCap (if spotBlind s d (2 * g) || spotBlind s d (2 * g + 1) then 3 else 0)

/-- Whether R386 throttles a die: one of its groups is slower than its regulator and its hot spots let it be. DEDUCED (log 68): a die is throttled
from a step down until its groups have stepped up again. -/
def throttles (s : State) (d : Nat) : Bool := (List.range 4).any fun g => decide (levelLimit s d g < levelOf s d g)

/-- The voltage of a group at a level, in mV (R385). -/
def levelMv (l : Nat) : Nat := nth [850, 810, 770, 720, 700, 700] l 700

/-- VDD_CD_k follows the highest level among the groups of its die (R385): the set point that the die's steward sends over AVSBus (R420). -/
def followRail (d : Nat) (s : State) : State :=
  modTherm d (fun t => { t with rail := ((List.range 4).map fun g => levelMv (levelOf s d g)).foldl max 0 }) s

/-- A group set to a level; a change of level starts its count of cool milliseconds afresh (R386). -/
def setLevel (d g l : Nat) (s : State) : State :=
  if levelOf s d g = l then s
  else regMod (K.THM_LEVEL_levels d) (fun v => v - bitsAt v (4 * g) 4 * 16 ^ g + l * 16 ^ g)
    { s with thm := { s.thm with cool := tset 0 (4 * d + g) 0 s.thm.cool } }

/-- Entry to LIMP (R29, R32, R369, R390, R391); SAFE_OFF where no pair can be made. -/
def enterLimp (cause die : Nat) (s : State) : State :=
  if s.op ≠ .warmIdle && s.op ≠ .drive && s.op ≠ .lodge then s
  else
    let s := flowStop cause die (regSet K.THM_STATUS_limp_cause cause s)
    match chooseLimp s with
    | none => classD 8 (nodeAddr 4 20 0) s
    | some p =>
      let s := setOp .limp { s with
        dpx := { s.dpx with limpPair := [p.1, p.2], testing := [], testNext := [], rejoin := [], splitNext := [] },
        engines := s.engines.map fun e => (e.1, { e.2 with
          tiles := e.2.tiles.filter fun t => (e.1 == p.1 || e.1 == p.2) && decide (t.cluster < 12),
          due := e.2.due.filter fun q => (e.1 == p.1 || e.1 == p.2) && decide (q.1 < 96),
          rehearsing := e.2.rehearsing.filter fun q => (e.1 == p.1 || e.1 == p.2) && decide (q.1 < 96),
          called := if e.1 == p.1 || e.1 == p.2 then
              (e.2.called.map fun q => (q.1, q.2.filter (· < 96))).filter fun q => !q.2.isEmpty else [] }),
        thm := { s.thm with limpAt := s.ticks, cool := [] } }
      let s := (List.range 4).foldl (fun s d => followRail d (regSet (K.THM_LEVEL_levels d) 0x5555 s)) s
      let s := dropDisputes s
      if lodgingOn s then
        limpRelease (dropLodgerTiles (stopLodgers 1 false { s with lodging := { s.lodging with limpStop := !s.lodging.realms.isEmpty } }))
      else s

/-! The drive conditions -/

/-- The words of REH_DONE and SERVICE that cover the arrays that run: groups 0 and 1 in LIMP, all otherwise (R391). -/
def liveWords (s : State) : Nat := if s.op = .limp then 3 else 6

/-- Whether every in-service array of a die that runs has passed its rehearsal, in the running frame or in the one before (R30, R145). -/
def rehearsed (s : State) (prev : Bool) (d : Nat) : Bool :=
  (List.range (liveWords s)).all fun w =>
    let sv := regGet s (K.SERVICE_arrays d w)
    let done := if prev then nth (engineOf s d).prevPass w 0 else regGet s (K.REH_DONE_arrays d w)
    Nat.land sv done == sv

/-- The dies that the drive conditions ask about: every die of the configured pairs, in LIMP the LIMP pair (R30). -/
def driveDies (s : State) : List Nat := if s.op = .limp then s.dpx.limpPair else [0, 1, 2, 3]

/-- The bits of NOT_READY (R239): an island pair not locked, a die or an engine out of service. -/
def notReady (s : State) : Nat :=
  ofBits [!islLocked s .a, !islLocked s .b, !(driveDies s).all (dieIn s), !(List.range 4).all (engineIn s)]

/-- Whether the dies and engines have passed in the frame that counts (R30). -/
def framePassed (s : State) (prev : Bool) : Bool :=
  (driveDies s).all (rehearsed s prev) &&
  (List.range 4).all fun e => (if prev then s.frame.goldenPrev else s.frame.golden).contains e

/-- Whether every condition of R30 holds. -/
def driveReady (s : State) (prev : Bool) : Bool :=
  notReady s == 0 && framePassed s prev && regGet s K.FAULT_COUNT_d == 0 && !lodgingOn s &&
  (s.op == .warmIdle || s.op == .drive || s.op == .limp)

end Sys2Proof.Machine
end

