-- ==== Sys2Proof/Machine/Golden.lean ====
section
/-! DEFINITION. Matrix products cell by cell, their residues (R45 to R48, R127, R129, R149), and the golden tile of a rehearsal (R141). -/

namespace Sys2Proof.Machine

/-! Groups and the canonical tree over them -/

/-- The terms of one group of a pair (R45 to R47): 16 in the 16-bit pairs, 64 in the others. -/
def groupWidth (f : Fmt) : Nat := if pair16 f then 16 else 64

/-- The value of a group as it leaves its cell (R127, R129): rounded once into FP32, or the INT32 value of an integer pair. -/
def groupWord (f : Fmt) (ps : List (Num × Num)) : Nat :=
  if fmtIsInt f then ofSigned 32 (ps.map fun p => numRint p.1 * numRint p.2).sum
  else ((if pair16 f then groupAligned else groupExact) (ps.map fun p => numMul p.1 p.2)).toNat

/-- A node of the canonical tree over the words of two children (R47, R48): bit 32 marks a saturation below it. -/
def addWord (int : Bool) (a b : Nat) : Nat :=
  if int then
    let v := satAdd32 (toSigned 32 a, bitOf a 32) (toSigned 32 b, bitOf b 32)
    ofSigned 32 v.1 + 2 ^ 32 * v.2.toNat
  else (f32Add (BitVec.ofNat 32 a) (BitVec.ofNat 32 b)).toNat

/-- The root of the subtree over groups q × 2^s to (q + 1) × 2^s − 1 of `count` groups; groups past the last are padding (R48, R131, R132). -/
def subtreeRoot (int : Bool) (count q s : Nat) (group : Nat → Nat) : Nat :=
  canonTree (addWord int) 0 ((List.range (2 ^ s)).map fun i => if q * 2 ^ s + i < count then group (q * 2 ^ s + i) else 0)

/-- A node of the tree over subtree roots (R129, R132): the root that was formed for it, +0.0 or 0 where all below it is padding, else the
sum of its children. -/
def joinRoots (int : Bool) (count : Nat) (root : Nat → Nat → Option Nat) : Nat → Nat → Nat
  | 0, q => (root 0 q).getD 0
  | s + 1, q =>
    match root (s + 1) q with
    | some w => w
    | none =>
      if count ≤ q * 2 ^ (s + 1) then 0
      else addWord int (joinRoots int count root s (2 * q)) (joinRoots int count root s (2 * q + 1))

/-- The levels of the canonical tree over `count` groups. -/
def treeDepth (count : Nat) : Nat := if count ≤ 1 then 0 else Nat.log2 (count - 1) + 1

/-! Residues (R149) -/

/-- The modulus M of the array residues. -/
abbrev resM : Nat := 2 ^ 31 - 1

/-- The residue of the dyadic value s × 2^x. -/
def dyadicResidue (s x : Int) : Nat := (s % Int.ofNat resM).toNat * 2 ^ (x % 31).toNat % resM

/-- The residue of a value; a NaN or an infinity adds none. -/
def numResidue : Num → Nat
  | .fin neg m e => dyadicResidue (if neg then -Int.ofNat m else Int.ofNat m) e
  | _ => 0

/-- The sum of residues modulo M. -/
def sumM (l : List Nat) : Nat := l.sum % resM

/-! The golden tile (R141) -/

/-- The fifteen operand pairs of R80 in the order of the programme. -/
def goldenPairs : List (Fmt × Fmt) :=
  [(.int8, .int8), (.int8, .int4), (.int4, .int4), (.e4m3, .e4m3), (.e4m3, .e5m2), (.e5m2, .e5m2), (.mxfp4, .mxfp4), (.mxfp4, .e4m3),
   (.mxfp4, .e5m2), (.bf16, .bf16), (.fp16, .fp16), (.bf16, .fp16), (.lv4, .bf16), (.lv4, .fp16), (.lv4, .lv4)]

/-- The bits of a unit of a format. -/
def unitBits (f : Fmt) : Nat := if fmtIsBlock f then 8 * rowBytes f 32 else if f == .int4 then 4 else 8 * fmtBytes f

/-- The 64 values along k of one row or column of a golden operand. -/
def goldenRow (pass operand : Nat) (f : Fmt) (row : Nat) : List Num :=
  (rowNums f 64 ((List.range (rowUnits f 64)).map fun u => (Config.goldenUnit pass operand row u).toNat % 2 ^ unitBits f)).map (arrayNum f)

/-- The group values of one cell in one 64-deep pass (R128, R141). -/
def goldenCell (pass : Nat) (p : Fmt × Fmt) (i j : Nat) : List Nat :=
  let w := groupWidth p.1
  (chunksOf w (64 / w) ((goldenRow pass 0 p.1 i).zip (goldenRow pass 1 p.2 j))).map (groupWord p.1)

/-- The group values of one cell in all passes, of the integer pairs or of the others. -/
def goldenGroups (int : Bool) (i j : Nat) : List Nat :=
  (goldenPairs.zipIdx.filter fun p => fmtIsInt p.1.1 == int).flatMap fun p => goldenCell p.2 p.1 i j

/-- The cells of an array. -/
def arrayCells : List (Nat × Nat) := (List.range 16).flatMap fun i => (List.range 64).map fun j => (i, j)

/-- The results and check outcomes of the golden tile in the order of its programme: the group values of every pass, the outcome of the
pass with the corrupted operand, which the checksums flag, and the tree-unit pass over the group values. -/
def goldenBytes : List Byte :=
  (goldenPairs.zipIdx.flatMap fun p => arrayCells.flatMap fun c => (goldenCell p.2 p.1 c.1 c.2).flatMap (leBytes 4)) ++ [1] ++
  arrayCells.flatMap fun c =>
    leBytes 4 (canonTree (addWord true) 0 (goldenGroups true c.1 c.2)) ++ leBytes 4 (canonTree (addWord false) 0 (goldenGroups false c.1 c.2))

/-- The bytes that a run of the golden tile forms. -/
def goldenFormed (run : GoldenRun) : List Byte := run.wrong.foldl (fun bs x => modAt bs x.1 (· ^^^ x.2)) goldenBytes

/-- Whether the signature of a run is the reference signature (R141). -/
def goldenOk (run : GoldenRun) : Bool := crc32 (goldenFormed run) == crc32 goldenBytes

/-- A run with nothing wrong passes. -/
theorem goldenOk_clean : goldenOk {} = true := by simp [goldenOk, goldenFormed]

end Sys2Proof.Machine
end

