-- ==== Sys2Proof/Machine/Tiles.lean ====
section
/-! DEFINITION. Tile operations: how a node is cut into them, what each computes, which are ready, the checks of their results
(R127, R129, R131 to R137, R148, R149). -/

namespace Sys2Proof.Machine

/-! How a node is cut (R131 to R133) -/

/-- How a node is cut into output tiles: whether it is a matrix-style product, its matrices, the blocks of rows and columns, and for a product
the groups along k and the longest run of groups. -/
structure NodeCut where
  matrix : Bool
  batches : Nat
  rows : Nat
  cols : Nat
  groups : Nat
  maxRun : Nat
  deriving DecidableEq, Repr

/-- The output blocks of an operator other than a product: 64 rows by 256 columns of its first output. -/
def vectorCut (y : TDesc) : NodeCut :=
  ⟨false, 1, ceilDiv (if tLast y = 0 then 0 else tElems y / tLast y) 64, ceilDiv (tLast y) 256, 0, 0⟩

/-- The longest run of groups: 16,384 array clocks, of 64 clocks a group, 32 in the pairs of two 4-bit formats (R128, R132). -/
def longestRun (a b : Fmt) : Nat := if (a == .int4 && b == .int4) || (a == .mxfp4 && b == .mxfp4) then 512 else 256

/-- How a node of a graph is cut (R133); ATTEND by the blocks of its output. -/
def nodeCut (g : Graph) (n : GNode) : NodeCut :=
  match gOuts g n with
  | [] => ⟨false, 0, 0, 0, 0, 0⟩
  | y :: _ =>
    match matView n ((gIns g n).map fun t => ⟨t, []⟩) y with
    | some v => ⟨true, v.batches, ceilDiv v.rows 16, ceilDiv v.cols 64, ceilDiv v.depth (groupWidth v.fmtA), longestRun v.fmtA v.fmtB⟩
    | none => vectorCut y

/-- The output tiles of a node. -/
def outTiles (c : NodeCut) : List TilePos :=
  (List.range c.batches).flatMap fun e => (List.range c.rows).flatMap fun i => (List.range c.cols).map fun j => ⟨e, i, j⟩

/-- The operation that ends an output tile: the merge of a product, the vector tile of another operator. -/
def lastWork (c : NodeCut) (p : TilePos) : TileWork := if c.matrix then .merge p else .vector p.row p.col

/-- Whether an output tile is one of the node's. -/
def inCut (c : NodeCut) (p : TilePos) : Bool := decide (p.batch < c.batches) && decide (p.row < c.rows) && decide (p.col < c.cols)

/-- Whether an operation is one of the node's (R131, R132): an array tile's run is an aligned subtree of the canonical tree, not all padding,
and no longer than 16,384 clocks. -/
def workOf (c : NodeCut) : TileWork → Bool
  | .array p q s => c.matrix && inCut c p && decide (2 ^ s ≤ c.maxRun) && decide (s ≤ treeDepth c.groups) && decide (q * 2 ^ s < c.groups)
  | .merge p => c.matrix && inCut c p
  | .vector i j => !c.matrix && inCut c ⟨0, i, j⟩

/-! What tiles compute -/

/-- The rows of an output tile of a product. -/
def tileRows (v : MatView) (p : TilePos) : List Nat := (List.range (min 16 (v.rows - 16 * p.row))).map (16 * p.row + ·)
/-- The columns of an output tile of a product. -/
def tileCols (v : MatView) (p : TilePos) : List Nat := (List.range (min 64 (v.cols - 64 * p.col))).map (64 * p.col + ·)

/-- The groups of a product along k. -/
def viewGroups (v : MatView) : Nat := ceilDiv v.depth (groupWidth v.fmtA)

/-- The products of one group of an output element, in order of k (R127). -/
def groupTerms (v : MatView) (e i j g : Nat) : List (Num × Num) :=
  let w := groupWidth v.fmtA
  (List.range (min w (v.depth - g * w))).map fun t => v.term e i j (g * w + t)

/-- The subtree roots that an array tile forms, one for each output element of its tile (R129, R131). -/
def arrayRoots (v : MatView) (p : TilePos) (q s : Nat) : List (List Nat) :=
  (tileRows v p).map fun i => (tileCols v p).map fun j =>
    subtreeRoot (fmtIsInt v.fmtA) (viewGroups v) q s fun g => groupWord v.fmtA (groupTerms v p.batch i j g)

/-- The value of an output element from the root of its whole tree. -/
def rootVal (int : Bool) (w : Nat) : DotVal :=
  if int then ⟨f32Int (toSigned 32 w), toSigned 32 w, bitOf w 32⟩ else ⟨BitVec.ofNat 32 w, 0, false⟩

/-- The element of row and column of an output tile in the roots of an array tile. -/
def rootAt (p : TilePos) (r : List (List (List Nat))) (i j : Nat) : Nat := nth (nth (nth r 0 []) (i - 16 * p.row) []) (j - 64 * p.col) 0

/-- The units of some rows of an output between two columns; the columns lie on unit borders. -/
def blockUnits (y : TDesc) (units : List Nat) (rows : List Nat) (c0 c1 : Nat) : List (List Nat) :=
  let n := rowUnits (tFmt y) (tLast y)
  let per := if fmtIsBlock (tFmt y) then 32 else 1
  rows.map fun r => (((units.drop (r * n)).take n).take (ceilDiv c1 per)).drop (c0 / per)

/-- The result of a merge tile (R131): the nodes above the subtree roots, then the epilogue of R98, for the elements of its tile. -/
def mergeUnits (v : MatView) (n : GNode) (seed : Nat) (y : TDesc) (bias : Option (List F32)) (p : TilePos)
    (roots : List (Nat × Nat × List (List (List Nat)))) : List (List (List Nat)) :=
  let int := fmtIsInt v.fmtA
  let rows := tileRows v p
  let cols := tileCols v p
  let total := fun i j =>
    joinRoots int (viewGroups v) (fun s q => (roots.find? fun x => x.1 == q && x.2.1 == s).map fun x => rootAt p x.2.2 i j) (treeDepth (viewGroups v)) 0
  let vals := (List.range v.batches).flatMap fun e => (List.range v.rows).flatMap fun i => (List.range v.cols).map fun j =>
    if e == p.batch && rows.contains i && cols.contains j then rootVal int (total i j) else ⟨0, 0, false⟩
  (matEpilogue n seed v.fmtA y bias v.cols vals).outs.map fun us =>
    blockUnits y us (rows.map (p.batch * v.rows + ·)) (64 * p.col) (64 * p.col + cols.length)

/-- The rows and the bounds of the columns of a vector tile in an output. -/
def vectorBlock (y : TDesc) (i j : Nat) : List Nat × Nat × Nat :=
  let n := if tLast y = 0 then 0 else tElems y / tLast y
  ((List.range (min 64 (n - 64 * i))).map (64 * i + ·), min (tLast y) (256 * j), min (tLast y) (256 * j + 256))

/-- The result of a vector tile: its block of each output of the operator. Block by block it is what the operator gives (R36). -/
def vectorUnits (n : GNode) (seed : Nat) (ins : List TVal) (outs : List TDesc) (i j : Nat) : List (List (List Nat)) :=
  (outs.zip (evalOp n seed ins outs).outs).map fun x =>
    let b := vectorBlock x.1 i j
    blockUnits x.1 x.2 b.1 b.2.1 b.2.2

/-! Progress of a job's nodes on the dies that work on it -/

/-- Whether a die is one of side B's. -/
def onSideB (s : State) (d : Nat) : Bool := (sideDies s true).contains d

/-- The dies that share the work of a realm's jobs with a die: in duplex those of its side, each side doing all of it (R326). -/
def workMates (s : State) (r d : Nat) : List Nat :=
  if r = 0 then (if diesDuplex s then sideDies s (onSideB s d) else (List.range 4).filter (vehicleDie s)) else placementList s r

/-- Whether a die takes tiles of a realm's jobs: a serving die of the vehicle realm, a die of the realm's partition (R200, R365). -/
def dieTakes (s : State) (r d : Nat) : Bool := (workMates s r d).contains d

/-- The retired tiles of a node. -/
def nodeHomes (s : State) (r d job node : Nat) : List Home :=
  (workMates s r d).flatMap fun k => (engineOf s k).homes.filter fun h => h.job == job && h.node == node

/-- The tiles of a node in flight. -/
def nodeTiles (s : State) (r d job node : Nat) : List Tile :=
  (workMates s r d).flatMap fun k => (engineOf s k).tiles.filter fun t => t.job == job && t.node == node

/-- What of a node is issued as one die sees it: the tiles in flight, and those that another die owes (R21). -/
def nodeIssued (s : State) (r d job node : Nat) : List TileWork :=
  (nodeTiles s r d job node).map (·.work) ++
    ((workMates s r d).filter (· != d)).flatMap fun k => ((engineOf s k).owed.filter fun o => o.job == job && o.node == node).map (·.work)

/-- Whether a node has no unretired tile (R136): every output tile's last operation has retired. -/
def nodeDone (s : State) (d : Nat) (j : Job) (g : Graph) (n : GNode) : Bool :=
  let hs := nodeHomes s j.realm d j.acc n.idx
  let c := nodeCut g n
  (outTiles c).all fun p => hs.any fun h => h.work == lastWork c p

/-- Whether two lists of extents share a byte. -/
def extentsMeet (a b : List TDesc) : Bool := a.any fun x => b.any (overlaps x)

/-- Whether the earlier nodes that a node reads from have all retired (R136). -/
def inputsReady (s : State) (d : Nat) (j : Job) (g : Graph) (n : GNode) : Bool :=
  (g.nodes.take n.idx).all fun m => !extentsMeet (gOuts g m) (gIns g n) || nodeDone s d j g m

/-- Whether the earlier nodes that read or write what a node writes have all retired (R91, R137). -/
def outputsFree (s : State) (d : Nat) (j : Job) (g : Graph) (n : GNode) : Bool :=
  (g.nodes.take n.idx).all fun m => !(extentsMeet (gOuts g m) (gOuts g n) || extentsMeet (gIns g m) (gOuts g n)) || nodeDone s d j g m

/-- The runs of groups of an output tile, in order of issue or retirement. -/
def runsAt (p : TilePos) (l : List TileWork) : List (Nat × Nat) :=
  l.filterMap fun
    | .array x q s => if x = p then some (q, s) else none
    | _ => none

/-- Whether a group lies in one of some runs. -/
def inRuns (l : List (Nat × Nat)) (g : Nat) : Bool := l.any fun x => g / 2 ^ x.2 == x.1

/-- Whether a tile operation can be issued now, its node's inputs ready (R136): it is neither in flight nor retired; an array tile takes no
group of its output tile twice, a merge tile follows the array tiles of all groups. -/
def workReady (c : NodeCut) (issued retired : List TileWork) : TileWork → Bool
  | .array p q s =>
    let l := runsAt p (issued ++ retired)
    (List.range (2 ^ s)).all fun i => !inRuns l (q * 2 ^ s + i)
  | .merge p => !(issued ++ retired).contains (.merge p) && (List.range c.groups).all (inRuns (runsAt p retired))
  | .vector i j => !(issued ++ retired).contains (.vector i j)

/-- How many output tiles of a node have an operation that can be issued now. -/
def readyCount (s : State) (d : Nat) (j : Job) (g : Graph) (n : GNode) : Nat :=
  if !inputsReady s d j g n then 0
  else
    let c := nodeCut g n
    let issued := nodeIssued s j.realm d j.acc n.idx
    let retired := (nodeHomes s j.realm d j.acc n.idx).map (·.work)
    ((outTiles c).filter fun p => workReady c issued retired (lastWork c p) ||
      (c.matrix && (List.range c.groups).any fun q => !inRuns (runsAt p (issued ++ retired)) q)).length

/-- The oldest node that still has an unretired tile (R136). -/
def oldestNode (s : State) (d : Nat) (j : Job) (g : Graph) : Nat :=
  match g.nodes.find? fun n => !nodeDone s d j g n with
  | some n => n.idx
  | none => g.nodes.length

/-- Whether a node lies within the run-ahead limit of its job (R136, R153). -/
def withinRunAhead (s : State) (d : Nat) (j : Job) (g : Graph) (node : Nat) : Bool :=
  decide (node ≤ oldestNode s d j g + clampNat 1 64 (regGet s (K.ENG_RUNAHEAD_nodes d)))

/-- The graph of a job. -/
def jobGraph (s : State) (j : Job) : Graph := readGraph s j.realm (dF j 48 8 % 2 ^ 48)

/-- Whether a job's tiles may be issued: a graph job that executes and has not been stopped. -/
def tilesRun (s : State) (j : Job) : Bool :=
  (jType j == 1 || jType j == 2 || jType j == 3) && (j.phase == .running || j.phase == .withheld) && !lodgerStopped s j

/-- How many tiles of a job are ready for a die, before node `upTo`. -/
def jobReady (s : State) (d : Nat) (j : Job) (upTo : Nat) : Nat :=
  if !tilesRun s j || !dieTakes s j.realm d then 0
  else
    let g := jobGraph s j
    (((g.nodes.take upTo).filter fun n => withinRunAhead s d j g n.idx).map (readyCount s d j g)).sum

/-- How many tiles of a job are ready for a die. -/
def jobReadyAll (s : State) (d : Nat) (j : Job) : Nat := jobReady s d j (jobGraph s j).nodes.length

/-- How many tiles of a realm are ready for a die. -/
def realmReady (s : State) (d r : Nat) : Nat := ((s.jobs.filter fun j => j.realm == r).map (jobReadyAll s d)).sum

/-! The result of a tile, and its home -/

/-- The result of a tile, formed from its operands as memory holds them and from the tree stacks (R131, R137). ATTEND's products and ledger
passes leave nothing but what the job's execution writes: DESIGN CHOICE, notes/assumptions/86. -/
def tileResult (s : State) (d : Nat) (j : Job) (n : GNode) (ins : List TVal) (outs : List TDesc) (w : TileWork) : List (List (List Nat)) :=
  match outs with
  | [] => []
  | y :: _ =>
    match w, matView n ins y with
    | .array p q k, some v => [arrayRoots v p q k]
    | .merge p, some v =>
      mergeUnits v n (jSeed j) y (matBias ins) p ((nodeHomes s j.realm d j.acc n.idx).filterMap fun h =>
        match h.work with
        | .array x q k => if x = p then some (q, k, h.result) else none
        | _ => none)
    | .vector a b, none => if isAttend n then [] else vectorUnits n (jSeed j) ins outs a b
    | _, _ => []

/-- The copy of a mirrored quarter that side A, or side B, works on (R327). -/
def sideOff (s : State) (b : Bool) (q : Nat) : Nat := if decide (q < partnerOf s q) == !b then 0 else mirrorKey

/-- Bytes that a side writes: into its own copy of the mirrored window, elsewhere as every write (R327). -/
def sideWrite (b : Bool) (r a : Nat) (bs : List Byte) (s : State) : State :=
  if mirrored r a && diesDuplex s then
    bs.zipIdx.foldl (fun s x => { s with mem := copyWrite r (a + x.2) (sideOff s b (quarterOf s (a + x.2))) [x.1] s.mem }) s
  else realmWrite r a bs s

/-- The units of one row of a tensor, whole in every bit. -/
def rowRaw (s : State) (r : Nat) (t : TDesc) (row : Nat) : List Nat :=
  unpackRaw (tFmt t) (tLast t) ((rowSegs t row).flatMap fun g => realmRead s r g.1 g.2)

/-- Units of a block written into a row of a tensor from a unit on; a row with a poisoned granule is left to the job's own write. -/
def rowHome (b : Bool) (r : Nat) (t : TDesc) (row u0 : Nat) (units : List Nat) (s : State) : State :=
  if (rowSegs t row).any fun g => (poisonedRead s r g.1 g.2).isSome then s
  else
    let old := rowRaw s r t row
    (rowWrites t row (old.take u0 ++ units ++ old.drop (u0 + units.length))).foldl (fun s w => sideWrite b r w.1 w.2 s) s

/-- A block of an output written home into its tensor (R137). -/
def blockHome (b : Bool) (r : Nat) (t : TDesc) (rows : List Nat) (c0 : Nat) (block : List (List Nat)) (s : State) : State :=
  let per := if fmtIsBlock (tFmt t) then 32 else 1
  (rows.zip block).foldl (fun s x => rowHome b r t (nth (tRows t) x.1 (tBase t)) (c0 / per) x.2 s) s

/-- A tile's result written home (R137): a merge or vector tile's into the tensors of its node, a subtree root into the tree stacks alone. -/
def writeHome (s : State) (d : Nat) (j : Job) (g : Graph) (n : GNode) (t : Tile) : State :=
  let outs := gOuts g n
  let b := onSideB s d
  match t.work, outs with
  | .merge p, y :: _ =>
    match matView n ((gIns g n).map fun x => ⟨x, []⟩) y with
    | some v => blockHome b j.realm y ((tileRows v p).map (p.batch * v.rows + ·)) (64 * p.col) (nth t.result 0 []) s
    | none => s
  | .vector a c, _ =>
    (outs.zip t.result).foldl (fun s x => let k := vectorBlock x.1 a c; blockHome b j.realm x.1 k.1 k.2.1 x.2 s) s
  | _, _ => s

/-! Checks (R148, R149) -/

/-- The amount by which a fault changes the residue accumulator of a cell. -/
def cellDelta (f : TileFault) (i j : Nat) : Nat := sumM ((f.cells.filter fun x => x.1.val == i && x.2.1.val == j).map (·.2.2))

/-- Whether the residue of a cell's exact group sum differs from that of its accumulator. -/
def groupFault (f : TileFault) : Bool := f.groups.any fun x => dyadicResidue x.2.2 0 != 0

/-- The places along k of an array tile. -/
def runPlaces (v : MatView) (q s : Nat) : List Nat :=
  let w := groupWidth v.fmtA
  (List.range (min (2 ^ s * w) (v.depth - q * 2 ^ s * w))).map (q * 2 ^ s * w + ·)

/-- The residue accumulator of a cell at the end of an array tile: the residues of its exact products, and what a fault changes. -/
def cellResidue (v : MatView) (p : TilePos) (q s : Nat) (f : TileFault) (i j : Nat) : Nat :=
  sumM (((runPlaces v q s).map fun k => let x := v.term p.batch i j k; numResidue x.1 * numResidue x.2 % resM) ++
    [cellDelta f (i - 16 * p.row) (j - 64 * p.col)])

/-- The factor of a row at a place along k, zero where the product is. -/
def rowResidue (v : MatView) (e i k : Nat) : Nat := if v.inside i k then numResidue (v.a e i k) else 0

/-- The two congruences of an array tile (R149), over every column and every row. -/
def checksumsHold (v : MatView) (p : TilePos) (q s : Nat) (f : TileFault) : Bool :=
  let rows := tileRows v p
  let cols := tileCols v p
  let ks := runPlaces v q s
  (cols.all fun j => sumM (rows.map fun i => cellResidue v p q s f i j) ==
    sumM (ks.map fun k => sumM (rows.map fun i => rowResidue v p.batch i k) * numResidue (v.b p.batch k j) % resM)) &&
  (rows.all fun i => sumM (cols.map fun j => cellResidue v p q s f i j) ==
    sumM (ks.map fun k => rowResidue v p.batch i k * sumM (cols.map fun j => numResidue (v.b p.batch k j)) % resM))

/-- Whether the modulo-7 residues show an error of a vector lane, a tree adder or a rounding step. -/
def laneFault (f : TileFault) : Bool := f.lanes.any fun e => e % 7 != 0

/-- What SEC-DED makes of a stored word with wrong bits: `some false` corrected, `some true` a double-bit error. -/
def secDed (ctr : Nat) (x : BitVec 72 × Nat) : Option Bool :=
  match popCount 72 x.1.toNat with
  | 0 => none
  | 1 => some false
  | 2 => some true
  | _ => some (Config.manyBits ctr x.2)

/-- Whether the parity of a stored byte is wrong. -/
def parityBad (b : BitVec 9) : Bool := popCount 9 b.toNat % 2 == 1

/-- Whether the checks of the array find a fault on a tile. -/
def arrayFault (v : Option MatView) (w : TileWork) (f : TileFault) : Bool :=
  match w, v with
  | .array p q s, some v => groupFault f || !checksumsHold v p q s f
  | .array _ _ _, none => groupFault f || f.cells.any fun x => cellDelta f x.1.val x.2.1.val != 0
  | _, _ => false

/-- Whether a fault touched what a tile computes. -/
def touched (f : TileFault) : Bool :=
  (f.groups.any fun x => x.2.2 != 0) || (f.cells.any fun x => x.2.2 != 0) || (f.lanes.any (· != 0)) || (f.ledger.any (· != 0)) || (f.common.any (· != 0))

/-- The result of a tile that passed its checks: where a fault slipped through them, its words are free. -/
def passedResult (ctr : Nat) (f : TileFault) (r : List (List (List Nat))) : List (List (List Nat)) :=
  if !touched f then r else r.map fun o => o.zipIdx.map fun row => row.1.zipIdx.map fun x => (Config.slippedWord ctr (65536 * row.2 + x.2)).toNat

end Sys2Proof.Machine
end

