-- ==== Sys2Proof/Machine/Engine.lean ====
section
/-! DEFINITION. The engine of a compute die: the tile window, tile checks, rehearsals, withdrawal, frames and keep-warm loops
(R131 to R153, R391, R394). -/

namespace Sys2Proof.Machine

/-! Arrays -/

/-- The index of an array of a die: 8 for each cluster before its own (R153). -/
def arrayIdx (c : Fin 24) (a : Fin 8) : Nat := c.val * 8 + a.val

/-- Whether an array is in service (R153). -/
def arrayIn (s : State) (d i : Nat) : Bool := bitOf (regGet s (K.SERVICE_arrays d (i / 32))) (i % 32)

/-- Whether a cluster has an array in service. -/
def clusterIn (s : State) (d c : Nat) : Bool := (List.range 8).any fun a => arrayIn s d (c * 8 + a)

/-- Whether an array is not power-gated: in LIMP only groups 0 and 1 of the LIMP pair run (R391). -/
def arrayOn (s : State) (d i : Nat) : Bool :=
  dieIn s d && (s.op != .limp || (s.dpx.limpPair.contains d && decide (i < 96)))

/-- The in-service arrays of a die that run, in rehearsal order (R143). -/
def liveArrays (s : State) (d : Nat) : List Nat := (List.range 192).filter fun i => arrayIn s d i && arrayOn s d i

/-- A pass of an array recorded for the running frame (R145, R146). -/
def markPass (d i : Nat) (s : State) : State := regMod (K.REH_DONE_arrays d (i / 32)) (fun v => withBit v (i % 32) true) s

/-- The last fault record is one of class A (R333). -/
def recordA (src : Nat) (s : State) : State := recordFault 1 src { s with lastClass := 1 }

/-- Tiles in flight discarded, to be issued again by the steward (R21, R150); what a job's tiles have failed at stays known. -/
def discardTiles (d : Nat) (which : Tile → Bool) (s : State) : State :=
  modEngine d (fun e => { e with
    tiles := e.tiles.filter fun t => !which t,
    owed := e.owed ++ (e.tiles.filter which).map fun t => ⟨t.job, t.node, t.work, t.failed⟩ }) s

/-- A tile on an array: the place of an array tile. -/
def onArray (t : Tile) (i : Nat) : Bool := t.work.kind == .array && t.cluster * 8 + t.array == i

/-- An array withdrawn from service with the tiles it holds discarded to be issued again; a die left with no cluster is removed (R21, R145,
R151). A rehearsal due on it is not run. -/
def withdrawArray (d i : Nat) (s : State) : State :=
  if !arrayIn s d i then s
  else
    let s := regMod (K.SERVICE_arrays d (i / 32)) (fun v => withBit v (i % 32) false) s
    let s := regMod (K.DET_WITHDRAWN_arrays d) (fun v => min 192 (v + 1)) s
    let s := modEngine d (fun e => { e with
      due := e.due.filter fun q => q.1 != i,
      rehearsing := e.rehearsing.filter fun q => q.1 != i,
      called := (e.called.map fun q => (q.1, q.2.filter (· != i))).filter fun q => !q.2.isEmpty }) (discardTiles d (fun t => onArray t i) s)
    let s := recordA (nodeAddr d 0 0) s
    if (List.range 24).all fun c => !clusterIn s d c then orderRemoval d 2 s else s

/-- A cluster withdrawn: every array of it, and the tiles of its vector unit (R21, R150, R151). -/
def withdrawCluster (d c : Nat) (s : State) : State :=
  discardTiles d (fun t => t.cluster == c) ((List.range 8).foldl (fun s a => withdrawArray d (c * 8 + a) s) s)

/-! The ramp of the mean reading (R395) -/

/-- The sum and number of a die's readings (R382, R394). -/
def readingSum (s : State) (d : Nat) : Int × Nat :=
  let rs := (List.range 4).flatMap fun w => [regGet s (K.THM_HOT_readingsLo d w), regGet s (K.THM_HOT_readingsHi d w)]
  let good := ((rs.take (if d = 4 then 4 else 8)).filter (· != 0x8000)).map (toSigned 16)
  (good.sum, good.length)

/-- How far the mean reading of a die has risen over the last second, in sixteenths of a kelvin over a denominator. -/
def meanRise (s : State) (d : Nat) : Int × Nat :=
  let m := readingSum s d
  match (tget DieTherm.init d s.thm.dies).means.getLast? with
  | some o => (m.1 * Int.ofNat o.2.2 - o.2.1 * Int.ofNat m.2, m.2 * o.2.2)
  | none => (0, 1)

/-- The ramp limit in force in sixteenths of a kelvin a second (R395, R399). -/
def rampLimit (s : State) : Int := Int.ofNat (16 * clampNat 1 10 (actGet s K.THM_RAMP_k_s))

/-- Whether the ramp rule is in force on a die: not in LIMP, SAFE_OFF or a power-down, nor while R386 throttles it (R395). -/
def rampRules (s : State) (d : Nat) : Bool :=
  (s.op == .warmIdle || s.op == .drive || s.op == .lodge) && !throttles s d

/-- Whether the mean reading of a die has risen by the limit within the second, which holds back lodging tiles and keep-warm loops (R395). -/
def risesFast (s : State) (d : Nat) : Bool :=
  let r := meanRise s d
  rampRules s d && decide (rampLimit s * Int.ofNat r.2 ≤ r.1)

/-- Whether the mean reading of a die has fallen by the limit within the second, which keep-warm loops then slow (R395). -/
def fallsFast (s : State) (d : Nat) : Bool :=
  let r := meanRise s d
  rampRules s d && decide (r.1 ≤ -(rampLimit s * Int.ofNat r.2)) && decide (0 < r.2)

/-! The tile window -/

/-- The places of the tile window held for vehicle-realm tiles (R134, R153). -/
def vehTiles (s : State) (d : Nat) : Nat := min 1024 (actGet s (K.ENG_VEH_RESERVE_tiles d))

/-- Whether the window has a place for a tile of a realm (R134). -/
def windowFree (s : State) (d realm : Nat) : Bool :=
  let ts := (engineOf s d).tiles
  decide (ts.length < 2048) &&
  (realm == 0 || decide ((ts.filter fun t => t.realm != 0).length < 2048 - vehTiles s d))

/-- Whether an array rehearses or is called to an out-of-turn rehearsal. -/
def atRehearsal (e : Engine) (i : Nat) : Bool := e.rehearsing.any (fun q => q.1 == i) || e.called.any fun q => q.2.contains i

/-- Whether the place of a tile can take it: in service, running, not rehearsing, and for the vehicle realm passed in the frame before
(R141, R145). -/
def placeTakes (s : State) (d : Nat) (kind : TileKind) (realm c a : Nat) : Bool :=
  let e := engineOf s d
  match kind with
  | .array =>
    let i := c * 8 + a
    arrayIn s d i && arrayOn s d i && !atRehearsal e i && (realm != 0 || bitOf (nth e.prevPass (i / 32) 0) (i % 32))
  | _ => clusterIn s d c && arrayOn s d (c * 8) && !e.called.any fun q => q.1 == 192 + c

/-- Whether a vehicle-realm tile waits that an array of the die could take (R135, R144). -/
def vehicleWaits (s : State) (d : Nat) : Bool :=
  decide (0 < realmReady s d 0) && (List.range 192).any fun i => placeTakes s d .array 0 (i / 8) (i % 8)

/-- Whether the clusters of a die are in a burst (R144): a vehicle-realm tile waits, or more than 8 tiles are ready. -/
def inBurst (s : State) (d : Nat) : Bool :=
  decide (0 < realmReady s d 0) || decide (8 < ((List.range 8).map (realmReady s d)).sum)

/-- 100 µs in units of the time base. -/
abbrev groupGap : Nat := 100000 * 2 ^ 32

/-- Whether a due array's turn has come (R143): its cluster group has begun, and no array before it in its cluster is due or rehearsing. -/
def turnCome (s : State) (d i : Nat) : Bool :=
  let e := engineOf s d
  decide (s.frame.start + i / 48 * groupGap ≤ s.tbUnits) &&
  !(e.due.any fun q => q.1 / 8 == i / 8 && decide (q.1 < i)) && !e.rehearsing.any fun q => q.1 / 8 == i / 8

/-- The issue share of a realm (R135, R407). -/
def shareOf (s : State) (r : Nat) : Nat := max 1 (actGet s (K.PART_CTRL_share r))

/-- The issues of a realm in the running rotation of a die. -/
def spentOf (s : State) (d r : Nat) : Nat := tget 0 r (engineOf s d).spent

/-- The realms of a rotation that have tiles ready and issues left (R135). -/
def rotationLeft (s : State) (d : Nat) : List Nat :=
  ((List.range 8).drop 1).filter fun r => decide (0 < realmReady s d r) && decide (spentOf s d r < shareOf s r)

/-- Whether a tile of a realm may be the next issue (R135): vehicle-realm tiles first; the lodging realms in rotation, each with as many
issues in a round as its share, a new round where no realm with tiles ready has issues left. -/
def realmTurn (s : State) (d r : Nat) : Bool :=
  r == 0 || (!vehicleWaits s d && ((rotationLeft s d).isEmpty || (rotationLeft s d).contains r))

/-- Whether a job's tile may be the next issue in its realm (R135): no earlier job of the realm has a tile ready, nor any earlier node of the
job. -/
def jobTurn (s : State) (d : Nat) (j : Job) (node : Nat) : Bool :=
  (s.jobs.all fun k => k.realm != j.realm || decide (j.acc ≤ k.acc) || jobReadyAll s d k == 0) && jobReady s d j node == 0

/-- The issue of a realm counted in the rotation. -/
def countIssue (d r : Nat) (s : State) : State :=
  if r = 0 then s
  else
    let fresh := (rotationLeft s d).isEmpty
    modEngine d (fun e => { e with spent := tmod 0 r (· + 1) (if fresh then [] else e.spent) }) s

/-- The places at which an owed tile has failed. -/
def failedAt (e : Engine) (x : TileDesc) : List (Nat × Nat) :=
  (e.owed.filter fun o => o.job == x.job && o.node == x.node && o.work == x.work).flatMap (·.failed)

/-- What stands in the way of issuing a tile of a job's node apart from its place (R134 to R136, R365, R395). -/
def mayIssue (s : State) (d : Nat) (x : TileDesc) (j : Job) (g : Graph) (n : GNode) : Bool :=
  let r := x.realm.val
  let c := nodeCut g n
  tilesRun s j && j.realm == r && dieTakes s r d && windowFree s d r && withinRunAhead s d j g n.idx && inputsReady s d j g n &&
  workOf c x.work && workReady c (nodeIssued s r d j.acc n.idx) ((nodeHomes s r d j.acc n.idx).map (·.work)) x.work &&
  realmTurn s d r && jobTurn s d j n.idx && (r == 0 || !risesFast s d)

/-- Whether an array whose rehearsal is due at its turn must rehearse before it takes this tile (R144): there is no burst, or the array has
deferred twice. -/
def mustRehearse (s : State) (d i : Nat) : Bool :=
  (engineOf s d).due.any fun q => q.1 == i && turnCome s d i && !(inBurst s d && decide (q.2 < 2))

/-- A deferral counted where an array takes a tile while its rehearsal is due at its turn (R144). -/
def countDeferral (d i : Nat) (s : State) : State :=
  if (engineOf s d).due.any (fun q => q.1 == i) && turnCome s d i then
    regInc (K.REH_DEFER_count d) (modEngine d (fun e => { e with due := e.due.map fun q => if q.1 = i then (q.1, q.2 + 1) else q }) s)
  else s

/-- The result that a tile forms from its operands in the tile store of its cluster (R131, R137). -/
def formTile (s : State) (d : Nat) (j : Job) (g : Graph) (n : GNode) (w : TileWork) : List (List (List Nat)) :=
  tileResult s d j n ((gIns g n).map fun t => ⟨t, if n.opByte = 0x17 then tReadRaw s j.realm t else tRead s j.realm t⟩) (gOuts g n) w

/-- A tile put in flight with the result it forms. -/
def putTile (d : Nat) (x : TileDesc) (res : List (List (List Nat))) (s : State) : State :=
  let live := s.jobs.map (·.acc)
  let s := modEngine d (fun e => { e with
    tiles := e.tiles ++ [⟨e.nextTile, x.realm.val, x.job, x.node, x.work, x.cluster.val, x.array.val, failedAt e x, res⟩],
    nextTile := e.nextTile + 1,
    homes := e.homes.filter fun h => live.contains h.job,
    owed := e.owed.filter fun o => live.contains o.job && !(o.job == x.job && o.node == x.node && o.work == x.work),
    operands := (e.operands.filter fun o => live.contains o.1 && o != (x.job, x.node)) ++ [(x.job, x.node)] }) s
  regMod (K.ENG_HIGH_WATER_tiles d) (max (engineOf s d).tiles.length) s

/-- TILE_ISSUE: the steward issues a ready tile (R134 to R136, R144). -/
def issueTile (d : Nat) (x : TileDesc) (s : State) : State :=
  match findJob s x.job with
  | none => s
  | some j =>
    let g := jobGraph s j
    match g.nodes[x.node]? with
    | none => s
    | some n =>
      let c := x.cluster.val
      let a := x.array.val
      let i := c * 8 + a
      if !running s || !dieIn s d || !mayIssue s d x j g n || !placeTakes s d x.work.kind x.realm.val c a ||
         (failedAt (engineOf s d) x).contains (c, if x.work.kind = .array then a else 0) || (x.work.kind == .array && mustRehearse s d i) then s
      else
        let t := countIssue d x.realm.val s
        putTile d x (formTile s d j g n x.work) (if x.work.kind = .array then countDeferral d i t else t)

/-- TILE_ISSUE (R134, R136). -/
def execTileIssue (die : Fin 4) (tile : TileDesc) (s : State) : Host.Outcome State Fault Refusal := .next (issueTile die.val tile s)

/-- A tile taken out of the window. -/
def dropTile (d t : Nat) (s : State) : State := modEngine d (fun e => { e with tiles := e.tiles.filter fun u => u.id != t }) s

/-- A detection recorded against an array, or against a cluster (numbered from 192), and the out-of-turn rehearsal it calls for;
a detection on a rehearsing array fails that rehearsal (R150 to R152). Of a cluster every array in service rehearses, with the vector and
tree units, and the cluster's rehearsal has passed when the last of them has: DESIGN CHOICE, notes/assumptions/87. -/
def detect (d unit : Nat) (s : State) : State :=
  let arrays := if unit < 192 then [unit] else ((List.range 8).map fun a => (unit - 192) * 8 + a).filter (arrayIn s d)
  modEngine d (fun e => { e with
    detections := e.detections ++ [(unit, regGet s K.DPX_FRAME_frame)],
    rehearsing := e.rehearsing.map fun q => if arrays.contains q.1 then (q.1, true) else q,
    called := if e.called.any (fun q => q.1 == unit) || arrays.isEmpty then e.called else e.called ++ [(unit, arrays)] }) s

/-- The place by which failures of a tile are told apart (R152): its array, or for a vector unit its cluster. -/
def placeOf (t : Tile) : Nat × Nat := (t.cluster, if t.work.kind = .array then t.array else 0)

/-- A discarded tile reissued at another place of its die: another array for an array tile, another cluster for the others (R150); without
such a place it is owed until the steward issues it again. -/
def reissue (d : Nat) (t : Tile) (again : Option (Fin 24 × Fin 8)) (s : State) : State :=
  let owe := modEngine d (fun e => { e with owed := e.owed ++ [⟨t.job, t.node, t.work, t.failed⟩] }) (dropTile d t.id s)
  match again with
  | some p =>
    let u := { t with cluster := p.1.val, array := p.2.val }
    if placeTakes s d t.work.kind t.realm p.1.val p.2.val && placeOf u != placeOf t && !t.failed.contains (placeOf u) &&
       !(t.work.kind == .array && mustRehearse s d (p.1.val * 8 + p.2.val)) then
      modEngine d (fun e => { e with tiles := e.tiles.map fun x => if x.id = t.id then u else x })
        (if t.work.kind = .array then countDeferral d (p.1.val * 8 + p.2.val) s else s)
    else owe
  | none => owe

/-- A job failed by its tiles (R152): ENGINE_FAULT, a withheld result dropped with its tentative appends (R218, R239). -/
def engineFault (j : Job) (node : Nat) (s : State) : State :=
  let f : Fail := ⟨0x22, node⟩
  match j.held with
  | some r => dropResult j r f s
  | none => failJob j f (leaveOpen j.realm (graphWrites (jobGraph s j)) s)

/-- A failed check of a tile (R150, R152): the third different place fails its job with ENGINE_FAULT. -/
def failTile (d : Nat) (t : Tile) (unit : Nat) (again : Option (Fin 24 × Fin 8)) (s : State) : State :=
  let failed := if t.failed.contains (placeOf t) then t.failed else t.failed ++ [placeOf t]
  let s := detect d unit s
  if 3 ≤ failed.length then
    let s := (List.range 4).foldl (fun s k => modEngine k (fun e => { e with tiles := e.tiles.filter fun u => u.job != t.job }) s) s
    match findJob s t.job with
    | some j => engineFault j t.node s
    | none => s
  else reissue d { t with failed := failed } again s

/-- Whether the node that a tile writes in place has all its operands read: every output tile of it has been issued (R93, R137). -/
def readsSettled (s : State) (d : Nat) (j : Job) (g : Graph) (n : GNode) : Bool :=
  !extentsMeet (gIns g n) (gOuts g n) ||
    (outTiles (nodeCut g n)).all fun p => (nodeIssued s j.realm d j.acc n.idx ++ (nodeHomes s j.realm d j.acc n.idx).map (·.work)).contains
      (lastWork (nodeCut g n) p)

/-- A tile whose checks have passed retires once the relations of R91 on its output extent hold, its result written home (R137); a tile of
a job that has ended leaves the window with nothing written. -/
def retirePassed (d : Nat) (x : Tile) (f : TileFault) (s : State) : State :=
  match findJob s x.job with
  | none => dropTile d x.id s
  | some j =>
    let g := jobGraph s j
    match g.nodes[x.node]? with
    | none => dropTile d x.id s
    | some n =>
      if x.work.kind != .array && !(outputsFree s d j g n && readsSettled s d j g n) then s
      else
        let t := { x with result := passedResult s.freeCtr f x.result }
        let s := writeHome { s with freeCtr := s.freeCtr + (touched f).toNat } d j g n t
        modEngine d (fun e => { e with tiles := e.tiles.filter (fun u => u.id != x.id), homes := e.homes ++ [⟨t.job, t.node, t.work, t.cluster, t.result⟩] }) s

/-- The matrix view of a tile's node with the operands that memory holds. -/
def tileView (s : State) (x : Tile) : Option MatView :=
  match findJob s x.job with
  | none => none
  | some j =>
    let g := jobGraph s j
    match g.nodes[x.node]? with
    | none => none
    | some n =>
      match gOuts g n with
      | [] => none
      | y :: _ => matView n ((gIns g n).map fun t => ⟨t, tRead s j.realm t⟩) y

/-- The errors that a tile's SRAM reads show and correct or repeat, each recorded as class A (R150): a corrected word of the tile store,
wrong parity of the score ledger, of the common store. -/
def sramErrors (s : State) (f : TileFault) : List Bool :=
  [f.sram.zipIdx.any fun x => secDed s.freeCtr x == some false, f.ledger.any parityBad, f.common.any parityBad].filter (· == true)

/-- Tiles discarded after a double-bit error in the tile store: those that used the word (R150); a second one in the frame on the cluster
withdraws it. -/
def doubleError (d : Nat) (x : Tile) (users : List Nat) (again : Option (Fin 24 × Fin 8)) (s : State) : State :=
  let twice := (engineOf s d).doubles.contains x.cluster
  let s := recordA (nodeAddr d (x.cluster + 1) 0) (modEngine d (fun e => { e with doubles := e.doubles ++ [x.cluster] }) s)
  let s := discardTiles d (fun t => t.id != x.id && users.contains t.id && t.cluster == x.cluster) s
  let s := if (findJob s x.job).isSome then reissue d x again s else dropTile d x.id s
  if twice then withdrawCluster d x.cluster s else s

/-- What the checks of a tile find, and what follows (R148 to R150, R152); no tile with a detection retires. Only mismatches of the residues
and checksums count as detections of R151: DESIGN CHOICE, notes/assumptions/87. -/
def checkTile (d : Nat) (x : Tile) (f : TileFault) (again : Option (Fin 24 × Fin 8)) (s : State) : State :=
  let unit? := if arrayFault (tileView s x) x.work f then some (x.cluster * 8 + x.array) else if laneFault f then some (192 + x.cluster) else none
  let errs := sramErrors s f
  let s := errs.foldl (fun s _ => recordA (nodeAddr d (x.cluster + 1) 0) s) s
  match unit? with
  | some u => if (findJob s x.job).isSome then failTile d x u again s else dropTile d x.id (detect d u s)
  | none =>
    if f.sram.zipIdx.any (fun y => secDed s.freeCtr y == some true) then doubleError d x f.users again s
    else if !errs.isEmpty then s
    else retirePassed d x f s

/-- TILE_RETIRE: a finished tile passes its checks and retires, or its detection is handled; a failure found on an abandoned tile is
recorded (R137, R140, R148, R150). -/
def retireTile (d t : Nat) (f : TileFault) (again : Option (Fin 24 × Fin 8)) (s : State) : State :=
  match (engineOf s d).tiles.find? fun u => u.id == t with
  | some x => checkTile d x f again s
  | none =>
    match (engineOf s d).ghosts.find? fun u => u.id == t with
    | none => s
    | some x =>
      let s' := modEngine d (fun e => { e with ghosts := e.ghosts.filter fun u => u.id != t }) s
      if arrayFault (tileView s x) x.work f then detect d (x.cluster * 8 + x.array) s'
      else if laneFault f then detect d (192 + x.cluster) s' else s'

/-- TILE_RETIRE (R137, R150). -/
def execTileRetire (die : Fin 4) (tile : Nat) (fault : TileFault) (again : Option (Fin 24 × Fin 8)) (s : State) :
    Host.Outcome State Fault Refusal := .next (retireTile die.val tile fault again s)

/-! Rehearsals -/

/-- REHEARSAL: an array starts its golden tile, called out of turn by a detection or due at its turn in the frame, when its cluster rehearses no
other, it runs no tile and the table is good (R141 to R144, R147, R150). -/
def startRehearsal (d i : Nat) (s : State) : State :=
  let e := engineOf s d
  let called := e.called.any fun q => q.2.contains i
  let due := (e.due.any fun q => q.1 == i) && turnCome s d i
  if !running s || !arrayIn s d i || !arrayOn s d i || e.tableBad || !(called || due) ||
     e.rehearsing.any (fun q => q.1 / 8 == i / 8) || e.tiles.any (fun t => onArray t i) then s
  else modEngine d (fun e => { e with due := e.due.filter fun q => q.1 != i, rehearsing := e.rehearsing ++ [(i, false)] }) s

/-- REHEARSAL (R141). -/
def execRehearsal (die : Fin 4) (cluster : Fin 24) (array : Fin 8) (s : State) : Host.Outcome State Fault Refusal :=
  .next (startRehearsal die.val (arrayIdx cluster array) s)

/-- A rehearsal that fails on an array of a cluster that held a tile of a disputed job is its side's failure (R337). -/
def failDiag (d i : Nat) (s : State) : State :=
  let b := onSideB s d
  let note := fun (x : Diag) => if x.arrays.contains (d, i) then { x with failA := x.failA || !b, failB := x.failB || b } else x
  { s with dpx := { s.dpx with diags := s.dpx.diags.map note } }

/-- The out-of-turn rehearsals that a pass of an array ends, each that a detection called for counted as a transient, class A (R150). -/
def endCalls (d i : Nat) (s : State) : State :=
  let calls := (engineOf s d).called.map fun q => (q.1, q.2.filter (· != i))
  let ended := calls.filter fun q => q.2.isEmpty && decide (q.1 < 1000)
  ended.foldl (fun s _ => regInc (K.DET_TRANSIENT_count d) (recordA (nodeAddr d 0 0) s))
    (modEngine d (fun e => { e with called := calls.filter fun q => !q.2.isEmpty }) s)

/-- REHEARSAL_END: the signature of the run is compared (R141). A pass is recorded, and ends what a detection called for; a failure
withdraws the array, or the cluster that was called to rehearse (R145, R146, R150, R152). -/
def endRehearsal (d i : Nat) (run : GoldenRun) (s : State) : State :=
  match (engineOf s d).rehearsing.find? fun q => q.1 == i with
  | none => s
  | some q =>
    let s := modEngine d (fun e => { e with rehearsing := e.rehearsing.filter fun q => q.1 != i }) s
    if goldenOk run && !q.2 then endCalls d i (markPass d i s)
    else
      let s := failDiag d i s
      if (engineOf s d).called.any (fun c => c.1 == 192 + i / 8 && c.2.contains i) then withdrawCluster d (i / 8) s else withdrawArray d i s

/-- REHEARSAL_END (R145). -/
def execRehearsalEnd (die : Fin 4) (cluster : Fin 24) (array : Fin 8) (run : GoldenRun) (s : State) : Host.Outcome State Fault Refusal :=
  .next (endRehearsal die.val (arrayIdx cluster array) run s)

/-- REHEARSAL_TABLE_RELOAD: SI_A has reloaded the table, and arrays of the die may rehearse again (R147). -/
def execRehearsalTableReload (die : Fin 4) (s : State) : Host.Outcome State Fault Refusal :=
  .next (modEngine die.val (fun e => { e with tableBad := false }) s)

/-- The detections of a unit within the last 1,000 frames (R151). -/
def recentDetections (s : State) (d unit : Nat) : Nat :=
  ((engineOf s d).detections.filter fun x => x.1 == unit && decide (regGet s K.DPX_FRAME_frame < x.2 + 1000)).length

/-- DETECTION_LIMIT: an array or cluster with three detections within 1,000 frames is withdrawn (R151). -/
def execDetectionLimit (die : Fin 4) (cluster : Fin 24) (array : Option (Fin 8)) (s : State) : Host.Outcome State Fault Refusal :=
  .next (match array with
    | some a =>
      if recentDetections s die.val (arrayIdx cluster a) < 3 then s else withdrawArray die.val (arrayIdx cluster a) s
    | none =>
      if recentDetections s die.val (192 + cluster.val) < 3 then s else withdrawCluster die.val cluster.val s)

/-! Keep-warm loops -/

/-- Whether the mean reading of a die lies below a temperature in °C. -/
def meanBelow (s : State) (d c : Nat) : Bool :=
  let m := readingSum s d
  decide (m.1 < Int.ofNat (c * 16 * m.2))

/-- The floor temperature in force (R399). -/
def floorC (s : State) : Nat := clampNat 20 60 (actGet s K.THM_FLOOR_c)

/-- One keep-warm loop on an array with no tile: a pass counts as its rehearsal (R146, R394). -/
def warmLoop (d : Nat) (x : Fin 24 × Fin 8 × GoldenRun) (s : State) : State :=
  let i := arrayIdx x.1 x.2.1
  let e := engineOf s d
  if !arrayIn s d i || e.tableBad || e.rehearsing.any (fun q => q.1 == i) || e.tiles.any (fun t => onArray t i) then s
  else if goldenOk x.2.2 then endCalls d i (markPass d i (modEngine d (fun e => { e with due := e.due.filter fun q => q.1 != i }) s))
  else withdrawArray d i s

/-- One hour of the 500 MHz tick. -/
abbrev hourTicks : Nat := 3600 * 500000000

/-- Whether a die holds its floor with keep-warm loops: from a mean below the floor until the floor plus 2 K (R394). -/
def warming (s : State) (d : Nat) : Bool :=
  actGet s K.THM_FLOOR_enable == 1 &&
    (meanBelow s d (floorC s) || ((tget DieTherm.init d s.thm.dies).warming && meanBelow s d (floorC s + 2)))

/-- KEEPWARM_LOOP: idle arrays run the golden tile while a die holds its floor, or where finished work lets its mean fall at the ramp limit;
none does while the mean rises at the limit (R394, R395). Where the power for the floor falls short, KEEPWARM_SHORT is raised at most once
an hour. -/
def keepWarm (d : Nat) (loops : List (Fin 24 × Fin 8 × GoldenRun)) (short : Bool) (s : State) : State :=
  let warm := warming s d
  if (s.op ≠ .warmIdle && s.op ≠ .drive && s.op ≠ .lodge) || !dieIn s d || !(warm || fallsFast s d) then s
  else
    let s := { s with thm := { s.thm with dies := tmod DieTherm.init d (fun x => { x with warming := warm }) s.thm.dies } }
    let s := if risesFast s d then s else loops.foldl (fun s x => warmLoop d x s) s
    if !warm then s
    else
      let s := regSet K.THM_STATUS_keepwarm_short short.toNat s
      if short && (s.thm.warmShort.all fun t => decide (t + hourTicks ≤ s.ticks)) then
        let m := readingSum s d
        raise .manager ⟨0x070A, 0, false, nodeAddr d 0 0, d, ofSigned 16 (m.1 / Int.ofNat (max 1 m.2)), floorC s * 16⟩
          { s with thm := { s.thm with warmShort := some s.ticks } }
      else s

/-- KEEPWARM_LOOP (R394). -/
def execKeepwarmLoop (die : Fin 4) (loops : List (Fin 24 × Fin 8 × GoldenRun)) (short : Bool) (s : State) :
    Host.Outcome State Fault Refusal := .next (keepWarm die.val loops short s)

/-! Frames -/

/-- Whether the frame cue of the vehicle realm runs: a generator that is enabled with target 0, while lodging is not admitted
or the return copy of a RECALL is active again (R142, R266, R365, R366). -/
def cueGoverns (s : State) : Bool :=
  (!lodgingOn s || s.lodging.running.any (·.restored)) && (List.range 16).any fun g => actGet s (K.CUE_CTRL_enable g) == 1 && bitOf (actGet s (K.CUE_CTRL_targets g)) 0

/-- 50 ms in units of the time base. -/
abbrev frame50 : Nat := 50000000 * 2 ^ 32

/-- Whether a frame begins now (R142): at a cue edge, a swap or a restore, or 50 ms after the running frame's start. Where the time base has been
set below that start, a frame begins at once: DESIGN CHOICE, notes/assumptions/87. -/
def frameIsDue (s : State) : Bool :=
  s.frame.due || (!cueGoverns s && (decide (s.frame.start + frame50 ≤ s.tbUnits) || decide (s.tbUnits < s.frame.start)))

/-- The words of REH_DONE of a die. -/
def passWords (s : State) (d : Nat) : List Nat := (List.range 6).map fun w => regGet s (K.REH_DONE_arrays d w)

/-- The start of a frame on one die (R142, R145, R147): arrays without a pass are counted, passes start afresh, every array that runs
falls due. -/
def startDie (bad : Bool) (first : Bool) (d : Nat) (s : State) : State :=
  let words := passWords s d
  let missed := ((liveArrays s d).filter fun i => !bitOf (nth words (i / 32) 0) (i % 32)).length
  let s := if first then s else regMod (K.REH_MISSED_count d) (fun v => min 65535 (v + missed)) s
  let s := (List.range 6).foldl (fun s w => regSet (K.REH_DONE_arrays d w) 0 s) s
  let live := liveArrays s d
  modEngine d (fun e => { e with
    prevPass := words,
    due := (live.filter fun i => !(e.rehearsing.any fun q => q.1 == i)).map fun i => (i, 0),
    detections := e.detections.filter fun x => decide (regGet s K.DPX_FRAME_frame < x.2 + 1000),
    doubles := [], tableBad := e.tableBad || bad }) s

/-- The pair of an element under test: 0 and 1 the die pairs, 2 fusion, 3 planning (R338). -/
def pairOf (s : State) (el : Nat) : Nat :=
  if 6 ≤ el then 3 else if 4 ≤ el then 2
  else match (duplexPairs s).findIdx? fun p => p.1 == el || p.2 == el with
    | some i => i
    | none => 0

/-- An element that passed its extended test rejoins, its pair's count is cleared, and the next of its pair is tested (R332). -/
def rejoinElement (el : Nat) (s : State) : State :=
  let p := pairOf s el
  let next := s.dpx.testNext.filter fun e => pairOf s e == p
  let s := { s with dpx := { s.dpx with
    rejoin := s.dpx.rejoin.filter (· != el),
    testing := s.dpx.testing.filter (· != el) ++ next,
    testNext := s.dpx.testNext.filter fun e => pairOf s e != p,
    transients := s.dpx.transients.filter fun t => t.1 != p } }
  raise .manager ⟨0x060A, 0, true, islNode (keyIsl s), p, 1, 0⟩ s

/-- The elements of a pair: its dies that serve, or 4 + engine (R332). -/
def pairElements (s : State) (p : Nat) : List Nat :=
  if p < 2 then let q := nth (duplexPairs s) p (0, 1); (sortBy (fun a b => decide (a < b)) [q.1, q.2]).filter (vehicleDie s)
  else [2 * p, 2 * p + 1].filter fun e => engineServes s (e - 4)

/-- A split pair leaves for its extended test: both dies where the other pair is in service, else one element after the other; the last
element that serves is not tested (R332). -/
def beginTest (p : Nat) (s : State) : State :=
  let els := pairElements s p
  let other := decide (p < 2) && (pairElements s (1 - p)).length == 2
  if els.length < 2 && !other then s
  else { s with dpx := { s.dpx with
    testing := s.dpx.testing ++ (if other then els else els.take 1), testNext := s.dpx.testNext ++ if other then [] else els.drop 1 } }

/-- The engines with a result or plan in progress, which goes ahead of their golden workload besides two more (R310). -/
def engineBusy (s : State) : List Nat :=
  (if (List.range 4).any fun k => !(tget Svc.init k s.fus.svcs).work.isEmpty then [0, 1] else []) ++
  (if s.fus.plans.isEmpty then [] else [2, 3])

/-- FRAME_START (R142, R310, R332). -/
def startFrame (bad : List (Fin 4)) (s : State) : State :=
  if !running s || !frameIsDue s then s
  else
    let first := regGet s K.DPX_FRAME_frame == 0
    let s := regMod K.DPX_FRAME_frame (fun v => (v + 1) % 2 ^ 32) s
    let s := s.dpx.rejoin.foldl (fun s e => rejoinElement e s) s
    let s := s.dpx.splitNext.foldl (fun s p => beginTest p s) { s with dpx := { s.dpx with splitNext := [] } }
    let s := (List.range 4).foldl (fun s d => startDie (bad.any fun b => b.val == d) first d s) s
    { s with
      frame := { s.frame with due := false, dueEdge := none, start := s.tbUnits, edge := s.frame.dueEdge,
                              golden := [], goldenPrev := s.frame.golden, ahead := (engineBusy s).map fun e => (e, 3) },
      dpx := { s.dpx with transients := s.dpx.transients.filter fun t => decide (regGet s K.DPX_FRAME_frame < t.2 + 1000) },
      realms := s.realms.map fun r => (r.1, { r.2 with used := [], usedPrev := r.2.used }) }

/-- FRAME_START (R142). -/
def execFrameStart (tableBad : List (Fin 4)) (s : State) : Host.Outcome State Fault Refusal := .next (startFrame tableBad s)

end Sys2Proof.Machine
end

