-- ==== Sys2Proof/Machine/Thermal.lean ====
section
/-! DEFINITION. Sensors, levels, the flow estimate and cap, LIMP triggers and exit, wear counters, clocks and rails (R381 to R399,
R420 to R425). -/

namespace Sys2Proof.Machine

/-- The thermal controller's node (R18). -/
abbrev thmNode : Nat := 0x4500

/-- The always-on block's node (R18). -/
abbrev aonNode : Nat := 0x4540

/-- One second of the 500 MHz tick. -/
abbrev secTicks : Nat := 500000000
/-- One millisecond of the 500 MHz tick. -/
abbrev msTicks : Nat := 500000

/-- The hot spots of a die (R382). -/
def spotCount (d : Nat) : Nat := if d = 4 then 4 else 8

/-- The bit of a diode in the set of THM_DIODE_FAIL: word and bit (R399). -/
def diodeBit (d h i : Nat) : Nat × Nat := ((16 * d + 2 * h + i) / 32, (16 * d + 2 * h + i) % 32)

/-- Whether a diode has failed. -/
def diodeFailed (s : State) (d h i : Nat) : Bool :=
  bitOf (regGet s (K.THM_DIODE_FAIL_diodes (diodeBit d h i).1)) (diodeBit d h i).2

/-- The register of a hot spot's reading. -/
def hotKey (d h : Nat) : Nat := if h % 2 = 0 then K.THM_HOT_readingsLo d (h / 2) else K.THM_HOT_readingsHi d (h / 2)

/-- Groups held at or below their limits. -/
def holdLevels (d : Nat) (s : State) : State :=
  followRail d ((List.range 4).foldl (fun s g => setLevel d g (max (levelOf s d g) (levelLimit s d g)) s) s)

/-! Sampling -/

/-- A diode judged on a new sample (R383): it fails outside its range or on a step of more than 5 K. -/
def judgeDiode (d h i : Nat) (old : Option Int) (v : Int) (s : State) : State :=
  let jump := match old with
    | some o => decide (80 < v - o) || decide (80 < o - v)
    | none => false
  if diodeFailed s d h i || (-640 ≤ v && v ≤ 2400 && !jump) then s
  else
    let b := diodeBit d h i
    raiseFault .manager ⟨0x0707, 1, false, thmNode, d, 2 * h + i, ofSigned 16 v⟩
      (regMod (K.THM_DIODE_FAIL_diodes b.1) (fun w => withBit w b.2 true) s)

/-- DIODE_DISAGREE where a gap of two good diodes first exceeds 4 K, or does so again after 1 s within it (R383). -/
def judgeGap (d h : Nat) (gap : Int) (s : State) : State :=
  let t := thermOf s d
  let was := t.disagree.find? fun x => x.1 == h
  let put := fun (v : Option Nat) (s : State) =>
    modTherm d (fun t => { t with disagree := (t.disagree.filter fun x => x.1 != h) ++ [(h, v)] }) s
  if 64 < gap then
    let fresh := match was with
      | none => true
      | some (_, none) => false
      | some (_, some from_) => decide (from_ + secTicks ≤ s.ticks)
    let s := put none s
    if fresh then raise .manager ⟨0x0706, 0, false, thmNode, d, h, gap.toNat⟩ s else s
  else match was with
    | some (_, none) => put (some s.ticks) s
    | _ => s

/-- A hot spot becomes blind: class A, its group held at L3, a compute die with no reading removed (R383, R384). -/
def goBlind (d h : Nat) (s : State) : State :=
  if spotBlind s d h then s
  else
    let s := if d = 4 then regMod K.THM_BLIND_IOD_spots (fun v => withBit v h true) s
      else regMod K.THM_BLIND_spots (fun v => withBit v (8 * d + h) true) s
    let s := raiseFault .manager ⟨0x0708, 1, true, thmNode, d, h, 0⟩ (regSet (hotKey d h) 0x8000 s)
    if d = 4 then s
    else
      let s := holdLevels d s
      if bitsAt (regGet s K.THM_BLIND_spots) (8 * d) 8 = 255 then orderRemoval d 0 s else s

/-- A SAFE_OFF trigger acted on; a second detection of the same trigger has no further effect (R382). -/
def fireOnce (trigger : Nat) (act : State → State) (s : State) : State :=
  if s.thm.fired.contains trigger then s else act { s with thm := { s.thm with fired := s.thm.fired ++ [trigger] } }

/-- A hot spot's reading formed from its diodes (R383), and the SAFE_OFF trigger (R393). -/
def readSpot (d h : Nat) (x : Int × Int) (s : State) : State :=
  let old := (thermOf s d).diodes[h]?
  let s := judgeDiode d h 1 (old.map (·.2)) x.2 (judgeDiode d h 0 (old.map (·.1)) x.1 s)
  let f0 := diodeFailed s d h 0
  let f1 := diodeFailed s d h 1
  if f0 && f1 then goBlind d h s
  else
    let r := if f0 then x.2 + 80 else if f1 then x.1 + 80 else max x.1 x.2
    let s := if f0 || f1 then s else judgeGap d h (max (x.1 - x.2) (x.2 - x.1)) s
    let s := regSet (hotKey d h) (ofSigned 16 r) s
    let s := if 1520 < r then modTherm d (fun t => { t with hotMinute := true }) s else s
    if 1760 ≤ r then fireOnce (16 * d + h) (classDWith ⟨0x0705, 4, true, thmNode, d, h, ofSigned 16 r⟩ 3) s else s

/-- Turning points of a die's mean reading with 20 K of hysteresis (R396): the state of the search and the turning points found. -/
def turn (m : Int) (t : DieTherm) : DieTherm :=
  let hi := max m t.turnHi
  let lo := min m t.turnLo
  if t.rising && m + 320 < hi then { t with rising := false, turnHi := m, turnLo := m, turns := t.turns + 1 }
  else if !t.rising && lo + 320 < m then { t with rising := true, turnHi := m, turnLo := m, turns := t.turns + 1 }
  else { t with turnHi := hi, turnLo := lo }

/-- The thermal cycles of a die counted (R396). -/
def countCycles (d : Nat) (s : State) : State :=
  let m := readingSum s d
  if m.2 = 0 then s
  else
    let mean := m.1 / Int.ofNat m.2
    let t := thermOf s d
    let t := if t.diodes.isEmpty then { t with turnHi := mean, turnLo := mean } else t
    let u := turn mean t
    let s := modTherm d (fun _ => u) s
    if u.turns ≠ t.turns && u.turns % 2 = 0 then regInc (K.WEAR_CYCLES_count d) s else s

/-- The flow trackers of R29, R359, R390 on a new flow reading. -/
def trackFlow (flow : Int) (s : State) : State :=
  { s with thm := { s.thm with
    lowFrom := if flow < 300 then some (s.thm.lowFrom.getD s.ticks) else none,
    goodFrom := if 1800 ≤ flow then some (s.thm.goodFrom.getD s.ticks) else none } }

/-- A register code of a flow in 0.001 L/min. -/
def flowCode (v : Int) : Nat := (clampInt 0 65535 v).toNat

/-- A coolant sample (R382, R387): a flow outside 0 to 10 L/min fails the sensor. -/
def sampleCoolant (inlet outlet flow : Int) (s : State) : State :=
  let s := regSet K.THM_COOLANT_inlet (ofSigned 16 inlet) (regSet K.THM_COOLANT_outlet (ofSigned 16 outlet)
    (regSet K.THM_FLOW_sensor (flowCode flow) s))
  let s := { s with thm := { s.thm with
    coolant := ⟨s.ticks, inlet, outlet, flow⟩ :: s.thm.coolant.filter fun c => decide (s.ticks < c.tick + secTicks) } }
  let s := trackFlow flow s
  if (flow < 0 || 10000 < flow) && regGet s K.THM_STATUS_sensor_ok == 1 then
    raiseFault .manager ⟨0x0709, 1, true, thmNode, flowCode flow, 0, regGet s K.THM_FLOW_cal⟩ (regSet K.THM_STATUS_sensor_ok 0 s)
  else s

/-- Whether sensors are sampled (R382, R393). -/
def sensing (s : State) : Bool := powered s

/-- SENSOR_SAMPLE (R382, R383, R393). -/
def sample (x : Sample) (s : State) : State :=
  if !sensing s then s
  else match x with
  | .hotSpots die ds =>
    let d := die.val
    let ds := ds.take (spotCount d)
    let s := ds.zipIdx.foldl (fun s p => readSpot d p.2 p.1 s) s
    let s := countCycles d s
    let m := readingSum s d
    modTherm d (fun t => { t with
      warming := warming s d,
      diodes := ds ++ t.diodes.drop ds.length,
      means := (s.ticks, m.1, m.2) :: t.means.filter fun x => decide (s.ticks < x.1 + secTicks) }) s
  | .coolant i o f => sampleCoolant i o f s
  | .power ps => { s with thm := { s.thm with power := (s.ticks, ps) :: s.thm.power.filter fun p => decide (s.ticks < p.1 + secTicks) } }

/-- SENSOR_SAMPLE (R382). -/
def execSensorSample (x : Sample) (s : State) : Host.Outcome State Fault Refusal := .next (sample x s)

/-- THERMAL_TRIP: the analogue trip of a die, class D (R335, R382). -/
def execThermalTrip (die : Fin 5) (s : State) : Host.Outcome State Fault Refusal :=
  .next (if powered s then fireOnce (256 + die.val) (classDWith ⟨0x070B, 4, true, nodeAddr die.val 0 0, die.val, 0, 0⟩ 4) s else s)

/-! The flow estimate and the cap -/

/-- An exact quotient rounded once to FP32. -/
def f32Quot (a : Int) (b : Nat) : F32 := numF32 (numDiv (numInt a) (numInt (Int.ofNat b)))

/-- The mean of a list of integers over a divisor, as FP32 (R387). -/
def meanF32 (l : List Int) (unit : Nat) : F32 := f32Quot l.sum (unit * max 1 l.length)

/-- The integer part of 1,000 times an FP32 value; 0 below 0 and for NaN, 2^32 where it is too large. -/
def milli (x : F32) : Nat :=
  match f32Num x with
  | .fin false m e => if 0 ≤ e then min (2 ^ 32) (m * 1000 * 2 ^ e.toNat) else min (2 ^ 32) (m * 1000 / 2 ^ (-e).toNat)
  | .inf false => 2 ^ 32
  | _ => 0

/-- The die powers of the latest sample, in 0.1 W. -/
def powerNow (s : State) : List Nat := match s.thm.power with
  | p :: _ => p.2
  | [] => []

/-- Whether 1 s of samples has been taken since power-up (R387). -/
def fullSecond (s : State) : Bool := decide (s.boot.relTick + secTicks ≤ s.ticks)

/-- The calorimetric flow and whether it is valid (R387). -/
def calFlow (s : State) : F32 × Bool :=
  let p := meanF32 (s.thm.power.map fun x => Int.ofNat x.2.sum) 10
  let dt := f32Sub (meanF32 (s.thm.coolant.map (·.outlet)) 16) (meanF32 (s.thm.coolant.map (·.inlet)) 16)
  let fc := f32Div p (f32Mul (BitVec.ofNat 32 (actGet s K.THM_FLUID_K_k)) dt)
  (fc, fullSecond s && f32Le 0x42C80000 p && f32Le f32One dt)

/-- f_sensor (R387). -/
def sensorFlow (s : State) : F32 := f32Quot (Int.ofNat (regGet s K.THM_FLOW_sensor)) 1000

/-- The flow that the rules use (R387): 1.2 L/min while neither the sensor nor the estimate stands. -/
def flowUsed (s : State) : F32 :=
  let c := calFlow s
  if regGet s K.THM_STATUS_sensor_ok = 1 then (if c.2 then f32Min (sensorFlow s) c.1 else sensorFlow s)
  else if c.2 then c.1 else 0x3F99999A

/-- The latest inlet reading in sixteenths. -/
def inletNow (s : State) : Int := toSigned 16 (regGet s K.THM_COOLANT_inlet)

/-- The module cap in mW (R388): 420 W × f / 1.8 below 1.8 L/min, 25 W less for each kelvin of inlet above 55 °C but not below 40 W, and
the user's cap. -/
def capMilliW (s : State) : Nat :=
  let user := clampNat 40 420 (actGet s K.THM_USER_CAP_w) * 1000
  let byFlow := match f32Num (flowUsed s) with
    | .fin false m e => min 420000 (if 0 ≤ e then m * 4200000 * 2 ^ e.toNat / 18 else m * 4200000 / (18 * 2 ^ (-e).toNat))
    | .inf false => 420000
    | _ => 0
  let excess := inletNow s - 880
  let byInlet := if 0 < excess then max 40000 (420000 - (excess * 25000 / 16)).toNat else 420000
  min user (min byFlow byInlet)

/-- The estimate, its validity and the cap recomputed; FLOW_CAP where the cap has moved by a tenth (R387, R388). -/
def updateCap (s : State) : State :=
  let c := calFlow s
  let s := regSet K.THM_FLOW_cal (min 65535 (milli c.1)) (regSet K.THM_STATUS_cal_valid c.2.toNat s)
  let differs := c.2 && regGet s K.THM_STATUS_sensor_ok == 1 && f32Lt (f32Mul c.1 0x3F99999A) (sensorFlow s)
  let s := { s with thm := { s.thm with differFrom := if differs then some (s.thm.differFrom.getD s.ticks) else none } }
  let cap := capMilliW s / 1000
  let last := s.thm.capReported
  let s := regSet K.THM_CAP_w cap s
  if cap ≠ last ∧ last ≤ 10 * (max cap last - min cap last) then
    raise .manager ⟨0x0702, 0, true, thmNode, cap, milli (flowUsed s), regGet s K.THM_FLOW_sensor⟩
      { s with thm := { s.thm with capReported := cap } }
  else s

/-- FLOW_SENSOR: the sensor has exceeded the estimate by a fifth for 10 s (R387). -/
def execFlowSensor (s : State) : Host.Outcome State Fault Refusal :=
  .next (match s.thm.differFrom with
    | some t =>
      if sensing s && t + 10 * secTicks ≤ s.ticks && regGet s K.THM_STATUS_sensor_ok == 1 then
        raiseFault .manager ⟨0x0709, 1, true, thmNode, regGet s K.THM_FLOW_sensor, 1, regGet s K.THM_FLOW_cal⟩
          { s with thm := { s.thm with differFrom := some s.ticks } }
      else s
    | none => s)

/-! Sudden stop, rise, LIMP and its exit -/

/-- FLOW_STOP: f_sensor has been below 0.3 L/min for 5 ms and the sensor stands (R390). -/
def execFlowStop (s : State) : Host.Outcome State Fault Refusal :=
  .next (match s.thm.lowFrom with
    | some t => if regGet s K.THM_STATUS_sensor_ok == 1 && t + 5 * msTicks ≤ s.ticks then enterLimp 1 0 s else s
    | none => s)

/-- The rise test of one die (R389): its model moved on, and whether its unexplained rise exceeds 15 K/s. -/
def riseTest (d : Nat) (s : State) : State × Bool :=
  match hottest s d with
  | none => (s, false)
  | some h =>
    let hot := f32Quot h 16
    let t := thermOf s d
    let tin := f32Quot (inletNow s) 16
    let p := f32Quot (Int.ofNat (nth (powerNow s) d 0)) 10
    let tau := clampNat 5 200 (actGet s K.THM_TAU_ms)
    let step := fun pred => f32Add pred (f32Mul (f32Sub (f32Add tin (f32Mul (BitVec.ofNat 32 (actGet s K.THM_RDIE_k_w)) p)) pred)
      (f32Div f32One (f32Int (Int.ofNat tau))))
    let pred := step (t.pred.getD hot)
    let ex := f32Sub hot pred
    let rise := match t.excess[19]? with
      | some old => f32Mul (f32Sub ex old) 0x42480000
      | none => f32Zero
    (modTherm d (fun t => { t with pred := some pred, excess := (ex :: t.excess).take 20 }) s, f32Lt 0x41700000 rise)

/-- The rise test of every compute die, with LIMP for the first that fails it (R389, R390). -/
def riseTests (s : State) : State :=
  (List.range 4).foldl (fun s d =>
    if !dieIn s d then s
    else
      let r := riseTest d s
      if r.2 then enterLimp 2 d r.1 else r.1) s

/-- LIMP_EXIT: f_sensor has been at or above 1.8 L/min for 10 s and every hot spot is below 85 °C (R29, R392). -/
def limpExit (s : State) : State :=
  let cool := (List.range 5).all fun d => decide (hotOr s d < 1360)
  let flow := match s.thm.goodFrom with
    | some t => decide (t + 10 * secTicks ≤ s.ticks)
    | none => false
  if s.op ≠ .limp || regGet s K.THM_STATUS_sensor_ok ≠ 1 || !cool || !flow then s
  else
    let s := setOp (if s.inDrive then .drive else .warmIdle) { s with dpx := { s.dpx with limpPair := [] } }
    raise .manager ⟨0x0704, 0, false, thmNode, 0, 0, (s.ticks - s.thm.limpAt) / msTicks⟩ (regSet K.THM_STATUS_limp_cause 0 s)

/-- LIMP_EXIT (R392). -/
def execLimpExit (s : State) : Host.Outcome State Fault Refusal := .next (limpExit s)

/-! Levels -/

/-- The highest reading of a cluster group's hot spots (R386); none where both are blind. -/
def groupHot (s : State) (d g : Nat) : Option Int :=
  (([2 * g, 2 * g + 1].filter fun h => !spotBlind s d h).map fun h => toSigned 16 (regGet s (hotKey d h))).foldl
    (fun a r => match a with
      | none => some r
      | some x => some (max x r)) none

/-- Whether a die draws more than its share of the cap: 62 of 420 W (R26, R386). -/
def overShare (s : State) (d : Nat) : Bool := decide (capMilliW s * 62 < nth (powerNow s) d 0 * 100 * 420)

/-- The group that steps down for its die's power: the lowest index among those at the highest level (R386). -/
def shedGroup (s : State) (d : Nat) : Nat :=
  ([1, 2, 3] : List Nat).foldl (fun a g => if levelOf s d g < levelOf s d a then g else a) 0

/-- The next level of a group by the first applicable row (R386), and its count of cool milliseconds. -/
def nextLevel (s : State) (d g : Nat) : Nat × Nat :=
  let l := levelOf s d g
  let lim := Int.ofNat (clampNat 85 104 (actGet s K.THM_THROTTLE_c))
  let cool := tget 0 (4 * d + g) s.thm.cool
  match groupHot s d g with
  | none => (if overShare s d && shedGroup s d == g then min 5 (l + 1) else l, 0)
  | some t =>
    let n := if t < (lim - 5) * 16 then cool + 1 else 0
    if 1680 ≤ t then (min 5 (l + 2), 0)
    else if lim * 16 ≤ t then (min 5 (l + 1), 0)
    else if overShare s d then (if shedGroup s d = g then (min 5 (l + 1), 0) else (l, n))
    else if 10 ≤ n && levelLimit s d g < l then (l - 1, 0)
    else (l, n)

/-- The levels of one die set; THERMAL_THROTTLE at most once a second (R386). -/
def stepDie (s0 : State) (d : Nat) (s : State) : State :=
  let nx := (List.range 4).map fun g => nextLevel s0 d g
  let changed := (List.range 4).any fun g => (nth nx g (0, 0)).1 != levelOf s0 d g
  let s := (List.range 4).foldl (fun s g =>
    let s := setLevel d g (nth nx g (0, 0)).1 s
    { s with thm := { s.thm with cool := tset 0 (4 * d + g) (nth nx g (0, 0)).2 s.thm.cool } }) s
  let s := followRail d s
  if changed && ((thermOf s d).throttled.all fun t => decide (t + secTicks ≤ s.ticks)) then
    raise .manager ⟨0x0701, 0, false, thmNode, d, regGet s (K.THM_LEVEL_levels d), ofSigned 16 (hotOr s d)⟩
      (modTherm d (fun t => { t with throttled := some s.ticks }) s)
  else s

/-- THERMAL_THROTTLE: the 1 ms period of the controller: estimate and cap, rise test, low flow, levels (R386 to R390). In LIMP the groups stay
at L5 (R391). -/
def throttle (s : State) : State :=
  if !sensing s then s
  else
    let s := updateCap s
    let s := riseTests s
    let s := if f32Le (flowUsed s) f32One then enterLimp 3 0 s else s
    if s.op = .warmIdle || s.op = .drive || s.op = .lodge then
      (List.range 4).foldl (fun t d => if dieIn t d then stepDie s d t else t) s
    else s

/-- THERMAL_THROTTLE (R386). -/
def execThermalThrottle (s : State) : Host.Outcome State Fault Refusal := .next (throttle s)

/-! Wear, DORMANT -/

/-- WEAR_WRITE: the wear counters go to the non-volatile store (R396). -/
def execWearWrite (s : State) : Host.Outcome State Fault Refusal := .next (if s.op = .off then s else writeWear s)

/-- DORMANT_INLET_SAMPLE: a reading outside −40 to 85 °C is logged (R397). -/
def execDormantInletSample (reading : Int) (s : State) : Host.Outcome State Fault Refusal :=
  .next (if s.op = .dormant && (reading < -640 || 1360 < reading)
    then { s with thm := { s.thm with inletLog := s.thm.inletLog ++ [reading] } } else s)

/-- The wear counters that grow with time, over the ticks passed (R396): hours outside OFF and DORMANT, minutes with a reading above 95 °C. -/
def wearTime (before after : Nat) (s : State) : State :=
  if s.op = .off || s.op = .dormant then s
  else
    let hours := after / (3600 * secTicks) - before / (3600 * secTicks)
    let s := regMod K.WEAR_POWER_hours (fun v => min max32 (v + hours)) s
    if after / (60 * secTicks) = before / (60 * secTicks) then s
    else (List.range 5).foldl (fun s d =>
      if (thermOf s d).hotMinute then
        regInc (K.WEAR_HOT_minutes d) (modTherm d (fun t => { t with hotMinute := decide (1520 < hotOr s d) }) s)
      else s) s

/-! Regulators, rails and clocks -/

/-- AVS_FAULT: the die's groups are held at or below the level that the last confirmed voltage allows (R420). -/
def execAvsFault (die : Fin 4) (level : Fin 6) (s : State) : Host.Outcome State Fault Refusal :=
  .next (if running s then holdLevels die.val (modTherm die.val (fun t => { t with levelCap := level.val }) s) else s)

/-- AVS_CONFIRM_TIMEOUT: the die is removed, class C, cause 3 (R420). -/
def execAvsConfirmTimeout (die : Fin 4) (s : State) : Host.Outcome State Fault Refusal := .next (orderRemoval die.val 3 s)

/-- An island stops (R423, R424, R426): the other will declare it lost; class D where the other has no locked pair and the one that stops
holds a duty, or where neither runs (R320). -/
def stopIsl (i : Isl) (s : State) : State :=
  let held := holdsDuty s i
  let s := modIsl i (fun x => { x with stopped := true }) s
  let o := otherIsl i
  if !islRuns s o || (held && islState s o != 0) then islandsFail s else s

/-- UNDERVOLTAGE (R423). -/
def execUndervoltage (rail : Rail) (s : State) : Host.Outcome State Fault Refusal :=
  .next (match rail with
    | .cd k => removeDie k.val 3 s
    | .iod | .h1v1 | .q0v4 => classD 5 iodSteward s
    | .sia => if powered s then stopIsl .a s else s
    | .sib => if powered s then stopIsl .b s else s)

/-- REFCLK_SYS_LOSS (R424). -/
def execRefclkSysLoss (s : State) : Host.Outcome State Fault Refusal := .next (classD 6 iodSteward s)

/-- REFCLK_SWITCH: the always-on clocks move to REFCLK_SYS, or back; the tick goes on (R424, R425). -/
def execRefclkSwitch (toTime : Bool) (s : State) : Host.Outcome State Fault Refusal :=
  .next (if s.op = .off || s.refSys != toTime then s
    else raiseFault .manager ⟨0x0710, 1, true, aonNode, toTime.toNat, 0, 0⟩ { s with refSys := !toTime })

/-- ISLAND_CLOCK_LOSS (R424). -/
def execIslandClockLoss (isl : Isl) (s : State) : Host.Outcome State Fault Refusal :=
  .next (if powered s then stopIsl isl s else s)

end Sys2Proof.Machine
end

