-- ==== Sys2Proof/Machine/Islands.lean ====
section
/-! DEFINITION. The safety islands: heartbeats, halts and take-over, lockstep mismatch and verdict, latent differences, split
self-tests, island resets, debug (R315 to R325, R426). -/

namespace Sys2Proof.Machine

/-- An island takes every duty and sends a role message (R315, R316); what the other had gated it never sends. -/
def takeOver (new : Isl) (cause : Nat) (s : State) : State :=
  raise .manager ⟨0x0604, 0, true, islNode new, islNum new, cause, 0⟩
    (regSet K.ISL_STATUS_holder (islNum new) { s with isl := { s.isl with duty := some new, gated := s.isl.gated.filter fun x => x.1 == new } })

/-- The role message of an island, which in signature mode waits for its window (R316, R318). -/
def orderRole (new : Isl) (cause : Nat) (s : State) : State := if gates s new then gate new (.role new cause) s else takeOver new cause s

/-- An island's pair halts (R319, R320): class D where the other does not run, or where the one that halts holds a duty and the other is not
LOCKED. The decisions it has gated are never sent (R318). -/
def haltIsl (i : Isl) (cycles : Nat) (s : State) : State :=
  let held := holdsDuty s i
  let o := otherIsl i
  let s := modIsl i (fun x => { x with notice := true, dbgHalt := false, core := [], checker := [] }) (setIsl i 2
    { s with isl := { s.isl with gated := s.isl.gated.filter fun x => x.1 != i } })
  let s := raise .manager ⟨0x0601, 0, true, islNode i, islNum i, actGet s K.ISL_CMP_mode, cycles⟩ s
  if !islRuns s o || (held && islState s o != 0) then islandsFail s else s

/-- ISLAND_MISMATCH (R319). -/
def mismatch (i : Isl) (cycles : Nat) (s : State) : State := if powered s && islLocked s i then haltIsl i cycles s else s

/-- ISLAND_MISMATCH (R319). -/
def execIslandMismatch (isl : Isl) (cycles : BitVec 64) (s : State) : Host.Outcome State Fault Refusal :=
  .next (mismatch isl cycles.toNat s)

/-- HALT_NOTICE: the other island sends role messages and takes every duty (R316). -/
def execHaltNotice (sender : Isl) (s : State) : Host.Outcome State Fault Refusal :=
  .next (if !(islOf s sender).notice then s
    else
      let s := modIsl sender (fun x => { x with notice := false }) s
      if islRuns s (otherIsl sender) then orderRole (otherIsl sender) 0 s else s)

/-- ISLAND_HEARTBEAT: a heartbeat of an island arrives at the other, or is missed; an island that does not run sends none (R316). -/
def execIslandHeartbeat (sender : Isl) (arrived : Bool) (s : State) : Host.Outcome State Fault Refusal :=
  .next (if !powered s || !islRuns s (otherIsl sender) then s
    else if arrived && islRuns s sender then modIsl sender (fun x => { x with missed := 0 }) s
    else modIsl sender (fun x => { x with missed := x.missed + 1 }) s)

/-- The loss of an island declared by the other, which takes every duty (R316, R320, R338); one that is in self-test stays so until its
verdict. -/
def loseIsl (i : Isl) (s : State) : State :=
  let o := otherIsl i
  if (islOf s i).lost || !islRuns s o || !powered s then s
  else
    let held := holdsDuty s i
    let s := raiseFault .manager ⟨0x0605, 3, true, islNode o, islNum i, (islOf s i).missed, 0⟩
      (modIsl i (fun x => { x with lost := true }) (if islState s i = 2 then s else setIsl i 4 s))
    let s := orderRole o 1 s
    if held && islState s o != 0 then islandsFail s else s

/-- ISLAND_LOST: after three missed heartbeats (R316). -/
def execIslandLost (lost : Isl) (s : State) : Host.Outcome State Fault Refusal :=
  .next (if (islOf s lost).missed < 3 then s else loseIsl lost s)

/-- One core of an island is broken: it goes on SINGLE on the other, class C (R319, R324). -/
def singleIsl (i : Isl) (mainBroken : Bool) (s : State) : State :=
  raiseFault .manager ⟨0x0602, 3, true, islNode i, islNum i, if mainBroken then 1 else 2, 0⟩
    (modIsl i (fun x => { x with onChecker := mainBroken, oneCore := true }) (setIsl i 3 s))

/-- Both cores of an island are broken: it is FAILED, class C (R319). -/
def failIsl (i : Isl) (s : State) : State :=
  raiseFault .manager ⟨0x0602, 3, true, islNode (otherIsl i), islNum i, 3, 0⟩ (setIsl i 4 s)

/-- The cause of a class D under R320 reported after a self-test: by its island where it leaves a working core, by the IOD steward where
neither island has one (R320). -/
def reportD (i : Isl) (works : Bool) (s : State) : State :=
  if !s.isl.report then s
  else if works then safeState 1 (islNode i) { s with isl := { s.isl with report := false } }
  else if selfTesting s (otherIsl i) then s
  else safeState 1 iodSteward { s with isl := { s.isl with report := false } }

/-- ISLAND_VERDICT (R319, R320). -/
def execIslandVerdict (isl : Isl) (verdict : CoreVerdict) (s : State) : Host.Outcome State Fault Refusal :=
  .next (if !selfTesting s isl then s
    else
      let s := modIsl isl (fun x => { x with lost := false, missed := 0 }) s
      match verdict with
      | .bothGood => reportD isl true (raiseFault .manager ⟨0x0602, 1, false, islNode isl, islNum isl, 0, 0⟩ (setIsl isl 0 s))
      | .mainBroken => reportD isl true (singleIsl isl true s)
      | .checkerBroken => reportD isl true (singleIsl isl false s)
      | .bothBroken => reportD isl false (failIsl isl s))

/-- The re-locks of an island within the last 60 min (R322). -/
def recentLocks (s : State) (i : Isl) : List Nat := (islOf s i).relocks.filter fun t => decide (s.ticks < t + hourTicks)

/-- ISLAND_LATENT: a difference between the cores is repaired by a re-lock, or is a mismatch where both copies fail parity (R321, R322). -/
def latent (i : Isl) (same mainParity checkerParity : Bool) (s : State) : State :=
  if !powered s || !islLocked s i || same then s
  else if !mainParity && !checkerParity then
    haltIsl i (Config.cycles s.freeCtr).toNat { s with freeCtr := s.freeCtr + 1 }
  else
    let locks := recentLocks s i ++ [s.ticks]
    let s := modIsl i (fun x => { x with relocks := locks }) s
    raiseFault .manager ⟨0x0603, 1, false, islNode i, islNum i, locks.length, 0⟩ s

/-- ISLAND_LATENT (R321). -/
def execIslandLatent (isl : Isl) (same mainParity checkerParity : Bool) (s : State) : Host.Outcome State Fault Refusal :=
  .next (latent isl same mainParity checkerParity s)

/-- ISLAND_LATENT_LIMIT: the fourth re-lock within 60 min is a mismatch (R322). -/
def execIslandLatentLimit (isl : Isl) (s : State) : Host.Outcome State Fault Refusal :=
  .next (if powered s && islLocked s isl && decide (4 ≤ (recentLocks s isl).length) then
      haltIsl isl (Config.cycles s.freeCtr).toNat { s with freeCtr := s.freeCtr + 1 }
    else s)

/-- SELF_TEST_SLICE: a slice that fails while split leaves the island SINGLE on the other core (R324). -/
def execSelfTestSlice (isl : Isl) (mainCore pass : Bool) (s : State) : Host.Outcome State Fault Refusal :=
  .next (if pass || islState s isl ≠ 1 || !islRuns s isl then s else singleIsl isl mainCore s)

/-! Island resets -/

/-- ISLAND_RESET (R426): class D where the other island is in reset or not LOCKED. -/
def execIslandReset (isl : Isl) (s : State) : Host.Outcome State Fault Refusal :=
  .next (
    let s := modIsl isl (fun x => { x with resetLow := true }) s
    if !powered s then s
    else
      let s := stopIsl isl s
      if !islLocked s (otherIsl isl) && s.op != .safeOff then islandsFail s else s)

/-- ISLAND_RESET_RELEASE: the island boots from ROM, verifies its firmware, and serves the watch duty only (R315, R426); one whose core is
broken stays SINGLE until the next module reset (R324). -/
def execIslandResetRelease (isl : Isl) (firmwareOk : Bool) (s : State) : Host.Outcome State Fault Refusal :=
  .next (if !(islOf s isl).resetLow then s
    else
      let s := modIsl isl (fun x => { x with resetLow := false }) s
      if !powered s then s
      else
        let fresh := fun (x : Island) => { x with stopped := false, lost := false, missed := 0, notice := false, relocks := [], dbgHalt := false }
        let s := modIsl isl (fun x => { fresh x with core := [], checker := [] }) s
        let s := if holdsDuty s isl && islRuns s (otherIsl isl) then orderRole (otherIsl isl) 1 s else s
        if firmwareOk then setIsl isl (if (islOf s isl).oneCore then 3 else 0) s else failIsl isl s)

/-! Debug -/

/-- The module's 128-bit serial number (R409). -/
def moduleSerial (s : State) : Nat :=
  regGet s (K.ID_SERIAL_serial 0) + 2 ^ 32 * regGet s (K.ID_SERIAL_serial 1) + 2 ^ 64 * regGet s (K.ID_SERIAL_serial 2) +
  2 ^ 96 * regGet s (K.ID_SERIAL_serial 3)

/-- Whether a licence is accepted (R315, R325): SI_A holds the duty, boot is done, the signature verifies, the serial number is the module's, and
a valid time base has not reached the expiry. -/
def licenceOk (s : State) (l : DebugLicence) : Bool :=
  keyIsl s == .a && islRuns s .a && regGet s K.BOOT_STATUS_phase == 8 && l.signatureOk && l.serial.toNat == moduleSerial s && tbValid s &&
  decide (tbSec s < l.expiry)

/-- DEBUG_SESSION (R325). -/
def execDebugSession (lic : DebugLicence) (s : State) : Host.Outcome State Fault Refusal :=
  .next (if !powered s then s
    else
      let ok := licenceOk s lic
      let low := lic.serial.toNat % 2 ^ 64
      let ev : Ev := ⟨0x060E, 0, true, islNode (keyIsl s), if ok then 0 else 2, lic.scope.toNat, low⟩
      if ok then raise .manager ev (regSet K.DBG_STATUS_active 1 (regSet K.DBG_STATUS_scope lic.scope.toNat
        { s with isl := { s.isl with dbgSerial := low, dbgEver := true } }))
      else raise .manager ev s)

/-- What a debugger reads of a core: what it has written since the core halted, else a free value (R325). No realm key, realm plaintext, score
ledger or tile store is among it. -/
def dbgInspect (halted : Bool) (w : Nat) (core : List (Nat × Nat)) (s : State) : State :=
  let known := core.find? fun x => x.1 == w
  match known, halted with
  | some x, true => { s with isl := { s.isl with dbgRead := x.2 } }
  | _, _ => { s with freeCtr := s.freeCtr + 1, isl := { s.isl with dbgRead := (Config.coreWord s.freeCtr w).toNat } }

/-- A word written into the main core of an island and in the same cycle into its checker (R325). -/
def dbgWrite (i : Isl) (w v : Nat) (s : State) : State :=
  let put := fun (l : List (Nat × Nat)) => (l.filter fun x => x.1 != w) ++ [(w, v)]
  modIsl i (fun x => { x with core := put x.core, checker := put x.checker }) s

/-- An action of the debugger on the main core of an island, replayed into the checker; a halt only with scope bit 3 and the in-drive flag clear;
a step moves a halted pair on, and what it has written may have changed (R325). -/
def dbgIsland (i : Isl) (act : DebugAct) (s : State) : State :=
  let x := islOf s i
  match act with
  | .halt => if bitOf (regGet s K.DBG_STATUS_scope) 3 && !s.inDrive then modIsl i (fun x => { x with dbgHalt := true, core := [], checker := [] }) s else s
  | .step => if x.dbgHalt then modIsl i (fun x => { x with core := [], checker := [] }) s else s
  | .writeReg r v => dbgWrite i (2 ^ 64 + r) v.toNat s
  | .writeMem a v => dbgWrite i a.toNat v.toNat s
  | .readReg r => dbgInspect x.dbgHalt (2 ^ 64 + r) x.core s
  | .readMem a => dbgInspect x.dbgHalt a.toNat x.core s

/-- DEBUG_ACTION: an action that the licence's scope allows, on the main core of a locked island (bits 0 and 1), or the inspection of a die
steward (bit 2) (R325). -/
def execDebugAction (target : DebugTarget) (act : DebugAct) (s : State) : Host.Outcome State Fault Refusal :=
  .next (
    let scope := regGet s K.DBG_STATUS_scope
    if regGet s K.DBG_STATUS_active ≠ 1 then s
    else match target with
    | .island i => if bitOf scope (islNum i) && islLocked s i then dbgIsland i act s else s
    | .steward _ =>
      if !bitOf scope 2 then s
      else match act with
      | .readReg r => dbgInspect false (2 ^ 64 + r) [] s
      | .readMem a => dbgInspect false a.toNat [] s
      | _ => s)

/-- DEBUG_SESSION_CLOSE (R325). -/
def execDebugSessionClose (s : State) : Host.Outcome State Fault Refusal :=
  .next (if regGet s K.DBG_STATUS_active ≠ 1 then s
    else
      let ev : Ev := ⟨0x060E, 0, true, islNode (keyIsl s), 1, regGet s K.DBG_STATUS_scope, s.isl.dbgSerial⟩
      let go := fun (x : Island) => { x with dbgHalt := false, core := [], checker := [] }
      raise .manager ev (regSet K.DBG_STATUS_active 0 (regSet K.DBG_STATUS_scope 0
        { s with isl := { s.isl with dbgSerial := 0, dbgRead := 0, a := go s.isl.a, b := go s.isl.b } })))

end Sys2Proof.Machine
end

