-- ==== Sys2Proof/Machine/Links.lean ====
section
/-! DEFINITION. Itral and island links: replay, lane health, sparing, width steps, retrains, link records, the management ring, the
reset of one die (R16, R17, R340 to R349, R362, R410). -/

namespace Sys2Proof.Machine

/-- The dies at the first and second end of a link, by the die field of R18 (R340). -/
def linkEnds (l : Nat) : Nat × Nat :=
  match l with
  | 4 => (0, 1)
  | 5 => (1, 3)
  | 6 => (3, 2)
  | 7 => (2, 0)
  | 8 => (4, 5)
  | 9 => (4, 6)
  | _ => (4, l)

/-- The ports at the first and second end of a link (R340). -/
def linkPorts (l : Nat) : Nat × Nat := if l < 4 then (l, 0) else if l < 8 then (1, 2) else (l - 4, 0)

/-- The links of a compute die: to the IOD, and to its two ring neighbours (R340). -/
def linksOf (d : Nat) : List Nat := (List.range 8).filter fun l => (linkEnds l).1 == d || (linkEnds l).2 == d

/-- Whether a direction is the reverse one. -/
def isRev : Dir → Bool
  | .fwd => false
  | .rev => true

/-- The node that receives a direction of a link: its die steward, or the core pair of an island (R343). -/
def linkNode (l : Nat) (rev : Bool) : Nat := nodeAddr (if rev then (linkEnds l).1 else (linkEnds l).2) 0 0

/-- A link outside its registers. -/
def linkOf (s : State) (l : Nat) : Link := tget Link.init l s.links
/-- It changed. -/
def modLink (l : Nat) (f : Link → Link) (s : State) : State := { s with links := tmod Link.init l f s.links }

/-- LNK_STATUS.state (R363): 0 down, 1 training, 2 up, 3 failed. -/
def linkState (s : State) (l : Nat) : Nat := regGet s (K.LNK_STATUS_state l)

/-- One direction of a link. -/
def dirOf (k : Link) (rev : Bool) : LinkDir := if rev then k.rev else k.fwd
/-- It changed. -/
def modDir (rev : Bool) (f : LinkDir → LinkDir) (k : Link) : Link :=
  if rev then { k with rev := f k.rev } else { k with fwd := f k.fwd }

/-- The good lanes of a direction. -/
def goodLanes (d : LinkDir) : Nat := popCount 68 d.good

/-- The largest width that a number of good lanes allows; 0 below 16 (R345, R346). -/
def widthFor (n : Nat) : Nat := if 64 ≤ n then 64 else if 48 ≤ n then 48 else if 32 ≤ n then 32 else if 16 ≤ n then 16 else 0

/-- The width code of LNK_STATUS (R363). -/
def widthCode (w : Nat) : Nat := if w = 64 then 0 else if w = 48 then 1 else if w = 32 then 2 else 3

/-- A new map of a width over a good set: logical lanes on the good lanes in rising order. -/
def newMap (good w : Nat) : List Nat := ((List.range 68).filter (bitOf good)).take w

/-- The good spares of a direction (R341). -/
def spares (d : LinkDir) : List Nat := (List.range 68).filter fun p => bitOf d.good p && !d.map.contains p

/-- The registers of a link follow its two directions (R363). -/
def showLink (l : Nat) (s : State) : State :=
  let k := linkOf s l
  regSet (K.LNK_STATUS_width_fwd l) (widthCode k.fwd.width) (regSet (K.LNK_STATUS_width_rev l) (widthCode k.rev.width)
    (regSet (K.LNK_STATUS_extra_fwd l) (goodLanes k.fwd - k.fwd.width) (regSet (K.LNK_STATUS_extra_rev l) (goodLanes k.rev - k.rev.width)
      (regSet (K.LNK_EPOCH_epoch l) (max k.fwd.epoch k.rev.epoch) s))))

/-! The management ring -/

/-- The nodes of the management ring in order, by the die field of R18 (R16). -/
def ringNodes : List Nat := [5, 0, 1, 4, 3, 6, 2]

/-- The nodes reached from a ring position by `n` steps forward over segments that hold. -/
def reachUp (broken : List Nat) : Nat → Nat → List Nat
  | 0, i => [i]
  | n + 1, i => i :: (if broken.contains i then [] else reachUp broken n ((i + 1) % 7))

/-- The nodes reached backward. -/
def reachDown (broken : List Nat) : Nat → Nat → List Nat
  | 0, i => [i]
  | n + 1, i => i :: (if broken.contains ((i + 6) % 7) then [] else reachDown broken n ((i + 6) % 7))

/-- Whether segments that hold join two ring positions. -/
def ringJoins (s : State) (i j : Nat) : Bool := (reachUp s.boot.broken 6 i ++ reachDown s.boot.broken 6 i).contains j

/-- Whether a running island reaches a ring position; an island itself is reached by the other one only (R17). -/
def reached (s : State) (i : Nat) : Bool :=
  ([(Isl.a, 0), (Isl.b, 5)] : List (Isl × Nat)).any fun x => islRuns s x.1 && x.2 != i && ringJoins s x.2 i

/-- The ring position of a die. -/
def ringPos (d : Nat) : Nat := (ringNodes.findIdx? (· == d)).getD 0

/-! Link records -/

/-- The key of the record of an end and direction (R347). -/
def recordKey (l fin : Nat) (rev : Bool) : Nat := 4 * l + 2 * fin + rev.toNat

/-- Whether the die steward of an end can write its record: its die runs, and the management ring joins it to the IOD (R347). -/
def endWrites (s : State) (d : Nat) : Bool :=
  (decide (4 ≤ d) || dieIn s d || s.op == .booting || s.boot.resetting.contains d) && ringJoins s (ringPos d) (ringPos 4)

/-- The record of one end of a direction written to the always-on block by that end's steward (R347). -/
def writeEnd (l fin : Nat) (rev : Bool) (s : State) : State :=
  if endWrites s (if fin = 0 then (linkEnds l).1 else (linkEnds l).2) then
    { s with kept := { s.kept with records := tset LinkDir.init (recordKey l fin rev) (dirOf (linkOf s l) rev) s.kept.records } }
  else s

/-- Both ends' records of a direction written (R347). -/
def writeRecord (l : Nat) (rev : Bool) (s : State) : State := writeEnd l 1 rev (writeEnd l 0 rev s)

/-- A direction with a new map over a good set (R345, R348, R349). -/
def freshDir (good w epoch : Nat) : LinkDir := ⟨w, newMap good w, good, epoch⟩

/-! Topology entries -/

/-- The width bits of a topology word (R410). -/
def topoWidths (s : State) (l : Nat) : Nat :=
  if 8 ≤ l then 0 else regGet s (K.LNK_STATUS_width_fwd l) * 2 ^ 16 + regGet s (K.LNK_STATUS_width_rev l) * 2 ^ 18

/-- The topology entries of a link show the widths of its latest training (R410). -/
def retopo (l : Nat) (s : State) : State :=
  ([2 * l, 2 * l + 1] : List Nat).foldl (fun s e =>
    regMod (K.ID_TOPO_entry e 0) (fun v => v - bitsAt v 16 4 * 2 ^ 16 + topoWidths s l) s) s

/-! Failed links -/

/-- Compute dies whose IOD link and both ring links have failed are removed (R346). -/
def dropIsolated (s : State) : State :=
  (List.range 4).foldl (fun s d => if ((linksOf d).all fun l => linkState s l == 3) then orderRemoval d 4 s else s) s

/-- The reset of a die alone has failed once no link of it trains or is up (R348, R362). -/
def giveUpReset (s : State) : State :=
  s.boot.resetting.foldl (fun s d =>
    if (linksOf d).any fun l => linkState s l == 1 || linkState s l == 2 then s
    else raise .manager ⟨0x0309, 0, true, islNode (keyIsl s), d, 2, 0⟩
      { s with boot := { s.boot with resetting := s.boot.resetting.filter (· != d) } }) s

/-- A link fails, class C, and a die that its links no longer join to anything is removed (R346). -/
def failLink (l good : Nat) (rev : Bool) (s : State) : State :=
  let s := regSet (K.LNK_STATUS_state l) 3 (modLink l (fun k => { k with retrain := none, left := [] }) s)
  dropIsolated (raiseFault .manager ⟨0x0303, 3, true, linkNode l rev, l, good, 0⟩ s)

/-- Lanes of a mask leave the good set of a direction; mapped ones await their step (R343). -/
def loseLanes (l : Nat) (rev : Bool) (lanes : List Nat) (s : State) : State :=
  let gone := lanes.filter fun p => bitOf (dirOf (linkOf s l) rev).good p
  gone.foldl (fun s p =>
    let s := modLink l (fun k =>
      let mapped := (dirOf k rev).map.contains p
      let k := modDir rev (fun d => { d with good := withBit d.good p false }) k
      if mapped then { k with left := k.left ++ [(rev, p)] } else k) s
    regSet (K.LNK_LANE_ERR_lane l) p (regSet (K.LNK_LANE_ERR_dir l) rev.toNat s)) s

/-- A direction with fewer than 16 good lanes fails its link; while a retrain runs it completes first (R346). -/
def judgeLink (l : Nat) (s : State) : State :=
  let k := linkOf s l
  if k.retrain.isSome then showLink l s
  else if goodLanes k.fwd < 16 then giveUpReset (failLink l (goodLanes k.fwd) false s)
  else if goodLanes k.rev < 16 then giveUpReset (failLink l (goodLanes k.rev) true s)
  else showLink l s

/-! Flits on the wire -/

/-- The flits of one direction of a link. -/
def flowOf (k : Link) (rev : Bool) : LinkFlow := if rev then k.flowR else k.flowF
/-- They changed. -/
def modFlow (rev : Bool) (f : LinkFlow → LinkFlow) (k : Link) : Link :=
  if rev then { k with flowR := f k.flowR } else { k with flowF := f k.flowF }

/-- The header of a flit (R341): sequence number and acknowledgement modulo 1,024, type, credits. PRESUMED (log 89): the widths and places of
its fields. -/
def flitHeader (seq ack : Nat) (x : Flit) : Nat :=
  seq % 1024 + ack % 1024 * 2 ^ 10 + x.type.toNat * 2 ^ 20 + x.credits.toNat * 2 ^ 24

/-- The 136 bytes of a flit (R341). -/
def flitBytes (seq ack : Nat) (x : Flit) : List Byte :=
  let body := leBytes 4 (flitHeader seq ack x) ++ x.payload.toList
  body ++ leBytes 4 (crc32 body).toNat

/-- The unit intervals that a flit spans on each lane (R341). -/
def flitIntervals (w : Nat) : Nat := 1152 / w

/-- Whether the bits of a logical lane in a number have odd parity: bit `t × w + l` goes on lane `l` in unit interval `t` (log 89). -/
def laneOdd (v w l n : Nat) : Bool := ((List.range n).filter fun t => bitOf v (t * w + l)).length % 2 == 1

/-- The wire bits of a flit at a width: its bytes, unused bits zero, and in the last unit interval the even parity of each lane (R341). -/
def flitWire (w : Nat) (bs : List Byte) : Nat :=
  leVal bs + 2 ^ (1152 - w) * ofBits ((List.range w).map fun l => laneOdd (leVal bs) w l (flitIntervals w - 1))

/-- The wire bits as they arrive: each error turns the bit of a physical lane in a unit interval. -/
def flitArrives (d : LinkDir) (errors : List (Fin 68 × Fin 72)) (wire : Nat) : Nat :=
  errors.foldl (fun v e => match d.map.findIdx? (· == e.1.val) with
    | some l => if e.2.val < flitIntervals d.width then Nat.xor v (2 ^ (e.2.val * d.width + l)) else v
    | none => v) wire

/-- The physical lanes of a map whose parity fails (R341, R343). -/
def parityFails (d : LinkDir) (rx : Nat) : List Nat :=
  (List.range d.width).filterMap fun l => if laneOdd rx d.width l (flitIntervals d.width) then some (nth d.map l 0) else none

/-- The 136 bytes of an arriving flit. -/
def flitData (rx : Nat) : List Byte := leBytes 136 (rx % 2 ^ 1088)

/-- Whether the CRC of a flit's header and payload holds (R341). -/
def crcHolds (bs : List Byte) : Bool := fieldAt bs 132 4 == (crc32 (bs.take 132)).toNat

/-- An acknowledgement modulo 1,024 frees the flits before it in the sender's replay buffer (R342). -/
def acknowledge (ack : Nat) (f : LinkFlow) : LinkFlow :=
  let n := (ack + 1024 - (f.sent - f.buf.length) % 1024) % 1024
  if n ≤ f.buf.length then { f with buf := f.buf.drop n } else f

/-- The flit that a sender sends under a sequence number: one of its replay buffer, or a new one while the buffer has room for it and no
replay is asked for (R342). -/
def flitSent (f : LinkFlow) (seq : Nat) (new : Flit) : Option Flit :=
  if seq < f.sent then if f.sent ≤ seq + f.buf.length then f.buf[seq + f.buf.length - f.sent]? else none
  else if seq = f.sent && decide (f.buf.length < 512) && decide (f.run = 0) then some new
  else none

/-- A second in ticks of the 500 MHz clock. -/
abbrev secondTicks : Nat := 500000000

/-- Lane-parity errors counted, those of the last second kept (R343). -/
def countErrs (rev : Bool) (lanes : List Nat) (now : Nat) (k : Link) : Link :=
  { k with errs := (k.errs.filter fun e => decide (now < e.2.2 + secondTicks)) ++ lanes.map fun p => (rev, p, now) }

/-! Replay -/

/-- What a receiver does with an arriving flit: the one expected, its checks good, is delivered and its acknowledgement taken; any other is
discarded, and the first such asks for a replay (R342). While a replay is awaited, flits beyond the expected one ask for no other. -/
def takeFlit (l : Nat) (rev : Bool) (seq : Nat) (good : Bool) (x : Flit) (ack : Nat) (s : State) : State :=
  let f := flowOf (linkOf s l) rev
  if seq < f.want then s
  else if seq = f.want && good then
    modLink l (fun k => modFlow (!rev) (acknowledge ack) (modFlow rev (fun f => { f with want := seq + 1, run := 0, got := some x }) k)) s
  else if seq = f.want || f.run = 0 then
    regInc (K.LNK_RETRY_count l) (modLink l (modFlow rev fun f => { f with run := f.run + 1 }) s)
  else s

/-- FLIT_RECEIVE: the flit that the sender sends under a sequence number crosses the wire and is checked; its lane-parity errors are counted
(R341 to R343). -/
def receiveFlit (l : Nat) (rev : Bool) (seq : Nat) (new : Flit) (errors : List (Fin 68 × Fin 72)) (s : State) : State :=
  let k := linkOf s l
  let f := flowOf k rev
  if linkState s l ≠ 2 || !unitsOn s then s
  else match flitSent f seq new with
  | none => s
  | some x =>
    let d := dirOf k rev
    let ack := (flowOf k (!rev)).want
    let rx := flitArrives d errors (flitWire d.width (flitBytes seq ack x))
    let bad := parityFails d rx
    let s := modLink l (fun k => countErrs rev bad s.ticks (if seq = f.sent then
      modFlow rev (fun f => { f with sent := f.sent + 1, buf := f.buf ++ [x] }) k else k)) s
    takeFlit l rev seq (bad.isEmpty && crcHolds (flitData rx)) x ack s

/-- FLIT_RECEIVE (R342). -/
def execFlitReceive (link : Fin 8) (dir : Dir) (seq : Nat) (flit : Flit) (errors : List (Fin 68 × Fin 72)) (s : State) :
    Host.Outcome State Fault Refusal := .next (receiveFlit link.val (isRev dir) seq flit errors s)

/-- A retrain begins for a cause: 0 replays, 1 step, 2 partial reset, 3 full (R362). -/
def startRetrain (l cause : Nat) (s : State) : State :=
  regSet (K.LNK_STATUS_state l) 1 (modLink l (fun k => modFlow true (fun f => { f with run := 0 }) (modFlow false (fun f => { f with run := 0 })
    { k with retrain := some cause })) s)

/-- The lanes outside a mask. -/
def lanesNot (mask : Nat) : List Nat := (List.range 68).filter fun p => !bitOf mask p

/-- REPLAY_LIMIT: the link retrains at its width; lanes that its training measures bad leave the good set (R342, R343), which may fail
it (R346). -/
def execReplayLimit (link : Fin 8) (goodFwd goodRev : BitVec 68) (s : State) : Host.Outcome State Fault Refusal :=
  .next (
    let l := link.val
    let k := linkOf s l
    if linkState s l ≠ 2 || !unitsOn s || (k.flowF.run < 8 && k.flowR.run < 8) then s
    else
      let s := judgeLink l (loseLanes l true (lanesNot goodRev.toNat) (loseLanes l false (lanesNot goodFwd.toNat) s))
      if linkState s l = 2 then startRetrain l 0 s else s)

/-! Lane health -/

/-- The threshold in force (R363). -/
def laneLimit (s : State) : Nat := max 1 (regGet s K.LNK_THRESH_errors)

/-- A lane of an island link fails: the link has no spare and one width, so it fails, the loss of its island (R316, R346). -/
def islandLink (l : Nat) (rev : Bool) (lane : Nat) (s : State) : State :=
  let d := dirOf (linkOf s l) rev
  if 8 ≤ lane || !bitOf d.good lane || !powered s then s
  else
    let s := modLink l (modDir rev fun d => { d with good := withBit d.good lane false }) s
    let s := raiseFault .manager ⟨0x0303, 3, true, linkNode l rev, l, popCount 8 (dirOf (linkOf s l) rev).good, 0⟩ s
    loseIsl (if l = 8 then .a else .b) s

/-- The lane-parity errors counted on a lane in the last second (R343). -/
def errsOf (s : State) (l : Nat) (rev : Bool) (lane : Nat) : Nat :=
  ((linkOf s l).errs.filter fun e => e.1 == rev && e.2.1 == lane && decide (s.ticks < e.2.2 + secondTicks)).length

/-- LANE_ERROR_THRESHOLD: a lane with more errors in a second than the threshold leaves the good set (R343, R346): those counted in received
flits, with those that idle flits, a spare's PRBS31 or an island link show. -/
def laneErrors (l : Nat) (rev : Bool) (lane errors : Nat) (s : State) : State :=
  if errsOf s l rev lane + errors ≤ laneLimit s || !unitsOn s then s
  else if 8 ≤ l then islandLink l rev lane s
  else if linkState s l = 0 || linkState s l = 3 || !bitOf (dirOf (linkOf s l) rev).good lane then s
  else judgeLink l (loseLanes l rev [lane] s)

/-- LANE_ERROR_THRESHOLD (R343). -/
def execLaneErrorThreshold (link : Fin 10) (dir : Dir) (lane : Fin 68) (errors : Nat) (s : State) :
    Host.Outcome State Fault Refusal := .next (laneErrors link.val (isRev dir) lane.val errors s)

/-- LANE_SPARED: the logical lane moves to the lowest good spare (R344, R347). -/
def spareLane (l : Nat) (rev : Bool) (lane : Nat) (s : State) : State :=
  let k := linkOf s l
  if linkState s l ≠ 2 || !unitsOn s || !k.left.contains (rev, lane) then s
  else match spares (dirOf k rev) with
  | [] => s
  | p :: _ =>
    let s := modLink l (fun k =>
      let k := modDir rev (fun d => { d with map := d.map.map fun x => if x = lane then p else x, epoch := (d.epoch + 1) % 2 ^ 32 }) k
      { k with left := k.left.filter (· != (rev, lane)) }) s
    let s := writeRecord l rev (showLink l s)
    raiseFault .manager ⟨0x0301, 1, false, linkNode l rev, l, rev.toNat + lane * 256, (dirOf (linkOf s l) rev).epoch⟩ s

/-- LANE_SPARED (R344). -/
def execLaneSpared (link : Fin 8) (dir : Dir) (lane : Fin 68) (s : State) : Host.Outcome State Fault Refusal :=
  .next (spareLane link.val (isRev dir) lane.val s)

/-- Whether a direction is due for a width step: a mapped lane has left the good set and no good spare is there (R345). -/
def stepDue (k : Link) (rev : Bool) : Bool := k.left.any (fun x => x.1 == rev) && (spares (dirOf k rev)).isEmpty

/-- One direction steps down (R345, R347). -/
def stepDir (l : Nat) (rev : Bool) (s : State) : State :=
  if !stepDue (linkOf s l) rev then s
  else
    let s := modLink l (fun k =>
      let k := modDir rev (fun d => freshDir d.good (widthFor (goodLanes d)) ((d.epoch + 1) % 2 ^ 32)) k
      { k with left := k.left.filter fun x => x.1 != rev }) s
    let s := writeRecord l rev (showLink l s)
    let d := dirOf (linkOf s l) rev
    raiseFault .manager ⟨0x0302, 1, true, linkNode l rev, l, rev.toNat + d.width * 256, d.epoch⟩ s

/-- LINK_NARROWED: a direction steps down at a quiet point, and the other with it where it is due; one retrain serves both (R345, R346). -/
def execLinkNarrowed (link : Fin 8) (dir : Dir) (s : State) : Host.Outcome State Fault Refusal :=
  .next (if linkState s link.val ≠ 2 || !unitsOn s || !stepDue (linkOf s link.val) (isRev dir) then s
    else startRetrain link.val 1 (stepDir link.val true (stepDir link.val false s)))

/-! Retrains -/

/-- A direction after a full retrain: the largest width the lane test allows (R349); its map epoch rises where the map changes. -/
def fullDir (good : Nat) (d : LinkDir) : LinkDir :=
  let n := freshDir good (widthFor (popCount 68 good)) d.epoch
  if n.map = d.map then n else { n with epoch := (d.epoch + 1) % 2 ^ 32 }

/-- The two directions after a full retrain (R349). -/
def fullDirs (goodF goodR : Nat) (k : Link) : Link := { k with fwd := fullDir goodF k.fwd, rev := fullDir goodR k.rev, left := [] }

/-- The event of a full lane test: the lanes it finds good (R348, R349, R362). -/
def laneTest (l goodF goodR : Nat) (s : State) : State :=
  raise .manager ⟨0x0305, 0, false, nodeAddr 4 0 0, l, popCount 68 goodF, popCount 68 goodR⟩ s

/-- LINK_RETRAIN: a retrain completes; a full one takes the widths its lane test allows and fails a link that they leave under 16; lanes lost
while another runs are judged after it; one with a removed die at an end is abandoned (R345, R346, R349). -/
def endRetrain (l goodF goodR us : Nat) (s : State) : State :=
  match if unitsOn s then (linkOf s l).retrain else none with
  | none => s
  | some c =>
    let away := fun d => decide (d < 4) && !dieIn s d
    if c ≠ 2 && (away (linkEnds l).1 || away (linkEnds l).2) then
      regSet (K.LNK_STATUS_state l) 0 (modLink l (fun k => { k with retrain := none }) s)
    else
      let s := modLink l (fun k => { k with retrain := none, trained := true }) s
      let s := if c = 3 then laneTest l goodF goodR (modLink l (fullDirs goodF goodR) s) else s
      let k := linkOf s l
      if c = 3 && (goodLanes k.fwd < 16 || goodLanes k.rev < 16) then judgeLink l s
      else
        let s := regSet (K.LNK_STATUS_state l) 2 s
        let s := if c = 3 then writeRecord l true (writeRecord l false s) else s
        let s := retopo l (showLink l (regInc (K.LNK_RETRAIN_count l) (regInc (K.WEAR_RETRAIN_count l) s)))
        judgeLink l (raise .manager ⟨0x0304, 0, false, nodeAddr 4 0 0, l, c, us⟩ s)

/-- LINK_RETRAIN (R345). -/
def execLinkRetrain (link : Fin 8) (goodFwd goodRev : BitVec 68) (us : BitVec 64) (s : State) : Host.Outcome State Fault Refusal :=
  .next (endRetrain link.val goodFwd.toNat goodRev.toNat us.toNat s)

/-- One access that the module ignores is counted for its host (R402, R403). -/
def denied (p : Nat) (s : State) : State := regInc (K.HOST_DENIED_count p) s

/-- Whether a host reaches its set-up window (R356). -/
def windowOpen (s : State) (p : Nat) : Bool :=
  s.boot.windows && s.op != .off && s.op != .dormant && !(portOf s p).perstLow

/-- A write of LNK_CTRL: each named link starts a full retrain, in WARM_IDLE and for the manager host only (R349, R363). -/
def lnkRequest (p mask : Nat) (s : State) : State :=
  if p ≠ s.mgrPort || s.op ≠ .warmIdle then denied p s
  else (List.range 8).foldl (fun s l =>
    if bitOf mask l && (linkOf s l).retrain.isNone && (linkState s l == 2 || linkState s l == 3) then startRetrain l 3 s
    else s) s

/-- LNK_RETRAIN_REQUEST (R349). -/
def execLnkRetrainRequest (port : Fin 4) (mask : BitVec 8) (s : State) : Host.Outcome State Fault Refusal :=
  .next (if windowOpen s port.val then lnkRequest port.val mask.toNat s else s)

/-! Broken segments -/

/-- A node that neither island reaches has failed (R17). -/
def loseNode (i : Nat) (s : State) : State :=
  if reached s i then s
  else match nth ringNodes i 0 with
  | 4 => classD 2 (islNode (keyIsl s)) s
  | 5 => loseIsl .a s
  | 6 => loseIsl .b s
  | d => orderRemoval d 3 s

/-- MGMT_SEGMENT_BREAK: the first break is recorded as class A; a later one may cut nodes off (R17). -/
def execMgmtSegmentBreak (seg : Fin 7) (s : State) : Host.Outcome State Fault Refusal :=
  .next (if !powered s || s.boot.broken.contains seg.val then s
    else
      let s := { s with boot := { s.boot with broken := s.boot.broken ++ [seg.val] } }
      if s.boot.broken.length = 1 then recordA (islNode (keyIsl s)) s
      else (List.range 7).foldl (fun s i => loseNode i s) s)

/-! The reset of one die -/

/-- What one direction of a link meets when it trains from both ends' records (R348, steps 1 to 3): the width, and the map taken where the
record with the higher epoch fits. -/
def trainDir (a b : LinkDir) (bad : Nat) : Nat × Nat × Option LinkDir :=
  let lanes := (List.range 68).filter fun p => bitOf a.good p && bitOf b.good p && !bitOf bad p
  let hi := if a.epoch < b.epoch then b else a
  let w := min a.width b.width
  let good := lanes.foldl (fun v p => withBit v p true) 0
  (w, hi.epoch, if hi.map.length = w && hi.map.all lanes.contains then some ⟨w, hi.map, good, hi.epoch⟩ else none)

/-- One link of a reset die trains (R348). -/
def trainLink (t : LinkTrain) (s : State) : State :=
  let l := t.link.val
  let rec_ := fun fin rev => tget LinkDir.init (recordKey l fin rev) s.kept.records
  let f := trainDir (rec_ 0 false) (rec_ 1 false) t.badFwd.toNat
  let r := trainDir (rec_ 0 true) (rec_ 1 true) t.badRev.toNat
  match f.2.2, r.2.2 with
  | some df, some dr => startRetrain l 2 (showLink l (modLink l (fun k => { k with fwd := df, rev := dr, left := [] }) s))
  | _, _ =>
    let gf := t.testFwd.toNat
    let gr := t.testRev.toNat
    let s := laneTest l gf gr s
    let s := modLink l (fun k => { k with
      fwd := freshDir gf (min f.1 (widthFor (popCount 68 gf))) ((f.2.1 + 1) % 2 ^ 32),
      rev := freshDir gr (min r.1 (widthFor (popCount 68 gr))) ((r.2.1 + 1) % 2 ^ 32), left := [] }) s
    if popCount 68 gf < 16 then failLink l (popCount 68 gf) false s
    else if popCount 68 gr < 16 then failLink l (popCount 68 gr) true s
    else startRetrain l 2 (showLink l (writeRecord l true (writeRecord l false s)))

/-- Whether the supervising island may reset a die alone (R348). -/
def mayReset (s : State) (d : Nat) : Bool :=
  running s && islRuns s (keyIsl s) && !dieIn s d && !s.boot.noReset.contains d &&
  !s.boot.resetting.contains d && (s.boot.resetAt.all fun x => x.1 != d || decide (x.2 + hourTicks ≤ s.ticks))

/-- The trainings given for the links of a die, one for each link. -/
def ownTrains (d : Nat) (train : List LinkTrain) : List LinkTrain :=
  (linksOf d).filterMap fun l => train.find? fun t => t.link.val == l

/-- PARTIAL_RESET: one removed die is reset alone, whatever it was removed for but a failed extended test, and its links train; where none
comes up the attempt has failed (R348). -/
def partialReset (d : Nat) (train : List LinkTrain) (s : State) : State :=
  if !mayReset s d then s
  else
    let s := { s with boot := { s.boot with resetAt := (s.boot.resetAt.filter fun x => x.1 != d) ++ [(d, s.ticks)],
                                            resetting := s.boot.resetting ++ [d] } }
    let s := modEngine d (fun _ => Engine.init) (loseDie d (raise .manager ⟨0x0309, 0, true, islNode (keyIsl s), d, 0, 0⟩ s))
    let s := (linksOf d).foldl (fun s l => regSet (K.LNK_STATUS_state l) 0 (modLink l (fun k =>
      { k with retrain := none, flowF := LinkFlow.init, flowR := LinkFlow.init, errs := [] }) s)) s
    giveUpReset ((ownTrains d train).foldl (fun s t => trainLink t s) s)

/-- PARTIAL_RESET (R348). -/
def execPartialReset (die : Fin 4) (train : List LinkTrain) (s : State) : Host.Outcome State Fault Refusal :=
  .next (partialReset die.val train s)

/-- The cells of a memory with those of one copy replaced by the other copy's: `own` says which keys are the first copy's, `dest` where a key of
the other goes. -/
def recopied (own : Nat → Bool) (dest : Nat → Option Nat) (m : List Host.Cell) : List Host.Cell :=
  m.foldl (fun t c => match dest c.1 with
    | some k => tset 0 k c.2 t
    | none => t) (m.filter fun c => !own c.1)

/-- The poison marks of one copy replaced by the other copy's. -/
def recopiedMarks (own : Nat → Bool) (dest : Nat → Option Nat) (m : List Nat) : List Nat :=
  (m.filter fun g => !own (g * 64)) ++ m.filterMap fun g => (dest (g * 64)).map (· / 64)

/-- Whether a key of `win` is in a copy of the vehicle realm's mirrored window. -/
def inMirror (key : Nat) : Bool := mirrored (key % mirrorKey / 2 ^ 48) (key % mirrorKey % 2 ^ 48)

/-- Where the byte that a key of the partner's copy of the mirrored window holds goes on a die that returns: its own quarter from the mirror
of it, the mirror of the partner's quarter from that quarter. -/
def mirrorTo (s : State) (k key : Nat) : Option Nat :=
  if !inMirror key then none
  else if mirrorKey ≤ key && winQuarter s (key - mirrorKey) == k then some (key - mirrorKey)
  else if key < mirrorKey && winQuarter s key == partnerOf s k then some (key + mirrorKey)
  else none

/-- Whether a vehicle room has lost its slot on a die while its slot on that die's partner stays (R201, R328). -/
def halfRoom (s : State) (k : Nat) (e : Room) : Bool :=
  e.inHbm && decide (e.count ≠ 0) && e.slots.length == 1 && e.slots.any (fun x => x.place == partnerOf s k)

/-- The distance in `room` of the copy of a room on a die: the first copy is its home die's. -/
def slotOff (k : Nat) (e : Room) : Nat := if secondPlace e k then mirrorOff else 0

/-- Where a byte of a half room's remaining copy goes on the die that returns. -/
def roomTo (s : State) (k key : Nat) : Option Nat :=
  let e := tget Room.init (key / 2 ^ 20) s.mem.dirs
  let there := slotOff (partnerOf s k) e
  if key / 2 ^ 52 == 0 && halfRoom s k e && key / mirrorOff % 2 == there / mirrorOff then some (key - there + slotOff k e) else none

/-- Whether a key of `room` is in the copy that a half room is to get again. -/
def roomOwn (s : State) (k key : Nat) : Bool :=
  let e := tget Room.init (key / 2 ^ 20) s.mem.dirs
  key / 2 ^ 52 == 0 && halfRoom s k e && key / mirrorOff % 2 == slotOff k e / mirrorOff

/-- A half room gets a slot on the die that returns; which one is free (log 9). -/
def giveSlot (k : Nat) (key : Nat) (s : State) : State :=
  let x := pickSlot s 0 s.freeCtr k
  { modRoom 0 key (fun e => { e with slots := if e.home = k then x :: e.slots else e.slots ++ [x] }) s with freeCtr := s.freeCtr + 1 }

/-- The vehicle realm's mirrored window units and rooms of a die copied from its partner, poison marks with them (R348). -/
def refill (k : Nat) (s : State) : State :=
  let halves := (s.mem.dirs.filter fun e => decide (e.1 < 2 ^ 32) && halfRoom s k e.2).map (·.1)
  let own := fun key => inMirror key && winOnDie s k key
  halves.foldl (fun s r => giveSlot k r s) (modMem (fun m => { m with
    win := recopied own (mirrorTo s k) m.win, poisonWin := recopiedMarks own (mirrorTo s k) m.poisonWin,
    room := recopied (roomOwn s k) (roomTo s k) m.room, poisonRoom := recopiedMarks (roomOwn s k) (roomTo s k) m.poisonRoom }) s)

/-- A die that has been reset alone rejoins its placement list (R348); its rehearsals begin anew (R411). -/
def restoreDie (k : Nat) (s : State) : State :=
  if !s.boot.resetting.contains k || !running s then s
  else
    let s := refill k { s with boot := { s.boot with resetting := s.boot.resetting.filter (· != k) } }
    let s := regMod K.ID_DIES_in_service (fun v => withBit v k true) s
    let s := (List.range 6).foldl (fun s w => regSet (K.REH_DONE_arrays k w) 0 s) s
    raise .manager ⟨0x0309, 0, true, islNode (keyIsl s), k, 1, 0⟩ s

/-- PARTIAL_RESET_REJOIN: at a frame start the die rejoins, on a decision of the holder island, which signature mode gates (R318, R348). -/
def execPartialResetRejoin (die : Fin 4) (s : State) : Host.Outcome State Fault Refusal :=
  .next (
    if !s.boot.resetting.contains die.val || !running s || s.frame.start ≠ s.tbUnits || !(linksOf die.val).any (fun l => linkState s l == 2)
    then s
    else gateOr (.restoreDie die.val) (restoreDie die.val) s)

end Sys2Proof.Machine
end

