-- ==== Sys2Proof/Machine/Boot.lean ====
section
/-! DEFINITION. Resets, the boot from power-up or wake to WARM_IDLE, and the resets of host ports (R350 to R361, R400, R401, R411, R421
to R426). -/

namespace Sys2Proof.Machine

/-! Resets -/

/-- The registers that a wake keeps besides the wear counters (R361, R411). -/
def wakeKeys : List Nat := [K.TB_STATUS_valid, K.TB_GEN_gen, K.TB_INC_INT_int, K.TB_INC_FRAC_frac]

/-- A register file with nothing but some of its fields. -/
def keepRegs (keys : List Nat) (reg : List (Nat × Nat)) : List (Nat × Nat) := reg.filter fun e => keys.contains e.1

/-- Host ports after a module reset: only PERST_n is what it was (R411). -/
def resetPorts (hosts : List (Nat × HostPort)) : List (Nat × HostPort) :=
  hosts.foldl (fun l e => tset HostPort.init e.1 { HostPort.init with perstLow := e.2.perstLow } l) []

/-- The memories after a module reset: the hosts' own memory alone is not the module's (R159, R358). -/
def resetMem (m : Memory) : Memory := { Memory.init with host := m.host }

/-- The module after a reset of every register but `keys` (R411). What the always-on store keeps, the control pins, the reference clock and
the hosts' memory stay; the commands waiting stay, too. -/
def resetAll (keys : List Nat) (s : State) : State :=
  { State.reset with
    pending := s.pending, freeCtr := s.freeCtr, lastRead := s.lastRead, accCtr := s.accCtr, refSys := s.refSys, ticks := s.ticks,
    op := s.op, opLog := s.opLog, mgrPort := s.mgrPort, kept := s.kept, reg := keepRegs keys s.reg, hosts := resetPorts s.hosts,
    mem := resetMem s.mem, fus := { Fusion.init with motions := s.fus.motions },
    isl := { Islands.init with a := { Island.init with resetLow := s.isl.a.resetLow },
                               b := { Island.init with resetLow := s.isl.b.resetLow } },
    boot := { Boot.init with mrstLow := s.boot.mrstLow, railsGood := s.boot.railsGood } }

/-- The boot timeline starts (R355): phase 1, the islands in their ROM self-test; realm 0 is bound to the manager host's port (R220). -/
def startBoot (s : State) : State :=
  let s := setOp .booting { s with boot := { s.boot with relTick := s.ticks } }
  let s := regSet K.BOOT_STATUS_phase 1 (regSet K.ISL_STATUS_sia 2 (regSet K.ISL_STATUS_sib 2 s))
  actSet (K.REALM_BIND_host 0) s.mgrPort (shSet (K.REALM_BIND_host 0) s.mgrPort s)

/-- MRST_RELEASE: the straps are sampled; the boot starts where every rail is good (R355, R403, R423, R426). -/
def execMrstRelease (straps : Fin 4) (railsGood : Bool) (s : State) : Host.Outcome State Fault Refusal :=
  .next (if !s.boot.mrstLow then s
    else
      let s := { s with boot := { s.boot with mrstLow := false, railsGood := railsGood }, mgrPort := straps.val }
      if railsGood then startBoot s else s)

/-- RAILS_GOOD: the module leaves the reset that a low rail held (R423). -/
def execRailsGood (s : State) : Host.Outcome State Fault Refusal :=
  .next (if s.boot.mrstLow || s.boot.railsGood then s else startBoot { s with boot := { s.boot with railsGood := true } })

/-- MRST_ASSERT: the whole module is reset from any state (R411, R426). -/
def execMrstAssert (s : State) : Host.Outcome State Fault Refusal :=
  .next (
    let s := resetAll wearKeys { s with boot := { s.boot with mrstLow := true } }
    if s.op = .off then s else setOp .off s)

/-- POWER_REMOVAL: only the always-on store is kept; the wear counters are as last written there (R29, R396, R422). -/
def execPowerRemoval (s : State) : Host.Outcome State Fault Refusal :=
  .next { State.reset with
    pending := s.pending, freeCtr := s.freeCtr, lastRead := s.lastRead, accCtr := s.accCtr, kept := s.kept,
    reg := s.kept.wear.foldl (fun r e => tset (resetOf e.1) e.1 e.2 r) [], hosts := resetPorts s.hosts, mem := resetMem s.mem,
    fus := { Fusion.init with motions := s.fus.motions },
    isl := { Islands.init with a := { Island.init with resetLow := s.isl.a.resetLow },
                               b := { Island.init with resetLow := s.isl.b.resetLow } } }

/-- WAKE: from DORMANT the boot timeline runs, but for the time base, link records and wear counters (R361, R411); ignored while RST_SIB_N
is low (R426). -/
def execWake (s : State) : Host.Outcome State Fault Refusal :=
  .next (if s.op ≠ .dormant || s.isl.b.resetLow then s
    else
      let r := resetAll (wearKeys ++ wakeKeys) s
      startBoot { r with tbUnits := s.tbUnits, time := s.time, thm := { Thermal.init with inletLog := s.thm.inletLog },
                         boot := { r.boot with wake := true } })

/-! Secure boot -/

/-- The phase of R355. -/
def phase (s : State) : Nat := regGet s K.BOOT_STATUS_phase

/-- Whether the boot is at a phase and goes on. -/
def bootAt (s : State) (p : Nat) : Bool := s.op == .booting && phase s == p

/-- The next phase. -/
def toPhase (p : Nat) (s : State) : State := if s.op = .booting then regSet K.BOOT_STATUS_phase p s else s

/-- A boot that cannot continue ends in SAFE_OFF (R360, R362). -/
def bootFail (code src : Nat) (s : State) : State :=
  let e : Ev := ⟨0x0307, 4, true, src, code, phase s, 0⟩
  classDWith e 7 (regSet K.BOOT_STATUS_phase 15 (regSet K.BOOT_STATUS_code code s))

/-- ROM_SELF_TEST (R355, R360): the pairs lock, or the boot fails; SI_B alone may be FAILED (R351). -/
def execRomSelfTest (siaGood sibGood : Bool) (s : State) : Host.Outcome State Fault Refusal :=
  .next (if !bootAt s 1 || islState s .a ≠ 2 || islState s .b ≠ 2 then s
    else
      let put := fun (g : Bool) => if g then 0 else 4
      let s := regSet K.ISL_STATUS_sia (put siaGood) (regSet K.ISL_STATUS_sib (put sibGood) s)
      if !siaGood then (if sibGood then bootFail 4 (islNode .b) s else bootFail 5 iodSteward s)
      else if sibGood then s
      else raiseFault .manager ⟨0x0602, 3, true, islNode .a, 1, 3, 0⟩ s)

/-- The measurement register over the components' digests in load order (R353). -/
def measure (ds : List (List Byte)) : List Byte := ds.foldl (fun m d => sha384 (m ++ d)) (zeros 48)

/-- Why a slot does not verify: 1 its key, signature or a component's digest fails, 2 only its security version is below the fused minimum
(R353, R360). -/
def slotFault (s : State) (x : SlotImage) : Option Nat :=
  if sha384 x.key ≠ s.kept.keyHashA || !x.sigOk || x.components.map sha384 ≠ x.listed then some 1
  else if x.svn.toNat < s.kept.svnMin then some 2
  else none

/-- A verified slot boots: it is measured, its security version runs (R352, R353, R362). -/
def takeSlot (slot : Nat) (x : SlotImage) (s : State) : State :=
  let m := measure x.listed
  let s := (List.range 12).foldl (fun s w => regSet (K.ID_MEASURE_m w) (fieldAt m (4 * w) 4) s) s
  let s := regSet K.BOOT_STATUS_slot slot (regSet K.BOOT_SVN_svn x.svn.toNat s)
  let s := { s with boot := { s.boot with key := x.key, listed := x.listed, svn := x.svn.toNat, raiseMin := x.raiseMin, log := x.listed } }
  let s := match s.boot.slot0 with
    | some c => raiseFault .manager ⟨0x0306, 1, true, islNode .a, slot, c, 0⟩ s
    | none => s
  toPhase 2 s

/-- BOOT_SLOT: slot 0 is read first, slot 1 only when slot 0 fails (R352, R353, R360). -/
def execBootSlot (slot : Fin 2) (image : SlotImage) (s : State) : Host.Outcome State Fault Refusal :=
  .next (if !bootAt s 1 || islState s .a ≠ 0 || decide (slot.val = 1) != s.boot.slot0.isSome then s
    else match slotFault s image, s.boot.slot0 with
    | none, _ => takeSlot slot.val image s
    | some c, none => { s with boot := { s.boot with slot0 := some c } }
    | some c, some c0 => bootFail (max c c0) (islNode .a) s)

/-- SIB_FIRMWARE_VERIFY: SI_B checks the key, the signature and the digest of its firmware under its own fused key hash and runs it, or is
FAILED; the stewards' code is on its way behind it (R354). DESIGN CHOICE (log 91): the ring's load is one operand of this command. -/
def execSibFirmwareVerify (load : RingLoad) (s : State) : Host.Outcome State Fault Refusal :=
  .next (if !bootAt s 2 then s
    else
      let ok := load.sigOk && sha384 s.boot.key == s.kept.keyHashB && sha384 load.firmware == nth s.boot.listed 1 []
      let s := { s with boot := { s.boot with codes := load.codes } }
      toPhase 3 (if ok || islState s .b == 4 then s
        else raiseFault .manager ⟨0x0602, 3, true, islNode .b, 1, 3, 0⟩ (regSet K.ISL_STATUS_sib 4 s)))

/-- The dies (4: the IOD) whose steward finds that its code has another digest than SI_A sends with it, the one that the header lists
(R354). -/
def refusals (s : State) : List Nat :=
  (List.range 5).filter fun d => sha384 (nth s.boot.codes d []) != nth s.boot.listed 2 []

/-- The dies and HBM are powered, and the steward of each die sends the first set point of its rail (R355, R385, R419, R420). -/
def powerDies (s : State) : State :=
  (List.range 4).foldl (fun s d => if s.boot.refused.contains d then s else followRail d s) { s with boot := { s.boot with loaded := true } }

/-- STEWARD_LOAD: each steward checks its code; with a coolant flow of 1.0 L/min the dies and HBM are powered, else the boot waits in phase 9
(R354, R355, R359). DESIGN CHOICE (log 91): what follows a refusal; a steward that refuses its code does not run, so its die answers on no link,
and without the IOD's steward the module has no IOD (R335). -/
def execStewardLoad (s : State) : Host.Outcome State Fault Refusal :=
  .next (if !bootAt s 3 || s.boot.loaded then s
    else
      let s := { s with boot := { s.boot with refused := refusals s } }
      if s.boot.refused.contains 4 then classD 2 (islNode .a) s
      else if f32Le f32One (flowUsed s) then powerDies s else toPhase 9 s)

/-- Whether the flow has stayed at or above 1.8 L/min for 1 s: the sensor's, or while it is failed the estimate, a mean over the last second
(R359, R387). -/
def flowStays (s : State) : Bool :=
  if regGet s K.THM_STATUS_sensor_ok = 1 then s.thm.goodFrom.any fun t => decide (t + secTicks ≤ s.ticks)
  else f32Le 0x3FE66666 (flowUsed s)

/-- BOOT_RESUME: the flow has stayed at or above 1.8 L/min for 1 s (R359). -/
def execBootResume (s : State) : Host.Outcome State Fault Refusal :=
  .next (if bootAt s 9 && flowStays s then toPhase 3 (powerDies s) else s)

/-! Discovery -/

/-- The die and port at a topology entry's end (R340, R410). -/
def topoEnd (e : Nat) : Nat × Nat :=
  if e % 2 = 0 then ((linkEnds (e / 2)).1, (linkPorts (e / 2)).1) else ((linkEnds (e / 2)).2, (linkPorts (e / 2)).2)

/-- The end that an entry's end faces. -/
def farEnd (e : Nat) : Nat := if e % 2 = 0 then e + 1 else e - 1

/-- An announcement, none where the list has none. -/
def annOf (ends : List EndAnn) (e : Nat) : EndAnn := ends.getD e ⟨false, 0, 0, 0⟩

/-- Whether a link has trained: both its ends answered. -/
def linkAnswered (ends : List EndAnn) (l : Nat) : Bool := (annOf ends (2 * l)).answered && (annOf ends (2 * l + 1)).answered

/-- The words of a topology entry (R410). -/
def topoWord (s : State) (ends : List EndAnn) (e : Nat) : Nat :=
  let x := annOf ends e
  let p := topoEnd e
  p.1 + p.2 * 16 + (if x.answered then x.rtype.val * 256 + x.rport.val * 4096 else 3 * 256) +
    (if linkAnswered ends (e / 2) then topoWidths s (e / 2) + 2 ^ 31 else 0)

/-- One link trains in full at power-up or wake (R349), from what its records hold. -/
def trainFull (l goodF goodR : Nat) (s : State) : State :=
  let from_ := fun rev =>
    let a := tget LinkDir.init (recordKey l 0 rev) s.kept.records
    let b := tget LinkDir.init (recordKey l 1 rev) s.kept.records
    if a.epoch < b.epoch then b else a
  let s := modLink l (fun k => { fullDirs goodF goodR { k with fwd := from_ false, rev := from_ true } with trained := true }) s
  let s := laneTest l goodF goodR s
  if popCount 68 goodF < 16 || popCount 68 goodR < 16 then judgeLink l s
  else showLink l (regSet (K.LNK_STATUS_state l) 2 (writeRecord l true (writeRecord l false s)))

/-- What the port ends hear, without those of a die whose steward does not run (R354). -/
def heardEnds (s : State) (ends : List EndAnn) : List EndAnn :=
  ends.zipIdx.map fun x =>
    if s.boot.refused.contains (topoEnd x.2).1 || s.boot.refused.contains (topoEnd (farEnd x.2)).1 then ⟨false, 0, 0, 0⟩ else x.1

/-- LINK_TRAINING_DONE: the links have trained and the topology table and stack identities are gathered (R349, R350, R410). -/
def execLinkTrainingDone (ends : List EndAnn) (hbmIds : List (BitVec 128)) (goodFwd goodRev : List (BitVec 68)) (s : State) :
    Host.Outcome State Fault Refusal :=
  .next (if !bootAt s 3 || !s.boot.loaded then s
    else
      let ends := heardEnds s ends
      let s := { s with boot := { s.boot with ends := ends } }
      let s := (List.range 8).foldl (fun s l => if linkAnswered ends l then
        trainFull l (nth goodFwd l 0).toNat (nth goodRev l 0).toNat s else s) s
      let s := (List.range 20).foldl (fun s e =>
        let x := annOf ends e
        let id := if x.answered then x.rid.toNat else 0
        regSet (K.ID_TOPO_entry e 0) (topoWord s ends e) (regSet (K.ID_TOPO_entry e 1) (id % 2 ^ 32)
          (regSet (K.ID_TOPO_entry e 2) (id / 2 ^ 32) s))) s
      let s := (List.range 8).foldl (fun s h => (List.range 4).foldl (fun s w =>
        regSet (K.ID_HBM_id h w) (bitsAt (nth hbmIds h 0).toNat (32 * w) 32) s) s) s
      toPhase 4 s)

/-- The announcements of a die position: the entries whose far end lies on it and answered. -/
def heard (ends : List EndAnn) (d : Nat) : List Nat :=
  (List.range 20).filter fun e => (topoEnd (farEnd e)).1 == d && (annOf ends e).answered

/-- The die type of a position (R350). -/
def posType (d : Nat) : Nat := if d < 4 then 0 else if d = 4 then 1 else 2

/-- Whether an announcement differs from the manifest in identity, type or position (R351). -/
def wrongEnd (m : Manifest) (ends : List EndAnn) (d e : Nat) : Bool :=
  let x := annOf ends e
  x.rid != nth m.dies d 0 || x.rtype.val != posType d || x.rport.val != (topoEnd (farEnd e)).2

/-- The identity of a stack as the registers hold it. -/
def stackId (s : State) (h : Nat) : Nat := ((List.range 4).map fun w => regGet s (K.ID_HBM_id h w) * 2 ^ (32 * w)).sum

/-- What the manifest check finds wrong: die position or 7 + stack, announced type, announced identity (R351, R362). -/
def manifestFaults (s : State) (m : Manifest) : List (Nat × Nat × Nat) :=
  ((List.range 7).filterMap fun d => ((heard s.boot.ends d).find? (wrongEnd m s.boot.ends d)).map fun e =>
    (d, (annOf s.boot.ends e).rtype.val, (annOf s.boot.ends e).rid.toNat)) ++
  ((List.range 8).filterMap fun h =>
    if !(heard s.boot.ends (h / 2)).isEmpty && stackId s h != 0 && stackId s h != (nth m.hbmIds h 0).toNat
    then some (7 + h, 0, stackId s h % 2 ^ 64) else none)

/-- The event of one manifest fault. -/
def mismatchEv (x : Nat × Nat × Nat) : Ev := ⟨0x0308, 4, true, islNode .a, x.1, x.2.1, x.2.2⟩

/-- A manifest that does not match ends the boot with code 3; a further fault is counted with an event of its own (R335, R351). -/
def failManifest (fs : List (Nat × Nat × Nat)) (s : State) : State :=
  match fs with
  | [] => bootFail 3 (islNode .a) s
  | f :: t => t.foldl (fun s x => raiseFault .manager (mismatchEv x) s) (bootFail 3 (islNode .a) (raise .manager (mismatchEv f) s))

/-- Dies found and matched are in service; a missing die or stack removes its die, a missing SI_B is FAILED (R351, R409). -/
def passManifest (m : Manifest) (s : State) : State :=
  let there := fun d => !(heard s.boot.ends d).isEmpty
  let s := (List.range 7).foldl (fun s d => if there d then
    regSet (K.ID_DIE_LO_id d) ((nth m.dies d 0).toNat % 2 ^ 32) (regSet (K.ID_DIE_HI_id d) ((nth m.dies d 0).toNat / 2 ^ 32) s) else s) s
  let s := regSet K.ID_DIES_present (ofBits ((List.range 4).map there)) (regSet K.ID_DIES_in_service 15 s)
  let s := regSet K.ID_DIES_sia_ok (islState s .a != 4).toNat (regSet K.ID_DIES_sib_ok (islState s .b != 4).toNat s)
  let s := toPhase 5 s
  let s := (List.range 4).foldl (fun s d => if there d then s else removeDie d 3 s) s
  let s := (List.range 8).foldl (fun s h => if there (h / 2) && stackId s h == 0 then removeDie (h / 2) 0 s else s) s
  let s := dropIsolated s
  if !(annOf s.boot.ends 18).answered && !islRuns s .b && islState s .b != 4 then failIsl .b s else s

/-- MANIFEST_CHECK (R351). -/
def execManifestCheck (m : Manifest) (s : State) : Host.Outcome State Fault Refusal :=
  .next (if !bootAt s 4 then s
    else if !m.sigOk || m.serial.toNat ≠ moduleSerial s then bootFail 3 (islNode .a) s
    else if (manifestFaults s m).isEmpty then passManifest m s
    else failManifest (manifestFaults s m) s)

/-! Memory, rehearsal and host windows -/

/-- MEMORY_TRAINING_DONE: a stack that fails removes its die, a cellar package takes the cellar out of service (R351, R355). -/
def execMemoryTrainingDone (stacksBad : List (Fin 8)) (cellarBad : Bool) (s : State) : Host.Outcome State Fault Refusal :=
  .next (if !bootAt s 5 then s
    else
      let s := toPhase 6 s
      let s := stacksBad.foldl (fun s h => removeDie (h.val / 2) 0 s) s
      if cellarBad then recordFault 3 iodSteward { s with lastClass := 3, boot := { s.boot with cellarIn := false } } else s)

/-- BOOT_REHEARSAL_DONE: every array that passed has its pass, one that failed is withdrawn, an engine that failed its golden workload is
removed (R145, R310, R355). -/
def execBootRehearsalDone (arraysBad : List (Fin 4 × Fin 24 × Fin 8)) (enginesBad : List (Fin 4)) (s : State) :
    Host.Outcome State Fault Refusal :=
  .next (if !bootAt s 6 then s
    else
      let s := toPhase 7 s
      let s := arraysBad.foldl (fun s x => withdrawArray x.1.val (arrayIdx x.2.1 x.2.2) s) s
      let s := (List.range 4).foldl (fun s d => if dieIn s d then (List.range 6).foldl (fun s w =>
        regSet (K.REH_DONE_arrays d w) (regGet s (K.SERVICE_arrays d w)) s) s else s) s
      let s := enginesBad.foldl (fun s e => removeEngine e.val 0 s) s
      { s with frame := { s.frame with golden := (List.range 4).filter (engineIn s) } })

/-- HOST_WINDOWS_READY: Configuration Request Retry Status ends; a finished boot enters WARM_IDLE and a frame is due (R142, R353, R355, R356,
R359, R360). -/
def execHostWindowsReady (s : State) : Host.Outcome State Fault Refusal :=
  .next (if bootAt s 7 then
      let s := regSet K.BOOT_STATUS_phase 8 (regSet K.BOOT_TIME_us (((s.ticks - s.boot.relTick) / 500) % 2 ^ 32) s)
      setOp .warmIdle { s with
        boot := { s.boot with windows := true }, frame := { s.frame with due := true },
        kept := { s.kept with svnMin := if s.boot.raiseMin then max s.kept.svnMin s.boot.svn else s.kept.svnMin } }
    else if bootAt s 9 || s.op = .safeOff then { s with boot := { s.boot with windows := true } }
    else s)

/-! Host ports -/

/-- The registers of a port's own blocks back at reset (R411). -/
def resetPortRegs (p : Nat) (s : State) : State :=
  { s with reg := s.reg.filter fun e => !(e.1 / 32 / 0x10000 == p && decide (e.1 / 32 % 0x10000 < 0x800)) }

/-- The records of jobs accepted from a port are discarded from now on (R356, R401). -/
def muteJobs (p : Nat) (s : State) : State :=
  { s with jobs := s.jobs.map fun j => if j.port = p then { j with mute := true } else j }

/-- The function of a port reset: its registers, its rings, an attestation in progress (R356, R411). -/
def resetPort (p : Nat) (s : State) : State :=
  let s := muteJobs p (resetPortRegs p s)
  { modPort p (fun h => { HostPort.init with perstLow := h.perstLow }) s with attest := s.attest.filter fun a => a.1 != p }

/-- PERST_ASSERT (R356). -/
def execPerstAssert (port : Fin 4) (s : State) : Host.Outcome State Fault Refusal :=
  .next (if (portOf s port.val).perstLow then s
    else modPort port.val (fun h => { h with perstLow := true }) (resetPort port.val s))

/-- PERST_RELEASE: the port trains its link and answers configuration requests (R355, R356). -/
def execPerstRelease (port : Fin 4) (s : State) : Host.Outcome State Fault Refusal :=
  .next (modPort port.val (fun h => { h with perstLow := false }) s)

/-- Whether a port's function is up: its PERST_n released and the IOD powered. -/
def portUp (s : State) (p : Nat) : Bool := !(portOf s p).perstLow && powered s

/-- FUNCTION_LEVEL_RESET acts as an assertion of PERST_n (R400). -/
def execFunctionLevelReset (port : Fin 4) (s : State) : Host.Outcome State Fault Refusal :=
  .next (if portUp s port.val then resetPort port.val s else s)

/-- A fall of Bus Master Enable: records of the host's jobs are discarded, and with the host enabled its host, ring and event enables are
cleared (R221, R401). -/
def masterFall (p : Nat) (s : State) : State :=
  if !(portOf s p).busMaster then s
  else
    let s := muteJobs p (modPort p (fun h => { h with busMaster := false }) s)
    if regGet s (K.HOST_CTRL_enable p) ≠ 1 then s
    else
      let s := (List.range 8).foldl (fun s i => regSet (K.RING_CTRL_enable p i) 0 s) s
      regSet (K.HOST_CTRL_enable p) 0 (regSet (K.EVT_CTRL_enable p) 0 s)

/-- BUS_MASTER_ENABLE_FALL (R401). -/
def execBusMasterEnableFall (port : Fin 4) (s : State) : Host.Outcome State Fault Refusal := .next (masterFall port.val s)

end Sys2Proof.Machine
end

