-- ==== Sys2Proof/Machine/TimeBase.lean ====
section
/-! DEFINITION. The time base, cue generators and captures (R253 to R269), and who may command a register (R402, R403). -/

namespace Sys2Proof.Machine

/-- The node of the time base and cue unit (R18). -/
abbrev timeNode : Nat := 0x44C0

/-! Register commands -/

/-- A write to a register of a global block: it acts for the manager host, and is counted for another (R403). -/
def mgrWrite (p : Nat) (act : State → State) (s : State) : State :=
  if !windowOpen s p then s else if p = s.mgrPort then act s else denied p s

/-- A flag of TB_STATUS set and its event raised (R254 to R257). -/
def tbRefuse (key code : Nat) (attn : Bool) (a0 a1 : Nat) (s : State) : State :=
  raise .manager ⟨code, 0, attn, timeNode, a0, a1, 0⟩ (regSet key 1 s)

/-- A write of the integer part of INC commits the pair from the next tick, or it is refused (R254). -/
def tbInc (int : Nat) (s : State) : State :=
  let frac := regGet s K.TB_INC_FRAC_frac
  let v := int * 2 ^ 32 + frac
  let s := regSet K.TB_INC_INT_int int s
  if v ≤ 2 ^ 33 + 8589934 && 2 ^ 33 ≤ v + 8589934 then { s with time := { s.time with incNext := some v } }
  else tbRefuse K.TB_STATUS_inc_refused 0x0401 false int frac s

/-- TB_INC_COMMIT (R254). -/
def execTbIncCommit (port : Fin 4) (int : BitVec 8) (s : State) : Host.Outcome State Fault Refusal :=
  .next (mgrWrite port.val (tbInc int.toNat) s)

/-- The jump limit in force (R259). -/
def jumpLimit (s : State) : Nat := clampNat 1 1000000 (regGet s K.TB_JUMP_LIMIT_ns)

/-- Why a step is refused: the first case that holds (R256). -/
def stepRefusal (d : Int) (s : State) : Option Nat :=
  if jumpLimit s < d.natAbs then some 0
  else if s.time.debt ≠ 0 || s.time.step.isSome then some 1
  else if !tbValid s then some 2
  else none

/-- A phase step stored for the next tick, or refused (R255, R256). -/
def tbStep (ns : Nat) (s : State) : State :=
  let d := toSigned 32 ns
  if d = 0 then s
  else match stepRefusal d s with
  | some r => tbRefuse K.TB_STATUS_step_refused 0x0402 true ns r s
  | none => { s with time := { s.time with step := some d } }

/-- TB_STEP (R255). -/
def execTbStep (port : Fin 4) (ns : BitVec 32) (s : State) : Host.Outcome State Fault Refusal :=
  .next (mgrWrite port.val (tbStep ns.toNat) s)

/-- A BASELINE stored for the next tick, or refused (R257). -/
def tbBaseline (s : State) : State :=
  let ns := regGet s K.TB_BASE_NS_ns
  if s.inDrive then tbRefuse K.TB_STATUS_baseline_refused 0x0403 true 0 0 s
  else if 1000000000 ≤ ns then tbRefuse K.TB_STATUS_baseline_refused 0x0403 true 1 0 s
  else
    let sec := addr64 0 (regGet s K.TB_BASE_SEC_LO_sec) (regGet s K.TB_BASE_SEC_HI_sec)
    { s with time := { s.time with base := some (sec * unitsPerSec + ns * 2 ^ 32) } }

/-- TB_BASELINE (R257). -/
def execTbBaseline (port : Fin 4) (s : State) : Host.Outcome State Fault Refusal := .next (mgrWrite port.val tbBaseline s)

/-- The time base latched (R259). -/
def tbSnap (s : State) : State :=
  regSet K.TB_SNAP_FRAC_frac (s.tbUnits % 2 ^ 32) (regSet K.TB_SNAP_NS_ns (tbNs s)
    (regSet K.TB_SNAP_SEC_LO_sec (tbSec s % 2 ^ 32) (regSet K.TB_SNAP_SEC_HI_sec (tbSec s / 2 ^ 32) s)))

/-- TB_SNAP (R259). -/
def execTbSnap (port : Fin 4) (s : State) : Host.Outcome State Fault Refusal := .next (mgrWrite port.val tbSnap s)

/-! Cue generators -/

/-- A generator. -/
def cueOf (s : State) (g : Nat) : Cue := tget Cue.init g s.ing.cues
/-- It changed. -/
def modCue (g : Nat) (f : Cue → Cue) (s : State) : State := { s with ing := { s.ing with cues := tmod Cue.init g f s.ing.cues } }

/-- The first edge time after a time, under a period and phase (R264). -/
def edgeAfter (period phase t : Nat) : Nat :=
  if t < phase then phase - (phase - t - 1) / max 1 period * max 1 period else phase + ((t - phase) / max 1 period + 1) * max 1 period

/-- The next edge time of a generator (R264). -/
def nextEdge (s : State) (g : Nat) : Nat :=
  edgeAfter (actGet s (K.CUE_PERIOD_ns g)) (actGet s (K.CUE_PHASE_ns g)) (cueOf s g).last

/-- Whether a generator runs. -/
def cueOn (s : State) (g : Nat) : Bool := actGet s (K.CUE_CTRL_enable g) == 1

/-- Whether a generator's next edge has come. -/
def edgeDue (s : State) (g : Nat) : Bool := cueOn s g && decide (nextEdge s g ≤ tauNow s)

/-- The generators start afresh from the time base as it now is, no pin mid-pulse (R267). -/
def restartCues (s : State) : State :=
  (List.range 16).foldl (fun s g => modCue g (fun c => { c with last := tauNow s, pulse := none }) s) s

/-! The tick -/

/-- What takes effect at a tick before it counts: INC, then a BASELINE, which discards a step, or a step (R254 to R257). The second component
tells whether the time base has been loaded. -/
def tickHead (s : State) : State × Bool :=
  let s := { s with time := { s.time with inc := s.time.incNext.getD s.time.inc, incNext := none } }
  match s.time.base with
  | some u =>
    let prev := tbSec s
    let s := regSet K.TB_STATUS_valid 1 (regMod K.TB_GEN_gen (fun v => (v + 1) % 2 ^ 32) s)
    let s := { s with tbUnits := u, time := { s.time with base := none, step := none, debt := 0 },
                      fus := { s.fus with ego := { s.fus.ego with next := u / 2 ^ 32 / 1000000 + 1 } } }
    (raise .manager ⟨0x0404, 0, false, timeNode, regGet s K.TB_GEN_gen, 0, prev⟩ (restartCues s), true)
  | none =>
    match s.time.step with
    | none => (s, false)
    | some d =>
      let s := regInc K.TB_STEP_COUNT_count { s with time := { s.time with step := none } }
      if 0 ≤ d then ({ s with tbUnits := s.tbUnits + d.toNat * 2 ^ 32 }, false)
      else ({ s with time := { s.time with debt := d.natAbs * 2 ^ 32 } }, false)

/-- `n` ticks of a time base under a hold debt: the count and the debt after them (R253, R255). -/
def runTicks (inc n units debt : Nat) : Nat × Nat :=
  let held := min n (debt / inc)
  let left := debt - held * inc
  if n = held then (units, left) else (units + (n - held) * inc - left, 0)

/-- `n` ticks of the 500 MHz tick (R253 to R258); what counts time elsewhere follows (R396, R369). -/
def tick (n : Nat) (s : State) : State :=
  if s.op = .off || n = 0 then s
  else
    let h := tickHead s
    let s := h.1
    let r := runTicks (max 1 s.time.inc) (if h.2 then n - 1 else n) s.tbUnits s.time.debt
    let t0 := s.ticks
    let s := { s with tbUnits := r.1, time := { s.time with debt := r.2 }, ticks := t0 + n }
    limpRelease (wearTime t0 (t0 + n) (regSet K.TB_STATUS_holding (decide (r.2 ≠ 0)).toNat s))

/-- TIME_BASE_TICK (R253). -/
def execTimeBaseTick (n : Nat) (s : State) : Host.Outcome State Fault Refusal := .next (tick n s)

/-! Edges -/

/-- A service outside its registers: fusion 0 to 3, planning 4 and 5. -/
def svcOf (s : State) (k : Nat) : Svc := tget Svc.init k s.fus.svcs
/-- It changed. -/
def modSvc (k : Nat) (f : Svc → Svc) (s : State) : State := { s with fus := { s.fus with svcs := tmod Svc.init k f s.fus.svcs } }

/-- The services that an edge of a generator serves (R289, R308). -/
def svcsOf (s : State) (g : Nat) : List Nat :=
  let t := actGet s (K.CUE_CTRL_targets g)
  (if bitOf t 1 then (List.range 4).filter fun k =>
    actGet s (K.FUS_SVC_CTRL_enable k) == 1 && actGet s (K.FUS_SVC_CTRL_gen k) == g else []) ++
  (if bitOf t 2 then ((List.range 2).filter fun k =>
    actGet s (K.PLE_SVC_CTRL_enable k) == 1 && actGet s (K.PLE_SVC_CTRL_gen k) == g).map (4 + ·) else [])

/-- Whether an ingress port is enabled and named by an enabled stream (R282). -/
def portNamed (s : State) (p : Nat) : Bool :=
  regGet s (K.ING_CTRL_enable p) == 1 && (List.range 32).any fun k =>
    actGet s (K.STR_CTRL_enable k) == 1 && actGet s (K.STR_CTRL_port k) == p

/-- An SPI master outside its registers. -/
def spiOf (s : State) (m : Nat) : Spi := tget Spi.init m s.ing.spis
/-- It changed. -/
def modSpi (m : Nat) (f : Spi → Spi) (s : State) : State := { s with ing := { s.ing with spis := tmod Spi.init m f s.ing.spis } }

/-- An edge of a cue generator (kind 0) or capture input (kind 1) is due at the SPI masters that it triggers and that run (R275, R357). -/
def triggerSpis (kind idx : Nat) (st : Stamp) (s : State) : State :=
  (List.range 2).foldl (fun s m =>
    if regGet s (K.SPI_CTRL_trig_kind m) = kind && regGet s (K.SPI_CTRL_trig m) = idx && portNamed s (20 + m) then
      modSpi m (fun x => { x with due := x.due ++ [st] }) s
    else s) s

/-- A generator fires its next edge: it counts, starts its pulse and reaches its targets (R264 to R267, R142, R251). -/
def fireEdge (g : Nat) (s : State) : State :=
  let e := nextEdge s g
  let n := ((cueOf s g).edges + 1) % 2 ^ 64
  let st := stampNow s
  let pin := actGet s (K.CUE_CTRL_pin g) == 1
  let s := modCue g (fun c => { c with
    edges := n, last := e, stamp := some st,
    pulse := if pin then some (e + actGet s (K.CUE_WIDTH_ns g)) else c.pulse }) s
  let s := if bitOf (actGet s (K.CUE_CTRL_targets g)) 0 && cueGoverns s && running s then
      { s with frame := { s.frame with due := true, dueEdge := some (g, n) } }
    else s
  let s := { s with curtain := s.curtain.map fun c =>
    if c.atEdge && c.gen = g && c.reached.isNone && (if c.edge = 0 then !curtainBusy s c else decide (c.edge ≤ n)) then
      { c with reached := some n } else c }
  let s := if running s then (svcsOf s g).foldl (fun s k => modSvc k (fun v => { v with due := v.due ++ [(e, n)] }) s) s else s
  triggerSpis 0 g st s

/-- CUE_EDGE: an edge that has come fires, after every earlier edge of another generator (R264, R267). -/
def execCueEdge (g : Fin 16) (s : State) : Host.Outcome State Fault Refusal :=
  .next (if unitsOn s && edgeDue s g.val && (List.range 16).all fun h => !edgeDue s h || decide (nextEdge s g.val ≤ nextEdge s h)
    then fireEdge g.val s else s)

/-- CUE_PULSE_END: the pulse ends after CUE_WIDTH.ns (R265). -/
def execCuePulseEnd (g : Fin 16) (s : State) : Host.Outcome State Fault Refusal :=
  .next (match (cueOf s g.val).pulse with
    | some t => if t ≤ tauNow s then modCue g.val (fun c => { c with pulse := none }) s else s
    | none => s)

/-- The level of a cue pin (R265, R282): its pulse in the polarity of CUE_CTRL.pol, else, and while CUE_CTRL.pin is 0, its inactive level. -/
def cueLevel (s : State) (g : Nat) : Bool :=
  ((cueOf s g).pulse.isSome && actGet s (K.CUE_CTRL_pin g) == 1) != (actGet s (K.CUE_CTRL_pol g) == 1)

/-! Captures -/

/-- A capture input. -/
def capOf (s : State) (c : Nat) : Capture := tget Capture.init c s.ing.caps
/-- It changed. -/
def modCap (c : Nat) (f : Capture → Capture) (s : State) : State :=
  { s with ing := { s.ing with caps := tmod Capture.init c f s.ing.caps } }

end Sys2Proof.Machine
end

