-- ==== Sys2Proof/Machine/Channels.lean ====
section
/-! DEFINITION. Fusion channels, their samples and synchronisation, post streams, the ego-motion integrator (R285 to R290, R293 to
R295). -/

namespace Sys2Proof.Machine

/-! Channels -/

/-- A channel outside its registers. -/
def chanOf (s : State) (c : Nat) : Channel := tget Channel.init c s.fus.chans
/-- It changed. -/
def modChan (c : Nat) (f : Channel → Channel) (s : State) : State :=
  { s with fus := { s.fus with chans := tmod Channel.init c f s.fus.chans } }

/-- Whether a channel is in use. -/
def chanOn (s : State) (c : Nat) : Bool := actGet s (K.FUS_CH_CTRL_enable c) == 1

/-- The kind of a channel (R285): 0 VECTOR, 1 OBJECTS, 2 FRAME, 3 POSE. -/
def chanKind (s : State) (c : Nat) : Nat := actGet s (K.FUS_CH_CTRL_kind c)

/-- Whether a channel is UNSYNC (R288). -/
def chanUnsync (s : State) (c : Nat) : Bool := regGet s (K.FUS_CH_STATE_unsync c) == 1

/-- The extrapolation limit of a channel in ns (R291, R314). -/
def chanX (s : State) (c : Nat) : Nat := clampNat 1 200 (actGet s (K.FUS_CH_EXTRAP_ms c)) * 1000000

/-- Whether a payload, from where R285 says it starts, is well-formed (R287). -/
def payloadOk (kind : Nat) (p : List Byte) : Bool :=
  match kind with
  | 0 => p.length != 0 && p.length % 4 == 0 && decide (p.length ≤ 64)
  | 1 => p.length % 32 == 0 && decide (p.length ≤ 4096)
  | 3 => p.length == 24 && !f32Special (BitVec.ofNat 32 (fieldAt p 16 4)) && !f32Special (BitVec.ofNat 32 (fieldAt p 20 4))
  | _ => true

/-- A malformed sample discarded: counted, and told at most once a second (R287). -/
def malformed (c len : Nat) (s : State) : State :=
  let s := modChan c (fun x => { x with malformed := x.malformed + 1 }) (regInc K.FUS_MALFORMED_count s)
  let x := chanOf s c
  if x.toldAt.all fun t => decide (t + secTicks ≤ s.ticks) then
    raise .manager ⟨0x050A, 0, false, iodSteward, c, len, x.malformed⟩
      (modChan c (fun x => { x with malformed := 0, toldAt := some s.ticks }) s)
  else s

/-- A sample entered into a history ordered by source time that keeps the four latest (R286). -/
def enterSample (x : ChanSample) (h : List ChanSample) : List ChanSample :=
  let l := insertBy (fun a b => decide (a.s < b.s)) x h
  l.drop (l.length - 4)

/-- An out-of-sync sample: its channel is marked UNSYNC, and CHANNEL_UNSYNC raised (R288). -/
def markUnsync (c e t : Nat) (s : State) : State :=
  raise .manager ⟨0x0501, 0, true, iodSteward, c, min max32 e, t⟩ (regSet (K.FUS_CH_STATE_unsync c) 1 s)

/-- A well-formed sample with source time `t` and arrival `r` (R286, R288, R290). A channel is readmitted on the residuals of the last second
alone. -/
def feed (c t r : Nat) (inSync : Bool) (payload : List Byte) (s : State) : State :=
  let x := chanOf s c
  let s := modChan c (fun x => { x with next := (x.next + 1) % 2 ^ 32 }) s
  let per := actGet s (K.FUS_CH_PERIOD_ns c)
  let e := (Int.ofNat r - Int.ofNat t - Int.ofNat (actGet s (K.FUS_CH_LAT_ns c))).natAbs
  let bad := decide (per ≤ 4 * e)
  let s := if bad then modChan c (fun x => { x with badAt := some r }) s else s
  if per < e || !inSync then markUnsync c e t s
  else
    let s := if chanUnsync s c && !bad && x.badAt.all (fun b => decide (b + 1000000000 ≤ r)) then
        raise .manager ⟨0x0502, 0, false, iodSteward, c, 0, t⟩ (regSet (K.FUS_CH_STATE_unsync c) 0 s)
      else s
    if x.hist.any fun y => y.s == t then regInc (K.FUS_CH_LATE_count c) s
    else
      let s := if x.admitted.any fun a => decide (t ≤ a) then regInc (K.FUS_CH_LATE_count c) s else s
      modChan c (fun y => { y with hist := enterSample ⟨x.next, t, payload⟩ y.hist }) s

/-- A record of a packet stream that feeds a channel, its source time in the payload where src_en is set (R285 to R287); without it and with
LAT 0 the channel never becomes UNSYNC (R288). -/
def feedPacket (c : Nat) (st : Stamp) (bs : List Byte) (s : State) : State :=
  if actGet s (K.FUS_CH_CTRL_src_en c) = 1 then
    let off := actGet s (K.FUS_CH_CTRL_src_off c)
    let p := bs.drop (off + 10)
    let ns := beVal ((bs.drop (off + 6)).take 4)
    if bs.length < off + 10 || 1000000000 ≤ ns || !payloadOk (chanKind s c) p then malformed c (bs.length - (off + 10)) s
    else feed c (beVal ((bs.drop off).take 6) * 1000000000 + ns) (stampTau st) st.valid p s
  else if payloadOk (chanKind s c) bs then
    feed c (stampTau st) (stampTau st) (st.valid || actGet s (K.FUS_CH_LAT_ns c) == 0) bs s
  else malformed c bs.length s

/-- A published camera frame that feeds a channel; its payload is the frame header (R285, R286, R296). -/
def feedFrame (c : Nat) (f : FrameAsm) (hdr : List Byte) (s : State) : State :=
  feed c (stampTau f.stamp) (stampTau f.arrival) (f.stamp.valid && !f.noSync) hdr s

/-- The channels in use that an ingress stream feeds. -/
def chansOf (s : State) (k : Nat) : List Nat :=
  (List.range 32).filter fun c => chanOn s c && actGet s (K.FUS_CH_CTRL_post c) == 0 && actGet s (K.FUS_CH_CTRL_stream c) == k

/-! Post streams -/

/-- The control block of a channel's post stream. -/
def postCb (s : State) (c : Nat) : Nat := addr64 12 (actGet s (K.FUS_CH_POST_LO_base c)) (actGet s (K.FUS_CH_POST_HI_base c))

/-- The size of a channel's post stream. -/
def postSize (c : Nat) : Nat := 2 ^ (16 + (Config.postLog2 c).val)

/-- The records of a post stream from its consumer to its producer, at most `n` (R271, R272, R285). -/
def readPost (c prod : Nat) : Nat → State → State
  | 0, s => s
  | n + 1, s =>
    let at_ := (chanOf s c).post
    let h := realmRead s 0 (4096 + postCb s c + at_ % postSize c) 32
    let len := fieldAt h 0 4
    let total := if fieldAt h 4 1 = 1 then 32 else 32 + roundUp len 32
    if prod < at_ + total || len = max32 then s
    else
      let s := modChan c (fun x => { x with post := at_ + total }) s
      let sec := fieldAt h 16 6
      let s := if fieldAt h 4 1 = 0 && fieldAt h 5 1 = 30 then
          let bs := realmRead s 0 (4096 + postCb s c + at_ % postSize c + 32) len
          if payloadOk (chanKind s c) bs then
            feed c (sec * 1000000000 + fieldAt h 12 4) (tauNow s) (bitOf (fieldAt h 22 1) 0) bs s
          else malformed c len s
        else s
      readPost c prod n s

/-- One post stream read (R285): the module is its consumer; a producer out of range stops it. -/
def pollPost (c : Nat) (s : State) : State :=
  let prod := fieldAt (realmRead s 0 (postCb s c) 8) 0 8
  let cons := (chanOf s c).post
  if prod ≤ cons || postSize c < prod - cons then s
  else
    let s := readPost c prod ((prod - cons) / 32) s
    realmWrite 0 (postCb s c + 8) (leBytes 8 (chanOf s c).post) s

/-- POST_STREAM_READ (R285). -/
def execPostStreamRead (writes : List HostWrite) (s : State) : Host.Outcome State Fault Refusal :=
  .next (
    let s := applyWrites writes s
    if !running s then s
    else (List.range 32).foldl (fun s c =>
      if chanOn s c && actGet s (K.FUS_CH_CTRL_post c) == 1 then pollPost c s else s) s)

/-! Ego-motion -/

/-- The integrator changed. -/
def modEgo (f : Ego → Ego) (s : State) : State := { s with fus := { s.fus with ego := f s.fus.ego } }

/-- A 16-bit value at an offset of a frame; free where the frame is too short (R293). -/
def rawAt (bs : List Byte) (off ctr : Nat) : BitVec 16 :=
  if off + 2 ≤ bs.length then BitVec.ofNat 16 (fieldAt bs off 2) else Config.noRaw ctr

/-- A wheel frame received: a CAN frame of the configured identifier (R293). -/
def feedWheel (st : Stamp) (bs : List Byte) (s : State) : State :=
  let o := actGet s K.EGO_WHEEL_offsets
  let w := (stampTau st, rawAt bs (bitsAt o 0 8) s.freeCtr, rawAt bs (bitsAt o 8 8) (s.freeCtr + 1))
  modEgo (fun e => { e with wheels := w :: e.wheels }) { s with freeCtr := s.freeCtr + 2 }

/-- An IMU sample received (R293). -/
def feedImu (st : Stamp) (bs : List Byte) (s : State) : State :=
  modEgo (fun e => { e with imus := (stampTau st, rawAt bs (actGet s K.EGO_IMU_off_yaw) s.freeCtr) :: e.imus })
    { s with freeCtr := s.freeCtr + 1 }

/-- What a record of an ingress port gives the integrator (R293). -/
def feedEgo (port info : Nat) (st : Stamp) (bs : List Byte) (s : State) : State :=
  if actGet s K.EGO_CTRL_enable ≠ 1 then s
  else if port = 16 + actGet s K.EGO_CTRL_can && bitsAt info 0 29 == actGet s K.EGO_CAN_ID_id &&
      bitsAt info 29 1 == actGet s K.EGO_CAN_ID_ext then feedWheel st bs s
  else if port = 20 + actGet s K.EGO_CTRL_spi then feedImu st bs s
  else s

/-- The FP32 value nearest 0.001, and one half. -/
abbrev f32Milli : F32 := 0x3A83126F
abbrev f32Half : F32 := 0x3F000000

/-- round_rne_i64(v, 20) (R293); free where no 64-bit integer is the result. -/
def fix20 (v : F32) : Int :=
  let i := numRint (numScale 20 (f32Num v))
  if f32Special v || 2 ^ 63 ≤ i.natAbs then toSigned 64 (Config.egoFix v).toNat else i

/-- One step of the integrator from raw wheel speeds and yaw rate: the new pose, speed and yaw rate (R293). -/
def egoStep (s : State) (p : Pose) (rl rr yaw : BitVec 16) (t : Nat) : Pose × F32 × F32 :=
  let wsc := BitVec.ofNat 32 (actGet s K.EGO_WHEEL_SCALE_scale)
  let w := f32Mul (f32Int (toSigned 16 yaw.toNat)) (BitVec.ofNat 32 (actGet s K.EGO_IMU_SCALE_scale))
  let v := f32Mul (f32Add (f32Mul (f32Int (Int.ofNat rl.toNat)) wsc) (f32Mul (f32Int (Int.ofNat rr.toNat)) wsc)) f32Half
  let th := f32Mul w f32Milli
  let half := f32Mul th f32Half
  let cm := f32Sub p.c (f32Mul p.s half)
  let sm := f32Add p.s (f32Mul p.c half)
  let ds := f32Mul v f32Milli
  let c2 := f32Sub (f32Sub p.c (f32Mul p.s th)) (f32Mul (f32Mul p.c th) half)
  let s2 := f32Sub (f32Add p.s (f32Mul p.c th)) (f32Mul (f32Mul p.s th) half)
  let g := rsqrtS (f32Add (f32Mul c2 c2) (f32Mul s2 s2))
  (⟨t, p.x + fix20 (f32Mul ds cm), p.y + fix20 (f32Mul ds sm), f32Mul c2 g, f32Mul s2 g⟩, v, w)

/-- Condition D of R295 on the raw inputs of a step. -/
def slips (s : State) (rl rr yaw : BitVec 16) : Bool :=
  let wsc := BitVec.ofNat 32 (actGet s K.EGO_WHEEL_SCALE_scale)
  let w := f32Mul (f32Int (toSigned 16 yaw.toNat)) (BitVec.ofNat 32 (actGet s K.EGO_IMU_SCALE_scale))
  let d := f32Sub (f32Mul (f32Int (Int.ofNat rr.toNat)) wsc) (f32Mul (f32Int (Int.ofNat rl.toNat)) wsc)
  f32Lt (BitVec.ofNat 32 (actGet s K.EGO_SLIP_rad_s))
    (f32Abs (f32Sub (f32Div d (BitVec.ofNat 32 (actGet s K.EGO_TRACK_m))) w))

/-- Since when a condition has held: it starts now, or goes on, or is clear. -/
def heldFrom (now : Nat) (holds : Bool) (from_ : Option Nat) : Option Nat := if holds then some (from_.getD now) else none

/-- 20 ms without a sample (R295): the time from which that has held. -/
def silentFrom (now : Nat) (last from_ : Option Nat) : Option Nat :=
  match last with
  | some t => if t + 20000000 ≤ now then some (t + 20000000) else none
  | none => some (from_.getD now)

/-- Whether a POSE sample of the pose channel has its source time within X of an instant (R295). -/
def poseNear (s : State) (t : Nat) : Bool :=
  let c := actGet s K.EGO_CTRL_pose_ch
  chanOn s c && chanKind s c == 3 && !chanUnsync s c &&
  (chanOf s c).hist.any fun x => decide (x.s ≤ t + chanX s c) && decide (t ≤ x.s + chanX s c)

/-- The ego source (R314): 0 integrator, 1 fallback, 2 none. -/
def egoSource (s : State) : Nat := regGet s K.EGO_STATUS_source

/-- The conditions of R295 at this moment; D holds as at the last step. -/
def egoConds (slip : Option Bool) (s : State) : State :=
  let now := tauNow s
  modEgo (fun e =>
    let w := silentFrom now (e.wheels.head?.map (·.1)) e.wFrom
    let i := silentFrom now (e.imus.head?.map (·.1)) e.iFrom
    let d := match slip with
      | some b => heldFrom now b e.dFrom
      | none => e.dFrom
    { e with wFrom := w, iFrom := i, dFrom := d,
             clearFrom := heldFrom now (w.isNone && i.isNone && d.isNone && e.on) e.clearFrom }) s

/-- Whether a condition has held for a time. -/
def heldFor (now len : Nat) (from_ : Option Nat) : Bool := from_.any fun t => decide (t + len ≤ now)

/-- The ego source decided at an admission for an instant (R295). -/
def decideEgo (instant : Nat) (slip : Option Bool) (s : State) : State :=
  let s := egoConds slip s
  let e := s.fus.ego
  let now := tauNow s
  let conds := ofBits [e.wFrom.isSome, e.iFrom.isSome, e.dFrom.isSome]
  let lost := !e.on || heldFor now 50000000 e.wFrom || heldFor now 50000000 e.iFrom || heldFor now 50000000 e.dFrom
  let back := if poseNear s instant then 1 else 2
  let cur := egoSource s
  let new := if cur = 0 then (if lost then back else 0) else if heldFor now 1000000000 e.clearFrom then 0 else back
  if new = cur then s
  else raise .manager (match new with
    | 0 => ⟨0x0504, 0, false, iodSteward, 0, 0, instant⟩
    | 1 => ⟨0x0503, 0, true, iodSteward, conds, 0, instant⟩
    | _ => ⟨0x0505, 0, true, iodSteward, conds, 0, instant⟩) (regSet K.EGO_STATUS_source new s)

/-- The latest of samples, newest first, at or before a time, and the samples still of use afterwards. -/
def latestAt {α : Type} (time : α → Nat) (t : Nat) (l : List α) : Option α × List α :=
  let past := l.filter fun x => decide (time x ≤ t)
  (past.head?, (l.filter fun x => decide (t < time x)) ++ past.take 1)

/-- EGO_ADMISSION: one step of the integrator, 200 µs after its tick (R293, R295). -/
def egoAdmission (s : State) : State :=
  let e := s.fus.ego
  let t := e.next * 1000000
  if !running s || !e.on || tauNow s < t + 200000 then s
  else
    let wh := latestAt (·.1) t e.wheels
    let im := latestAt (·.1) t e.imus
    let rl := (wh.1.map (·.2.1)).getD (Config.noRaw s.freeCtr)
    let rr := (wh.1.map (·.2.2)).getD (Config.noRaw (s.freeCtr + 1))
    let yaw := (im.1.map (·.2)).getD (Config.noRaw (s.freeCtr + 2))
    let o := egoStep s (e.poses.headD ⟨t - 1000000, 0, 0, f32One, f32Zero⟩) rl rr yaw t
    let slip := slips s rl rr yaw
    let s := { s with freeCtr := s.freeCtr + 3 }
    let s := modEgo (fun e => { e with
      next := e.next + 1, poses := (o.1 :: e.poses).take 2000, v := o.2.1, yaw := o.2.2, wheels := wh.2, imus := im.2 }) s
    decideEgo t (some slip) (regInc K.EGO_TICKS_count s)

/-- EGO_ADMISSION (R293). -/
def execEgoAdmission (s : State) : Host.Outcome State Fault Refusal := .next (egoAdmission s)

end Sys2Proof.Machine
end

