-- ==== Sys2Proof/Machine/Ingress.lean ====
section
/-! DEFINITION. Sensor ingress: ports and their FIFOs, holds, drops and gap markers, CSI-2, Ethernet, CAN, SPI and capture ports, streams,
camera frames and test lines (R260 to R263, R268 to R284). -/

namespace Sys2Proof.Machine

/-- The nodes of sensor ingress and of the Ethernet MACs (R18). -/
abbrev ingNode : Nat := 0x4440
abbrev ethNode : Nat := 0x4480

/-! Ports and FIFOs -/

/-- An ingress port outside its registers. -/
def ingOf (s : State) (p : Nat) : IngPort := tget IngPort.init p s.ing.ports
/-- It changed. -/
def modIng (p : Nat) (f : IngPort → IngPort) (s : State) : State :=
  { s with ing := { s.ing with ports := tmod IngPort.init p f s.ing.ports } }

/-- A stream outside its registers. -/
def strOf (s : State) (k : Nat) : Stream := tget Stream.init k s.ing.streams
/-- It changed. -/
def modStr (k : Nat) (f : Stream → Stream) (s : State) : State :=
  { s with ing := { s.ing with streams := tmod Stream.init k f s.ing.streams } }

/-- A MAC outside its registers. -/
def macOf (s : State) (m : Nat) : Mac := tget Mac.init m s.ing.macs
/-- It changed. -/
def modMac (m : Nat) (f : Mac → Mac) (s : State) : State := { s with ing := { s.ing with macs := tmod Mac.init m f s.ing.macs } }

/-- The size of a port's FIFO (R270). -/
def fifoSize (p : Nat) : Nat := if p < 16 then 2 ^ 21 else if p < 22 then 2 ^ 16 else 2 ^ 14

/-- The bytes a FIFO item takes: its header slot and its padded payload (R271). -/
def itemBytes : FifoItem → Nat
  | .packet p => 32 + roundUp p.payload.length 32
  | .gap _ => 32
  | .test _ l => 32 + roundUp l.length 32
  | .noTest _ => 0

/-- The fill of a port's FIFO (R276). -/
def fifoFill (s : State) (p : Nat) : Nat := ((ingOf s p).items.map itemBytes).sum

/-- Whether a port runs (R281, R282): it is enabled and named by an enabled stream, or has been disabled and its FIFO is not yet drained.
DESIGN CHOICE (log 92): until then it takes packets as before. -/
def portRuns (s : State) (p : Nat) : Bool := running s && (portNamed s p || !(ingOf s p).items.isEmpty) && !(ingOf s p).failed

/-- A PAUSE frame sent, where the port's MAC sends them (R277). -/
def sendPause (p quanta : Nat) (s : State) : State :=
  if 12 ≤ p && p < 16 && regGet s (K.ETH_TX_CTRL_pause_en (p - 12)) == 1 then
    modMac (p - 12) (fun m => { m with sent := m.sent ++ [.pause quanta], pauseAt := s.ticks }) s
  else s

/-- The hold of a port follows its fill, its enable and its failure (R276, R277, R281, R282). -/
def refreshHold (p : Nat) (s : State) : State :=
  let fill := fifoFill s p
  let high := if 4096 * actGet s (K.ING_WM_high_4k p) ≤ fill then true
    else if fill ≤ 4096 * actGet s (K.ING_WM_low_4k p) then false else (ingOf s p).high
  let s := modIng p (fun x => { x with high := high }) s
  let want := !portRuns s p || high
  let held := regGet s (K.ING_HOLD_asserted p) == 1
  if want == held then s
  else if want then
    let s := regInc (K.ING_HOLD_COUNT_count p) (regSet (K.ING_HOLD_asserted p) 1 s)
    sendPause p 0xFFFF s
  else sendPause p 0 (regSet (K.ING_HOLD_asserted p) 0 s)

/-- A packet that is discarded and counted (R262, R270, R275, R282). -/
def discard (p : Nat) (s : State) : State := regInc (K.ING_DISCARD_count p) s

/-- A packet lost: counted in the registers and in exactly one gap marker (R278). -/
def losePacket (p stream : Nat) (st : Stamp) (bytes : Nat) (s : State) : State :=
  let s := regInc (K.ING_LOST_PKTS_count p) (regMod (K.ING_LOST_BYTES_count p) (fun v => min max32 (v + bytes)) s)
  modIng p (fun x => { x with
    secPkts := x.secPkts + 1, secBytes := x.secBytes + bytes,
    items := match x.items.getLast? with
      | some (.gap g) => x.items.dropLast ++ [.gap { g with last := st, count := satInc max32 g.count, bytes := min max32 (g.bytes + bytes) }]
      | _ => x.items ++ [.gap ⟨stream, st, st, 1, min max32 bytes⟩] }) s

/-- Whether an item fits a FIFO outside the reserve of its last 32 bytes (R278). -/
def fits (s : State) (p : Nat) (x : FifoItem) : Bool := decide (fifoFill s p + itemBytes x ≤ fifoSize p - 32)

/-- An item placed at the end of a FIFO. -/
def putItem (p : Nat) (x : FifoItem) (s : State) : State := refreshHold p (modIng p (fun i => { i with items := i.items ++ [x] }) s)

/-- A packet enters its FIFO behind its header, or is dropped (R271, R278). -/
def enterPacket (p : Nat) (x : Packet) (s : State) : State :=
  if fits s p (.packet x) then putItem p (.packet x) s
  else refreshHold p (losePacket p x.stream x.stamp x.payload.length s)

/-- The first enabled stream, in stream-table order, of a port and of a kind of packet (R272, R275). -/
def streamFor (s : State) (p : Nat) (takes : Nat → Bool) : Option Nat :=
  (List.range 32).find? fun k => actGet s (K.STR_CTRL_enable k) == 1 && actGet s (K.STR_CTRL_port k) == p && takes k

/-- PORT_ENABLE and PORT_DISABLE: the fields of ING_CTRL written (R282, R284). -/
def setPort (p : Nat) (on testLine : Bool) (s : State) : State :=
  refreshHold p (regSet (K.ING_CTRL_enable p) on.toNat (regSet (K.ING_CTRL_test_line p) testLine.toNat s))

/-- PORT_ENABLE (R282). -/
def execPortEnable (port : Fin 4) (ing : Fin 30) (testLine : Bool) (s : State) : Host.Outcome State Fault Refusal :=
  .next (mgrWrite port.val (setPort ing.val true testLine) s)

/-- PORT_DISABLE (R282). -/
def execPortDisable (port : Fin 4) (ing : Fin 30) (testLine : Bool) (s : State) : Host.Outcome State Fault Refusal :=
  .next (mgrWrite port.val (setPort ing.val false testLine) s)

/-! Camera ports -/

/-- The CSI-2 data types that are accepted: RAW8, RAW10, RAW12, RAW16, YUV422 8-bit, embedded data (R270). -/
def csiTypes : List Nat := [0x2A, 0x2B, 0x2C, 0x2E, 0x1E, 0x12]

/-- The bytes between two lines of a camera frame. -/
def pitch (s : State) (k : Nat) : Nat := actGet s (K.STR_PITCH_bytes k)

/-- Whether a stream is a frame stream. -/
def isFrames (s : State) (k : Nat) : Bool := actGet s (K.STR_CTRL_kind k) == 1

/-- The stamp of a frame whose first packet arrives now, and whether it has no sync (R274). -/
def frameStamp (s : State) (k : Nat) (arrival : Stamp) : Stamp × Bool :=
  let src := actGet s (K.STR_STAMP_source k)
  let win := clampNat 1 200000 (actGet s (K.STR_STAMP_window_us k)) * 1000 * 2 ^ 32
  let st := if actGet s (K.STR_STAMP_src_kind k) = 1 then (capOf s src).stamps.head? else (cueOf s src).stamp
  match st with
  | some x => if x.units ≤ arrival.units && arrival.units ≤ x.units + win then (x, false) else (arrival, true)
  | none => (arrival, true)

/-- The frames of a stream that are begun and not yet published. -/
def openFrames (s : State) (p k : Nat) : Nat :=
  (if (strOf s k).cur.isSome then 1 else 0) + ((ingOf s p).items.filter fun x => match x with
    | .packet q => q.stream == k && bitOf q.flags 1
    | _ => false).length

/-- Word `i` of a test line (R281). -/
def testWord (f p v i : Nat) : Nat :=
  Nat.xor (Nat.xor ((0x9E3779B9 * (i + 1)) % 2 ^ 32) (f * 0x85EBCA6B % 2 ^ 32)) ((p * 2 ^ 24 + v * 2 ^ 16) % 2 ^ 32)

/-- A test line of a stream's pitch for the frame `f` (R281). -/
def testLine (s : State) (p k f : Nat) : List Byte :=
  (List.range (pitch s k / 4)).flatMap fun i => leBytes 4 (testWord f p (actGet s (K.STR_CTRL_vc k)) i)

/-- After a frame-end packet, a test line for the next frame, unless the fill is at or above the high watermark (R281). -/
def injectTest (p k : Nat) (s : State) : State :=
  if regGet s (K.ING_CTRL_test_line p) ≠ 1 || !isFrames s k then s
  else
    let f := ((strOf s k).producer + openFrames s p k) % 2 ^ 32
    let x : FifoItem := .test k (testLine s p k f)
    if 4096 * actGet s (K.ING_WM_high_4k p) ≤ fifoFill s p || !fits s p x then putItem p (.noTest k) s else putItem p x s

/-- CSI_PACKET: a long packet is stamped and enters its FIFO (R270, R271, R274, R281). -/
def csiPacket (p : Nat) (x : CsiPkt) (s : State) : State :=
  if !portRuns s p || x.ecc == .bad || !csiTypes.contains x.dataType.toNat || 4 ≤ x.vc.val then discard p s
  else match streamFor s p fun k => actGet s (K.STR_CTRL_vc k) == x.vc.val with
  | none => discard p s
  | some k =>
    let line := match x.line with
      | some l => l.toNat
      | none => if x.frameStart then 0 else (strOf s k).line
    let s := modStr k (fun t => { t with line := (line + 1) % 2 ^ 16 }) s
    let st := stampNow s
    let pk : Packet := ⟨k, x.vc.val, ofBits [x.crcError, x.frameStart, x.frameEnd], st, x.dataType.toNat + line * 2 ^ 16, x.payload,
      if x.frameStart then some (frameStamp s k st) else none⟩
    let s := enterPacket p pk s
    if x.frameEnd then injectTest p k s else s

/-- CSI_PACKET (R271). -/
def execCsiPacket (p : Fin 12) (pkt : CsiPkt) (s : State) : Host.Outcome State Fault Refusal :=
  .next (if unitsOn s then csiPacket p.val pkt s else s)

/-! Ethernet -/

/-- The EtherType of a frame behind at most one VLAN tag, and the tag's VLAN ID (R262, R275). -/
def etherType (bs : List Byte) : Nat × Option Nat :=
  let t := beVal ((bs.drop 12).take 2)
  if t = 0x8100 then (beVal ((bs.drop 16).take 2), some (beVal ((bs.drop 14).take 2) % 4096)) else (t, none)

/-- Whether a frame is PTP (R262). -/
def isPtp (bs : List Byte) : Bool := (etherType bs).1 == 0x88F7

/-- Whether a stream's filter matches a frame (R275). -/
def filterMatches (s : State) (bs : List Byte) (k : Nat) : Bool :=
  let e := etherType bs
  let want := actGet s (K.STR_FILTER_ethertype k)
  (want == 0 || e.1 == want) &&
  (actGet s (K.STR_FILTER_vlan_en k) != 1 || e.2 == some (actGet s (K.STR_FILTER_vlan k)))

/-- ETH_ASYM in force, in 2^−8 ns (R261, R284). -/
def asym (s : State) (m : Nat) : Int := clampInt (-25600000) 25600000 (toSigned 32 (regGet s (K.ETH_ASYM_asym m)))

/-- A raw stamp corrected by an amount in 2^−8 ns (R261). -/
def corrected (x : Stamp) (by8 : Int) : Stamp := { x with units := (Int.ofNat x.units + by8 * Int.ofNat (2 ^ 24)).toNat }

/-- ETH_RX_FRAME: a frame is stamped, filtered to a stream and placed in the FIFO, or discarded (R261, R262, R270, R275, R282). -/
def ethRx (m : Nat) (x : EthFrame) (s : State) : State :=
  let p := 12 + m
  let ptp := isPtp x.bytes
  if !x.fcsOk || 1522 < x.bytes.length || !portRuns s p || (ptp && !tbValid s) then discard p s
  else match streamFor s p (filterMatches s x.bytes) with
  | none => discard p s
  | some k =>
    let st := corrected (stampNow s) (-Int.ofNat (regGet s (K.ETH_RX_LAT_lat m)) - asym s m)
    enterPacket p ⟨k, k, if ptp then 8 else 0, st, 0, x.bytes, none⟩ s

/-- ETH_RX_FRAME (R275). -/
def execEthRxFrame (mac : Fin 4) (frame : EthFrame) (s : State) : Host.Outcome State Fault Refusal :=
  .next (if unitsOn s then ethRx mac.val frame s else s)

/-- PAUSE_FRAME_RX: quanta of 512 bit times at 10 Gb/s hold the MAC's own transmission (R263). -/
def execPauseFrameRx (mac : Fin 4) (quanta : BitVec 16) (s : State) : Host.Outcome State Fault Refusal :=
  .next (if unitsOn s then modMac mac.val (fun m => { m with pausedTo := s.ticks + ceilDiv (quanta.toNat * 256) 10 }) s else s)

/-- PAUSE_REPEAT: while the hold stays asserted, PAUSE again after 1 ms (R277). -/
def execPauseRepeat (mac : Fin 4) (s : State) : Host.Outcome State Fault Refusal :=
  .next (
    let p := 12 + mac.val
    if unitsOn s && regGet s (K.ING_HOLD_asserted p) == 1 && decide ((macOf s mac.val).pauseAt + msTicks ≤ s.ticks)
    then sendPause p 0xFFFF s else s)

/-- The base of a port's transmit ring (R284). -/
def txBase (s : State) (m : Nat) : Nat := addr64 5 (regGet s (K.ETH_TX_BASE_LO_base m)) (regGet s (K.ETH_TX_BASE_HI_base m))

/-- Whether a port's transmit ring is polled: the manager host is polled too, and the port has been enabled and named by an enabled stream
(R226, R263, R357, R401). -/
def txPolled (s : State) (m : Nat) : Bool :=
  running s && portNamed s (12 + m) && regGet s (K.ETH_TX_CTRL_enable m) == 1 && regGet s (K.HOST_CTRL_enable s.mgrPort) == 1 && (portOf s s.mgrPort).busMaster

/-- A frame as it leaves: padded to 60 bytes, the FCS, the CRC-32 of ISO 3309, appended (R263). -/
def onWire (bytes : List Byte) : List Byte :=
  let b := bytes ++ zeros (60 - bytes.length)
  b ++ leBytes 4 (crc32 b).toNat

/-- ETH_TX_FRAME: the descriptor at the consumer index is sent, and stamped if it asks, or completes with an error (R261 to R263). -/
def ethTx (m : Nat) (s : State) : State :=
  let h := s.mgrPort
  let prod := fieldAt (hostRead s h (txBase s m) 2) 0 2
  let cons := (macOf s m).txCons
  let n := 2 ^ regGet s (K.ETH_TX_CTRL_log2_entries m)
  let pending := (prod + 65536 - cons) % 65536
  if !txPolled s m || pending = 0 || n < pending || s.ticks < (macOf s m).pausedTo then s
  else
    let at_ := txBase s m + 32 + 32 * (cons % n)
    let d := hostRead s h at_ 32
    let len := fieldAt d 8 2
    let bytes := hostRead s h (fieldAt d 0 8) len
    let flags := bitsAt (fieldAt d 10 1) 0 1
    let badLen := len < 14 || 1518 < len
    let bad := badLen || (isPtp bytes && !tbValid s)
    let s := hostWrite h (at_ + 10) (leBytes 1 (flags + 2 + if bad then 4 else 0)) s
    let s := if bad then (if badLen then raise .manager ⟨0x0413, 0, false, ethNode, 12 + m, cons, 0⟩ s else s)
      else
        let s := if flags = 1 then
            hostWrite h (at_ + 16) (stampBytes (corrected (stampNow s) (Int.ofNat (regGet s (K.ETH_TX_LAT_lat m)) - asym s m))) s
          else s
        modMac m (fun x => { x with sent := x.sent ++ [.frame (onWire bytes)] }) s
    let s := modMac m (fun x => { x with txCons := (cons + 1) % 65536 }) s
    hostWrite h (txBase s m + 8) (leBytes 2 ((cons + 1) % 65536)) s

/-- ETH_TX_FRAME (R263). -/
def execEthTxFrame (mac : Fin 4) (writes : List HostWrite) (s : State) : Host.Outcome State Fault Refusal :=
  .next (ethTx mac.val (applyWrites writes s))

/-! CAN, SPI and capture ports -/

/-- CAN_FRAME: a frame is acknowledged, stamped and placed in its FIFO; in bus-monitoring mode it is discarded (R270, R271, R282). -/
def canRx (m : Nat) (x : CanFd) (s : State) : State :=
  let p := 16 + m
  if !portRuns s p then discard p s
  else match streamFor s p fun _ => true with
  | none => discard p s
  | some k =>
    let info := x.ident.toNat + x.ext.toNat * 2 ^ 29 + x.fd.toNat * 2 ^ 30 + x.brs.toNat * 2 ^ 31 + x.dlc.val * 2 ^ 32
    enterPacket p ⟨k, 0, 0, stampNow s, info, x.data, none⟩ s

/-- CAN_FRAME (R270). -/
def execCanFrame (can : Fin 4) (frame : CanFd) (s : State) : Host.Outcome State Fault Refusal :=
  .next (if unitsOn s then canRx can.val frame s else s)

/-- CAN_BUS_OFF (R283). -/
def execCanBusOff (can : Fin 4) (errors : BitVec 32) (s : State) : Host.Outcome State Fault Refusal :=
  .next (if portRuns s (16 + can.val) then
      raiseFault .manager ⟨0x0416, 1, true, ingNode, 16 + can.val, errors.toNat, 0⟩ s
    else s)

/-- The bytes that an SPI transaction reads (R284). -/
def spiRead (s : State) (m : Nat) : Nat := min 64 (regGet s (K.SPI_CTRL_rlen m))

/-- The command bytes of a transaction (R284). -/
def spiCmd (s : State) (m : Nat) : List Byte :=
  ((List.range 4).flatMap fun j => leBytes 4 (regGet s (K.SPI_CMD_bytes m j))).take (min 16 (regGet s (K.SPI_CMD_len m)))

/-- SPI_TRIGGER: a trigger edge starts a transaction, or is skipped and counted lost while one runs (R275). -/
def spiTrigger (m : Nat) (s : State) : State :=
  match (spiOf s m).due with
  | [] => s
  | st :: rest =>
    let s := modSpi m (fun x => { x with due := rest }) s
    if !portRuns s (20 + m) then s
    else if (spiOf s m).busy.isSome then
      match streamFor s (20 + m) fun _ => true with
      | some k => refreshHold (20 + m) (losePacket (20 + m) k st (spiRead s m) s)
      | none => s
    else modSpi m (fun x => { x with busy := some st, cmd := spiCmd s m }) s

/-- SPI_TRIGGER (R275). -/
def execSpiTrigger (m : Fin 2) (s : State) : Host.Outcome State Fault Refusal := .next (spiTrigger m.val s)

/-- SPI_TRANSACTION_END: the bytes read enter the FIFO with the trigger's stamp (R271, R275). -/
def spiEnd (m : Nat) (rx : List Byte) (s : State) : State :=
  match (spiOf s m).busy with
  | none => s
  | some st =>
    let n := (spiOf s m).next
    let s := modSpi m (fun x => { x with busy := none, next := (n + 1) % 2 ^ 32 }) s
    match streamFor s (20 + m) fun _ => true with
    | some k => enterPacket (20 + m) ⟨k, 0, 0, st, n, (rx ++ zeros 64).take (spiRead s m), none⟩ s
    | none => discard (20 + m) s

/-- SPI_TRANSACTION_END (R275). -/
def execSpiTransactionEnd (m : Fin 2) (rx : List Byte) (s : State) : Host.Outcome State Fault Refusal :=
  .next (if unitsOn s then spiEnd m.val rx s else s)

/-- CAPTURE_EDGE: an edge that CAP_CTRL accepts, with its filter only where the level is then held for 20 ns, is counted; unless it comes within 40 ns of the one before it is stamped, placed in its
capture port and triggers what it triggers (R268). -/
def captureEdge (c : Nat) (rising : Bool) (held : Nat) (s : State) : State :=
  let mode := actGet s (K.CAP_CTRL_edge c)
  if !unitsOn s || (actGet s (K.CAP_CTRL_filter c) == 1 && decide (held < 20)) || !bitOf mode (if rising then 0 else 1) then s
  else
    let x := capOf s c
    let s := regInc (K.CAP_COUNT_count c) s
    if x.tick.any fun t => decide (s.ticks < t + 20) then
      raise .manager ⟨0x0415, 0, false, timeNode, c, x.unstamped + 1, 0⟩
        (modCap c (fun x => { x with tick := some s.ticks, unstamped := x.unstamped + 1 }) s)
    else
      let st := stampNow s
      let s := modCap c (fun x => { x with stamps := (st :: x.stamps).take 16, tick := some s.ticks, unstamped := 0 }) s
      let s := triggerSpis 1 c st (regSet (K.CAP_LAST_NS_ns c) (tbNs s) s)
      if !portRuns s (22 + c) then s
      else match streamFor s (22 + c) fun _ => true with
      | some k => enterPacket (22 + c) ⟨k, if rising then 0 else 1, 0, st, 0, [], none⟩ s
      | none => s

/-- CAPTURE_EDGE (R268). -/
def execCaptureEdge (c : Fin 8) (edge : CapEdge) (s : State) : Host.Outcome State Fault Refusal :=
  .next (captureEdge c.val edge.rising edge.held s)

/-! Packet rings -/

/-- A packet ring in realm memory (R272): realm, address of its control block, size, producer. -/
structure PktRing where
  realm : Nat
  cb : Nat
  size : Nat
  producer : Nat
  deriving DecidableEq, Repr

/-- The consumer index of a ring. -/
def ringCons (s : State) (r : PktRing) : Nat := fieldAt (realmRead s r.realm (r.cb + 8) 8) 0 8

/-- Whether the consumer of a ring is in range (R272). -/
def consOk (s : State) (r : PktRing) : Bool := decide (ringCons s r ≤ r.producer) && decide (r.producer - ringCons s r ≤ r.size)

/-- The bytes of a record header (R271). -/
def recHeader (len kind port cls flags : Nat) (st : Stamp) (info : Nat) : List Byte :=
  leBytes 4 len ++ leBytes 1 kind ++ leBytes 1 port ++ leBytes 1 cls ++ leBytes 1 flags ++ stampBytes st ++ leBytes 8 info

/-- The seconds and nanoseconds of a gap marker's time (R271). -/
def gapTime (st : Stamp) : List Byte := leBytes 4 (st.units / unitsPerSec) ++ leBytes 4 (st.units % unitsPerSec / 2 ^ 32)

/-- The record of a gap marker (R271). -/
def gapRecord (port : Nat) (g : GapMark) : List Byte :=
  leBytes 4 0 ++ [1] ++ leBytes 1 port ++ zeros 2 ++ gapTime g.first ++ gapTime g.last ++ leBytes 4 g.count ++ leBytes 4 g.bytes

/-- A record written at a ring's producer, behind a pad record where it would cross the ring's end: the producer after it, none where the
consumer has not freed the space (R272). -/
def putRing (r : PktRing) (port : Nat) (bs : List Byte) (s : State) : State × Option Nat :=
  let pos := r.producer % r.size
  let pad := if pos + bs.length ≤ r.size then 0 else r.size - pos
  if r.size < r.producer - ringCons s r + pad + bs.length then (s, none)
  else
    let base := 4096 + r.cb
    let s := if pad = 0 then s
      else realmWrite r.realm (base + pos) (leBytes 4 (pad - 32) ++ [2] ++ leBytes 1 port ++ zeros 26) s
    let prod := r.producer + pad + bs.length
    let s := realmWrite r.realm (base + (r.producer + pad) % r.size) bs s
    (realmWrite r.realm r.cb (leBytes 8 prod) s, some prod)

/-- The lost counts of a control block (R272). -/
def putLost (realm cb pkts bytes : Nat) (s : State) : State := realmWrite realm (cb + 16) (leBytes 8 pkts ++ leBytes 8 bytes) s

/-! Streams -/

/-- The realm of a stream. -/
def strRealm (s : State) (k : Nat) : Nat := actGet s (K.STR_CTRL_realm k)
/-- The address of a stream's control block. -/
def strCb (s : State) (k : Nat) : Nat := addr64 12 (actGet s (K.STR_CB_LO_base k)) (actGet s (K.STR_CB_HI_base k))

/-- A stream as a ring: of bytes for a packet stream, of frames for a frame stream (R272). -/
def strRing (s : State) (k : Nat) : PktRing :=
  ⟨strRealm s k, strCb s k,
   if isFrames s k then clampNat 2 16 (actGet s (K.STR_SIZE_n_or_slots k)) else 2 ^ clampNat 16 30 (actGet s (K.STR_SIZE_n_or_slots k)),
   (strOf s k).producer⟩

/-- Whether a stream may be drained into; STREAM_INVALID once where its consumer is out of range (R272). -/
def strOpen (k : Nat) (s : State) : State × Bool :=
  let r := strRing s k
  if consOk s r then (modStr k (fun x => { x with stopped := false }) s, true)
  else if (strOf s k).stopped then (s, false)
  else (raise .manager ⟨0x0414, 0, true, ingNode, k, ringCons s r % 2 ^ 32, r.producer⟩ (modStr k (fun x => { x with stopped := true }) s), false)

/-- The first item of a FIFO taken out. -/
def popItem (p : Nat) (s : State) : State := modIng p (fun x => { x with items := x.items.drop 1 }) s

/-- A gap marker counted in its stream's control block (R272, R278). -/
def countLost (k : Nat) (g : GapMark) (s : State) : State :=
  let s := modStr k (fun x => { x with lostPkts := x.lostPkts + g.count, lostBytes := x.lostBytes + g.bytes }) s
  putLost (strRealm s k) (strCb s k) (strOf s k).lostPkts (strOf s k).lostBytes s

/-- The admission stage has consumed a stream that feeds channels (R285). -/
def consume (k : Nat) (s : State) : State := realmWrite (strRealm s k) (strCb s k + 8) (leBytes 8 (strOf s k).producer) s

/-- A packet written into its packet stream; channels and the integrator take it (R271, R272, R285, R293). -/
def drainPacket (p k : Nat) (x : Packet) (s : State) : State × Bool :=
  let bs := recHeader x.payload.length 0 p x.cls x.flags x.stamp x.info ++ x.payload ++ zeros (roundUp x.payload.length 32 - x.payload.length)
  match putRing (strRing s k) p bs s with
  | (s, none) => (s, false)
  | (s, some prod) =>
    let s := feedEgo p x.info x.stamp x.payload (popItem p (modStr k (fun t => { t with producer := prod }) s))
    let cs := chansOf s k
    let s := cs.foldl (fun s c => feedPacket c x.stamp x.payload s) s
    (if cs.isEmpty then s else consume k s, true)

/-- A gap marker written into a packet stream (R271, R278). -/
def drainGap (p k : Nat) (g : GapMark) (s : State) : State × Bool :=
  match putRing (strRing s k) p (gapRecord p g) s with
  | (s, none) => (s, false)
  | (s, some prod) => (countLost k g (popItem p (modStr k (fun t => { t with producer := prod }) s)), true)

/-! Camera frames -/

/-- The lines of a frame. -/
def frameLines (s : State) (k : Nat) : Nat := actGet s (K.STR_SIZE_lines k)

/-- The size of a frame slot (R272). -/
def slotSize (s : State) (k : Nat) : Nat := roundUp (576 + (frameLines s k + 1) * pitch s k) 4096

/-- The address of the slot of a frame number. -/
def slotOf (s : State) (k n : Nat) : Nat :=
  let r := strRing s k
  4096 + r.cb + n % r.size * slotSize s k

/-- The address of the slot of the frame being written. -/
def slotAddr (s : State) (k : Nat) : Nat := slotOf s k (strRing s k).producer

/-- A stream whose next frame has become the one to be published. -/
def nextFrame (x : Stream) : Stream :=
  { x with cur := none, tested := x.testedNext, checked := none, skipped := x.skippedNext, testedNext := false, skippedNext := false }

/-- The frame header (R273). -/
def frameHeader (s : State) (k : Nat) (f : FrameAsm) : List Byte :=
  let x := strOf s k
  leBytes 4 x.producer ++ leBytes 2 (min 65535 f.lines.length) ++ leBytes 2 (min 65535 f.lost) ++ stampBytes f.stamp ++ stampBytes f.arrival ++
  leBytes 2 (min 65535 f.crc) ++ leBytes 1 (ofBits [f.noSync, f.incomplete, x.checked == some true, x.skipped]) ++
  leBytes 1 (actGet s (K.STR_CTRL_vc k)) ++ leBytes 2 (min 65535 f.extra) ++ zeros 18

/-- The line map (R273). -/
def lineMap (f : FrameAsm) : List Byte :=
  (List.range 512).map fun i => BitVec.ofNat 8 (ofBits ((List.range 8).map fun b => f.lines.contains (8 * i + b)))

/-- A closed frame is published once its test line, if one has been written, has been checked; a failed port publishes none (R272, R281). -/
def publish (p k : Nat) (s : State) : State :=
  match (strOf s k).cur with
  | none => s
  | some f =>
    let x := strOf s k
    if !f.closed || (x.tested && x.checked.isNone) then s
    else if (ingOf s p).failed then modStr k nextFrame s
    else
      let hdr := frameHeader s k f
      let s := realmWrite (strRealm s k) (slotAddr s k) (hdr ++ lineMap f) s
      let s := modStr k (fun x => nextFrame { x with producer := x.producer + 1 }) s
      let s := realmWrite (strRealm s k) (strCb s k) (leBytes 8 (strOf s k).producer) s
      let cs := (chansOf s k).filter fun c => chanKind s c == 2
      let s := cs.foldl (fun s c => feedFrame c f hdr s) s
      if cs.isEmpty then s else consume k s

/-- The frame being written changed. -/
def modFrame (k : Nat) (f : FrameAsm → FrameAsm) (s : State) : State := modStr k (fun x => { x with cur := x.cur.map f }) s

/-- One line written into its slot (R272, R273). -/
def writeLine (k : Nat) (x : Packet) (s : State) : State :=
  let i := bitsAt x.info 16 16
  if frameLines s k ≤ i then modFrame k (fun f => { f with extra := f.extra + 1 }) s
  else
    let s := realmWrite (strRealm s k) (slotAddr s k + 576 + i * pitch s k) (x.payload.take (pitch s k)) s
    if bitOf x.flags 0 then modFrame k (fun f => { f with crc := f.crc + 1 }) s
    else modFrame k (fun f => { f with lines := if f.lines.contains i then f.lines else f.lines ++ [i] }) s

/-- A line drained into a frame stream (R272, R273): a frame start closes a frame without an end, a frame end closes its frame. -/
def drainLine (p k : Nat) (x : Packet) (s : State) : State × Bool :=
  let cur := (strOf s k).cur
  let full := decide ((strRing s k).size ≤ (strRing s k).producer - ringCons s (strRing s k))
  match cur, x.frame with
  | some _, some _ =>
    let s := publish p k (modFrame k (fun f => { f with incomplete := true, closed := true }) s)
    (s, (strOf s k).cur.isNone)
  | none, none => (discard p (popItem p s), true)
  | _, start =>
    if full then (s, false)
    else
      let s := match start with
        | some st => modStr k (fun t => { t with cur := some ⟨x.stamp, st.1, st.2, [], 0, 0, 0, false, false⟩ }) s
        | none => s
      let s := popItem p (writeLine k x s)
      (if bitOf x.flags 2 then publish p k (modFrame k (fun f => { f with closed := true }) s) else s, true)

/-- A test line drained into the test-line area of the next frame's slot (R272, R281); where the end of the frame being written is lost, that
is the slot after its own. -/
def drainTest (p k : Nat) (line : List Byte) (s : State) : State × Bool :=
  let r := strRing s k
  let later := (strOf s k).cur.isSome
  let n := r.producer + later.toNat
  if r.size ≤ n - ringCons s r then (s, false)
  else
    let s := realmWrite r.realm (slotOf s k n + 576 + frameLines s k * pitch s k) line s
    (popItem p (modStr k (fun x => if later then { x with testedNext := true } else { x with tested := true }) s), true)

/-- The first item of a FIFO drained, and whether anything moved (R271, R272). -/
def drainOne (p : Nat) (s : State) : State × Bool :=
  match (ingOf s p).items with
  | [] => (s, false)
  | x :: _ =>
    let k := match x with
      | .packet q => q.stream
      | .gap g => g.stream
      | .test k _ => k
      | .noTest k => k
    if actGet s (K.STR_CTRL_enable k) ≠ 1 || actGet s (K.STR_CTRL_port k) ≠ p then
      (match x with
        | .packet _ => discard p (popItem p s)
        | _ => popItem p s, true)
    else
      let o := strOpen k s
      let s := o.1
      if !o.2 then (s, false)
      else if (strOf s k).cur.any (·.closed) then (publish p k s, ((strOf (publish p k s) k).cur).isNone)
      else match x with
      | .packet q => if isFrames s k then drainLine p k q s else drainPacket p k q s
      | .gap g =>
        if isFrames s k then (countLost k g (popItem p (modFrame k (fun f => { f with lost := f.lost + g.count }) s)), true)
        else drainGap p k g s
      | .test _ l => if isFrames s k then drainTest p k l s else (popItem p s, true)
      | .noTest _ =>
        (popItem p (modStr k (fun t => if t.cur.isSome then { t with skippedNext := true } else { t with skipped := true }) s), true)

/-- A FIFO drained until nothing moves; `n` bounds the moves. -/
def drainAll (p : Nat) : Nat → State → State
  | 0, s => s
  | n + 1, s =>
    match drainOne p s with
    | (s, false) => s
    | (s, true) => drainAll p n s

/-- INGRESS_DRAIN (R272). -/
def execIngressDrain (ing : Fin 30) (writes : List HostWrite) (s : State) : Host.Outcome State Fault Refusal :=
  .next (
    let s := applyWrites writes s
    if running s then refreshHold ing.val (drainAll ing.val (2 * (ingOf s ing.val).items.length + 2) s) else s)

/-! Test lines and lost packets -/

/-- The first word of a test line that differs from what was injected (R281). -/
def testDiffers (s : State) (p k : Nat) : Option Nat :=
  let got := realmRead s (strRealm s k) (slotAddr s k + 576 + frameLines s k * pitch s k) (pitch s k)
  let f := (strOf s k).producer % 2 ^ 32
  (List.range (pitch s k / 4)).find? fun i => fieldAt got (4 * i) 4 != testWord f p (actGet s (K.STR_CTRL_vc k)) i

/-- A test-line failure: the third on a port within 100 frames marks the port failed (R281). DESIGN CHOICE (log 93): on a port of several
streams, each failure counts while fewer than 100 frames of its own stream have followed it. -/
def failTest (p k word : Nat) (s : State) : State :=
  let f := (strOf s k).producer
  let s := regInc (K.TEST_FAIL_count p) (modIng p (fun x => { x with fails := x.fails ++ [(k, f)] }) s)
  let s := raiseFault .manager ⟨0x0411, 1, false, ingNode, p, f % 2 ^ 32, word⟩ s
  let recent := ((ingOf s p).fails.filter fun x => decide ((strOf s x.1).producer < x.2 + 100)).length
  if recent < 3 || (ingOf s p).failed then s
  else refreshHold p (raiseFault .manager ⟨0x0412, 3, true, ingNode, p, 0, 0⟩ (modIng p (fun x => { x with failed := true }) s))

/-- TEST_LINE_CHECK: the test line of the next frame is read back and compared before the frame is published (R281). -/
def testCheck (k : Nat) (s : State) : State :=
  let p := actGet s (K.STR_CTRL_port k)
  let x := strOf s k
  if !running s || !x.tested || x.checked.isSome then s
  else
    let d := testDiffers s p k
    let s := modStr k (fun x => { x with checked := some d.isSome }) s
    publish p k (match d with
      | some w => failTest p k w s
      | none => s)

/-- TEST_LINE_CHECK (R281). -/
def execTestLineCheck (stream : Fin 32) (s : State) : Host.Outcome State Fault Refusal := .next (testCheck stream.val s)

/-- SENSOR_HEALTH: at a whole second each port's lost packets are compared with its limit (R280). -/
def execSensorHealth (s : State) : Host.Outcome State Fault Refusal :=
  .next (if !unitsOn s || tbSec s == s.ing.second then s
    else
      let s := { s with ing := { s.ing with second := tbSec s } }
      (List.range 30).foldl (fun s p =>
        let x := ingOf s p
        let s := modIng p (fun x => { x with secPkts := 0, secBytes := 0 }) s
        if actGet s (K.ING_DROP_LIMIT_pkts p) < x.secPkts then
          raise .manager ⟨0x0410, 0, true, ingNode, p, x.secPkts, x.secBytes⟩ s
        else s) s)

end Sys2Proof.Machine
end

