-- ==== Sys2Proof/Machine/Fusion.lean ====
section
/-! DEFINITION. Fusion: admission, samples brought to the instant, poses, fused result and admission records, output streams, result age, golden
workloads, the FUSE job (R289 to R299, R310 to R312). -/

namespace Sys2Proof.Machine

/-! Admitted samples -/

/-- What a channel admits for an instant: its samples with their roles, 0 a, 1 b, 2 a′ (R291, R296). -/
structure Pick where
  chan : Nat
  used : List (Nat × ChanSample)
  deriving DecidableEq, Repr

/-- The samples of a history, ordered by source time, that an instant admits under an extrapolation limit (R291). -/
def choose (kind t x : Nat) (h : List ChanSample) : List (Nat × ChanSample) :=
  let past := (h.filter fun y => decide (y.s ≤ t)).reverse
  match past with
  | [] => []
  | a :: before =>
    let near := fun (y : ChanSample) => decide (t - y.s ≤ x)
    if kind = 1 || kind = 2 then (if near a then [(0, a)] else [])
    else match h.find? (fun y => decide (t < y.s)), before with
    | some b, _ => if near a then [(0, a), (1, b)] else []
    | none, a' :: _ => if near a' then [(0, a), (2, a')] else if near a then [(0, a)] else []
    | none, [] => if near a then [(0, a)] else []

/-- What a channel admits now for an instant. -/
def pickNow (s : State) (t c : Nat) : Pick :=
  ⟨c, if chanOn s c && !chanUnsync s c then choose (chanKind s c) t (chanX s c) (chanOf s c).hist else []⟩

/-- The state of a channel in a fused result (R291): 0 interpolated, 1 extrapolated, 2 held, 3 absent, 4 UNSYNC. -/
def pickState (unsync : Nat) (p : Pick) : Nat :=
  if bitOf unsync p.chan then 4
  else match p.used.map (·.1) with
  | [0, 1] => 0
  | [0, 2] => 1
  | [0] => 2
  | _ => 3

/-! Poses -/

/-- A POSE sample as a pose (R285). -/
def samplePose (x : ChanSample) : Pose :=
  ⟨x.s, toSigned 64 (fieldAt x.payload 0 8), toSigned 64 (fieldAt x.payload 8 8), BitVec.ofNat 32 (fieldAt x.payload 16 4),
   BitVec.ofNat 32 (fieldAt x.payload 20 4)⟩

/-- The poses that the ego source offers, by time (R293, R294). -/
def posesNow (s : State) : List Pose :=
  match egoSource s with
  | 0 => s.fus.ego.poses.reverse
  | 1 => (chanOf s (actGet s K.EGO_CTRL_pose_ch)).hist.map samplePose
  | _ => []

/-- A free pose, where R294 gives none. -/
def freePose (instant t : Nat) : Pose :=
  let v := (Config.noPose instant t).toNat
  ⟨t, toSigned 64 (bitsAt v 0 64), toSigned 64 (bitsAt v 64 64), BitVec.ofNat 32 (bitsAt v 128 32), BitVec.ofNat 32 (bitsAt v 160 32)⟩

/-- The pose at a time between, or after, two poses (R294). -/
def between (p q : Pose) (t : Nat) : Pose :=
  let dt := Int.ofNat t - Int.ofNat p.t
  let len := Int.ofNat q.t - Int.ofNat p.t
  let near := if dt.natAbs ≤ (Int.ofNat q.t - Int.ofNat t).natAbs then p else q
  ⟨t, p.x + (q.x - p.x) * dt / len, p.y + (q.y - p.y) * dt / len, near.c, near.s⟩

/-- The pose at a time, and the poses it uses, for the integrator (ego 0) or the fallback (ego 1) (R294). -/
def poseAt (ego instant : Nat) (ps : List Pose) (t : Nat) : Pose × List Pose :=
  let past := (ps.filter fun p => decide (p.t ≤ t)).reverse
  let next := ps.find? fun p => decide (t < p.t)
  match past, next with
  | p :: _, some q => if ego = 0 && q.t != p.t + 1000000 then (freePose instant t, []) else (between p q t, [p, q])
  | p :: before, none =>
    if ego = 0 then (if p.t = t then (p, [p]) else (freePose instant t, []))
    else match before with
    | p' :: _ => (between p' p t, [p', p])
    | [] => (freePose instant t, [])
  | [], _ => (freePose instant t, [])

/-- The times at which a fused result needs a pose: the instant, and the sample of each OBJECTS channel (R292, R297). -/
def poseTimes (kind : Nat → Nat) (instant : Nat) (ps : List Pick) : List Nat :=
  instant :: ps.filterMap fun p => if kind p.chan = 1 then p.used.head?.map (·.2.s) else none

/-- The poses a result uses, by time, each once (R294, R296). -/
def usedPoses (ego instant : Nat) (ps : List Pose) (ts : List Nat) : List Pose :=
  let l := ts.flatMap fun t => (poseAt ego instant ps t).2
  ps.filter l.contains

/-! Bringing samples to the instant -/

/-- A FP32 field of a payload. -/
def f32At (bs : List Byte) (off : Nat) : F32 := BitVec.ofNat 32 (fieldAt bs off 4)
/-- The bytes of an FP32 value. -/
def f32Bytes (x : F32) : List Byte := leBytes 4 x.toNat

/-- An element brought to the instant from two samples (R291): v_x + (v_q − v_p) × w. -/
def lerp (x p q w : F32) : F32 := f32Add x (f32Mul (f32Sub q p) w)

/-- The values of a VECTOR channel (R291). -/
def vectorAt (instant : Nat) (p : Pick) : List Byte :=
  let el := fun (y : ChanSample) (i : Nat) =>
    if 4 * i + 4 ≤ y.payload.length then f32At y.payload (4 * i) else Config.noElement instant p.chan i
  match p.used with
  | [(0, a), (1, b)] =>
    let w := f32Div (f32Int (instant - a.s : Nat)) (f32Int (b.s - a.s : Nat))
    (List.range (a.payload.length / 4)).flatMap fun i => f32Bytes (lerp (el a i) (el a i) (el b i) w)
  | [(0, a), (2, a')] =>
    let w := f32Div (f32Int (instant - a.s : Nat)) (f32Int (a.s - a'.s : Nat))
    (List.range (a.payload.length / 4)).flatMap fun i => f32Bytes (lerp (el a i) (el a' i) (el a i) w)
  | [(0, a)] => a.payload
  | _ => []

/-- The FP32 value nearest 10^−9 (R292). -/
abbrev f32Nano : F32 := 0x3089705F

/-- A difference of positions in metres (R292). -/
def metres (d : Int) : F32 := numF32 (numScale (-20) (f32Num (f32Int d)))

/-- The vector (x, y) turned by the pose at the sample's time and back by the pose at the instant (R292). -/
def turned (ps pt : Pose) (dx dy x y : F32) : F32 × F32 :=
  let ex := f32Sub (f32Add dx (f32Mul ps.c x)) (f32Mul ps.s y)
  let ey := f32Add (f32Add dy (f32Mul ps.s x)) (f32Mul ps.c y)
  (f32Add (f32Mul pt.c ex) (f32Mul pt.s ey), f32Add (f32Mul (f32Neg pt.s) ex) (f32Mul pt.c ey))

/-- The velocity turned by the same two rotations without translation (R292). -/
def turnedVel (ps pt : Pose) (x y : F32) : F32 × F32 :=
  let ex := f32Sub (f32Mul ps.c x) (f32Mul ps.s y)
  let ey := f32Add (f32Mul ps.s x) (f32Mul ps.c y)
  (f32Add (f32Mul pt.c ex) (f32Mul pt.s ey), f32Add (f32Mul (f32Neg pt.s) ex) (f32Mul pt.c ey))

/-- One object brought to the instant; without poses only step 2 applies (R292). -/
def objectAt (poses : Option (Pose × Pose)) (d : F32) (o : List Byte) : List Byte :=
  let vx := f32At o 20
  let vy := f32At o 24
  let px := f32Add (f32At o 8) (f32Mul vx d)
  let py := f32Add (f32At o 12) (f32Mul vy d)
  match poses with
  | none => o.take 8 ++ f32Bytes px ++ f32Bytes py ++ o.drop 16
  | some (ps, pt) =>
    let p := turned ps pt (metres (ps.x - pt.x)) (metres (ps.y - pt.y)) px py
    let v := turnedVel ps pt vx vy
    o.take 8 ++ f32Bytes p.1 ++ f32Bytes p.2 ++ (o.drop 16).take 4 ++ f32Bytes v.1 ++ f32Bytes v.2 ++ o.drop 28

/-! Records -/

/-- The admitted input set of a fused result (R41, R296), with the last integrator inputs. -/
structure FusIn where
  instant : Nat
  seq : Nat
  cfgGen : Nat
  ego : Nat
  unsync : Nat
  picks : List Pick
  poses : List Pose
  v : F32
  yaw : F32
  deriving DecidableEq, Repr

/-- The payload of a channel's block and its items (R297). -/
def blockOf (kind stream : Nat → Nat) (x : FusIn) (p : Pick) : Nat × List Byte :=
  let st := pickState x.unsync p
  let at_ := fun t => (poseAt x.ego x.instant x.poses t).1
  match kind p.chan, p.used with
  | _, [] => (0, [])
  | 0, _ => let bs := vectorAt x.instant p; (bs.length / 4, bs)
  | 1, (_, a) :: _ =>
    let d := f32Mul (f32Int (x.instant - a.s : Nat)) f32Nano
    let poses := if x.ego = 2 then none else some (at_ a.s, at_ x.instant)
    let n := a.payload.length / 32
    (n, (chunksOf 32 n a.payload).flatMap (objectAt poses d))
  | 2, (_, a) :: _ => (1, leBytes 4 (stream p.chan) ++ a.payload.take 4 ++ (a.payload.drop 8).take 16)
  | _, us => if st = 3 || st = 4 then (0, []) else
      ((Config.poseItems (us.map (·.2.payload))).toNat, Config.poseBlock (us.map (·.2.payload)))

/-- A channel's block (R297). -/
def blockBytes (kind stream : Nat → Nat) (x : FusIn) (p : Pick) : List Byte :=
  let b := blockOf kind stream x p
  leBytes 1 p.chan ++ leBytes 1 (pickState x.unsync p) ++ leBytes 2 b.1 ++ zeros 4 ++ leBytes 8 b.2.length ++ b.2

/-- A fused result record, out_time and marks as zero (R297, R298). -/
def fusedRecord (kind stream : Nat → Nat) (x : FusIn) : List Byte :=
  let p := (poseAt x.ego x.instant x.poses x.instant).1
  leBytes 8 x.instant ++ leBytes 8 x.seq ++ zeros 20 ++ leBytes 4 x.picks.length ++
  leBytes 8 (ofSigned 64 p.x) ++ leBytes 8 (ofSigned 64 p.y) ++ f32Bytes p.c ++ f32Bytes p.s ++
  (if x.ego = 0 then f32Bytes x.v ++ f32Bytes x.yaw else zeros 8) ++ leBytes 1 x.ego ++ zeros 23 ++
  x.picks.flatMap (blockBytes kind stream x)

/-- A sample entry of an admission record (R296). -/
def sampleEntry (chan role seq t : Nat) (payload : List Byte) : List Byte :=
  leBytes 1 chan ++ leBytes 1 role ++ zeros 2 ++ leBytes 4 seq ++ leBytes 8 t ++ leBytes 4 payload.length ++ zeros 12 ++ payload ++
  zeros (roundUp payload.length 32 - payload.length)

/-- A pose entry (R296). -/
def poseEntry (p : Pose) : List Byte :=
  leBytes 8 p.t ++ leBytes 8 (ofSigned 64 p.x) ++ leBytes 8 (ofSigned 64 p.y) ++ f32Bytes p.c ++ f32Bytes p.s

/-- An admission record (R296): kind 0 fusion, 1 plan. -/
def admRecord (kind ego unsync instant seq cfgGen oldest : Nat) (samples : List (List Byte)) (poses : List Pose) (epochs : List Nat) :
    List Byte :=
  let body := samples.flatten ++ poses.flatMap poseEntry ++ epochs.flatMap (leBytes 8)
  leBytes 2 1 ++ leBytes 1 kind ++ leBytes 1 ego ++ leBytes 4 unsync ++ leBytes 8 instant ++ leBytes 8 seq ++ leBytes 4 cfgGen ++
  leBytes 4 samples.length ++ leBytes 4 poses.length ++ leBytes 4 epochs.length ++ leBytes 8 oldest ++ leBytes 4 (64 + body.length) ++
  zeros 12 ++ body

/-- The oldest admitted source time (R296). -/
def oldestOf (x : FusIn) : Nat :=
  match x.picks.flatMap (·.used.map (·.2.s)) with
  | [] => (Config.noOldest x.instant).toNat
  | t :: ts => ts.foldl min t

/-- The admission record of a fused result (R296). -/
def fusedAdm (x : FusIn) : List Byte :=
  admRecord 0 x.ego x.unsync x.instant x.seq x.cfgGen (oldestOf x)
    (x.picks.flatMap fun p => p.used.map fun u => sampleEntry p.chan u.1 u.2.seq u.2.s u.2.payload) x.poses []

/-- The channels of a service's mask (R314). -/
def svcChans (s : State) (k : Nat) : List Nat := (List.range 32).filter (bitOf (actGet s (K.FUS_SVC_MASK_channels k)))

/-- The input set admitted now for an instant (R289, R291, R294). DESIGN CHOICE (log 94): it names the CFG_GEN of the moment of its admission, also for
a FUSE job that computes under the banks of a start before a curtain swap (R41, R251); a PLAN job's admission likewise. -/
def admitNow (s : State) (k instant seq : Nat) : FusIn :=
  let picks := (svcChans s k).map (pickNow s instant)
  let ego := egoSource s
  ⟨instant, seq, regGet s K.CFG_GEN_gen, ego, ofBits ((List.range 32).map (chanUnsync s)), picks,
   if ego = 2 then [] else usedPoses ego instant (posesNow s) (poseTimes (chanKind s) instant picks), s.fus.ego.v, s.fus.ego.yaw⟩

/-- The ingress stream of a channel. -/
def chanStream (s : State) (c : Nat) : Nat := actGet s (K.FUS_CH_CTRL_stream c)

/-- The outcome of an input set for a service (R296, R297). -/
def fusedOutcome (s : State) (k : Nat) (x : FusIn) (replay : Bool) (resultAt admAt : Nat) : Outcome :=
  ⟨fusedRecord (chanKind s) (chanStream s) x, fusedAdm x, x.instant, x.seq, oldestOf x, none, replay, actGet s (K.FUS_SVC_CTRL_out k),
   resultAt, admAt⟩

/-- The motion remembered beside an admission record (R43, R297). -/
def noteMotion (x : FusIn) (s : State) : State :=
  let a := fusedAdm x
  if x.ego ≠ 0 then s
  else { s with fus := { s.fus with motions := (a, x.v, x.yaw) :: s.fus.motions.filter fun m => m.1 != a } }

/-- Admission for an instant now: the ego source is decided, the input set taken, the channels marked (R289, R290, R295). -/
def admitSet (k instant seq : Nat) (s : State) : State × FusIn :=
  let s := decideEgo instant none s
  let x := admitNow s k instant seq
  (noteMotion x ((svcChans s k).foldl (fun s c => modChan c (fun y => { y with
    admitted := some (max instant (y.admitted.getD 0)) }) s) s), x)

/-- The admission wait in ns (R289, R314). -/
def admitWait (s : State) : Nat := clampNat 0 100000 (actGet s K.FUS_ADMIT_wait_us) * 1000

/-- FUSION_ADMISSION: the first instant due of a service is admitted at its time (R289). -/
def fusionAdmission (k : Nat) (s : State) : State :=
  match (svcOf s k).due with
  | [] => s
  | (t, n) :: rest =>
    if !running s || tauNow s < t + admitWait s then s
    else
      let a := admitSet k t n (modSvc k (fun v => { v with due := rest }) s)
      modSvc k (fun v => { v with work := v.work ++ [⟨fusedOutcome a.1 k a.2 false 0 0, none, none, false⟩] }) a.1

/-- FUSION_ADMISSION (R289). -/
def execFusionAdmission (svc : Fin 4) (s : State) : Host.Outcome State Fault Refusal := .next (fusionAdmission svc.val s)

/-! Output streams -/

/-- An output stream outside its registers. -/
def outOf (s : State) (o : Nat) : OutStream := tget OutStream.init o s.fus.outs
/-- It changed. -/
def modOut (o : Nat) (f : OutStream → OutStream) (s : State) : State :=
  { s with fus := { s.fus with outs := tmod OutStream.init o f s.fus.outs } }

/-- An output stream as a ring (R298, R314). -/
def outRing (s : State) (o : Nat) : PktRing :=
  ⟨0, addr64 12 (actGet s (K.OUT_CB_LO_base o)) (actGet s (K.OUT_CB_HI_base o)), 2 ^ clampNat 16 30 (actGet s (K.OUT_SIZE_log2 o)),
   (outOf s o).producer⟩

/-- Whether an output stream's consumer is in range; STREAM_INVALID once where it is not (R272). -/
def outOpen (o : Nat) (s : State) : State × Bool :=
  let r := outRing s o
  if consOk s r then (modOut o (fun x => { x with stopped := false }) s, true)
  else if (outOf s o).stopped then (s, false)
  else (raise .manager ⟨0x0414, 0, true, iodSteward, o, ringCons s r % 2 ^ 32, r.producer⟩ (modOut o (fun x => { x with stopped := true }) s), false)

/-- A result that finds its stream full: dropped into the pending gap marker (R298). -/
def dropOut (o instant bytes : Nat) (s : State) : State :=
  let st := stampNow s
  let s := modOut o (fun x => { x with gap := match x.gap with
    | some g => some { g with last := st, count := satInc max32 g.count, bytes := min max32 (g.bytes + bytes) }
    | none => some ⟨o, st, st, 1, min max32 bytes⟩ }) s
  raise .manager ⟨0x0509, 0, true, iodSteward, o, 0, instant⟩ (regInc (K.OUT_DROPPED_count o) s)

/-- The pending gap marker written ahead of the next record (R278, R298). -/
def putOutGap (o port : Nat) (s : State) : State × Bool :=
  match (outOf s o).gap with
  | none => (s, true)
  | some g =>
    match putRing (outRing s o) port (gapRecord port g) s with
    | (s, none) => (s, false)
    | (s, some prod) =>
      let s := modOut o (fun x => { x with
        producer := prod, gap := none, lostPkts := x.lostPkts + g.count, lostBytes := x.lostBytes + g.bytes }) s
      (putLost 0 (outRing s o).cb (outOf s o).lostPkts (outOf s o).lostBytes s, true)

/-- A record has been written: the stream is no longer missing (R312). -/
def outWritten (o : Nat) (s : State) : State :=
  let was := (outOf s o).missing
  let s := modOut o (fun x => { x with last := some (tauNow s), missing := false }) s
  if was then raise .manager ⟨0x0507, 0, false, iodSteward, o, 0, tauNow s⟩ s else s

/-- A service result written to its output stream, behind the pending gap marker, or dropped (R298, R311). Streams 6 and 7 do not exist. -/
def writeOut (port : Nat) (oc : Outcome) (simplex : Bool) (s : State) : State :=
  let o := oc.out
  if 6 ≤ o then s
  else
    let st := stampNow s
    let payload := sealedRecord oc st (outMarks s oc simplex) ++ oc.adm
    let s := countStale oc s
    match outOpen o s with
    | (s, false) => dropOut o oc.instant payload.length s
    | (s, true) =>
      match putOutGap o port s with
      | (s, false) => dropOut o oc.instant payload.length s
      | (s, true) =>
        match putRing (outRing s o) port (recHeader payload.length 0 port 0 0 st 0 ++ payload ++
            zeros (roundUp payload.length 32 - payload.length)) s with
        | (s, none) => dropOut o oc.instant payload.length s
        | (s, some prod) => outWritten o (modOut o (fun x => { x with producer := prod }) s)

/-- The oldest result at work of a service released (R298, R329). -/
def releaseService (k : Nat) (simplex : Bool) (s : State) : State :=
  match (svcOf s k).work with
  | [] => s
  | p :: rest =>
    let s := writeOut (if k < 4 then 30 else 31) p.o simplex s
    modSvc k (fun v => { v with work := rest, done := p.o :: v.done }) s

/-- The oldest result at work of a service dropped (R331). -/
def dropService (k : Nat) (s : State) : State := modSvc k (fun v => { v with work := v.work.drop 1 }) s

/-- The oldest result at work changed. -/
def modWork (k : Nat) (f : Pend → Pend) (s : State) : State :=
  modSvc k (fun v => { v with work := match v.work with
    | p :: rest => f p :: rest
    | [] => [] }) s

/-- The digest of a service result (R298). -/
def serviceDigest (o : Outcome) : List Byte := jobDigest (serialiseBytes o.result ++ o.adm) 0x0100 0 1

/-- Whether an engine may let a result or plan go before its golden workload of the running frame (R144, R310). -/
def mayGo (s : State) (e : Nat) : Bool := s.frame.golden.contains e || decide (0 < tget 2 e s.frame.ahead)

/-- A result or plan let go by an engine ahead of its golden workload. -/
def letGo (e : Nat) (s : State) : State :=
  if s.frame.golden.contains e then s else { s with frame := { s.frame with ahead := tmod 2 e (· - 1) s.frame.ahead } }

/-- A fusion engine has finished the oldest result, unless its golden workload comes first (R144, R310): its digest is sent, or where the pair runs simplex the result is released (R297,
R329, R332). -/
def fusionResult (k : Nat) (side : Side) (fault : Option (List Byte)) (s : State) : State :=
  match (svcOf s k).work with
  | [] => s
  | p :: _ =>
    let e := if side = .a then 0 else 1
    let sent := if side = .a then p.digA.isSome else p.digB.isSome
    if !running s || !engineServes s e || sent || !mayGo s e then s
    else if !enginesDuplex s false then releaseService k true (letGo e s)
    else
      let d := fault.getD (serviceDigest p.o)
      modWork k (fun p => match side with
        | .a => { p with digA := some d }
        | .b => { p with digB := some d }) (letGo e s)

/-- FUSION_RESULT (R297). -/
def execFusionResult (svc : Fin 4) (side : Side) (fault : Option (List Byte)) (s : State) : Host.Outcome State Fault Refusal :=
  .next (fusionResult svc.val side fault s)

/-- Whether an output stream is enabled: an enabled service names it (R312, R314). -/
def outOn (s : State) (o : Nat) : Bool :=
  ((List.range 4).any fun k => actGet s (K.FUS_SVC_CTRL_enable k) == 1 && actGet s (K.FUS_SVC_CTRL_out k) == o) ||
  (List.range 2).any fun k => actGet s (K.PLE_SVC_CTRL_enable k) == 1 && actGet s (K.PLE_SVC_CTRL_out k) == o

/-- STREAM_MISSING, raised by the age monitor (R312, R315). -/
def streamMissing (o : Nat) (s : State) : State :=
  let x := outOf s o
  let ms := clampNat 1 2000 (actGet s (K.MISS_LIMIT_ms o))
  if powered s && outOn s o && !x.missing && decide ((x.last.getD x.from_) + ms * 1000000 < tauNow s) then
    raise .manager ⟨0x0506, 0, true, islNode (ageIsl s), o, ms, x.last.getD (Config.noOutTime o).toNat⟩ (modOut o (fun x => { x with missing := true }) s)
  else s

/-- STREAM_MISSING (R312). -/
def execStreamMissing (out : Fin 6) (s : State) : Host.Outcome State Fault Refusal := .next (streamMissing out.val s)

/-- Whether a diagnosis waits for an engine's golden workload (R330). -/
def goldenAsked (s : State) (e : Nat) : Bool := s.dpx.diags.any fun x => x.arrays.contains (4 + e, 0)

/-- The outcome of an engine's golden workload noted in the diagnoses that asked for it (R330). -/
def noteGolden (e : Nat) (pass : Bool) (s : State) : State :=
  { s with dpx := { s.dpx with diags := s.dpx.diags.map fun x =>
    if (x.arrays.any fun q => q.1 == 4 + e) then
      { x with arrays := x.arrays.map fun q => if q.1 = 4 + e then (4 + e, 1) else q,
               failA := x.failA || (!pass && e % 2 == 0), failB := x.failB || (!pass && e % 2 == 1) }
    else x } }

/-- GOLDEN_WORKLOAD, in its turn of the frame or for a diagnosis: a pass counts to the end of the frame, a failure withdraws the engine (R310,
R330). -/
def goldenWorkload (e : Nat) (pass : Bool) (s : State) : State :=
  if !running s || !engineIn s e || (s.frame.golden.contains e && !goldenAsked s e) then s
  else
    let s := noteGolden e pass s
    if pass then { s with frame := { s.frame with golden := if s.frame.golden.contains e then s.frame.golden else s.frame.golden ++ [e] } }
    else orderEngineRemoval e 0 s

/-- GOLDEN_WORKLOAD (R310). -/
def execGoldenWorkload (engine : Fin 4) (pass : Bool) (s : State) : Host.Outcome State Fault Refusal :=
  .next (goldenWorkload engine.val pass s)

/-! FUSE jobs -/

/-- The addresses and sizes of a FUSE or PLAN job's records (R299). -/
def jResult (j : Job) : Nat := dF j 72 8 % 2 ^ 48
def jAdm (j : Job) : Nat := dF j 88 8 % 2 ^ 48

/-- LENGTH_RANGE of the two record areas before execution (R234, R299). -/
def recordsFail (s : State) (j : Job) : Option Fail :=
  if dF j 80 4 = max32 then some ⟨8, 80⟩
  else if !extentMapped s 0 (dF j 72 8) (dF j 80 4) then some ⟨8, 72⟩
  else if dF j 96 4 = max32 then some ⟨8, 96⟩
  else if !extentMapped s 0 (dF j 88 8) (dF j 96 4) then some ⟨8, 88⟩
  else none

/-- The checks of a FUSE or PLAN job that admits live. -/
def recordsPre (s : State) (j : Job) : PreOut :=
  match recordsFail s j with
  | some f => .fail f
  | none => .go noClaim

/-- The result of a FUSE or PLAN job with an outcome; LENGTH_RANGE where a record does not fit its area (R298, R299). -/
def outcomeResult (j : Job) (o : Outcome) : Except Fail JobResult :=
  if dF j 80 4 < o.result.length then .error ⟨8, 80⟩
  else if dF j 96 4 < o.adm.length then .error ⟨8, 96⟩
  else .ok ⟨0, 0, 0, jobDigest (serialiseBytes o.result ++ o.adm) (dF j 2 2) 0 1, [],
    [(o.resultAt, o.result.length), (o.admAt, o.adm.length)], some o⟩

/-- The service a FUSE or PLAN job names. -/
def jService (j : Job) : Nat := dF j 56 1

/-- A FUSE job admits for its instant and is fused (R289, R299). -/
def fuseWork (j : Job) (s : State) : State × Except Fail JobResult :=
  let a := admitSet (jService j) (j.instant.getD 0) j.acc s
  (a.1, outcomeResult j (fusedOutcome a.1 (jService j) a.2 false (jResult j) (jAdm j)))

/-- A started job takes its instant: the one it names, or the time base for 0 (R299). -/
def takeInstant (acc : Nat) (s : State) : State :=
  modJob acc (fun j => if j.phase = .running && j.instant.isNone then
    { j with instant := some (if dF j 64 8 = 0 then tauNow s else dF j 64 8) } else j) s

/-- Whether a job command is for the job named as a replay or not; a reserved type is for either. -/
def replayIs (b : Bool) (j : Job) : Bool := reservedType j || jReplay j == b

/-- Whether a FUSE or PLAN job runs in duplex (R326). -/
def engineDuplex (s : State) (j : Job) : Bool := enginesDuplex s (jType j == 5)

/-- A job command on an engine pair: where the golden workload of an engine that serves comes first the job only starts (R144, R310); a job that
executes counts as one result, one that its checks fail does not. -/
def engineRun (es : List Nat) (acc : Nat) (run : JobRun) (act : JobRun → State → State) (s : State) : State :=
  let es := es.filter (engineServes s)
  if onlyStarts run then act run s
  else if !es.all (mayGo s) then act .start s
  else
    let t := act run s
    if (findJob (act (.start []) s) acc).any (·.phase == .running) && (findJob t acc).all (·.phase == .withheld) then es.foldl (fun s e => letGo e s) t else t

/-- FUSE: the job starts and takes its instant; from the admission of that instant on it is fused (R289, R299). -/
def fuseJob (acc : Nat) (run : JobRun) (s : State) : State :=
  match findJob s acc with
  | none => s
  | some j =>
    if !replayIs false j then s
    else
      let s := takeInstant acc (jobCommand [0x04] acc .start bodyFaults recordsPre fuseWork engineDuplex s)
      match findJob s acc with
      | none => s
      | some j =>
        if !onlyStarts run && running s && j.phase = .running && decide (j.instant.getD 0 + admitWait { s with active := j.banks } ≤ tauNow s) then
          engineRun [0, 1] acc run (fun run s => jobCommand [0x04] acc run bodyFaults recordsPre fuseWork engineDuplex s) s
        else s

/-- FUSE (R299). -/
def execFuse (job : Nat) (run : JobRun) (s : State) : Host.Outcome State Fault Refusal := .next (fuseJob job run s)

/-! Replay -/

/-- The sample entries of an admission record from an offset: channel, role, sample (R296). -/
def readSamples (bs : List Byte) : Nat → Nat → List (Nat × Nat × ChanSample) × Nat
  | 0, off => ([], off)
  | n + 1, off =>
    let len := fieldAt bs (off + 16) 4
    let r := readSamples bs n (off + 32 + roundUp len 32)
    ((fieldAt bs off 1, fieldAt bs (off + 1) 1, ⟨fieldAt bs (off + 4) 4, fieldAt bs (off + 8) 8, (bs.drop (off + 32)).take len⟩) :: r.1, r.2)

/-- A pose entry read (R296). -/
def readPose (bs : List Byte) (off : Nat) : Pose :=
  ⟨fieldAt bs off 8, toSigned 64 (fieldAt bs (off + 8) 8), toSigned 64 (fieldAt bs (off + 16) 8), f32At bs (off + 24), f32At bs (off + 28)⟩

/-- The largest admission record (R296). -/
abbrev admMax : Nat := 1048576

/-- The length of the admission record a replay names. -/
def namedLen (s : State) (j : Job) : Nat := fieldAt (realmRead s 0 (dF j 48 8) 64) 48 4

/-- The admission record a replay names. -/
def namedRecord (s : State) (j : Job) : List Byte := realmRead s 0 (dF j 48 8) (namedLen s j)

/-- The offset of the epoch entries of an admission record. -/
def epochsAt (bs : List Byte) : Nat := (readSamples bs (fieldAt bs 28 4) 64).2 + 32 * fieldAt bs 32 4

/-- Whether bytes are an admission record of a kind (R296): version, kind, and a length that its entries fill. -/
def admOk (kind : Nat) (bs : List Byte) : Bool :=
  fieldAt bs 0 2 == 1 && fieldAt bs 2 1 == kind && decide (fieldAt bs 28 4 ≤ bs.length) && decide (fieldAt bs 32 4 ≤ bs.length) &&
  decide (fieldAt bs 36 4 ≤ 9) && epochsAt bs + 8 * fieldAt bs 36 4 == bs.length

/-- The checks of the record a replay names (R43, R157, R166, R299). -/
def namedFail (s : State) (j : Job) (kind : Nat) : Option Fail :=
  let a := dF j 48 8
  if !extentMapped s 0 a 64 then some ⟨8, 48⟩
  else if (poisonedRead s 0 a 64).isSome then some ⟨0x20, 0⟩
  else if namedLen s j < 64 || admMax < namedLen s j then some ⟨0x13, 0⟩
  else if !extentMapped s 0 a (namedLen s j) then some ⟨8, 48⟩
  else if (poisonedRead s 0 a (namedLen s j)).isSome then some ⟨0x20, 0⟩
  else if !admOk kind (namedRecord s j) then some ⟨0x13, 0⟩
  else none

/-- The input set of a fused result from its admission record (R43). The record has no place for the last integrator inputs (R41, R296, R297):
they are those noted when the record was made, which outlive a reset, or for a record made elsewhere free ones that depend on it alone
(log 95). -/
def admittedIn (s : State) (k : Nat) (bs : List Byte) : FusIn :=
  let rs := readSamples bs (fieldAt bs 28 4) 64
  let m := match s.fus.motions.find? fun m => m.1 == bs with
    | some m => m.2
    | none => let v := (Config.replayMotion bs).toNat; (BitVec.ofNat 32 v, BitVec.ofNat 32 (v / 2 ^ 32))
  ⟨fieldAt bs 8 8, fieldAt bs 16 8, fieldAt bs 24 4, fieldAt bs 3 1, fieldAt bs 4 4,
   (svcChans s k).map fun c => ⟨c, (rs.1.filter fun e => e.1 == c).map (·.2)⟩,
   (List.range (fieldAt bs 32 4)).map (fun i => readPose bs (rs.2 + 32 * i)), m.1, m.2⟩

/-- The checks of a FUSE replay. -/
def fuseReplayPre (s : State) (j : Job) : PreOut :=
  match namedFail s j 0 with
  | some f => .fail f
  | none => recordsPre s j

/-- A FUSE replay fuses the named record's input set; its admission record is the named one (R43, R299). -/
def fuseReplayWork (j : Job) (s : State) : State × Except Fail JobResult :=
  let bs := namedRecord s j
  let o := fusedOutcome s (jService j) (admittedIn s (jService j) bs) true (jResult j) (jAdm j)
  (s, outcomeResult j { o with adm := bs, oldest := fieldAt bs 40 8 })

/-- FUSE_REPLAY (R43). -/
def execFuseReplay (job : Nat) (run : JobRun) (s : State) : Host.Outcome State Fault Refusal :=
  .next (match findJob s job with
    | some j => if replayIs true j then
        engineRun [0, 1] job run (fun run s => jobCommand [0x04] job run bodyFaults fuseReplayPre fuseReplayWork engineDuplex s) s else s
    | none => s)

end Sys2Proof.Machine
end

