-- ==== Sys2Proof/Machine/Plan.lean ====
section
/-! DEFINITION. Planning: map sets and MAP_UPDATE, cost-to-go, the beam search, rechecks, plan records, the PLAN job (R300 to R309). -/

namespace Sys2Proof.Machine

/-! Map sets -/

/-- The current epoch of a map set (R300). -/
def mapEpoch (s : State) (set : Nat) : Nat := fieldAt (realmRead s 0 set 8) 0 8
/-- The buffer of an epoch. -/
def mapBuf (s : State) (set e : Nat) : Nat := fieldAt (realmRead s 0 (set + 8 + 8 * (e % 2)) 8) 0 8 % 2 ^ 48
/-- The size of each buffer. -/
def mapSize (s : State) (set : Nat) : Nat := fieldAt (realmRead s 0 (set + 24) 8) 0 8
/-- A little-endian field of a buffer. -/
def bufF (s : State) (buf off n : Nat) : Nat := fieldAt (realmRead s 0 (buf + off) n) 0 n

/-- Where the voxel tree begins in a buffer. -/
abbrev treeBase : Nat := 576 + 8 * 2 ^ 20

/-- The cost of a lethal cell (R301). -/
abbrev lethalCost : Nat := 0xFFFF

/-- Whether a cell lies in the map. -/
def inMap (i j : Int) : Bool := decide (0 ≤ i) && decide (i < 1024) && decide (0 ≤ j) && decide (j < 1024)

/-- The combined cost of a cell (R301). -/
def cellCost (s : State) (buf : Nat) (i j : Int) : Nat :=
  if !inMap i j then lethalCost
  else
    let c := fun l => bufF s buf (576 + l * 2 ^ 20 + j.toNat * 1024 + i.toNat) 1
    if (List.range 8).any fun l => bitOf (bufF s buf 48 1) l && c l == 255 then lethalCost
    else min 0xFFFE (1 + ((List.range 8).map fun l => bufF s buf (40 + l) 1 * c l).sum)

/-- The slice mask of a node of the voxel tree, and its first child (R303). -/
def nodeMask (s : State) (buf i : Nat) : Nat := bufF s buf (treeBase + 16 * i) 10
def nodeChild (s : State) (buf i : Nat) : Nat := bufF s buf (treeBase + 16 * i + 12) 4

/-- The mask of the leaf at (u, v, z) below a node `n` levels above the leaves; no children, no bits (R303). -/
def leafMask (s : State) (buf u v z : Nat) : Nat → Nat → Nat
  | 0, i => nodeMask s buf i
  | n + 1, i =>
    let c := nodeChild s buf i
    let zd := if n < 3 then z / 4 ^ n % 4 else 0
    if c = max32 then 0 else leafMask s buf u v z n (c + (zd * 4 + v / 4 ^ n % 4) * 4 + u / 4 ^ n % 4)

/-- Whether a voxel is occupied in a slice, slices outside 0 to 79 read as the nearest (R303); outside the tree there is no leaf. -/
def occupied (s : State) (buf z : Nat) (u v slice : Int) : Bool :=
  decide (0 ≤ u) && decide (u < 1024) && decide (0 ≤ v) && decide (v < 1024) && decide (z < 64) &&
  bitOf (leafMask s buf u.toNat v.toNat z 5 0) (clampInt 0 79 slice).toNat

/-- Whether the tree below a node `n` levels above the leaves has a fault: a mask that is not the OR of its children's, a child that leaves
the buffer (R303). -/
def treeFault (s : State) (buf size : Nat) : Nat → Nat → Bool
  | 0, _ => false
  | n + 1, i =>
    let c := nodeChild s buf i
    let k := if n < 3 then 64 else 16
    if c = max32 then nodeMask s buf i != 0
    else decide (size < treeBase + 16 * (c + k)) ||
      nodeMask s buf i != (List.range k).foldl (fun m q => Nat.lor m (nodeMask s buf (c + q))) 0 ||
      (List.range k).any fun q => treeFault s buf size n (c + q)

/-- A dirty rectangle of a buffer (R300): i0, j0, i1, j1. -/
def rectOf (s : State) (buf k : Nat) : Nat × Nat × Nat × Nat :=
  (bufF s buf (64 + 8 * k) 2, bufF s buf (66 + 8 * k) 2, bufF s buf (68 + 8 * k) 2, bufF s buf (70 + 8 * k) 2)

/-- Whether a dirty rectangle is malformed (R302). -/
def rectBad (r : Nat × Nat × Nat × Nat) : Bool :=
  decide (r.2.2.1 < r.1) || decide (r.2.2.2 < r.2.1) || decide (1023 < r.1) || decide (1023 < r.2.1) || decide (1023 < r.2.2.1) ||
  decide (1023 < r.2.2.2)

/-- Whether a dirty rectangle of a buffer meets a box of cells, lower and upper corner; no rectangles mean the whole map (R300, R308). -/
def dirtyMeets (s : State) (buf : Nat) (lo hi : Int × Int) : Bool :=
  let n := bufF s buf 49 1
  n == 0 || (List.range (min 64 n)).any fun k =>
    let r := rectOf s buf k
    decide (Int.ofNat r.1 ≤ hi.1) && decide (lo.1 ≤ Int.ofNat r.2.2.1) && decide (Int.ofNat r.2.1 ≤ hi.2) &&
    decide (lo.2 ≤ Int.ofNat r.2.2.2)

/-! MAP_UPDATE -/

/-- The map set and image of a MAP_UPDATE job, its dirty count (R302). -/
def jSet (j : Job) : Nat := dF j 64 8
def jImage (j : Job) : Nat := dF j 56 8
def jDirty (j : Job) : Nat := dF j 80 1

/-- The checks of MAP_UPDATE (R302, R157, R166). -/
def mapPre (s : State) (j : Job) : PreOut :=
  let set := jSet j
  let size := mapSize s set
  if 64 < jDirty j then .fail ⟨8, 80⟩
  else if !extentMapped s 0 set 64 then .fail ⟨8, 64⟩
  else if (poisonedRead s 0 set 64).isSome then .fail ⟨0x20, 0⟩
  else if !extentMapped s 0 (mapBuf s set 0) size || !extentMapped s 0 (mapBuf s set 1) size then .fail ⟨8, 64⟩
  else if !extentMapped s 0 (jImage j) size then .fail ⟨8, 56⟩
  else if (poisonedRead s 0 (jImage j) size).isSome then .fail ⟨0x20, 0⟩
  else if (List.range (jDirty j)).any fun k => rectBad (rectOf s (jImage j) k) then .fail ⟨0x0B, 0⟩
  else .go noClaim

/-- MAP_UPDATE starts and waits for its buffer (R302). -/
def execMapUpdate (job : Nat) (s : State) : Host.Outcome State Fault Refusal :=
  .next (jobCommand [0x0E] job .start bodyFaults mapPre (fun _ s => (s, .error ⟨0, 0⟩)) once s)

/-- Whether a plan holds the epoch in the buffer that an epoch goes to (R302, R308). -/
def bufferHeld (s : State) (set e : Nat) : Bool :=
  s.fus.plans.any fun p => p.mapSet == set && p.epochs.getLast?.any fun x => x % 2 == e % 2

/-- The image copied as epoch `e` (R300, R302). -/
def mapCopy (j : Job) (e : Nat) (s : State) : State × Option Fail :=
  let size := mapSize s (jSet j)
  let img := realmRead s 0 (jImage j) size
  let bs := leBytes 8 e ++ leBytes 8 (dF j 72 8) ++ (img.drop 16).take 33 ++ leBytes 1 (jDirty j) ++ img.drop 50
  checkedWrite 0 (mapBuf s (jSet j) e) 0 (bs.take size) s

/-- The image copied, its voxel tree checked, the epoch published by one write, the job completed (R302). -/
def mapPublish (acc : Nat) (s : State) : State :=
  match findJob s acc with
  | none => s
  | some j =>
    let set := jSet j
    let e := (mapEpoch s set + 1) % 2 ^ 64
    if jType j ≠ 0x0E || j.phase ≠ .running || bufferHeld s set e then s
    else match mapCopy j e s with
    | (s, some f) => failJob j f s
    | (s, none) =>
      if mapSize s set < treeBase + 16 || treeFault s (mapBuf s set e) (mapSize s set) 5 0 then failJob j ⟨0x0B, 0⟩ s
      else okJob j 0 (realmWrite 0 set (leBytes 8 e) s)

/-- MAP_PUBLISH (R302). -/
def execMapPublish (job : Nat) (s : State) : Host.Outcome State Fault Refusal := .next (mapPublish job s)

/-! Cost-to-go -/

/-- The costs of the cells of a map, row by row. -/
def costArray (s : State) (buf : Nat) : Array Nat :=
  (Array.range (2 ^ 20)).map fun k => cellCost s buf (Int.ofNat (k % 1024)) (Int.ofNat (k / 1024))

/-- A cell of such an array; a cell outside the map has the value given. -/
def atCell (a : Array Nat) (out : Nat) (i j : Int) : Nat := if inMap i j then a.getD (j.toNat * 1024 + i.toNat) out else out

/-- One relaxation of a cell (R304). -/
def relaxCell (c g : Array Nat) (k : Nat) : Nat :=
  let i := Int.ofNat (k % 1024)
  let j := Int.ofNat (k / 1024)
  let own := atCell g max32 i j
  let dead := fun (i j : Int) => atCell c lethalCost i j == lethalCost
  if dead i j then own
  else
    let via := fun (d : Int × Int) =>
      if dead (i + d.1) (j + d.2) then max32
      else if d.1 = 0 || d.2 = 0 then min 0xFFFFFFFE (atCell g max32 (i + d.1) (j + d.2) + 10 * atCell c 0 i j)
      else if dead (i + d.1) j || dead i (j + d.2) then max32
      else min 0xFFFFFFFE (atCell g max32 (i + d.1) (j + d.2) + 14 * atCell c 0 i j)
    [(-1, -1), (0, -1), (1, -1), (-1, 0), (1, 0), (-1, 1), (0, 1), (1, 1)].foldl (fun m d => min m (via d)) own

/-- Relaxation of every cell until no value changes; `n` bounds the sweeps (R304). -/
def settleCosts (c : Array Nat) : Nat → Array Nat → Array Nat
  | 0, g => g
  | n + 1, g =>
    let h := (Array.range (2 ^ 20)).map (relaxCell c g)
    if h == g then g else settleCosts c n h

/-- Cost-to-go from goals, each a cell and its initial cost (R304): no least path is longer than the map has cells. -/
def costToGo (c : Array Nat) (goals : List (Nat × Nat × Nat)) : Array Nat :=
  settleCosts c (2 ^ 20 + 1) (goals.foldl (fun g x =>
    if x.1 < 1024 && x.2.1 < 1024 then g.modify (x.2.1 * 1024 + x.1) (min x.2.2) else g) (Array.replicate (2 ^ 20) max32))

/-! Requests and primitives -/

/-- A plan request (R306). -/
structure Request where
  table : Nat
  count : Nat
  horizon : Nat
  limits : List F32
  width : F32
  goals : List (Nat × Nat × Nat)
  valid : Bool
  deriving DecidableEq, Repr

/-- The request at an address. -/
def readRequest (s : State) (a : Nat) : Request :=
  let h := realmRead s 0 a 64
  let n := fieldAt h 13 1
  let gs := realmRead s 0 (a + 64) (8 * n)
  let count := fieldAt h 8 4
  let table := fieldAt h 0 8
  ⟨table, count, fieldAt h 12 1, (List.range 4).map fun k => f32At h (16 + 4 * k), f32At h 32,
   (List.range n).map fun k => (fieldAt gs (8 * k) 2, fieldAt gs (8 * k + 2) 2, fieldAt gs (8 * k + 4) 4),
   decide (1 ≤ count) && decide (count ≤ 4096) && decide (1 ≤ fieldAt h 12 1) && decide (fieldAt h 12 1 ≤ 80) && decide (1 ≤ n) &&
   decide (n ≤ 16) && f32Lt f32Zero (f32At h 32) && extentMapped s 0 table (64 * count)⟩

/-- A primitive of a table (R305). -/
structure Prim where
  idx : Nat
  sh : Nat
  sb : Nat
  eh : Nat
  eb : Nat
  slices : Nat
  dx : Int
  dy : Int
  cost : Nat
  refs : List (Int × Int)
  vox : List (Nat × Nat × Int × Int)
  deriving DecidableEq, Repr

/-- A signed 16-bit field. -/
def i16At (bs : List Byte) (off : Nat) : Int := toSigned 16 (fieldAt bs off 2)

/-- The primitive `m` of a table, where each of its limits is at or below the request's (R305, R306). -/
def readPrim (s : State) (q : Request) (m : Nat) : Option Prim :=
  let r := realmRead s 0 (q.table + 64 * m) 64
  let slices := fieldAt r 4 1
  let nv := fieldAt r 40 4
  let foot := q.table + fieldAt r 32 8
  let refs := realmRead s 0 foot (4 * slices)
  let vox := realmRead s 0 (foot + 4 * slices) (8 * nv)
  if slices = 0 || !((List.range 4).all fun k => f32Le (f32At r (16 + 4 * k)) (nth q.limits k f32NaN)) then none
  else some ⟨m, fieldAt r 0 1, fieldAt r 1 1, fieldAt r 2 1, fieldAt r 3 1, slices, i16At r 8, i16At r 10, fieldAt r 12 4,
    (List.range slices).map (fun k => (i16At refs (4 * k), i16At refs (4 * k + 2))),
    (List.range nv).map fun k => (fieldAt vox (8 * k) 1, fieldAt vox (8 * k + 1) 1, i16At vox (8 * k + 4), i16At vox (8 * k + 6))⟩

/-! Search -/

/-- The map epoch that a plan checks against: its buffer, and the slices from its t0 to the plan instant (R307). -/
structure MapAt where
  buf : Nat
  shift : Int
  deriving DecidableEq, Repr

/-- An epoch's buffer for a plan instant. -/
def mapAt (s : State) (set e instant : Nat) : MapAt :=
  let buf := mapBuf s set e
  ⟨buf, (Int.ofNat instant - Int.ofNat (bufF s buf 16 8)) / 100000000⟩

/-- Whether a reference cell is lethal or a voxel is occupied (R307, R308). -/
def blocked (s : State) (m : MapAt) (cells : List (Int × Int)) (vox : List (Nat × Nat × Int × Int)) : Bool :=
  (cells.any fun c => cellCost s m.buf c.1 c.2 == lethalCost) ||
  vox.any fun v => occupied s m.buf v.2.1 v.2.2.1 v.2.2.2 (Int.ofNat v.1 + m.shift)

/-- The voxel row or column of a cell (R303). -/
def voxelOf (i : Int) : Int := (i + 512) / 2

/-- A partial extended by a primitive: the candidate, with the cells and voxels that the extension adds (R307). -/
def extend (c : Array Nat) (g : Array Nat) (p : Cand) (m : Prim) : Cand × List (Int × Int) × List (Nat × Nat × Int × Int) :=
  let cells := m.refs.map fun d => (p.cell.1 + d.1, p.cell.2 + d.2)
  let vox := m.vox.map fun v => (p.elapsed + v.1, v.2.1, voxelOf p.cell.1 + v.2.2.1, voxelOf p.cell.2 + v.2.2.2)
  let e := (p.cell.1 + m.dx, p.cell.2 + m.dy)
  let cost := p.cost + m.cost + (cells.map fun x => atCell c lethalCost x.1 x.2).sum
  (⟨p.prims ++ [m.idx], (cost + atCell g max32 e.1 e.2) % 2 ^ 64, e, m.eh, m.eb, p.elapsed + m.slices, cost, p.cells ++ cells,
    p.voxels ++ vox⟩, cells, vox)

/-- The lexicographic order of primitive sequences. -/
def lexLt : List Nat → List Nat → Bool
  | [], [] => false
  | [], _ :: _ => true
  | _ :: _, [] => false
  | a :: x, b :: y => decide (a < b) || (a == b && lexLt x y)

/-- The rank order (R307). -/
def rankLt (a b : Cand) : Bool := decide (a.key < b.key) || (a.key == b.key && lexLt a.prims b.prims)

/-- One round of the beam (R307). -/
def beamRound (s : State) (m : MapAt) (c g : Array Nat) (ps : List Prim) (horizon : Nat) (beam : List Cand) : List Cand :=
  let done := beam.filter fun p => decide (horizon ≤ p.elapsed)
  let more := (beam.filter fun p => decide (p.elapsed < horizon)).flatMap fun p => ps.filterMap fun q =>
    if q.sh = p.heading && q.sb = p.bin && p.elapsed + q.slices ≤ 80 then
      let e := extend c g p q
      if blocked s m e.2.1 e.2.2 then none else some e.1
    else none
  (sortBy rankLt (done ++ more)).take 1024

/-- The rounds of the beam while it holds a partial; each adds a slice at least (R307). -/
def beamRounds (s : State) (m : MapAt) (c g : Array Nat) (ps : List Prim) (horizon : Nat) : Nat → List Cand → List Cand
  | 0, beam => beam
  | n + 1, beam =>
    if beam.any fun p => decide (p.elapsed < horizon) then beamRounds s m c g ps horizon n (beamRound s m c g ps horizon beam) else beam

/-- The final beam from a start (R304, R307). -/
def search (s : State) (m : MapAt) (q : Request) (cell : Int × Int) (heading bin : Nat) : List Cand :=
  let c := costArray s m.buf
  beamRounds s m c (costToGo c q.goals) ((List.range q.count).filterMap (readPrim s q)) q.horizon 80
    [⟨[], 0, cell, heading, bin, 0, 0, [], []⟩]

/-! Start -/

/-- The FP32 values nearest cos(2πk/64) for k = 0 to 16 (R306). -/
def quarterCos : List F32 :=
  [0x3F800000, 0x3F7EC46D, 0x3F7B14BE, 0x3F74FA0B, 0x3F6C835E, 0x3F61C598, 0x3F54DB31, 0x3F45E403, 0x3F3504F3, 0x3F226799,
   0x3F0E39DA, 0x3EF15AEA, 0x3EC3EF15, 0x3E94A031, 0x3E47C5C2, 0x3DC8BD36, 0x00000000]

/-- The FP32 value nearest cos(2πk/64) (R306). -/
def headCos (k : Nat) : F32 :=
  let q := fun i => nth quarterCos i f32Zero
  if k ≤ 16 then q k else if k ≤ 32 then f32Neg (q (32 - k)) else if k < 48 then f32Neg (q (k - 32)) else q (64 - k)

/-- The FP32 value nearest sin(2πk/64) (R306). -/
def headSin (k : Nat) : F32 := headCos ((k + 48) % 64)

/-- The start heading (R306): the lower k on a tie. -/
def headingOf (c s : F32) : Nat :=
  let dot := fun k => f32Add (f32Mul c (headCos k)) (f32Mul s (headSin k))
  ((List.range 64).drop 1).foldl (fun b k => if f32Lt (dot b) (dot k) then k else b) 0

/-- The start speed bin (R306). -/
def binOf (v width : F32) : Nat :=
  if f32IsNan v || f32Lt v f32Zero then 0
  else match f32Num (f32Div v width) with
  | .fin _ m e => min 15 (floorAt m e 0)
  | .inf _ => 15
  | .nan => 0

/-- The start cell of a position in one direction (R306). -/
def cellOf (x x0 : Int) : Int := (x - x0) * 10 / 2 ^ 20

/-! Plans -/

/-- The request and the map set of a planning service (R314). -/
def reqAddr (s : State) (p : Nat) : Nat := addr64 0 (actGet s (K.PLE_REQ_LO_addr p)) (actGet s (K.PLE_REQ_HI_addr p))
def setAddr (s : State) (p : Nat) : Nat := addr64 0 (actGet s (K.PLE_MAP_LO_addr p)) (actGet s (K.PLE_MAP_HI_addr p))

/-- The latest released result of the fusion service that a planning service names, with instant at or before the plan's: sequence
number, instant, oldest time, ego state (R308). -/
def fusedFor (s : State) (p instant : Nat) : Option (Nat × Nat × Nat × List Byte) :=
  ((svcOf s (actGet s (K.PLE_SVC_CTRL_fus p))).done.find? fun o => decide (o.instant ≤ instant)).map fun o =>
    (o.seq, o.instant, o.oldest, (o.result.drop 40).take 33)

/-- A plan that begins with an admitted input set: its start formed and its search made (R304, R306, R307). Why it is NO_PLAN: request
invalid, no fused result, no epoch, start outside the map or lethal, empty beam (R309). -/
def beginPlan (s : State) (r : PlanRun) : PlanRun :=
  let q := readRequest s (reqAddr s r.svc)
  if !q.valid || !extentMapped s 0 (reqAddr s r.svc) (64 + 8 * q.goals.length) then { r with reason := 4 }
  else match r.fused, r.epochs with
  | none, _ => { r with reason := 5 }
  | some _, [] => { r with reason := 6 }
  | some f, e :: _ =>
    let m := mapAt s r.mapSet e r.instant
    let x := fun (off : Nat) => toSigned 64 (fieldAt f.2.2 off 8)
    let x0 := fun (off : Nat) => toSigned 64 (bufF s m.buf off 8)
    let cell := (cellOf (x 0) (x0 24), cellOf (x 8) (x0 32))
    let heading := headingOf (f32At f.2.2 16) (f32At f.2.2 20)
    let bin := binOf (f32At f.2.2 24) q.width
    let r := { r with start := cell, heading := heading, bin := bin }
    if cellCost s m.buf cell.1 cell.2 = lethalCost then { r with reason := 3 }
    else
      let cs := search s m q cell heading bin
      { r with cands := cs, reason := if cs.isEmpty then 1 else 0 }

/-- The oldest time of a plan (R296). -/
def planOldest (instant : Nat) (fused epoch : Option Nat) : Nat :=
  match fused, epoch with
  | some a, some b => min a b
  | some a, none => a
  | none, some b => b
  | none, none => (Config.noOldest instant).toNat

/-- The admission of a plan: fused result, current epoch, request (R308, R41). -/
def admitPlan (s : State) (subj : DupSubject) (p instant seq resultAt admAt : Nat) : PlanRun :=
  let set := setAddr s p
  let e := mapEpoch s set
  let f := fusedFor s p instant
  beginPlan s ⟨subj, p, instant, seq, regGet s K.CFG_GEN_gen, (f.map fun x => fieldAt x.2.2.2 32 1).getD (egoSource s),
    ofBits ((List.range 32).map (chanUnsync s)), f.map (fun x => (x.1, x.2.1, x.2.2.2)), set, if e = 0 then [] else [e], [], 0, false, 0,
    (0, 0), 0, 0, planOldest instant (f.map (·.2.2.1)) (if e = 0 then none else some (bufF s (mapBuf s set e) 8 8)), false, resultAt, admAt⟩

/-- The plan record, out_time and marks as zero (R309). -/
def planRecord (r : PlanRun) : List Byte :=
  let formed := r.reason = 0 || r.reason = 1 || r.reason = 2 || r.reason = 3
  let free := (Config.noStart r.instant).toNat
  let c := r.cands.head?
  let prims := (c.map (·.prims)).getD []
  let cell := if formed then leBytes 2 (ofSigned 16 r.start.1) ++ leBytes 2 (ofSigned 16 r.start.2) else leBytes 4 (bitsAt free 0 32)
  let tail := cell ++ (if r.reason = 0 then prims.flatMap (leBytes 2) else [])
  leBytes 8 r.instant ++ leBytes 8 r.seq ++ zeros 20 ++ leBytes 1 r.reason ++ leBytes 1 (if r.reason = 0 then prims.length else 0) ++
  (if formed then leBytes 1 r.heading ++ leBytes 1 r.bin else leBytes 2 (bitsAt free 32 16)) ++
  leBytes 8 (r.epochs.headD 0) ++ leBytes 8 (r.epochs.getLastD 0) ++
  leBytes 8 (if r.reason = 0 then (c.map (·.key)).getD 0 else (Config.noCost r.instant).toNat) ++
  tail ++ zeros (roundUp tail.length 8 - tail.length)

/-- The admission record of a plan (R296): the ego state as a sample of channel 0xFF, the epochs. -/
def planAdm (r : PlanRun) : List Byte :=
  admRecord 1 r.ego r.unsync r.instant r.seq r.cfgGen r.oldest
    (match r.fused with
      | some f => [sampleEntry 0xFF 0 (f.1 % 2 ^ 32) f.2.1 f.2.2]
      | none => []) [] r.epochs

/-- The outcome of a finished plan (R309). -/
def planOutcome (s : State) (r : PlanRun) : Outcome :=
  ⟨planRecord r, planAdm r, r.instant, r.seq, r.oldest, if r.reason = 0 then none else some r.reason, r.replay,
   actGet s (K.PLE_SVC_CTRL_out r.svc), r.resultAt, r.admAt⟩

/-- NO_PLAN raised (R309, R313). -/
def tellNoPlan (r : PlanRun) (s : State) : State :=
  if r.reason = 0 then s else raise .manager ⟨0x0508, 0, true, iodSteward, r.svc, r.reason, r.instant⟩ s

/-- A finished plan: a job's result withheld for the comparison or released, a service's result sent by both engines or released simplex
(R326, R329, R332). -/
def finishPlan (r : PlanRun) (s : State) : State :=
  let o := planOutcome (match r.subj with
    | .job acc => { s with active := ((findJob s acc).map (·.banks)).getD s.active }
    | _ => s) r
  let s := tellNoPlan r { s with fus := { s.fus with plans := s.fus.plans.filter (· != r) } }
  match r.subj with
  | .job acc =>
    match findJob s acc with
    | none => s
    | some j => finishRun .withhold (enginesDuplex s true) j (s, outcomeResult j o)
  | _ =>
    let k := 4 + r.svc
    let d := serviceDigest o
    if enginesDuplex s true then modSvc k (fun v => { v with work := v.work ++ [⟨o, some d, some d, false⟩] }) s
    else modSvc k (fun v => { v with done := o :: v.done }) (writeOut 31 o true s)

/-- A plan in progress replaced. -/
def putPlan (old new : PlanRun) (s : State) : State :=
  { s with fus := { s.fus with plans := s.fus.plans.map fun p => if p == old then new else p } }

/-- The bounding box of a candidate's reference cells (R308). -/
def boxOf (c : Cand) : (Int × Int) × (Int × Int) :=
  match c.cells with
  | [] => (c.cell, c.cell)
  | x :: xs => xs.foldl (fun b y => ((min b.1.1 y.1, min b.1.2 y.2), (max b.2.1 y.1, max b.2.2 y.2))) (x, x)

/-- Whether a plan's epoch has been passed by one whose rectangles cross the candidate under test (R308). -/
def newerEpoch (s : State) (r : PlanRun) (c : Cand) : Option Nat :=
  let e := mapEpoch s r.mapSet
  let b := boxOf c
  if r.epochs.getLastD 0 < e && dirtyMeets s (mapBuf s r.mapSet e) b.1 b.2 then some e else none

/-- The comparison after the search or after a recheck that passed: a recheck begins, or the plan is finished (R308). -/
def comparePlan (r old : PlanRun) (s : State) : State :=
  match r.cands with
  | [] => finishPlan r (putPlan old r s)
  | c :: _ =>
    match (if r.reason = 0 && r.rechecks < 8 then newerEpoch s r c else none) with
    | some e => putPlan old { r with epochs := r.epochs ++ [e], checking := true } s
    | none => finishPlan { r with checking := false } (putPlan old { r with checking := false } s)

/-- The recheck of the first candidate against the epoch pinned last: the plan with the candidate kept, or without it (R308). -/
def recheck (s : State) (r : PlanRun) : PlanRun × Bool :=
  match r.cands with
  | [] => ({ r with reason := 2 }, false)
  | c :: rest =>
    let n := r.rechecks + 1
    if blocked s (mapAt s r.mapSet (r.epochs.getLastD 0) r.instant) c.cells c.voxels then
      ({ r with rechecks := n, cands := rest, reason := if n = 8 || rest.isEmpty then 2 else 0 }, false)
    else ({ r with rechecks := n }, true)

/-- The oldest plan in progress of a subject that is in a recheck or not. -/
def planOf (s : State) (subj : DupSubject) (checking : Bool) : Option PlanRun :=
  s.fus.plans.find? fun p => p.subj == subj && p.checking == checking

/-- PLAN_ADMISSION: at a control-cycle edge a plan is admitted and its search starts (R308). -/
def planAdmission (p : Nat) (s : State) : State :=
  match (svcOf s (4 + p)).due with
  | [] => s
  | (t, n) :: rest =>
    if !running s || tauNow s < t then s
    else
      let s := modSvc (4 + p) (fun v => { v with due := rest }) s
      { s with fus := { s.fus with plans := s.fus.plans ++ [admitPlan s (.plan (Fin.ofNat 2 p)) p t n 0 0] } }

/-- PLAN_ADMISSION (R308). -/
def execPlanAdmission (svc : Fin 2) (s : State) : Host.Outcome State Fault Refusal := .next (planAdmission svc.val s)

/-- PLAN_SEARCH_END (R308), unless an engine's golden workload comes first (R144, R310). -/
def planSearchEnd (subj : DupSubject) (s : State) : State :=
  let es := ([2, 3] : List Nat).filter (engineServes s)
  match planOf s subj false with
  | some r => if running s && es.all (mayGo s) then es.foldl (fun s e => letGo e s) (comparePlan r r s) else s
  | none => s

/-- PLAN_SEARCH_END (R308). -/
def execPlanSearchEnd (subj : DupSubject) (s : State) : Host.Outcome State Fault Refusal := .next (planSearchEnd subj s)

/-- PLAN_RECHECK: the next candidate against the same epoch after a failure, the comparison again after a pass (R308). -/
def planRecheck (subj : DupSubject) (s : State) : State :=
  match planOf s subj true with
  | none => s
  | some r =>
    if !running s then s
    else
      let o := recheck s r
      if o.2 then comparePlan o.1 r s
      else if o.1.reason = 0 then putPlan r o.1 s
      else finishPlan o.1 (putPlan r o.1 s)

/-- PLAN_RECHECK (R308). -/
def execPlanRecheck (subj : DupSubject) (s : State) : Host.Outcome State Fault Refusal := .next (planRecheck subj s)

/-! PLAN jobs -/

/-- A PLAN job admits at its instant (R299, R308). -/
def planJob (acc : Nat) (s : State) : State :=
  match findJob s acc with
  | none => s
  | some j =>
    if !replayIs false j then s
    else
      let s := takeInstant acc (jobCommand [0x05] acc .start bodyFaults recordsPre (fun _ s => (s, .error ⟨0, 0⟩)) engineDuplex s)
      match findJob s acc with
      | none => s
      | some j =>
        if running s && jType j = 5 && j.phase = .running && decide (j.instant.getD 0 ≤ tauNow s) &&
            !s.fus.plans.any (fun p => p.subj == .job acc) then
          { s with fus := { s.fus with plans := s.fus.plans ++
            [admitPlan { s with active := j.banks } (.job acc) (jService j) (j.instant.getD 0) acc (jResult j) (jAdm j)] } }
        else s

/-- PLAN (R308). -/
def execPlan (job : Nat) (s : State) : Host.Outcome State Fault Refusal := .next (planJob job s)

/-- The epochs that an admission record names. -/
def namedEpochs (bs : List Byte) : List Nat := (List.range (fieldAt bs 36 4)).map fun i => fieldAt bs (epochsAt bs + 8 * i) 8

/-- The checks of a PLAN replay: the record, and each epoch it names still in its buffer (R43, R299). -/
def planReplayPre (s : State) (j : Job) : PreOut :=
  match namedFail s j 1 with
  | some f => .fail f
  | none =>
    let set := setAddr s (jService j)
    if (namedEpochs (namedRecord s j)).all fun e => bufF s (mapBuf s set e) 0 8 == e then recordsPre s j else .fail ⟨0x13, 0⟩

/-- The rechecks of a replay against the epochs its record names, in their order (R43, R308); `n` bounds them. -/
def replayChecks (s : State) : Nat → List Nat → PlanRun → PlanRun
  | 0, _, r => r
  | n + 1, es, r =>
    if r.reason ≠ 0 then r
    else if r.checking then
      let o := recheck s r
      replayChecks s n es { o.1 with checking := !o.2 }
    else match es with
    | [] => r
    | e :: es => replayChecks s n es { r with epochs := r.epochs ++ [e], checking := true }

/-- The plan that an admission record gives (R43). -/
def replayPlan (s : State) (j : Job) (bs : List Byte) : PlanRun :=
  let es := namedEpochs bs
  let f := (readSamples bs (fieldAt bs 28 4) 64).1.head?
  let r := beginPlan s ⟨.job j.acc, jService j, fieldAt bs 8 8, fieldAt bs 16 8, fieldAt bs 24 4, fieldAt bs 3 1, fieldAt bs 4 4,
    f.map (fun e => (e.2.2.seq, e.2.2.s, e.2.2.payload)), setAddr s (jService j), es.take 1, [], 0, false, 0, (0, 0), 0, 0,
    fieldAt bs 40 8, true, jResult j, jAdm j⟩
  replayChecks s 17 (es.drop 1) r

/-- A PLAN replay plans from the named record; its admission record is the named one (R43, R299). -/
def planReplayWork (j : Job) (s : State) : State × Except Fail JobResult :=
  let bs := namedRecord s j
  let r := replayPlan s j bs
  (tellNoPlan r s, outcomeResult j { planOutcome s r with adm := bs })

/-- PLAN_REPLAY (R43). -/
def execPlanReplay (job : Nat) (run : JobRun) (s : State) : Host.Outcome State Fault Refusal :=
  .next (match findJob s job with
    | some j => if replayIs true j then
        engineRun [2, 3] job run (fun run s => jobCommand [0x05] job run bodyFaults planReplayPre planReplayWork engineDuplex s) s else s
    | none => s)

end Sys2Proof.Machine
end

