-- ==== Sys2Proof/Machine/Duplex.lean ====
section
/-! DEFINITION. Duplex comparison, diagnosis and verdicts, splits and extended tests, signature windows (R318, R329 to R332, R337). -/

namespace Sys2Proof.Machine

/-- The service of a subject, fusion 0 to 3, planning 4 and 5. -/
def subjSvc : DupSubject → Nat
  | .job _ => 0
  | .fusion k => k.val
  | .plan p => 4 + p.val

/-- The pair a job runs on: 2 fusion, 3 planning, else the first die pair with both dies serving, in LIMP the pair of its side A die (R326,
R338). -/
def jobPair (s : State) (j : Job) : Nat :=
  if jType j = 4 then 2
  else if jType j = 5 then 3
  else if s.dpx.limpPair.length = 2 then pairOf s (nth s.dpx.limpPair 0 0)
  else match (duplexPairs s).findIdx? fun q => vehicleDie s q.1 && vehicleDie s q.2 with
    | some i => i
    | none => 0

/-- The pair of a subject (R338). -/
def subjPair (s : State) : DupSubject → Nat
  | .job acc => match findJob s acc with
    | some j => jobPair s j
    | none => 0
  | .fusion _ => 2
  | .plan _ => 3

/-- The running frame's number. -/
def frameNo (s : State) : Nat := regGet s K.DPX_FRAME_frame

/-! The result that a comparison is about -/

/-- The digests of the two sides of a withheld result, each where it has arrived, and whether a dispute about it is open (R329, R330). -/
def digests (s : State) : DupSubject → Option (Option (List Byte) × Option (List Byte) × Bool)
  | .job acc => match findJob s acc with
    | some j => match j.phase, j.held, j.dispute with
      | .withheld, some r, none => some (some r.digest, some r.digest, false)
      | .withheld, some _, some d => some (d.digA, d.digB, true)
      | _, _, _ => none
    | none => none
  | .fusion k => ((svcOf s k.val).work.head?).map fun p => (p.digA, p.digB, p.dispute)
  | .plan k => ((svcOf s (4 + k.val)).work.head?).map fun p => (p.digA, p.digB, p.dispute)

/-- The digest that a side sends of a withheld result without a fault (R329). -/
def trueDigest (s : State) : DupSubject → Option (List Byte)
  | .job acc => (findJob s acc).bind fun j => j.held.map (·.digest)
  | x => ((svcOf s (subjSvc x)).work.head?).map fun p => serviceDigest p.o

/-- The digests of a disputed result. -/
def setDispute (subj : DupSubject) (a b : Option (List Byte)) (s : State) : State :=
  match subj with
  | .job acc => modJob acc (fun j => { j with dispute := some ⟨a, b⟩ }) s
  | x => modWork (subjSvc x) (fun p => { p with digA := a, digB := b, dispute := true }) s

/-- A withheld result released (R329, R331): a job's completion with its class, or a service's record. -/
def releaseSubj (subj : DupSubject) (simplex : Bool) (cls : Nat) (s : State) : State :=
  match subj with
  | .job acc => match findJob s acc with
    | some j => match j.held with
      | some r => releaseResult j r simplex cls s
      | none => s
    | none => s
  | x => releaseService (subjSvc x) simplex s

/-- A withheld result that is never released: a job completes DUPLEX_MISMATCH, a service's result is dropped (R331). -/
def dropSubj (subj : DupSubject) (s : State) : State :=
  match subj with
  | .job acc => match findJob s acc with
    | some j => match j.held with
      | some r => dropResult j r ⟨0x23, frameNo s⟩ s
      | none => s
    | none => s
  | x => dropService (subjSvc x) s

/-- The job tag, or the instant of a service's result (R338). -/
def subjTag (s : State) : DupSubject → Nat
  | .job acc => match findJob s acc with
    | some j => dF j 16 8
    | none => 0
  | x => ((svcOf s (subjSvc x)).work.head?.map (·.o.instant)).getD 0

/-! Diagnosis (R330) -/

/-- The clusters of a die that held a tile of a job, in flight or retired. -/
def jobClusters (s : State) (acc d : Nat) : List Nat :=
  let e := engineOf s d
  (((e.tiles.filter fun t => t.job == acc).map (·.cluster)) ++ (e.homes.filter fun h => h.job == acc).map (·.cluster)).eraseDups

/-- The clusters, by die, that held a tile of a subject on either side; none for a result of an engine pair. -/
def diagClusters (s : State) : DupSubject → List (Nat × Nat)
  | .job acc => (sideDies s false ++ sideDies s true).flatMap fun d => (jobClusters s acc d).map fun c => (d, c)
  | _ => []

/-- The in-service arrays of a cluster. -/
def clusterArrays (s : State) (d c : Nat) : List Nat := ((List.range 8).map fun a => c * 8 + a).filter (arrayIn s d)

/-- The engines of a subject's pair that are in service (R330). -/
def diagEngines (s : State) (subj : DupSubject) : List Nat :=
  let p := subjPair s subj
  if p < 2 then [] else ([2 * (p - 2), 2 * (p - 2) + 1] : List Nat).filter (engineIn s)

/-- A diagnosis of both sides begins: each cluster that held a tile of the job drains and rehearses out of turn, all its arrays with the vector
and tree units; each engine of an engine pair runs its golden workload (R330). -/
def beginDiag (subj : DupSubject) (s : State) : State :=
  if s.dpx.diags.any fun x => x.subj == subj then s
  else
    let cs := diagClusters s subj
    let s := { s with dpx := { s.dpx with diags := s.dpx.diags ++
      [⟨subj, (cs.flatMap fun c => (clusterArrays s c.1 c.2).map fun a => (c.1, a)) ++ (diagEngines s subj).map (fun e => (4 + e, 0)),
        false, false⟩] } }
    cs.foldl (fun s c => modEngine c.1 (fun e => { e with
      called := e.called ++ (if (clusterArrays s c.1 c.2).isEmpty then [] else [(1000 + c.2, clusterArrays s c.1 c.2)]) }) s) s

/-- A diagnosis ends. -/
def endDiag (subj : DupSubject) (s : State) : State := { s with dpx := { s.dpx with diags := s.dpx.diags.filter fun x => x.subj != subj } }

/-- The diagnosis of a subject. -/
def diagOf (s : State) (subj : DupSubject) : Option Diag := s.dpx.diags.find? fun x => x.subj == subj

/-- Whether an out-of-turn rehearsal that a diagnosis called for on a side has still to pass. -/
def diagTodo (s : State) (x : Diag) (sideB : Bool) : Bool :=
  x.arrays.any fun q =>
    if 4 ≤ q.1 then q.2 == 0 && (decide (q.1 % 2 = 1) == sideB)
    else onSideB s q.1 == sideB && (engineOf s q.1).called.any fun c => decide (1000 ≤ c.1) && c.2.contains q.2

/-- A side's verdict with what its rehearsals have shown: a failed one fails the side (R330, R337). -/
def shown (s : State) (subj : DupSubject) (sideB : Bool) (v : SideVerdict) : SideVerdict :=
  match diagOf s subj with
  | some x => if v == .pass && (if sideB then x.failB else x.failA) then .fail none else v
  | none => v

/-- Whether a side that is said to pass has still rehearsals to run. -/
def unready (s : State) (subj : DupSubject) (sideB : Bool) (v : SideVerdict) : Bool :=
  v == .pass && match diagOf s subj with
    | some x => diagTodo s x sideB
    | none => false

/-- A disagreement detected: the result is withheld and both sides are diagnosed (R329, R330). -/
def disagree (subj : DupSubject) (missing : Bool) (a b : Option (List Byte)) (s : State) : State :=
  raise .manager ⟨0x0607, 0, true, islNode (holder s), subjPair s subj, missing.toNat, frameNo s⟩ (beginDiag subj (setDispute subj a b s))

/-! Verdicts -/

/-- Whether a verdict is a failure. -/
def failed (v : SideVerdict) : Bool := v != .pass

/-- Whether the one die a side's verdict removes serves on that side. -/
def removedDie (s : State) (pair : Nat) (sideB : Bool) : SideVerdict → Option Nat
  | .fail (some d) _ => if pair < 2 && (sideDies s sideB).contains d.val then some d.val else none
  | _ => none

/-- The clusters of a side's dies that its read checks found failing. -/
def failedClusters (s : State) (pair : Nat) (sideB : Bool) : SideVerdict → List (Nat × Nat)
  | .fail _ cs => if pair < 2 then (cs.filter fun c => (sideDies s sideB).contains c.1.val).map fun c => (c.1.val, c.2.val) else []
  | .pass => []

/-- A failing side's elements withdrawn: an engine always, clusters that failed their checks, a die where the verdict removes it (R330). -/
def withdraw (s : State) (pair : Nat) (sideB : Bool) (v : SideVerdict) : State :=
  if v = .pass then s
  else if 2 ≤ pair then removeEngine (2 * (pair - 2) + sideB.toNat) 0 s
  else
    let die := removedDie s pair sideB v
    let s := (failedClusters s pair sideB v).foldl (fun s c => withdrawCluster c.1 c.2 s) s
    match die with
    | some d => removeDie d 0 s
    | none => s

/-- Whether a verdict removes an element. -/
def removes (s : State) (pair : Nat) (sideB : Bool) (v : SideVerdict) : Bool :=
  v != .pass && (decide (2 ≤ pair) || (removedDie s pair sideB v).isSome)

/-- The event DUPLEX_VERDICT (R338). -/
def verdictEv (s : State) (cls pair row : Nat) : Ev := ⟨0x0608, cls, decide (3 ≤ cls), islNode (holder s), pair, row, frameNo s⟩

/-- Both sides pass: a transient, counted (R331, R332). -/
def transient (subj : DupSubject) (pair : Nat) (s : State) : State :=
  let f := frameNo s
  let s := regInc K.DPX_TRANSIENT_count { s with dpx := { s.dpx with transients := s.dpx.transients ++ [(pair, f)] } }
  raiseFault .manager (verdictEv s 1 pair 0) (dropSubj subj s)

/-- The extents that a withheld job's outputs take. -/
def subjExtents (s : State) : DupSubject → List (Nat × Nat)
  | .job acc => match findJob s acc with
    | some j => match j.held with
      | some r => if jType j = 4 ∨ jType j = 5 then [] else r.extents
      | none => []
    | none => []
  | _ => []

/-- What a failing side B has written into its own copy of the window stays there: free bytes (R327, R331). Side A's copy holds the released
side's bytes, which the job's execution wrote. -/
def leaveSideB (l : List (Nat × Nat)) (s : State) : State :=
  let put := fun (s : State) (x : Nat × Nat) =>
    (List.range x.2).foldl (fun t i =>
      let a := x.1 + i
      if mirrored 0 a then { t with mem := copyWrite 0 a (sideOff t true (quarterOf t a)) [Config.leftByte s.freeCtr a] t.mem } else t) s
  { l.foldl put s with freeCtr := s.freeCtr + 1 }

/-- One side fails: the other's result is released simplex (R331); a SAFE_OFF that the removal brings goes first (R337). -/
def located (subj : DupSubject) (pair : Nat) (failB : Bool) (v : SideVerdict) (s : State) : State :=
  let cls := if removes s pair failB v then 3 else 1
  let tag := subjTag s subj
  let node := islNode (holder s)
  let s := raiseFault .manager (verdictEv s cls pair (if failB then 1 else 2)) s
  let s := if failB && pair < 2 && diesDuplex s then leaveSideB (subjExtents s subj) s else s
  let s := withdraw s pair failB v
  if s.op = .safeOff then s
  else raise .manager ⟨0x0609, cls, true, node, pair, if failB then 0 else 1, tag⟩ (releaseSubj subj true cls s)

/-- Whether duplex is no longer possible for a pair: a side with no die, or both engines out (R328, R331). -/
def duplexGone (s : State) (pair : Nat) : Bool := if pair < 2 then !diesDuplex s else enginesGone s

/-- Both sides fail: the result is not released; class D where duplex can no longer go on (R331, R334). -/
def bothFail (subj : DupSubject) (pair : Nat) (a b : SideVerdict) (s : State) : State :=
  let after := withdraw (withdraw s pair false a) pair true b
  let s := dropSubj subj s
  let s := if after.op = .safeOff || duplexGone after pair then raise .manager (verdictEv s 4 pair 3) s
    else raiseFault .manager (verdictEv s 3 pair 3) s
  let s := withdraw (withdraw s pair false a) pair true b
  if s.op != .safeOff && duplexGone s pair then classD 0 (islNode (holder s)) s else s

/-- DUPLEX_VERDICT: the table of R331, with what the out-of-turn rehearsals have shown; a side passes once all of them have (R330, R337). Two
sides that pass with digests that agree after all release the result. -/
def verdict (subj : DupSubject) (a b : SideVerdict) (s : State) : State :=
  match digests s subj with
  | some (da, db, true) =>
    let p := subjPair s subj
    let va := shown s subj false a
    let vb := shown s subj true b
    if unready s subj false va || unready s subj true vb then s
    else
      let s := endDiag subj s
      match failed va, failed vb with
      | false, false => if da.isSome && da == db then releaseSubj subj false 0 s else transient subj p s
      | false, true => located subj p true vb s
      | true, false => located subj p false va s
      | true, true => bothFail subj p va vb s
  | _ => s

/-! Splits and extended tests -/

/-- The transient verdicts of a pair in the last 1,000 frames (R332). -/
def recentTransients (s : State) (pair : Nat) : Nat :=
  (s.dpx.transients.filter fun t => t.1 == pair && decide (frameNo s < t.2 + 1000)).length

/-- Whether an extended test of a pair is in progress or due (R332). -/
def inTest (s : State) (pair : Nat) : Bool :=
  s.dpx.splitNext.contains pair || (s.dpx.testing ++ s.dpx.testNext).any fun e => pairOf s e == pair

/-- DUPLEX_SPLIT: after the third transient the pair is split at the next frame start (R332). -/
def splitPair (pair : Nat) (s : State) : State :=
  if recentTransients s pair < 3 || inTest s pair || s.op == .limp || !running s then s
  else raise .manager ⟨0x060A, 0, true, islNode (holder s), pair, 0, 0⟩
    { s with dpx := { s.dpx with splitNext := s.dpx.splitNext ++ [pair] } }

/-- EXTENDED_TEST_DONE: an element that passes, a die's arrays with the marks of their rehearsals (R146), rejoins at the next frame start, one that fails is removed, class C; the other element of a
pair tested one at a time is then left to serve (R332). -/
def testDone (el : Nat) (pass : Bool) (s : State) : State :=
  if !s.dpx.testing.contains el || s.dpx.rejoin.contains el then s
  else if pass then
    let s := { s with dpx := { s.dpx with rejoin := s.dpx.rejoin ++ [el] } }
    if el < 4 then (List.range 6).foldl (fun s w => regSet (K.REH_DONE_arrays el w) (regGet s (K.SERVICE_arrays el w)) s) s else s
  else
    let p := pairOf s el
    let ev : Ev := ⟨0x060A, 0, true, islNode (holder s), p, 2, 0⟩
    let s := { s with dpx := { s.dpx with testNext := s.dpx.testNext.filter fun e => pairOf s e != p } }
    let s := if el < 4 then removeDie el 1 { s with boot := { s.boot with noReset := s.boot.noReset ++ [el] } } else removeEngine (el - 4) 1 s
    raise .manager ev s

/-! Decisions -/

/-- A decision carried out (R318). -/
def carryOut (d : Decision) (s : State) : State :=
  match d with
  | .release subj => match digests s subj with
    | some (a, b, false) => if a.isSome && b.isSome then releaseSubj subj false 0 s else s
    | _ => s
  | .verdict subj a b => verdict subj a b s
  | .split p => splitPair p s
  | .tested el pass => testDone el pass s
  | .removeDie k cause => removeDie k cause s
  | .removeEngine e cause => removeEngine e cause s
  | .restoreDie k => restoreDie k s
  | .role new cause => takeOver new cause s

/-- A decision of the holder: in signature mode it waits for its window to close (R318). -/
def decideNow (d : Decision) (s : State) : State :=
  if !powered s || !islRuns s (holder s) then s else gateOr d (carryOut d) s

/-- DUPLEX_COMPARE: the digests agree and the result is released, or a disagreement is detected; a late digest is noted (R329, R330). -/
def compare (subj : DupSubject) (fa fb : Option (List Byte)) (s : State) : State :=
  match digests s subj with
  | some (a, b, false) =>
    match fa.or a, fb.or b with
    | some x, some y => if x == y then decideNow (.release subj) s else disagree subj false (some x) (some y) s
    | _, _ => s
  | some (a, b, true) => setDispute subj ((a.or fa).or (trueDigest s subj)) ((b.or fb).or (trueDigest s subj)) s
  | none => s

/-- DUPLEX_COMPARE (R329). -/
def execDuplexCompare (subj : DupSubject) (faultA faultB : Option (List Byte)) (s : State) : Host.Outcome State Fault Refusal :=
  .next (if powered s && islRuns s (holder s) then compare subj faultA faultB s else s)

/-- DPX_WAIT_TIMEOUT: the digest of one side has not arrived (R329). -/
def waitTimeout (subj : DupSubject) (missing : Side) (s : State) : State :=
  if s.isl.gated.contains (holder s, .release subj) then s
  else match digests s subj with
  | some (a, b, false) =>
    match missing with
    | .a => if b.isSome then disagree subj true none b s else s
    | .b => if a.isSome then disagree subj true a none s else s
  | _ => s

/-- DPX_WAIT_TIMEOUT (R329). -/
def execDpxWaitTimeout (subj : DupSubject) (missing : Side) (s : State) : Host.Outcome State Fault Refusal :=
  .next (if powered s && islRuns s (holder s) then waitTimeout subj missing s else s)

/-- DUPLEX_VERDICT (R331). -/
def execDuplexVerdict (subj : DupSubject) (a b : SideVerdict) (s : State) : Host.Outcome State Fault Refusal :=
  .next (decideNow (.verdict subj a b) s)

/-- DUPLEX_SPLIT (R332). -/
def execDuplexSplit (pair : Fin 4) (s : State) : Host.Outcome State Fault Refusal := .next (decideNow (.split pair.val) s)

/-- The number of an element under test. -/
def elNum : DupElement → Nat
  | .die k => k.val
  | .engine e => 4 + e.val

/-- EXTENDED_TEST_DONE (R332). -/
def execExtendedTestDone (el : DupElement) (pass : Bool) (s : State) : Host.Outcome State Fault Refusal :=
  .next (decideNow (.tested (elNum el) pass) s)

/-- SIGNATURE_WINDOW_CLOSE: signatures that match release the island's gated decisions, others halt it (R318, R319). -/
def windowClose (i : Isl) (same : Bool) (cycles : Nat) (s : State) : State :=
  if !powered s || !islLocked s i || cmpMode s ≠ 1 then s
  else if !same then haltIsl i cycles s
  else
    (s.isl.gated.filter fun x => x.1 == i).foldl (fun s x => carryOut x.2 s)
      { s with isl := { s.isl with gated := s.isl.gated.filter fun x => x.1 != i } }

/-- SIGNATURE_WINDOW_CLOSE (R318). -/
def execSignatureWindowClose (isl : Isl) (same : Bool) (cycles : BitVec 64) (s : State) : Host.Outcome State Fault Refusal :=
  .next (windowClose isl same cycles.toNat s)

end Sys2Proof.Machine
end

