-- ==== Sys2Proof/Machine/Status.lean ====
section
/-! DEFINITION. Status blocks, their reasons and the ready/busy pins (R245 to R249, R356). -/

namespace Sys2Proof.Machine

/-- Whether a host is enabled (R220). -/
def hostOn (s : State) (p : Nat) : Bool := regGet s (K.HOST_CTRL_enable p) == 1

/-- Whether a ring is enabled. -/
def ringOn (s : State) (p i : Nat) : Bool := regGet s (K.RING_CTRL_enable p i) == 1

/-- The doorbell page and the status block of a host (R220). -/
def doorbellAt (s : State) (p : Nat) : Nat := addr64 7 (regGet s (K.DB_BASE_LO_base p)) (regGet s (K.DB_BASE_HI_base p))
def statusAt (s : State) (p : Nat) : Nat := addr64 6 (regGet s (K.STATUS_ADDR_LO_base p)) (regGet s (K.STATUS_ADDR_HI_base p))

/-- Whether the module polls a host: it is powered, the host is enabled and Bus Master Enable is set (R221, R401). -/
def polls (s : State) (p : Nat) : Bool := powered s && hostOn s p && (portOf s p).busMaster

/-- The reasons word of a host (R247); CURTAIN stands while the exchange of a swap is in progress (R251). -/
def reasons (s : State) (p : Nat) : Nat :=
  let h := portOf s p
  ofBits [s.op == .booting, s.curtain.any (·.swapping), s.lodging.running.isSome, !h.attn.isEmpty,
    p == s.mgrPort && s.fus.outs.any (fun o => o.2.missing), s.op == .safeOff, s.op == .limp,
    (List.range 8).any fun i => ringOn s p i && (ringOf s p i).invalid,
    undState s == 3 && (p == s.mgrPort || p == realmPort s (undRealm s))]

/-- The level of HRDY_n (R248, R249, R356): it follows the reasons of the status block written last. -/
def hrdy (s : State) (p : Nat) : Bool := powered s && windowOpen s p && hostOn s p && (portOf s p).ready

/-- HRDY_n follows a status block, or the enable; a fall is counted (R249). -/
def setReady (p : Nat) (ready : Bool) (s : State) : State :=
  modPort p (fun h => { h with ready := ready, falls := h.falls + (h.ready && !ready).toNat }) s

/-- The bytes of a status block from byte 4 to byte 59, with the time left out (R245). -/
def statusFields (s : State) (p : Nat) : List Byte :=
  let h := portOf s p
  leBytes 1 (opCode s.op + if s.inDrive then 128 else 0) ++ [0] ++ leBytes 2 (reasons s p) ++
  ((List.range 8).flatMap fun i => leBytes 2 (ringOf s p i).sqConsumed) ++ leBytes 2 h.evtProducer ++ [0, 0] ++ leBytes 4 h.dropped ++
  leBytes 2 (s.jobs.filter fun j => j.port == p).length ++ leBytes 2 s.jobs.length ++ leBytes 1 s.lastClass ++ zeros 3 ++
  leBytes 8 (if undIn s then undVerified s else 0)

/-- The 64 bytes of a status block with a heartbeat (R245). -/
def statusBytes (s : State) (p hb : Nat) : List Byte :=
  let f := statusFields s p
  leBytes 4 hb ++ f.take 36 ++ leBytes 8 (timeWord s) ++ f.drop 36 ++ zeros 4 ++ leBytes 4 hb

/-- A status block written, and then HRDY_n set by its reasons (R246, R249). -/
def writeStatus (p : Nat) (s : State) : State :=
  let hb := ((portOf s p).heartbeat + 1) % 2 ^ 32
  let f := statusFields s p
  setReady p (reasons s p == 0)
    (modPort p (fun h => { h with heartbeat := hb, status := f }) (hostWrite p (statusAt s p) (statusBytes s p hb) s))

/-- The status block of every host that is polled written. -/
def writeStatuses (s : State) : State := (List.range 4).foldl (fun s p => if polls s p then writeStatus p s else s) s

end Sys2Proof.Machine
end

