-- ==== Sys2Proof/Machine/Curtain.lean ====
section
/-! DEFINITION. The CURTAIN job: its start, the validation of the shadow banks, the exchange and what follows from it (R250 to R252, R30, R158,
R159, R266, R276, R284, R314, R339, R399, R408). -/

namespace Sys2Proof.Machine

/-! Start -/

/-- Whether a curtain waits for a cue edge. -/
def jAtEdge (j : Job) : Bool := dF j 52 1 == 1

/-- The check of the named generator (R251). -/
def curtainPre (s : State) (j : Job) : PreOut :=
  if jAtEdge j && !cueOn s (dF j 53 1) then .fail ⟨0x12, 3⟩ else .go noClaim

/-- A started CURTAIN is pending; an edge that is already past stands for the next (R251). -/
def pendCurtain (j : Job) (s : State) : State :=
  let e := dF j 56 8
  { s with curtain := some ⟨j.acc, dF j 48 4, jAtEdge j, dF j 53 1, if e ≤ (cueOf s (dF j 53 1)).edges then 0 else e, none, false⟩ }

/-- CURTAIN starts (R251). -/
def curtainJob (acc : Nat) (s : State) : State :=
  let s := jobCommand [0x08] acc .start bodyFaults curtainPre (fun _ s => (s, .error ⟨0, 0⟩)) once s
  match findJob s acc with
  | some j => if jType j = 8 && j.phase = .running && s.curtain.isNone then pendCurtain j s else s
  | none => s

/-- CURTAIN (R251). -/
def execCurtain (job : Nat) (s : State) : Host.Outcome State Fault Refusal := .next (curtainJob job s)

/-! Exchange -/

/-- The bank of a field, 7 for none (R406). -/
def bankOf (k : Nat) : Nat := ((keyRow k).map (·.bank)).getD 7

/-- The fields whose two copies differ in the banks of a mask. -/
def changedKeys (s : State) (mask : Nat) : List Nat :=
  (((s.active ++ s.shadow).map (·.1)).eraseDups).filter fun k => bitOf mask (bankOf k) && actGet s k != shGet s k

/-- The copies of the banks of a mask exchanged (R251). -/
def exchange (ks : List Nat) (s : State) : State :=
  ks.foldl (fun s k => let a := actGet s k; let b := shGet s k; shSet k a (actSet k b s)) s

/-- Whether a changed field lies in a stretch of the window. -/
def bankTouched (ks : List Nat) (base len : Nat) : Bool := ks.any fun k => decide (base ≤ k / 32) && decide (k / 32 < base + len)

/-! Validation: each check reads the new banks as the active ones -/

/-- The units of a realm: HBM window, HBM rooms, cellar (R158). -/
def hbmWin (s : State) (r : Nat) : Nat := actGet s (K.MPART_HBM_win_units r)
def hbmRoom (s : State) (r : Nat) : Nat := actGet s (K.MPART_HBM_room_units r)
def celUnits (s : State) (r : Nat) : Nat := actGet s (K.MPART_CEL_win_units r) + actGet s (K.MPART_CEL_room_units r)

/-- Whether a realm has any unit. -/
def hasUnits (s : State) (r : Nat) : Bool := hbmWin s r + hbmRoom s r + celUnits s r != 0

/-- Whether a realm is enabled. -/
def realmOn (s : State) (r : Nat) : Bool := actGet s (K.REALM_BIND_enabled r) == 1

/-- The partition map fails (R158, R408). -/
def partMapBad (s : State) : Bool :=
  ((List.range 4).any fun d => decide (767 < ((List.range 8).map fun r =>
    if r = 0 then 2 * hbmWin s r + hbmRoom s r else if bitOf (realmDies s r) d then hbmWin s r + hbmRoom s r else 0).sum)) ||
  decide (7168 < ((List.range 8).map (celUnits s)).sum) ||
  ((List.range 8).any fun r => r != 0 && realmOn s r && hasUnits s r && realmDies s r == 0) ||
  (!s.boot.cellarIn && (List.range 8).any fun r => celUnits s r != 0)

/-- The realm table fails (R251). -/
def realmTableBad (s : State) : Bool :=
  !realmOn s 0 || realmPort s 0 != s.mgrPort ||
  !allDistinct (((List.range 8).filter (realmOn s)).map fun r => (realmPort s r, actGet s (K.REALM_BIND_ring r)))

/-- The enabled streams. -/
def streamsOn (s : State) : List Nat := (List.range 32).filter fun k => actGet s (K.STR_CTRL_enable k) == 1

/-- The bytes of a stream's buffer (R272). -/
def strBytes (s : State) (k : Nat) : Nat := if isFrames s k then (strRing s k).size * slotSize s k else (strRing s k).size

/-- Whether a control block and the buffer behind it touch an unmapped address of a realm. -/
def ringUnmapped (s : State) (r cb size : Nat) : Bool := !extentMapped s r cb 64 || !extentMapped s r (4096 + cb) size

/-- The stream definitions of ingress fail (R276, R284). -/
def ingressBad (s : State) : Bool :=
  let on := streamsOn s
  let port := fun k => actGet s (K.STR_CTRL_port k)
  ((List.range 30).any fun p =>
    let high := actGet s (K.ING_WM_high_4k p)
    decide (high ≤ actGet s (K.ING_WM_low_4k p)) || decide (fifoSize p < high * 4096)) ||
  !allDistinct ((on.filter fun k => decide (port k < 12) || decide (16 ≤ port k)).map fun k =>
    (port k, if port k < 12 then actGet s (K.STR_CTRL_vc k) else 0)) ||
  (on.any fun k => ringUnmapped s (strRealm s k) (strCb s k) (strBytes s k)) ||
  (on.any fun k => isFrames s k && decide (2 ^ 26 < slotSize s k)) ||
  (List.range 4).any fun m => decide (4 < (on.filter fun k => port k == 12 + m).length)

/-- The outputs that enabled services name: fusion services, then planning services (R314). -/
def outsNamed (s : State) : List Nat :=
  (((List.range 4).filter fun k => actGet s (K.FUS_SVC_CTRL_enable k) == 1).map fun k => actGet s (K.FUS_SVC_CTRL_out k)) ++
  (((List.range 2).filter fun k => actGet s (K.PLE_SVC_CTRL_enable k) == 1).map fun k => actGet s (K.PLE_SVC_CTRL_out k))

/-- Whether a plan request touches an unmapped address of realm 0: its 64 bytes and its goals (R306, R314). -/
def requestUnmapped (s : State) (a : Nat) : Bool :=
  !extentMapped s 0 a 64 || !extentMapped s 0 a (64 + 8 * fieldAt (realmRead s 0 (a + 13) 1) 0 1)

/-- Whether a map set touches an unmapped address of realm 0: its header and the buffers it names (R300, R314). -/
def mapSetUnmapped (s : State) (a : Nat) : Bool :=
  !extentMapped s 0 a 64 || (
    let h := realmRead s 0 a 64
    !extentMapped s 0 (fieldAt h 8 8) (fieldAt h 24 8) || !extentMapped s 0 (fieldAt h 16 8) (fieldAt h 24 8))

/-- The stream definitions of fusion and planning fail (R314). -/
def fusionBad (s : State) : Bool :=
  let target := fun g b => bitOf (actGet s (K.CUE_CTRL_targets g)) b
  ((List.range 4).any fun k => actGet s (K.FUS_SVC_CTRL_enable k) == 1 && !target (actGet s (K.FUS_SVC_CTRL_gen k)) 1) ||
  ((List.range 2).any fun k => actGet s (K.PLE_SVC_CTRL_enable k) == 1 && !target (actGet s (K.PLE_SVC_CTRL_gen k)) 2) ||
  !allDistinct (outsNamed s) ||
  ((List.range 32).any fun c => chanOn s c && if actGet s (K.FUS_CH_CTRL_post c) = 1
    then chanKind s c == 2 || ringUnmapped s 0 (postCb s c) (postSize c)
    else (chanKind s c == 2) != isFrames s (actGet s (K.FUS_CH_CTRL_stream c))) ||
  ((outsNamed s).any fun o => decide (o < 6) && ringUnmapped s 0 (outRing s o).cb (outRing s o).size) ||
  (List.range 2).any fun k => actGet s (K.PLE_SVC_CTRL_enable k) == 1 &&
    (requestUnmapped s (reqAddr s k) || mapSetUnmapped s (setAddr s k))

/-- The enabled generators that mark the frame cue. -/
def frameCues (s : State) : List Nat := (List.range 16).filter fun g => cueOn s g && bitOf (actGet s (K.CUE_CTRL_targets g)) 0

/-- The cue schedule fails (R266). -/
def cuesBad (s : State) : Bool :=
  ((List.range 16).any fun g =>
    let period := actGet s (K.CUE_PERIOD_ns g)
    let width := actGet s (K.CUE_WIDTH_ns g)
    cueOn s g && (decide (period < 1000) || decide (4000000000 < period) || decide (period ≤ actGet s (K.CUE_PHASE_ns g)) ||
      decide (width < 20) || decide (period < width + 20))) ||
  decide (1 < (frameCues s).length) ||
  (frameCues s).any fun g => decide (actGet s (K.CUE_PERIOD_ns g) < 10000000) || decide (100000000 < actGet s (K.CUE_PERIOD_ns g))

/-- Whether an FP32 value is finite and positive. -/
def f32Positive (v : Nat) : Bool := !f32Special (BitVec.ofNat 32 v) && f32Lt f32Zero (BitVec.ofNat 32 v)

/-- The thermal limits fail (R399). -/
def thermalBad (s : State) : Bool := !f32Positive (actGet s K.THM_FLUID_K_k) || !f32Positive (actGet s K.THM_RDIE_k_w)

/-- The duplex pairing fails (R339): a change in drive, or a die of a pair out of service. -/
def pairingBad (ks : List Nat) (s : State) : Bool := (s.inDrive && ks.contains K.DPX_PAIR_pairing) || !(List.range 4).all (dieIn s)

/-- The first bank of a mask that fails (R251); the age limits bank has no rule. -/
def firstBad (mask : Nat) (ks : List Nat) (s : State) : Option Nat :=
  (List.range 7).find? fun b => bitOf mask b && match b with
    | 0 => partMapBad s
    | 1 => realmTableBad s
    | 2 => ingressBad s || fusionBad s
    | 3 => cuesBad s
    | 5 => thermalBad s
    | 6 => pairingBad ks s
    | _ => false

/-! After the exchange -/

/-- A realm whose memory layout changed: released where no unit is left to it, else its memory released and a new key made (R159, R170). -/
def remapRealm (hadUnits : Bool) (r : Nat) (s : State) : State :=
  if hadUnits && !hasUnits s r then
    let s := raise (.realm r) ⟨0x0803, 0, false, islNode (keyIsl s), r, 2, 0⟩ s
    undRelease r (releaseMemory r (modRealm r (fun m => { m with keyLoaded := false }) s))
  else releaseMemory r (modRealm r (fun m => { m with keyGen := m.keyGen + 1, keyLoaded := hasUnits s r }) s)

/-- The in-drive flag and the state follow the vehicle partition's drive mark (R29, R32). -/
def followDrive (s : State) : State :=
  let mark := actGet s (K.PART_CTRL_drive 0) == 1
  let s := { s with inDrive := mark }
  if mark && s.op = .warmIdle then setOp .drive s else if !mark && s.op = .drive then setOp .warmIdle s else s

/-- Generators of a changed cue schedule take their next edge from now, and one that no longer drives its pin ends its pulse; a changed frame cue
starts a frame, but while lodging is admitted (R142, R264, R265, R365). -/
def followCues (before : List Nat) (ks : List Nat) (s : State) : State :=
  let mine := fun g => bankTouched ks (0x2400 + 0x20 * g) 0x20
  let s := ((List.range 16).filter mine).foldl (fun s g => modCue g (fun c =>
    { c with last := tauNow s, pulse := if actGet s (K.CUE_CTRL_pin g) = 1 then c.pulse else none }) s) s
  if lodgingOn s && !s.lodging.running.any (·.restored) then s
  else if before != frameCues s || (frameCues s).any mine then { s with frame := { s.frame with due := true, dueEdge := none } } else s

/-- Streams, channels, services, output streams and the integrator after a swap of the stream definitions: what is configured anew starts
afresh (R272, R286, R293, R312). -/
def followStreams (outsBefore : List Nat) (egoBefore : Bool) (ks : List Nat) (s : State) : State :=
  let s := ((List.range 32).filter fun k => bankTouched ks (0x4800 + 0x20 * k) 0x20).foldl (fun s k => modStr k (fun _ => Stream.init) s) s
  let s := ((List.range 32).filter fun c => bankTouched ks (0x3100 + 0x20 * c) 0x18).foldl (fun s c =>
    modChan c (fun x => { Channel.init with next := x.next }) (regSet (K.FUS_CH_STATE_unsync c) 0 s)) s
  let s := ((List.range 4).filter fun k => bankTouched ks (0x3500 + 0x10 * k) 0x10).foldl (fun s k => modSvc k (fun v => { v with due := [] }) s) s
  let s := ((List.range 2).filter fun p => bankTouched ks (0x3600 + 0x20 * p) 0x20).foldl (fun s p => modSvc (4 + p) (fun v => { v with due := [] }) s) s
  let s := ((List.range 6).filter fun o => bankTouched ks (0x3700 + 0x20 * o) 0x0C || (outOn s o && !outsBefore.contains o)).foldl (fun s o =>
    modOut o (fun _ => { OutStream.init with from_ := tauNow s }) s) s
  let s := ((List.range 6).filter fun o => !outOn s o).foldl (fun s o => modOut o (fun x => { x with missing := false }) s) s
  let ego := actGet s K.EGO_CTRL_enable == 1
  let s := if ego && !egoBefore then
      modEgo (fun _ => { Ego.init with
        on := true, next := tauNow s / 1000000 + 1,
        poses := [⟨tauNow s / 1000000 * 1000000, 0, 0, f32One, f32Zero⟩] }) s
    else if !ego then modEgo (fun e => { e with on := false }) s else s
  (List.range 30).foldl (fun s p => refreshHold p s) s

/-- A successful exchange and its consequences (R159, R251). -/
def swapIn (ks : List Nat) (mask : Nat) (s : State) : State :=
  let relaid := (List.range 8).filter fun r => bitOf mask 0 && (layoutKeys r).any ks.contains
  let had := relaid.filter (hasUnits s)
  let cues := frameCues s
  let outs := (List.range 6).filter (outOn s)
  let ego := s.fus.ego.on
  let s := exchange ks s
  let s := relaid.foldl (fun s r => remapRealm (had.contains r) r s) s
  let s := regMod K.CFG_GEN_gen (fun v => (v + 1) % 2 ^ 32) s
  let s := if bitOf mask 0 then followDrive s else s
  let s := if bitOf mask 3 then followCues cues ks s else s
  if bitOf mask 2 then followStreams outs ego ks s else s

/-- Whether the frame that counts at a swap is the one before (R30): the swap is at a frame-cue edge whose frame has begun. -/
def endedFrame (s : State) (c : Curtain) : Bool :=
  match c.reached with
  | some n => (frameCues s).contains c.gen && s.frame.edge == some (c.gen, n)
  | none => false

/-- Whether a swap would set the in-drive flag (R30). -/
def setsDrive (s : State) (mask : Nat) : Bool := bitOf mask 0 && !s.inDrive && shGet s (K.PART_CTRL_drive 0) == 1

/-- A swap as the hosts see it: the reason CURTAIN stands in every status block from the start of the exchange to its end (R251). -/
def shownSwap (ks : List Nat) (mask : Nat) (s : State) : State :=
  let s := writeStatuses { s with curtain := s.curtain.map fun c => { c with swapping := true } }
  writeStatuses { swapIn ks mask s with curtain := none }

/-- CURTAIN_SWAP: at its point, once no job of an affected realm executes, the pending curtain swaps or fails (R251, R252). -/
def curtainSwap (s : State) : State :=
  match s.curtain with
  | none => s
  | some c =>
    match findJob s c.acc with
    | none => { s with curtain := none }
    | some j =>
      if (c.atEdge && c.reached.isNone) || curtainBusy s c then s
      else
        let detail := (c.reached.getD 0) % 2 ^ 32
        let done := fun (s : State) => { s with curtain := none }
        let ks := changedKeys s c.mask
        if c.mask = 0 then okJob j detail (done s)
        else match firstBad c.mask ks (exchange ks s) with
        | some b => failJob j ⟨0x12, b⟩ (done s)
        | none =>
          if setsDrive s c.mask && !driveReady s (endedFrame s c) then failJob j ⟨6, opCode s.op⟩ (done s)
          else okJob j detail (shownSwap ks c.mask s)

/-- CURTAIN_SWAP (R251). -/
def execCurtainSwap (s : State) : Host.Outcome State Fault Refusal := .next (curtainSwap s)

end Sys2Proof.Machine
end

