-- ==== Sys2Proof/Machine/HostIf.lean ====
section
/-! DEFINITION. Host ports: enables, doorbell polls and acceptance, status blocks and the ready/busy pins (R219 to R227, R244 to R249, R284, R401). -/

namespace Sys2Proof.Machine

/-- The node of a host port (R433). -/
def portNode (p : Nat) : Nat := nodeAddr 4 (13 + p) 0

/-- RING_REFUSED (R241). -/
def refuseRing (p what log2 : Nat) (s : State) : State := raise (.port p) ⟨0x0004, 0, true, portNode p, what, log2, 0⟩ s

/-! Enables -/

/-- RING_STATUS.idle (R220). -/
def ringIdle (s : State) (p i : Nat) : Bool := s.jobs.all fun j => !(j.port == p && j.ring == i)

/-- A write of HOST_CTRL.enable (R221, R401). The count of lost events starts afresh at an enable (R245). -/
def hostCtrl (p : Nat) (on : Bool) (s : State) : State :=
  if !on then setReady p false (regSet (K.HOST_CTRL_enable p) 0 s)
  else if hostOn s p then s
  else if doorbellAt s p = 0 || statusAt s p = 0 || !(portOf s p).busMaster then regSet (K.HOST_STATUS_err p) 1 s
  else modPort p (fun h => { h with dropped := 0, pollFails := 0 }) (regSet (K.HOST_STATUS_err p) 0 (regSet (K.HOST_CTRL_enable p) 1 s))

/-- A write of RING_CTRL (R221, R222). -/
def ringCtrl (p i log2 : Nat) (on : Bool) (s : State) : State :=
  if ringOn s p i then (if on then s else regSet (K.RING_CTRL_enable p i) 0 s)
  else
    let s := regSet (K.RING_CTRL_log2_entries p i) log2 s
    if !on then s
    else if 12 < log2 || !ringIdle s p i then refuseRing p i log2 (regSet (K.RING_STATUS_err p i) 1 s)
    else modRing p i (fun _ => Ring.init) (regSet (K.RING_STATUS_err p i) 0 (regSet (K.RING_CTRL_enable p i) 1 s))

/-- A write of EVT_CTRL (R221, R222). -/
def evtCtrl (p log2 : Nat) (on : Bool) (s : State) : State :=
  if evtOn s p then (if on then s else regSet (K.EVT_CTRL_enable p) 0 s)
  else
    let s := regSet (K.EVT_CTRL_log2_entries p) log2 s
    if !on then s
    else if log2 < 6 || 12 < log2 then refuseRing p 8 log2 (regSet (K.HOST_STATUS_err p) 1 s)
    else modPort p (fun h => { h with evtProducer := 0, evtConsumer := 0, attn := [] })
      (regSet (K.HOST_STATUS_err p) 0 (regSet (K.EVT_CTRL_enable p) 1 s))

/-- A write of ETH_TX_CTRL of an Ethernet port (R263, R277, R284). -/
def ethTxCtrl (m log2 : Nat) (on pause : Bool) (s : State) : State :=
  let was := regGet s (K.ETH_TX_CTRL_enable m) == 1
  let s := regSet (K.ETH_TX_CTRL_pause_en m) pause.toNat s
  if on && (log2 < 2 || 8 < log2) then
    refuseRing s.mgrPort 9 log2 (if was then s else regSet (K.ETH_TX_CTRL_log2_entries m) log2 s)
  else
    let s := regSet (K.ETH_TX_CTRL_log2_entries m) log2 (regSet (K.ETH_TX_CTRL_enable m) on.toNat s)
    if on && !was then modMac m (fun x => { x with txCons := 0 }) s else s

/-- A write to a register of the writing host's own port (R219, R356). -/
def ownWrite (p : Nat) (act : State → State) (s : State) : State := if windowOpen s p then act s else s

/-- HOST_ENABLE (R221). -/
def execHostEnable (port : Fin 4) (s : State) : Host.Outcome State Fault Refusal := .next (ownWrite port.val (hostCtrl port.val true) s)

/-- HOST_DISABLE (R221). -/
def execHostDisable (port : Fin 4) (s : State) : Host.Outcome State Fault Refusal := .next (ownWrite port.val (hostCtrl port.val false) s)

/-- RING_ENABLE (R221). -/
def execRingEnable (port : Fin 4) (ring : Fin 8) (log2 : Fin 16) (s : State) : Host.Outcome State Fault Refusal :=
  .next (ownWrite port.val (ringCtrl port.val ring.val log2.val true) s)

/-- RING_DISABLE (R221). -/
def execRingDisable (port : Fin 4) (ring : Fin 8) (log2 : Fin 16) (s : State) : Host.Outcome State Fault Refusal :=
  .next (ownWrite port.val (ringCtrl port.val ring.val log2.val false) s)

/-- EVENT_RING_ENABLE (R221). -/
def execEventRingEnable (port : Fin 4) (log2 : Fin 16) (s : State) : Host.Outcome State Fault Refusal :=
  .next (ownWrite port.val (evtCtrl port.val log2.val true) s)

/-- EVENT_RING_DISABLE (R221). -/
def execEventRingDisable (port : Fin 4) (log2 : Fin 16) (s : State) : Host.Outcome State Fault Refusal :=
  .next (ownWrite port.val (evtCtrl port.val log2.val false) s)

/-- ETH_TX_RING_ENABLE (R284). -/
def execEthTxRingEnable (port : Fin 4) (mac : Fin 4) (log2 : Fin 16) (pauseEn : Bool) (s : State) : Host.Outcome State Fault Refusal :=
  .next (mgrWrite port.val (ethTxCtrl mac.val log2.val true pauseEn) s)

/-! Acceptance (R225 to R227, R230) -/

/-- The realm bound to a ring in the active realm table. -/
def ringRealm (s : State) (p i : Nat) : Option Nat :=
  (List.range 8).find? fun r => realmOn s r && realmPort s r == p && actGet s (K.REALM_BIND_ring r) == i

/-- Whether the in-flight limits allow one more job of a realm (R230). -/
def roomForJob (s : State) (r : Nat) : Bool :=
  let others := (s.jobs.filter fun j => j.realm != 0).length
  decide (s.jobs.length < 4096) && (r == 0 ||
    (decide (others < 4096 - min 2048 (actGet s K.JOB_VEH_RESERVE_jobs)) &&
      decide ((s.jobs.filter fun j => j.realm == r).length < clampNat 1 4096 (actGet s (K.REALM_QUOTA_jobs r)))))

/-- Whether the module drains its work for a dormant barrier (R29). -/
def draining (s : State) : Bool := s.jobs.any fun j => jType j == 0x0D && j.phase != .accepted

/-- Whether the module takes descriptors of a realm now: it runs, does not drain, and the realm is not orphaned (R33, R376). -/
def takesRealm (s : State) (r : Nat) : Bool := running s && !draining s && !(undState s == 3 && undRealm s == r)

/-- Whether a ring has a descriptor that may be accepted (R225, R227, R230). -/
def mayAccept (s : State) (p i r : Nat) : Bool :=
  let q := ringOf s p i
  hostOn s p && ringOn s p i && (portOf s p).busMaster && !q.invalid && q.sqProducer != q.sqConsumed &&
  decide ((q.sqConsumed + 65536 - q.cqConsumer) % 65536 < ringEntries s p i) && roomForJob s r && takesRealm s r

/-- The base address of a submission ring. -/
def sqBase (s : State) (p i : Nat) : Nat := addr64 7 (regGet s (K.RING_SQ_LO_base p i)) (regGet s (K.RING_SQ_HI_base p i))

/-- The commit index of a job of a realm, in understudy mode (R373). -/
def commitFor (s : State) (r : Nat) : Option Nat := if undIn s && undRealm s == r then some s.und.next else none

/-- One descriptor accepted from a ring (R226, R373). -/
def acceptOne (p i r : Nat) (s : State) : State :=
  let q := ringOf s p i
  let desc := hostRead s p (sqBase s p i + 128 * (q.sqConsumed % ringEntries s p i)) 128
  let c := commitFor s r
  let j : Job := ⟨s.accCtr, p, i, r, desc, .accepted, none, [], [], 0, [], false, none, none, c, none, [], []⟩
  let s := modRing p i (fun q => { q with sqConsumed := (q.sqConsumed + 1) % 65536 })
    { s with jobs := s.jobs ++ [j], accCtr := s.accCtr + 1,
             und := if c.isSome then { s.und with next := (s.und.next + 1) % 2 ^ 64 } else s.und }
  regMod K.JOB_HIGH_WATER_jobs (max s.jobs.length) s

/-- Descriptors accepted from a ring in index order, up to `n`. -/
def acceptMany (p i r : Nat) : Nat → State → State
  | 0, s => s
  | n + 1, s => if mayAccept s p i r then acceptMany p i r n (acceptOne p i r s) else s

/-- Descriptors accepted from a ring, where an enabled realm is bound to it; whether any was. -/
def acceptRing (p i : Nat) (s : State) : State × Bool :=
  match ringRealm s p i with
  | none => (s, false)
  | some r => if mayAccept s p i r then (acceptMany p i r 4096 s, true) else (s, false)

/-- The other rings of every host in rotation, from the one after the ring served last (R226). -/
def acceptRotation (zero : Option Nat) (s : State) : State :=
  (((List.range 32).map fun k => (s.lastServed + 1 + k) % 32).filter fun x => some x != zero).foldl (fun s x =>
    let o := acceptRing (x / 8) (x % 8) s
    if o.2 then { o.1 with lastServed := x } else o.1) s

/-- The ring bound to realm 0, as 8 × port + ring. -/
def zeroRing (s : State) : Option Nat := if realmOn s 0 then some (realmPort s 0 * 8 + actGet s (K.REALM_BIND_ring 0)) else none

/-- Acceptance at a poll: the ring bound to realm 0 first, then the rotation (R226). -/
def acceptAll (s : State) : State :=
  let z := zeroRing s
  acceptRotation z (match z with
    | some x => (acceptRing (x / 8) (x % 8) s).1
    | none => s)

/-! Polls -/

/-- The doorbell word of a ring as read: its indices kept; an invalid count is told once (R225). -/
def ringWord (p : Nat) (page : List Byte) (i : Nat) (s : State) : State :=
  if !ringOn s p i then s
  else
    let q := ringOf s p i
    let prod := fieldAt page (8 * i) 2
    let bad := decide (ringEntries s p i < (prod + 65536 - q.sqConsumed) % 65536)
    let s := if bad && !q.invalid then raise (.port p) ⟨0x0002, 0, true, portNode p, i, prod, 0⟩ s else s
    modRing p i (fun q => { q with sqProducer := prod, cqConsumer := fieldAt page (8 * i + 4) 2, invalid := bad }) s

/-- The event word as read: records below it are consumed, and a pending gap marker is written where a slot is free (R243, R244). -/
def evtWord (p : Nat) (page : List Byte) (s : State) : State :=
  if !evtOn s p then s
  else
    let c := fieldAt page 64 2
    flushGap p (modPort p (fun h => { h with
      evtConsumer := c,
      attn := h.attn.filter fun a => decide ((a + 65536 - c) % 65536 < (h.evtProducer + 65536 - c) % 65536) }) s)

/-- A poll whose read failed (R225). -/
def pollError (p : Nat) (s : State) : State :=
  let s := modPort p (fun h => { h with pollFails := h.pollFails + 1 }) (regInc (K.HOST_POLL_ERR_count p) s)
  raise (.port p) ⟨0x0003, 0, false, portNode p, min max32 (portOf s p).pollFails, 0, 0⟩ s

/-- A poll that read the doorbell page (R224 to R227, R244, R373). -/
def pollPage (p : Nat) (s : State) : State :=
  let page := hostRead s p (doorbellAt s p) 128
  let s := evtWord p page (modPort p (fun h => { h with pollFails := 0 }) s)
  let s := (List.range 8).foldl (fun s i => ringWord p page i s) s
  let s := if undIn s && realmPort s (undRealm s) == p then undPoll s else s
  acceptAll s

/-- DOORBELL_POLL: the host's own writes have been made; the page is read, or the read fails (R225, R226). -/
def execDoorbellPoll (port : Fin 4) (writes : List HostWrite) (ok : Bool) (s : State) : Host.Outcome State Fault Refusal :=
  .next (
    let s := applyWrites writes s
    if !polls s port.val then s else if ok then pollPage port.val s else pollError port.val s)

/-! Status blocks -/

/-- STATUS_BLOCK_WRITE (R246). -/
def execStatusBlockWrite (port : Fin 4) (s : State) : Host.Outcome State Fault Refusal :=
  .next (if polls s port.val then writeStatus port.val s else s)

end Sys2Proof.Machine
end

