-- ==== Sys2Proof/Machine/Lodging.lean ====
section
/-! DEFINITION. Lodging and RECALL, the dormant barrier, attestation and the commands of understudy mode (R29, R31, R364 to R376, R397,
R434). -/

namespace Sys2Proof.Machine

/-! LODGE -/

/-- The realm mask of a LODGE job. -/
def lodgeMask (j : Job) : Nat := dF j 48 1

/-- Whether the shadow copy of a field differs from the active one. -/
def shadowDiffers (s : State) (k : Nat) : Bool := actGet s k != shGet s k

/-- The checks of LODGE after its state: the drive mark, the realm mask, realm 0, the rules of the banks (R364). -/
def lodgePre (s : State) (j : Job) : PreOut :=
  if shGet s (K.PART_CTRL_drive 0) = 1 then .fail ⟨6, opCode s.op⟩
  else if (List.range 7).any fun r => bitOf (lodgeMask j) (r + 1) != (shGet s (K.REALM_BIND_enabled (r + 1)) == 1) then .fail ⟨0x12, 1⟩
  else if (layoutKeys 0 ++ bindKeys 0).any (shadowDiffers s) then .fail ⟨0x12, 0⟩
  else
    let ks := changedKeys s 3
    match firstBad 3 ks (exchange ks s) with
    | some b => .fail ⟨0x12, b⟩
    | none => .go noClaim

/-- A realm whose key is not loaded gets a new one where it has any unit (R170). -/
def loadKey (r : Nat) (s : State) : State :=
  if !(realmOf s r).keyLoaded && hasUnits s r then modRealm r (fun m => { m with keyGen := m.keyGen + 1, keyLoaded := true }) s else s

/-- An island splits (R323). -/
def splitIsl (i : Isl) (s : State) : State :=
  if islState s i ≠ 0 then s else raise .manager ⟨0x0606, 0, false, islNode i, islNum i, 0, 0⟩ (setIsl i 1 s)

/-- Steps 3 to 7 of a LODGE job; a realm mask of 0 swaps nothing (R364). -/
def lodgeWork (j : Job) (s : State) : State × Except Fail JobResult :=
  if lodgeMask j = 0 then (s, .ok (okResult j [] 0))
  else
    let realms := (List.range 8).filter (bitOf (lodgeMask j))
    let split := bitOf (dF j 49 1) 0
    let saved := s.active.filter fun e => bankOf e.1 < 2
    let s := swapIn (changedKeys s 3) 3 { s with lodging := { s.lodging with saved := saved, realms := realms } }
    let s := realms.foldl (fun s r => loadKey r s) s
    let s := if split then splitIsl .b (splitIsl .a s) else s
    let s := setOp .lodge (regSet K.LDG_STATUS_admitted 1 s)
    let apart := islState s .a == 1 || islState s .b == 1
    (raise .manager ⟨0x0801, 0, false, islNode (keyIsl s), lodgeMask j, apart.toNat, regGet s K.CFG_GEN_gen⟩ s, .ok (okResult j [] 0))

/-- LODGE (R364). -/
def execLodge (job : Nat) (s : State) : Host.Outcome State Fault Refusal :=
  .next (jobCommand [0x0B] job .whole bodyFaults lodgePre lodgeWork once s)

/-! RECALL -/

/-- A RECALL that has started: lodging jobs that have not started complete (R366, R369). -/
def beginRecall (j : Job) (s : State) : State :=
  let mode := dF j 48 1
  stopLodgers mode false { s with lodging := { s.lodging with running := some ⟨j.acc, mode, s.ticks, s.ticks, false, false, 0, 0⟩ } }

/-- RECALL (R366). -/
def recallJob (acc : Nat) (s : State) : State :=
  let s := jobCommand [0x0C] acc .start bodyFaults (fun _ _ => .go noClaim) (fun _ s => (s, .error ⟨0, 0⟩)) once s
  match findJob s acc with
  | some j => if jType j = 0x0C && j.phase = .running && s.lodging.running.isNone then beginRecall j s else s
  | none => s

/-- RECALL (R366). -/
def execRecall (job : Nat) (s : State) : Host.Outcome State Fault Refusal := .next (recallJob job s)

/-- The running RECALL changed. -/
def modRecall (f : Recall → Recall) (s : State) : State := { s with lodging := { s.lodging with running := s.lodging.running.map f } }

/-- The grace period in ticks (R366, R380). -/
def graceTicks (s : State) : Nat := min 200 (regGet s K.LDG_GRACE_ms) * msTicks

/-- RECALL_GRACE_END: the running lodging jobs are stopped, and the lodged realms released once no ROOMS job holds them (R366, R434). -/
def graceEnd (s : State) : State :=
  match s.lodging.running with
  | none => s
  | some r =>
    if s.lodging.limpStop then limpRelease s
    else if s.lodging.realms.isEmpty || (r.mode ≠ 1 && s.ticks < r.t0 + graceTicks s) then s
    else
      let s := dropLodgerTiles (modRecall (fun q => { q with stopped := true, from_ := if q.stopped then s.ticks else q.from_ }) s)
      releaseLodgers 0 r.mode s

/-- RECALL_GRACE_END (R366). -/
def execRecallGraceEnd (s : State) : Host.Outcome State Fault Refusal := .next (graceEnd s)

/-- The return copy made active in banks 0 and 1 as a curtain at once, the shadow copies unchanged (R366); a realm whose memory layout changes
has its memory released, and a key where it has units (R159, R170). -/
def restoreBanks (s : State) : State :=
  let saved := s.lodging.saved
  let ks := (((s.active ++ saved).map (·.1)).eraseDups).filter fun k => bankOf k < 2 && actGet s k != tget (resetOf k) k saved
  let relaid := (List.range 8).filter fun r => (layoutKeys r).any ks.contains
  let s := ks.foldl (fun s k => actSet k (tget (resetOf k) k saved) s) s
  let s := relaid.foldl (fun s r => releaseMemory r (modRealm r (fun m => { m with keyLoaded := false }) s)) s
  let s := (List.range 8).foldl (fun s r => if r = 0 && !relaid.contains 0 then s else loadKey r s) s
  regMod K.CFG_GEN_gen (fun v => (v + 1) % 2 ^ 32) s

/-- RECALL_RESTORE: once every lodged realm is released the islands rejoin, the return copy is restored and a new frame starts (R366). -/
def recallRestore (passA passB : Bool) (s : State) : State :=
  match s.lodging.running with
  | none => s
  | some r =>
    if r.restored || !s.lodging.realms.isEmpty || s.lodging.limpStop then s
    else
      let s := restoreBanks (rejoinBoth passA passB s)
      modRecall (fun q => { q with restored := true }) { s with frame := { s.frame with due := true, dueEdge := none } }

/-- RECALL_RESTORE (R366). -/
def execRecallRestore (checkerA checkerB : Bool) (s : State) : Host.Outcome State Fault Refusal :=
  .next (recallRestore checkerA checkerB s)

/-- The end of a RECALL with a status and detail: lodging is over (R31, R366). -/
def endRecall (r : Recall) (j : Job) (status detail : Nat) (s : State) : State :=
  let us := (s.ticks - r.t0) / 500
  let s := regSet K.LDG_STATUS_admitted 0 (regSet K.LDG_LAST_RECALL_us (min max32 us) s)
  let s := if s.op = .lodge then setOp .warmIdle s else s
  let s := raise .manager ⟨0x0802, 0, false, islNode (keyIsl s), r.ckpt, r.aban, us⟩ s
  let s := if status = 0 then okJob j 0 s else failJob j ⟨status, detail⟩ s
  { s with lodging := { s.lodging with saved := [], running := none } }

/-- Two seconds, the bound of R366. -/
abbrev recallBound : Nat := 2000 * msTicks

/-- RECALL_DONE: OK when the module is drive-ready; NOT_READY at the bound where a condition of R30 other than the new frame's rehearsals is not
met (R30, R366, R434). -/
def recallDone (s : State) : State :=
  match s.lodging.running with
  | none => s
  | some r =>
    match findJob s r.acc with
    | none => s
    | some j =>
      if !r.restored || s.frame.due then s
      else if notReady s = 0 then (if framePassed s false then endRecall r j 0 0 s else s)
      else if r.from_ + recallBound ≤ s.ticks then endRecall r j 0x27 (notReady s) s
      else s

/-- RECALL_DONE (R366). -/
def execRecallDone (s : State) : Host.Outcome State Fault Refusal := .next (recallDone s)

/-! The dormant barrier -/

/-- The module powers down to DORMANT (R34, R397). -/
def enterDormant (s : State) : State :=
  let s := setOp .dormant (writeWear (regInc K.WEAR_DORMANT_count s))
  let s := (List.range 4).foldl (fun s p => if hostOn s p && (portOf s p).busMaster then writeStatus p s else s) s
  modMem dropStacks (endWork s)

/-- A dormant barrier that has started: outside WARM_IDLE it is a plain barrier; else it completes once every other job has, and the module
powers down (R29, R31). -/
def drainStep (j : Job) (s : State) : State :=
  if s.op ≠ .warmIdle then okJob j 0 s
  else if s.jobs.any fun k => k.acc != j.acc then s
  else enterDormant (okJob j 0 s)

/-- DORMANT_BARRIER (R29, R31, R397). -/
def execDormantBarrier (job : Nat) (s : State) : Host.Outcome State Fault Refusal :=
  .next (match findJob s job with
    | none => s
    | some j =>
      if jType j ≠ 0x0D || !jDormant j then s
      else if j.phase = .running then drainStep j s
      else if !mayStart s j then s
      else match headFail s j (bodyFaults j), digestFail s j with
      | some f, _ => failJob j f s
      | none, some f => failJob j f s
      | none, none => drainStep { j with phase := .running } (modJob job (fun k => { k with phase := .running }) s))

/-! Attestation -/

/-- The host bus address of an attestation object (R380). -/
def attAddr (s : State) (p : Nat) : Nat := addr64 8 (regGet s (K.ATT_ADDR_LO_base p)) (regGet s (K.ATT_ADDR_HI_base p))

/-- A write of ATT_CTRL: the operation and realm are kept; a go starts a request, or is refused (R371). -/
def attCtrl (p op realm : Nat) (go : Bool) (s : State) : State :=
  let s := regSet (K.ATT_CTRL_op p) op (regSet (K.ATT_CTRL_realm p) realm s)
  if !go || regGet s (K.ATT_STATUS_busy p) = 1 then s
  else if !(realmOn s realm && realmPort s realm == p) && p ≠ s.mgrPort then regSet (K.ATT_STATUS_err p) 1 s
  else if attAddr s p = 0 then regSet (K.ATT_STATUS_err p) 2 s
  else
    let s := regSet (K.ATT_STATUS_busy p) 1 (regSet (K.ATT_STATUS_err p) 0 s)
    { s with attest := tinsert p ⟨op, realm⟩ (tdrop p s.attest) }

/-- ATTEST_QUOTE (R371). -/
def execAttestQuote (port : Fin 4) (realm : Fin 8) (s : State) : Host.Outcome State Fault Refusal :=
  .next (ownWrite port.val (attCtrl port.val 0 realm.val true) s)

/-- ATTEST_CERTIFICATE (R371). -/
def execAttestCertificate (port : Fin 4) (realm : Fin 8) (s : State) : Host.Outcome State Fault Refusal :=
  .next (ownWrite port.val (attCtrl port.val 1 realm.val true) s)

/-- The active copy of the register at an offset, as four bytes (R372). -/
def activeBytes (s : State) (off : Nat) : List Byte :=
  leBytes 4 (((fieldRows.filter fun r => rowHas r off).map fun r => actGet s (fieldKey off r.lo) * 2 ^ r.lo).sum)

/-- The registers whose digest a quote carries, in offset order: REALM_BIND, then the MPART registers that have an active copy (R372). -/
def partOffsets (r : Nat) : List Nat := [0x1010 + 16 * r] ++ [0x00, 0x04, 0x08, 0x10, 0x14].map fun o => 0x2100 + 0x20 * r + o

/-- The highest contract level listed (R58, R372). -/
def topLevel (s : State) : Nat :=
  ((List.range 4).flatMap fun i => [regGet s (K.ID_LEVELS_levelLo i), regGet s (K.ID_LEVELS_levelHi i)]).foldl max 0

/-- Bytes 0 to 159 of a quote (R372). -/
def quoteBody (s : State) (p r : Nat) : List Byte :=
  leBytes 2 1 ++ leBytes 1 r ++ leBytes 1 (ofBits [islLocked s .a && islLocked s .b, s.op == .lodge, s.isl.dbgEver]) ++ zeros 4 ++
  ((List.range 4).flatMap fun w => leBytes 4 (regGet s (K.ID_SERIAL_serial w))) ++
  leBytes 2 (regGet s K.BOOT_SVN_svn) ++ leBytes 2 (topLevel s) ++ leBytes 4 (regGet s K.CFG_GEN_gen) ++
  ((List.range 12).flatMap fun w => leBytes 4 (regGet s (K.ID_MEASURE_m w))) ++
  ((List.range 8).flatMap fun w => leBytes 4 (regGet s (K.ATT_NONCE_nonce p w))) ++ leBytes 8 (realmOf s r).keyGen ++
  sha256 ((partOffsets r).flatMap (activeBytes s)) ++ leBytes 8 (timeWord s)

/-- The bytes of the object asked for: a quote with its signature, or the certificate (R371, R372). -/
def attObject (s : State) (p : Nat) (a : Attest) : List Byte :=
  if a.op = 0 then quoteBody s p a.realm ++ (Config.quoteSignature s.freeCtr (quoteBody s p a.realm)).toList
  else Config.certificate.toList.take Config.certificateLen.val

/-- ATTEST_DONE: the object is written and the request is over (R371, R379). -/
def attDone (p : Nat) (s : State) : State :=
  match s.attest.find? fun a => a.1 == p with
  | none => s
  | some a =>
    if !windowOpen s p || !(portOf s p).busMaster then s
    else
      let s := hostWrite p (attAddr s p) (attObject s p a.2) s
      let s := regSet (K.ATT_STATUS_busy p) 0 (regSet (K.ATT_STATUS_done p) 1 s)
      raise (.port p) ⟨0x0806, 0, false, islNode (keyIsl s), a.2.realm, a.2.op, p⟩
        { s with attest := tdrop p s.attest, freeCtr := s.freeCtr + 1 }

/-- ATTEST_DONE (R371). -/
def execAttestDone (port : Fin 4) (s : State) : Host.Outcome State Fault Refusal := .next (attDone port.val s)

/-! Understudy mode -/

/-- The expectation table's address (R380). -/
def undTable (s : State) : Nat := pairGet s K.UND_TABLE_LO_base K.UND_TABLE_HI_base

/-- A realm enters understudy mode; jobs accepted before carry no commit index (R373, R374). -/
def undBegin (s : State) : State :=
  let start := pairGet s K.UND_START_LO_index K.UND_START_HI_index
  let s := { s with und := ⟨some start, start, none, none, [], []⟩, jobs := s.jobs.map fun j => { j with commit := none } }
  regSet K.UND_CTRL_enable 1 (regSet K.UND_STATE_state 1 s)

/-- Understudy mode left by a write of enable 0 (R376); a diverged state stays until a new enable (R374). -/
def undLeave (s : State) : State := if undState s = 2 then regSet K.UND_STATE_state 2 (undEnd s) else undEnd s

/-- A write of the enable and realm fields of UND_CTRL (R373, R376); in the diverged state an enable is a new one (R374). -/
def undSwitch (on : Bool) (realm : Nat) (s : State) : State :=
  if undIn s && !on then undLeave s
  else if undIn s && undState s ≠ 2 then s
  else
    let log2 := regGet s K.UND_TABLE_CTRL_log2_entries
    let s := regSet K.UND_CTRL_realm realm s
    if !on then s
    else if log2 < 6 || 12 < log2 || undTable s = 0 then refuseRing s.mgrPort 10 log2 s
    else undBegin s

/-- A write of UND_CTRL (R373, R376); one that sets the orphan bit and leaves the enable as it is is no new enable. -/
def undCtrl (on : Bool) (realm : Nat) (orph : Bool) (s : State) : State :=
  let s := if orph && undIn s && on then s else undSwitch on realm s
  if orph && undIn s && (undState s = 1 || undState s = 2) then orphan 1 s else s

/-- UNDERSTUDY_ENABLE (R373). -/
def execUnderstudyEnable (port : Fin 4) (realm : Fin 8) (s : State) : Host.Outcome State Fault Refusal :=
  .next (mgrWrite port.val (undCtrl true realm.val false) s)

/-- UNDERSTUDY_PROMOTE (R376). -/
def execUnderstudyPromote (port : Fin 4) (realm : Fin 8) (s : State) : Host.Outcome State Fault Refusal :=
  .next (mgrWrite port.val (undCtrl false realm.val false) s)

/-- UNDERSTUDY_ORPHAN: the write leaves the enable as it is (R376). -/
def execUnderstudyOrphan (port : Fin 4) (realm : Fin 8) (s : State) : Host.Outcome State Fault Refusal :=
  .next (mgrWrite port.val (fun s => undCtrl (regGet s K.UND_CTRL_enable == 1) realm.val true s) s)

/-- The limit of UND_ORPHAN in ticks (R376, R380). -/
def orphanTicks (s : State) : Nat := clampNat 100 60000 (regGet s K.UND_ORPHAN_ms) * msTicks

/-- UND_ORPHAN_TIMEOUT: a completed job has waited for its entry for UND_ORPHAN.ms (R376). -/
def execUndOrphanTimeout (s : State) : Host.Outcome State Fault Refusal :=
  .next (if undState s = 1 && s.und.waiting.any fun u => decide (u.tick + orphanTicks s ≤ s.ticks) then orphan 0 s else s)

end Sys2Proof.Machine
end

