-- ==== Sys2Proof/Machine/MemOps.lean ====
section
/-! DEFINITION. The commands of the memory itself: scrub, erased groups, promotion and demotion of rooms, cellar initialisation
(R163 to R168, R188, R358). -/

namespace Sys2Proof.Machine

/-- Whether the scrubber reaches a memory: the module runs, the stack's die is in service, the cellar is in service. -/
def memReached (s : State) (mem : Nat) : Bool := running s && (if mem < 8 then dieIn s (mem / 2) else s.boot.cellarIn)

/-- The codeword granules the scrubber reads in one pass: eight stacks of 24 GiB, two cellar gangs of 256 GiB (R164, R168). -/
abbrev scrubTotal : Nat := 8 * (24 * 2 ^ 24) + 2 * (256 * 2 ^ 24)

/-- The scrub moved on by one granule (R168, R191). -/
def scrubStep (s : State) : State :=
  let n := s.mem.scrubbed + 1
  let s := if n = scrubTotal then regInc K.MEM_SCRUB_PASS_count (modMem (fun m => { m with scrubbed := 0 }) s)
    else modMem (fun m => { m with scrubbed := n }) s
  regSet K.MEM_SCRUB_POS_permille (s.mem.scrubbed * 1000 / scrubTotal) s

/-- SCRUB_GRANULE: the scrubber reads a granule and writes corrections back; it skips one that is poisoned (R160, R166, R168). Where the memory
cannot hold what the command says the granule holds, there is no such granule. -/
def scrub (mem num : Nat) (u : GranuleUse) (f : GranuleFinding) (s : State) : State :=
  if !memReached s mem || !granuleFits s mem u then s
  else
    let s := scrubStep s
    if granulePoisoned s mem num u then s else meetGranule mem num u f s

/-- SCRUB_GRANULE (R168). -/
def execScrubGranule (mem : Fin 10) (granule : Nat) (what : GranuleUse) (finding : GranuleFinding) (s : State) :
    Host.Outcome State Fault Refusal := .next (scrub mem.val granule what finding s)

/-- The granules at which a DQ group has shown a corrected error within the last hour (R163). -/
def showCount (s : State) (mem gang group : Nat) : Nat :=
  (s.mem.shows.filter fun x => x.mem == mem && x.gang == gang && x.group == group &&
    decide (s.ticks < x.tick + 3600 * 500000000)).length

/-- MEM_ERASED: a DQ group at the threshold is marked erased where the gang may take one more (R163, R191). -/
def markErased (mem gang group : Nat) (s : State) : State :=
  let es := erasedOf s mem gang
  if !memReached s mem || (8 ≤ mem && (gang ≠ 0 || 64 ≤ group)) || showCount s mem gang group < 64 || erasedMax mem ≤ es.length || es.contains group then s
  else
    let s := modMem (fun m => { m with erased := tset [] (gangKey mem gang) (es ++ [group]) m.erased }) s
    let n := es.length + 1
    let s := if mem < 8 then regMod (K.MEM_ERASED_gangs mem) (fun v => v - bitsAt v (2 * gang) 2 * 4 ^ gang + n * 4 ^ gang) s
      else regMod K.MEM_ERASED_CEL_gangs (fun v => v - bitsAt v (2 * (mem - 8)) 2 * 4 ^ (mem - 8) + n * 4 ^ (mem - 8)) s
    raiseFault .manager ⟨0x0104, 1, true, memNode mem, locator mem gang 0 group 0, 0, 0⟩ s

/-- MEM_ERASED (R163). -/
def execMemErased (mem : Fin 10) (gang : Fin 4) (symbol : Fin 72) (s : State) : Host.Outcome State Fault Refusal :=
  .next (markErased mem.val gang.val symbol.val s)

/-! Placement of rooms -/

/-- Whether a room's slot is on a die. -/
def slotOn (d : Nat) (e : Room) : Bool := e.slots.any fun x => x.place == d

/-- The rooms of a realm on a die that may be demoted, least recently selected first (R188). -/
def demotable (s : State) (r d : Nat) : List Nat :=
  let rooms := ((realmRooms s r).filter fun e => slotOn d e.2 && e.2.fill == 64 && canDemote s r e.1).map (·.1)
  let sel := (realmOf s r).selected
  (rooms.filter fun q => !sel.contains q) ++ sel.filter rooms.contains

/-- ROOM_PROMOTE: a cold room that retrieval has selected, or that is asked hot, moves to a slot of its home die; with none free, one
room is demoted first (R188). -/
def promoteRoom (r room : Nat) (s : State) : State :=
  let e := roomOf s r room
  let m := realmOf s r
  if !running s || e.st ≠ .cold || !(m.selected.contains room || m.askedHot.contains room) || roomCount s r ≤ room then s
  else
    let s := if placeHot s r e.home then s
      else match (demotable s r e.home).head? with
        | some q => moveRoom r q false s
        | none => s
    if canPromote s r room then moveRoom r room true s else s

/-- ROOM_PROMOTE (R188). -/
def execRoomPromote (realm : Fin 8) (room : BitVec 32) (s : State) : Host.Outcome State Fault Refusal :=
  .next (promoteRoom realm.val room.toNat s)

/-- Rooms demoted in order until one thirty-second of a die's slots is free (R188). -/
def demoteSome (r d : Nat) : List Nat → State → State
  | [], s => s
  | q :: t, s =>
    if hbmSlots s r ≤ 32 * hbmFreeOn s r d then s
    else demoteSome r d t (if canDemote s r q then moveRoom r q false s else s)

/-- ROOM_DEMOTE: where fewer than one sixty-fourth of a die's slots are free (R188). -/
def execRoomDemote (realm : Fin 8) (die : Fin 4) (s : State) : Host.Outcome State Fault Refusal :=
  .next (if running s && 64 * hbmFreeOn s realm.val die.val < hbmSlots s realm.val
    then demoteSome realm.val die.val (demotable s realm.val die.val) s else s)

/-- The cellar units the initialiser writes (R158, R358). -/
abbrev cellarUnits : Nat := 7168

/-- CELLAR_INIT_UNIT: a unit is initialised; with the last, BOOT_STATUS.cellar_init is set (R358). -/
def execCellarInitUnit (unit : Nat) (s : State) : Host.Outcome State Fault Refusal :=
  .next (
    if regGet s K.BOOT_STATUS_phase < 6 || 8 < regGet s K.BOOT_STATUS_phase || !s.boot.cellarIn || cellarUnits ≤ unit ||
       s.mem.initUnits.contains unit then s
    else
      let s := modMem (fun m => { m with initUnits := m.initUnits ++ [unit] }) s
      if s.mem.initUnits.length = cellarUnits then regSet K.BOOT_STATUS_cellar_init 1 s else s)

end Sys2Proof.Machine
end

