-- ==== Sys2Proof/Machine/Registers.lean ====
section
/-! DEFINITION. The set-up window: who reads and writes which block, words of fields, fields that show other state, the access codes, and the
configuration requests of the host-port function (R7, R219, R252, R356, R400 to R406). -/

namespace Sys2Proof.Machine

/-! Blocks (R402, R403) -/

/-- Whom an offset of the window belongs to. -/
inductive Block where
  | own
  | identity
  | global
  | reserved
  deriving DecidableEq, Repr

/-- The bases and sizes of the global blocks (R402). -/
def globalBlocks : List (Nat × Nat) :=
  [(0x1000, 0x200), (0x1200, 0x100), (0x1300, 0x100), (0x1400, 0x100), (0x1600, 0x200), (0x1800, 0x200), (0x1C00, 0x400), (0x2000, 0x400),
   (0x2400, 0x400), (0x2800, 0x400), (0x3000, 0x800), (0x4000, 0x1000)]

/-- The block of an offset below 0x8000 (R402). -/
def blockAt (off : Nat) : Block :=
  if off < 0x500 then .own
  else if 0x800 ≤ off && off < 0xC00 then .identity
  else if globalBlocks.any fun b => decide (b.1 ≤ off) && decide (off < b.1 + b.2) then .global
  else .reserved

/-- Whether a host may not touch a block (R403). -/
def foreign (s : State) (p off : Nat) : Bool := blockAt off == .global && p != s.mgrPort

/-- The offset with its port where the block repeats for each port. -/
def portOff (p off : Nat) : Nat := if off < 0x800 then p * 0x10000 + off else off

/-- The key of a field of the window of a port. -/
def winFieldKey (p off lo : Nat) : Nat := fieldKey (portOff p off) lo

/-- The fields of the register at an offset. -/
def rowsAt (off : Nat) : List FieldRow := fieldRows.filter fun r => rowHas r off

/-- The width of a field. -/
def rowWidth (r : FieldRow) : Nat := r.hi - r.lo + 1

/-! Fields that show state kept elsewhere -/

/-- The transients of each pair within the last 1,000 frames, four bits each (R338, R339). -/
def recentCounts (s : State) : Nat :=
  ((List.range 4).map fun p => min 15 (s.dpx.transients.filter fun t =>
    t.1 == p && decide (frameNo s < t.2 + 1000)).length * 16 ^ p).sum

/-- Whether an extended test of a pair is in progress (R332, R339). -/
def pairTesting (s : State) (p : Nat) : Bool := (s.dpx.testing ++ s.dpx.testNext).any fun e => pairOf s e == p

/-- Whether a pair runs simplex (R326, R339). -/
def pairSimplex (s : State) (p : Nat) : Bool := decide ((pairElements s p).length < 2)

/-- HOSTCFG fields (R220). -/
def hostField (s : State) (p off lo : Nat) : Option Nat :=
  if off = 4 then (if lo = 0 then some (hostOn s p).toNat else if lo = 1 then some (p == s.mgrPort).toNat else none)
  else if 0x100 ≤ off && off < 0x200 && off % 0x20 = 0x14 then
    let i := (off - 0x100) / 0x20
    match lo with
    | 0 => some (ringOn s p i && hostOn s p).toNat
    | 2 => some (ringRealm s p i).isSome.toNat
    | 3 => some ((ringRealm s p i).getD 0)
    | 6 => some (ringIdle s p i).toNat
    | _ => none
  else none

/-- JOBCFG and PARTMAP fields (R250, R407). -/
def jobField (s : State) (off lo : Nat) : Option Nat :=
  if off = 0x1004 then some s.jobs.length
  else if 0x1010 ≤ off && off < 0x1090 && off % 0x10 = 8 then some ((realmOf s ((off - 0x1010) / 0x10)).epoch % 2 ^ 32)
  else if 0x1010 ≤ off && off < 0x1090 && off % 0x10 = 0xC then some ((realmOf s ((off - 0x1010) / 0x10)).epoch / 2 ^ 32)
  else if off = 0x1100 then some (if lo = 0 then s.curtain.isSome.toNat else ((s.curtain.map (·.mask)).getD 0))
  else if off = 0x1280 then some (if lo = 0 then s.inDrive.toNat else (s.inDrive && s.op == .limp).toNat)
  else none

/-- SAFETY, LINKS and LODGING fields (R339, R363, R380). -/
def safetyField (s : State) (off lo : Nat) : Option Nat :=
  match off with
  | 0x1314 => some (min 255 (recentLocks s (if lo = 0 then .a else .b)).length)
  | 0x1320 => some (recentCounts s)
  | 0x1324 => some (ofBits ((List.range 4).map fun p => if lo = 0 then pairSimplex s p else pairTesting s p))
  | 0x160C => some s.kept.svnMin
  | 0x1800 =>
    if lo = 8 then some (s.lodging.realms.map (2 ^ ·)).sum
    else if lo = 16 then some (islState s .a == 1 || islState s .b == 1).toNat else none
  | 0x1918 => some (undVerified s % 2 ^ 32)
  | 0x191C => some (undVerified s / 2 ^ 32)
  | 0x1920 => some (undShown s s.und.done % 2 ^ 32)
  | 0x1924 => some (undShown s s.und.done / 2 ^ 32)
  | _ => none

/-- Whether a job executes. -/
def jobRuns (s : State) : Bool := s.jobs.any fun j => j.phase == .running

/-- INNK_WALKS and PORTER_BUSY of a die: none while no job executes, else free within their bounds (R191; log 33). -/
def walkField (s : State) (d reg : Nat) : Option Nat :=
  if reg = 8 then some (if jobRuns s then (Config.walksNow s.freeCtr s.ticks d).val else 0)
  else if reg = 0xC then some (if jobRuns s then (Config.portersNow s.freeCtr s.ticks d).toNat else 0)
  else none

/-- MEMORY, CUES, ENGINE and INGRESS fields (R153, R191, R269, R284). -/
def unitField (s : State) (off : Nat) : Option Nat :=
  let m := s.mem
  if off = 0x2014 then some (min max32 (m.poisonWin.length + m.poisonRoom.length + m.poisonDir.length + m.poisonRaw.length))
  else if 0x2100 ≤ off && off < 0x2200 then
    let r := (off - 0x2100) / 0x20
    match off % 0x20 with
    | 0x0C => some (roomCount s r)
    | 0x18 => some (freeRooms s r)
    | 0x1C => some ((realmOf s r).reader % 2 ^ 32)
    | _ => none
  else if 0x2200 ≤ off && off < 0x2240 then walkField s ((off - 0x2200) / 0x10) (off % 0x10)
  else if 0x2400 ≤ off && off < 0x2600 then
    let e := (cueOf s ((off - 0x2400) / 0x20)).edges
    match off % 0x20 with
    | 0x10 => some (e % 2 ^ 32)
    | 0x14 => some (e / 2 ^ 32)
    | _ => none
  else if 0x2800 ≤ off && off < 0x2C00 && off % 0x100 = 0 then some (engineOf s ((off - 0x2800) / 0x100)).tiles.length
  else if 0x4000 ≤ off && off < 0x4780 && off % 0x40 = 8 then some (fifoFill s ((off - 0x4000) / 0x40))
  else none

/-- A field that shows state the model keeps outside the register file. -/
def liveField (s : State) (p off lo : Nat) : Option Nat :=
  if off < 0x800 then hostField s p off lo
  else if off = 0x830 then some s.mgrPort
  else if off < 0x1300 then jobField s off lo
  else if off < 0x2000 then safetyField s off lo
  else unitField s off

/-! Reads (R7, R403 to R405) -/

/-- The value of a field as a read finds it; `view` names the active view. -/
def fieldRead (s : State) (p off : Nat) (view : Bool) (r : FieldRow) : Nat :=
  let k := winFieldKey p off r.lo
  match r.acc with
  | .wo => 0
  | .rws => if view then actGet s k else shGet s k
  | .rw | .w1c | .rc => regGet s k
  | .ro => (liveField s p off r.lo).getD (regGet s k)

/-- A word read. -/
def wordRead (s : State) (p off : Nat) (view : Bool) : Nat :=
  ((rowsAt off).map fun r => fieldRead s p off view r % 2 ^ rowWidth r * 2 ^ r.lo).sum

/-- What a read leaves in an RC field: 0; in a high-water mark the number there is now, the highest since the read (R7, R153, R250). -/
def rcLeaves (s : State) (off : Nat) : Nat :=
  if off = 0x1008 then s.jobs.length
  else if 0x2800 ≤ off && off < 0x2C00 && off % 0x100 = 4 then (engineOf s ((off - 0x2800) / 0x100)).tiles.length
  else 0

/-- The RC fields of a register after a read (R7). -/
def clearRc (p off : Nat) (s : State) : State :=
  (rowsAt off).foldl (fun s r => if r.acc = .rc then regSet (winFieldKey p off r.lo) (rcLeaves s off) s else s) s

/-- One aligned 32-bit read by a host (R403, R405). -/
def readWord (p off : Nat) (s : State) : State × Nat :=
  let x := off % 0x8000
  if foreign s p x then (s, 0)
  else (if 0x8000 ≤ off then s else clearRc p x s, wordRead s p x (decide (0x8000 ≤ off)))

/-- Whether an access has a size and alignment the module takes (R404). -/
def goodAccess (off size : Nat) : Bool := (size == 4 || size == 8) && off % size == 0

/-- A read access of the window (R404); what it returns is kept as the last read. -/
def readAccess (p off size : Nat) (s : State) : State :=
  if !windowOpen s p then { s with lastRead := [] }
  else if !goodAccess off size then { denied p s with lastRead := [0] }
  else
    let a := readWord p off s
    if size = 4 then { a.1 with lastRead := [a.2] }
    else
      let b := readWord p (off + 4) a.1
      { b.1 with lastRead := [a.2 + b.2 * 2 ^ 32] }

/-- RC_READ (R7). -/
def execRcRead (port : Fin 4) (off : BitVec 16) (size : Nat) (s : State) : Host.Outcome State Fault Refusal :=
  .next (readAccess port.val off.toNat size s)

/-! Writes (R7, R219, R221, R252, R403, R404) -/

/-- Whether a field is held while the ring it belongs to is enabled (R221). -/
def heldField (s : State) (p off : Nat) : Bool :=
  ((off == 0x28 || off == 0x2C) && evtOn s p) ||
  (decide (0x100 ≤ off) && decide (off < 0x200) && decide (off % 0x20 < 0x10) && ringOn s p ((off - 0x100) / 0x20))

/-- A value written to a field by its access code; RWS fields are written only while no curtain is pending (R7, R252). -/
def fieldWrite (p off v : Nat) (r : FieldRow) (s : State) : State :=
  let k := winFieldKey p off r.lo
  let x := bitsAt v r.lo (rowWidth r)
  match r.acc with
  | .rw => if heldField s p off then s else regSet k x s
  | .rws => if s.curtain.isSome then s else shSet k x s
  | .w1c => regMod k (fun old => Nat.land old (2 ^ rowWidth r - 1 - x)) s
  | .ro | .wo | .rc => s

/-- The fields of a register written; a write that holds RWS fields is counted while a curtain is pending (R252). -/
def plainWrite (p off v : Nat) (s : State) : State :=
  let rows := rowsAt off
  let s := rows.foldl (fun s r => fieldWrite p off v r s) s
  if s.curtain.isSome && rows.any (fun r => r.acc == .rws) then regInc K.CFG_SHADOW_DROPPED_count s else s

/-- A word written to a register whose write does something, or to any other (R221, R254 to R259, R263, R282, R349, R371, R373). -/
def applyWord (p off v : Nat) (s : State) : State :=
  let b := bitOf v
  match off with
  | 0x0000 => hostCtrl p (b 0) s
  | 0x0030 => evtCtrl p (bitsAt v 0 4) (b 8) s
  | 0x0400 => attCtrl p (bitsAt v 1 1) (bitsAt v 2 3) (b 0) s
  | 0x1408 => tbInc (bitsAt v 0 8) s
  | 0x140C => tbStep v s
  | 0x1420 => if b 0 then tbBaseline s else s
  | 0x1428 => if b 0 then tbSnap s else s
  | 0x1644 => lnkRequest p (bitsAt v 0 8) s
  | 0x1900 => undCtrl (b 0) (bitsAt v 1 3) (b 4) s
  | _ =>
    if 0x100 ≤ off && off < 0x200 && off % 0x20 = 0x10 then ringCtrl p ((off - 0x100) / 0x20) (bitsAt v 0 4) (b 8) s
    else if 0x4000 ≤ off && off < 0x4780 && off % 0x40 = 0 then setPort ((off - 0x4000) / 0x40) (b 0) (b 1) s
    else if 0x4300 ≤ off && off < 0x4400 && off % 0x40 = 0x38 then ethTxCtrl ((off - 0x4300) / 0x40) (bitsAt v 0 4) (b 8) (b 9) s
    else plainWrite p off v s

/-- One aligned 32-bit write by a host: the active view and the global blocks of another host are ignored and counted (R219, R403, R405). -/
def writeWord (p off v : Nat) (s : State) : State :=
  if 0x8000 ≤ off || foreign s p off then denied p s else applyWord p off v s

/-- A write access of the window (R404). -/
def writeAccess (p off size v : Nat) (s : State) : State :=
  if !windowOpen s p then s
  else if !goodAccess off size then denied p s
  else if size = 4 then writeWord p off (v % 2 ^ 32) s
  else writeWord p (off + 4) (v / 2 ^ 32 % 2 ^ 32) (writeWord p off (v % 2 ^ 32) s)

/-- Whether a register has a W1C field. -/
def hasW1c (off : Nat) : Bool := (rowsAt off).any fun r => r.acc == .w1c

/-- W1C_WRITE: the register named has a W1C field (R7). -/
def execW1cWrite (port : Fin 4) (off : BitVec 16) (value : BitVec 32) (s : State) : Host.Outcome State Fault Refusal :=
  .next (if hasW1c (off.toNat % 0x8000) then writeAccess port.val off.toNat 4 value.toNat s else s)

/-- REGISTER_WRITE (R403). -/
def execRegisterWrite (port : Fin 4) (off : BitVec 16) (size : Nat) (value : BitVec 64) (s : State) : Host.Outcome State Fault Refusal :=
  .next (writeAccess port.val off.toNat size value.toNat s)

/-! Configuration requests -/

/-- The data of a configuration read (R400). -/
def cfgData (s : State) : CfgReq → Nat
  | .vendor => regGet s K.ID_PCI_vendor
  | .device => regGet s K.ID_PCI_device
  | .revision => regGet s K.ID_PART_stepping
  | .classCode => 0x120000
  | .headerType => 0
  | .busMaster on => on.toNat

/-- CONFIG_REQUEST: a port that is down does not answer; before the host windows are ready the answer is Configuration Request Retry Status, which
carries no data and does nothing (R356, R400, R401). -/
def configRequest (p : Nat) (req : CfgReq) (s : State) : State :=
  if !windowOpen s p then { s with lastRead := [] }
  else match req with
  | .busMaster true => modPort p (fun h => { h with busMaster := true }) s
  | .busMaster false => masterFall p s
  | r => { s with lastRead := [cfgData s r] }

/-- CONFIG_REQUEST (R356). -/
def execConfigRequest (port : Fin 4) (req : CfgReq) (s : State) : Host.Outcome State Fault Refusal :=
  .next (configRequest port.val req s)

end Sys2Proof.Machine
end

