-- ==== Sys2Proof/Machine/Dispatch.lean ====
section
/-! DEFINITION. One arm for each command. -/

namespace Sys2Proof.Machine

/-- The effect of a command on everything but the queue of waiting commands. -/
def exec (i : Instr) (s : State) : Host.Outcome State Fault Refusal :=
  match i with
  | .graph job run => Sys2Proof.Machine.execGraph job run s
  | .step job run => Sys2Proof.Machine.execStep job run s
  | .prefill job run => Sys2Proof.Machine.execPrefill job run s
  | .fuse job run => Sys2Proof.Machine.execFuse job run s
  | .fuseReplay job run => Sys2Proof.Machine.execFuseReplay job run s
  | .plan job => Sys2Proof.Machine.execPlan job s
  | .planReplay job run => Sys2Proof.Machine.execPlanReplay job run s
  | .move job run => Sys2Proof.Machine.execMove job run s
  | .roomsCreate job run => Sys2Proof.Machine.execRoomsCreate job run s
  | .roomsFork job run => Sys2Proof.Machine.execRoomsFork job run s
  | .roomsTruncate job run => Sys2Proof.Machine.execRoomsTruncate job run s
  | .roomsFree job run => Sys2Proof.Machine.execRoomsFree job run s
  | .roomsLoad job run => Sys2Proof.Machine.execRoomsLoad job run s
  | .roomsSave job run => Sys2Proof.Machine.execRoomsSave job run s
  | .roomsPlace job run => Sys2Proof.Machine.execRoomsPlace job run s
  | .curtain job => Sys2Proof.Machine.execCurtain job s
  | .curtainSwap => Sys2Proof.Machine.execCurtainSwap s
  | .fence job => Sys2Proof.Machine.execFence job s
  | .fenceComplete job => Sys2Proof.Machine.execFenceComplete job s
  | .digestCheck job run => Sys2Proof.Machine.execDigestCheck job run s
  | .lodge job => Sys2Proof.Machine.execLodge job s
  | .recall job => Sys2Proof.Machine.execRecall job s
  | .recallGraceEnd => Sys2Proof.Machine.execRecallGraceEnd s
  | .recallRestore checkerA checkerB => Sys2Proof.Machine.execRecallRestore checkerA checkerB s
  | .recallDone => Sys2Proof.Machine.execRecallDone s
  | .barrier job => Sys2Proof.Machine.execBarrier job s
  | .dormantBarrier job => Sys2Proof.Machine.execDormantBarrier job s
  | .mapUpdate job => Sys2Proof.Machine.execMapUpdate job s
  | .mapPublish job => Sys2Proof.Machine.execMapPublish job s
  | .doorbellPoll port writes ok => Sys2Proof.Machine.execDoorbellPoll port writes ok s
  | .statusBlockWrite port => Sys2Proof.Machine.execStatusBlockWrite port s
  | .hostEnable port => Sys2Proof.Machine.execHostEnable port s
  | .hostDisable port => Sys2Proof.Machine.execHostDisable port s
  | .ringEnable port ring log2 => Sys2Proof.Machine.execRingEnable port ring log2 s
  | .ringDisable port ring log2 => Sys2Proof.Machine.execRingDisable port ring log2 s
  | .eventRingEnable port log2 => Sys2Proof.Machine.execEventRingEnable port log2 s
  | .eventRingDisable port log2 => Sys2Proof.Machine.execEventRingDisable port log2 s
  | .ethTxRingEnable port mac log2 pauseEn => Sys2Proof.Machine.execEthTxRingEnable port mac log2 pauseEn s
  | .ethTxFrame mac writes => Sys2Proof.Machine.execEthTxFrame mac writes s
  | .portEnable port ing testLine => Sys2Proof.Machine.execPortEnable port ing testLine s
  | .portDisable port ing testLine => Sys2Proof.Machine.execPortDisable port ing testLine s
  | .tbIncCommit port int => Sys2Proof.Machine.execTbIncCommit port int s
  | .tbStep port ns => Sys2Proof.Machine.execTbStep port ns s
  | .tbBaseline port => Sys2Proof.Machine.execTbBaseline port s
  | .tbSnap port => Sys2Proof.Machine.execTbSnap port s
  | .lnkRetrainRequest port mask => Sys2Proof.Machine.execLnkRetrainRequest port mask s
  | .attestQuote port realm => Sys2Proof.Machine.execAttestQuote port realm s
  | .attestCertificate port realm => Sys2Proof.Machine.execAttestCertificate port realm s
  | .attestDone port => Sys2Proof.Machine.execAttestDone port s
  | .understudyEnable port realm => Sys2Proof.Machine.execUnderstudyEnable port realm s
  | .understudyPromote port realm => Sys2Proof.Machine.execUnderstudyPromote port realm s
  | .understudyOrphan port realm => Sys2Proof.Machine.execUnderstudyOrphan port realm s
  | .undOrphanTimeout => Sys2Proof.Machine.execUndOrphanTimeout s
  | .w1cWrite port off value => Sys2Proof.Machine.execW1cWrite port off value s
  | .rcRead port off size => Sys2Proof.Machine.execRcRead port off size s
  | .registerWrite port off size value => Sys2Proof.Machine.execRegisterWrite port off size value s
  | .configRequest port req => Sys2Proof.Machine.execConfigRequest port req s
  | .timeBaseTick n => Sys2Proof.Machine.execTimeBaseTick n s
  | .cueEdge g => Sys2Proof.Machine.execCueEdge g s
  | .cuePulseEnd g => Sys2Proof.Machine.execCuePulseEnd g s
  | .frameStart tableBad => Sys2Proof.Machine.execFrameStart tableBad s
  | .sensorHealth => Sys2Proof.Machine.execSensorHealth s
  | .csiPacket p pkt => Sys2Proof.Machine.execCsiPacket p pkt s
  | .ethRxFrame mac frame => Sys2Proof.Machine.execEthRxFrame mac frame s
  | .pauseFrameRx mac quanta => Sys2Proof.Machine.execPauseFrameRx mac quanta s
  | .canFrame can frame => Sys2Proof.Machine.execCanFrame can frame s
  | .canBusOff can errors => Sys2Proof.Machine.execCanBusOff can errors s
  | .spiTrigger m => Sys2Proof.Machine.execSpiTrigger m s
  | .spiTransactionEnd m rx => Sys2Proof.Machine.execSpiTransactionEnd m rx s
  | .captureEdge c edge => Sys2Proof.Machine.execCaptureEdge c edge s
  | .pauseRepeat mac => Sys2Proof.Machine.execPauseRepeat mac s
  | .ingressDrain ing writes => Sys2Proof.Machine.execIngressDrain ing writes s
  | .testLineCheck stream => Sys2Proof.Machine.execTestLineCheck stream s
  | .postStreamRead writes => Sys2Proof.Machine.execPostStreamRead writes s
  | .fusionAdmission svc => Sys2Proof.Machine.execFusionAdmission svc s
  | .fusionResult svc side fault => Sys2Proof.Machine.execFusionResult svc side fault s
  | .egoAdmission => Sys2Proof.Machine.execEgoAdmission s
  | .planAdmission svc => Sys2Proof.Machine.execPlanAdmission svc s
  | .planSearchEnd subj => Sys2Proof.Machine.execPlanSearchEnd subj s
  | .planRecheck subj => Sys2Proof.Machine.execPlanRecheck subj s
  | .streamMissing out => Sys2Proof.Machine.execStreamMissing out s
  | .goldenWorkload engine pass => Sys2Proof.Machine.execGoldenWorkload engine pass s
  | .tileIssue die tile => Sys2Proof.Machine.execTileIssue die tile s
  | .tileRetire die tile fault again => Sys2Proof.Machine.execTileRetire die tile fault again s
  | .rehearsal die cluster array => Sys2Proof.Machine.execRehearsal die cluster array s
  | .rehearsalEnd die cluster array run => Sys2Proof.Machine.execRehearsalEnd die cluster array run s
  | .rehearsalTableReload die => Sys2Proof.Machine.execRehearsalTableReload die s
  | .detectionLimit die cluster array => Sys2Proof.Machine.execDetectionLimit die cluster array s
  | .keepwarmLoop die loops short => Sys2Proof.Machine.execKeepwarmLoop die loops short s
  | .scrubGranule mem granule what finding => Sys2Proof.Machine.execScrubGranule mem granule what finding s
  | .memErased mem gang symbol => Sys2Proof.Machine.execMemErased mem gang symbol s
  | .roomPromote realm room => Sys2Proof.Machine.execRoomPromote realm room s
  | .roomDemote realm die => Sys2Proof.Machine.execRoomDemote realm die s
  | .cellarInitUnit unit => Sys2Proof.Machine.execCellarInitUnit unit s
  | .duplexCompare subj faultA faultB => Sys2Proof.Machine.execDuplexCompare subj faultA faultB s
  | .dpxWaitTimeout subj missing => Sys2Proof.Machine.execDpxWaitTimeout subj missing s
  | .duplexVerdict subj a b => Sys2Proof.Machine.execDuplexVerdict subj a b s
  | .duplexSplit pair => Sys2Proof.Machine.execDuplexSplit pair s
  | .extendedTestDone el pass => Sys2Proof.Machine.execExtendedTestDone el pass s
  | .islandHeartbeat sender arrived => Sys2Proof.Machine.execIslandHeartbeat sender arrived s
  | .islandLost lost => Sys2Proof.Machine.execIslandLost lost s
  | .haltNotice sender => Sys2Proof.Machine.execHaltNotice sender s
  | .islandMismatch isl cycles => Sys2Proof.Machine.execIslandMismatch isl cycles s
  | .signatureWindowClose isl same cycles => Sys2Proof.Machine.execSignatureWindowClose isl same cycles s
  | .islandVerdict isl verdict => Sys2Proof.Machine.execIslandVerdict isl verdict s
  | .islandLatent isl same mainParity checkerParity => Sys2Proof.Machine.execIslandLatent isl same mainParity checkerParity s
  | .islandLatentLimit isl => Sys2Proof.Machine.execIslandLatentLimit isl s
  | .selfTestSlice isl mainCore pass => Sys2Proof.Machine.execSelfTestSlice isl mainCore pass s
  | .debugSession lic => Sys2Proof.Machine.execDebugSession lic s
  | .debugAction target act => Sys2Proof.Machine.execDebugAction target act s
  | .flitReceive link dir seq flit errors => Sys2Proof.Machine.execFlitReceive link dir seq flit errors s
  | .replayLimit link goodFwd goodRev => Sys2Proof.Machine.execReplayLimit link goodFwd goodRev s
  | .laneErrorThreshold link dir lane errors => Sys2Proof.Machine.execLaneErrorThreshold link dir lane errors s
  | .laneSpared link dir lane => Sys2Proof.Machine.execLaneSpared link dir lane s
  | .linkNarrowed link dir => Sys2Proof.Machine.execLinkNarrowed link dir s
  | .linkRetrain link goodFwd goodRev us => Sys2Proof.Machine.execLinkRetrain link goodFwd goodRev us s
  | .mgmtSegmentBreak seg => Sys2Proof.Machine.execMgmtSegmentBreak seg s
  | .partialReset die train => Sys2Proof.Machine.execPartialReset die train s
  | .partialResetRejoin die => Sys2Proof.Machine.execPartialResetRejoin die s
  | .mrstRelease straps railsGood => Sys2Proof.Machine.execMrstRelease straps railsGood s
  | .mrstAssert => Sys2Proof.Machine.execMrstAssert s
  | .bootSlot slot image => Sys2Proof.Machine.execBootSlot slot image s
  | .sibFirmwareVerify load => Sys2Proof.Machine.execSibFirmwareVerify load s
  | .stewardLoad => Sys2Proof.Machine.execStewardLoad s
  | .linkTrainingDone ends hbmIds goodFwd goodRev => Sys2Proof.Machine.execLinkTrainingDone ends hbmIds goodFwd goodRev s
  | .manifestCheck m => Sys2Proof.Machine.execManifestCheck m s
  | .memoryTrainingDone stacksBad cellarBad => Sys2Proof.Machine.execMemoryTrainingDone stacksBad cellarBad s
  | .bootRehearsalDone arraysBad enginesBad => Sys2Proof.Machine.execBootRehearsalDone arraysBad enginesBad s
  | .hostWindowsReady => Sys2Proof.Machine.execHostWindowsReady s
  | .bootResume => Sys2Proof.Machine.execBootResume s
  | .perstAssert port => Sys2Proof.Machine.execPerstAssert port s
  | .functionLevelReset port => Sys2Proof.Machine.execFunctionLevelReset port s
  | .busMasterEnableFall port => Sys2Proof.Machine.execBusMasterEnableFall port s
  | .islandReset isl => Sys2Proof.Machine.execIslandReset isl s
  | .wake => Sys2Proof.Machine.execWake s
  | .undervoltage rail => Sys2Proof.Machine.execUndervoltage rail s
  | .refclkSysLoss => Sys2Proof.Machine.execRefclkSysLoss s
  | .refclkSwitch toTime => Sys2Proof.Machine.execRefclkSwitch toTime s
  | .islandClockLoss isl => Sys2Proof.Machine.execIslandClockLoss isl s
  | .avsFault die level => Sys2Proof.Machine.execAvsFault die level s
  | .avsConfirmTimeout die => Sys2Proof.Machine.execAvsConfirmTimeout die s
  | .sensorSample sample => Sys2Proof.Machine.execSensorSample sample s
  | .thermalTrip die => Sys2Proof.Machine.execThermalTrip die s
  | .thermalThrottle => Sys2Proof.Machine.execThermalThrottle s
  | .flowStop => Sys2Proof.Machine.execFlowStop s
  | .limpExit => Sys2Proof.Machine.execLimpExit s
  | .flowSensor => Sys2Proof.Machine.execFlowSensor s
  | .wearWrite => Sys2Proof.Machine.execWearWrite s
  | .dormantInletSample reading => Sys2Proof.Machine.execDormantInletSample reading s
  | .powerRemoval => Sys2Proof.Machine.execPowerRemoval s
  | .perstRelease port => Sys2Proof.Machine.execPerstRelease port s
  | .islandResetRelease isl firmwareOk => Sys2Proof.Machine.execIslandResetRelease isl firmwareOk s
  | .railsGood => Sys2Proof.Machine.execRailsGood s
  | .romSelfTest siaGood sibGood => Sys2Proof.Machine.execRomSelfTest siaGood sibGood s
  | .debugSessionClose => Sys2Proof.Machine.execDebugSessionClose s

end Sys2Proof.Machine
end

