-- ==== Sys2Proof/Safety.lean ====
section
/-! DEFINITION. What counts as a sound state and a safe run, in the terms that statements use. -/

namespace Sys2Proof.Machine

/-- The parts of a state that soundness speaks of: the register file, the active and the shadow copy of the banks and the saved return copy are
in canonical form, and so are the memories of hosts, windows and rooms; the jobs in flight stand in the order of their acceptance, each number below the
counter, each with banks in canonical form; in DRIVE the in-drive flag is set (R29, R225, R226, R250). -/
def SoundOf (reg active shadow saved : List (Nat × Nat)) (host win room : List Host.Cell) (jobs : List Job) (ctr : Nat) (op : OpState)
    (drive : Bool) : Prop :=
  (tcanon resetOf reg = true ∧ tcanon resetOf active = true ∧ tcanon resetOf shadow = true ∧ tcanon resetOf saved = true) ∧
  (tcanon (fun _ => 0) host = true ∧ tcanon (fun _ => 0) win = true ∧ tcanon (fun _ => 0) room = true) ∧
  (jobs.Pairwise (fun a b => a.acc < b.acc) ∧ ∀ j ∈ jobs, j.acc < ctr ∧ tcanon resetOf j.banks = true) ∧
  (op = .drive → drive = true)

/-- A sound state: what every step keeps. -/
abbrev Sound (s : State) : Prop :=
  SoundOf s.reg s.active s.shadow s.lodging.saved s.mem.host s.mem.win s.mem.room s.jobs s.accCtr s.op s.inDrive

/-- Whether a write to the register at an offset only writes its fields: it is none of those whose write does something more (R221, R254 to R259, R263, R282, R349,
R371, R373). -/
def plainOffset (off : Nat) : Bool :=
  !([0x0000, 0x0030, 0x0400, 0x1408, 0x140C, 0x1420, 0x1428, 0x1644, 0x1900].contains off ||
    (decide (0x100 ≤ off) && decide (off < 0x200) && off % 0x20 == 0x10) || (decide (0x4000 ≤ off) && decide (off < 0x4780) && off % 0x40 == 0) ||
    (decide (0x4300 ≤ off) && decide (off < 0x4400) && off % 0x40 == 0x38))

/-- A job command with what it stands for: whether a job is one of it, its checks, its body, whether its result is compared (R228 to R236), and the engines
whose golden workload of the frame comes before it (R310). -/
structure JobForm where
  cmd : JobRun → Instr
  mine : Job → Bool
  pre : State → Job → PreOut
  work : Job → State → State × Except Fail JobResult
  duplex : State → Job → Bool
  engines : List Nat := []

/-- The commands of jobs that run as soon as they start. -/
def jobForms (a : Nat) : List JobForm :=
  [⟨.graph a, fun j => jType j == 1, graphPre, runGraph, jobDuplex, []⟩,
   ⟨.step a, fun j => jType j == 2, graphPre, runGraph, jobDuplex, []⟩,
   ⟨.prefill a, fun j => jType j == 3, graphPre, runGraph, jobDuplex, []⟩,
   ⟨.fuseReplay a, fun j => jType j == 4 && jReplay j, fuseReplayPre, fuseReplayWork, engineDuplex, [0, 1]⟩,
   ⟨.planReplay a, fun j => jType j == 5 && jReplay j, planReplayPre, planReplayWork, engineDuplex, [2, 3]⟩,
   ⟨.move a, fun j => jType j == 6, movePre, moveWork, once, []⟩,
   ⟨.roomsCreate a, fun j => jType j == 7 && dF j 48 1 == 0, roomsPre createPre, createWork, once, []⟩,
   ⟨.roomsFork a, fun j => jType j == 7 && dF j 48 1 == 1, roomsPre forkPre, forkWork, once, []⟩,
   ⟨.roomsTruncate a, fun j => jType j == 7 && dF j 48 1 == 2, roomsPre truncatePre, truncateWork, once, []⟩,
   ⟨.roomsFree a, fun j => jType j == 7 && dF j 48 1 == 3, roomsPre freePre, fun j => cutTable j 0 0, once, []⟩,
   ⟨.roomsLoad a, fun j => jType j == 7 && dF j 48 1 == 4, roomsPre loadPre, loadWork, once, []⟩,
   ⟨.roomsSave a, fun j => jType j == 7 && dF j 48 1 == 5, roomsPre savePre, saveWork, once, []⟩,
   ⟨.roomsPlace a, fun j => jType j == 7 && dF j 48 1 == 6, roomsPre placePre, placeWork, once, []⟩,
   ⟨.digestCheck a, fun j => jType j == 10, digestCheckPre, digestCheckWork, once, []⟩]

/-- Whether a job with an acceptance number may start now and passes the checks that every job type has (R231, R232, R234). -/
def Starts (s : State) (a : Nat) (j : Job) : Prop :=
  findJob s a = some j ∧ j.phase = .accepted ∧ mayStart s j = true ∧ headFail s j (bodyFaults j) = none ∧ digestFail s j = none

/-- A command runs to a next state that has a property. -/
def Runs (i : Instr) (s : State) (P : State → Prop) : Prop := ∃ t, exec i s = .next t ∧ P t

/-- One byte of a host's memory. -/
def hostByte (s : State) (port addr : Nat) : Byte := tget 0 (hostKey port addr) s.mem.host

/-- Whether a byte of host memory lies in the event ring of a port (R240, R242). -/
def inEventRing (s : State) (key : Nat) : Prop :=
  ∃ p i, i < 32 * evtEntries s p ∧ key = hostKey p (evtBase s p + i)

/-- What event records alone can change: the ports' bookkeeping, the hosts' memory and the class of the last fault record (R242, R245). -/
def Told (s t : State) : Prop :=
  ∃ hosts host cls, t = { s with hosts := hosts, mem := { s.mem with host := host }, lastClass := cls }

/-- Every byte of the hosts' memory outside the event rings reads as before. -/
def OnlyEventRings (s t : State) : Prop :=
  ∀ k, ¬ inEventRing s k → tget (0 : Byte) k t.mem.host = tget 0 k s.mem.host

/-- Every field outside `ks` of the registers that are not RWS reads as before. -/
def RegsKept (ks : List Nat) (s t : State) : Prop := ∀ k, k ∉ ks → regGet t k = regGet s k

/-- A state is one in which an event has just been offered to whom it concerns (R242); the state before that offer has a property. -/
def Tells (d : EvDest) (e : Ev) (t : State) (P : State → Prop) : Prop := ∃ u, t = raise d e u ∧ P u

/-- What follows when the enable, the fill or the failure of an ingress port has changed (R276, R277, R282): its watermarks ask for the hold from the high one up and
until the low one; the hold then stands exactly while they ask for it or the port does not run, each assertion is counted, and where the port's MAC sends PAUSE
frames an assertion sends one of 0xFFFF quanta and a release one of 0. -/
def HoldFollows (p : Nat) (s t : State) : Prop :=
  let held := fun u : State => regGet u (K.ING_HOLD_asserted p) == 1
  (ingOf t p).high = (if 4096 * actGet s (K.ING_WM_high_4k p) ≤ fifoFill t p then true
    else if fifoFill t p ≤ 4096 * actGet s (K.ING_WM_low_4k p) then false else (ingOf s p).high) ∧
  held t = (!portRuns t p || (ingOf t p).high) ∧
  regGet t (K.ING_HOLD_COUNT_count p) = (if held t = true ∧ held s = false then satInc max32 (regGet s (K.ING_HOLD_COUNT_count p))
    else regGet s (K.ING_HOLD_COUNT_count p)) ∧
  (∀ m, macOf t m = if 12 ≤ p ∧ p < 16 ∧ m = p - 12 ∧ held t ≠ held s ∧ regGet s (K.ETH_TX_CTRL_pause_en m) = 1
    then { macOf s m with sent := (macOf s m).sent ++ [.pause (if held t = true then 0xFFFF else 0)], pauseAt := s.ticks } else macOf s m)

/-- The engines that serve, of a list, each let one result or plan go ahead of its golden workload (R144, R310). -/
def letAll (es : List Nat) (s : State) : State := (es.filter (engineServes s)).foldl (fun s e => letGo e s) s

/-- A packet comes to the FIFO of an ingress port (R271, R278): where it fits outside the reserve of 32 bytes it is its last item; else it is lost, counted, and in
the gap marker at the FIFO's end. No other port changes, and no register but the port's counts and its hold. -/
def Enters (p : Nat) (x : Packet) (s t : State) : Prop :=
  (fits s p (.packet x) = true → (ingOf t p).items = (ingOf s p).items ++ [.packet x]) ∧
  (fits s p (.packet x) = false →
    regGet t (K.ING_LOST_PKTS_count p) = satInc max32 (regGet s (K.ING_LOST_PKTS_count p)) ∧
    regGet t (K.ING_LOST_BYTES_count p) = min max32 (regGet s (K.ING_LOST_BYTES_count p) + x.payload.length) ∧
    ∃ l g, (ingOf t p).items = l ++ [.gap g] ∧ g.last = x.stamp ∧
      ((∃ h, (ingOf s p).items = l ++ [.gap h] ∧ g.first = h.first ∧ g.count = satInc max32 h.count) ∨
       (l = (ingOf s p).items ∧ g.stream = x.stream ∧ g.first = x.stamp ∧ g.count = 1))) ∧
  (∀ q, q ≠ p → ingOf t q = ingOf s q) ∧ t = { s with reg := t.reg, ing := t.ing } ∧
  RegsKept [K.ING_LOST_PKTS_count p, K.ING_LOST_BYTES_count p, K.ING_HOLD_asserted p, K.ING_HOLD_COUNT_count p] s t

/-- A packet at an ingress port is discarded and counted (R262, R270, R275, R282), and nothing else changes. -/
def Discards (p : Nat) (s t : State) : Prop :=
  regGet t (K.ING_DISCARD_count p) = satInc max32 (regGet s (K.ING_DISCARD_count p)) ∧ t = { s with reg := t.reg } ∧
  RegsKept [K.ING_DISCARD_count p] s t

/-- Bytes of a realm's window are stored at some addresses and nowhere else (R156, R327): every other byte keeps its value, in both copies of the mirrored window. -/
def WinKept (r : Nat) (stored : List (Nat × Nat)) (s t : State) : Prop :=
  ∀ k, (∀ e ∈ stored, ∀ i < e.2, k ≠ winKey r (e.1 + i) ∧ (mirrored r e.1 = true → k ≠ winKey r (e.1 + i) + mirrorKey)) →
    tget (0 : Byte) k t.mem.win = tget 0 k s.mem.win

/-- A record of whole 32-byte units is written into a ring of a realm (R272): where it would cross the ring's end, behind a pad record that fills the rest; the producer
in the control block then stands after it. No other byte of the windows changes. -/
def RingTakes (r : PktRing) (port : Nat) (bs : List Byte) (s t : State) : Prop :=
  let pos := r.producer % r.size
  let pad := if pos + bs.length ≤ r.size then 0 else r.size - pos
  let base := r.cb + 4096
  fieldAt (realmRead t r.realm r.cb 8) 0 8 = (r.producer + pad + bs.length) % 2 ^ 64 ∧
  (pad ≠ 0 → realmRead t r.realm (base + pos) 32 = leBytes 4 (pad - 32) ++ [2] ++ leBytes 1 port ++ zeros 26) ∧
  realmRead t r.realm (base + (r.producer + pad) % r.size) bs.length = bs ∧
  WinKept r.realm ([(r.cb, 8), (base + (r.producer + pad) % r.size, bs.length)] ++ if pad = 0 then [] else [(base + pos, 32)]) s t

/-- The producer of a ring after a record of `n` bytes (R272). -/
def ringAfter (r : PktRing) (n : Nat) : Nat := r.producer + (if r.producer % r.size + n ≤ r.size then 0 else r.size - r.producer % r.size) + n

/-- Whether a ring in a realm's window has a record's space free, its consumer in range (R272). -/
def RingFree (r : PktRing) (n : Nat) (s : State) : Prop :=
  consOk s r = true ∧ r.cb + 4096 + r.size ≤ hostWinBase ∧ r.producer % 32 = 0 ∧ ringAfter r n - ringCons s r ≤ r.size

/-- TILE_ISSUE can put a tile of a node of a job in flight: the tile is ready and its turn has come (R134 to R136, R365, R395), its place takes it
(R141, R145), is none it has failed at (R152), and need not rehearse first (R144). -/
def Issues (s : State) (d : Nat) (x : TileDesc) (j : Job) (n : GNode) : Prop :=
  let c := x.cluster.val
  let a := x.array.val
  findJob s x.job = some j ∧ (jobGraph s j).nodes[x.node]? = some n ∧ running s = true ∧ dieIn s d = true ∧
  mayIssue s d x j (jobGraph s j) n = true ∧ placeTakes s d x.work.kind x.realm.val c a = true ∧
  (c, if x.work.kind = .array then a else 0) ∉ failedAt (engineOf s d) x ∧ (x.work.kind = .array → mustRehearse s d (c * 8 + a) = false)

/-- Only the engine of one die changes. -/
def EnginesKept (d : Nat) (s t : State) : Prop := ∀ c, c ≠ d → engineOf t c = engineOf s c

/-- The out-of-turn rehearsals of a die once an array has passed: it is taken out of each, and one that waited for it alone has ended (R150). -/
def callsAfter (e : Engine) (i : Nat) : List (Nat × List Nat) := e.called.map fun q => (q.1, q.2.filter (· != i))

/-- The detections that the pass of an array ends (R150). -/
def callsEnded (e : Engine) (i : Nat) : Nat := ((callsAfter e i).filter fun q => q.2.isEmpty && decide (q.1 < 1000)).length

/-- One register field is changed, by a function of its value, and nothing else. -/
def FieldSet (k : Nat) (f : Nat → Nat) (s t : State) : Prop := regGet t k = f (regGet s k) ∧ t = { s with reg := t.reg } ∧ RegsKept [k] s t

/-- Each die whose steward has not refused its code gets the voltage of its highest level; no other sensor of a die changes. -/
def FirstRails (refused : List Nat) (s t : State) : Prop :=
  t.thm = { s.thm with dies := t.thm.dies } ∧ ∀ d : Fin 4,
    thermOf t d = { thermOf s d with rail := if d.val ∈ refused then (thermOf s d).rail else ((List.range 4).map fun g => levelMv (levelOf s d g)).foldl max 0 }

end Sys2Proof.Machine
end

