-- ==== Sys2Proof/Certificates/Slice0/Obligations.lean ====
section
/-! DEFINITION. The statements for the provers. Each says what a command, or every command, does to the state of the block.
`Runs c s P`: command `c` ends in a next state of which `P` holds. `t = { s with f := t.f }` says that nothing but `f` differs from `s`;
`RegsKept ks s t` that no register field outside `ks` does; `Tells d e t P` that `t` is a state with `P` in which event `e` has then been offered to `d`. -/

open Sys2Proof Sys2Proof.Machine

/-! The machine as a whole -/

/-- One step on a queue runs the command at its front, by exec, with the rest of the queue (the row's form of a step; notes/assumptions/1); on an empty queue the block idles (the
model's own choice, notes/assumptions/1). -/
def Obligations.StepRunsFrontCommand : Prop :=
  (∀ (c : Instr) (rest : List Instr) (s : State), step { s with pending := c :: rest } = exec c { s with pending := rest }) ∧
  (∀ s : State, s.pending = [] → step s = .next s)

/-- No command stops the block: each ends in a next state, whatever the state (every row of the opcode table has an effect, if only to be ignored).
The model's own readings in it: notes/assumptions/1, 8. -/
def Obligations.EveryCommandAnswers : Prop := ∀ (c : Instr) (s : State), Runs c s fun _ => True

/-- Every step keeps soundness: register file, banks and memories in canonical form, jobs in the order of their acceptance, the in-drive flag set in DRIVE (R226, R250, R29).
The model's own readings in it: notes/assumptions/4. -/
def Obligations.StepKeepsSound : Prop := ∀ s t : State, Sound s → step s = .next t → Sound t

/-- The reset state is sound.
The model's own readings in it: notes/assumptions/3. -/
def Obligations.ResetIsSound : Prop := Sound State.reset

/-- After reset every field of the register map reads its reset value in all copies, the block is off with nothing in flight, and no memory holds anything (R7, R411).
The model's own readings in it: notes/assumptions/3, 4, 6, 7. -/
def Obligations.ResetState : Prop :=
  (∀ k, regGet State.reset k = resetOf k ∧ actGet State.reset k = resetOf k ∧ shGet State.reset k = resetOf k) ∧
  State.reset.op = .off ∧ State.reset.pending = [] ∧ State.reset.jobs = [] ∧ State.reset.mem = Memory.init ∧ State.reset.inDrive = false

/-! The set-up window: host ports and rings -/

/-- HOST_ENABLE and HOST_DISABLE (part of R221, R245, R248): an enable that meets the conditions sets the enable and clears HOST_STATUS.err, the count of lost events and, by
the model's own choice, the run of failed polls (notes/assumptions/23); a disable clears the enable, and HRDY_n falls. Neither changes anything else of the port,
another port or anything else of the block. -/
def Obligations.HostPortSwitch : Prop :=
  (∀ (p : Fin 4) (s : State), windowOpen s p = true → hostOn s p = false → doorbellAt s p ≠ 0 → statusAt s p ≠ 0 → (portOf s p).busMaster = true →
    Runs (.hostEnable p) s fun t => hostOn t p = true ∧ regGet t (K.HOST_STATUS_err p) = 0 ∧
      portOf t p = { portOf s p with dropped := 0, pollFails := 0 } ∧ (∀ q, q ≠ p.val → portOf t q = portOf s q) ∧
      t = { s with reg := t.reg, hosts := t.hosts } ∧ RegsKept [K.HOST_CTRL_enable p, K.HOST_STATUS_err p] s t) ∧
  (∀ (p : Fin 4) (s : State), windowOpen s p = true → Runs (.hostDisable p) s fun t =>
    hostOn t p = false ∧ hrdy t p = false ∧
      portOf t p = { portOf s p with ready := false, falls := (portOf s p).falls + (portOf s p).ready.toNat } ∧
      (∀ q, q ≠ p.val → portOf t q = portOf s q) ∧ t = { s with reg := t.reg, hosts := t.hosts } ∧ RegsKept [K.HOST_CTRL_enable p] s t)

/-- RING_ENABLE, RING_DISABLE, EVENT_RING_ENABLE and EVENT_RING_DISABLE (part of R221, R222): an enabled ring starts with every index at 0.
The model's own readings in it: notes/assumptions/24. -/
def Obligations.RingSwitch : Prop :=
  (∀ (p : Fin 4) (i : Fin 8) (l : Fin 16) (s : State), windowOpen s p = true → ringOn s p i = false → l.val ≤ 12 → ringIdle s p i = true →
    Runs (.ringEnable p i l) s fun t => ringOn t p i = true ∧ ringEntries t p i = 2 ^ l.val ∧ regGet t (K.RING_STATUS_err p i) = 0 ∧
      ringOf t p i = ⟨0, 0, 0, 0, false⟩ ∧ t = { s with reg := t.reg, hosts := t.hosts } ∧
      RegsKept [K.RING_CTRL_enable p i, K.RING_CTRL_log2_entries p i, K.RING_STATUS_err p i] s t) ∧
  (∀ (p : Fin 4) (i : Fin 8) (l : Fin 16) (s : State), windowOpen s p = true → ringOn s p i = true → Runs (.ringDisable p i l) s fun t =>
    ringOn t p i = false ∧ t = { s with reg := t.reg } ∧ RegsKept [K.RING_CTRL_enable p i] s t) ∧
  (∀ (p : Fin 4) (l : Fin 16) (s : State), windowOpen s p = true → evtOn s p = false → 6 ≤ l.val → l.val ≤ 12 →
    Runs (.eventRingEnable p l) s fun t => evtOn t p = true ∧ evtEntries t p = 2 ^ l.val ∧ regGet t (K.HOST_STATUS_err p) = 0 ∧
      (portOf t p).evtProducer = 0 ∧ (portOf t p).evtConsumer = 0 ∧ t = { s with reg := t.reg, hosts := t.hosts } ∧
      RegsKept [K.EVT_CTRL_enable p, K.EVT_CTRL_log2_entries p, K.HOST_STATUS_err p] s t) ∧
  (∀ (p : Fin 4) (l : Fin 16) (s : State), windowOpen s p = true → evtOn s p = true → Runs (.eventRingDisable p l) s fun t =>
    evtOn t p = false ∧ t = { s with reg := t.reg } ∧ RegsKept [K.EVT_CTRL_enable p] s t)

/-- Enables that are refused (part of R221, R401): a host with a zero address or without Bus Master Enable, a ring whose size lies outside its range or that is not
idle. The error is set, the enable stays 0, and a ring's refusal raises RING_REFUSED.
The model's own readings in it: notes/assumptions/24. -/
def Obligations.RefusedEnables : Prop :=
  (∀ (p : Fin 4) (s : State), windowOpen s p = true → hostOn s p = false → (doorbellAt s p = 0 ∨ statusAt s p = 0 ∨ (portOf s p).busMaster = false) →
    Runs (.hostEnable p) s fun t => hostOn t p = false ∧ regGet t (K.HOST_STATUS_err p) = 1 ∧ t = { s with reg := t.reg } ∧
      RegsKept [K.HOST_STATUS_err p] s t) ∧
  (∀ (p : Fin 4) (s : State), windowOpen s p = true → hostOn s p = true → exec (.hostEnable p) s = .next s) ∧
  (∀ (p : Fin 4) (i : Fin 8) (l : Fin 16) (s : State), windowOpen s p = true → ringOn s p i = false → (13 ≤ l.val ∨ ringIdle s p i = false) →
    Runs (.ringEnable p i l) s fun t => Tells (.port p) ⟨0x0004, 0, true, portNode p, i, l, 0⟩ t fun u =>
      ringOn u p i = false ∧ regGet u (K.RING_STATUS_err p i) = 1 ∧ u = { s with reg := u.reg } ∧
      RegsKept [K.RING_CTRL_log2_entries p i, K.RING_STATUS_err p i] s u) ∧
  (∀ (p : Fin 4) (l : Fin 16) (s : State), windowOpen s p = true → evtOn s p = false → (l.val ≤ 5 ∨ 13 ≤ l.val) →
    Runs (.eventRingEnable p l) s fun t => Tells (.port p) ⟨0x0004, 0, true, portNode p, 8, l, 0⟩ t fun u =>
      evtOn u p = false ∧ regGet u (K.HOST_STATUS_err p) = 1 ∧ u = { s with reg := u.reg } ∧
      RegsKept [K.EVT_CTRL_log2_entries p, K.HOST_STATUS_err p] s u)

/-- PORT_ENABLE and PORT_DISABLE (part of R276, R277, R282): they write ING_CTRL of a port, and its hold follows, with its count and its PAUSE frames (`HoldFollows`); of the port
they change only what its watermarks ask for, its FIFO stays, and a disabled port whose FIFO is empty has its hold asserted.
ETH_TX_RING_ENABLE (part of R263, R284): sizes 2 to 8 enable the ring, from index 0 where it was off; another size raises RING_REFUSED with arg0 9 and leaves the enable, and
where the ring is on its size, as they were. Nothing else of the block changes.
The model's own readings in it: notes/assumptions/24, 92. -/
def Obligations.IngressPortSwitch : Prop :=
  (∀ (g : Fin 30) (b on : Bool) (p : Fin 4) (s : State) (c : Instr), (c = .portEnable p g b ∧ on = true ∨ c = .portDisable p g b ∧ on = false) →
    windowOpen s p = true → p.val = s.mgrPort → Runs c s fun t =>
      regGet t (K.ING_CTRL_enable g) = on.toNat ∧ regGet t (K.ING_CTRL_test_line g) = b.toNat ∧ HoldFollows g s t ∧
      (on = false → (ingOf s g).items = [] → regGet t (K.ING_HOLD_asserted g) = 1) ∧
      ingOf t g = { ingOf s g with high := (ingOf t g).high } ∧ (∀ q, q ≠ g.val → ingOf t q = ingOf s q) ∧
      t = { s with reg := t.reg, ing := { s.ing with ports := t.ing.ports, macs := t.ing.macs } } ∧
      RegsKept [K.ING_CTRL_enable g, K.ING_CTRL_test_line g, K.ING_HOLD_asserted g, K.ING_HOLD_COUNT_count g] s t) ∧
  (∀ (m : Fin 4) (l : Fin 16) (b : Bool) (p : Fin 4) (s : State), windowOpen s p = true → p.val = s.mgrPort → 2 ≤ l.val → l.val ≤ 8 →
    Runs (.ethTxRingEnable p m l b) s fun t => regGet t (K.ETH_TX_CTRL_enable m) = 1 ∧ regGet t (K.ETH_TX_CTRL_log2_entries m) = l ∧
      regGet t (K.ETH_TX_CTRL_pause_en m) = b.toNat ∧
      macOf t m = (if regGet s (K.ETH_TX_CTRL_enable m) = 1 then macOf s m else { macOf s m with txCons := 0 }) ∧
      (∀ q, q ≠ m.val → macOf t q = macOf s q) ∧ t = { s with reg := t.reg, ing := { s.ing with macs := t.ing.macs } } ∧
      RegsKept [K.ETH_TX_CTRL_enable m, K.ETH_TX_CTRL_log2_entries m, K.ETH_TX_CTRL_pause_en m] s t) ∧
  (∀ (m : Fin 4) (l : Fin 16) (b : Bool) (p : Fin 4) (s : State), windowOpen s p = true → p.val = s.mgrPort → (l.val < 2 ∨ 8 < l.val) →
    Runs (.ethTxRingEnable p m l b) s fun t => Tells (.port p) ⟨0x0004, 0, true, portNode p, 9, l, 0⟩ t fun u =>
      regGet u (K.ETH_TX_CTRL_enable m) = regGet s (K.ETH_TX_CTRL_enable m) ∧
      regGet u (K.ETH_TX_CTRL_log2_entries m) = (if regGet s (K.ETH_TX_CTRL_enable m) = 1 then regGet s (K.ETH_TX_CTRL_log2_entries m) else l.val) ∧
      regGet u (K.ETH_TX_CTRL_pause_en m) = b.toNat ∧ u = { s with reg := u.reg } ∧
      RegsKept [K.ETH_TX_CTRL_log2_entries m, K.ETH_TX_CTRL_pause_en m] s u)

/-! The time base -/

/-- The increment (R254): the pair is written by TB_INC_INT and applies at the next tick; a pair beyond 8,589,934 units of nominal is refused, and INC stays. -/
def Obligations.TimeBaseIncrement : Prop :=
  (∀ (p : Fin 4) (int : BitVec 8) (s : State), windowOpen s p = true → p.val = s.mgrPort →
    2 ^ 33 ≤ int.toNat * 2 ^ 32 + regGet s K.TB_INC_FRAC_frac + 8589934 → int.toNat * 2 ^ 32 + regGet s K.TB_INC_FRAC_frac ≤ 2 ^ 33 + 8589934 →
    Runs (.tbIncCommit p int) s fun t => regGet t K.TB_INC_INT_int = int.toNat ∧
      t = { s with reg := t.reg, time := { s.time with incNext := some (int.toNat * 2 ^ 32 + regGet s K.TB_INC_FRAC_frac) } } ∧
      RegsKept [K.TB_INC_INT_int] s t) ∧
  (∀ (p : Fin 4) (int : BitVec 8) (s : State), windowOpen s p = true → p.val = s.mgrPort →
    (int.toNat * 2 ^ 32 + regGet s K.TB_INC_FRAC_frac + 8589934 < 2 ^ 33 ∨ 2 ^ 33 + 8589934 < int.toNat * 2 ^ 32 + regGet s K.TB_INC_FRAC_frac) →
    Runs (.tbIncCommit p int) s fun t => Tells .manager ⟨0x0401, 0, false, 0x44C0, int.toNat, regGet s K.TB_INC_FRAC_frac, 0⟩ t fun u =>
      regGet u K.TB_STATUS_inc_refused = 1 ∧ u = { s with reg := u.reg } ∧ RegsKept [K.TB_INC_INT_int, K.TB_STATUS_inc_refused] s u) ∧
  (∀ (p : Fin 4) (v : BitVec 64) (s : State), windowOpen s p = true → p.val = s.mgrPort → Runs (.registerWrite p 0x1404 4 v) s fun t =>
    regGet t K.TB_INC_FRAC_frac = v.toNat % 2 ^ 32 ∧ t = { s with reg := t.reg } ∧ RegsKept [K.TB_INC_FRAC_frac] s t) ∧
  (∀ (n : Nat) (s : State), 0 < n → s.op ≠ .off → Runs (.timeBaseTick n) s fun t =>
    t.time.inc = s.time.incNext.getD s.time.inc ∧ t.time.incNext = none) ∧
  State.reset.time.inc = 2 * 2 ^ 32

/-- A phase step (R256, part of R255): one within the limit, with none before it, is stored for the next tick; 0 does nothing; a refused one names the first of its
reasons and leaves the time base as it is. -/
def Obligations.TimeBaseStep : Prop :=
  (∀ (p : Fin 4) (ns : BitVec 32) (s : State), windowOpen s p = true → p.val = s.mgrPort → ns ≠ 0 →
    ns.toInt.natAbs ≤ jumpLimit s → s.time.debt = 0 → s.time.step = none → tbValid s = true →
    exec (.tbStep p ns) s = .next { s with time := { s.time with step := some ns.toInt } }) ∧
  (∀ (p : Fin 4) (s : State), windowOpen s p = true → p.val = s.mgrPort → exec (.tbStep p 0) s = .next s) ∧
  (∀ (p : Fin 4) (ns : BitVec 32) (s : State) (why : Nat), windowOpen s p = true → p.val = s.mgrPort → ns ≠ 0 →
    ((jumpLimit s < ns.toInt.natAbs ∧ why = 0) ∨
      (ns.toInt.natAbs ≤ jumpLimit s ∧ (s.time.debt ≠ 0 ∨ s.time.step.isSome = true) ∧ why = 1) ∨
      (ns.toInt.natAbs ≤ jumpLimit s ∧ s.time.debt = 0 ∧ s.time.step = none ∧ tbValid s = false ∧ why = 2)) →
    Runs (.tbStep p ns) s fun t => Tells .manager ⟨0x0402, 0, true, 0x44C0, ns.toNat, why, 0⟩ t fun u =>
      regGet u K.TB_STATUS_step_refused = 1 ∧ u = { s with reg := u.reg } ∧ RegsKept [K.TB_STATUS_step_refused] s u) ∧
  jumpLimit State.reset = 1000

/-- BASELINE (R257): loads the written time at the next tick, ends a hold, raises TB_GEN and sets valid; refused in drive, before that with 10^9 ns or more. -/
def Obligations.TimeBaseBaseline : Prop :=
  (∀ (p : Fin 4) (s : State), windowOpen s p = true → p.val = s.mgrPort → s.inDrive = false → regGet s K.TB_BASE_NS_ns < 1000000000 →
    exec (.tbBaseline p) s = .next { s with time := { s.time with base := some (
      (regGet s K.TB_BASE_SEC_LO_sec + 2 ^ 32 * regGet s K.TB_BASE_SEC_HI_sec) * (1000000000 * 2 ^ 32) + regGet s K.TB_BASE_NS_ns * 2 ^ 32) } }) ∧
  (∀ (p : Fin 4) (s : State), windowOpen s p = true → p.val = s.mgrPort → (s.inDrive = true ∨ 1000000000 ≤ regGet s K.TB_BASE_NS_ns) →
    Runs (.tbBaseline p) s fun t => Tells .manager ⟨0x0403, 0, true, 0x44C0, if s.inDrive then 0 else 1, 0, 0⟩ t fun u =>
      regGet u K.TB_STATUS_baseline_refused = 1 ∧ u = { s with reg := u.reg } ∧ RegsKept [K.TB_STATUS_baseline_refused] s u) ∧
  (∀ (v : Nat) (s : State), s.op ≠ .off → s.time.base = some v → Runs (.timeBaseTick 1) s fun t =>
    t.tbUnits = v ∧ t.time.debt = 0 ∧ t.time.base = none ∧ t.time.step = none ∧ regGet t K.TB_STATUS_valid = 1 ∧ regGet t K.TB_STATUS_holding = 0 ∧
    regGet t K.TB_GEN_gen = (regGet s K.TB_GEN_gen + 1) % 2 ^ 32)

/-- Ticks (part of R253, R255): each adds INC; a positive step adds itself at the first; under a hold that outlasts them the time base stands and the debt falls by INC at each,
and the tick at which the debt falls below INC adds the rest. The last clause is the frame, outside a release that waits for a LIMP entry.
TB_SNAP latches the time base field by field and changes nothing else (part of R259). -/
def Obligations.TimeBaseTicks : Prop :=
  ((∀ (n : Nat) (s : State), 0 < n → s.op ≠ .off → s.time.base = none → s.time.step = none → s.time.debt = 0 → 0 < s.time.incNext.getD s.time.inc →
    Runs (.timeBaseTick n) s fun t => t.tbUnits = s.tbUnits + n * s.time.incNext.getD s.time.inc ∧ t.time.debt = 0 ∧ t.ticks = s.ticks + n) ∧
  (∀ (n d : Nat) (s : State), 0 < n → s.op ≠ .off → s.time.base = none → s.time.step = some (Int.ofNat d) → s.time.debt = 0 →
    0 < s.time.incNext.getD s.time.inc → Runs (.timeBaseTick n) s fun t =>
      t.tbUnits = s.tbUnits + d * 2 ^ 32 + n * s.time.incNext.getD s.time.inc ∧ t.time.step = none) ∧
  (∀ (n : Nat) (s : State), 0 < n → s.op ≠ .off → s.time.base = none → s.time.step = none → 0 < s.time.incNext.getD s.time.inc →
    n * s.time.incNext.getD s.time.inc < s.time.debt → Runs (.timeBaseTick n) s fun t =>
      t.tbUnits = s.tbUnits ∧ t.time.debt = s.time.debt - n * s.time.incNext.getD s.time.inc ∧ regGet t K.TB_STATUS_holding = 1) ∧
  (∀ s : State, s.op ≠ .off → s.time.base = none → s.time.step = none → s.time.debt < s.time.incNext.getD s.time.inc →
    Runs (.timeBaseTick 1) s fun t => t.tbUnits = s.tbUnits + s.time.incNext.getD s.time.inc - s.time.debt ∧ t.time.debt = 0 ∧
      regGet t K.TB_STATUS_holding = 0) ∧
  (∀ (n : Nat) (s : State), s.time.base = none → s.lodging.limpStop = false → Runs (.timeBaseTick n) s fun t =>
    t = { s with tbUnits := t.tbUnits, ticks := t.ticks, time := t.time, reg := t.reg, thm := t.thm })) ∧
  (∀ (p : Fin 4) (s : State), windowOpen s p = true → p.val = s.mgrPort → Runs (.tbSnap p) s fun t =>
    regGet t K.TB_SNAP_FRAC_frac = s.tbUnits % 2 ^ 32 ∧ regGet t K.TB_SNAP_NS_ns = s.tbUnits / 2 ^ 32 % 1000000000 ∧
    regGet t K.TB_SNAP_SEC_LO_sec = s.tbUnits / (2 ^ 32 * 1000000000) % 2 ^ 32 ∧
    regGet t K.TB_SNAP_SEC_HI_sec = s.tbUnits / (2 ^ 32 * 1000000000 * 2 ^ 32) % 2 ^ 16 ∧ t = { s with reg := t.reg } ∧
    RegsKept [K.TB_SNAP_FRAC_frac, K.TB_SNAP_NS_ns, K.TB_SNAP_SEC_LO_sec, K.TB_SNAP_SEC_HI_sec] s t)

/-! Reads and writes of the set-up window -/

/-- A 32-bit write does to each field what its access code says (R7): RW takes the value, W1C clears the bits written 1, RWS changes the shadow copy only, RO, WO and RC
keep theirs. For every register whose write does nothing more, by a host that may write it, with no curtain pending; both commands that write registers. -/
def Obligations.RegisterWriteByCode : Prop :=
  ∀ (p : Fin 4) (off : BitVec 16) (v : BitVec 32) (s : State), windowOpen s p = true → off.toNat % 4 = 0 → off.toNat < 0x8000 →
    foreign s p off.toNat = false → plainOffset off.toNat = true → s.curtain = none →
    (rowsAt off.toNat).Pairwise (fun a b => a.lo ≠ b.lo) →
    let after := fun t : State => (∀ r ∈ rowsAt off.toNat,
      let k := winFieldKey p off.toNat r.lo
      let x := bitsAt v.toNat r.lo (rowWidth r)
      (r.acc = .rw → regGet t k = if heldField s p off.toNat then regGet s k else x) ∧
      (r.acc = .w1c → regGet t k = Nat.land (regGet s k) (2 ^ rowWidth r - 1 - x)) ∧
      (r.acc = .rws → shGet t k = x) ∧
      (r.acc = .ro ∨ r.acc = .wo ∨ r.acc = .rc → regGet t k = regGet s k)) ∧
      t = { s with reg := t.reg, shadow := t.shadow } ∧ RegsKept ((rowsAt off.toNat).map fun r => winFieldKey p off.toNat r.lo) s t
    Runs (.registerWrite p off 4 (v.zeroExtend 64)) s after ∧ (hasW1c off.toNat = true → Runs (.w1cWrite p off v) s after)

/-- Writes and reads the module ignores (part of R219, R403 to R405): a global block by another host than the manager, the active view, a size or alignment
other than aligned 4 or 8 bytes. All but a read of a global block are counted in HOST_DENIED of the port.
While a curtain is pending, a write to a register with RWS fields leaves both copies of them as they are and is counted (part of R252).
The model's own readings in it: notes/assumptions/30. -/
def Obligations.DeniedAccess : Prop :=
  ((∀ (p : Fin 4) (off : BitVec 16) (size : Nat) (v : BitVec 64) (s : State), windowOpen s p = true →
    (goodAccess off.toNat size = false ∨ (size = 4 ∧ off.toNat % 4 = 0 ∧ (0x8000 ≤ off.toNat ∨ (blockAt off.toNat = .global ∧ p.val ≠ s.mgrPort)))) →
    Runs (.registerWrite p off size v) s fun t => regGet t (K.HOST_DENIED_count p) = satInc 0xFFFFFFFF (regGet s (K.HOST_DENIED_count p)) ∧
      t = { s with reg := t.reg } ∧ RegsKept [K.HOST_DENIED_count p] s t) ∧
  (∀ (p : Fin 4) (off : BitVec 16) (size : Nat) (s : State), windowOpen s p = true → goodAccess off.toNat size = false →
    Runs (.rcRead p off size) s fun t => t.lastRead = [0] ∧ regGet t (K.HOST_DENIED_count p) = satInc 0xFFFFFFFF (regGet s (K.HOST_DENIED_count p)) ∧
      t = { s with reg := t.reg, lastRead := [0] } ∧ RegsKept [K.HOST_DENIED_count p] s t) ∧
  (∀ (p : Fin 4) (off : BitVec 16) (s : State), windowOpen s p = true → off.toNat % 4 = 0 → blockAt (off.toNat % 0x8000) = .global →
    p.val ≠ s.mgrPort → exec (.rcRead p off 4) s = .next { s with lastRead := [0] })) ∧
  (∀ (p : Fin 4) (off : BitVec 16) (v : BitVec 64) (s : State), windowOpen s p = true → off.toNat % 4 = 0 → off.toNat < 0x8000 →
    foreign s p off.toNat = false → plainOffset off.toNat = true → s.curtain.isSome = true → (∀ r ∈ rowsAt off.toNat, r.acc = .rws) →
    rowsAt off.toNat ≠ [] → Runs (.registerWrite p off 4 v) s fun t =>
      regGet t K.CFG_SHADOW_DROPPED_count = satInc 0xFFFFFFFF (regGet s K.CFG_SHADOW_DROPPED_count) ∧ t = { s with reg := t.reg } ∧
      RegsKept [K.CFG_SHADOW_DROPPED_count] s t)

/-- A 32-bit read returns the register's fields; at its base offset it clears those that are RC and nothing else, through the active view (0x8000 up) nothing (part of R7, R405);
a cleared high-water mark (R153, R250) reads next what is then in flight.
The model's own readings in it: notes/assumptions/31. -/
def Obligations.WindowRead : Prop :=
  (∀ (p : Fin 4) (off : BitVec 16) (s : State), windowOpen s p = true → off.toNat % 4 = 0 → off.toNat < 0x8000 → foreign s p off.toNat = false →
    Runs (.rcRead p off 4) s fun t => t.lastRead = [wordRead s p off.toNat false] ∧
      (∀ r ∈ rowsAt off.toNat, r.acc = .rc → regGet t (winFieldKey p off.toNat r.lo) = rcLeaves s off.toNat) ∧
      t = { s with reg := t.reg, lastRead := t.lastRead } ∧
      RegsKept (((rowsAt off.toNat).filter fun r => decide (r.acc = .rc)).map fun r => winFieldKey p off.toNat r.lo) s t) ∧
  (∀ (p : Fin 4) (off : BitVec 16) (s : State), windowOpen s p = true → off.toNat % 4 = 0 → 0x8000 ≤ off.toNat →
    foreign s p (off.toNat - 0x8000) = false →
    exec (.rcRead p off 4) s = .next { s with lastRead := [wordRead s p (off.toNat - 0x8000) true] }) ∧
  (∀ s : State, rcLeaves s 0x1008 = s.jobs.length ∧ (∀ d : Fin 4, rcLeaves s (0x2804 + 0x100 * d) = (engineOf s d).tiles.length) ∧
    ∀ off < 0x8000, off ≠ 0x1008 → (∀ d : Fin 4, off ≠ 0x2804 + 0x100 * d) → rcLeaves s off = 0)

/-- CONFIG_REQUEST (part of R356, R400, R401): a read answers what the function's configuration says, whose vendor is never 0; a write of 1 sets Bus Master Enable, a write of 0 is its
fall; a port whose window is not ready gives no data.
The model's own readings in it: notes/assumptions/6, 26. -/
def Obligations.ConfigurationRequests : Prop :=
  (∀ (p : Fin 4) (s : State), windowOpen s p = true →
    exec (.configRequest p .vendor) s = .next { s with lastRead := [regGet s K.ID_PCI_vendor] } ∧
    exec (.configRequest p .device) s = .next { s with lastRead := [regGet s K.ID_PCI_device] } ∧
    exec (.configRequest p .revision) s = .next { s with lastRead := [regGet s K.ID_PART_stepping] } ∧
    exec (.configRequest p .classCode) s = .next { s with lastRead := [0x120000] } ∧
    exec (.configRequest p .headerType) s = .next { s with lastRead := [0] } ∧
    (Runs (.configRequest p (.busMaster true)) s fun t => portOf t p = { portOf s p with busMaster := true } ∧ t = { s with hosts := t.hosts }) ∧
    exec (.configRequest p (.busMaster false)) s = exec (.busMasterEnableFall p) s) ∧
  (∀ (p : Fin 4) (q : CfgReq) (s : State), windowOpen s p = false → exec (.configRequest p q) s = .next { s with lastRead := [] }) ∧
  regGet State.reset K.ID_PCI_device = 0x0480 ∧ regGet State.reset K.ID_PCI_vendor ≠ 0

/-! Attestation, understudies, retrains on request -/

/-- ATTEST_QUOTE and ATTEST_CERTIFICATE (part of R371): a request that is allowed keeps SI_A busy with it; for a realm not bound to the port, unless the port is the manager's,
err is 1; for address 0 it is 2; while busy a go does nothing.
ATTEST_DONE (part of R371): the object asked for is written at ATT_ADDR, 256 bytes for a quote and at most 2,048 for the certificate; done is set, the request is over.
The model's own readings in it: notes/assumptions/13, 27, 29. -/
def Obligations.Attestation : Prop :=
  (∀ (p : Fin 4) (r : Fin 8) (s : State) (op : Nat) (c : Instr), (c = .attestQuote p r ∧ op = 0 ∨ c = .attestCertificate p r ∧ op = 1) →
    windowOpen s p = true →
    let free := (realmOn s r = true ∧ realmPort s r = p.val) ∨ p.val = s.mgrPort
    (regGet s (K.ATT_STATUS_busy p) ≠ 1 → free → attAddr s p ≠ 0 → Runs c s fun t => regGet t (K.ATT_STATUS_busy p) = 1 ∧
      regGet t (K.ATT_STATUS_err p) = 0 ∧ t.attest.find? (fun a => a.1 == p.val) = some (p.val, ⟨op, r⟩) ∧ t = { s with reg := t.reg, attest := t.attest } ∧
      RegsKept [K.ATT_CTRL_op p, K.ATT_CTRL_realm p, K.ATT_STATUS_busy p, K.ATT_STATUS_err p] s t) ∧
    (∀ e, regGet s (K.ATT_STATUS_busy p) ≠ 1 → (¬ free ∧ e = 1 ∨ free ∧ attAddr s p = 0 ∧ e = 2) → Runs c s fun t =>
      regGet t (K.ATT_STATUS_err p) = e ∧ t = { s with reg := t.reg } ∧
      RegsKept [K.ATT_CTRL_op p, K.ATT_CTRL_realm p, K.ATT_STATUS_err p] s t) ∧
    (regGet s (K.ATT_STATUS_busy p) = 1 → Runs c s fun t => t = { s with reg := t.reg } ∧ RegsKept [K.ATT_CTRL_op p, K.ATT_CTRL_realm p] s t)) ∧
  ((∀ (p : Fin 4) (a : Attest) (s : State), s.attest.find? (fun x => x.1 == p.val) = some (p.val, a) → windowOpen s p = true →
    (portOf s p).busMaster = true → Runs (.attestDone p) s fun t =>
      Tells (.port p) ⟨0x0806, 0, false, islNode (keyIsl s), a.realm, a.op, p⟩ t fun u =>
        u.mem.host = (hostWrite p (attAddr s p) (attObject s p a) s).mem.host ∧ regGet u (K.ATT_STATUS_busy p) = 0 ∧ regGet u (K.ATT_STATUS_done p) = 1 ∧
        u = { s with reg := u.reg, attest := tdrop p s.attest, freeCtr := s.freeCtr + 1, mem := { s.mem with host := u.mem.host } } ∧
        RegsKept [K.ATT_STATUS_busy p, K.ATT_STATUS_done p] s u) ∧
  (∀ (p r : Nat) (s : State), (attObject s p ⟨0, r⟩).length = 256 ∧ (attObject s p ⟨1, r⟩).length ≤ 2048))

/-- Understudy mode (part of R373, R374, R376): an enable with a good table starts it at UND_START, and in the diverged state starts it anew; without one it is refused with
RING_REFUSED arg0 10; a promotion ends it and keeps the verified index and, until a new enable, a diverged state; an orphan command, or a job that has waited for UND_ORPHAN.ms, orphans the realm and says so with the verified index.
The model's own readings in it: notes/assumptions/28, 75. -/
def Obligations.UnderstudyMode : Prop :=
  (∀ (p : Fin 4) (r : Fin 8) (s : State), windowOpen s p = true → p.val = s.mgrPort → (regGet s K.UND_CTRL_enable ≠ 1 ∨ undState s = 2) → undTable s ≠ 0 →
    6 ≤ regGet s K.UND_TABLE_CTRL_log2_entries → regGet s K.UND_TABLE_CTRL_log2_entries ≤ 12 → Runs (.understudyEnable p r) s fun t =>
      undState t = 1 ∧ undRealm t = r ∧ t.und.start = some t.und.next ∧
      t.und.next = regGet s K.UND_START_LO_index + 2 ^ 32 * regGet s K.UND_START_HI_index ∧ t.und.waiting = [] ∧ t.und.matched = [] ∧
      t = { s with reg := t.reg, und := t.und, jobs := s.jobs.map fun j => { j with commit := none } } ∧
      RegsKept [K.UND_CTRL_enable, K.UND_CTRL_realm, K.UND_STATE_state] s t) ∧
  (∀ (p : Fin 4) (r : Fin 8) (s : State), windowOpen s p = true → p.val = s.mgrPort → (regGet s K.UND_CTRL_enable ≠ 1 ∨ undState s = 2) →
    (regGet s K.UND_TABLE_CTRL_log2_entries < 6 ∨ 12 < regGet s K.UND_TABLE_CTRL_log2_entries ∨ undTable s = 0) →
    Runs (.understudyEnable p r) s fun t =>
      Tells (.port p) ⟨0x0004, 0, true, portNode p, 10, regGet s K.UND_TABLE_CTRL_log2_entries, 0⟩ t fun u =>
        u = { s with reg := u.reg } ∧ RegsKept [K.UND_CTRL_realm] s u) ∧
  (∀ (p : Fin 4) (r : Fin 8) (s : State), windowOpen s p = true → p.val = s.mgrPort → regGet s K.UND_CTRL_enable = 1 →
    Runs (.understudyPromote p r) s fun t => undIn t = false ∧ undState t = (if undState s = 2 then 2 else 0) ∧
      t.und = { s.und with waiting := [], matched := [] } ∧ t = { s with reg := t.reg, und := t.und } ∧ RegsKept [K.UND_CTRL_enable, K.UND_STATE_state] s t) ∧
  (∀ (p : Fin 4) (r : Fin 8) (s : State), windowOpen s p = true → p.val = s.mgrPort → regGet s K.UND_CTRL_enable = 1 → (undState s = 1 ∨ undState s = 2) →
    Runs (.understudyOrphan p r) s fun t => Tells (.realm (undRealm s)) ⟨0x0805, 0, true, islNode (keyIsl s), undRealm s, 1, undVerified s⟩ t fun u =>
      undState u = 3 ∧ u = { s with reg := u.reg } ∧ RegsKept [K.UND_STATE_state] s u) ∧
  (∀ (s : State) (w : UndJob), undState s = 1 → w ∈ s.und.waiting → w.tick + orphanTicks s ≤ s.ticks → Runs .undOrphanTimeout s fun t =>
    Tells (.realm (undRealm s)) ⟨0x0805, 0, true, islNode (keyIsl s), undRealm s, 0, undVerified s⟩ t fun u =>
      undState u = 3 ∧ u = { s with reg := u.reg } ∧ RegsKept [K.UND_STATE_state] s u)

/-! Doorbells, status blocks, acceptance -/

/-- DOORBELL_POLL whose read succeeds (part of R225 to R227): each running ring of the host has the indices of its doorbell word, and is invalid exactly where more than its
size is pending; jobs are accepted only from rings that are enabled and valid, behind those in flight, under rising numbers without a gap.
DOORBELL_POLL whose read fails (part of R225): counted, and POLL_ERROR raised with the number of failures in a row; nothing is accepted.
The model's own readings in it: notes/assumptions/21, 22. -/
def Obligations.DoorbellPoll : Prop :=
  (∀ (p : Fin 4) (ws : List HostWrite) (s : State), polls (applyWrites ws s) p = true → Runs (.doorbellPoll p ws true) s fun t =>
    let page := hostRead (applyWrites ws s) p (doorbellAt s p) 128
    (∀ i : Fin 8, ringOn s p i = true → (ringOf t p i).sqProducer = fieldAt page (8 * i) 2 ∧ (ringOf t p i).cqConsumer = fieldAt page (8 * i + 4) 2 ∧
      (ringOf t p i).invalid = decide (ringEntries s p i < (fieldAt page (8 * i) 2 + 65536 - (ringOf s p i).sqConsumed) % 65536)) ∧
    (portOf t p).pollFails = 0 ∧
    ∃ new : List Job, t.jobs = s.jobs ++ new ∧ new.map (·.acc) = (List.range new.length).map (s.accCtr + ·) ∧ t.accCtr = s.accCtr + new.length ∧
      ∀ j ∈ new, j.phase = .accepted ∧ ringOn s j.port j.ring = true ∧ hostOn s j.port = true ∧ (ringOf t j.port j.ring).invalid = false) ∧
  (∀ (p : Fin 4) (ws : List HostWrite) (s : State), polls (applyWrites ws s) p = true → Runs (.doorbellPoll p ws false) s fun t =>
    Tells (.port p) ⟨0x0003, 0, false, portNode p, min 0xFFFFFFFF ((portOf s p).pollFails + 1), 0, 0⟩ t fun u =>
      regGet u (K.HOST_POLL_ERR_count p) = satInc 0xFFFFFFFF (regGet s (K.HOST_POLL_ERR_count p)) ∧
      portOf u p = { portOf s p with pollFails := (portOf s p).pollFails + 1 } ∧
      u = { s with reg := u.reg, hosts := u.hosts, mem := { s.mem with host := (applyWrites ws s).mem.host } } ∧
      RegsKept [K.HOST_POLL_ERR_count p] s u)

/-- STATUS_BLOCK_WRITE writes the 64 bytes of the status block at STATUS_ADDR (R245): heartbeat and its copy, operating state and in-drive flag, reasons, the consumed
index of each ring, the event producer, the lost events, jobs in flight, class of the last fault, time, verified index. HRDY_n follows the reasons written (part of R249). Every other
byte of the hosts' memory keeps its value.
The model's own readings in it: notes/assumptions/25, 40. -/
def Obligations.StatusBlock : Prop :=
  ∀ (p : Fin 4) (s : State), polls s p = true → statusAt s p + 64 ≤ 2 ^ 64 → Runs (.statusBlockWrite p) s fun t =>
    let b := hostRead t p (statusAt s p) 64
    let hb := ((portOf s p).heartbeat + 1) % 2 ^ 32
    fieldAt b 0 4 = hb ∧ fieldAt b 60 4 = hb ∧
    fieldAt b 4 1 = opCode s.op + (if s.inDrive then 128 else 0) ∧ fieldAt b 5 1 = 0 ∧ fieldAt b 6 2 = reasons s p ∧
    (∀ i : Fin 8, fieldAt b (8 + 2 * i) 2 = (ringOf s p i).sqConsumed % 2 ^ 16) ∧ fieldAt b 24 2 = (portOf s p).evtProducer % 2 ^ 16 ∧
    fieldAt b 26 2 = 0 ∧ fieldAt b 28 4 = (portOf s p).dropped % 2 ^ 32 ∧ fieldAt b 32 2 = (s.jobs.filter fun j => j.port == p.val).length % 2 ^ 16 ∧
    fieldAt b 34 2 = s.jobs.length % 2 ^ 16 ∧ fieldAt b 36 1 = s.lastClass % 256 ∧ fieldAt b 37 3 = 0 ∧ fieldAt b 40 8 = timeWord s % 2 ^ 64 ∧
    fieldAt b 48 8 = (if undIn s = true then undVerified s else 0) % 2 ^ 64 ∧ fieldAt b 56 4 = 0 ∧
    portOf t p = { portOf s p with heartbeat := hb, status := statusFields s p, ready := reasons s p == 0,
                                   falls := (portOf s p).falls + ((portOf s p).ready && !(reasons s p == 0)).toNat } ∧
    (∀ q, q ≠ p.val → portOf t q = portOf s q) ∧
    (∀ k, (∀ i < 64, k ≠ hostKey p (statusAt s p + i)) → tget (0 : Byte) k t.mem.host = tget 0 k s.mem.host) ∧
    t = { s with hosts := t.hosts, mem := { s.mem with host := t.mem.host } }

/-! Jobs -/

/-- A job command takes its job as far as it says (part of R91, R180, R181, R230, R234, R235, R318): to its start, to its end with the result its body gives, or to the failure
that its body meets; the granules that its reads meet with wrong bits are decoded first. A result that is compared is withheld where the command says so, and in signature mode
until the holder's window closes. For every command of a job that runs as soon as it starts; one on an engine has that engine's golden workload of the frame behind it (R310).
The model's own readings in it: notes/assumptions/5, 41, 78, 80. -/
def Obligations.JobsComplete : Prop :=
  ∀ (a : Nat) (f : JobForm) (s : State) (j : Job) (c : Claim), f ∈ jobForms a → Starts s a j → f.mine j = true → f.pre s j = .go c →
    (∀ e ∈ f.engines, s.frame.golden.contains e = true) →
    (∀ l, exec (f.cmd (.start l)) s = .next (runAhead (.start l) j (takeClaim j c s))) ∧
    ∀ (k : Job) (u : State) (rs : List GranuleRead), findJob (takeClaim j c s) a = some k →
      let s1 := jobReads rs (takeClaim j c s)
      let kept := fun r => modJob a (fun k => { k with phase := .withheld, held := some r, reserve := k.reserve - roomsTaken u a }) u
      let compared := f.duplex (takeClaim j c s) j
      (∀ r, underBanks f.work k s1 = (u, .ok r) →
        ((compared && gates u (holder u)) = false → exec (f.cmd (.whole rs)) s = .next (releaseResult j r false 0 u)) ∧
        ((compared && gates u (holder u)) = true → exec (f.cmd (.whole rs)) s = .next (gate (holder u) (.release (.job a)) (kept r))) ∧
        (compared = true → exec (f.cmd (.withhold rs)) s = .next (kept r))) ∧
      (∀ e, underBanks f.work k s1 = (u, .error e) → exec (f.cmd (.whole rs)) s = .next (failJob j e u) ∧ exec (f.cmd (.withhold rs)) s = .next (failJob j e u))

/-- What a check before execution decides of a job (part of R94, R179, R180, R232, R239): the first of the common checks that fails, in their order, completes it; a check of
its own completes it with that check's status; one whose tables are in use starts and is held.
The model's own readings in it: notes/assumptions/35, 36. -/
def Obligations.JobsRefused : Prop :=
  ∀ (a : Nat) (f : JobForm) (s : State) (j : Job) (run : JobRun), f ∈ jobForms a → f.mine j = true → findJob s a = some j → j.phase = .accepted →
    mayStart s j = true →
    (∀ off, descFault j (bodyFaults j) = some off → exec (f.cmd run) s = .next (failJob j ⟨0x01, off⟩ s)) ∧
    (descFault j (bodyFaults j) = none →
      (permitted s j = false → exec (f.cmd run) s = .next (failJob j ⟨0x02, 0⟩ s)) ∧
      (permitted s j = true →
        (dF j 8 8 < (realmOf s j.realm).epoch → exec (f.cmd run) s = .next (failJob j ⟨0x03, (realmOf s j.realm).epoch % 2 ^ 32⟩ s)) ∧
        ((realmOf s j.realm).epoch < dF j 8 8 → exec (f.cmd run) s = .next (failJob j ⟨0x04, (realmOf s j.realm).epoch % 2 ^ 32⟩ s)) ∧
        (dF j 8 8 = (realmOf s j.realm).epoch →
          (j.realm ≠ 0 → s.op ≠ .lodge → exec (f.cmd run) s = .next (failJob j ⟨0x06, opCode s.op⟩ s)) ∧
          (stateRule s j = false → levelListed s (dF j 2 2) = false → exec (f.cmd run) s = .next (failJob j ⟨0x07, dF j 2 2⟩ s))))) ∧
    (Starts s a j → (∀ e, f.pre s j = .fail e → exec (f.cmd run) s = .next (failJob j e s)) ∧ (f.pre s j = .wait → exec (f.cmd run) s = .next s) ∧
      (∀ n c, f.pre s j = .hold n c → exec (f.cmd run) s = .next (holdJob j n c s)))

/-- A completion record (R236), written at the completion producer's slot of the job's ring, with the index raised and the job no longer in flight. -/
def Obligations.CompletionRecord : Prop :=
  ∀ (j : Job) (r : JobResult) (simplex : Bool) (cls : Nat) (s : State), j.mute = false → (portOf s j.port).busMaster = true → j.commit = none → (r.status = 0 → r.digest.length = 32) →
    let q := ringOf s j.port j.ring
    let at_ := cqBase s j.port j.ring + 32 * (q.cqProducer % ringEntries s j.port j.ring)
    at_ + 32 ≤ 2 ^ 64 →
    let t := completeJob j r simplex cls s
    let b := hostRead t j.port at_ 32
    fieldAt b 0 2 = r.status % 2 ^ 16 ∧
    fieldAt b 2 1 = (q.cqProducer / ringEntries s j.port j.ring + 1) % 2 + 2 * simplex.toNat ∧ fieldAt b 3 1 = cls % 256 ∧
    fieldAt b 4 4 = (if r.status = 0 then r.aux % 2 ^ 32 else 0) ∧ (b.drop 8).take 8 = (if r.status = 0 then r.digest.take 8 else zeros 8) ∧
    fieldAt b 16 8 = dF j 16 8 ∧ fieldAt b 24 4 = r.detail % 2 ^ 32 ∧ fieldAt b 28 4 = tbNs s ∧
    (ringOf t j.port j.ring).cqProducer = (q.cqProducer + 1) % 65536 ∧ t.jobs = s.jobs.filter (fun k => k.acc != j.acc)

/-- MOVE (part of R229, R235, R327): the moved bytes read at the destination as they read at the source; in the mirrored window both copies hold them; every other byte of the windows
keeps its value. -/
def Obligations.MoveCopies : Prop :=
  ∀ (a : Nat) (s : State) (j : Job), Starts s a j → jType j = 6 → movePre s j = .go noClaim → jDigest j = 0 → 0 < dF j 64 8 →
    dF j 48 8 + dF j 64 8 ≤ hostWinBase → dF j 56 8 + dF j 64 8 ≤ hostWinBase → poisonedReadA s j.realm (dF j 48 8) (dF j 64 8) = none →
    poisonedWrite s j.realm (dF j 56 8) (dF j 64 8) = none → Runs (.move a (.whole [])) s fun t =>
      let at_ := winKey j.realm (dF j 56 8)
      let n := dF j 64 8
      realmRead t j.realm (dF j 56 8) n = realmRead s j.realm (dF j 48 8) n ∧
      (mirrored j.realm (dF j 56 8) = true → ∀ i < n, tget (0 : Byte) (at_ + i + mirrorKey) t.mem.win = tget 0 (at_ + i) t.mem.win) ∧
      (∀ k, (k < at_ ∨ at_ + n ≤ k) → (mirrored j.realm (dF j 56 8) = true → k < at_ + mirrorKey ∨ at_ + mirrorKey + n ≤ k) →
        tget (0 : Byte) k t.mem.win = tget 0 k s.mem.win) ∧
      findJob t a = none

/-- DIGEST_CHECK (part of R56, R239, R327): equal bytes complete OK, else DIGEST_DIFFERS with the index of the first byte that differs. -/
def Obligations.DigestCheckCompares : Prop :=
  ∀ (a : Nat) (s : State) (j : Job), Starts s a j → jType j = 10 → digestCheckPre s j = .go noClaim →
    poisonedReadA s j.realm (dF j 48 8) 32 = none → poisonedReadA s j.realm (dF j 56 8) 32 = none →
    dF j 48 8 + 32 ≤ hostWinBase → dF j 56 8 + 32 ≤ hostWinBase → j.mute = false → (portOf s j.port).quiet = false →
    let x := realmRead s j.realm (dF j 48 8) 32
    let y := realmRead s j.realm (dF j 56 8) 32
    (x = y → exec (.digestCheck a (.whole [])) s = .next (releaseResult j (okResult j [] 0) false 0 (takeClaim j noClaim s))) ∧
    (∀ i < 32, x.take i = y.take i → x.getD i 0 ≠ y.getD i 0 →
      exec (.digestCheck a (.whole [])) s = .next (failJob j ⟨0x24, i⟩ (takeClaim j noClaim s)))

/-- FENCE (part of R233): the epoch is set at once and the job waits for those of its realm that have started; an epoch not above the current one completes EPOCH_INVALID and changes
no epoch; it completes OK once none of them is in flight.
BARRIER and its dormant form (part of R29, R31, R34, R231): a barrier completes once it may start; a dormant one does so outside WARM_IDLE, and in WARM_IDLE, with no other job left, the
module enters DORMANT, which discards the contents of HBM and of the cellar.
The model's own readings in it: notes/assumptions/35. -/
def Obligations.FencesAndBarriers : Prop :=
  ((∀ (a : Nat) (s : State) (j : Job), Starts s a j → jType j = 9 → (realmOf s j.realm).epoch < dF j 48 8 → Runs (.fence a) s fun t =>
    (realmOf t j.realm).epoch = dF j 48 8 ∧ (∀ r, r ≠ j.realm → realmOf t r = realmOf s r) ∧ (∃ k, findJob t a = some k ∧ k.phase = .running ∧
      k.waitFor = (s.jobs.filter fun x => x.realm == j.realm && x.phase != .accepted).map (·.acc)) ∧ t = { s with jobs := t.jobs, realms := t.realms }) ∧
  (∀ (a : Nat) (s : State) (j : Job), Starts s a j → jType j = 9 → dF j 48 8 ≤ (realmOf s j.realm).epoch →
    exec (.fence a) s = .next (failJob j ⟨0x05, (realmOf s j.realm).epoch % 2 ^ 32⟩ s)) ∧
  (∀ (a : Nat) (s : State) (j : Job), findJob s a = some j → jType j = 9 → j.phase = .running →
    ((∀ b ∈ j.waitFor, findJob s b = none) → exec (.fenceComplete a) s = .next (okJob j 0 s)) ∧
    ((∃ b ∈ j.waitFor, (findJob s b).isSome = true) → exec (.fenceComplete a) s = .next s))) ∧
  ((∀ (a : Nat) (s : State) (j : Job), Starts s a j → jType j = 13 → jDormant j = false → exec (.barrier a) s = .next (okJob j 0 s)) ∧
  (∀ (a : Nat) (s : State) (j : Job), Starts s a j → jType j = 13 → jDormant j = true → s.op ≠ .warmIdle → Runs (.dormantBarrier a) s fun t =>
    findJob t a = none ∧ t.op = s.op) ∧
  (∀ (a : Nat) (s : State) (j : Job), Starts s a j → jType j = 13 → jDormant j = true → s.op = .warmIdle → (∀ k ∈ s.jobs, k.acc = a) →
    Runs (.dormantBarrier a) s fun t => t.op = .dormant ∧ t.jobs = [] ∧ t.mem.win = [] ∧ t.mem.room = [] ∧ t.mem.dirs = [] ∧ powered t = false) ∧
  (∀ (a : Nat) (s : State) (j : Job), Starts s a j → jType j = 13 → jDormant j = true → s.op = .warmIdle → (∃ k ∈ s.jobs, k.acc ≠ a) →
    Runs (.dormantBarrier a) s fun t => t = { s with jobs := t.jobs } ∧ draining t = true))

/-- A CURTAIN job that starts is pending with its banks and its point, an edge already past standing for the next (part of R251); one that names a generator that is not enabled ends
with CONFIG_INVALID, detail 3.
The model's own readings in it: notes/assumptions/44. -/
def Obligations.CurtainStarts : Prop :=
  (∀ (a : Nat) (s : State) (j : Job), Starts s a j → jType j = 8 → s.curtain = none → (jAtEdge j = true → cueOn s (dF j 53 1) = true) →
    Runs (.curtain a) s fun t => t.curtain = some ⟨a, dF j 48 4, jAtEdge j, dF j 53 1,
        if dF j 56 8 ≤ (cueOf s (dF j 53 1)).edges then 0 else dF j 56 8, none, false⟩ ∧
      (∃ k, findJob t a = some k ∧ k.phase = .running) ∧ t = { s with jobs := t.jobs, curtain := t.curtain }) ∧
  (∀ (a : Nat) (s : State) (j : Job), Starts s a j → jType j = 8 → jAtEdge j = true → cueOn s (dF j 53 1) = false →
    exec (.curtain a) s = .next (failJob j ⟨0x12, 3⟩ s))

/-- CURTAIN_SWAP at its point (part of R250 to R252, R30): a valid one exchanges active and shadow copy of every field of its banks and leaves every other as it is, raises CFG_GEN and
completes; one whose banks fail, or that may not set the in-drive flag, completes with its status, both copies unchanged.
The model's own readings in it: notes/assumptions/44, 45. -/
def Obligations.CurtainExchangesBanks : Prop :=
  ∀ (s : State) (c : Curtain) (j : Job), s.curtain = some c → findJob s c.acc = some j → (c.atEdge = true → c.reached.isSome = true) →
    curtainBusy s c = false →
    let ks := changedKeys s c.mask
    let d := c.reached.getD 0 % 2 ^ 32
    (c.mask = 0 → exec .curtainSwap s = .next (okJob j d { s with curtain := none })) ∧
    (c.mask ≠ 0 → firstBad c.mask ks (exchange ks s) = none → (setsDrive s c.mask = true → driveReady s (endedFrame s c) = true) →
      Runs .curtainSwap s fun t => t.curtain = none ∧ findJob t c.acc = none ∧ regGet t K.CFG_GEN_gen = (regGet s K.CFG_GEN_gen + 1) % 2 ^ 32 ∧
        ∀ k, if bitOf c.mask (bankOf k) = true then actGet t k = shGet s k ∧ shGet t k = actGet s k
          else actGet t k = actGet s k ∧ shGet t k = shGet s k) ∧
    (∀ b, c.mask ≠ 0 → firstBad c.mask ks (exchange ks s) = some b → exec .curtainSwap s = .next (failJob j ⟨0x12, b⟩ { s with curtain := none })) ∧
    (c.mask ≠ 0 → firstBad c.mask ks (exchange ks s) = none → setsDrive s c.mask = true → driveReady s (endedFrame s c) = false →
      exec .curtainSwap s = .next (failJob j ⟨0x06, opCode s.op⟩ { s with curtain := none }))

/-- LODGE (part of R364): the banks 0 and 1 are saved and exchanged, lodging is admitted for the realms of the mask, and the module is in LODGE.
A RECALL and its timeline (part of R366): its start ends every lodging job that has not started; after the grace the lodged realms are released, their units unmapped; the restore makes the return copy
active in banks 0 and 1; drive-ready, lodging is over and the module in WARM_IDLE, or at the bound the same with NOT_READY.
The model's own readings in it: notes/assumptions/42, 43. -/
def Obligations.LodgeAndRecall : Prop :=
  (∀ (a : Nat) (s : State) (j : Job), Starts s a j → jType j = 11 → lodgePre s j = .go noClaim → jDigest j = 0 →
    (lodgeMask j ≠ 0 → Runs (.lodge a) s fun t => t.op = .lodge ∧ regGet t K.LDG_STATUS_admitted = 1 ∧
      t.lodging.realms = (List.range 8).filter (bitOf (lodgeMask j)) ∧ t.lodging.saved = s.active.filter (fun e => decide (bankOf e.1 < 2)) ∧
      regGet t K.CFG_GEN_gen = (regGet s K.CFG_GEN_gen + 1) % 2 ^ 32 ∧ findJob t a = none ∧
      ∀ k, if bankOf k < 2 then actGet t k = shGet s k ∧ shGet t k = actGet s k else actGet t k = actGet s k ∧ shGet t k = shGet s k) ∧
    (lodgeMask j = 0 → Runs (.lodge a) s fun t => t.op = s.op ∧ t.active = s.active ∧ t.shadow = s.shadow ∧ t.lodging = s.lodging ∧ findJob t a = none)) ∧
  ((∀ (a : Nat) (s : State) (j : Job), Starts s a j → jType j = 12 → s.lodging.running = none → Runs (.recall a) s fun t =>
    (∃ r, t.lodging.running = some r ∧ r.acc = a ∧ r.mode = dF j 48 1 ∧ r.t0 = s.ticks ∧ r.restored = false) ∧
    ∀ k ∈ t.jobs, s.lodging.realms.contains k.realm = true → k.phase ≠ .accepted ∧ k.phase ≠ .held) ∧
  (∀ (s : State) (r : Recall), s.lodging.running = some r → s.lodging.limpStop = false → s.lodging.realms ≠ [] → (∀ x ∈ s.lodging.realms, x < 8) →
    (r.mode = 1 ∨ r.t0 + graceTicks s ≤ s.ticks) → roomsRunning s = false → Runs .recallGraceEnd s fun t =>
      t.lodging.realms = [] ∧ ∀ x ∈ s.lodging.realms, actGet t (K.REALM_BIND_enabled x) = 0 ∧ (realmOf t x).keyLoaded = false ∧
        actGet t (K.MPART_HBM_win_units x) = 0 ∧ actGet t (K.MPART_HBM_room_units x) = 0 ∧ actGet t (K.MPART_CEL_win_units x) = 0 ∧
        actGet t (K.MPART_CEL_room_units x) = 0) ∧
  (∀ (x y : Bool) (s : State) (r : Recall), s.lodging.running = some r → r.restored = false → s.lodging.realms = [] → s.lodging.limpStop = false →
    Runs (.recallRestore x y) s fun t => (∀ k, actGet t k = if bankOf k < 2 then tget (resetOf k) k s.lodging.saved else actGet s k) ∧
      t.shadow = s.shadow ∧ t.lodging.running = some { r with restored := true } ∧ t.frame.due = true) ∧
  (∀ (s : State) (r : Recall) (j : Job), s.lodging.running = some r → findJob s r.acc = some j → r.restored = true → s.frame.due = false →
    ((notReady s = 0 ∧ framePassed s false = true) ∨ (notReady s ≠ 0 ∧ r.from_ + recallBound ≤ s.ticks)) → Runs .recallDone s fun t =>
      t.op = (if s.op = .lodge then .warmIdle else s.op) ∧ regGet t K.LDG_STATUS_admitted = 0 ∧ t.lodging.running = none ∧ t.lodging.saved = [] ∧
      findJob t r.acc = none))

/-- FUSE and PLAN jobs that run live (part of R299, R308): a job that starts takes its instant, the time base for 0; from the end of the admission wait on, a FUSE job, with the
golden workloads of the frame behind it, ends with the result of its admission; a PLAN job admits its plan at its instant.
MAP_UPDATE and MAP_PUBLISH (part of R300, R302): the job starts and waits; the image copied and found sound, the next epoch is published and the job ends.
The model's own readings in it: notes/assumptions/58, 61. -/
def Obligations.FusePlanMapJobs : Prop :=
  ((∀ (a : Nat) (s : State) (j : Job), Starts s a j → jType j = 4 → jReplay j = false → recordsPre s j = .go noClaim → Runs (.fuse a (.start [])) s fun t =>
    (∃ k, findJob t a = some k ∧ k.phase = .running ∧ k.instant = some (if dF j 64 8 = 0 then tauNow s else dF j 64 8)) ∧ t = { s with jobs := t.jobs }) ∧
  (∀ (a : Nat) (s u : State) (j : Job) (x : Nat) (r : JobResult), findJob s a = some j → jType j = 4 → jReplay j = false → j.phase = .running →
    j.instant = some x → running s = true → x + admitWait { s with active := j.banks } ≤ tauNow s → lodgerStopped s j = false →
    s.frame.golden.contains 0 = true → s.frame.golden.contains 1 = true → (∀ k ∈ s.jobs, k.acc = a → k = j) →
    underBanks fuseWork j s = (u, .ok r) → (engineDuplex s j && gates u (holder u)) = false →
    exec (.fuse a (.whole [])) s = .next (releaseResult j r false 0 u)) ∧
  (∀ (a : Nat) (s : State) (j : Job), Starts s a j → jType j = 5 → jReplay j = false → recordsPre s j = .go noClaim → dF j 64 8 = 0 → running s = true →
    (∀ p ∈ s.fus.plans, p.subj ≠ .job a) → Runs (.plan a) s fun t => (∃ k, findJob t a = some k ∧ k.phase = .running ∧ k.instant = some (tauNow s)) ∧
      ∃ p, t.fus.plans = s.fus.plans ++ [p] ∧ p.subj = .job a ∧ p.instant = tauNow s ∧ p.svc = jService j)) ∧
  ((∀ (a : Nat) (s : State) (j : Job), Starts s a j → jType j = 14 → mapPre s j = .go noClaim → exec (.mapUpdate a) s = .next (takeClaim j noClaim s)) ∧
  (∀ (a : Nat) (s u : State) (j : Job), findJob s a = some j → jType j = 14 → j.phase = .running → jDigest j = 0 → jSet j + 64 ≤ hostWinBase →
    let e := (mapEpoch s (jSet j) + 1) % 2 ^ 64
    bufferHeld s (jSet j) e = false → mapCopy j e s = (u, none) → treeBase + 16 ≤ mapSize u (jSet j) →
    treeFault u (mapBuf u (jSet j) e) (mapSize u (jSet j)) 5 0 = false → Runs (.mapPublish a) s fun t =>
      mapEpoch t (jSet j) = e ∧ findJob t a = none))

/-! Event records -/

/-- An event offered (part of R240, R242, R243, R356, R401): a record of 32 bytes at the event producer's slot of each host it concerns; a full ring loses it into a gap marker, which is
written as soon as a slot is free; where Bus Master Enable is 0 it is lost into the manager host's count. It changes nothing but the ports' bookkeeping, bytes of event rings and the
class of the last fault record. -/
def Obligations.EventRecords : Prop :=
  (∀ (d : EvDest) (e : Ev) (s : State), Told s (raise d e s) ∧ OnlyEventRings s (raise d e s)) ∧
  (∀ (p : Fin 4) (e : Ev) (s : State), e.cls < 3 → ((portOf s p).busMaster = false ∨ (portOf s p).quiet = true) →
    let t := raise (.port p) e s
    t.mem = s.mem ∧ portOf t s.mgrPort = { portOf s s.mgrPort with dropped := satInc 0xFFFFFFFF (portOf s s.mgrPort).dropped } ∧
    ∀ q, q ≠ s.mgrPort → portOf t q = portOf s q) ∧
  (∀ (p : Fin 4) (e : Ev) (s : State), e.cls < 3 → (portOf s p).busMaster = true → (portOf s p).quiet = false →
    evtOn s p = true → evtFree s p = true → (portOf s p).gap = none →
    evtBase s p + 32 * evtEntries s p ≤ 2 ^ 64 →
    let t := raise (.port p) e s
    let n := (portOf s p).evtProducer
    let b := hostRead t p (evtBase s p + 32 * (n % evtEntries s p)) 32
    fieldAt b 0 2 = e.code % 2 ^ 16 ∧ fieldAt b 2 1 = e.cls ∧
    fieldAt b 3 1 = (n / evtEntries s p + 1) % 2 + 2 * e.attn.toNat + 4 * (!tbValid s).toNat ∧ fieldAt b 4 4 = e.src % 2 ^ 32 ∧
    fieldAt b 8 8 = timeWord s ∧ fieldAt b 16 4 = e.a0 % 2 ^ 32 ∧ fieldAt b 20 4 = e.a1 % 2 ^ 32 ∧ fieldAt b 24 8 = e.a2 % 2 ^ 64 ∧
    portOf t p = { portOf s p with evtProducer := (n + 1) % 65536,
                                   attn := if e.attn then (portOf s p).attn ++ [n] else (portOf s p).attn }) ∧
  (∀ (p : Fin 4) (e : Ev) (s : State), e.cls < 3 → (portOf s p).busMaster = true → (portOf s p).quiet = false → evtOn s p = true → evtFree s p = false →
    let t := raise (.port p) e s
    t.mem = s.mem ∧ portOf t p = { portOf s p with
      dropped := satInc 0xFFFFFFFF (portOf s p).dropped,
      gap := some (match (portOf s p).gap with
        | none => ⟨1, timeWord s, timeWord s⟩
        | some g => ⟨g.count + 1, g.first, timeWord s⟩) }) ∧
  (∀ (p : Fin 4) (e : Ev) (s : State) (g : Gap), e.cls < 3 → (portOf s p).busMaster = true → (portOf s p).quiet = false → evtOn s p = true → evtFree s p = true → (portOf s p).gap = some g →
    let n := (portOf s p).evtProducer
    ((n + 1) % 65536 + 65536 - (portOf s p).evtConsumer) % 65536 < evtEntries s p →
    let t := raise (.port p) e s
    (portOf t p).gap = none ∧ (portOf t p).evtProducer = ((n + 1) % 65536 + 1) % 65536 ∧ (portOf t p).dropped = (portOf s p).dropped) ∧
  (∀ (e : Ev) (s : State), 3 ≤ e.cls →
    let t := raise .manager e s
    t.lastClass = e.cls ∧ ∀ p : Fin 4, (portOf s p).busMaster = true → (portOf s p).quiet = false → evtOn s p = true → evtFree s p = true → (portOf s p).gap = none →
      (portOf t p).evtProducer = ((portOf s p).evtProducer + 1) % 65536)

/-! Cues and frames -/

/-- CUE_EDGE and CUE_PULSE_END (part of R142, R251, R264 to R267, R289): the earliest edge that has come fires; it counts, starts its pin's pulse, makes a frame due where the cue governs
the frame, reaches its curtain and gives its services their instant.
The model's own readings in it: notes/assumptions/47. -/
def Obligations.CueEdges : Prop :=
  (∀ (g : Fin 16) (s : State), unitsOn s = true → cueOn s g = true → nextEdge s g ≤ tauNow s →
    (∀ h : Fin 16, cueOn s h = true → nextEdge s g ≤ nextEdge s h) → Runs (.cueEdge g) s fun t =>
      let e := nextEdge s g
      let n := ((cueOf s g).edges + 1) % 2 ^ 64
      cueOf t g = ⟨n, e, if actGet s (K.CUE_CTRL_pin g) = 1 then some (e + actGet s (K.CUE_WIDTH_ns g)) else (cueOf s g).pulse, some (stampNow s)⟩ ∧
      (∀ h, h ≠ g.val → cueOf t h = cueOf s h) ∧
      t.frame = (if bitOf (actGet s (K.CUE_CTRL_targets g)) 0 = true ∧ cueGoverns s = true ∧ running s = true then
        { s.frame with due := true, dueEdge := some (g, n) } else s.frame) ∧
      (∀ c, s.curtain = some c → c.atEdge = true → c.gen = g → c.reached = none → c.edge ≠ 0 → c.edge ≤ n →
        t.curtain = some { c with reached := some n }) ∧
      (∀ k, svcOf t k = { svcOf s k with due := (svcOf s k).due ++ if running s = true ∧ k ∈ svcsOf s g then [(e, n)] else [] }) ∧
      t = { s with ing := { s.ing with cues := t.ing.cues, spis := t.ing.spis }, frame := t.frame, curtain := t.curtain,
                   fus := { s.fus with svcs := t.fus.svcs } }) ∧
  (∀ (g : Fin 16) (s : State) (x : Nat), (cueOf s g).pulse = some x → x ≤ tauNow s → Runs (.cuePulseEnd g) s fun t =>
    cueOf t g = { cueOf s g with pulse := none } ∧ cueLevel t g = (actGet s (K.CUE_CTRL_pol g) == 1) ∧ (∀ h, h ≠ g.val → cueOf t h = cueOf s h) ∧
    t = { s with ing := { s.ing with cues := t.ing.cues } })

/-- FRAME_START (part of R142, R145, R147, R310): a frame that is due begins; on each die the passes of the frame that ends are kept and the new frame has none, the arrays that missed
their rehearsal are counted but for the first frame, and every array that runs falls due; one that is not due does nothing.
The model's own readings in it: notes/assumptions/47, 69. -/
def Obligations.FrameStarts : Prop :=
  (∀ (bad : List (Fin 4)) (s : State), running s = true → frameIsDue s = true → Runs (.frameStart bad) s fun t =>
    regGet t K.DPX_FRAME_frame = (regGet s K.DPX_FRAME_frame + 1) % 2 ^ 32 ∧
    t.frame = ⟨false, none, s.tbUnits, s.frame.dueEdge, [], s.frame.golden, (engineBusy s).map fun e => (e, 3)⟩ ∧ t.dpx.rejoin = [] ∧ t.dpx.splitNext = [] ∧
    (∀ d : Fin 4, (∀ w : Fin 6, regGet t (K.REH_DONE_arrays d w) = 0) ∧ (engineOf t d).doubles = [] ∧ (engineOf t d).prevPass = passWords s d ∧
      (engineOf t d).due = ((liveArrays s d).filter fun i => !((engineOf s d).rehearsing.any fun q => q.1 == i)).map (fun i => (i, 0)) ∧
      (engineOf t d).tableBad = ((engineOf s d).tableBad || bad.contains d) ∧ (engineOf t d).tiles = (engineOf s d).tiles ∧
      regGet t (K.REH_MISSED_count d) = (if regGet s K.DPX_FRAME_frame = 0 then regGet s (K.REH_MISSED_count d) else
        min 65535 (regGet s (K.REH_MISSED_count d) +
          ((liveArrays s d).filter fun i => !bitOf (nth (passWords s d) (i / 32) 0) (i % 32)).length))) ∧
    t = { s with reg := t.reg, hosts := t.hosts, mem := { s.mem with host := t.mem.host }, engines := t.engines, frame := t.frame, dpx := t.dpx,
                 realms := t.realms } ∧
    RegsKept (K.DPX_FRAME_frame :: (List.range 4).flatMap fun d => K.REH_MISSED_count d :: (List.range 6).map (K.REH_DONE_arrays d)) s t) ∧
  (∀ (bad : List (Fin 4)) (s : State), (running s = false ∨ frameIsDue s = false) → exec (.frameStart bad) s = .next s)

/-! Sensor ingress -/

/-- Packets at camera, Ethernet and CAN ports (part of R262, R270, R271, R274, R275, R278, R282): a packet that the port takes enters the FIFO with its stamp, in the first enabled
stream that takes it; one that does not pass the checks, or that no stream takes, is discarded.
The model's own readings in it: notes/assumptions/48, 49. -/
def Obligations.PacketsEnterFifos : Prop :=
  (∀ (p : Fin 12) (x : CsiPkt) (s : State) (k : Nat), unitsOn s = true → portRuns s p = true → x.ecc ≠ .bad →
    csiTypes.contains x.dataType.toNat = true → x.vc.val < 4 → streamFor s p (fun k => actGet s (K.STR_CTRL_vc k) == x.vc.val) = some k →
    let line := match x.line with
      | some l => l.toNat
      | none => if x.frameStart then 0 else (strOf s k).line
    let pk : Packet := ⟨k, x.vc, ofBits [x.crcError, x.frameStart, x.frameEnd], stampNow s, x.dataType.toNat + line * 2 ^ 16, x.payload,
      if x.frameStart then some (frameStamp s k (stampNow s)) else none⟩
    ((x.frameEnd = false ∨ regGet s (K.ING_CTRL_test_line p) ≠ 1) → Runs (.csiPacket p x) s fun t => Enters p pk s t ∧
      (strOf t k).line = (line + 1) % 2 ^ 16) ∧
    (x.frameEnd = true → regGet s (K.ING_CTRL_test_line p) = 1 → isFrames s k = true → fits s p (.packet pk) = true → Runs (.csiPacket p x) s fun t =>
      ∃ y, (y = .noTest k ∨ y = .test k (testLine s p k (((strOf s k).producer + openFrames t p k) % 2 ^ 32))) ∧ (ingOf t p).items = (ingOf s p).items ++ [.packet pk, y])) ∧
  (∀ (p : Fin 12) (x : CsiPkt) (s : State), unitsOn s = true → (portRuns s p = false ∨ x.ecc = .bad ∨ csiTypes.contains x.dataType.toNat = false ∨
    4 ≤ x.vc.val ∨ streamFor s p (fun k => actGet s (K.STR_CTRL_vc k) == x.vc.val) = none) → Runs (.csiPacket p x) s (Discards p s)) ∧
  (∀ (m : Fin 4) (x : EthFrame) (s : State) (k : Nat), unitsOn s = true → portRuns s (12 + m.val) = true → x.fcsOk = true → x.bytes.length ≤ 1522 →
    (isPtp x.bytes = true → tbValid s = true) → streamFor s (12 + m.val) (filterMatches s x.bytes) = some k → Runs (.ethRxFrame m x) s
      (Enters (12 + m.val) ⟨k, k, if isPtp x.bytes then 8 else 0, corrected (stampNow s) (-Int.ofNat (regGet s (K.ETH_RX_LAT_lat m)) - asym s m), 0,
        x.bytes, none⟩ s)) ∧
  (∀ (m : Fin 4) (x : EthFrame) (s : State), unitsOn s = true → (portRuns s (12 + m.val) = false ∨ x.fcsOk = false ∨ 1522 < x.bytes.length ∨
    (isPtp x.bytes = true ∧ tbValid s = false) ∨ streamFor s (12 + m.val) (filterMatches s x.bytes) = none) →
    Runs (.ethRxFrame m x) s (Discards (12 + m.val) s)) ∧
  (∀ (m : Fin 4) (x : CanFd) (s : State), unitsOn s = true →
    (∀ k, portRuns s (16 + m.val) = true → streamFor s (16 + m.val) (fun _ => true) = some k → Runs (.canFrame m x) s
      (Enters (16 + m.val) ⟨k, 0, 0, stampNow s, x.ident.toNat + x.ext.toNat * 2 ^ 29 + x.fd.toNat * 2 ^ 30 + x.brs.toNat * 2 ^ 31 + x.dlc.val * 2 ^ 32,
        x.data, none⟩ s)) ∧
    (portRuns s (16 + m.val) = false → Runs (.canFrame m x) s (Discards (16 + m.val) s)))

/-- Capture edges and SPI transactions (part of R268, R275): an accepted edge, with the filter on one whose level holds for 20 ns, is counted and, unless it comes within
40 ns of the one before, stamped and placed in its FIFO; another changes nothing; a trigger starts a transaction unless one runs; the bytes read enter the FIFO with the trigger's stamp.
The model's own readings in it: notes/assumptions/50. -/
def Obligations.CapturesAndSpi : Prop :=
  (∀ (c : Fin 8) (up : Bool) (held : Nat) (s : State), unitsOn s = true → bitOf (actGet s (K.CAP_CTRL_edge c)) (if up then 0 else 1) = true →
    (actGet s (K.CAP_CTRL_filter c) = 1 → 20 ≤ held) → (∀ x, (capOf s c).tick = some x → x + 20 ≤ s.ticks) → Runs (.captureEdge c ⟨up, held⟩) s fun t =>
      regGet t (K.CAP_COUNT_count c) = satInc max32 (regGet s (K.CAP_COUNT_count c)) ∧ regGet t (K.CAP_LAST_NS_ns c) = tbNs s ∧
      capOf t c = ⟨(stampNow s :: (capOf s c).stamps).take 16, some s.ticks, 0⟩ ∧
      (∀ k, portRuns s (22 + c.val) = true → streamFor s (22 + c.val) (fun _ => true) = some k →
        let pk : Packet := ⟨k, if up then 0 else 1, 0, stampNow s, 0, [], none⟩
        fits s (22 + c.val) (.packet pk) = true → (ingOf t (22 + c.val)).items = (ingOf s (22 + c.val)).items ++ [.packet pk]) ∧
      t = { s with reg := t.reg, ing := t.ing } ∧
      RegsKept [K.CAP_COUNT_count c, K.CAP_LAST_NS_ns c, K.ING_LOST_PKTS_count (22 + c.val), K.ING_LOST_BYTES_count (22 + c.val),
        K.ING_HOLD_asserted (22 + c.val), K.ING_HOLD_COUNT_count (22 + c.val)] s t) ∧
  (∀ (c : Fin 8) (up : Bool) (held : Nat) (s : State), (unitsOn s = false ∨ bitOf (actGet s (K.CAP_CTRL_edge c)) (if up then 0 else 1) = false ∨
    (actGet s (K.CAP_CTRL_filter c) = 1 ∧ held < 20)) → exec (.captureEdge c ⟨up, held⟩) s = .next s) ∧
  (∀ (c : Fin 8) (up : Bool) (held : Nat) (s : State) (x : Nat), unitsOn s = true → bitOf (actGet s (K.CAP_CTRL_edge c)) (if up then 0 else 1) = true →
    (actGet s (K.CAP_CTRL_filter c) = 1 → 20 ≤ held) → (capOf s c).tick = some x → s.ticks < x + 20 → Runs (.captureEdge c ⟨up, held⟩) s fun t =>
      Tells .manager ⟨0x0415, 0, false, timeNode, c, (capOf s c).unstamped + 1, 0⟩ t fun u =>
        capOf u c = { capOf s c with tick := some s.ticks, unstamped := (capOf s c).unstamped + 1 } ∧
        regGet u (K.CAP_COUNT_count c) = satInc max32 (regGet s (K.CAP_COUNT_count c)) ∧
        u = { s with reg := u.reg, ing := { s.ing with caps := u.ing.caps } } ∧ RegsKept [K.CAP_COUNT_count c] s u) ∧
  (∀ (m : Fin 2) (s : State) (st : Stamp) (rest : List Stamp), (spiOf s m).due = st :: rest → portRuns s (20 + m.val) = true →
    ((spiOf s m).busy = none → Runs (.spiTrigger m) s fun t => spiOf t m = { spiOf s m with due := rest, busy := some st, cmd := spiCmd s m } ∧
      t = { s with ing := { s.ing with spis := t.ing.spis } }) ∧
    (∀ k, (spiOf s m).busy.isSome = true → streamFor s (20 + m.val) (fun _ => true) = some k → Runs (.spiTrigger m) s fun t =>
      spiOf t m = { spiOf s m with due := rest } ∧
      regGet t (K.ING_LOST_PKTS_count (20 + m.val)) = satInc max32 (regGet s (K.ING_LOST_PKTS_count (20 + m.val))) ∧ t = { s with reg := t.reg, ing := t.ing })) ∧
  (∀ (m : Fin 2) (rx : List Byte) (s : State) (st : Stamp) (k : Nat), unitsOn s = true → (spiOf s m).busy = some st →
    streamFor s (20 + m.val) (fun _ => true) = some k → Runs (.spiTransactionEnd m rx) s fun t =>
      spiOf t m = { spiOf s m with busy := none, next := ((spiOf s m).next + 1) % 2 ^ 32 } ∧
      Enters (20 + m.val) ⟨k, 0, 0, st, (spiOf s m).next, (rx ++ zeros 64).take (spiRead s m), none⟩ s t)

/-- Ethernet flow control and transmission, CAN bus-off, lost packets at a whole second (part of R263, R277, R280, R283).
The model's own readings in it: notes/assumptions/49, 77. -/
def Obligations.EthernetAndSensorHealth : Prop :=
  (∀ (m : Fin 4) (q : BitVec 16) (s : State), unitsOn s = true → Runs (.pauseFrameRx m q) s fun t =>
    macOf t m = { macOf s m with pausedTo := s.ticks + (q.toNat * 256 + 9) / 10 } ∧ (∀ n, n ≠ m.val → macOf t n = macOf s n) ∧
    t = { s with ing := { s.ing with macs := t.ing.macs } }) ∧
  (∀ (m : Fin 4) (s : State), unitsOn s = true → regGet s (K.ING_HOLD_asserted (12 + m.val)) = 1 →
    (macOf s m).pauseAt + msTicks ≤ s.ticks → regGet s (K.ETH_TX_CTRL_pause_en m) = 1 → Runs (.pauseRepeat m) s fun t =>
      macOf t m = { macOf s m with sent := (macOf s m).sent ++ [.pause 0xFFFF], pauseAt := s.ticks } ∧ (∀ n, n ≠ m.val → macOf t n = macOf s n) ∧
      t = { s with ing := { s.ing with macs := t.ing.macs } }) ∧
  (∀ (m : Fin 4) (ws : List HostWrite) (s : State),
    let u := applyWrites ws s
    let h := s.mgrPort
    let base := txBase s m
    let n := 2 ^ regGet s (K.ETH_TX_CTRL_log2_entries m)
    let cons := (macOf s m).txCons
    let pending := (fieldAt (hostRead u h base 2) 0 2 + 65536 - cons) % 65536
    let at_ := base + 32 + 32 * (cons % n)
    let d := hostRead u h at_ 32
    let len := fieldAt d 8 2
    let bytes := hostRead u h (fieldAt d 0 8) len
    let wire := bytes ++ zeros (60 - len)
    txPolled s m = true → 0 < pending → pending ≤ n → (macOf s m).pausedTo ≤ s.ticks → at_ + 32 ≤ 2 ^ 64 →
    (14 ≤ len → len ≤ 1518 → (isPtp bytes = true → tbValid s = true) → Runs (.ethTxFrame m ws) s fun t =>
      macOf t m = { macOf s m with txCons := (cons + 1) % 65536, sent := (macOf s m).sent ++ [.frame (wire ++ leBytes 4 (crc32 wire).toNat)] } ∧
      fieldAt (hostRead t h (base + 8) 2) 0 2 = (cons + 1) % 65536 ∧ fieldAt (hostRead t h (at_ + 10) 1) 0 1 = fieldAt d 10 1 % 2 + 2 ∧
      t = { s with ing := { s.ing with macs := t.ing.macs }, mem := { s.mem with host := t.mem.host } }) ∧
    ((len < 14 ∨ 1518 < len ∨ (isPtp bytes = true ∧ tbValid s = false)) → Runs (.ethTxFrame m ws) s fun t => macOf t m = { macOf s m with txCons := (cons + 1) % 65536 } ∧
      fieldAt (hostRead t h (base + 8) 2) 0 2 = (cons + 1) % 65536 ∧
      t = { s with ing := { s.ing with macs := t.ing.macs }, mem := { s.mem with host := t.mem.host }, hosts := t.hosts })) ∧
  (∀ (m : Fin 4) (e : BitVec 32) (s : State), portRuns s (16 + m.val) = true → Runs (.canBusOff m e) s fun t =>
    Tells .manager ⟨0x0416, 1, true, ingNode, 16 + m.val, e.toNat, 0⟩ t fun u => u = s) ∧
  (∀ s : State, unitsOn s = true → tbSec s ≠ s.ing.second → Runs .sensorHealth s fun t => t.ing.second = tbSec s ∧
    (∀ p : Fin 30, (ingOf t p).secPkts = 0 ∧ (ingOf t p).secBytes = 0 ∧ (ingOf t p).items = (ingOf s p).items) ∧
    ((∀ p : Fin 30, (ingOf s p).secPkts ≤ actGet s (K.ING_DROP_LIMIT_pkts p)) → t.hosts = s.hosts ∧ t.mem = s.mem) ∧
    t = { s with ing := t.ing, hosts := t.hosts, mem := { s.mem with host := t.mem.host } })

/-- INGRESS_DRAIN and TEST_LINE_CHECK (part of R271, R272, R277, R278, R281): the one packet of a FIFO is written into its packet stream at the producer, which moves on, where the consumer
has freed the space (`RingTakes`); one that finds no space stays; the hold follows. A test line is compared once: one that differs is counted, told and entered, and the third on a port
within 100 frames marks the port failed, which holds it.
The model's own readings in it: notes/assumptions/48, 51, 52, 93. -/
def Obligations.IngressDrains : Prop :=
  (∀ (p : Fin 30) (x : Packet) (s : State),
    let k := x.stream
    let r := strRing s k
    let bs := recHeader x.payload.length 0 p x.cls x.flags x.stamp x.info ++ x.payload ++ zeros (roundUp x.payload.length 32 - x.payload.length)
    running s = true → (ingOf s p).items = [.packet x] → actGet s (K.STR_CTRL_enable k) = 1 → actGet s (K.STR_CTRL_port k) = p.val →
    isFrames s k = false → (strOf s k).cur = none →
    (RingFree r bs.length s → Runs (.ingressDrain p []) s fun t =>
      (ingOf t p).items = [] ∧ strOf t k = { strOf s k with producer := ringAfter r bs.length, stopped := false } ∧ RingTakes r p bs s t ∧ HoldFollows p s t ∧
      (∀ q, q ≠ p.val → ingOf t q = ingOf s q) ∧ (∀ j, j ≠ k → strOf t j = strOf s j) ∧
      (chansOf s k = [] → actGet s K.EGO_CTRL_enable ≠ 1 →
        t = { s with reg := t.reg, ing := { s.ing with ports := t.ing.ports, streams := t.ing.streams, macs := t.ing.macs },
                     mem := { s.mem with win := t.mem.win, poisonWin := t.mem.poisonWin } } ∧
        RegsKept [K.ING_HOLD_asserted p, K.ING_HOLD_COUNT_count p] s t)) ∧
    (consOk s r = true → r.size < ringAfter r bs.length - ringCons s r → Runs (.ingressDrain p []) s fun t =>
      (ingOf t p).items = [.packet x] ∧ strOf t k = { strOf s k with stopped := false } ∧ HoldFollows p s t ∧
      (∀ q, q ≠ p.val → ingOf t q = ingOf s q) ∧ (∀ j, j ≠ k → strOf t j = strOf s j) ∧
      t = { s with reg := t.reg, ing := { s.ing with ports := t.ing.ports, streams := t.ing.streams, macs := t.ing.macs } } ∧
      RegsKept [K.ING_HOLD_asserted p, K.ING_HOLD_COUNT_count p] s t)) ∧
  (∀ (p : Fin 30) (s : State), running s = false → exec (.ingressDrain p []) s = .next s) ∧
  (∀ (k : Fin 32) (s : State),
    let p := actGet s (K.STR_CTRL_port k)
    let recent := ((ingOf s p).fails.filter fun x => decide ((strOf s x.1).producer < x.2 + 100)).length
    let fails := (ingOf s p).fails ++ [(k.val, (strOf s k).producer)]
    ((running s = false ∨ (strOf s k).tested = false ∨ (strOf s k).checked.isSome = true) → exec (.testLineCheck k) s = .next s) ∧
    (running s = true → (strOf s k).tested = true → (strOf s k).checked = none → (strOf s k).cur = none →
      (testDiffers s p k = none → Runs (.testLineCheck k) s fun t => strOf t k = { strOf s k with checked := some false } ∧
        (∀ j, j ≠ k.val → strOf t j = strOf s j) ∧ t = { s with ing := { s.ing with streams := t.ing.streams } }) ∧
      (∀ w, p < 30 → testDiffers s p k = some w → (recent < 2 ∨ (ingOf s p).failed = true) → Runs (.testLineCheck k) s fun t =>
        Tells .manager ⟨0x0411, 1, false, ingNode, p, (strOf s k).producer % 2 ^ 32, w⟩ t fun u =>
          strOf u k = { strOf s k with checked := some true } ∧ regGet u (K.TEST_FAIL_count p) = satInc max32 (regGet s (K.TEST_FAIL_count p)) ∧
          ingOf u p = { ingOf s p with fails := fails } ∧ (∀ j, j ≠ k.val → strOf u j = strOf s j) ∧ (∀ q, q ≠ p → ingOf u q = ingOf s q) ∧
          u = { s with reg := u.reg, ing := { s.ing with ports := u.ing.ports, streams := u.ing.streams } } ∧ RegsKept [K.TEST_FAIL_count p] s u) ∧
      (∀ w, p < 30 → testDiffers s p k = some w → 2 ≤ recent → (ingOf s p).failed = false → Runs (.testLineCheck k) s fun t =>
        strOf t k = { strOf s k with checked := some true } ∧ regGet t (K.TEST_FAIL_count p) = satInc max32 (regGet s (K.TEST_FAIL_count p)) ∧
        ingOf t p = { ingOf s p with fails := fails, failed := true, high := (ingOf t p).high } ∧ regGet t (K.ING_HOLD_asserted p) = 1 ∧ HoldFollows p s t ∧
        regGet t K.FAULT_COUNT_c = satInc 255 (regGet s K.FAULT_COUNT_c) ∧ regGet t K.FAULT_LAST_source = ingNode ∧
        (∀ j, j ≠ k.val → strOf t j = strOf s j) ∧ (∀ q, q ≠ p → ingOf t q = ingOf s q) ∧
        t = { s with reg := t.reg, hosts := t.hosts, mem := { s.mem with host := t.mem.host }, lastClass := t.lastClass,
                     ing := { s.ing with ports := t.ing.ports, streams := t.ing.streams, macs := t.ing.macs } } ∧
        RegsKept [K.TEST_FAIL_count p, K.FAULT_COUNT_c, K.FAULT_LAST_source, K.ING_HOLD_asserted p, K.ING_HOLD_COUNT_count p] s t)))

/-! Fusion and planning -/

/-- POST_STREAM_READ and EGO_ADMISSION (part of R285, R293): the module consumes a post stream up to a whole record at most to its producer; one whose producer is out of range, or has not moved,
stays as it is; a step of the integrator runs from the inputs latest at its tick, 200 µs after it.
The model's own readings in it: notes/assumptions/14, 15, 52. -/
def Obligations.PostStreamsAndEgo : Prop :=
  (∀ (c : Fin 32) (s : State),
    let prod := fieldAt (realmRead s 0 (postCb s c) 8) 0 8
    running s = true → (∀ d : Fin 32, (chanOn s d = true ∧ actGet s (K.FUS_CH_CTRL_post d) = 1) ↔ d = c) →
    ((chanOf s c).post < prod → prod ≤ (chanOf s c).post + postSize c → postCb s c + 16 ≤ hostWinBase → Runs (.postStreamRead []) s fun t =>
      (chanOf s c).post ≤ (chanOf t c).post ∧ (chanOf t c).post ≤ prod ∧
      fieldAt (realmRead t 0 (postCb s c + 8) 8) 0 8 = (chanOf t c).post % 2 ^ 64 ∧ (∀ d, d ≠ c.val → chanOf t d = chanOf s d)) ∧
    ((prod ≤ (chanOf s c).post ∨ (chanOf s c).post + postSize c < prod) → exec (.postStreamRead []) s = .next s)) ∧
  (∀ (s : State) (w : Nat × BitVec 16 × BitVec 16) (i : Nat × BitVec 16),
    let e := s.fus.ego
    let at_ := e.next * 1000000
    running s = true → e.on = true → at_ + 200000 ≤ tauNow s → (e.wheels.filter fun x => decide (x.1 ≤ at_)).head? = some w →
    (e.imus.filter fun x => decide (x.1 ≤ at_)).head? = some i → Runs .egoAdmission s fun t =>
      let o := egoStep s (e.poses.headD ⟨at_ - 1000000, 0, 0, f32One, f32Zero⟩) w.2.1 w.2.2 i.2 at_
      t.fus.ego.next = e.next + 1 ∧ t.fus.ego.poses = (o.1 :: e.poses).take 2000 ∧ t.fus.ego.v = o.2.1 ∧ t.fus.ego.yaw = o.2.2 ∧
      regGet t K.EGO_TICKS_count = satInc max32 (regGet s K.EGO_TICKS_count) ∧
      t = { s with reg := t.reg, fus := { s.fus with ego := t.fus.ego }, freeCtr := t.freeCtr, hosts := t.hosts, mem := { s.mem with host := t.mem.host } } ∧
      RegsKept [K.EGO_TICKS_count, K.EGO_STATUS_source] s t) ∧
  (∀ s : State, (running s = false ∨ s.fus.ego.on = false ∨ tauNow s < s.fus.ego.next * 1000000 + 200000) → exec .egoAdmission s = .next s)

/-- Fusion services (part of R144, R289, R297, R298, R310, R312, R318, R329, R332): an instant that is due is admitted after the admission wait and its result is at work; an engine that may go
before its golden workload notes its digest, or in simplex releases the result into its output stream; a stream without a record within its limit is missing, which the age monitor tells; a
golden workload in its turn counts as a pass or removes its engine, in signature mode once the holder's window closes.
The model's own readings in it: notes/assumptions/53, 54, 57, 87, 94. -/
def Obligations.FusionServices : Prop :=
  ((∀ (k : Fin 4) (s : State) (x n : Nat) (rest : List (Nat × Nat)), (svcOf s k).due = (x, n) :: rest →
    ((running s = false ∨ tauNow s < x + admitWait s) → exec (.fusionAdmission k) s = .next s) ∧
    (running s = true → x + admitWait s ≤ tauNow s → Runs (.fusionAdmission k) s fun t =>
      (∃ o, svcOf t k = { svcOf s k with due := rest, work := (svcOf s k).work ++ [⟨o, none, none, false⟩] } ∧ o.instant = x ∧ o.seq = n ∧
        o.out = actGet s (K.FUS_SVC_CTRL_out k) ∧ o.replay = false ∧ o.noPlan = none) ∧
      (∀ j, j ≠ k.val → svcOf t j = svcOf s j) ∧
      (∀ c, chanOf t c = if c < 32 ∧ bitOf (actGet s (K.FUS_SVC_MASK_channels k)) c = true then
        { chanOf s c with admitted := some (max x ((chanOf s c).admitted.getD 0)) } else chanOf s c) ∧
      t = { s with reg := t.reg, hosts := t.hosts, mem := { s.mem with host := t.mem.host },
                   fus := { s.fus with svcs := t.fus.svcs, chans := t.fus.chans, ego := t.fus.ego, motions := t.fus.motions } } ∧
      RegsKept [K.EGO_STATUS_source] s t)) ∧
  (∀ (k : Fin 4) (s : State), (svcOf s k).due = [] → exec (.fusionAdmission k) s = .next s)) ∧
  (∀ (k : Fin 4) (side : Side) (fault : Option (List Byte)) (s : State) (w : Pend) (rest : List Pend), (svcOf s k).work = w :: rest →
    let e := if side = .a then 0 else 1
    let sent := if side = .a then w.digA.isSome else w.digB.isSome
    let dig := some (fault.getD (serviceDigest w.o))
    ((running s = false ∨ engineServes s e = false ∨ sent = true ∨ mayGo s e = false) → exec (.fusionResult k side fault) s = .next s) ∧
    (running s = true → engineServes s e = true → sent = false → mayGo s e = true →
      (enginesDuplex s false = true → Runs (.fusionResult k side fault) s fun t =>
        svcOf t k = { svcOf s k with work := (if side = .a then { w with digA := dig } else { w with digB := dig }) :: rest } ∧
        (∀ j, j ≠ k.val → svcOf t j = svcOf s j) ∧ t.frame = (letGo e s).frame ∧ t = { s with frame := t.frame, fus := { s.fus with svcs := t.fus.svcs } }) ∧
      (enginesDuplex s false = false → Runs (.fusionResult k side fault) s fun t =>
        svcOf t k = { svcOf s k with work := rest, done := w.o :: (svcOf s k).done } ∧ (∀ j, j ≠ k.val → svcOf t j = svcOf s j) ∧
        t.frame = (letGo e s).frame ∧
        t = { s with frame := t.frame, fus := { s.fus with svcs := t.fus.svcs, outs := t.fus.outs }, reg := t.reg, hosts := t.hosts,
                     mem := { s.mem with host := t.mem.host, win := t.mem.win, poisonWin := t.mem.poisonWin } } ∧
        let o := w.o.out
        let payload := sealedRecord w.o (stampNow s) (outMarks s w.o true) ++ w.o.adm
        let bs := recHeader payload.length 0 30 0 0 (stampNow s) 0 ++ payload ++ zeros (roundUp payload.length 32 - payload.length)
        (o < 6 → (outOf s o).gap = none → RingFree (outRing s o) bs.length s →
          outOf t o = { outOf s o with producer := ringAfter (outRing s o) bs.length, stopped := false, last := some (tauNow s), missing := false } ∧
          RingTakes (outRing s o) 30 bs s t)))) ∧
  (∀ (o : Fin 6) (s : State),
    let ms := clampNat 1 2000 (actGet s (K.MISS_LIMIT_ms o))
    let last := (outOf s o).last.getD (outOf s o).from_
    (powered s = true → outOn s o = true → (outOf s o).missing = false → last + ms * 1000000 < tauNow s →
      Runs (.streamMissing o) s fun t => Tells .manager ⟨0x0506, 0, true, islNode (ageIsl s), o, ms, (outOf s o).last.getD (Config.noOutTime o).toNat⟩ t fun u =>
        outOf u o = { outOf s o with missing := true } ∧ (∀ q, q ≠ o.val → outOf u q = outOf s q) ∧ u = { s with fus := { s.fus with outs := u.fus.outs } }) ∧
    ((powered s = false ∨ outOn s o = false ∨ (outOf s o).missing = true ∨ tauNow s ≤ last + ms * 1000000) → exec (.streamMissing o) s = .next s)) ∧
  (∀ (e : Fin 4) (pass : Bool) (s : State),
    ((running s = false ∨ engineIn s e = false ∨ (s.frame.golden.contains e.val = true ∧ goldenAsked s e = false)) →
      exec (.goldenWorkload e pass) s = .next s) ∧
    (running s = true → powered s = true → engineIn s e = true → (s.frame.golden.contains e.val = false ∨ goldenAsked s e = true) →
      let noted := (noteGolden e pass s).dpx.diags
      ((∀ x ∈ s.dpx.diags, ∀ q ∈ x.arrays, q.1 ≠ 4 + e.val) → noted = s.dpx.diags) ∧
      (pass = true → exec (.goldenWorkload e pass) s = .next { s with
        frame := { s.frame with golden := if s.frame.golden.contains e.val = true then s.frame.golden else s.frame.golden ++ [e.val] },
        dpx := { s.dpx with diags := noted } }) ∧
      (pass = false → gates s (holder s) = true → exec (.goldenWorkload e pass) s =
        .next (gate (holder s) (.removeEngine e 0) { s with dpx := { s.dpx with diags := noted } })) ∧
      (pass = false → gates s (holder s) = false → Runs (.goldenWorkload e pass) s fun t =>
        t.dpx.engOut = s.dpx.engOut ++ [e.val] ∧ regGet t K.FAULT_COUNT_c = satInc 255 (regGet s K.FAULT_COUNT_c) ∧
        t.op = (if enginesGone t = true then .safeOff else s.op) ∧
        (enginesGone t = false → regGet t K.FAULT_LAST_source = iodSteward ∧
          t.dpx = { s.dpx with diags := noted, engOut := s.dpx.engOut ++ [e.val], testing := s.dpx.testing.filter (· != 4 + e.val),
                               testNext := s.dpx.testNext.filter (· != 4 + e.val), rejoin := s.dpx.rejoin.filter (· != 4 + e.val) } ∧
          t = { s with reg := t.reg, hosts := t.hosts, mem := { s.mem with host := t.mem.host }, lastClass := 3, dpx := t.dpx } ∧
          RegsKept [K.FAULT_COUNT_c, K.FAULT_LAST_source] s t))))

/-- Planning services (part of R144, R308, R309, R310): a control-cycle edge admits a plan; when the search ends and the engines may go before their golden workload, a newer epoch that crosses the first candidate is pinned for a recheck, else the plan is finished
and both engines send its digest; a recheck that fails takes the next candidate.
The model's own readings in it: notes/assumptions/58, 59, 60, 87. -/
def Obligations.PlanServices : Prop :=
  (∀ (p : Fin 2) (s : State) (x n : Nat) (rest : List (Nat × Nat)), running s = true → (svcOf s (4 + p.val)).due = (x, n) :: rest → x ≤ tauNow s →
    Runs (.planAdmission p) s fun t => svcOf t (4 + p.val) = { svcOf s (4 + p.val) with due := rest } ∧
      ∃ r, t.fus.plans = s.fus.plans ++ [r] ∧ r.subj = .plan p ∧ r.svc = p.val ∧ r.instant = x ∧ r.seq = n ∧ r.checking = false ∧
        t = { s with fus := { s.fus with svcs := t.fus.svcs, plans := t.fus.plans } }) ∧
  (∀ (subj : DupSubject) (s : State) (r : PlanRun) (c : Cand) (cs : List Cand), planOf s subj false = some r → running s = true → r.cands = c :: cs → r.reason = 0 →
    let mayPlan := ∀ e, e = 2 ∨ e = 3 → engineServes s e = true → mayGo s e = true
    ((∃ e, (e = 2 ∨ e = 3) ∧ engineServes s e = true ∧ mayGo s e = false) → exec (.planSearchEnd subj) s = .next s) ∧
    (∀ e, mayPlan → r.rechecks < 8 → newerEpoch s r c = some e → exec (.planSearchEnd subj) s = .next { s with frame := (letAll [2, 3] s).frame, fus := { s.fus with
      plans := s.fus.plans.map fun q => if q == r then { r with epochs := r.epochs ++ [e], checking := true } else q } }) ∧
    (∀ p : Fin 2, mayPlan → subj = .plan p → (8 ≤ r.rechecks ∨ newerEpoch s r c = none) → enginesDuplex s true = true → Runs (.planSearchEnd subj) s fun t =>
      (∃ o, (svcOf t (4 + r.svc)).work = (svcOf s (4 + r.svc)).work ++ [⟨o, some (serviceDigest o), some (serviceDigest o), false⟩] ∧
        o.instant = r.instant ∧ o.seq = r.seq ∧ o.noPlan = none) ∧ r ∉ t.fus.plans ∧ t = { s with frame := (letAll [2, 3] s).frame, fus := { s.fus with svcs := t.fus.svcs, plans := t.fus.plans } })) ∧
  (∀ (p : Fin 2) (s : State) (r : PlanRun), planOf s (.plan p) false = some r → running s = true → r.cands = [] → r.reason ≠ 0 → enginesDuplex s true = true → mayGo s 2 = true → mayGo s 3 = true →
    Runs (.planSearchEnd (.plan p)) s fun t => ∃ o, (svcOf t (4 + r.svc)).work = (svcOf s (4 + r.svc)).work ++ [⟨o, some (serviceDigest o), some (serviceDigest o), false⟩] ∧
      o.instant = r.instant ∧ o.seq = r.seq ∧ o.noPlan = some r.reason) ∧
  (∀ (subj : DupSubject) (s : State) (r : PlanRun) (c : Cand) (cs : List Cand), planOf s subj true = some r → running s = true → r.cands = c :: cs → cs ≠ [] →
    r.rechecks < 7 → blocked s (mapAt s r.mapSet (r.epochs.getLastD 0) r.instant) c.cells c.voxels = true →
    exec (.planRecheck subj) s = .next { s with fus := { s.fus with
      plans := s.fus.plans.map fun q => if q == r then { r with rechecks := r.rechecks + 1, cands := cs, reason := 0 } else q } })

/-! The compute dies -/

/-- The tile window (part of R134 to R137, R144, R148 to R150, R152, R395): a tile that is ready at its turn and whose place takes it enters the window under the next number with the result it forms, else nothing
happens; vehicle-realm tiles come before lodging tiles, an earlier job before a later one; an array that has deferred its due rehearsal twice takes no tile. A tile retires with its checks passed once the relations
on its node's output hold. Hardware that works never fails a checksum, and one wrong cell always fails them. A failed check is a detection against its place, the third place fails the job.
The model's own readings in it: notes/assumptions/69, 86, 87. -/
def Obligations.TileWindow : Prop :=
  (∀ (d : Fin 4) (x : TileDesc) (s : State) (j : Job) (n : GNode),
    let e := engineOf s d
    let r := x.realm.val
    let i := x.cluster.val * 8 + x.array.val
    let live := s.jobs.map (·.acc)
    let defers := x.work.kind = .array ∧ (∃ q ∈ e.due, q.1 = i) ∧ turnCome s d i = true
    Issues s d x j n → Runs (.tileIssue d x) s fun t =>
      (engineOf t d).tiles = e.tiles ++ [⟨e.nextTile, r, x.job, x.node, x.work, x.cluster, x.array, failedAt e x, formTile s d j (jobGraph s j) n x.work⟩] ∧
      (engineOf t d).nextTile = e.nextTile + 1 ∧
      (defers → (engineOf t d).due = e.due.map (fun q => if q.1 = i then (q.1, q.2 + 1) else q) ∧
        regGet t (K.REH_DEFER_count d) = satInc max32 (regGet s (K.REH_DEFER_count d))) ∧
      (¬ defers → (engineOf t d).due = e.due ∧ regGet t (K.REH_DEFER_count d) = regGet s (K.REH_DEFER_count d)) ∧
      (engineOf t d).spent = (if r = 0 then e.spent else tmod 0 r (· + 1) (if (rotationLeft s d).isEmpty then [] else e.spent)) ∧
      (engineOf t d).homes = e.homes.filter (fun h => live.contains h.job) ∧
      engineOf t d = { e with tiles := (engineOf t d).tiles, nextTile := e.nextTile + 1, due := (engineOf t d).due, spent := (engineOf t d).spent,
                              homes := (engineOf t d).homes, owed := (engineOf t d).owed, operands := (engineOf t d).operands } ∧
      EnginesKept d s t ∧ regGet t (K.ENG_HIGH_WATER_tiles d) = max (regGet s (K.ENG_HIGH_WATER_tiles d)) (e.tiles.length + 1) ∧
      t = { s with reg := t.reg, engines := t.engines } ∧ RegsKept [K.ENG_HIGH_WATER_tiles d, K.REH_DEFER_count d] s t) ∧
  (∀ (d : Fin 4) (x : TileDesc) (s : State), (∀ j n, ¬ Issues s d x j n) → exec (.tileIssue d x) s = .next s) ∧
  (∀ (d : Fin 4) (x : TileDesc) (s : State) (j : Job) (n : GNode),
    let i := x.cluster.val * 8 + x.array.val
    Issues s d x j n → windowFree s d x.realm = true ∧ withinRunAhead s d j (jobGraph s j) n.idx = true ∧ inputsReady s d j (jobGraph s j) n = true ∧
      (x.realm ≠ 0 → vehicleWaits s d = false ∧ risesFast s d = false ∧ (spentOf s d x.realm < shareOf s x.realm ∨ rotationLeft s d = [])) ∧
      (∀ k ∈ s.jobs, k.realm = j.realm → k.acc < j.acc → jobReadyAll s d k = 0) ∧
      (x.work.kind = .array → turnCome s d i = true → ∀ q ∈ (engineOf s d).due, q.1 = i → q.2 < 2 ∧ inBurst s d = true)) ∧
  (∀ (d : Fin 4) (k : Nat) (again : Option (Fin 24 × Fin 8)) (s : State) (x : Tile), (engineOf s d).tiles.find? (fun u => u.id == k) = some x →
    let e := engineOf s d
    let rest := e.tiles.filter fun u => u.id != k
    (findJob s x.job = none → Runs (.tileRetire d k {} again) s fun t => engineOf t d = { e with tiles := rest } ∧ EnginesKept d s t ∧ t = { s with engines := t.engines }) ∧
    (∀ (j : Job) (n : GNode), findJob s x.job = some j → (jobGraph s j).nodes[x.node]? = some n →
      let g := jobGraph s j
      ((x.work.kind = .array ∨ (outputsFree s d j g n = true ∧ readsSettled s d j g n = true)) → Runs (.tileRetire d k {} again) s fun t =>
        engineOf t d = { e with tiles := rest, homes := e.homes ++ [⟨x.job, x.node, x.work, x.cluster, x.result⟩] } ∧ EnginesKept d s t ∧
        t = { writeHome s d j g n x with engines := t.engines }) ∧
      (x.work.kind ≠ .array → (outputsFree s d j g n = false ∨ readsSettled s d j g n = false) → exec (.tileRetire d k {} again) s = .next s)) ∧
    (∀ (j : Job) (f : TileFault) (fl : List (Nat × Nat)), findJob s x.job = some j → x.cluster < 24 → x.array < 8 → arrayFault (tileView s x) x.work f = true → sramErrors s f = [] →
      (fl = if x.failed.contains (x.cluster, if x.work.kind = .array then x.array else 0) then x.failed else x.failed ++ [(x.cluster, if x.work.kind = .array then x.array else 0)]) →
      let i := x.cluster * 8 + x.array
      (fl.length < 3 → Runs (.tileRetire d k f none) s fun t =>
        engineOf t d = { e with tiles := rest, owed := e.owed ++ [⟨x.job, x.node, x.work, fl⟩], detections := e.detections ++ [(i, frameNo s)],
                                rehearsing := e.rehearsing.map (fun q => if q.1 = i then (q.1, true) else q),
                                called := if ∃ q ∈ e.called, q.1 = i then e.called else e.called ++ [(i, [i])] } ∧ EnginesKept d s t ∧ t = { s with engines := t.engines }) ∧
      (3 ≤ fl.length → Runs (.tileRetire d k f again) s fun t => findJob t x.job = none ∧ ∃ u, t = engineFault j x.node u ∧ u = { s with engines := u.engines } ∧
        ∀ c, c < 4 → (engineOf u c).tiles = (engineOf s c).tiles.filter (fun y => y.job != x.job))) ∧
    (∀ f : TileFault, arrayFault (tileView s x) x.work f = false → laneFault f = false → (f.sram.zipIdx.all fun y => secDed s.freeCtr y != some true) = true →
      sramErrors s f ≠ [] → exec (.tileRetire d k f again) s = .next { s with lastClass := 1 })) ∧
  (∀ (d : Fin 4) (k : Nat) (f : TileFault) (again : Option (Fin 24 × Fin 8)) (s : State), (∀ u ∈ (engineOf s d).tiles, u.id ≠ k) → (∀ u ∈ (engineOf s d).ghosts, u.id ≠ k) →
    exec (.tileRetire d k f again) s = .next s) ∧
  (∀ (v : MatView) (p : TilePos) (q k : Nat), checksumsHold v p q k {} = true ∧
    ∀ (a : Fin 16) (b : Fin 64) (x : Nat), x % resM ≠ 0 → 16 * p.row + a.val < v.rows → 64 * p.col + b.val < v.cols → checksumsHold v p q k { cells := [(a, b, x)] } = false)

/-- Rehearsals (part of R141 to R147, R150, R151, R394, R395): an idle array rehearses when a detection calls it or its turn in the frame has come, its cluster rehearsing no other; a run with the reference
signature is recorded for the frame and ends what a detection called for, another withdraws the array, or the cluster called to rehearse, as do three detections within 1,000 frames; the last array takes its die
with it; a keep-warm loop that passes counts as the rehearsal of its array, and none runs while the mean reading rises at the limit.
The model's own readings in it: notes/assumptions/68, 85, 87. -/
def Obligations.Rehearsals : Prop :=
  (∀ (d : Fin 4) (c : Fin 24) (a : Fin 8) (s : State),
    let e := engineOf s d
    let i := arrayIdx c a
    let turn := (∃ q ∈ e.called, i ∈ q.2) ∨
      ((∃ q ∈ e.due, q.1 = i) ∧ s.frame.start + i / 48 * groupGap ≤ s.tbUnits ∧ ∀ q ∈ e.due, q.1 / 8 = i / 8 → i ≤ q.1)
    let free := running s = true ∧ arrayIn s d i = true ∧ arrayOn s d i = true ∧ e.tableBad = false ∧ (∀ q ∈ e.rehearsing, q.1 / 8 ≠ i / 8) ∧ ∀ u ∈ e.tiles, onArray u i = false
    (free → turn → Runs (.rehearsal d c a) s fun t =>
      engineOf t d = { e with due := e.due.filter (fun q => q.1 != i), rehearsing := e.rehearsing ++ [(i, false)] } ∧ EnginesKept d s t ∧ t = { s with engines := t.engines }) ∧
    (¬ (free ∧ turn) → exec (.rehearsal d c a) s = .next s)) ∧
  (∀ (d : Fin 4) (c : Fin 24) (a : Fin 8) (run : GoldenRun) (s : State),
    let e := engineOf s d
    let i := arrayIdx c a
    (∀ q ∈ e.rehearsing, q.1 ≠ i) → exec (.rehearsalEnd d c a run) s = .next s) ∧
  (∀ (d : Fin 4) (c : Fin 24) (a : Fin 8) (run : GoldenRun) (s : State) (fell : Bool),
    let e := engineOf s d
    let i := arrayIdx c a
    e.rehearsing.find? (fun q => q.1 == i) = some (i, fell) →
    (goldenOk run = true → fell = false → Runs (.rehearsalEnd d c a run) s fun t =>
      regGet t (K.REH_DONE_arrays d (i / 32)) = withBit (regGet s (K.REH_DONE_arrays d (i / 32))) (i % 32) true ∧
      engineOf t d = { e with rehearsing := e.rehearsing.filter (fun q => q.1 != i), called := (callsAfter e i).filter fun q => !q.2.isEmpty } ∧ EnginesKept d s t ∧
      (callsEnded e i = 0 → regGet t (K.DET_TRANSIENT_count d) = regGet s (K.DET_TRANSIENT_count d) ∧ t.lastClass = s.lastClass) ∧
      (callsEnded e i = 1 → regGet t (K.DET_TRANSIENT_count d) = satInc max32 (regGet s (K.DET_TRANSIENT_count d)) ∧ t.lastClass = 1) ∧
      t = { s with reg := t.reg, engines := t.engines, lastClass := t.lastClass } ∧ RegsKept [K.REH_DONE_arrays d (i / 32), K.DET_TRANSIENT_count d] s t) ∧
    ((goldenOk run = false ∨ fell = true) → arrayIn s d i = true → (∀ q ∈ e.called, q.1 = 192 + c.val → i ∉ q.2) →
      ((∃ k < 192, k ≠ i ∧ arrayIn s d k = true) → Runs (.rehearsalEnd d c a run) s fun t => arrayIn t d i = false ∧
        regGet t (K.DET_WITHDRAWN_arrays d) = min 192 (regGet s (K.DET_WITHDRAWN_arrays d) + 1) ∧ (∀ k < 192, k ≠ i → arrayIn t d k = arrayIn s d k) ∧
        (engineOf t d).tiles = e.tiles.filter (fun u => !onArray u i) ∧
        (engineOf t d).owed = e.owed ++ (e.tiles.filter fun u => onArray u i).map (fun u => ⟨u.job, u.node, u.work, u.failed⟩) ∧ EnginesKept d s t ∧
        t = { s with reg := t.reg, engines := t.engines, lastClass := 1, dpx := { s.dpx with diags := t.dpx.diags } } ∧
        RegsKept [K.SERVICE_arrays d (i / 32), K.DET_WITHDRAWN_arrays d] s t) ∧
      ((∀ k < 192, k ≠ i → arrayIn s d k = false) → Runs (.rehearsalEnd d c a run) s fun t => ∃ u, t = orderRemoval d 2 u ∧ ∀ k < 192, arrayIn u d k = false)) ∧
    ((goldenOk run = false ∨ fell = true) → (∃ q ∈ e.called, q.1 = 192 + c.val ∧ i ∈ q.2) → Runs (.rehearsalEnd d c a run) s fun t => clusterIn t d c = false)) ∧
  (∀ (d : Fin 4) (s : State), Runs (.rehearsalTableReload d) s fun t => engineOf t d = { engineOf s d with tableBad := false } ∧
    EnginesKept d s t ∧ t = { s with engines := t.engines }) ∧
  (∀ (d : Fin 4) (c : Fin 24) (a : Fin 8) (s : State),
    (3 ≤ recentDetections s d (arrayIdx c a) → Runs (.detectionLimit d c (some a)) s fun t => arrayIn t d (arrayIdx c a) = false) ∧
    (recentDetections s d (arrayIdx c a) < 3 → exec (.detectionLimit d c (some a)) s = .next s) ∧
    (3 ≤ recentDetections s d (192 + c.val) → Runs (.detectionLimit d c none) s fun t => clusterIn t d c = false) ∧
    (recentDetections s d (192 + c.val) < 3 → exec (.detectionLimit d c none) s = .next s)) ∧
  (∀ (d : Fin 4) (c : Fin 24) (a : Fin 8) (run : GoldenRun) (s : State),
    let e := engineOf s d
    let i := arrayIdx c a
    let thm := { s.thm with dies := tmod DieTherm.init d (fun x => { x with warming := true }) s.thm.dies }
    (s.op = .warmIdle ∨ s.op = .drive ∨ s.op = .lodge) → dieIn s d = true → warming s d = true →
    (risesFast s d = true → exec (.keepwarmLoop d [(c, a, run)] false) s = .next { s with thm := thm, reg := (regSet K.THM_STATUS_keepwarm_short 0 s).reg }) ∧
    (risesFast s d = false → arrayIn s d i = true → e.tableBad = false → (∀ q ∈ e.rehearsing, q.1 ≠ i) → (∀ u ∈ e.tiles, onArray u i = false) →
      (goldenOk run = true → Runs (.keepwarmLoop d [(c, a, run)] false) s fun t =>
        regGet t (K.REH_DONE_arrays d (i / 32)) = withBit (regGet s (K.REH_DONE_arrays d (i / 32))) (i % 32) true ∧
        engineOf t d = { e with due := e.due.filter (fun q => q.1 != i), called := (callsAfter e i).filter fun q => !q.2.isEmpty } ∧ EnginesKept d s t ∧
        regGet t K.THM_STATUS_keepwarm_short = 0 ∧ t = { s with reg := t.reg, engines := t.engines, thm := thm, lastClass := t.lastClass } ∧
        RegsKept [K.REH_DONE_arrays d (i / 32), K.DET_TRANSIENT_count d, K.THM_STATUS_keepwarm_short] s t) ∧
      (goldenOk run = false → (∃ k < 192, k ≠ i ∧ arrayIn s d k = true) → Runs (.keepwarmLoop d [(c, a, run)] false) s fun t =>
        arrayIn t d i = false ∧ ∀ k < 192, k ≠ i → arrayIn t d k = arrayIn s d k)) ∧
    ((∀ w, s.thm.warmShort = some w → w + hourTicks ≤ s.ticks) → Runs (.keepwarmLoop d [] true) s fun t =>
      Tells .manager ⟨0x070A, 0, false, nodeAddr d 0 0, d, ofSigned 16 ((readingSum s d).1 / Int.ofNat (max 1 (readingSum s d).2)), floorC s * 16⟩ t fun u =>
        regGet u K.THM_STATUS_keepwarm_short = 1 ∧ u = { s with reg := u.reg, thm := { thm with warmShort := some s.ticks } } ∧ RegsKept [K.THM_STATUS_keepwarm_short] s u)) ∧
  (∀ (d : Fin 4) (loops : List (Fin 24 × Fin 8 × GoldenRun)) (short : Bool) (s : State),
    ((s.op ≠ .warmIdle ∧ s.op ≠ .drive ∧ s.op ≠ .lodge) ∨ dieIn s d = false ∨ (warming s d = false ∧ fallsFast s d = false)) →
    exec (.keepwarmLoop d loops short) s = .next s)

/-! Memory -/

/-- Scrub, erased groups, cellar initialisation and placement of rooms (part of R160 to R164, R167, R168, R188, R358): a granule scrubbed moves the scrub on; one wrong symbol of a codeword is corrected, counted and
located, two are not: the granule is poisoned; a DQ group at the threshold is erased; a selected cold room moves to a free HBM slot, an idle hot one to the cellar, its contents unchanged and its old slots in limbo.
The model's own readings in it: notes/assumptions/8, 9, 70, 71, 80. -/
def Obligations.MemoryCare : Prop :=
  (∀ (m : Fin 10) (n : Nat) (u : GranuleUse) (f : GranuleFinding) (s : State), (memReached s m = false ∨ granuleFits s m u = false) →
    exec (.scrubGranule m n u f) s = .next s) ∧
  (∀ (m : Fin 10) (n : Nat) (u : GranuleUse) (f : GranuleFinding) (s : State), memReached s m = true → granuleFits s m u = true →
    ((∀ e ∈ f.errors, e.bits = 0) ∨ granulePoisoned s m n u = true) →
    Runs (.scrubGranule m n u f) s fun t =>
      t.mem.scrubbed = (if s.mem.scrubbed + 1 = scrubTotal then 0 else s.mem.scrubbed + 1) ∧
      regGet t K.MEM_SCRUB_PASS_count = (if s.mem.scrubbed + 1 = scrubTotal then satInc max32 (regGet s K.MEM_SCRUB_PASS_count) else regGet s K.MEM_SCRUB_PASS_count) ∧
      regGet t K.MEM_SCRUB_POS_permille = t.mem.scrubbed * 1000 / scrubTotal ∧ t = { s with reg := t.reg, mem := { s.mem with scrubbed := t.mem.scrubbed } } ∧
      RegsKept [K.MEM_SCRUB_PASS_count, K.MEM_SCRUB_POS_permille] s t) ∧
  (∀ (m : Fin 10) (n : Nat) (u : GranuleUse) (f : GranuleFinding) (w : Fin 2) (y : Nat) (s : State),
    let g := gangOf m f.gang
    let er := erasedOf s m f.gang
    let loc := m.val * 2 ^ 28 + g * 2 ^ 26 + (if 8 ≤ m.val ∧ 64 ≤ y then 1 else 0) * 2 ^ 24 + y * 2 ^ 17
    memReached s m = true → granuleFits s m u = true → granulePoisoned s m n u = false → (∀ v : Fin 2, v ≠ w → wrongSymbols v f.errors = []) →
    (wrongSymbols w f.errors = [y] → (groupOf m n w y ∈ er ∨ er.length < erasedMax m) → Runs (.scrubGranule m n u f) s fun t =>
      (∃ v, Tells .manager ⟨0x0101, 1, false, memNode m, loc + (if er = [] then 0 else 1) * 2 ^ 15, 0, m.val * 2 ^ 60 + n⟩ v (fun q =>
        regGet q K.MEM_CE_COUNT_count = satInc max32 (regGet s K.MEM_CE_COUNT_count) ∧
        regGet q K.MEM_LAST_ERR_locator = loc + (if er = [] then 0 else 1) * 2 ^ 15 ∧ q = { s with reg := q.reg, mem := { s.mem with scrubbed := q.mem.scrubbed } } ∧
        RegsKept [K.MEM_CE_COUNT_count, K.MEM_LAST_ERR_locator, K.MEM_SCRUB_PASS_count, K.MEM_SCRUB_POS_permille] s q) ∧ t = { v with mem := { v.mem with shows := t.mem.shows } }) ∧
      t.mem.shows.getLast? = some ⟨m, g, groupOf m n w y, n, s.ticks⟩ ∧ t.mem.win = s.mem.win ∧ t.mem.room = s.mem.room) ∧
    (∀ z, wrongSymbols w f.errors = [y, z] → er = [] → Runs (.scrubGranule m n u f) s fun t => regGet t K.MEM_UE_COUNT_count = satInc max32 (regGet s K.MEM_UE_COUNT_count) ∧
      regGet t K.MEM_LAST_ERR_locator = loc + 2 * 2 ^ 15 ∧ granulePoisoned t m n u = true ∧ t.mem.win = s.mem.win ∧ t.mem.room = s.mem.room)) ∧
  (∀ (m : Fin 10) (g : Fin 4) (y : Fin 72) (s : State),
    let es := erasedOf s m g
    memReached s m = true → (m.val < 8 ∨ (g.val = 0 ∧ y.val < 64)) → 64 ≤ showCount s m g y → es.length < erasedMax m → y.val ∉ es → Runs (.memErased m g y) s fun t =>
      Tells .manager ⟨0x0104, 1, true, memNode m, locator m g 0 y 0, 0, 0⟩ t fun u => erasedOf u m g = es ++ [y.val] ∧
        (m.val < 8 → bitsAt (regGet u (K.MEM_ERASED_gangs m)) (2 * g.val) 2 = es.length + 1) ∧
        (8 ≤ m.val → bitsAt (regGet u K.MEM_ERASED_CEL_gangs) (2 * (m.val - 8)) 2 = es.length + 1) ∧
        u = { s with reg := u.reg, mem := { s.mem with erased := u.mem.erased } }) ∧
  (∀ (n : Nat) (s : State), 6 ≤ phase s → phase s ≤ 8 → s.boot.cellarIn = true → n < cellarUnits → n ∉ s.mem.initUnits → Runs (.cellarInitUnit n) s fun t =>
    t.mem.initUnits = s.mem.initUnits ++ [n] ∧ (s.mem.initUnits.length + 1 = cellarUnits → regGet t K.BOOT_STATUS_cellar_init = 1) ∧
    t = { s with reg := t.reg, mem := { s.mem with initUnits := t.mem.initUnits } } ∧ RegsKept [K.BOOT_STATUS_cellar_init] s t) ∧
  (∀ (r : Fin 8) (q : BitVec 32) (s : State), running s = true → canPromote s r q.toNat = true → q.toNat < roomCount s r →
    (q.toNat ∈ (realmOf s r).selected ∨ q.toNat ∈ (realmOf s r).askedHot) → Runs (.roomPromote r q) s fun t =>
      roomOf t r q.toNat = { roomOf s r q.toNat with st := .hot, inHbm := true, slots := newSlots s r (roomOf s r q.toNat).home true } ∧
      (∀ p, p ≠ q.toNat → (roomOf s r p).st ≠ .limbo → roomOf t r p = roomOf s r p) ∧ t.mem.room = s.mem.room ∧ t.mem.win = s.mem.win ∧
      t = { s with mem := t.mem, freeCtr := s.freeCtr + 1 }) ∧
  (∀ (r : Fin 8) (d : Fin 4) (q : Nat) (s : State), running s = true → 64 * hbmFreeOn s r d < hbmSlots s r → (demotable s r d).head? = some q →
    Runs (.roomDemote r d) s fun t => (roomOf t r q).st = .cold ∧ (roomOf t r q).inHbm = false ∧ (∀ x ∈ (roomOf t r q).slots, 4 ≤ x.place) ∧
      t.mem.room = s.mem.room ∧ t.mem.win = s.mem.win ∧ t = { s with mem := t.mem, freeCtr := t.freeCtr }) ∧
  (∀ (r : Fin 8) (d : Fin 4) (s : State), (running s = false ∨ hbmSlots s r ≤ 64 * hbmFreeOn s r d) → exec (.roomDemote r d) s = .next s)

/-! Duplex -/

/-- DUPLEX_COMPARE and DPX_WAIT_TIMEOUT (part of R318, R329, R330): equal digests release the withheld result, in signature mode once the holder's window closes; different ones, or one that has not arrived,
open a dispute with DUPLEX_MISMATCH and a diagnosis of both sides, which calls every array of a cluster that held a tile of the job to rehearse; a digest that comes late is noted.
The model's own readings in it: notes/assumptions/62, 63. -/
def Obligations.DuplexCompares : Prop :=
  (∀ (a : Nat) (s : State) (j : Job) (r : JobResult), powered s = true → islRuns s (holder s) = true → findJob s a = some j → j.phase = .withheld → j.held = some r →
    (j.dispute = none →
      (gates s (holder s) = false → exec (.duplexCompare (.job a) none none) s = .next (releaseResult j r false 0 s)) ∧
      (gates s (holder s) = true → (holder s, Decision.release (.job a)) ∉ s.isl.gated →
        exec (.duplexCompare (.job a) none none) s = .next { s with isl := { s.isl with gated := s.isl.gated ++ [(holder s, .release (.job a))] } }) ∧
      (∀ x y : List Byte, x ≠ y → Runs (.duplexCompare (.job a) (some x) (some y)) s fun t =>
        Tells .manager ⟨0x0607, 0, true, islNode (holder s), subjPair s (.job a), 0, frameNo s⟩ t fun u =>
          findJob u a = some { j with dispute := some ⟨some x, some y⟩ } ∧ (∃ z ∈ u.dpx.diags, z.subj = .job a) ∧
          ((∀ z ∈ s.dpx.diags, z.subj ≠ .job a) → ∀ d ∈ sideDies s false ++ sideDies s true, ∀ c ∈ jobClusters s a d, clusterArrays s d c ≠ [] →
            (1000 + c, clusterArrays s d c) ∈ (engineOf u d).called) ∧
          u = { s with jobs := u.jobs, engines := u.engines, dpx := { s.dpx with diags := u.dpx.diags } })) ∧
    (∀ (d : Dispute) (fa fb : Option (List Byte)), j.dispute = some d → Runs (.duplexCompare (.job a) fa fb) s fun t =>
      findJob t a = some { j with dispute := some ⟨(d.digA.or fa).or (some r.digest), (d.digB.or fb).or (some r.digest)⟩ } ∧ t = { s with jobs := t.jobs })) ∧
  (∀ (k : Fin 4) (s : State) (w : Pend) (rest : List Pend) (x : List Byte), powered s = true → islRuns s (holder s) = true → (svcOf s k).work = w :: rest →
    w.dispute = false → w.digA = some x →
    (w.digB = some x → gates s (holder s) = false → Runs (.duplexCompare (.fusion k) none none) s fun t =>
      (svcOf t k).work = rest ∧ (svcOf t k).done = w.o :: (svcOf s k).done) ∧
    (w.digB = none → exec (.duplexCompare (.fusion k) none none) s = .next s) ∧
    (w.digB = none → (holder s, Decision.release (.fusion k)) ∉ s.isl.gated → Runs (.dpxWaitTimeout (.fusion k) .b) s fun t =>
      Tells .manager ⟨0x0607, 0, true, islNode (holder s), 2, 1, frameNo s⟩ t fun u =>
        (svcOf u k).work = { w with dispute := true } :: rest ∧
        u = { s with fus := { s.fus with svcs := u.fus.svcs }, dpx := { s.dpx with diags := u.dpx.diags } })) ∧
  (∀ (x : DupSubject) (m : Side) (s : State), (holder s, Decision.release x) ∈ s.isl.gated → exec (.dpxWaitTimeout x m) s = .next s)

/-- DUPLEX_VERDICT on a disputed job (part of R318, R327, R330, R331, R334): none is given while a side said to pass has rehearsals left to run, and a rehearsal that failed fails its side. Two passes with digests that
agree release the result, with others it is a transient and the job fails; where one side fails the other's result is released as simplex, and what the verdict removes leaves service; where both fail the job
completes DUPLEX_MISMATCH, class D where duplex can no longer go on.
The model's own readings in it: notes/assumptions/41, 63, 64. -/
def Obligations.DuplexVerdicts : Prop :=
  ∀ (a : Nat) (s : State) (j : Job) (r : JobResult) (d : Dispute),
    let p := subjPair s (.job a)
    let ended := endDiag (.job a) s
    let v := fun x y => exec (.duplexVerdict (.job a) x y) s
    powered s = true → islRuns s (holder s) = true → s.op ≠ .safeOff → findJob s a = some j → j.phase = .withheld → j.held = some r → j.dispute = some d →
    (gates s (holder s) = true → (holder s, Decision.verdict (.job a) .pass .pass) ∉ s.isl.gated →
      v .pass .pass = .next { s with isl := { s.isl with gated := s.isl.gated ++ [(holder s, .verdict (.job a) .pass .pass)] } }) ∧
    (gates s (holder s) = false →
      (∀ x, diagOf s (.job a) = some x →
        (x.failA = false → diagTodo s x false = true → v .pass .pass = .next s) ∧
        (diagTodo s x false = false → x.failA = false → x.failB = true → v .pass .pass = v .pass (.fail none))) ∧
      ((∀ x, diagOf s (.job a) = some x → x.failA = false ∧ x.failB = false ∧ diagTodo s x false = false ∧ diagTodo s x true = false) →
        (d.digA.isSome = true → d.digA = d.digB → v .pass .pass = .next (releaseResult j r false 0 ended)) ∧
        ((d.digA = none ∨ d.digA ≠ d.digB) → Runs (.duplexVerdict (.job a) .pass .pass) s fun t => findJob t a = none ∧
          t.dpx.transients = s.dpx.transients ++ [(p, frameNo s)] ∧ regGet t K.DPX_TRANSIENT_count = satInc max32 (regGet s K.DPX_TRANSIENT_count)) ∧
        (p < 2 → Runs (.duplexVerdict (.job a) .pass (.fail none)) s fun t => Tells .manager ⟨0x0609, 1, true, islNode (holder s), p, 0, dF j 16 8⟩ t fun u =>
          ∃ w, Told ended w ∧ u = releaseResult j r true 1 (if diesDuplex s = true then leaveSideB (subjExtents s (.job a)) w else w)) ∧
        (p < 2 → Runs (.duplexVerdict (.job a) (.fail none) .pass) s fun t => Tells .manager ⟨0x0609, 1, true, islNode (holder s), p, 1, dF j 16 8⟩ t fun u =>
          ∃ w, Told ended w ∧ u = releaseResult j r true 1 w) ∧
        (∀ k : Fin 4, p < 2 → k.val ∈ sideDies s true → Runs (.duplexVerdict (.job a) .pass (.fail (some k))) s fun t => dieIn t k = false ∧ findJob t a = none) ∧
        (∀ (k : Fin 4) (c : Fin 24), p < 2 → k.val ∈ sideDies s true → Runs (.duplexVerdict (.job a) .pass (.fail none [(k, c)])) s fun t => clusterIn t k c = false) ∧
        (p < 2 → diesDuplex s = true → Runs (.duplexVerdict (.job a) (.fail none) (.fail none)) s fun t =>
          Tells .manager ⟨0x0608, 3, true, islNode (holder s), p, 3, frameNo s⟩ t fun u =>
            u = recordFault 3 (islNode (holder s)) (dropResult j r ⟨0x23, frameNo s⟩ ended)) ∧
        (p < 2 → diesDuplex s = false → Runs (.duplexVerdict (.job a) (.fail none) (.fail none)) s fun t => t.op = .safeOff)))

/-- Splits, extended tests and signature windows (part of R146, R318, R319, R332): what a holder in signature mode decides waits for its window; signatures that match carry out what the island has gated, others
halt its pair, and nothing it has gated is sent.
The model's own readings in it: notes/assumptions/62, 64. -/
def Obligations.SplitsAndTests : Prop :=
  (∀ (p : Fin 4) (x : DupElement) (b : Bool) (s : State), powered s = true → islRuns s (holder s) = true → gates s (holder s) = true →
    exec (.duplexSplit p) s = .next (gate (holder s) (.split p) s) ∧ exec (.extendedTestDone x b) s = .next (gate (holder s) (.tested (elNum x) b) s)) ∧
  (∀ (p : Fin 4) (s : State), powered s = true → islRuns s (holder s) = true → gates s (holder s) = false →
    (running s = true → s.op ≠ .limp → inTest s p = false → 3 ≤ recentTransients s p → Runs (.duplexSplit p) s fun t =>
      Tells .manager ⟨0x060A, 0, true, islNode (holder s), p, 0, 0⟩ t fun u => u = { s with dpx := { s.dpx with splitNext := s.dpx.splitNext ++ [p.val] } }) ∧
    ((running s = false ∨ s.op = .limp ∨ inTest s p = true ∨ recentTransients s p < 3) → exec (.duplexSplit p) s = .next s)) ∧
  (∀ (x : DupElement) (s : State), powered s = true → islRuns s (holder s) = true → gates s (holder s) = false →
    s.dpx.testing.contains (elNum x) = true → s.dpx.rejoin.contains (elNum x) = false →
    (Runs (.extendedTestDone x true) s fun t => t = { s with reg := t.reg, dpx := { s.dpx with rejoin := s.dpx.rejoin ++ [elNum x] } } ∧
      match x with
      | .die k => (∀ w < 6, regGet t (K.REH_DONE_arrays k w) = regGet s (K.SERVICE_arrays k w)) ∧ RegsKept ((List.range 6).map (K.REH_DONE_arrays k)) s t
      | .engine _ => t.reg = s.reg) ∧
    (s.op ≠ .safeOff → Runs (.extendedTestDone x false) s fun t => Tells .manager ⟨0x060A, 0, true, islNode (holder s), pairOf s (elNum x), 2, 0⟩ t fun u =>
      match x with
      | .die k => dieIn u k = false
      | .engine e => engineIn u e = false)) ∧
  (∀ (i : Isl) (cyc : BitVec 64) (s : State), powered s = true → islLocked s i = true → cmpMode s = 1 →
    exec (.signatureWindowClose i true cyc) s = .next ((s.isl.gated.filter fun x => x.1 == i).foldl (fun s x => carryOut x.2 s)
      { s with isl := { s.isl with gated := s.isl.gated.filter fun x => x.1 != i } }) ∧
    Runs (.signatureWindowClose i false cyc) s fun t => islState t i = 2 ∧ (islOf t i).notice = true ∧ ∀ x ∈ t.isl.gated, x.1 ≠ i)

/-! The safety islands -/

/-- Heartbeats, halts and take-over (part of R315, R316, R318 to R320): three heartbeats missed in a row lose an island, class C, and the other takes every duty, in signature mode once its window closes; a mismatch
halts its pair and its halt notice makes the other take every duty. Class D where the other island does not run, or is not LOCKED while the one that goes holds a duty.
The model's own readings in it: notes/assumptions/62, 77, 88. -/
def Obligations.IslandTakeover : Prop :=
  (∀ (i : Isl) (b : Bool) (s : State), powered s = true → islRuns s (otherIsl i) = true → Runs (.islandHeartbeat i b) s fun t =>
    islOf t i = { islOf s i with missed := if b && islRuns s i then 0 else (islOf s i).missed + 1 } ∧ islOf t (otherIsl i) = islOf s (otherIsl i) ∧
    t = { s with isl := t.isl }) ∧
  (∀ (i : Isl) (s : State),
    let o := otherIsl i
    powered s = true → islRuns s o = true → (islOf s i).lost = false → 3 ≤ (islOf s i).missed →
    Runs (.islandLost i) s fun t => islState t i = (if islState s i = 2 then 2 else 4) ∧ (islOf t i).lost = true ∧
      regGet t K.FAULT_COUNT_c = satInc 255 (regGet s K.FAULT_COUNT_c) ∧
      (gates s o = true → (o, Decision.role o 1) ∈ t.isl.gated ∧ t.isl.duty = s.isl.duty) ∧
      (gates s o = false → t.isl.duty = some o ∧ regGet t K.ISL_STATUS_holder = islNum o) ∧
      ((islState s o = 0 ∨ holdsDuty s i = false) → t.op = s.op) ∧ (islState s o ≠ 0 → holdsDuty s i = true → t.op = .safeOff)) ∧
  (∀ (i : Isl) (s : State), (islOf s i).missed < 3 → exec (.islandLost i) s = .next s) ∧
  (∀ (i : Isl) (cyc : BitVec 64) (s : State),
    let o := otherIsl i
    powered s = true → islLocked s i = true →
    (islRuns s o = true → (holdsDuty s i = false ∨ islState s o = 0) → Runs (.islandMismatch i cyc) s fun t =>
      Tells .manager ⟨0x0601, 0, true, islNode i, islNum i, actGet s K.ISL_CMP_mode, cyc.toNat⟩ t fun u => islState u i = 2 ∧
        islOf u i = { islOf s i with notice := true, dbgHalt := false, core := [], checker := [] } ∧ islOf u o = islOf s o ∧
        u.isl.gated = s.isl.gated.filter (fun x => x.1 != i) ∧ u = { s with reg := u.reg, isl := u.isl } ∧
        RegsKept [islKey i, K.ID_DIES_sia_ok, K.ID_DIES_sib_ok] s u) ∧
    (islRuns s o = true → islState s o ≠ 0 → holdsDuty s i = true → Runs (.islandMismatch i cyc) s fun t => t.op = .safeOff) ∧
    (islRuns s o = false → Runs (.islandMismatch i cyc) s fun t => t.op = .safeOff ∧ t.isl.report = true)) ∧
  (∀ (i : Isl) (s : State),
    let o := otherIsl i
    (islOf s i).notice = true → islRuns s o = true →
    (gates s o = false → Runs (.haltNotice i) s fun t => Tells .manager ⟨0x0604, 0, true, islNode o, islNum o, 0, 0⟩ t fun u => (islOf u i).notice = false ∧
      u.isl.duty = some o ∧ u.isl.gated = s.isl.gated.filter (fun x => x.1 == o) ∧ regGet u K.ISL_STATUS_holder = islNum o ∧
      u = { s with reg := u.reg, isl := u.isl } ∧ RegsKept [K.ISL_STATUS_holder] s u) ∧
    (gates s o = true → Runs (.haltNotice i) s fun t => (o, Decision.role o 0) ∈ t.isl.gated ∧ (islOf t i).notice = false ∧ t.isl.duty = s.isl.duty ∧
      t = { s with isl := t.isl }))

/-- Self-tests and latent differences of an island (part of R319 to R322, R324): the verdict re-locks the pair, leaves it on the good core, or fails it, and brings the report of a class D that waited for it; a
repaired difference is a re-lock, the fourth within 60 min, or one that parity cannot repair, a mismatch; a failed slice leaves the island on the other core.
The model's own readings in it: notes/assumptions/8, 12. -/
def Obligations.IslandSelfTests : Prop :=
  (∀ (i : Isl) (s : State), selfTesting s i = true →
    (s.isl.report = false →
      (Runs (.islandVerdict i .bothGood) s fun t => Tells .manager ⟨0x0602, 1, false, islNode i, islNum i, 0, 0⟩ t fun u => islState u i = 0 ∧
        islOf u i = { islOf s i with lost := false, missed := 0 } ∧ u = { s with reg := u.reg, isl := u.isl } ∧ RegsKept [islKey i, K.ID_DIES_sia_ok, K.ID_DIES_sib_ok] s u) ∧
      (∀ b, Runs (.islandVerdict i (if b then .mainBroken else .checkerBroken)) s fun t =>
        Tells .manager ⟨0x0602, 3, true, islNode i, islNum i, if b then 1 else 2, 0⟩ t fun u => islState u i = 3 ∧
          islOf u i = { islOf s i with lost := false, missed := 0, onChecker := b, oneCore := true } ∧
          regGet u K.FAULT_COUNT_c = satInc 255 (regGet s K.FAULT_COUNT_c) ∧ regGet u K.FAULT_LAST_source = islNode i) ∧
      (Runs (.islandVerdict i .bothBroken) s fun t => Tells .manager ⟨0x0602, 3, true, islNode (otherIsl i), islNum i, 3, 0⟩ t fun u => islState u i = 4 ∧
        regGet u K.FAULT_COUNT_c = satInc 255 (regGet s K.FAULT_COUNT_c) ∧ regGet u K.FAULT_LAST_source = islNode (otherIsl i))) ∧
    (s.isl.report = true →
      (Runs (.islandVerdict i .bothGood) s fun t => Tells .manager ⟨0x060D, 4, true, islNode i, 1, 0, 0⟩ t fun u => u.isl.report = false ∧ islState u i = 0) ∧
      (selfTesting s (otherIsl i) = false → Runs (.islandVerdict i .bothBroken) s fun t => Tells .manager ⟨0x060D, 4, true, iodSteward, 1, 0, 0⟩ t fun u =>
        u.isl.report = false ∧ islState u i = 4) ∧
      (selfTesting s (otherIsl i) = true → Runs (.islandVerdict i .bothBroken) s fun t => t.isl.report = true ∧ islState t i = 4))) ∧
  (∀ (i : Isl) (m c : Bool) (s : State), powered s = true → islLocked s i = true →
    exec (.islandLatent i true m c) s = .next s ∧
    ((m || c) = true → Runs (.islandLatent i false m c) s fun t =>
      Tells .manager ⟨0x0603, 1, false, islNode i, islNum i, (recentLocks s i).length + 1, 0⟩ t fun u =>
        islOf u i = { islOf s i with relocks := recentLocks s i ++ [s.ticks] } ∧ u = { s with isl := u.isl }) ∧
    ((m || c) = false → Runs (.islandLatent i false m c) s fun t => islState t i = 2) ∧
    (4 ≤ (recentLocks s i).length → Runs (.islandLatentLimit i) s fun t => islState t i = 2 ∧ (islOf t i).notice = true) ∧
    ((recentLocks s i).length < 4 → exec (.islandLatentLimit i) s = .next s)) ∧
  (∀ (i : Isl) (main : Bool) (s : State), exec (.selfTestSlice i main true) s = .next s ∧
    (islState s i = 1 → islRuns s i = true → Runs (.selfTestSlice i main false) s fun t => islState t i = 3 ∧ (islOf t i).onChecker = main ∧ (islOf t i).oneCore = true))

/-- Resets and clock losses of an island, debug sessions (part of R320, R324, R325, R424, R426): an island that comes out of reset is LOCKED, or stays SINGLE with one core broken. A licence opens a session; within
its scope a debugger writes into the main core of a locked island and, in the same cycle, into its checker, reads back what it wrote, and halts the pair outside driving; all else does nothing.
The model's own readings in it: notes/assumptions/65, 88. -/
def Obligations.IslandResetsAndDebug : Prop :=
  (∀ (i : Isl) (s : State), powered s = true →
    (islLocked s (otherIsl i) = true → (Runs (.islandReset i) s fun t => islOf t i = { islOf s i with resetLow := true, stopped := true } ∧ t = { s with isl := t.isl }) ∧
      Runs (.islandClockLoss i) s fun t => islOf t i = { islOf s i with stopped := true } ∧ t = { s with isl := t.isl }) ∧
    (islLocked s (otherIsl i) = false → Runs (.islandReset i) s fun t => t.op = .safeOff) ∧
    (islRuns s (otherIsl i) = false → Runs (.islandClockLoss i) s fun t => t.op = .safeOff) ∧
    ((islOf s i).resetLow = true → Runs (.islandResetRelease i true) s fun t => islState t i = (if (islOf s i).oneCore = true then 3 else 0) ∧
      islOf t i = { islOf s i with resetLow := false, stopped := false, lost := false, missed := 0, notice := false, relocks := [], dbgHalt := false, core := [], checker := [] }) ∧
    ((islOf s i).resetLow = true → Runs (.islandResetRelease i false) s fun t => islState t i = 4 ∧ (islOf t i).resetLow = false)) ∧
  (∀ (l : DebugLicence) (s : State),
    let low := l.serial.toNat % 2 ^ 64
    powered s = true →
    (licenceOk s l = true → Runs (.debugSession l) s fun t => Tells .manager ⟨0x060E, 0, true, islNode (keyIsl s), 0, l.scope.toNat, low⟩ t fun u =>
      regGet u K.DBG_STATUS_active = 1 ∧ regGet u K.DBG_STATUS_scope = l.scope.toNat ∧ u.isl = { s.isl with dbgSerial := low, dbgEver := true } ∧
      u = { s with reg := u.reg, isl := u.isl } ∧ RegsKept [K.DBG_STATUS_active, K.DBG_STATUS_scope] s u) ∧
    (licenceOk s l = false → Runs (.debugSession l) s fun t => Tells .manager ⟨0x060E, 0, true, islNode (keyIsl s), 2, l.scope.toNat, low⟩ t fun u => u = s)) ∧
  (∀ (x : DebugTarget) (act : DebugAct) (s : State), regGet s K.DBG_STATUS_active ≠ 1 → exec (.debugAction x act) s = .next s) ∧
  (∀ (i : Isl) (act : DebugAct) (s : State), (bitOf (regGet s K.DBG_STATUS_scope) (islNum i) = false ∨ islLocked s i = false) →
    exec (.debugAction (.island i) act) s = .next s) ∧
  (∀ (i : Isl) (s : State), regGet s K.DBG_STATUS_active = 1 → bitOf (regGet s K.DBG_STATUS_scope) (islNum i) = true → islLocked s i = true →
    (bitOf (regGet s K.DBG_STATUS_scope) 3 = true → s.inDrive = false → Runs (.debugAction (.island i) .halt) s fun t =>
      islOf t i = { islOf s i with dbgHalt := true, core := [], checker := [] } ∧ t = { s with isl := t.isl }) ∧
    ((bitOf (regGet s K.DBG_STATUS_scope) 3 = false ∨ s.inDrive = true) → exec (.debugAction (.island i) .halt) s = .next s) ∧
    (∀ (a v : BitVec 64), Runs (.debugAction (.island i) (.writeMem a v)) s fun t => (a.toNat, v.toNat) ∈ (islOf t i).core ∧ (a.toNat, v.toNat) ∈ (islOf t i).checker ∧
      (∀ x ∈ (islOf t i).core, x.1 = a.toNat → x.2 = v.toNat) ∧ islOf t i = { islOf s i with core := (islOf t i).core, checker := (islOf t i).checker } ∧
      islOf t (otherIsl i) = islOf s (otherIsl i) ∧ t = { s with isl := t.isl }) ∧
    (∀ (n : Nat) (v : BitVec 64), Runs (.debugAction (.island i) (.writeReg n v)) s fun t => (2 ^ 64 + n, v.toNat) ∈ (islOf t i).core ∧
      (2 ^ 64 + n, v.toNat) ∈ (islOf t i).checker ∧ t = { s with isl := t.isl }) ∧
    (∀ (a : BitVec 64) (v : Nat), (islOf s i).dbgHalt = true → (islOf s i).core.find? (fun x => x.1 == a.toNat) = some (a.toNat, v) →
      exec (.debugAction (.island i) (.readMem a)) s = .next { s with isl := { s.isl with dbgRead := v } }) ∧
    ((islOf s i).dbgHalt = false → exec (.debugAction (.island i) .step) s = .next s)) ∧
  (∀ (d : Fin 5) (act : DebugAct) (s : State), (bitOf (regGet s K.DBG_STATUS_scope) 2 = false ∨ ((∀ n, act ≠ .readReg n) ∧ ∀ a, act ≠ .readMem a)) →
    exec (.debugAction (.steward d) act) s = .next s) ∧
  (∀ (d : Fin 5) (a : BitVec 64) (s : State), regGet s K.DBG_STATUS_active = 1 → bitOf (regGet s K.DBG_STATUS_scope) 2 = true →
    Runs (.debugAction (.steward d) (.readMem a)) s fun t => t = { s with freeCtr := s.freeCtr + 1, isl := { s.isl with dbgRead := t.isl.dbgRead } }) ∧
  (∀ s : State, regGet s K.DBG_STATUS_active = 1 → Runs .debugSessionClose s fun t =>
    Tells .manager ⟨0x060E, 0, true, islNode (keyIsl s), 1, regGet s K.DBG_STATUS_scope, s.isl.dbgSerial⟩ t fun u =>
      regGet u K.DBG_STATUS_active = 0 ∧ regGet u K.DBG_STATUS_scope = 0 ∧ u.isl.dbgSerial = 0 ∧
      (∀ i, islOf u i = { islOf s i with dbgHalt := false, core := [], checker := [] }) ∧
      u = { s with reg := u.reg, isl := u.isl } ∧ RegsKept [K.DBG_STATUS_active, K.DBG_STATUS_scope] s u)

/-! Links -/

/-- Flits, replay and lane health (part of R341 to R347): a flit crosses the wire with its CRC and the parity of its lanes; each is delivered once, in order, a bad one or a gap asks for one replay; eight replays in
a row retrain the link; a lane over the threshold leaves the good set; a spare takes its place; without one the direction steps down to the width its good lanes allow.
The model's own readings in it: notes/assumptions/8, 72, 89. -/
def Obligations.LinkHealth : Prop :=
  (∀ (w seq ack : Nat) (x : Flit), (w = 16 ∨ w = 32 ∨ w = 48 ∨ w = 64) → crcHolds (flitBytes seq ack x) = true ∧
    flitData (flitWire w (flitBytes seq ack x)) = flitBytes seq ack x ∧ ∀ m g e, parityFails ⟨w, m, g, e⟩ (flitWire w (flitBytes seq ack x)) = []) ∧
  (∀ (l : Fin 8) (rev : Bool) (n : Nat) (x y : Flit) (bad : List (Fin 68 × Fin 72)) (s : State), linkState s l = 2 → unitsOn s = true →
    let k := linkOf s l
    let f := flowOf k rev
    let other := flowOf k (!rev)
    let c := Instr.flitReceive l (if rev then .rev else .fwd) n x bad
    (flitSent f n x = none → exec c s = .next s) ∧
    (flitSent f n x = some y →
      let d := dirOf k rev
      let rx := flitArrives d bad (flitWire d.width (flitBytes n other.want y))
      let f' := if n = f.sent then { f with sent := f.sent + 1, buf := f.buf ++ [y] } else f
      let good := parityFails d rx = [] ∧ crcHolds (flitData rx) = true
      let errs := k.errs.filter (fun e => decide (s.ticks < e.2.2 + secondTicks)) ++ (parityFails d rx).map fun p => (rev, p, s.ticks)
      (n = f.want → good → Runs c s fun t => flowOf (linkOf t l) rev = { f' with want := n + 1, run := 0, got := some y } ∧
        flowOf (linkOf t l) (!rev) = acknowledge other.want other ∧ (linkOf t l).errs = errs ∧ t = { s with links := t.links }) ∧
      ((n = f.want ∧ ¬ good ∨ f.want < n ∧ f.run = 0) → Runs c s fun t => flowOf (linkOf t l) rev = { f' with run := f.run + 1 } ∧
        flowOf (linkOf t l) (!rev) = other ∧ (linkOf t l).errs = errs ∧ regGet t (K.LNK_RETRY_count l) = satInc max32 (regGet s (K.LNK_RETRY_count l)) ∧
        t = { s with reg := t.reg, links := t.links } ∧ RegsKept [K.LNK_RETRY_count l] s t) ∧
      ((n < f.want ∨ f.want < n ∧ f.run ≠ 0) → Runs c s fun t => flowOf (linkOf t l) rev = f' ∧ flowOf (linkOf t l) (!rev) = other ∧ (linkOf t l).errs = errs ∧
        t = { s with links := t.links }))) ∧
  (∀ (l : Fin 8) (f r : BitVec 68) (s : State), linkState s l = 2 → unitsOn s = true → (linkOf s l).retrain = none →
    (8 ≤ (linkOf s l).flowF.run ∨ 8 ≤ (linkOf s l).flowR.run) → Runs (.replayLimit l f r) s fun t =>
    (∀ p < 68, bitOf (linkOf t l).fwd.good p = (bitOf (linkOf s l).fwd.good p && f.getLsbD p) ∧
      bitOf (linkOf t l).rev.good p = (bitOf (linkOf s l).rev.good p && r.getLsbD p)) ∧
    (if 16 ≤ goodLanes (linkOf t l).fwd ∧ 16 ≤ goodLanes (linkOf t l).rev then linkState t l = 1 ∧ (linkOf t l).retrain = some 0 ∧
      (linkOf t l).flowF.run = 0 ∧ (linkOf t l).flowR.run = 0 else linkState t l = 3)) ∧
  (∀ (l : Fin 8) (f r : BitVec 68) (s : State), (linkState s l ≠ 2 ∨ unitsOn s = false ∨ ((linkOf s l).flowF.run < 8 ∧ (linkOf s l).flowR.run < 8)) →
    exec (.replayLimit l f r) s = .next s) ∧
  (∀ (l : Fin 10) (rev : Bool) (p : Fin 68) (n : Nat) (s : State),
    let c := Instr.laneErrorThreshold l (if rev then .rev else .fwd) p n
    ((errsOf s l rev p + n ≤ laneLimit s ∨ unitsOn s = false) → exec c s = .next s) ∧
    (laneLimit s < errsOf s l rev p + n → unitsOn s = true → bitOf (dirOf (linkOf s l) rev).good p = true →
      (l.val < 8 → (linkState s l = 1 ∨ linkState s l = 2) → Runs c s fun t =>
        bitOf (dirOf (linkOf t l) rev).good p = false ∧ regGet t (K.LNK_LANE_ERR_lane l) = p ∧ regGet t (K.LNK_LANE_ERR_dir l) = rev.toNat ∧
        (16 ≤ goodLanes (linkOf t l).fwd → 16 ≤ goodLanes (linkOf t l).rev → linkState t l = linkState s l ∧
          ((dirOf (linkOf s l) rev).map.contains p.val = true → (linkOf t l).left = (linkOf s l).left ++ [(rev, p.val)])) ∧
        ((linkOf s l).retrain = none → (goodLanes (linkOf t l).fwd < 16 ∨ goodLanes (linkOf t l).rev < 16) → linkState t l = 3)) ∧
      (8 ≤ l.val → p.val < 8 →
        let i : Isl := if l.val = 8 then .a else .b
        islRuns s (otherIsl i) = true → Runs c s fun t => (islOf t i).lost = true))) ∧
  (∀ (l : Fin 8) (rev : Bool) (p : Fin 68) (q : Nat) (qs : List Nat) (s : State), linkState s l = 2 → unitsOn s = true → (linkOf s l).left.contains (rev, p.val) = true →
    spares (dirOf (linkOf s l) rev) = q :: qs → Runs (.laneSpared l (if rev then .rev else .fwd) p) s fun t =>
      let d := dirOf (linkOf s l) rev
      let e := (d.epoch + 1) % 2 ^ 32
      Tells .manager ⟨0x0301, 1, false, linkNode l rev, l, rev.toNat + p.val * 256, e⟩ t fun u =>
        dirOf (linkOf u l) rev = { d with map := d.map.map (fun x => if x = p.val then q else x), epoch := e } ∧
        (linkOf u l).left = (linkOf s l).left.filter (· != (rev, p.val)) ∧
        (∀ fin < 2, tget LinkDir.init (recordKey l fin rev) u.kept.records =
          if endWrites s (if fin = 0 then (linkEnds l).1 else (linkEnds l).2) = true then dirOf (linkOf u l) rev else tget LinkDir.init (recordKey l fin rev) s.kept.records) ∧
        u = { s with reg := u.reg, links := u.links, kept := { s.kept with records := u.kept.records } }) ∧
  (∀ (l : Fin 8) (rev : Bool) (s : State), linkState s l = 2 → unitsOn s = true →
    (stepDue (linkOf s l) rev = true → Runs (.linkNarrowed l (if rev then .rev else .fwd)) s fun t => linkState t l = 1 ∧ (linkOf t l).retrain = some 1 ∧
      let d := dirOf (linkOf s l) rev
      dirOf (linkOf t l) rev = ⟨widthFor (goodLanes d), newMap d.good (widthFor (goodLanes d)), d.good, (d.epoch + 1) % 2 ^ 32⟩) ∧
    (stepDue (linkOf s l) rev = false → exec (.linkNarrowed l (if rev then .rev else .fwd)) s = .next s))

/-- LNK_RETRAIN_REQUEST and LINK_RETRAIN (part of R345, R346, R349, R362): in WARM_IDLE the manager host retrains in full each link named that is up or failed; from another host or in another state the write is
counted and does nothing. A retrain that completes brings the link up, counted and told; a full one takes the widths that its lane test allows; a link left under 16 good lanes fails.
The model's own readings in it: notes/assumptions/72. -/
def Obligations.LinkRetrains : Prop :=
  (∀ (p : Fin 4) (m : BitVec 8) (s : State), windowOpen s p = true → p.val = s.mgrPort → s.op = .warmIdle → Runs (.lnkRetrainRequest p m) s fun t =>
    (∀ l : Fin 8, if m.getLsbD l ∧ (linkOf s l).retrain = none ∧ (linkState s l = 2 ∨ linkState s l = 3) then
      linkState t l = 1 ∧ (linkOf t l).retrain = some 3 else linkState t l = linkState s l ∧ linkOf t l = linkOf s l) ∧
    t = { s with reg := t.reg, links := t.links } ∧ RegsKept ((List.range 8).map K.LNK_STATUS_state) s t) ∧
  (∀ (p : Fin 4) (m : BitVec 8) (s : State), windowOpen s p = true → (p.val ≠ s.mgrPort ∨ s.op ≠ .warmIdle) → Runs (.lnkRetrainRequest p m) s
    (FieldSet (K.HOST_DENIED_count p) (satInc max32) s)) ∧
  (∀ (l : Fin 8) (f r : BitVec 68) (us : BitVec 64) (s : State) (c : Nat),
    let cmd := Instr.linkRetrain l f r us
    unitsOn s = true → (linkOf s l).retrain = some c →
    (c ≠ 2 → (∃ d < 4, d ∈ [(linkEnds l).1, (linkEnds l).2] ∧ dieIn s d = false) → Runs cmd s fun t => linkState t l = 0 ∧
      linkOf t l = { linkOf s l with retrain := none } ∧ t = { s with reg := t.reg, links := t.links } ∧ RegsKept [K.LNK_STATUS_state l] s t) ∧
    ((∀ d < 4, d ∈ [(linkEnds l).1, (linkEnds l).2] → dieIn s d = true) →
      (c ≠ 3 → 16 ≤ goodLanes (linkOf s l).fwd → 16 ≤ goodLanes (linkOf s l).rev → Runs cmd s fun t => ∃ v, t = showLink l v ∧
        Tells .manager ⟨0x0304, 0, false, nodeAddr 4 0 0, l, c, us.toNat⟩ v fun u =>
          linkState u l = 2 ∧ linkOf u l = { linkOf s l with retrain := none, trained := true } ∧
          regGet u (K.LNK_RETRAIN_count l) = satInc max32 (regGet s (K.LNK_RETRAIN_count l)) ∧
          regGet u (K.WEAR_RETRAIN_count l) = satInc max32 (regGet s (K.WEAR_RETRAIN_count l)) ∧ u = { s with reg := u.reg, links := u.links }) ∧
      (c ≠ 3 → (goodLanes (linkOf s l).fwd < 16 ∨ goodLanes (linkOf s l).rev < 16) → Runs cmd s fun t => linkState t l = 3) ∧
      (c = 3 → 16 ≤ popCount 68 f.toNat → 16 ≤ popCount 68 r.toNat → Runs cmd s fun t => linkState t l = 2 ∧ (linkOf t l).retrain = none ∧
        (linkOf t l).fwd = fullDir f.toNat (linkOf s l).fwd ∧ (linkOf t l).rev = fullDir r.toNat (linkOf s l).rev ∧
        (linkOf t l).fwd.width = widthFor (popCount 68 f.toNat) ∧ (linkOf t l).rev.width = widthFor (popCount 68 r.toNat)) ∧
      (c = 3 → (popCount 68 f.toNat < 16 ∨ popCount 68 r.toNat < 16) → Runs cmd s fun t => linkState t l = 3))) ∧
  (∀ (l : Fin 8) (f r : BitVec 68) (us : BitVec 64) (s : State), ((linkOf s l).retrain = none ∨ unitsOn s = false) → exec (.linkRetrain l f r us) s = .next s)

/-- The management ring and the reset of one die (part of R17, R318, R348): the first break is recorded; later ones remove the dies that no running island reaches, take the module to SAFE_OFF where the IOD is one,
and lose an island that the other no longer reaches; a die that may be reset loses its engine's work and trains its links; at a frame start it rejoins, its mirror copied from its partner and no rehearsal passed,
once one of them is up.
The model's own readings in it: notes/assumptions/72, 73. -/
def Obligations.RingAndDieReset : Prop :=
  (∀ (g : Fin 7) (s : State),
    let cut := { s with boot := { s.boot with broken := s.boot.broken ++ [g.val] } }
    powered s = true →
    (s.boot.broken = [] → exec (.mgmtSegmentBreak g) s = .next { cut with lastClass := 1 }) ∧
    (s.boot.broken ≠ [] → g.val ∉ s.boot.broken → Runs (.mgmtSegmentBreak g) s fun t => t.boot.broken = cut.boot.broken ∧
      (cmpMode s ≠ 1 → ∀ i < 7, nth ringNodes i 0 < 4 → reached cut i = false → dieIn t (nth ringNodes i 0) = false ∨ t.op = .safeOff) ∧
      (reached cut 3 = false → t.op = .safeOff) ∧ (reached cut 0 = false → islRuns s .b = true → (islOf t .a).lost = true)) ∧
    (g.val ∈ s.boot.broken → exec (.mgmtSegmentBreak g) s = .next s)) ∧
  (∀ (d : Fin 4) (tr : List LinkTrain) (s : State),
    (mayReset s d = true → Runs (.partialReset d tr) s fun t => (d.val, s.ticks) ∈ t.boot.resetAt ∧ engineOf t d = Engine.init ∧
      t.boot.resetting.contains d.val = (linksOf d).any fun l => linkState t l == 1 || linkState t l == 2) ∧
    (mayReset s d = false → exec (.partialReset d tr) s = .next s)) ∧
  (∀ (d : Fin 4) (s : State),
    let ready := d.val ∈ s.boot.resetting ∧ running s = true ∧ s.frame.start = s.tbUnits ∧ ∃ l ∈ linksOf d, linkState s l = 2
    (ready → gates s (holder s) = false → Runs (.partialResetRejoin d) s fun t =>
      Tells .manager ⟨0x0309, 0, true, islNode (keyIsl s), d, 1, 0⟩ t fun u => dieIn u d = true ∧ (∀ w : Fin 6, regGet u (K.REH_DONE_arrays d w) = 0) ∧
        u = { refill d { s with boot := { s.boot with resetting := s.boot.resetting.filter (· != d.val) } } with reg := u.reg } ∧
        RegsKept (K.ID_DIES_in_service :: (List.range 6).map (K.REH_DONE_arrays d)) s u) ∧
    (ready → gates s (holder s) = true → exec (.partialResetRejoin d) s = .next (gate (holder s) (.restoreDie d) s)) ∧
    (¬ ready → exec (.partialResetRejoin d) s = .next s))

/-! Power, reset and boot -/

/-- Resets and power (part of R29, R355, R361, R396, R403, R411, R422, R423, R426): MRST_N resets every register but the wear counters and releases the boot where the rails are good; removing the power keeps
only the always-on store; a wake from DORMANT keeps the time base. The hosts' own memory is not the module's.
The model's own readings in it: notes/assumptions/3, 7. -/
def Obligations.PowerAndReset : Prop :=
  (∀ (x : Fin 4) (s : State), s.boot.mrstLow = true →
    (Runs (.mrstRelease x true) s fun t => t.op = .booting ∧ t.mgrPort = x ∧ regGet t K.BOOT_STATUS_phase = 1 ∧ islState t .a = 2 ∧ islState t .b = 2 ∧
      realmPort t 0 = x ∧ t.boot = { s.boot with mrstLow := false, railsGood := true, relTick := s.ticks }) ∧
    exec (.mrstRelease x false) s = .next { s with mgrPort := x, boot := { s.boot with mrstLow := false, railsGood := false } }) ∧
  (∀ (x : Fin 4) (b : Bool) (s : State), s.boot.mrstLow = false → exec (.mrstRelease x b) s = .next s) ∧
  (∀ s : State, s.boot.mrstLow = false →
    (s.boot.railsGood = false → Runs .railsGood s fun t => t.op = .booting ∧ regGet t K.BOOT_STATUS_phase = 1 ∧
      t.boot = { s.boot with railsGood := true, relTick := s.ticks }) ∧
    (s.boot.railsGood = true → exec .railsGood s = .next s)) ∧
  (∀ s : State, Runs .mrstAssert s fun t => t.op = .off ∧ t.boot.mrstLow = true ∧ t.jobs = [] ∧ t.inDrive = false ∧ t.tbUnits = 0 ∧ t.ticks = s.ticks ∧ t.refSys = s.refSys ∧
    (∀ i, islOf t i = { Island.init with resetLow := (islOf s i).resetLow }) ∧ t.boot = { Boot.init with mrstLow := true, railsGood := s.boot.railsGood } ∧
    (∀ k, regGet t k = if k ∈ wearKeys then regGet s k else resetOf k) ∧ (∀ k, actGet t k = resetOf k ∧ shGet t k = resetOf k) ∧
    t.mem = { Memory.init with host := s.mem.host } ∧ t.kept = s.kept ∧ t.pending = s.pending ∧
    ((s.hosts.map (·.1)).Nodup → ∀ p, (portOf t p).perstLow = (portOf s p).perstLow)) ∧
  (∀ s : State, Runs .powerRemoval s fun t => t.op = .off ∧ t.boot = Boot.init ∧ t.jobs = [] ∧ (∀ k, actGet t k = resetOf k) ∧
    (∀ k, (∀ e ∈ s.kept.wear, e.1 ≠ k) → regGet t k = resetOf k) ∧ t.mem = { Memory.init with host := s.mem.host } ∧ t.kept = s.kept) ∧
  (∀ s : State, s.op = .dormant →
    (s.isl.b.resetLow = false → Runs .wake s fun t => t.op = .booting ∧ regGet t K.BOOT_STATUS_phase = 1 ∧ t.tbUnits = s.tbUnits ∧ t.time = s.time ∧
      regGet t K.TB_STATUS_valid = regGet s K.TB_STATUS_valid ∧ (∀ k ∈ wearKeys, regGet t k = regGet s k) ∧ t.kept = s.kept ∧ t.boot.wake = true) ∧
    (s.isl.b.resetLow = true → exec .wake s = .next s)) ∧
  (∀ s : State, s.op ≠ .dormant → exec .wake s = .next s)

/-- The boot from the ROM self-test to the loading of the stewards (part of R352 to R355, R359, R360, R385, R387, R419): the pairs lock, slot 0 and else slot 1 is verified and measured, a boot that cannot go on ends in SAFE_OFF
with its code; a slot needs the fused hash of its key, its signature, every component's digest and the security version, SI_B's firmware its own fused hash; too little coolant holds the boot in phase 9; with the dies powered each steward sets its die's
rail.
The model's own readings in it: notes/assumptions/8, 74, 90, 91. -/
def Obligations.SecureBoot : Prop :=
  (∀ s : State, bootAt s 1 = true → powered s = true → islState s .a = 2 → islState s .b = 2 →
    (Runs (.romSelfTest true true) s fun t => islState t .a = 0 ∧ islState t .b = 0 ∧ t = { s with reg := t.reg } ∧ RegsKept [K.ISL_STATUS_sia, K.ISL_STATUS_sib] s t) ∧
    (Runs (.romSelfTest true false) s fun t => islState t .a = 0 ∧ islState t .b = 4 ∧ regGet t K.FAULT_COUNT_c = satInc 255 (regGet s K.FAULT_COUNT_c) ∧ t.op = .booting) ∧
    (∀ b, Runs (.romSelfTest false b) s fun t => t.op = .safeOff ∧ regGet t K.BOOT_STATUS_phase = 15 ∧ regGet t K.BOOT_STATUS_code = if b then 4 else 5)) ∧
  (∀ (x : SlotImage) (i : Fin 2) (s : State),
    let genuine := sha384 x.key = s.kept.keyHashA ∧ x.sigOk = true ∧ x.components.map sha384 = x.listed
    bootAt s 1 = true → powered s = true → islState s .a = 0 → (i.val = 1 ↔ s.boot.slot0.isSome = true) →
    (genuine → s.kept.svnMin ≤ x.svn.toNat → Runs (.bootSlot i x) s fun t => regGet t K.BOOT_STATUS_phase = 2 ∧
      regGet t K.BOOT_STATUS_slot = i ∧ regGet t K.BOOT_SVN_svn = x.svn.toNat ∧
      (∀ w : Fin 12, regGet t (K.ID_MEASURE_m w) = fieldAt (x.listed.foldl (fun m d => sha384 (m ++ d)) (zeros 48)) (4 * w.val) 4) ∧ t.op = .booting ∧
      t.boot = { s.boot with key := x.key, listed := x.listed, svn := x.svn.toNat, raiseMin := x.raiseMin, log := x.listed }) ∧
    (∀ c, (¬ genuine ∧ c = 1 ∨ genuine ∧ x.svn.toNat < s.kept.svnMin ∧ c = 2) →
      (s.boot.slot0 = none → exec (.bootSlot i x) s = .next { s with boot := { s.boot with slot0 := some c } }) ∧
      (∀ c0, s.boot.slot0 = some c0 → Runs (.bootSlot i x) s fun t => t.op = .safeOff ∧ regGet t K.BOOT_STATUS_phase = 15 ∧ regGet t K.BOOT_STATUS_code = max c c0))) ∧
  (∀ (x : RingLoad) (s : State),
    let ok := x.sigOk = true ∧ sha384 s.boot.key = s.kept.keyHashB ∧ sha384 x.firmware = nth s.boot.listed 1 []
    bootAt s 2 = true → ((ok ∨ islState s .b = 4) →
      Runs (.sibFirmwareVerify x) s (FieldSet K.BOOT_STATUS_phase (fun _ => 3) { s with boot := { s.boot with codes := x.codes } })) ∧
    (¬ ok → islState s .b ≠ 4 → Runs (.sibFirmwareVerify x) s fun t => t.boot = { s.boot with codes := x.codes } ∧ islState t .b = 4 ∧ regGet t K.BOOT_STATUS_phase = 3 ∧
      regGet t K.FAULT_COUNT_c = satInc 255 (regGet s K.FAULT_COUNT_c))) ∧
  (∀ s : State, bootAt s 3 = true → s.boot.loaded = false →
    (∀ d, d ∈ refusals s ↔ d < 5 ∧ sha384 (nth s.boot.codes d []) ≠ nth s.boot.listed 2 []) ∧
    (4 ∉ refusals s → f32Le f32One (flowUsed s) = true →
      Runs .stewardLoad s fun t => FirstRails (refusals s) s t ∧
        t = { s with thm := t.thm, boot := { s.boot with refused := refusals s, loaded := true } }) ∧
    (4 ∉ refusals s → f32Le f32One (flowUsed s) = false → Runs .stewardLoad s fun t => regGet t K.BOOT_STATUS_phase = 9 ∧
      t = { s with reg := t.reg, boot := { s.boot with refused := refusals s } } ∧ RegsKept [K.BOOT_STATUS_phase] s t) ∧
    (4 ∈ refusals s → powered s = true → Runs .stewardLoad s fun t => t.op = .safeOff ∧ regGet t K.BOOT_STATUS_phase = 15)) ∧
  (∀ s : State, bootAt s 9 = true →
    (flowStays s = true → Runs .bootResume s fun t => regGet t K.BOOT_STATUS_phase = 3 ∧ FirstRails s.boot.refused s t ∧
      t = { s with reg := t.reg, thm := t.thm, boot := { s.boot with loaded := true } } ∧ RegsKept [K.BOOT_STATUS_phase] s t) ∧
    (flowStays s = false → exec .bootResume s = .next s) ∧
    (∀ x, regGet s K.THM_STATUS_sensor_ok = 1 → s.thm.goodFrom = some x → (flowStays s = true ↔ x + secTicks ≤ s.ticks)))

/-- The boot from discovery to the host windows (part of R145, R346, R349 to R351, R354 to R356): the topology and the stacks' identities are gathered and held against the manifest, whose serial number is the
module's; a die whose links have all failed is removed; memories and arrays are tested, and the module is in WARM_IDLE with its host windows ready.
The model's own readings in it: notes/assumptions/8, 74, 91. -/
def Obligations.BootCompletes : Prop :=
  (∀ (given : List EndAnn) (ids : List (BitVec 128)) (f r : List (BitVec 68)) (s : State),
    let ends := heardEnds s given
    bootAt s 3 = true → s.boot.loaded = true →
    (∀ l < 8, linkAnswered ends l = true → 16 ≤ popCount 68 (nth f l 0).toNat ∧ 16 ≤ popCount 68 (nth r l 0).toNat) →
    Runs (.linkTrainingDone given ids f r) s fun t => regGet t K.BOOT_STATUS_phase = 4 ∧ t.boot.ends = ends ∧
      (∀ l < 8, linkAnswered ends l = true → linkState t l = 2 ∧ (linkOf t l).fwd.width = widthFor (popCount 68 (nth f l 0).toNat) ∧
        (linkOf t l).rev.width = widthFor (popCount 68 (nth r l 0).toNat)) ∧
      (∀ (h : Fin 8) (w : Fin 4), regGet t (K.ID_HBM_id h w) = bitsAt (nth ids h 0).toNat (32 * w.val) 32) ∧
      (∀ e < 20, regGet t (K.ID_TOPO_entry e 1) = (if (annOf ends e).answered = true then (annOf ends e).rid.toNat % 2 ^ 32 else 0))) ∧
  (∀ (m : Manifest) (s : State), bootAt s 4 = true → powered s = true →
    ((m.sigOk = false ∨ m.serial.toNat ≠ moduleSerial s ∨ manifestFaults s m ≠ []) → Runs (.manifestCheck m) s fun t => t.op = .safeOff ∧
      regGet t K.BOOT_STATUS_phase = 15 ∧ regGet t K.BOOT_STATUS_code = 3) ∧
    (m.sigOk = true → m.serial.toNat = moduleSerial s → manifestFaults s m = [] →
      ((∀ d < 4, heard s.boot.ends d ≠ [] ∧ ∃ l ∈ linksOf d, linkState s l ≠ 3) → (∀ h < 8, stackId s h ≠ 0) →
        Runs (.manifestCheck m) s fun t => regGet t K.BOOT_STATUS_phase = 5 ∧ regGet t K.ID_DIES_present = 15 ∧ regGet t K.ID_DIES_in_service = 15 ∧ t.op = .booting) ∧
      (∀ d < 4, cmpMode s ≠ 1 → (∀ l ∈ linksOf d, linkState s l = 3) → Runs (.manifestCheck m) s fun t => dieIn t d = false ∨ t.op = .safeOff))) ∧
  (∀ s : State, bootAt s 5 = true → (Runs (.memoryTrainingDone [] false) s (FieldSet K.BOOT_STATUS_phase (fun _ => 6) s)) ∧
    Runs (.memoryTrainingDone [] true) s fun t => regGet t K.BOOT_STATUS_phase = 6 ∧ t.boot.cellarIn = false ∧
      regGet t K.FAULT_COUNT_c = satInc 255 (regGet s K.FAULT_COUNT_c)) ∧
  (∀ s : State, bootAt s 6 = true → Runs (.bootRehearsalDone [] []) s fun t => regGet t K.BOOT_STATUS_phase = 7 ∧
    (∀ (d : Fin 4) (w : Fin 6), dieIn s d = true → regGet t (K.REH_DONE_arrays d w) = regGet s (K.SERVICE_arrays d w)) ∧
    t.frame.golden = (List.range 4).filter (engineIn s) ∧ t = { s with reg := t.reg, frame := t.frame }) ∧
  (∀ s : State, (bootAt s 7 = true → Runs .hostWindowsReady s fun t => t.op = .warmIdle ∧ t.boot.windows = true ∧ t.frame.due = true ∧
      regGet t K.BOOT_STATUS_phase = 8 ∧ t.kept.svnMin = (if s.boot.raiseMin = true then max s.kept.svnMin s.boot.svn else s.kept.svnMin)) ∧
    (s.op = .safeOff → exec .hostWindowsReady s = .next { s with boot := { s.boot with windows := true } })) ∧
  (∀ (c : Instr) (s : State), s.op ≠ .booting → (c = .stewardLoad ∨ c = .bootResume ∨ (∃ a b, c = .romSelfTest a b) ∨ (∃ i x, c = .bootSlot i x) ∨
    (∃ x, c = .sibFirmwareVerify x) ∨ (∃ e i f r, c = .linkTrainingDone e i f r) ∨ (∃ m, c = .manifestCheck m) ∨ (∃ l b, c = .memoryTrainingDone l b) ∨
    (∃ l e, c = .bootRehearsalDone l e)) → exec c s = .next s)

/-- The resets of a host port (part of R221, R356, R400, R401, R411): PERST_n and a function-level reset put the port's own registers and rings back at reset and discard the records of its jobs; a fall of Bus Master
Enable discards them too, and with the host enabled clears the host, ring and event enables.
The model's own readings in it: notes/assumptions/3. -/
def Obligations.PortResets : Prop :=
  (∀ (p : Fin 4) (s : State) (c : Instr), (c = .perstAssert p ∧ (portOf s p).perstLow = false ∨ c = .functionLevelReset p ∧ portUp s p = true) → Runs c s fun t =>
    portOf t p = { HostPort.init with perstLow := decide (c = .perstAssert p) } ∧ (∀ q, q ≠ p.val → portOf t q = portOf s q) ∧
    (∀ k, regGet t k = if k / 32 / 0x10000 = p.val ∧ k / 32 % 0x10000 < 0x800 then resetOf k else regGet s k) ∧
    t.jobs = s.jobs.map (fun j => if j.port = p.val then { j with mute := true } else j) ∧ t.attest = s.attest.filter (fun a => a.1 != p.val) ∧
    t = { s with reg := t.reg, hosts := t.hosts, jobs := t.jobs, attest := t.attest }) ∧
  (∀ (p : Fin 4) (s : State), (portOf s p).perstLow = true → exec (.perstAssert p) s = .next s) ∧
  (∀ (p : Fin 4) (s : State), Runs (.perstRelease p) s fun t => portOf t p = { portOf s p with perstLow := false } ∧ t = { s with hosts := t.hosts }) ∧
  (∀ (p : Fin 4) (s : State), ((portOf s p).busMaster = false → exec (.busMasterEnableFall p) s = .next s) ∧
    ((portOf s p).busMaster = true → Runs (.busMasterEnableFall p) s fun t =>
      portOf t p = { portOf s p with busMaster := false } ∧ (∀ q, q ≠ p.val → portOf t q = portOf s q) ∧
      t.jobs = s.jobs.map (fun j => if j.port = p.val then { j with mute := true } else j) ∧ t = { s with reg := t.reg, hosts := t.hosts, jobs := t.jobs } ∧
      (hostOn s p = true → hostOn t p = false ∧ evtOn t p = false ∧ (∀ i : Fin 8, ringOn t p i = false) ∧
        RegsKept (K.HOST_CTRL_enable p :: K.EVT_CTRL_enable p :: (List.range 8).map (K.RING_CTRL_enable p)) s t) ∧
      (hostOn s p = false → t.reg = s.reg)))

/-! Thermal control, rails, clocks and wear -/

/-- Rails, clocks and regulators (part of R385, R396, R397, R420, R423, R424): a low rail removes its die or takes the module to SAFE_OFF, as does the loss of the system clock; the always-on clocks change their source; a
voltage fault holds the die's groups at its level, and the rail's set point follows them; wear counters go to the always-on store.
The model's own readings in it: notes/assumptions/7, 8. -/
def Obligations.RailsClocksWear : Prop :=
  (∀ (c : Instr) (k : Fin 4) (s : State), (c = .undervoltage (.cd k) ∨ (c = .avsConfirmTimeout k ∧ gates s (holder s) = false)) → powered s = true → s.op ≠ .safeOff →
    dieIn s k = true → Runs c s fun t =>
    dieIn t k = false ∧ regGet t K.FAULT_COUNT_c = satInc 255 (regGet s K.FAULT_COUNT_c) ∧ (∀ d < 4, d ≠ k.val → dieIn t d = dieIn s d) ∧ (engineOf t k).tiles = []) ∧
  (∀ (k : Fin 4) (s : State), gates s (holder s) = true → exec (.avsConfirmTimeout k) s = .next (gate (holder s) (.removeDie k 3) s)) ∧
  (∀ (c : Instr) (s : State), (c = .undervoltage .iod ∨ c = .undervoltage .h1v1 ∨ c = .undervoltage .q0v4 ∨ c = .refclkSysLoss) → powered s = true → s.op ≠ .safeOff →
    Runs c s fun t => t.op = .safeOff ∧ t.jobs = [] ∧ t.mem.win = [] ∧ t.mem.room = [] ∧ regGet t K.FAULT_COUNT_d = satInc 255 (regGet s K.FAULT_COUNT_d) ∧
      regGet t K.FAULT_LAST_source = iodSteward) ∧
  (∀ (i : Isl) (s : State), powered s = true → islLocked s (otherIsl i) = true →
    Runs (.undervoltage (match i with | .a => .sia | .b => .sib)) s fun t => islOf t i = { islOf s i with stopped := true } ∧ t = { s with isl := t.isl }) ∧
  (∀ (b : Bool) (s : State), s.op ≠ .off →
    (s.refSys = b → Runs (.refclkSwitch b) s fun t => Tells .manager ⟨0x0710, 1, true, aonNode, b.toNat, 0, 0⟩ t fun u => u = { s with refSys := !b }) ∧
    (s.refSys ≠ b → exec (.refclkSwitch b) s = .next s)) ∧
  (∀ (d : Fin 4) (l : Fin 6) (s : State), running s = true → Runs (.avsFault d l) s fun t => (thermOf t d).levelCap = l ∧
    (∀ g : Fin 4, levelOf t d g = max (levelOf s d g) (max l.val (if spotBlind s d (2 * g.val) || spotBlind s d (2 * g.val + 1) then 3 else 0))) ∧
    (thermOf t d).rail = ((List.range 4).map fun g => levelMv (levelOf t d g)).foldl max 0 ∧
    t = { s with reg := t.reg, thm := t.thm } ∧ RegsKept [K.THM_LEVEL_levels d] s t) ∧
  (∀ s : State, s.op ≠ .off → exec .wearWrite s = .next { s with kept := { s.kept with
    wear := (wearKeys.map fun k => (k, regGet s k)).filter fun e => e.2 != 0 } }) ∧
  (∀ (x : Int) (s : State), s.op = .dormant →
    ((x < -640 ∨ 1360 < x) → exec (.dormantInletSample x) s = .next { s with thm := { s.thm with inletLog := s.thm.inletLog ++ [x] } }) ∧
    (-640 ≤ x → x ≤ 1360 → exec (.dormantInletSample x) s = .next s))

/-- Sensors (part of R382, R383, R387, R393): the readings that a sampling leaves; a flow outside the sensor's range fails it; a hot spot at 110 °C and a thermal trip take the module to SAFE_OFF, once each; a flow sensor that
stands above the estimate for 10 s is told.
The model's own readings in it: notes/assumptions/8, 68. -/
def Obligations.Sensors : Prop :=
  (∀ (i o f : Int) (s : State), powered s = true → (0 ≤ f ∧ f ≤ 10000 ∨ regGet s K.THM_STATUS_sensor_ok ≠ 1) → Runs (.sensorSample (.coolant i o f)) s fun t =>
    regGet t K.THM_COOLANT_inlet = ofSigned 16 i ∧ regGet t K.THM_COOLANT_outlet = ofSigned 16 o ∧ regGet t K.THM_FLOW_sensor = (clampInt 0 65535 f).toNat ∧
    (t.thm.lowFrom = if f < 300 then some (s.thm.lowFrom.getD s.ticks) else none) ∧ (t.thm.goodFrom = if 1800 ≤ f then some (s.thm.goodFrom.getD s.ticks) else none) ∧
    t = { s with reg := t.reg, thm := t.thm } ∧ RegsKept [K.THM_COOLANT_inlet, K.THM_COOLANT_outlet, K.THM_FLOW_sensor] s t) ∧
  (∀ (i o f : Int) (s : State), powered s = true → (f < 0 ∨ 10000 < f) → regGet s K.THM_STATUS_sensor_ok = 1 → Runs (.sensorSample (.coolant i o f)) s fun t =>
    Tells .manager ⟨0x0709, 1, true, thmNode, (clampInt 0 65535 f).toNat, 0, regGet s K.THM_FLOW_cal⟩ t fun u => regGet u K.THM_STATUS_sensor_ok = 0 ∧
      u = { s with reg := u.reg, thm := u.thm }) ∧
  (∀ (ps : List Nat) (s : State), powered s = true → Runs (.sensorSample (.power ps)) s fun t => t.thm.power.head? = some (s.ticks, ps) ∧ t = { s with thm := t.thm }) ∧
  (∀ (d : Fin 5) (x y : Int) (s : State), powered s = true → (thermOf s d).diodes = [] → diodeFailed s d 0 0 = false → diodeFailed s d 0 1 = false →
    -640 ≤ x → x ≤ 2400 → -640 ≤ y → y ≤ 2400 → x - y ≤ 64 → y - x ≤ 64 →
    ((max x y < 1760 ∨ 16 * d.val ∈ s.thm.fired) → Runs (.sensorSample (.hotSpots d [(x, y)])) s fun t => regGet t (hotKey d 0) = ofSigned 16 (max x y) ∧ t.op = s.op ∧
      (thermOf t d).diodes = [(x, y)]) ∧
    (1760 ≤ max x y → 16 * d.val ∉ s.thm.fired → Runs (.sensorSample (.hotSpots d [(x, y)])) s fun t => t.op = .safeOff ∧ 16 * d.val ∈ t.thm.fired)) ∧
  (∀ (d : Fin 5) (s : State), powered s = true → (256 + d.val ∉ s.thm.fired → Runs (.thermalTrip d) s fun t => t.op = .safeOff ∧ 256 + d.val ∈ t.thm.fired) ∧
    (256 + d.val ∈ s.thm.fired → exec (.thermalTrip d) s = .next s)) ∧
  (∀ (x : Nat) (s : State), powered s = true → s.thm.differFrom = some x → regGet s K.THM_STATUS_sensor_ok = 1 →
    (x + 10 * secTicks ≤ s.ticks → Runs .flowSensor s fun t => Tells .manager ⟨0x0709, 1, true, thmNode, regGet s K.THM_FLOW_sensor, 1, regGet s K.THM_FLOW_cal⟩ t fun u =>
      u = { s with thm := { s.thm with differFrom := some s.ticks } }) ∧
    (s.ticks < x + 10 * secTicks → exec .flowSensor s = .next s))

/-- Throttling, LIMP and its exit (part of R385, R386, R388, R390, R391, R392): each period sets the module cap and the level of every group by the table of levels, the die's rail following the highest, and a coolant
flow of 1.0 L/min or less ends in LIMP; a stopped flow does after 5 ms, with the pair of dies chosen at L5 and every count of cool milliseconds begun anew; LIMP ends with 10 s of good flow and every hot spot
below 85 °C.
The model's own readings in it: notes/assumptions/66, 68. -/
def Obligations.FlowAndLimp : Prop :=
  (∀ s : State, powered s = true → s.op ≠ .warmIdle → s.op ≠ .drive → s.op ≠ .lodge → Runs .thermalThrottle s fun t => regGet t K.THM_CAP_w = capMilliW s / 1000 ∧
    t = { s with reg := t.reg, thm := t.thm, hosts := t.hosts, mem := { s.mem with host := t.mem.host } } ∧
    RegsKept [K.THM_FLOW_cal, K.THM_STATUS_cal_valid, K.THM_CAP_w] s t) ∧
  (∀ s : State, powered s = true → (s.op = .warmIdle ∨ s.op = .drive ∨ s.op = .lodge) →
    (f32Le (flowUsed s) f32One = true → Runs .thermalThrottle s fun t => t.op = .limp ∨ t.op = .safeOff) ∧
    (f32Le (flowUsed s) f32One = false → (∀ d < 4, dieIn s d = true → (riseTest d s).2 = false) → Runs .thermalThrottle s fun t =>
      regGet t K.THM_CAP_w = capMilliW s / 1000 ∧ (∀ d g : Fin 4, levelOf t d g = if dieIn s d = true then (nextLevel s d g).1 else levelOf s d g) ∧
      (∀ d : Fin 4, dieIn s d = true → (thermOf t d).rail = ((List.range 4).map fun g => levelMv (levelOf t d g)).foldl max 0) ∧
      t = { s with reg := t.reg, thm := t.thm, hosts := t.hosts, mem := { s.mem with host := t.mem.host } } ∧
      RegsKept (K.THM_FLOW_cal :: K.THM_STATUS_cal_valid :: K.THM_CAP_w :: (List.range 4).map K.THM_LEVEL_levels) s t)) ∧
  (∀ (s : State) (x : Nat), s.thm.lowFrom = some x → regGet s K.THM_STATUS_sensor_ok = 1 →
    (∀ p, x + 5 * msTicks ≤ s.ticks → (s.op = .warmIdle ∨ s.op = .drive ∨ s.op = .lodge) → chooseLimp s = some p → Runs .flowStop s fun t => t.op = .limp ∧
      t.dpx.limpPair = [p.1, p.2] ∧ (lodgingOn s = false → regGet t K.THM_STATUS_limp_cause = 1 ∧ (∀ d : Fin 4, regGet t (K.THM_LEVEL_levels d) = 0x5555 ∧
        (thermOf t d).rail = 700) ∧ t.thm.limpAt = s.ticks ∧ t.thm.cool = [])) ∧
    (s.ticks < x + 5 * msTicks → exec .flowStop s = .next s)) ∧
  (∀ (s : State) (x : Nat), s.op = .limp → regGet s K.THM_STATUS_sensor_ok = 1 → s.thm.goodFrom = some x →
    (x + 10 * secTicks ≤ s.ticks → (∀ d : Fin 5, hotOr s d < 1360) → Runs .limpExit s fun t =>
      Tells .manager ⟨0x0704, 0, false, thmNode, 0, 0, (s.ticks - s.thm.limpAt) / msTicks⟩ t fun u => u.op = (if s.inDrive = true then .drive else .warmIdle) ∧
        u.dpx = { s.dpx with limpPair := [] } ∧ regGet u K.THM_STATUS_limp_cause = 0 ∧ u = { s with op := u.op, opLog := u.opLog, dpx := u.dpx, reg := u.reg } ∧
        RegsKept [K.THM_STATUS_limp_cause] s u) ∧
    ((s.ticks < x + 10 * secTicks ∨ ∃ d : Fin 5, 1360 ≤ hotOr s d) → exec .limpExit s = .next s))
end

