-- ==== Sys2Proof/Laws/Crc.lean ====
section
/-! SUPPORT. What a CRC-32 shows: two messages that differ in one byte have different values, so a run of the golden tile with one wrong
byte never has the reference signature. -/

namespace Sys2Proof.Machine

/-- One step of the CRC undone. -/
def crcUnbit (d : BitVec 32) : BitVec 32 := if d.getLsbD 31 then ((d ^^^ crcPoly) <<< 1) ||| 1 else d <<< 1

theorem crcUnbit_crcBit (c : BitVec 32) : crcUnbit (crcBit c) = c := by
  unfold crcUnbit crcBit
  have h0 : (c &&& 1 = 1) ↔ c.getLsbD 0 = true := by
    rw [← BitVec.toNat_inj, BitVec.toNat_and, BitVec.getLsbD, Nat.testBit_zero]
    simp [Nat.and_one_is_mod]
  by_cases h : c.getLsbD 0 = true
  · have e : ((c >>> 1) ^^^ crcPoly).getLsbD 31 = true := by simp [crcPoly]
    rw [if_pos (h0.mpr h), if_pos e, BitVec.xor_assoc, BitVec.xor_self, BitVec.xor_zero]
    apply BitVec.eq_of_getLsbD_eq
    intro i hi
    rcases i with _ | i
    · simp [h]
    · simp [hi, Nat.add_comm]
  · have e : ¬ (c >>> 1).getLsbD 31 = true := by simp
    rw [if_neg (mt h0.mp h), if_neg e]
    apply BitVec.eq_of_getLsbD_eq
    intro i hi
    rcases i with _ | i
    · simpa using h
    · simp [hi, Nat.add_comm]

theorem crcBit_inj {a b : BitVec 32} (h : crcBit a = crcBit b) : a = b := by rw [← crcUnbit_crcBit a, h, crcUnbit_crcBit]

theorem foldl_inj {α β : Type} (f : α → β → α) (hf : ∀ a b x, f a x = f b x → a = b) : ∀ (l : List β) (a b : α), l.foldl f a = l.foldl f b → a = b
  | [], _, _, h => h
  | x :: l, a, b, h => hf a b x (foldl_inj f hf l _ _ h)

theorem crcByte_inj {a b : BitVec 32} {x y : Byte} (h : crcByte a x = crcByte b y) : a ^^^ x.setWidth 32 = b ^^^ y.setWidth 32 :=
  foldl_inj _ (fun _ _ _ h => crcBit_inj h) _ _ _ h

/-- Two messages that differ in their first byte alone have different CRCs. -/
theorem crc32_cons_ne {x y : Byte} (h : x ≠ y) (l : List Byte) : crc32 (x :: l) ≠ crc32 (y :: l) := by
  intro e
  have e1 : (x :: l).foldl crcByte 0xFFFFFFFF = (y :: l).foldl crcByte 0xFFFFFFFF := by
    rw [crc32, crc32] at e
    exact BitVec.not_inj.mp e
  have e2 := crcByte_inj (foldl_inj crcByte (fun a b z h => by have e := crcByte_inj h; simpa using e) l _ _ e1)
  have e3 : x.setWidth 32 = y.setWidth 32 := (BitVec.xor_right_inj _).mp e2
  exact h (by have := congrArg (BitVec.setWidth 8) e3; simpa using this)

/-- A run whose first byte comes out wrong fails. -/
theorem goldenOk_wrong : goldenOk { wrong := [(0, 1)] } = false := by
  have h : ∀ bs : List Byte, bs ≠ [] → crc32 (modAt bs 0 (· ^^^ 1)) ≠ crc32 bs := by
    intro bs hb
    cases bs with
    | nil => exact absurd rfl hb
    | cons x l => exact crc32_cons_ne (by intro e; have := congrArg (x ^^^ ·) e; simp at this) l
  have hne : goldenBytes ≠ [] := by simp [goldenBytes]
  simpa [goldenOk, goldenFormed] using h goldenBytes hne

end Sys2Proof.Machine
end

