-- ==== Sys2Proof/Laws/Table.lean ====
section
/-! SUPPORT. Laws of sparse tables: what a read finds after a write, and that every operation keeps the canonical form. -/

namespace Sys2Proof.Machine

variable {α : Type}

@[simp] theorem tget_nil (d : α) (k : Nat) : tget d k [] = d := rfl

theorem tget_tdrop_self (d : α) (k : Nat) (t : List (Nat × α)) : tget d k (tdrop k t) = d := by
  induction t with
  | nil => rfl
  | cons e t ih =>
    obtain ⟨j, v⟩ := e
    by_cases h : j = k
    · simpa [tdrop, h] using ih
    · have := ih; simp [tdrop, h, tget] at this ⊢; exact this

theorem tget_tdrop_ne (d : α) {k m : Nat} (h : m ≠ k) (t : List (Nat × α)) : tget d m (tdrop k t) = tget d m t := by
  induction t with
  | nil => rfl
  | cons e t ih =>
    obtain ⟨j, v⟩ := e
    by_cases hj : j = k
    · subst hj
      have : tdrop j ((j, v) :: t) = tdrop j t := by simp [tdrop]
      rw [this, ih, tget, if_neg (Ne.symm h)]
    · have : tdrop k ((j, v) :: t) = (j, v) :: tdrop k t := by simp [tdrop, hj]
      rw [this, tget, tget, ih]

theorem tget_tinsert_self (d : α) (k : Nat) (v : α) (t : List (Nat × α)) (h : ∀ e ∈ t, e.1 ≠ k) :
    tget d k (tinsert k v t) = v := by
  induction t with
  | nil => simp [tinsert, tget]
  | cons e t ih =>
    obtain ⟨j, w⟩ := e
    have hj : j ≠ k := h (j, w) (by simp)
    by_cases hk : j < k
    · simp only [tinsert, hk, if_true, tget, hj, if_false]
      exact ih fun e he => h e (by simp [he])
    · simp [tinsert, hk, tget]

theorem tget_tinsert_ne (d : α) {k m : Nat} (v : α) (h : m ≠ k) (t : List (Nat × α)) :
    tget d m (tinsert k v t) = tget d m t := by
  induction t with
  | nil => simp [tinsert, tget, Ne.symm h]
  | cons e t ih =>
    obtain ⟨j, w⟩ := e
    by_cases hk : j < k
    · simp only [tinsert, hk, if_true, tget, ih]
    · simp [tinsert, hk, tget, Ne.symm h]

theorem tdrop_not_mem (k : Nat) (t : List (Nat × α)) : ∀ e ∈ tdrop k t, e.1 ≠ k := by
  intro e he
  simp only [tdrop, List.mem_filter] at he
  simpa using he.2

/-! Order of keys -/

theorem tsorted_iff (t : List (Nat × α)) : tsorted t = true ↔ t.Pairwise (fun a b => a.1 < b.1) := by
  induction t with
  | nil => simp [tsorted]
  | cons e t ih =>
    cases t with
    | nil => simp [tsorted]
    | cons f t =>
      obtain ⟨j, v⟩ := e
      obtain ⟨k, w⟩ := f
      simp only [tsorted, Bool.and_eq_true, decide_eq_true_eq, ih]
      constructor
      · rintro ⟨hjk, h⟩
        refine List.pairwise_cons.2 ⟨fun x hx => ?_, h⟩
        rcases List.mem_cons.1 hx with rfl | hx
        · exact hjk
        · exact lt_trans hjk ((List.pairwise_cons.1 h).1 x hx)
      · intro h
        exact ⟨(List.pairwise_cons.1 h).1 (k, w) (by simp), (List.pairwise_cons.1 h).2⟩

theorem mem_tinsert {k : Nat} {v : α} {t : List (Nat × α)} {e : Nat × α} (h : e ∈ tinsert k v t) : e = (k, v) ∨ e ∈ t := by
  induction t with
  | nil => simpa [tinsert] using h
  | cons a t ih =>
    obtain ⟨j, w⟩ := a
    by_cases hk : j < k
    · simp only [tinsert, hk, if_true, List.mem_cons] at h
      rcases h with h | h
      · simp [h]
      · rcases ih h with h | h
        · exact .inl h
        · simp [h]
    · simp only [tinsert, hk, if_false, List.mem_cons] at h
      rcases h with h | h | h <;> simp [h]

theorem tinsert_sorted {k : Nat} {v : α} {t : List (Nat × α)} (ht : t.Pairwise (fun a b => a.1 < b.1)) (hk : ∀ e ∈ t, e.1 ≠ k) :
    (tinsert k v t).Pairwise (fun a b => a.1 < b.1) := by
  induction t with
  | nil => simp [tinsert]
  | cons a t ih =>
    obtain ⟨j, w⟩ := a
    have ⟨h1, h2⟩ := List.pairwise_cons.1 ht
    by_cases hlt : j < k
    · simp only [tinsert, hlt, if_true]
      refine List.pairwise_cons.2 ⟨fun e he => ?_, ih h2 fun e he => hk e (by simp [he])⟩
      rcases mem_tinsert he with rfl | he
      · exact hlt
      · exact h1 e he
    · simp only [tinsert, hlt, if_false]
      have hjk : k < j := by
        have : j ≠ k := hk (j, w) (by simp)
        omega
      refine List.pairwise_cons.2 ⟨fun e he => ?_, ht⟩
      rcases List.mem_cons.1 he with rfl | he
      · exact hjk
      · exact lt_trans hjk (h1 e he)

variable [DecidableEq α]

/-- A read of the key written gives the value written. -/
@[simp] theorem tget_tset_self (d : α) (k : Nat) (v : α) (t : List (Nat × α)) : tget d k (tset d k v t) = v := by
  unfold tset
  split
  · rw [tget_tdrop_self]; exact Eq.symm ‹_›
  · exact tget_tinsert_self d k v _ (tdrop_not_mem k t)

/-- A read of another key is what it was. -/
theorem tget_tset_ne (d d' : α) {k m : Nat} (v : α) (h : m ≠ k) (t : List (Nat × α)) : tget d m (tset d' k v t) = tget d m t := by
  unfold tset
  split
  · exact tget_tdrop_ne d h t
  · rw [tget_tinsert_ne d v h, tget_tdrop_ne d h]

@[simp] theorem tget_tmod_self (d : α) (k : Nat) (f : α → α) (t : List (Nat × α)) : tget d k (tmod d k f t) = f (tget d k t) :=
  tget_tset_self ..

theorem tget_tmod_ne (d d' : α) {k m : Nat} (f : α → α) (h : m ≠ k) (t : List (Nat × α)) : tget d m (tmod d' k f t) = tget d m t :=
  tget_tset_ne d d' _ h t

/-! The canonical form -/

/-- The canonical form in words: keys strictly rising, no entry with its default. -/
theorem tcanon_iff (d : Nat → α) (t : List (Nat × α)) :
    tcanon d t = true ↔ t.Pairwise (fun a b => a.1 < b.1) ∧ ∀ e ∈ t, e.2 ≠ d e.1 := by
  simp [tcanon, tsorted_iff]

@[simp] theorem tcanon_nil (d : Nat → α) : tcanon d [] = true := rfl

/-- Leaving entries out keeps the canonical form. -/
theorem tcanon_filter {d : Nat → α} {t : List (Nat × α)} (p : Nat × α → Bool) (h : tcanon d t = true) : tcanon d (t.filter p) = true := by
  rw [tcanon_iff] at h ⊢
  exact ⟨h.1.filter p, fun e he => h.2 e (List.mem_filter.1 he).1⟩

/-- A write keeps the canonical form. -/
theorem tcanon_tset {d : Nat → α} {t : List (Nat × α)} (k : Nat) (v : α) (h : tcanon d t = true) :
    tcanon d (tset (d k) k v t) = true := by
  unfold tset
  split
  · exact tcanon_filter _ h
  · rename_i hv
    have hd := tcanon_filter (fun e => e.1 != k) h
    rw [tcanon_iff] at hd ⊢
    refine ⟨tinsert_sorted hd.1 (tdrop_not_mem k t), fun e he => ?_⟩
    rcases mem_tinsert he with rfl | he
    · exact hv
    · exact hd.2 e he

theorem tcanon_tmod {d : Nat → α} {t : List (Nat × α)} (k : Nat) (f : α → α) (h : tcanon d t = true) :
    tcanon d (tmod (d k) k f t) = true := tcanon_tset k _ h

end Sys2Proof.Machine
end

