-- ==== Sys2Proof/Laws/State.lean ====
section
/-! SUPPORT. What each update of the state leaves unchanged, one lemma for a field and an update, and what the accessors read after it. -/

namespace Sys2Proof.Machine

variable (s : State)

/-! regSet -/

@[simp] theorem regSet_pending (k v : Nat) : (regSet k v s).pending = s.pending := rfl
@[simp] theorem regSet_freeCtr (k v : Nat) : (regSet k v s).freeCtr = s.freeCtr := rfl
@[simp] theorem regSet_lastRead (k v : Nat) : (regSet k v s).lastRead = s.lastRead := rfl
@[simp] theorem regSet_op (k v : Nat) : (regSet k v s).op = s.op := rfl
@[simp] theorem regSet_inDrive (k v : Nat) : (regSet k v s).inDrive = s.inDrive := rfl
@[simp] theorem regSet_active (k v : Nat) : (regSet k v s).active = s.active := rfl
@[simp] theorem regSet_shadow (k v : Nat) : (regSet k v s).shadow = s.shadow := rfl
@[simp] theorem regSet_mem (k v : Nat) : (regSet k v s).mem = s.mem := rfl
@[simp] theorem regSet_realms (k v : Nat) : (regSet k v s).realms = s.realms := rfl
@[simp] theorem regSet_hosts (k v : Nat) : (regSet k v s).hosts = s.hosts := rfl
@[simp] theorem regSet_jobs (k v : Nat) : (regSet k v s).jobs = s.jobs := rfl
@[simp] theorem regSet_accCtr (k v : Nat) : (regSet k v s).accCtr = s.accCtr := rfl
@[simp] theorem regSet_lastServed (k v : Nat) : (regSet k v s).lastServed = s.lastServed := rfl
@[simp] theorem regSet_curtain (k v : Nat) : (regSet k v s).curtain = s.curtain := rfl
@[simp] theorem regSet_lastClass (k v : Nat) : (regSet k v s).lastClass = s.lastClass := rfl
@[simp] theorem regSet_mgrPort (k v : Nat) : (regSet k v s).mgrPort = s.mgrPort := rfl
@[simp] theorem regSet_tbUnits (k v : Nat) : (regSet k v s).tbUnits = s.tbUnits := rfl
@[simp] theorem regSet_ticks (k v : Nat) : (regSet k v s).ticks = s.ticks := rfl
@[simp] theorem regSet_refSys (k v : Nat) : (regSet k v s).refSys = s.refSys := rfl
@[simp] theorem regSet_dpx (k v : Nat) : (regSet k v s).dpx = s.dpx := rfl
@[simp] theorem regSet_engines (k v : Nat) : (regSet k v s).engines = s.engines := rfl
@[simp] theorem regSet_frame (k v : Nat) : (regSet k v s).frame = s.frame := rfl
@[simp] theorem regSet_isl (k v : Nat) : (regSet k v s).isl = s.isl := rfl
@[simp] theorem regSet_links (k v : Nat) : (regSet k v s).links = s.links := rfl
@[simp] theorem regSet_boot (k v : Nat) : (regSet k v s).boot = s.boot := rfl
@[simp] theorem regSet_lodging (k v : Nat) : (regSet k v s).lodging = s.lodging := rfl
@[simp] theorem regSet_attest (k v : Nat) : (regSet k v s).attest = s.attest := rfl
@[simp] theorem regSet_und (k v : Nat) : (regSet k v s).und = s.und := rfl
@[simp] theorem regSet_thm (k v : Nat) : (regSet k v s).thm = s.thm := rfl
@[simp] theorem regSet_time (k v : Nat) : (regSet k v s).time = s.time := rfl
@[simp] theorem regSet_ing (k v : Nat) : (regSet k v s).ing = s.ing := rfl
@[simp] theorem regSet_fus (k v : Nat) : (regSet k v s).fus = s.fus := rfl
@[simp] theorem regSet_kept (k v : Nat) : (regSet k v s).kept = s.kept := rfl
@[simp] theorem regSet_opLog (k v : Nat) : (regSet k v s).opLog = s.opLog := rfl
@[simp] theorem actGet_regSet (k v : Nat) (j : Nat) : actGet (regSet k v s) j = actGet s j := rfl
@[simp] theorem shGet_regSet (k v : Nat) (j : Nat) : shGet (regSet k v s) j = shGet s j := rfl
@[simp] theorem portOf_regSet (k v : Nat) (q : Nat) : portOf (regSet k v s) q = portOf s q := rfl
@[simp] theorem ringOf_regSet (k v : Nat) (q n : Nat) : ringOf (regSet k v s) q n = ringOf s q n := rfl
@[simp] theorem realmOf_regSet (k v : Nat) (q : Nat) : realmOf (regSet k v s) q = realmOf s q := rfl
@[simp] theorem engineOf_regSet (k v : Nat) (q : Nat) : engineOf (regSet k v s) q = engineOf s q := rfl
@[simp] theorem findJob_regSet (k v : Nat) (n : Nat) : findJob (regSet k v s) n = findJob s n := rfl
@[simp] theorem hostByte_regSet (k v : Nat) (q n : Nat) : hostByte (regSet k v s) q n = hostByte s q n := rfl

/-! regMod -/

@[simp] theorem regMod_pending (k : Nat) (f : Nat → Nat) : (regMod k f s).pending = s.pending := rfl
@[simp] theorem regMod_freeCtr (k : Nat) (f : Nat → Nat) : (regMod k f s).freeCtr = s.freeCtr := rfl
@[simp] theorem regMod_lastRead (k : Nat) (f : Nat → Nat) : (regMod k f s).lastRead = s.lastRead := rfl
@[simp] theorem regMod_op (k : Nat) (f : Nat → Nat) : (regMod k f s).op = s.op := rfl
@[simp] theorem regMod_inDrive (k : Nat) (f : Nat → Nat) : (regMod k f s).inDrive = s.inDrive := rfl
@[simp] theorem regMod_active (k : Nat) (f : Nat → Nat) : (regMod k f s).active = s.active := rfl
@[simp] theorem regMod_shadow (k : Nat) (f : Nat → Nat) : (regMod k f s).shadow = s.shadow := rfl
@[simp] theorem regMod_mem (k : Nat) (f : Nat → Nat) : (regMod k f s).mem = s.mem := rfl
@[simp] theorem regMod_realms (k : Nat) (f : Nat → Nat) : (regMod k f s).realms = s.realms := rfl
@[simp] theorem regMod_hosts (k : Nat) (f : Nat → Nat) : (regMod k f s).hosts = s.hosts := rfl
@[simp] theorem regMod_jobs (k : Nat) (f : Nat → Nat) : (regMod k f s).jobs = s.jobs := rfl
@[simp] theorem regMod_accCtr (k : Nat) (f : Nat → Nat) : (regMod k f s).accCtr = s.accCtr := rfl
@[simp] theorem regMod_lastServed (k : Nat) (f : Nat → Nat) : (regMod k f s).lastServed = s.lastServed := rfl
@[simp] theorem regMod_curtain (k : Nat) (f : Nat → Nat) : (regMod k f s).curtain = s.curtain := rfl
@[simp] theorem regMod_lastClass (k : Nat) (f : Nat → Nat) : (regMod k f s).lastClass = s.lastClass := rfl
@[simp] theorem regMod_mgrPort (k : Nat) (f : Nat → Nat) : (regMod k f s).mgrPort = s.mgrPort := rfl
@[simp] theorem regMod_tbUnits (k : Nat) (f : Nat → Nat) : (regMod k f s).tbUnits = s.tbUnits := rfl
@[simp] theorem regMod_ticks (k : Nat) (f : Nat → Nat) : (regMod k f s).ticks = s.ticks := rfl
@[simp] theorem regMod_refSys (k : Nat) (f : Nat → Nat) : (regMod k f s).refSys = s.refSys := rfl
@[simp] theorem regMod_dpx (k : Nat) (f : Nat → Nat) : (regMod k f s).dpx = s.dpx := rfl
@[simp] theorem regMod_engines (k : Nat) (f : Nat → Nat) : (regMod k f s).engines = s.engines := rfl
@[simp] theorem regMod_frame (k : Nat) (f : Nat → Nat) : (regMod k f s).frame = s.frame := rfl
@[simp] theorem regMod_isl (k : Nat) (f : Nat → Nat) : (regMod k f s).isl = s.isl := rfl
@[simp] theorem regMod_links (k : Nat) (f : Nat → Nat) : (regMod k f s).links = s.links := rfl
@[simp] theorem regMod_boot (k : Nat) (f : Nat → Nat) : (regMod k f s).boot = s.boot := rfl
@[simp] theorem regMod_lodging (k : Nat) (f : Nat → Nat) : (regMod k f s).lodging = s.lodging := rfl
@[simp] theorem regMod_attest (k : Nat) (f : Nat → Nat) : (regMod k f s).attest = s.attest := rfl
@[simp] theorem regMod_und (k : Nat) (f : Nat → Nat) : (regMod k f s).und = s.und := rfl
@[simp] theorem regMod_thm (k : Nat) (f : Nat → Nat) : (regMod k f s).thm = s.thm := rfl
@[simp] theorem regMod_time (k : Nat) (f : Nat → Nat) : (regMod k f s).time = s.time := rfl
@[simp] theorem regMod_ing (k : Nat) (f : Nat → Nat) : (regMod k f s).ing = s.ing := rfl
@[simp] theorem regMod_fus (k : Nat) (f : Nat → Nat) : (regMod k f s).fus = s.fus := rfl
@[simp] theorem regMod_kept (k : Nat) (f : Nat → Nat) : (regMod k f s).kept = s.kept := rfl
@[simp] theorem regMod_opLog (k : Nat) (f : Nat → Nat) : (regMod k f s).opLog = s.opLog := rfl
@[simp] theorem actGet_regMod (k : Nat) (f : Nat → Nat) (j : Nat) : actGet (regMod k f s) j = actGet s j := rfl
@[simp] theorem shGet_regMod (k : Nat) (f : Nat → Nat) (j : Nat) : shGet (regMod k f s) j = shGet s j := rfl
@[simp] theorem portOf_regMod (k : Nat) (f : Nat → Nat) (q : Nat) : portOf (regMod k f s) q = portOf s q := rfl
@[simp] theorem ringOf_regMod (k : Nat) (f : Nat → Nat) (q n : Nat) : ringOf (regMod k f s) q n = ringOf s q n := rfl
@[simp] theorem realmOf_regMod (k : Nat) (f : Nat → Nat) (q : Nat) : realmOf (regMod k f s) q = realmOf s q := rfl
@[simp] theorem engineOf_regMod (k : Nat) (f : Nat → Nat) (q : Nat) : engineOf (regMod k f s) q = engineOf s q := rfl
@[simp] theorem findJob_regMod (k : Nat) (f : Nat → Nat) (n : Nat) : findJob (regMod k f s) n = findJob s n := rfl
@[simp] theorem hostByte_regMod (k : Nat) (f : Nat → Nat) (q n : Nat) : hostByte (regMod k f s) q n = hostByte s q n := rfl

/-! regInc -/

@[simp] theorem regInc_pending (k : Nat) : (regInc k s).pending = s.pending := rfl
@[simp] theorem regInc_freeCtr (k : Nat) : (regInc k s).freeCtr = s.freeCtr := rfl
@[simp] theorem regInc_lastRead (k : Nat) : (regInc k s).lastRead = s.lastRead := rfl
@[simp] theorem regInc_op (k : Nat) : (regInc k s).op = s.op := rfl
@[simp] theorem regInc_inDrive (k : Nat) : (regInc k s).inDrive = s.inDrive := rfl
@[simp] theorem regInc_active (k : Nat) : (regInc k s).active = s.active := rfl
@[simp] theorem regInc_shadow (k : Nat) : (regInc k s).shadow = s.shadow := rfl
@[simp] theorem regInc_mem (k : Nat) : (regInc k s).mem = s.mem := rfl
@[simp] theorem regInc_realms (k : Nat) : (regInc k s).realms = s.realms := rfl
@[simp] theorem regInc_hosts (k : Nat) : (regInc k s).hosts = s.hosts := rfl
@[simp] theorem regInc_jobs (k : Nat) : (regInc k s).jobs = s.jobs := rfl
@[simp] theorem regInc_accCtr (k : Nat) : (regInc k s).accCtr = s.accCtr := rfl
@[simp] theorem regInc_lastServed (k : Nat) : (regInc k s).lastServed = s.lastServed := rfl
@[simp] theorem regInc_curtain (k : Nat) : (regInc k s).curtain = s.curtain := rfl
@[simp] theorem regInc_lastClass (k : Nat) : (regInc k s).lastClass = s.lastClass := rfl
@[simp] theorem regInc_mgrPort (k : Nat) : (regInc k s).mgrPort = s.mgrPort := rfl
@[simp] theorem regInc_tbUnits (k : Nat) : (regInc k s).tbUnits = s.tbUnits := rfl
@[simp] theorem regInc_ticks (k : Nat) : (regInc k s).ticks = s.ticks := rfl
@[simp] theorem regInc_refSys (k : Nat) : (regInc k s).refSys = s.refSys := rfl
@[simp] theorem regInc_dpx (k : Nat) : (regInc k s).dpx = s.dpx := rfl
@[simp] theorem regInc_engines (k : Nat) : (regInc k s).engines = s.engines := rfl
@[simp] theorem regInc_frame (k : Nat) : (regInc k s).frame = s.frame := rfl
@[simp] theorem regInc_isl (k : Nat) : (regInc k s).isl = s.isl := rfl
@[simp] theorem regInc_links (k : Nat) : (regInc k s).links = s.links := rfl
@[simp] theorem regInc_boot (k : Nat) : (regInc k s).boot = s.boot := rfl
@[simp] theorem regInc_lodging (k : Nat) : (regInc k s).lodging = s.lodging := rfl
@[simp] theorem regInc_attest (k : Nat) : (regInc k s).attest = s.attest := rfl
@[simp] theorem regInc_und (k : Nat) : (regInc k s).und = s.und := rfl
@[simp] theorem regInc_thm (k : Nat) : (regInc k s).thm = s.thm := rfl
@[simp] theorem regInc_time (k : Nat) : (regInc k s).time = s.time := rfl
@[simp] theorem regInc_ing (k : Nat) : (regInc k s).ing = s.ing := rfl
@[simp] theorem regInc_fus (k : Nat) : (regInc k s).fus = s.fus := rfl
@[simp] theorem regInc_kept (k : Nat) : (regInc k s).kept = s.kept := rfl
@[simp] theorem regInc_opLog (k : Nat) : (regInc k s).opLog = s.opLog := rfl
@[simp] theorem actGet_regInc (k : Nat) (j : Nat) : actGet (regInc k s) j = actGet s j := rfl
@[simp] theorem shGet_regInc (k : Nat) (j : Nat) : shGet (regInc k s) j = shGet s j := rfl
@[simp] theorem portOf_regInc (k : Nat) (q : Nat) : portOf (regInc k s) q = portOf s q := rfl
@[simp] theorem ringOf_regInc (k : Nat) (q n : Nat) : ringOf (regInc k s) q n = ringOf s q n := rfl
@[simp] theorem realmOf_regInc (k : Nat) (q : Nat) : realmOf (regInc k s) q = realmOf s q := rfl
@[simp] theorem engineOf_regInc (k : Nat) (q : Nat) : engineOf (regInc k s) q = engineOf s q := rfl
@[simp] theorem findJob_regInc (k : Nat) (n : Nat) : findJob (regInc k s) n = findJob s n := rfl
@[simp] theorem hostByte_regInc (k : Nat) (q n : Nat) : hostByte (regInc k s) q n = hostByte s q n := rfl

/-! shSet -/

@[simp] theorem shSet_pending (k v : Nat) : (shSet k v s).pending = s.pending := rfl
@[simp] theorem shSet_freeCtr (k v : Nat) : (shSet k v s).freeCtr = s.freeCtr := rfl
@[simp] theorem shSet_lastRead (k v : Nat) : (shSet k v s).lastRead = s.lastRead := rfl
@[simp] theorem shSet_op (k v : Nat) : (shSet k v s).op = s.op := rfl
@[simp] theorem shSet_inDrive (k v : Nat) : (shSet k v s).inDrive = s.inDrive := rfl
@[simp] theorem shSet_reg (k v : Nat) : (shSet k v s).reg = s.reg := rfl
@[simp] theorem shSet_active (k v : Nat) : (shSet k v s).active = s.active := rfl
@[simp] theorem shSet_mem (k v : Nat) : (shSet k v s).mem = s.mem := rfl
@[simp] theorem shSet_realms (k v : Nat) : (shSet k v s).realms = s.realms := rfl
@[simp] theorem shSet_hosts (k v : Nat) : (shSet k v s).hosts = s.hosts := rfl
@[simp] theorem shSet_jobs (k v : Nat) : (shSet k v s).jobs = s.jobs := rfl
@[simp] theorem shSet_accCtr (k v : Nat) : (shSet k v s).accCtr = s.accCtr := rfl
@[simp] theorem shSet_lastServed (k v : Nat) : (shSet k v s).lastServed = s.lastServed := rfl
@[simp] theorem shSet_curtain (k v : Nat) : (shSet k v s).curtain = s.curtain := rfl
@[simp] theorem shSet_lastClass (k v : Nat) : (shSet k v s).lastClass = s.lastClass := rfl
@[simp] theorem shSet_mgrPort (k v : Nat) : (shSet k v s).mgrPort = s.mgrPort := rfl
@[simp] theorem shSet_tbUnits (k v : Nat) : (shSet k v s).tbUnits = s.tbUnits := rfl
@[simp] theorem shSet_ticks (k v : Nat) : (shSet k v s).ticks = s.ticks := rfl
@[simp] theorem shSet_refSys (k v : Nat) : (shSet k v s).refSys = s.refSys := rfl
@[simp] theorem shSet_dpx (k v : Nat) : (shSet k v s).dpx = s.dpx := rfl
@[simp] theorem shSet_engines (k v : Nat) : (shSet k v s).engines = s.engines := rfl
@[simp] theorem shSet_frame (k v : Nat) : (shSet k v s).frame = s.frame := rfl
@[simp] theorem shSet_isl (k v : Nat) : (shSet k v s).isl = s.isl := rfl
@[simp] theorem shSet_links (k v : Nat) : (shSet k v s).links = s.links := rfl
@[simp] theorem shSet_boot (k v : Nat) : (shSet k v s).boot = s.boot := rfl
@[simp] theorem shSet_lodging (k v : Nat) : (shSet k v s).lodging = s.lodging := rfl
@[simp] theorem shSet_attest (k v : Nat) : (shSet k v s).attest = s.attest := rfl
@[simp] theorem shSet_und (k v : Nat) : (shSet k v s).und = s.und := rfl
@[simp] theorem shSet_thm (k v : Nat) : (shSet k v s).thm = s.thm := rfl
@[simp] theorem shSet_time (k v : Nat) : (shSet k v s).time = s.time := rfl
@[simp] theorem shSet_ing (k v : Nat) : (shSet k v s).ing = s.ing := rfl
@[simp] theorem shSet_fus (k v : Nat) : (shSet k v s).fus = s.fus := rfl
@[simp] theorem shSet_kept (k v : Nat) : (shSet k v s).kept = s.kept := rfl
@[simp] theorem shSet_opLog (k v : Nat) : (shSet k v s).opLog = s.opLog := rfl
@[simp] theorem regGet_shSet (k v : Nat) (j : Nat) : regGet (shSet k v s) j = regGet s j := rfl
@[simp] theorem actGet_shSet (k v : Nat) (j : Nat) : actGet (shSet k v s) j = actGet s j := rfl
@[simp] theorem portOf_shSet (k v : Nat) (q : Nat) : portOf (shSet k v s) q = portOf s q := rfl
@[simp] theorem ringOf_shSet (k v : Nat) (q n : Nat) : ringOf (shSet k v s) q n = ringOf s q n := rfl
@[simp] theorem realmOf_shSet (k v : Nat) (q : Nat) : realmOf (shSet k v s) q = realmOf s q := rfl
@[simp] theorem engineOf_shSet (k v : Nat) (q : Nat) : engineOf (shSet k v s) q = engineOf s q := rfl
@[simp] theorem findJob_shSet (k v : Nat) (n : Nat) : findJob (shSet k v s) n = findJob s n := rfl
@[simp] theorem hostByte_shSet (k v : Nat) (q n : Nat) : hostByte (shSet k v s) q n = hostByte s q n := rfl

/-! actSet -/

@[simp] theorem actSet_pending (k v : Nat) : (actSet k v s).pending = s.pending := rfl
@[simp] theorem actSet_freeCtr (k v : Nat) : (actSet k v s).freeCtr = s.freeCtr := rfl
@[simp] theorem actSet_lastRead (k v : Nat) : (actSet k v s).lastRead = s.lastRead := rfl
@[simp] theorem actSet_op (k v : Nat) : (actSet k v s).op = s.op := rfl
@[simp] theorem actSet_inDrive (k v : Nat) : (actSet k v s).inDrive = s.inDrive := rfl
@[simp] theorem actSet_reg (k v : Nat) : (actSet k v s).reg = s.reg := rfl
@[simp] theorem actSet_shadow (k v : Nat) : (actSet k v s).shadow = s.shadow := rfl
@[simp] theorem actSet_mem (k v : Nat) : (actSet k v s).mem = s.mem := rfl
@[simp] theorem actSet_realms (k v : Nat) : (actSet k v s).realms = s.realms := rfl
@[simp] theorem actSet_hosts (k v : Nat) : (actSet k v s).hosts = s.hosts := rfl
@[simp] theorem actSet_jobs (k v : Nat) : (actSet k v s).jobs = s.jobs := rfl
@[simp] theorem actSet_accCtr (k v : Nat) : (actSet k v s).accCtr = s.accCtr := rfl
@[simp] theorem actSet_lastServed (k v : Nat) : (actSet k v s).lastServed = s.lastServed := rfl
@[simp] theorem actSet_curtain (k v : Nat) : (actSet k v s).curtain = s.curtain := rfl
@[simp] theorem actSet_lastClass (k v : Nat) : (actSet k v s).lastClass = s.lastClass := rfl
@[simp] theorem actSet_mgrPort (k v : Nat) : (actSet k v s).mgrPort = s.mgrPort := rfl
@[simp] theorem actSet_tbUnits (k v : Nat) : (actSet k v s).tbUnits = s.tbUnits := rfl
@[simp] theorem actSet_ticks (k v : Nat) : (actSet k v s).ticks = s.ticks := rfl
@[simp] theorem actSet_refSys (k v : Nat) : (actSet k v s).refSys = s.refSys := rfl
@[simp] theorem actSet_dpx (k v : Nat) : (actSet k v s).dpx = s.dpx := rfl
@[simp] theorem actSet_engines (k v : Nat) : (actSet k v s).engines = s.engines := rfl
@[simp] theorem actSet_frame (k v : Nat) : (actSet k v s).frame = s.frame := rfl
@[simp] theorem actSet_isl (k v : Nat) : (actSet k v s).isl = s.isl := rfl
@[simp] theorem actSet_links (k v : Nat) : (actSet k v s).links = s.links := rfl
@[simp] theorem actSet_boot (k v : Nat) : (actSet k v s).boot = s.boot := rfl
@[simp] theorem actSet_lodging (k v : Nat) : (actSet k v s).lodging = s.lodging := rfl
@[simp] theorem actSet_attest (k v : Nat) : (actSet k v s).attest = s.attest := rfl
@[simp] theorem actSet_und (k v : Nat) : (actSet k v s).und = s.und := rfl
@[simp] theorem actSet_thm (k v : Nat) : (actSet k v s).thm = s.thm := rfl
@[simp] theorem actSet_time (k v : Nat) : (actSet k v s).time = s.time := rfl
@[simp] theorem actSet_ing (k v : Nat) : (actSet k v s).ing = s.ing := rfl
@[simp] theorem actSet_fus (k v : Nat) : (actSet k v s).fus = s.fus := rfl
@[simp] theorem actSet_kept (k v : Nat) : (actSet k v s).kept = s.kept := rfl
@[simp] theorem actSet_opLog (k v : Nat) : (actSet k v s).opLog = s.opLog := rfl
@[simp] theorem regGet_actSet (k v : Nat) (j : Nat) : regGet (actSet k v s) j = regGet s j := rfl
@[simp] theorem shGet_actSet (k v : Nat) (j : Nat) : shGet (actSet k v s) j = shGet s j := rfl
@[simp] theorem portOf_actSet (k v : Nat) (q : Nat) : portOf (actSet k v s) q = portOf s q := rfl
@[simp] theorem ringOf_actSet (k v : Nat) (q n : Nat) : ringOf (actSet k v s) q n = ringOf s q n := rfl
@[simp] theorem realmOf_actSet (k v : Nat) (q : Nat) : realmOf (actSet k v s) q = realmOf s q := rfl
@[simp] theorem engineOf_actSet (k v : Nat) (q : Nat) : engineOf (actSet k v s) q = engineOf s q := rfl
@[simp] theorem findJob_actSet (k v : Nat) (n : Nat) : findJob (actSet k v s) n = findJob s n := rfl
@[simp] theorem hostByte_actSet (k v : Nat) (q n : Nat) : hostByte (actSet k v s) q n = hostByte s q n := rfl

/-! hostWrite -/

@[simp] theorem hostWrite_pending (p a : Nat) (bs : List Byte) : (hostWrite p a bs s).pending = s.pending := rfl
@[simp] theorem hostWrite_freeCtr (p a : Nat) (bs : List Byte) : (hostWrite p a bs s).freeCtr = s.freeCtr := rfl
@[simp] theorem hostWrite_lastRead (p a : Nat) (bs : List Byte) : (hostWrite p a bs s).lastRead = s.lastRead := rfl
@[simp] theorem hostWrite_op (p a : Nat) (bs : List Byte) : (hostWrite p a bs s).op = s.op := rfl
@[simp] theorem hostWrite_inDrive (p a : Nat) (bs : List Byte) : (hostWrite p a bs s).inDrive = s.inDrive := rfl
@[simp] theorem hostWrite_reg (p a : Nat) (bs : List Byte) : (hostWrite p a bs s).reg = s.reg := rfl
@[simp] theorem hostWrite_active (p a : Nat) (bs : List Byte) : (hostWrite p a bs s).active = s.active := rfl
@[simp] theorem hostWrite_shadow (p a : Nat) (bs : List Byte) : (hostWrite p a bs s).shadow = s.shadow := rfl
@[simp] theorem hostWrite_realms (p a : Nat) (bs : List Byte) : (hostWrite p a bs s).realms = s.realms := rfl
@[simp] theorem hostWrite_hosts (p a : Nat) (bs : List Byte) : (hostWrite p a bs s).hosts = s.hosts := rfl
@[simp] theorem hostWrite_jobs (p a : Nat) (bs : List Byte) : (hostWrite p a bs s).jobs = s.jobs := rfl
@[simp] theorem hostWrite_accCtr (p a : Nat) (bs : List Byte) : (hostWrite p a bs s).accCtr = s.accCtr := rfl
@[simp] theorem hostWrite_lastServed (p a : Nat) (bs : List Byte) : (hostWrite p a bs s).lastServed = s.lastServed := rfl
@[simp] theorem hostWrite_curtain (p a : Nat) (bs : List Byte) : (hostWrite p a bs s).curtain = s.curtain := rfl
@[simp] theorem hostWrite_lastClass (p a : Nat) (bs : List Byte) : (hostWrite p a bs s).lastClass = s.lastClass := rfl
@[simp] theorem hostWrite_mgrPort (p a : Nat) (bs : List Byte) : (hostWrite p a bs s).mgrPort = s.mgrPort := rfl
@[simp] theorem hostWrite_tbUnits (p a : Nat) (bs : List Byte) : (hostWrite p a bs s).tbUnits = s.tbUnits := rfl
@[simp] theorem hostWrite_ticks (p a : Nat) (bs : List Byte) : (hostWrite p a bs s).ticks = s.ticks := rfl
@[simp] theorem hostWrite_refSys (p a : Nat) (bs : List Byte) : (hostWrite p a bs s).refSys = s.refSys := rfl
@[simp] theorem hostWrite_dpx (p a : Nat) (bs : List Byte) : (hostWrite p a bs s).dpx = s.dpx := rfl
@[simp] theorem hostWrite_engines (p a : Nat) (bs : List Byte) : (hostWrite p a bs s).engines = s.engines := rfl
@[simp] theorem hostWrite_frame (p a : Nat) (bs : List Byte) : (hostWrite p a bs s).frame = s.frame := rfl
@[simp] theorem hostWrite_isl (p a : Nat) (bs : List Byte) : (hostWrite p a bs s).isl = s.isl := rfl
@[simp] theorem hostWrite_links (p a : Nat) (bs : List Byte) : (hostWrite p a bs s).links = s.links := rfl
@[simp] theorem hostWrite_boot (p a : Nat) (bs : List Byte) : (hostWrite p a bs s).boot = s.boot := rfl
@[simp] theorem hostWrite_lodging (p a : Nat) (bs : List Byte) : (hostWrite p a bs s).lodging = s.lodging := rfl
@[simp] theorem hostWrite_attest (p a : Nat) (bs : List Byte) : (hostWrite p a bs s).attest = s.attest := rfl
@[simp] theorem hostWrite_und (p a : Nat) (bs : List Byte) : (hostWrite p a bs s).und = s.und := rfl
@[simp] theorem hostWrite_thm (p a : Nat) (bs : List Byte) : (hostWrite p a bs s).thm = s.thm := rfl
@[simp] theorem hostWrite_time (p a : Nat) (bs : List Byte) : (hostWrite p a bs s).time = s.time := rfl
@[simp] theorem hostWrite_ing (p a : Nat) (bs : List Byte) : (hostWrite p a bs s).ing = s.ing := rfl
@[simp] theorem hostWrite_fus (p a : Nat) (bs : List Byte) : (hostWrite p a bs s).fus = s.fus := rfl
@[simp] theorem hostWrite_kept (p a : Nat) (bs : List Byte) : (hostWrite p a bs s).kept = s.kept := rfl
@[simp] theorem hostWrite_opLog (p a : Nat) (bs : List Byte) : (hostWrite p a bs s).opLog = s.opLog := rfl
@[simp] theorem hostWrite_mem_win (p a : Nat) (bs : List Byte) : (hostWrite p a bs s).mem.win = s.mem.win := rfl
@[simp] theorem hostWrite_mem_room (p a : Nat) (bs : List Byte) : (hostWrite p a bs s).mem.room = s.mem.room := rfl
@[simp] theorem hostWrite_mem_poisonWin (p a : Nat) (bs : List Byte) : (hostWrite p a bs s).mem.poisonWin = s.mem.poisonWin := rfl
@[simp] theorem hostWrite_mem_poisonRoom (p a : Nat) (bs : List Byte) : (hostWrite p a bs s).mem.poisonRoom = s.mem.poisonRoom := rfl
@[simp] theorem hostWrite_mem_poisonDir (p a : Nat) (bs : List Byte) : (hostWrite p a bs s).mem.poisonDir = s.mem.poisonDir := rfl
@[simp] theorem hostWrite_mem_poisonRaw (p a : Nat) (bs : List Byte) : (hostWrite p a bs s).mem.poisonRaw = s.mem.poisonRaw := rfl
@[simp] theorem hostWrite_mem_dirs (p a : Nat) (bs : List Byte) : (hostWrite p a bs s).mem.dirs = s.mem.dirs := rfl
@[simp] theorem hostWrite_mem_slotLimbo (p a : Nat) (bs : List Byte) : (hostWrite p a bs s).mem.slotLimbo = s.mem.slotLimbo := rfl
@[simp] theorem hostWrite_mem_journal (p a : Nat) (bs : List Byte) : (hostWrite p a bs s).mem.journal = s.mem.journal := rfl
@[simp] theorem hostWrite_mem_books (p a : Nat) (bs : List Byte) : (hostWrite p a bs s).mem.books = s.mem.books := rfl
@[simp] theorem hostWrite_mem_shows (p a : Nat) (bs : List Byte) : (hostWrite p a bs s).mem.shows = s.mem.shows := rfl
@[simp] theorem hostWrite_mem_erased (p a : Nat) (bs : List Byte) : (hostWrite p a bs s).mem.erased = s.mem.erased := rfl
@[simp] theorem hostWrite_mem_initUnits (p a : Nat) (bs : List Byte) : (hostWrite p a bs s).mem.initUnits = s.mem.initUnits := rfl
@[simp] theorem hostWrite_mem_scrubbed (p a : Nat) (bs : List Byte) : (hostWrite p a bs s).mem.scrubbed = s.mem.scrubbed := rfl
@[simp] theorem regGet_hostWrite (p a : Nat) (bs : List Byte) (j : Nat) : regGet (hostWrite p a bs s) j = regGet s j := rfl
@[simp] theorem actGet_hostWrite (p a : Nat) (bs : List Byte) (j : Nat) : actGet (hostWrite p a bs s) j = actGet s j := rfl
@[simp] theorem shGet_hostWrite (p a : Nat) (bs : List Byte) (j : Nat) : shGet (hostWrite p a bs s) j = shGet s j := rfl
@[simp] theorem portOf_hostWrite (p a : Nat) (bs : List Byte) (q : Nat) : portOf (hostWrite p a bs s) q = portOf s q := rfl
@[simp] theorem ringOf_hostWrite (p a : Nat) (bs : List Byte) (q n : Nat) : ringOf (hostWrite p a bs s) q n = ringOf s q n := rfl
@[simp] theorem realmOf_hostWrite (p a : Nat) (bs : List Byte) (q : Nat) : realmOf (hostWrite p a bs s) q = realmOf s q := rfl
@[simp] theorem engineOf_hostWrite (p a : Nat) (bs : List Byte) (q : Nat) : engineOf (hostWrite p a bs s) q = engineOf s q := rfl
@[simp] theorem findJob_hostWrite (p a : Nat) (bs : List Byte) (n : Nat) : findJob (hostWrite p a bs s) n = findJob s n := rfl

/-! dmaWrite -/

@[simp] theorem dmaWrite_pending (p a : Nat) (bs : List Byte) : (dmaWrite p a bs s).pending = s.pending := by unfold dmaWrite; split <;> rfl
@[simp] theorem dmaWrite_freeCtr (p a : Nat) (bs : List Byte) : (dmaWrite p a bs s).freeCtr = s.freeCtr := by unfold dmaWrite; split <;> rfl
@[simp] theorem dmaWrite_lastRead (p a : Nat) (bs : List Byte) : (dmaWrite p a bs s).lastRead = s.lastRead := by unfold dmaWrite; split <;> rfl
@[simp] theorem dmaWrite_op (p a : Nat) (bs : List Byte) : (dmaWrite p a bs s).op = s.op := by unfold dmaWrite; split <;> rfl
@[simp] theorem dmaWrite_inDrive (p a : Nat) (bs : List Byte) : (dmaWrite p a bs s).inDrive = s.inDrive := by unfold dmaWrite; split <;> rfl
@[simp] theorem dmaWrite_reg (p a : Nat) (bs : List Byte) : (dmaWrite p a bs s).reg = s.reg := by unfold dmaWrite; split <;> rfl
@[simp] theorem dmaWrite_active (p a : Nat) (bs : List Byte) : (dmaWrite p a bs s).active = s.active := by unfold dmaWrite; split <;> rfl
@[simp] theorem dmaWrite_shadow (p a : Nat) (bs : List Byte) : (dmaWrite p a bs s).shadow = s.shadow := by unfold dmaWrite; split <;> rfl
@[simp] theorem dmaWrite_realms (p a : Nat) (bs : List Byte) : (dmaWrite p a bs s).realms = s.realms := by unfold dmaWrite; split <;> rfl
@[simp] theorem dmaWrite_hosts (p a : Nat) (bs : List Byte) : (dmaWrite p a bs s).hosts = s.hosts := by unfold dmaWrite; split <;> rfl
@[simp] theorem dmaWrite_jobs (p a : Nat) (bs : List Byte) : (dmaWrite p a bs s).jobs = s.jobs := by unfold dmaWrite; split <;> rfl
@[simp] theorem dmaWrite_accCtr (p a : Nat) (bs : List Byte) : (dmaWrite p a bs s).accCtr = s.accCtr := by unfold dmaWrite; split <;> rfl
@[simp] theorem dmaWrite_lastServed (p a : Nat) (bs : List Byte) : (dmaWrite p a bs s).lastServed = s.lastServed := by unfold dmaWrite; split <;> rfl
@[simp] theorem dmaWrite_curtain (p a : Nat) (bs : List Byte) : (dmaWrite p a bs s).curtain = s.curtain := by unfold dmaWrite; split <;> rfl
@[simp] theorem dmaWrite_lastClass (p a : Nat) (bs : List Byte) : (dmaWrite p a bs s).lastClass = s.lastClass := by unfold dmaWrite; split <;> rfl
@[simp] theorem dmaWrite_mgrPort (p a : Nat) (bs : List Byte) : (dmaWrite p a bs s).mgrPort = s.mgrPort := by unfold dmaWrite; split <;> rfl
@[simp] theorem dmaWrite_tbUnits (p a : Nat) (bs : List Byte) : (dmaWrite p a bs s).tbUnits = s.tbUnits := by unfold dmaWrite; split <;> rfl
@[simp] theorem dmaWrite_ticks (p a : Nat) (bs : List Byte) : (dmaWrite p a bs s).ticks = s.ticks := by unfold dmaWrite; split <;> rfl
@[simp] theorem dmaWrite_refSys (p a : Nat) (bs : List Byte) : (dmaWrite p a bs s).refSys = s.refSys := by unfold dmaWrite; split <;> rfl
@[simp] theorem dmaWrite_dpx (p a : Nat) (bs : List Byte) : (dmaWrite p a bs s).dpx = s.dpx := by unfold dmaWrite; split <;> rfl
@[simp] theorem dmaWrite_engines (p a : Nat) (bs : List Byte) : (dmaWrite p a bs s).engines = s.engines := by unfold dmaWrite; split <;> rfl
@[simp] theorem dmaWrite_frame (p a : Nat) (bs : List Byte) : (dmaWrite p a bs s).frame = s.frame := by unfold dmaWrite; split <;> rfl
@[simp] theorem dmaWrite_isl (p a : Nat) (bs : List Byte) : (dmaWrite p a bs s).isl = s.isl := by unfold dmaWrite; split <;> rfl
@[simp] theorem dmaWrite_links (p a : Nat) (bs : List Byte) : (dmaWrite p a bs s).links = s.links := by unfold dmaWrite; split <;> rfl
@[simp] theorem dmaWrite_boot (p a : Nat) (bs : List Byte) : (dmaWrite p a bs s).boot = s.boot := by unfold dmaWrite; split <;> rfl
@[simp] theorem dmaWrite_lodging (p a : Nat) (bs : List Byte) : (dmaWrite p a bs s).lodging = s.lodging := by unfold dmaWrite; split <;> rfl
@[simp] theorem dmaWrite_attest (p a : Nat) (bs : List Byte) : (dmaWrite p a bs s).attest = s.attest := by unfold dmaWrite; split <;> rfl
@[simp] theorem dmaWrite_und (p a : Nat) (bs : List Byte) : (dmaWrite p a bs s).und = s.und := by unfold dmaWrite; split <;> rfl
@[simp] theorem dmaWrite_thm (p a : Nat) (bs : List Byte) : (dmaWrite p a bs s).thm = s.thm := by unfold dmaWrite; split <;> rfl
@[simp] theorem dmaWrite_time (p a : Nat) (bs : List Byte) : (dmaWrite p a bs s).time = s.time := by unfold dmaWrite; split <;> rfl
@[simp] theorem dmaWrite_ing (p a : Nat) (bs : List Byte) : (dmaWrite p a bs s).ing = s.ing := by unfold dmaWrite; split <;> rfl
@[simp] theorem dmaWrite_fus (p a : Nat) (bs : List Byte) : (dmaWrite p a bs s).fus = s.fus := by unfold dmaWrite; split <;> rfl
@[simp] theorem dmaWrite_kept (p a : Nat) (bs : List Byte) : (dmaWrite p a bs s).kept = s.kept := by unfold dmaWrite; split <;> rfl
@[simp] theorem dmaWrite_opLog (p a : Nat) (bs : List Byte) : (dmaWrite p a bs s).opLog = s.opLog := by unfold dmaWrite; split <;> rfl
@[simp] theorem dmaWrite_mem_win (p a : Nat) (bs : List Byte) : (dmaWrite p a bs s).mem.win = s.mem.win := by unfold dmaWrite; split <;> rfl
@[simp] theorem dmaWrite_mem_room (p a : Nat) (bs : List Byte) : (dmaWrite p a bs s).mem.room = s.mem.room := by unfold dmaWrite; split <;> rfl
@[simp] theorem dmaWrite_mem_poisonWin (p a : Nat) (bs : List Byte) : (dmaWrite p a bs s).mem.poisonWin = s.mem.poisonWin := by unfold dmaWrite; split <;> rfl
@[simp] theorem dmaWrite_mem_poisonRoom (p a : Nat) (bs : List Byte) : (dmaWrite p a bs s).mem.poisonRoom = s.mem.poisonRoom := by unfold dmaWrite; split <;> rfl
@[simp] theorem dmaWrite_mem_poisonDir (p a : Nat) (bs : List Byte) : (dmaWrite p a bs s).mem.poisonDir = s.mem.poisonDir := by unfold dmaWrite; split <;> rfl
@[simp] theorem dmaWrite_mem_poisonRaw (p a : Nat) (bs : List Byte) : (dmaWrite p a bs s).mem.poisonRaw = s.mem.poisonRaw := by unfold dmaWrite; split <;> rfl
@[simp] theorem dmaWrite_mem_dirs (p a : Nat) (bs : List Byte) : (dmaWrite p a bs s).mem.dirs = s.mem.dirs := by unfold dmaWrite; split <;> rfl
@[simp] theorem dmaWrite_mem_slotLimbo (p a : Nat) (bs : List Byte) : (dmaWrite p a bs s).mem.slotLimbo = s.mem.slotLimbo := by unfold dmaWrite; split <;> rfl
@[simp] theorem dmaWrite_mem_journal (p a : Nat) (bs : List Byte) : (dmaWrite p a bs s).mem.journal = s.mem.journal := by unfold dmaWrite; split <;> rfl
@[simp] theorem dmaWrite_mem_books (p a : Nat) (bs : List Byte) : (dmaWrite p a bs s).mem.books = s.mem.books := by unfold dmaWrite; split <;> rfl
@[simp] theorem dmaWrite_mem_shows (p a : Nat) (bs : List Byte) : (dmaWrite p a bs s).mem.shows = s.mem.shows := by unfold dmaWrite; split <;> rfl
@[simp] theorem dmaWrite_mem_erased (p a : Nat) (bs : List Byte) : (dmaWrite p a bs s).mem.erased = s.mem.erased := by unfold dmaWrite; split <;> rfl
@[simp] theorem dmaWrite_mem_initUnits (p a : Nat) (bs : List Byte) : (dmaWrite p a bs s).mem.initUnits = s.mem.initUnits := by unfold dmaWrite; split <;> rfl
@[simp] theorem dmaWrite_mem_scrubbed (p a : Nat) (bs : List Byte) : (dmaWrite p a bs s).mem.scrubbed = s.mem.scrubbed := by unfold dmaWrite; split <;> rfl
@[simp] theorem regGet_dmaWrite (p a : Nat) (bs : List Byte) (j : Nat) : regGet (dmaWrite p a bs s) j = regGet s j := by unfold dmaWrite; split <;> rfl
@[simp] theorem actGet_dmaWrite (p a : Nat) (bs : List Byte) (j : Nat) : actGet (dmaWrite p a bs s) j = actGet s j := by unfold dmaWrite; split <;> rfl
@[simp] theorem shGet_dmaWrite (p a : Nat) (bs : List Byte) (j : Nat) : shGet (dmaWrite p a bs s) j = shGet s j := by unfold dmaWrite; split <;> rfl
@[simp] theorem portOf_dmaWrite (p a : Nat) (bs : List Byte) (q : Nat) : portOf (dmaWrite p a bs s) q = portOf s q := by unfold dmaWrite; split <;> rfl
@[simp] theorem ringOf_dmaWrite (p a : Nat) (bs : List Byte) (q n : Nat) : ringOf (dmaWrite p a bs s) q n = ringOf s q n := by unfold dmaWrite; split <;> rfl
@[simp] theorem realmOf_dmaWrite (p a : Nat) (bs : List Byte) (q : Nat) : realmOf (dmaWrite p a bs s) q = realmOf s q := by unfold dmaWrite; split <;> rfl
@[simp] theorem engineOf_dmaWrite (p a : Nat) (bs : List Byte) (q : Nat) : engineOf (dmaWrite p a bs s) q = engineOf s q := by unfold dmaWrite; split <;> rfl
@[simp] theorem findJob_dmaWrite (p a : Nat) (bs : List Byte) (n : Nat) : findJob (dmaWrite p a bs s) n = findJob s n := by unfold dmaWrite; split <;> rfl

/-! modPort -/

@[simp] theorem modPort_pending (p : Nat) (f : HostPort → HostPort) : (modPort p f s).pending = s.pending := rfl
@[simp] theorem modPort_freeCtr (p : Nat) (f : HostPort → HostPort) : (modPort p f s).freeCtr = s.freeCtr := rfl
@[simp] theorem modPort_lastRead (p : Nat) (f : HostPort → HostPort) : (modPort p f s).lastRead = s.lastRead := rfl
@[simp] theorem modPort_op (p : Nat) (f : HostPort → HostPort) : (modPort p f s).op = s.op := rfl
@[simp] theorem modPort_inDrive (p : Nat) (f : HostPort → HostPort) : (modPort p f s).inDrive = s.inDrive := rfl
@[simp] theorem modPort_reg (p : Nat) (f : HostPort → HostPort) : (modPort p f s).reg = s.reg := rfl
@[simp] theorem modPort_active (p : Nat) (f : HostPort → HostPort) : (modPort p f s).active = s.active := rfl
@[simp] theorem modPort_shadow (p : Nat) (f : HostPort → HostPort) : (modPort p f s).shadow = s.shadow := rfl
@[simp] theorem modPort_mem (p : Nat) (f : HostPort → HostPort) : (modPort p f s).mem = s.mem := rfl
@[simp] theorem modPort_realms (p : Nat) (f : HostPort → HostPort) : (modPort p f s).realms = s.realms := rfl
@[simp] theorem modPort_jobs (p : Nat) (f : HostPort → HostPort) : (modPort p f s).jobs = s.jobs := rfl
@[simp] theorem modPort_accCtr (p : Nat) (f : HostPort → HostPort) : (modPort p f s).accCtr = s.accCtr := rfl
@[simp] theorem modPort_lastServed (p : Nat) (f : HostPort → HostPort) : (modPort p f s).lastServed = s.lastServed := rfl
@[simp] theorem modPort_curtain (p : Nat) (f : HostPort → HostPort) : (modPort p f s).curtain = s.curtain := rfl
@[simp] theorem modPort_lastClass (p : Nat) (f : HostPort → HostPort) : (modPort p f s).lastClass = s.lastClass := rfl
@[simp] theorem modPort_mgrPort (p : Nat) (f : HostPort → HostPort) : (modPort p f s).mgrPort = s.mgrPort := rfl
@[simp] theorem modPort_tbUnits (p : Nat) (f : HostPort → HostPort) : (modPort p f s).tbUnits = s.tbUnits := rfl
@[simp] theorem modPort_ticks (p : Nat) (f : HostPort → HostPort) : (modPort p f s).ticks = s.ticks := rfl
@[simp] theorem modPort_refSys (p : Nat) (f : HostPort → HostPort) : (modPort p f s).refSys = s.refSys := rfl
@[simp] theorem modPort_dpx (p : Nat) (f : HostPort → HostPort) : (modPort p f s).dpx = s.dpx := rfl
@[simp] theorem modPort_engines (p : Nat) (f : HostPort → HostPort) : (modPort p f s).engines = s.engines := rfl
@[simp] theorem modPort_frame (p : Nat) (f : HostPort → HostPort) : (modPort p f s).frame = s.frame := rfl
@[simp] theorem modPort_isl (p : Nat) (f : HostPort → HostPort) : (modPort p f s).isl = s.isl := rfl
@[simp] theorem modPort_links (p : Nat) (f : HostPort → HostPort) : (modPort p f s).links = s.links := rfl
@[simp] theorem modPort_boot (p : Nat) (f : HostPort → HostPort) : (modPort p f s).boot = s.boot := rfl
@[simp] theorem modPort_lodging (p : Nat) (f : HostPort → HostPort) : (modPort p f s).lodging = s.lodging := rfl
@[simp] theorem modPort_attest (p : Nat) (f : HostPort → HostPort) : (modPort p f s).attest = s.attest := rfl
@[simp] theorem modPort_und (p : Nat) (f : HostPort → HostPort) : (modPort p f s).und = s.und := rfl
@[simp] theorem modPort_thm (p : Nat) (f : HostPort → HostPort) : (modPort p f s).thm = s.thm := rfl
@[simp] theorem modPort_time (p : Nat) (f : HostPort → HostPort) : (modPort p f s).time = s.time := rfl
@[simp] theorem modPort_ing (p : Nat) (f : HostPort → HostPort) : (modPort p f s).ing = s.ing := rfl
@[simp] theorem modPort_fus (p : Nat) (f : HostPort → HostPort) : (modPort p f s).fus = s.fus := rfl
@[simp] theorem modPort_kept (p : Nat) (f : HostPort → HostPort) : (modPort p f s).kept = s.kept := rfl
@[simp] theorem modPort_opLog (p : Nat) (f : HostPort → HostPort) : (modPort p f s).opLog = s.opLog := rfl
@[simp] theorem regGet_modPort (p : Nat) (f : HostPort → HostPort) (j : Nat) : regGet (modPort p f s) j = regGet s j := rfl
@[simp] theorem actGet_modPort (p : Nat) (f : HostPort → HostPort) (j : Nat) : actGet (modPort p f s) j = actGet s j := rfl
@[simp] theorem shGet_modPort (p : Nat) (f : HostPort → HostPort) (j : Nat) : shGet (modPort p f s) j = shGet s j := rfl
@[simp] theorem realmOf_modPort (p : Nat) (f : HostPort → HostPort) (q : Nat) : realmOf (modPort p f s) q = realmOf s q := rfl
@[simp] theorem engineOf_modPort (p : Nat) (f : HostPort → HostPort) (q : Nat) : engineOf (modPort p f s) q = engineOf s q := rfl
@[simp] theorem findJob_modPort (p : Nat) (f : HostPort → HostPort) (n : Nat) : findJob (modPort p f s) n = findJob s n := rfl
@[simp] theorem hostByte_modPort (p : Nat) (f : HostPort → HostPort) (q n : Nat) : hostByte (modPort p f s) q n = hostByte s q n := rfl

/-! modRing -/

@[simp] theorem modRing_pending (p i : Nat) (f : Ring → Ring) : (modRing p i f s).pending = s.pending := rfl
@[simp] theorem modRing_freeCtr (p i : Nat) (f : Ring → Ring) : (modRing p i f s).freeCtr = s.freeCtr := rfl
@[simp] theorem modRing_lastRead (p i : Nat) (f : Ring → Ring) : (modRing p i f s).lastRead = s.lastRead := rfl
@[simp] theorem modRing_op (p i : Nat) (f : Ring → Ring) : (modRing p i f s).op = s.op := rfl
@[simp] theorem modRing_inDrive (p i : Nat) (f : Ring → Ring) : (modRing p i f s).inDrive = s.inDrive := rfl
@[simp] theorem modRing_reg (p i : Nat) (f : Ring → Ring) : (modRing p i f s).reg = s.reg := rfl
@[simp] theorem modRing_active (p i : Nat) (f : Ring → Ring) : (modRing p i f s).active = s.active := rfl
@[simp] theorem modRing_shadow (p i : Nat) (f : Ring → Ring) : (modRing p i f s).shadow = s.shadow := rfl
@[simp] theorem modRing_mem (p i : Nat) (f : Ring → Ring) : (modRing p i f s).mem = s.mem := rfl
@[simp] theorem modRing_realms (p i : Nat) (f : Ring → Ring) : (modRing p i f s).realms = s.realms := rfl
@[simp] theorem modRing_jobs (p i : Nat) (f : Ring → Ring) : (modRing p i f s).jobs = s.jobs := rfl
@[simp] theorem modRing_accCtr (p i : Nat) (f : Ring → Ring) : (modRing p i f s).accCtr = s.accCtr := rfl
@[simp] theorem modRing_lastServed (p i : Nat) (f : Ring → Ring) : (modRing p i f s).lastServed = s.lastServed := rfl
@[simp] theorem modRing_curtain (p i : Nat) (f : Ring → Ring) : (modRing p i f s).curtain = s.curtain := rfl
@[simp] theorem modRing_lastClass (p i : Nat) (f : Ring → Ring) : (modRing p i f s).lastClass = s.lastClass := rfl
@[simp] theorem modRing_mgrPort (p i : Nat) (f : Ring → Ring) : (modRing p i f s).mgrPort = s.mgrPort := rfl
@[simp] theorem modRing_tbUnits (p i : Nat) (f : Ring → Ring) : (modRing p i f s).tbUnits = s.tbUnits := rfl
@[simp] theorem modRing_ticks (p i : Nat) (f : Ring → Ring) : (modRing p i f s).ticks = s.ticks := rfl
@[simp] theorem modRing_refSys (p i : Nat) (f : Ring → Ring) : (modRing p i f s).refSys = s.refSys := rfl
@[simp] theorem modRing_dpx (p i : Nat) (f : Ring → Ring) : (modRing p i f s).dpx = s.dpx := rfl
@[simp] theorem modRing_engines (p i : Nat) (f : Ring → Ring) : (modRing p i f s).engines = s.engines := rfl
@[simp] theorem modRing_frame (p i : Nat) (f : Ring → Ring) : (modRing p i f s).frame = s.frame := rfl
@[simp] theorem modRing_isl (p i : Nat) (f : Ring → Ring) : (modRing p i f s).isl = s.isl := rfl
@[simp] theorem modRing_links (p i : Nat) (f : Ring → Ring) : (modRing p i f s).links = s.links := rfl
@[simp] theorem modRing_boot (p i : Nat) (f : Ring → Ring) : (modRing p i f s).boot = s.boot := rfl
@[simp] theorem modRing_lodging (p i : Nat) (f : Ring → Ring) : (modRing p i f s).lodging = s.lodging := rfl
@[simp] theorem modRing_attest (p i : Nat) (f : Ring → Ring) : (modRing p i f s).attest = s.attest := rfl
@[simp] theorem modRing_und (p i : Nat) (f : Ring → Ring) : (modRing p i f s).und = s.und := rfl
@[simp] theorem modRing_thm (p i : Nat) (f : Ring → Ring) : (modRing p i f s).thm = s.thm := rfl
@[simp] theorem modRing_time (p i : Nat) (f : Ring → Ring) : (modRing p i f s).time = s.time := rfl
@[simp] theorem modRing_ing (p i : Nat) (f : Ring → Ring) : (modRing p i f s).ing = s.ing := rfl
@[simp] theorem modRing_fus (p i : Nat) (f : Ring → Ring) : (modRing p i f s).fus = s.fus := rfl
@[simp] theorem modRing_kept (p i : Nat) (f : Ring → Ring) : (modRing p i f s).kept = s.kept := rfl
@[simp] theorem modRing_opLog (p i : Nat) (f : Ring → Ring) : (modRing p i f s).opLog = s.opLog := rfl
@[simp] theorem regGet_modRing (p i : Nat) (f : Ring → Ring) (j : Nat) : regGet (modRing p i f s) j = regGet s j := rfl
@[simp] theorem actGet_modRing (p i : Nat) (f : Ring → Ring) (j : Nat) : actGet (modRing p i f s) j = actGet s j := rfl
@[simp] theorem shGet_modRing (p i : Nat) (f : Ring → Ring) (j : Nat) : shGet (modRing p i f s) j = shGet s j := rfl
@[simp] theorem realmOf_modRing (p i : Nat) (f : Ring → Ring) (q : Nat) : realmOf (modRing p i f s) q = realmOf s q := rfl
@[simp] theorem engineOf_modRing (p i : Nat) (f : Ring → Ring) (q : Nat) : engineOf (modRing p i f s) q = engineOf s q := rfl
@[simp] theorem findJob_modRing (p i : Nat) (f : Ring → Ring) (n : Nat) : findJob (modRing p i f s) n = findJob s n := rfl
@[simp] theorem hostByte_modRing (p i : Nat) (f : Ring → Ring) (q n : Nat) : hostByte (modRing p i f s) q n = hostByte s q n := rfl

/-! modRealm -/

@[simp] theorem modRealm_pending (r : Nat) (f : Realm → Realm) : (modRealm r f s).pending = s.pending := rfl
@[simp] theorem modRealm_freeCtr (r : Nat) (f : Realm → Realm) : (modRealm r f s).freeCtr = s.freeCtr := rfl
@[simp] theorem modRealm_lastRead (r : Nat) (f : Realm → Realm) : (modRealm r f s).lastRead = s.lastRead := rfl
@[simp] theorem modRealm_op (r : Nat) (f : Realm → Realm) : (modRealm r f s).op = s.op := rfl
@[simp] theorem modRealm_inDrive (r : Nat) (f : Realm → Realm) : (modRealm r f s).inDrive = s.inDrive := rfl
@[simp] theorem modRealm_reg (r : Nat) (f : Realm → Realm) : (modRealm r f s).reg = s.reg := rfl
@[simp] theorem modRealm_active (r : Nat) (f : Realm → Realm) : (modRealm r f s).active = s.active := rfl
@[simp] theorem modRealm_shadow (r : Nat) (f : Realm → Realm) : (modRealm r f s).shadow = s.shadow := rfl
@[simp] theorem modRealm_mem (r : Nat) (f : Realm → Realm) : (modRealm r f s).mem = s.mem := rfl
@[simp] theorem modRealm_hosts (r : Nat) (f : Realm → Realm) : (modRealm r f s).hosts = s.hosts := rfl
@[simp] theorem modRealm_jobs (r : Nat) (f : Realm → Realm) : (modRealm r f s).jobs = s.jobs := rfl
@[simp] theorem modRealm_accCtr (r : Nat) (f : Realm → Realm) : (modRealm r f s).accCtr = s.accCtr := rfl
@[simp] theorem modRealm_lastServed (r : Nat) (f : Realm → Realm) : (modRealm r f s).lastServed = s.lastServed := rfl
@[simp] theorem modRealm_curtain (r : Nat) (f : Realm → Realm) : (modRealm r f s).curtain = s.curtain := rfl
@[simp] theorem modRealm_lastClass (r : Nat) (f : Realm → Realm) : (modRealm r f s).lastClass = s.lastClass := rfl
@[simp] theorem modRealm_mgrPort (r : Nat) (f : Realm → Realm) : (modRealm r f s).mgrPort = s.mgrPort := rfl
@[simp] theorem modRealm_tbUnits (r : Nat) (f : Realm → Realm) : (modRealm r f s).tbUnits = s.tbUnits := rfl
@[simp] theorem modRealm_ticks (r : Nat) (f : Realm → Realm) : (modRealm r f s).ticks = s.ticks := rfl
@[simp] theorem modRealm_refSys (r : Nat) (f : Realm → Realm) : (modRealm r f s).refSys = s.refSys := rfl
@[simp] theorem modRealm_dpx (r : Nat) (f : Realm → Realm) : (modRealm r f s).dpx = s.dpx := rfl
@[simp] theorem modRealm_engines (r : Nat) (f : Realm → Realm) : (modRealm r f s).engines = s.engines := rfl
@[simp] theorem modRealm_frame (r : Nat) (f : Realm → Realm) : (modRealm r f s).frame = s.frame := rfl
@[simp] theorem modRealm_isl (r : Nat) (f : Realm → Realm) : (modRealm r f s).isl = s.isl := rfl
@[simp] theorem modRealm_links (r : Nat) (f : Realm → Realm) : (modRealm r f s).links = s.links := rfl
@[simp] theorem modRealm_boot (r : Nat) (f : Realm → Realm) : (modRealm r f s).boot = s.boot := rfl
@[simp] theorem modRealm_lodging (r : Nat) (f : Realm → Realm) : (modRealm r f s).lodging = s.lodging := rfl
@[simp] theorem modRealm_attest (r : Nat) (f : Realm → Realm) : (modRealm r f s).attest = s.attest := rfl
@[simp] theorem modRealm_und (r : Nat) (f : Realm → Realm) : (modRealm r f s).und = s.und := rfl
@[simp] theorem modRealm_thm (r : Nat) (f : Realm → Realm) : (modRealm r f s).thm = s.thm := rfl
@[simp] theorem modRealm_time (r : Nat) (f : Realm → Realm) : (modRealm r f s).time = s.time := rfl
@[simp] theorem modRealm_ing (r : Nat) (f : Realm → Realm) : (modRealm r f s).ing = s.ing := rfl
@[simp] theorem modRealm_fus (r : Nat) (f : Realm → Realm) : (modRealm r f s).fus = s.fus := rfl
@[simp] theorem modRealm_kept (r : Nat) (f : Realm → Realm) : (modRealm r f s).kept = s.kept := rfl
@[simp] theorem modRealm_opLog (r : Nat) (f : Realm → Realm) : (modRealm r f s).opLog = s.opLog := rfl
@[simp] theorem regGet_modRealm (r : Nat) (f : Realm → Realm) (j : Nat) : regGet (modRealm r f s) j = regGet s j := rfl
@[simp] theorem actGet_modRealm (r : Nat) (f : Realm → Realm) (j : Nat) : actGet (modRealm r f s) j = actGet s j := rfl
@[simp] theorem shGet_modRealm (r : Nat) (f : Realm → Realm) (j : Nat) : shGet (modRealm r f s) j = shGet s j := rfl
@[simp] theorem portOf_modRealm (r : Nat) (f : Realm → Realm) (q : Nat) : portOf (modRealm r f s) q = portOf s q := rfl
@[simp] theorem ringOf_modRealm (r : Nat) (f : Realm → Realm) (q n : Nat) : ringOf (modRealm r f s) q n = ringOf s q n := rfl
@[simp] theorem engineOf_modRealm (r : Nat) (f : Realm → Realm) (q : Nat) : engineOf (modRealm r f s) q = engineOf s q := rfl
@[simp] theorem findJob_modRealm (r : Nat) (f : Realm → Realm) (n : Nat) : findJob (modRealm r f s) n = findJob s n := rfl
@[simp] theorem hostByte_modRealm (r : Nat) (f : Realm → Realm) (q n : Nat) : hostByte (modRealm r f s) q n = hostByte s q n := rfl

/-! modMem -/

@[simp] theorem modMem_pending (f : Memory → Memory) : (modMem f s).pending = s.pending := rfl
@[simp] theorem modMem_freeCtr (f : Memory → Memory) : (modMem f s).freeCtr = s.freeCtr := rfl
@[simp] theorem modMem_lastRead (f : Memory → Memory) : (modMem f s).lastRead = s.lastRead := rfl
@[simp] theorem modMem_op (f : Memory → Memory) : (modMem f s).op = s.op := rfl
@[simp] theorem modMem_inDrive (f : Memory → Memory) : (modMem f s).inDrive = s.inDrive := rfl
@[simp] theorem modMem_reg (f : Memory → Memory) : (modMem f s).reg = s.reg := rfl
@[simp] theorem modMem_active (f : Memory → Memory) : (modMem f s).active = s.active := rfl
@[simp] theorem modMem_shadow (f : Memory → Memory) : (modMem f s).shadow = s.shadow := rfl
@[simp] theorem modMem_realms (f : Memory → Memory) : (modMem f s).realms = s.realms := rfl
@[simp] theorem modMem_hosts (f : Memory → Memory) : (modMem f s).hosts = s.hosts := rfl
@[simp] theorem modMem_jobs (f : Memory → Memory) : (modMem f s).jobs = s.jobs := rfl
@[simp] theorem modMem_accCtr (f : Memory → Memory) : (modMem f s).accCtr = s.accCtr := rfl
@[simp] theorem modMem_lastServed (f : Memory → Memory) : (modMem f s).lastServed = s.lastServed := rfl
@[simp] theorem modMem_curtain (f : Memory → Memory) : (modMem f s).curtain = s.curtain := rfl
@[simp] theorem modMem_lastClass (f : Memory → Memory) : (modMem f s).lastClass = s.lastClass := rfl
@[simp] theorem modMem_mgrPort (f : Memory → Memory) : (modMem f s).mgrPort = s.mgrPort := rfl
@[simp] theorem modMem_tbUnits (f : Memory → Memory) : (modMem f s).tbUnits = s.tbUnits := rfl
@[simp] theorem modMem_ticks (f : Memory → Memory) : (modMem f s).ticks = s.ticks := rfl
@[simp] theorem modMem_refSys (f : Memory → Memory) : (modMem f s).refSys = s.refSys := rfl
@[simp] theorem modMem_dpx (f : Memory → Memory) : (modMem f s).dpx = s.dpx := rfl
@[simp] theorem modMem_engines (f : Memory → Memory) : (modMem f s).engines = s.engines := rfl
@[simp] theorem modMem_frame (f : Memory → Memory) : (modMem f s).frame = s.frame := rfl
@[simp] theorem modMem_isl (f : Memory → Memory) : (modMem f s).isl = s.isl := rfl
@[simp] theorem modMem_links (f : Memory → Memory) : (modMem f s).links = s.links := rfl
@[simp] theorem modMem_boot (f : Memory → Memory) : (modMem f s).boot = s.boot := rfl
@[simp] theorem modMem_lodging (f : Memory → Memory) : (modMem f s).lodging = s.lodging := rfl
@[simp] theorem modMem_attest (f : Memory → Memory) : (modMem f s).attest = s.attest := rfl
@[simp] theorem modMem_und (f : Memory → Memory) : (modMem f s).und = s.und := rfl
@[simp] theorem modMem_thm (f : Memory → Memory) : (modMem f s).thm = s.thm := rfl
@[simp] theorem modMem_time (f : Memory → Memory) : (modMem f s).time = s.time := rfl
@[simp] theorem modMem_ing (f : Memory → Memory) : (modMem f s).ing = s.ing := rfl
@[simp] theorem modMem_fus (f : Memory → Memory) : (modMem f s).fus = s.fus := rfl
@[simp] theorem modMem_kept (f : Memory → Memory) : (modMem f s).kept = s.kept := rfl
@[simp] theorem modMem_opLog (f : Memory → Memory) : (modMem f s).opLog = s.opLog := rfl
@[simp] theorem regGet_modMem (f : Memory → Memory) (j : Nat) : regGet (modMem f s) j = regGet s j := rfl
@[simp] theorem actGet_modMem (f : Memory → Memory) (j : Nat) : actGet (modMem f s) j = actGet s j := rfl
@[simp] theorem shGet_modMem (f : Memory → Memory) (j : Nat) : shGet (modMem f s) j = shGet s j := rfl
@[simp] theorem portOf_modMem (f : Memory → Memory) (q : Nat) : portOf (modMem f s) q = portOf s q := rfl
@[simp] theorem ringOf_modMem (f : Memory → Memory) (q n : Nat) : ringOf (modMem f s) q n = ringOf s q n := rfl
@[simp] theorem realmOf_modMem (f : Memory → Memory) (q : Nat) : realmOf (modMem f s) q = realmOf s q := rfl
@[simp] theorem engineOf_modMem (f : Memory → Memory) (q : Nat) : engineOf (modMem f s) q = engineOf s q := rfl
@[simp] theorem findJob_modMem (f : Memory → Memory) (n : Nat) : findJob (modMem f s) n = findJob s n := rfl

/-! modJob -/

@[simp] theorem modJob_pending (a : Nat) (f : Job → Job) : (modJob a f s).pending = s.pending := rfl
@[simp] theorem modJob_freeCtr (a : Nat) (f : Job → Job) : (modJob a f s).freeCtr = s.freeCtr := rfl
@[simp] theorem modJob_lastRead (a : Nat) (f : Job → Job) : (modJob a f s).lastRead = s.lastRead := rfl
@[simp] theorem modJob_op (a : Nat) (f : Job → Job) : (modJob a f s).op = s.op := rfl
@[simp] theorem modJob_inDrive (a : Nat) (f : Job → Job) : (modJob a f s).inDrive = s.inDrive := rfl
@[simp] theorem modJob_reg (a : Nat) (f : Job → Job) : (modJob a f s).reg = s.reg := rfl
@[simp] theorem modJob_active (a : Nat) (f : Job → Job) : (modJob a f s).active = s.active := rfl
@[simp] theorem modJob_shadow (a : Nat) (f : Job → Job) : (modJob a f s).shadow = s.shadow := rfl
@[simp] theorem modJob_mem (a : Nat) (f : Job → Job) : (modJob a f s).mem = s.mem := rfl
@[simp] theorem modJob_realms (a : Nat) (f : Job → Job) : (modJob a f s).realms = s.realms := rfl
@[simp] theorem modJob_hosts (a : Nat) (f : Job → Job) : (modJob a f s).hosts = s.hosts := rfl
@[simp] theorem modJob_accCtr (a : Nat) (f : Job → Job) : (modJob a f s).accCtr = s.accCtr := rfl
@[simp] theorem modJob_lastServed (a : Nat) (f : Job → Job) : (modJob a f s).lastServed = s.lastServed := rfl
@[simp] theorem modJob_curtain (a : Nat) (f : Job → Job) : (modJob a f s).curtain = s.curtain := rfl
@[simp] theorem modJob_lastClass (a : Nat) (f : Job → Job) : (modJob a f s).lastClass = s.lastClass := rfl
@[simp] theorem modJob_mgrPort (a : Nat) (f : Job → Job) : (modJob a f s).mgrPort = s.mgrPort := rfl
@[simp] theorem modJob_tbUnits (a : Nat) (f : Job → Job) : (modJob a f s).tbUnits = s.tbUnits := rfl
@[simp] theorem modJob_ticks (a : Nat) (f : Job → Job) : (modJob a f s).ticks = s.ticks := rfl
@[simp] theorem modJob_refSys (a : Nat) (f : Job → Job) : (modJob a f s).refSys = s.refSys := rfl
@[simp] theorem modJob_dpx (a : Nat) (f : Job → Job) : (modJob a f s).dpx = s.dpx := rfl
@[simp] theorem modJob_engines (a : Nat) (f : Job → Job) : (modJob a f s).engines = s.engines := rfl
@[simp] theorem modJob_frame (a : Nat) (f : Job → Job) : (modJob a f s).frame = s.frame := rfl
@[simp] theorem modJob_isl (a : Nat) (f : Job → Job) : (modJob a f s).isl = s.isl := rfl
@[simp] theorem modJob_links (a : Nat) (f : Job → Job) : (modJob a f s).links = s.links := rfl
@[simp] theorem modJob_boot (a : Nat) (f : Job → Job) : (modJob a f s).boot = s.boot := rfl
@[simp] theorem modJob_lodging (a : Nat) (f : Job → Job) : (modJob a f s).lodging = s.lodging := rfl
@[simp] theorem modJob_attest (a : Nat) (f : Job → Job) : (modJob a f s).attest = s.attest := rfl
@[simp] theorem modJob_und (a : Nat) (f : Job → Job) : (modJob a f s).und = s.und := rfl
@[simp] theorem modJob_thm (a : Nat) (f : Job → Job) : (modJob a f s).thm = s.thm := rfl
@[simp] theorem modJob_time (a : Nat) (f : Job → Job) : (modJob a f s).time = s.time := rfl
@[simp] theorem modJob_ing (a : Nat) (f : Job → Job) : (modJob a f s).ing = s.ing := rfl
@[simp] theorem modJob_fus (a : Nat) (f : Job → Job) : (modJob a f s).fus = s.fus := rfl
@[simp] theorem modJob_kept (a : Nat) (f : Job → Job) : (modJob a f s).kept = s.kept := rfl
@[simp] theorem modJob_opLog (a : Nat) (f : Job → Job) : (modJob a f s).opLog = s.opLog := rfl
@[simp] theorem regGet_modJob (a : Nat) (f : Job → Job) (j : Nat) : regGet (modJob a f s) j = regGet s j := rfl
@[simp] theorem actGet_modJob (a : Nat) (f : Job → Job) (j : Nat) : actGet (modJob a f s) j = actGet s j := rfl
@[simp] theorem shGet_modJob (a : Nat) (f : Job → Job) (j : Nat) : shGet (modJob a f s) j = shGet s j := rfl
@[simp] theorem portOf_modJob (a : Nat) (f : Job → Job) (q : Nat) : portOf (modJob a f s) q = portOf s q := rfl
@[simp] theorem ringOf_modJob (a : Nat) (f : Job → Job) (q n : Nat) : ringOf (modJob a f s) q n = ringOf s q n := rfl
@[simp] theorem realmOf_modJob (a : Nat) (f : Job → Job) (q : Nat) : realmOf (modJob a f s) q = realmOf s q := rfl
@[simp] theorem engineOf_modJob (a : Nat) (f : Job → Job) (q : Nat) : engineOf (modJob a f s) q = engineOf s q := rfl
@[simp] theorem hostByte_modJob (a : Nat) (f : Job → Job) (q n : Nat) : hostByte (modJob a f s) q n = hostByte s q n := rfl

/-! setOp -/

@[simp] theorem setOp_pending (o : OpState) : (setOp o s).pending = s.pending := rfl
@[simp] theorem setOp_freeCtr (o : OpState) : (setOp o s).freeCtr = s.freeCtr := rfl
@[simp] theorem setOp_lastRead (o : OpState) : (setOp o s).lastRead = s.lastRead := rfl
@[simp] theorem setOp_inDrive (o : OpState) : (setOp o s).inDrive = s.inDrive := rfl
@[simp] theorem setOp_reg (o : OpState) : (setOp o s).reg = s.reg := rfl
@[simp] theorem setOp_active (o : OpState) : (setOp o s).active = s.active := rfl
@[simp] theorem setOp_shadow (o : OpState) : (setOp o s).shadow = s.shadow := rfl
@[simp] theorem setOp_mem (o : OpState) : (setOp o s).mem = s.mem := rfl
@[simp] theorem setOp_realms (o : OpState) : (setOp o s).realms = s.realms := rfl
@[simp] theorem setOp_hosts (o : OpState) : (setOp o s).hosts = s.hosts := rfl
@[simp] theorem setOp_jobs (o : OpState) : (setOp o s).jobs = s.jobs := rfl
@[simp] theorem setOp_accCtr (o : OpState) : (setOp o s).accCtr = s.accCtr := rfl
@[simp] theorem setOp_lastServed (o : OpState) : (setOp o s).lastServed = s.lastServed := rfl
@[simp] theorem setOp_curtain (o : OpState) : (setOp o s).curtain = s.curtain := rfl
@[simp] theorem setOp_lastClass (o : OpState) : (setOp o s).lastClass = s.lastClass := rfl
@[simp] theorem setOp_mgrPort (o : OpState) : (setOp o s).mgrPort = s.mgrPort := rfl
@[simp] theorem setOp_tbUnits (o : OpState) : (setOp o s).tbUnits = s.tbUnits := rfl
@[simp] theorem setOp_ticks (o : OpState) : (setOp o s).ticks = s.ticks := rfl
@[simp] theorem setOp_refSys (o : OpState) : (setOp o s).refSys = s.refSys := rfl
@[simp] theorem setOp_dpx (o : OpState) : (setOp o s).dpx = s.dpx := rfl
@[simp] theorem setOp_engines (o : OpState) : (setOp o s).engines = s.engines := rfl
@[simp] theorem setOp_frame (o : OpState) : (setOp o s).frame = s.frame := rfl
@[simp] theorem setOp_isl (o : OpState) : (setOp o s).isl = s.isl := rfl
@[simp] theorem setOp_links (o : OpState) : (setOp o s).links = s.links := rfl
@[simp] theorem setOp_boot (o : OpState) : (setOp o s).boot = s.boot := rfl
@[simp] theorem setOp_lodging (o : OpState) : (setOp o s).lodging = s.lodging := rfl
@[simp] theorem setOp_attest (o : OpState) : (setOp o s).attest = s.attest := rfl
@[simp] theorem setOp_und (o : OpState) : (setOp o s).und = s.und := rfl
@[simp] theorem setOp_thm (o : OpState) : (setOp o s).thm = s.thm := rfl
@[simp] theorem setOp_time (o : OpState) : (setOp o s).time = s.time := rfl
@[simp] theorem setOp_ing (o : OpState) : (setOp o s).ing = s.ing := rfl
@[simp] theorem setOp_fus (o : OpState) : (setOp o s).fus = s.fus := rfl
@[simp] theorem setOp_kept (o : OpState) : (setOp o s).kept = s.kept := rfl
@[simp] theorem regGet_setOp (o : OpState) (j : Nat) : regGet (setOp o s) j = regGet s j := rfl
@[simp] theorem actGet_setOp (o : OpState) (j : Nat) : actGet (setOp o s) j = actGet s j := rfl
@[simp] theorem shGet_setOp (o : OpState) (j : Nat) : shGet (setOp o s) j = shGet s j := rfl
@[simp] theorem portOf_setOp (o : OpState) (q : Nat) : portOf (setOp o s) q = portOf s q := rfl
@[simp] theorem ringOf_setOp (o : OpState) (q n : Nat) : ringOf (setOp o s) q n = ringOf s q n := rfl
@[simp] theorem realmOf_setOp (o : OpState) (q : Nat) : realmOf (setOp o s) q = realmOf s q := rfl
@[simp] theorem engineOf_setOp (o : OpState) (q : Nat) : engineOf (setOp o s) q = engineOf s q := rfl
@[simp] theorem findJob_setOp (o : OpState) (n : Nat) : findJob (setOp o s) n = findJob s n := rfl
@[simp] theorem hostByte_setOp (o : OpState) (q n : Nat) : hostByte (setOp o s) q n = hostByte s q n := rfl

/-! modEngine -/

@[simp] theorem modEngine_pending (d : Nat) (f : Engine → Engine) : (modEngine d f s).pending = s.pending := rfl
@[simp] theorem modEngine_freeCtr (d : Nat) (f : Engine → Engine) : (modEngine d f s).freeCtr = s.freeCtr := rfl
@[simp] theorem modEngine_lastRead (d : Nat) (f : Engine → Engine) : (modEngine d f s).lastRead = s.lastRead := rfl
@[simp] theorem modEngine_op (d : Nat) (f : Engine → Engine) : (modEngine d f s).op = s.op := rfl
@[simp] theorem modEngine_inDrive (d : Nat) (f : Engine → Engine) : (modEngine d f s).inDrive = s.inDrive := rfl
@[simp] theorem modEngine_reg (d : Nat) (f : Engine → Engine) : (modEngine d f s).reg = s.reg := rfl
@[simp] theorem modEngine_active (d : Nat) (f : Engine → Engine) : (modEngine d f s).active = s.active := rfl
@[simp] theorem modEngine_shadow (d : Nat) (f : Engine → Engine) : (modEngine d f s).shadow = s.shadow := rfl
@[simp] theorem modEngine_mem (d : Nat) (f : Engine → Engine) : (modEngine d f s).mem = s.mem := rfl
@[simp] theorem modEngine_realms (d : Nat) (f : Engine → Engine) : (modEngine d f s).realms = s.realms := rfl
@[simp] theorem modEngine_hosts (d : Nat) (f : Engine → Engine) : (modEngine d f s).hosts = s.hosts := rfl
@[simp] theorem modEngine_jobs (d : Nat) (f : Engine → Engine) : (modEngine d f s).jobs = s.jobs := rfl
@[simp] theorem modEngine_accCtr (d : Nat) (f : Engine → Engine) : (modEngine d f s).accCtr = s.accCtr := rfl
@[simp] theorem modEngine_lastServed (d : Nat) (f : Engine → Engine) : (modEngine d f s).lastServed = s.lastServed := rfl
@[simp] theorem modEngine_curtain (d : Nat) (f : Engine → Engine) : (modEngine d f s).curtain = s.curtain := rfl
@[simp] theorem modEngine_lastClass (d : Nat) (f : Engine → Engine) : (modEngine d f s).lastClass = s.lastClass := rfl
@[simp] theorem modEngine_mgrPort (d : Nat) (f : Engine → Engine) : (modEngine d f s).mgrPort = s.mgrPort := rfl
@[simp] theorem modEngine_tbUnits (d : Nat) (f : Engine → Engine) : (modEngine d f s).tbUnits = s.tbUnits := rfl
@[simp] theorem modEngine_ticks (d : Nat) (f : Engine → Engine) : (modEngine d f s).ticks = s.ticks := rfl
@[simp] theorem modEngine_refSys (d : Nat) (f : Engine → Engine) : (modEngine d f s).refSys = s.refSys := rfl
@[simp] theorem modEngine_dpx (d : Nat) (f : Engine → Engine) : (modEngine d f s).dpx = s.dpx := rfl
@[simp] theorem modEngine_frame (d : Nat) (f : Engine → Engine) : (modEngine d f s).frame = s.frame := rfl
@[simp] theorem modEngine_isl (d : Nat) (f : Engine → Engine) : (modEngine d f s).isl = s.isl := rfl
@[simp] theorem modEngine_links (d : Nat) (f : Engine → Engine) : (modEngine d f s).links = s.links := rfl
@[simp] theorem modEngine_boot (d : Nat) (f : Engine → Engine) : (modEngine d f s).boot = s.boot := rfl
@[simp] theorem modEngine_lodging (d : Nat) (f : Engine → Engine) : (modEngine d f s).lodging = s.lodging := rfl
@[simp] theorem modEngine_attest (d : Nat) (f : Engine → Engine) : (modEngine d f s).attest = s.attest := rfl
@[simp] theorem modEngine_und (d : Nat) (f : Engine → Engine) : (modEngine d f s).und = s.und := rfl
@[simp] theorem modEngine_thm (d : Nat) (f : Engine → Engine) : (modEngine d f s).thm = s.thm := rfl
@[simp] theorem modEngine_time (d : Nat) (f : Engine → Engine) : (modEngine d f s).time = s.time := rfl
@[simp] theorem modEngine_ing (d : Nat) (f : Engine → Engine) : (modEngine d f s).ing = s.ing := rfl
@[simp] theorem modEngine_fus (d : Nat) (f : Engine → Engine) : (modEngine d f s).fus = s.fus := rfl
@[simp] theorem modEngine_kept (d : Nat) (f : Engine → Engine) : (modEngine d f s).kept = s.kept := rfl
@[simp] theorem modEngine_opLog (d : Nat) (f : Engine → Engine) : (modEngine d f s).opLog = s.opLog := rfl
@[simp] theorem regGet_modEngine (d : Nat) (f : Engine → Engine) (j : Nat) : regGet (modEngine d f s) j = regGet s j := rfl
@[simp] theorem actGet_modEngine (d : Nat) (f : Engine → Engine) (j : Nat) : actGet (modEngine d f s) j = actGet s j := rfl
@[simp] theorem shGet_modEngine (d : Nat) (f : Engine → Engine) (j : Nat) : shGet (modEngine d f s) j = shGet s j := rfl
@[simp] theorem portOf_modEngine (d : Nat) (f : Engine → Engine) (q : Nat) : portOf (modEngine d f s) q = portOf s q := rfl
@[simp] theorem ringOf_modEngine (d : Nat) (f : Engine → Engine) (q n : Nat) : ringOf (modEngine d f s) q n = ringOf s q n := rfl
@[simp] theorem realmOf_modEngine (d : Nat) (f : Engine → Engine) (q : Nat) : realmOf (modEngine d f s) q = realmOf s q := rfl
@[simp] theorem findJob_modEngine (d : Nat) (f : Engine → Engine) (n : Nat) : findJob (modEngine d f s) n = findJob s n := rfl
@[simp] theorem hostByte_modEngine (d : Nat) (f : Engine → Engine) (q n : Nat) : hostByte (modEngine d f s) q n = hostByte s q n := rfl

/-! modIsl -/

@[simp] theorem modIsl_pending (i : Isl) (f : Island → Island) : (modIsl i f s).pending = s.pending := by cases i <;> rfl
@[simp] theorem modIsl_freeCtr (i : Isl) (f : Island → Island) : (modIsl i f s).freeCtr = s.freeCtr := by cases i <;> rfl
@[simp] theorem modIsl_lastRead (i : Isl) (f : Island → Island) : (modIsl i f s).lastRead = s.lastRead := by cases i <;> rfl
@[simp] theorem modIsl_op (i : Isl) (f : Island → Island) : (modIsl i f s).op = s.op := by cases i <;> rfl
@[simp] theorem modIsl_inDrive (i : Isl) (f : Island → Island) : (modIsl i f s).inDrive = s.inDrive := by cases i <;> rfl
@[simp] theorem modIsl_reg (i : Isl) (f : Island → Island) : (modIsl i f s).reg = s.reg := by cases i <;> rfl
@[simp] theorem modIsl_active (i : Isl) (f : Island → Island) : (modIsl i f s).active = s.active := by cases i <;> rfl
@[simp] theorem modIsl_shadow (i : Isl) (f : Island → Island) : (modIsl i f s).shadow = s.shadow := by cases i <;> rfl
@[simp] theorem modIsl_mem (i : Isl) (f : Island → Island) : (modIsl i f s).mem = s.mem := by cases i <;> rfl
@[simp] theorem modIsl_realms (i : Isl) (f : Island → Island) : (modIsl i f s).realms = s.realms := by cases i <;> rfl
@[simp] theorem modIsl_hosts (i : Isl) (f : Island → Island) : (modIsl i f s).hosts = s.hosts := by cases i <;> rfl
@[simp] theorem modIsl_jobs (i : Isl) (f : Island → Island) : (modIsl i f s).jobs = s.jobs := by cases i <;> rfl
@[simp] theorem modIsl_accCtr (i : Isl) (f : Island → Island) : (modIsl i f s).accCtr = s.accCtr := by cases i <;> rfl
@[simp] theorem modIsl_lastServed (i : Isl) (f : Island → Island) : (modIsl i f s).lastServed = s.lastServed := by cases i <;> rfl
@[simp] theorem modIsl_curtain (i : Isl) (f : Island → Island) : (modIsl i f s).curtain = s.curtain := by cases i <;> rfl
@[simp] theorem modIsl_lastClass (i : Isl) (f : Island → Island) : (modIsl i f s).lastClass = s.lastClass := by cases i <;> rfl
@[simp] theorem modIsl_mgrPort (i : Isl) (f : Island → Island) : (modIsl i f s).mgrPort = s.mgrPort := by cases i <;> rfl
@[simp] theorem modIsl_tbUnits (i : Isl) (f : Island → Island) : (modIsl i f s).tbUnits = s.tbUnits := by cases i <;> rfl
@[simp] theorem modIsl_ticks (i : Isl) (f : Island → Island) : (modIsl i f s).ticks = s.ticks := by cases i <;> rfl
@[simp] theorem modIsl_refSys (i : Isl) (f : Island → Island) : (modIsl i f s).refSys = s.refSys := by cases i <;> rfl
@[simp] theorem modIsl_dpx (i : Isl) (f : Island → Island) : (modIsl i f s).dpx = s.dpx := by cases i <;> rfl
@[simp] theorem modIsl_engines (i : Isl) (f : Island → Island) : (modIsl i f s).engines = s.engines := by cases i <;> rfl
@[simp] theorem modIsl_frame (i : Isl) (f : Island → Island) : (modIsl i f s).frame = s.frame := by cases i <;> rfl
@[simp] theorem modIsl_links (i : Isl) (f : Island → Island) : (modIsl i f s).links = s.links := by cases i <;> rfl
@[simp] theorem modIsl_boot (i : Isl) (f : Island → Island) : (modIsl i f s).boot = s.boot := by cases i <;> rfl
@[simp] theorem modIsl_lodging (i : Isl) (f : Island → Island) : (modIsl i f s).lodging = s.lodging := by cases i <;> rfl
@[simp] theorem modIsl_attest (i : Isl) (f : Island → Island) : (modIsl i f s).attest = s.attest := by cases i <;> rfl
@[simp] theorem modIsl_und (i : Isl) (f : Island → Island) : (modIsl i f s).und = s.und := by cases i <;> rfl
@[simp] theorem modIsl_thm (i : Isl) (f : Island → Island) : (modIsl i f s).thm = s.thm := by cases i <;> rfl
@[simp] theorem modIsl_time (i : Isl) (f : Island → Island) : (modIsl i f s).time = s.time := by cases i <;> rfl
@[simp] theorem modIsl_ing (i : Isl) (f : Island → Island) : (modIsl i f s).ing = s.ing := by cases i <;> rfl
@[simp] theorem modIsl_fus (i : Isl) (f : Island → Island) : (modIsl i f s).fus = s.fus := by cases i <;> rfl
@[simp] theorem modIsl_kept (i : Isl) (f : Island → Island) : (modIsl i f s).kept = s.kept := by cases i <;> rfl
@[simp] theorem modIsl_opLog (i : Isl) (f : Island → Island) : (modIsl i f s).opLog = s.opLog := by cases i <;> rfl
@[simp] theorem regGet_modIsl (i : Isl) (f : Island → Island) (j : Nat) : regGet (modIsl i f s) j = regGet s j := by cases i <;> rfl
@[simp] theorem actGet_modIsl (i : Isl) (f : Island → Island) (j : Nat) : actGet (modIsl i f s) j = actGet s j := by cases i <;> rfl
@[simp] theorem shGet_modIsl (i : Isl) (f : Island → Island) (j : Nat) : shGet (modIsl i f s) j = shGet s j := by cases i <;> rfl
@[simp] theorem portOf_modIsl (i : Isl) (f : Island → Island) (q : Nat) : portOf (modIsl i f s) q = portOf s q := by cases i <;> rfl
@[simp] theorem ringOf_modIsl (i : Isl) (f : Island → Island) (q n : Nat) : ringOf (modIsl i f s) q n = ringOf s q n := by cases i <;> rfl
@[simp] theorem realmOf_modIsl (i : Isl) (f : Island → Island) (q : Nat) : realmOf (modIsl i f s) q = realmOf s q := by cases i <;> rfl
@[simp] theorem engineOf_modIsl (i : Isl) (f : Island → Island) (q : Nat) : engineOf (modIsl i f s) q = engineOf s q := by cases i <;> rfl
@[simp] theorem findJob_modIsl (i : Isl) (f : Island → Island) (n : Nat) : findJob (modIsl i f s) n = findJob s n := by cases i <;> rfl
@[simp] theorem hostByte_modIsl (i : Isl) (f : Island → Island) (q n : Nat) : hostByte (modIsl i f s) q n = hostByte s q n := by cases i <;> rfl

/-! modLink -/

@[simp] theorem modLink_pending (l : Nat) (f : Link → Link) : (modLink l f s).pending = s.pending := rfl
@[simp] theorem modLink_freeCtr (l : Nat) (f : Link → Link) : (modLink l f s).freeCtr = s.freeCtr := rfl
@[simp] theorem modLink_lastRead (l : Nat) (f : Link → Link) : (modLink l f s).lastRead = s.lastRead := rfl
@[simp] theorem modLink_op (l : Nat) (f : Link → Link) : (modLink l f s).op = s.op := rfl
@[simp] theorem modLink_inDrive (l : Nat) (f : Link → Link) : (modLink l f s).inDrive = s.inDrive := rfl
@[simp] theorem modLink_reg (l : Nat) (f : Link → Link) : (modLink l f s).reg = s.reg := rfl
@[simp] theorem modLink_active (l : Nat) (f : Link → Link) : (modLink l f s).active = s.active := rfl
@[simp] theorem modLink_shadow (l : Nat) (f : Link → Link) : (modLink l f s).shadow = s.shadow := rfl
@[simp] theorem modLink_mem (l : Nat) (f : Link → Link) : (modLink l f s).mem = s.mem := rfl
@[simp] theorem modLink_realms (l : Nat) (f : Link → Link) : (modLink l f s).realms = s.realms := rfl
@[simp] theorem modLink_hosts (l : Nat) (f : Link → Link) : (modLink l f s).hosts = s.hosts := rfl
@[simp] theorem modLink_jobs (l : Nat) (f : Link → Link) : (modLink l f s).jobs = s.jobs := rfl
@[simp] theorem modLink_accCtr (l : Nat) (f : Link → Link) : (modLink l f s).accCtr = s.accCtr := rfl
@[simp] theorem modLink_lastServed (l : Nat) (f : Link → Link) : (modLink l f s).lastServed = s.lastServed := rfl
@[simp] theorem modLink_curtain (l : Nat) (f : Link → Link) : (modLink l f s).curtain = s.curtain := rfl
@[simp] theorem modLink_lastClass (l : Nat) (f : Link → Link) : (modLink l f s).lastClass = s.lastClass := rfl
@[simp] theorem modLink_mgrPort (l : Nat) (f : Link → Link) : (modLink l f s).mgrPort = s.mgrPort := rfl
@[simp] theorem modLink_tbUnits (l : Nat) (f : Link → Link) : (modLink l f s).tbUnits = s.tbUnits := rfl
@[simp] theorem modLink_ticks (l : Nat) (f : Link → Link) : (modLink l f s).ticks = s.ticks := rfl
@[simp] theorem modLink_refSys (l : Nat) (f : Link → Link) : (modLink l f s).refSys = s.refSys := rfl
@[simp] theorem modLink_dpx (l : Nat) (f : Link → Link) : (modLink l f s).dpx = s.dpx := rfl
@[simp] theorem modLink_engines (l : Nat) (f : Link → Link) : (modLink l f s).engines = s.engines := rfl
@[simp] theorem modLink_frame (l : Nat) (f : Link → Link) : (modLink l f s).frame = s.frame := rfl
@[simp] theorem modLink_isl (l : Nat) (f : Link → Link) : (modLink l f s).isl = s.isl := rfl
@[simp] theorem modLink_boot (l : Nat) (f : Link → Link) : (modLink l f s).boot = s.boot := rfl
@[simp] theorem modLink_lodging (l : Nat) (f : Link → Link) : (modLink l f s).lodging = s.lodging := rfl
@[simp] theorem modLink_attest (l : Nat) (f : Link → Link) : (modLink l f s).attest = s.attest := rfl
@[simp] theorem modLink_und (l : Nat) (f : Link → Link) : (modLink l f s).und = s.und := rfl
@[simp] theorem modLink_thm (l : Nat) (f : Link → Link) : (modLink l f s).thm = s.thm := rfl
@[simp] theorem modLink_time (l : Nat) (f : Link → Link) : (modLink l f s).time = s.time := rfl
@[simp] theorem modLink_ing (l : Nat) (f : Link → Link) : (modLink l f s).ing = s.ing := rfl
@[simp] theorem modLink_fus (l : Nat) (f : Link → Link) : (modLink l f s).fus = s.fus := rfl
@[simp] theorem modLink_kept (l : Nat) (f : Link → Link) : (modLink l f s).kept = s.kept := rfl
@[simp] theorem modLink_opLog (l : Nat) (f : Link → Link) : (modLink l f s).opLog = s.opLog := rfl
@[simp] theorem regGet_modLink (l : Nat) (f : Link → Link) (j : Nat) : regGet (modLink l f s) j = regGet s j := rfl
@[simp] theorem actGet_modLink (l : Nat) (f : Link → Link) (j : Nat) : actGet (modLink l f s) j = actGet s j := rfl
@[simp] theorem shGet_modLink (l : Nat) (f : Link → Link) (j : Nat) : shGet (modLink l f s) j = shGet s j := rfl
@[simp] theorem portOf_modLink (l : Nat) (f : Link → Link) (q : Nat) : portOf (modLink l f s) q = portOf s q := rfl
@[simp] theorem ringOf_modLink (l : Nat) (f : Link → Link) (q n : Nat) : ringOf (modLink l f s) q n = ringOf s q n := rfl
@[simp] theorem realmOf_modLink (l : Nat) (f : Link → Link) (q : Nat) : realmOf (modLink l f s) q = realmOf s q := rfl
@[simp] theorem engineOf_modLink (l : Nat) (f : Link → Link) (q : Nat) : engineOf (modLink l f s) q = engineOf s q := rfl
@[simp] theorem findJob_modLink (l : Nat) (f : Link → Link) (n : Nat) : findJob (modLink l f s) n = findJob s n := rfl
@[simp] theorem hostByte_modLink (l : Nat) (f : Link → Link) (q n : Nat) : hostByte (modLink l f s) q n = hostByte s q n := rfl

/-! modTherm -/

@[simp] theorem modTherm_pending (d : Nat) (f : DieTherm → DieTherm) : (modTherm d f s).pending = s.pending := rfl
@[simp] theorem modTherm_freeCtr (d : Nat) (f : DieTherm → DieTherm) : (modTherm d f s).freeCtr = s.freeCtr := rfl
@[simp] theorem modTherm_lastRead (d : Nat) (f : DieTherm → DieTherm) : (modTherm d f s).lastRead = s.lastRead := rfl
@[simp] theorem modTherm_op (d : Nat) (f : DieTherm → DieTherm) : (modTherm d f s).op = s.op := rfl
@[simp] theorem modTherm_inDrive (d : Nat) (f : DieTherm → DieTherm) : (modTherm d f s).inDrive = s.inDrive := rfl
@[simp] theorem modTherm_reg (d : Nat) (f : DieTherm → DieTherm) : (modTherm d f s).reg = s.reg := rfl
@[simp] theorem modTherm_active (d : Nat) (f : DieTherm → DieTherm) : (modTherm d f s).active = s.active := rfl
@[simp] theorem modTherm_shadow (d : Nat) (f : DieTherm → DieTherm) : (modTherm d f s).shadow = s.shadow := rfl
@[simp] theorem modTherm_mem (d : Nat) (f : DieTherm → DieTherm) : (modTherm d f s).mem = s.mem := rfl
@[simp] theorem modTherm_realms (d : Nat) (f : DieTherm → DieTherm) : (modTherm d f s).realms = s.realms := rfl
@[simp] theorem modTherm_hosts (d : Nat) (f : DieTherm → DieTherm) : (modTherm d f s).hosts = s.hosts := rfl
@[simp] theorem modTherm_jobs (d : Nat) (f : DieTherm → DieTherm) : (modTherm d f s).jobs = s.jobs := rfl
@[simp] theorem modTherm_accCtr (d : Nat) (f : DieTherm → DieTherm) : (modTherm d f s).accCtr = s.accCtr := rfl
@[simp] theorem modTherm_lastServed (d : Nat) (f : DieTherm → DieTherm) : (modTherm d f s).lastServed = s.lastServed := rfl
@[simp] theorem modTherm_curtain (d : Nat) (f : DieTherm → DieTherm) : (modTherm d f s).curtain = s.curtain := rfl
@[simp] theorem modTherm_lastClass (d : Nat) (f : DieTherm → DieTherm) : (modTherm d f s).lastClass = s.lastClass := rfl
@[simp] theorem modTherm_mgrPort (d : Nat) (f : DieTherm → DieTherm) : (modTherm d f s).mgrPort = s.mgrPort := rfl
@[simp] theorem modTherm_tbUnits (d : Nat) (f : DieTherm → DieTherm) : (modTherm d f s).tbUnits = s.tbUnits := rfl
@[simp] theorem modTherm_ticks (d : Nat) (f : DieTherm → DieTherm) : (modTherm d f s).ticks = s.ticks := rfl
@[simp] theorem modTherm_refSys (d : Nat) (f : DieTherm → DieTherm) : (modTherm d f s).refSys = s.refSys := rfl
@[simp] theorem modTherm_dpx (d : Nat) (f : DieTherm → DieTherm) : (modTherm d f s).dpx = s.dpx := rfl
@[simp] theorem modTherm_engines (d : Nat) (f : DieTherm → DieTherm) : (modTherm d f s).engines = s.engines := rfl
@[simp] theorem modTherm_frame (d : Nat) (f : DieTherm → DieTherm) : (modTherm d f s).frame = s.frame := rfl
@[simp] theorem modTherm_isl (d : Nat) (f : DieTherm → DieTherm) : (modTherm d f s).isl = s.isl := rfl
@[simp] theorem modTherm_links (d : Nat) (f : DieTherm → DieTherm) : (modTherm d f s).links = s.links := rfl
@[simp] theorem modTherm_boot (d : Nat) (f : DieTherm → DieTherm) : (modTherm d f s).boot = s.boot := rfl
@[simp] theorem modTherm_lodging (d : Nat) (f : DieTherm → DieTherm) : (modTherm d f s).lodging = s.lodging := rfl
@[simp] theorem modTherm_attest (d : Nat) (f : DieTherm → DieTherm) : (modTherm d f s).attest = s.attest := rfl
@[simp] theorem modTherm_und (d : Nat) (f : DieTherm → DieTherm) : (modTherm d f s).und = s.und := rfl
@[simp] theorem modTherm_time (d : Nat) (f : DieTherm → DieTherm) : (modTherm d f s).time = s.time := rfl
@[simp] theorem modTherm_ing (d : Nat) (f : DieTherm → DieTherm) : (modTherm d f s).ing = s.ing := rfl
@[simp] theorem modTherm_fus (d : Nat) (f : DieTherm → DieTherm) : (modTherm d f s).fus = s.fus := rfl
@[simp] theorem modTherm_kept (d : Nat) (f : DieTherm → DieTherm) : (modTherm d f s).kept = s.kept := rfl
@[simp] theorem modTherm_opLog (d : Nat) (f : DieTherm → DieTherm) : (modTherm d f s).opLog = s.opLog := rfl
@[simp] theorem regGet_modTherm (d : Nat) (f : DieTherm → DieTherm) (j : Nat) : regGet (modTherm d f s) j = regGet s j := rfl
@[simp] theorem actGet_modTherm (d : Nat) (f : DieTherm → DieTherm) (j : Nat) : actGet (modTherm d f s) j = actGet s j := rfl
@[simp] theorem shGet_modTherm (d : Nat) (f : DieTherm → DieTherm) (j : Nat) : shGet (modTherm d f s) j = shGet s j := rfl
@[simp] theorem portOf_modTherm (d : Nat) (f : DieTherm → DieTherm) (q : Nat) : portOf (modTherm d f s) q = portOf s q := rfl
@[simp] theorem ringOf_modTherm (d : Nat) (f : DieTherm → DieTherm) (q n : Nat) : ringOf (modTherm d f s) q n = ringOf s q n := rfl
@[simp] theorem realmOf_modTherm (d : Nat) (f : DieTherm → DieTherm) (q : Nat) : realmOf (modTherm d f s) q = realmOf s q := rfl
@[simp] theorem engineOf_modTherm (d : Nat) (f : DieTherm → DieTherm) (q : Nat) : engineOf (modTherm d f s) q = engineOf s q := rfl
@[simp] theorem findJob_modTherm (d : Nat) (f : DieTherm → DieTherm) (n : Nat) : findJob (modTherm d f s) n = findJob s n := rfl
@[simp] theorem hostByte_modTherm (d : Nat) (f : DieTherm → DieTherm) (q n : Nat) : hostByte (modTherm d f s) q n = hostByte s q n := rfl

/-! modCue -/

@[simp] theorem modCue_pending (g : Nat) (f : Cue → Cue) : (modCue g f s).pending = s.pending := rfl
@[simp] theorem modCue_freeCtr (g : Nat) (f : Cue → Cue) : (modCue g f s).freeCtr = s.freeCtr := rfl
@[simp] theorem modCue_lastRead (g : Nat) (f : Cue → Cue) : (modCue g f s).lastRead = s.lastRead := rfl
@[simp] theorem modCue_op (g : Nat) (f : Cue → Cue) : (modCue g f s).op = s.op := rfl
@[simp] theorem modCue_inDrive (g : Nat) (f : Cue → Cue) : (modCue g f s).inDrive = s.inDrive := rfl
@[simp] theorem modCue_reg (g : Nat) (f : Cue → Cue) : (modCue g f s).reg = s.reg := rfl
@[simp] theorem modCue_active (g : Nat) (f : Cue → Cue) : (modCue g f s).active = s.active := rfl
@[simp] theorem modCue_shadow (g : Nat) (f : Cue → Cue) : (modCue g f s).shadow = s.shadow := rfl
@[simp] theorem modCue_mem (g : Nat) (f : Cue → Cue) : (modCue g f s).mem = s.mem := rfl
@[simp] theorem modCue_realms (g : Nat) (f : Cue → Cue) : (modCue g f s).realms = s.realms := rfl
@[simp] theorem modCue_hosts (g : Nat) (f : Cue → Cue) : (modCue g f s).hosts = s.hosts := rfl
@[simp] theorem modCue_jobs (g : Nat) (f : Cue → Cue) : (modCue g f s).jobs = s.jobs := rfl
@[simp] theorem modCue_accCtr (g : Nat) (f : Cue → Cue) : (modCue g f s).accCtr = s.accCtr := rfl
@[simp] theorem modCue_lastServed (g : Nat) (f : Cue → Cue) : (modCue g f s).lastServed = s.lastServed := rfl
@[simp] theorem modCue_curtain (g : Nat) (f : Cue → Cue) : (modCue g f s).curtain = s.curtain := rfl
@[simp] theorem modCue_lastClass (g : Nat) (f : Cue → Cue) : (modCue g f s).lastClass = s.lastClass := rfl
@[simp] theorem modCue_mgrPort (g : Nat) (f : Cue → Cue) : (modCue g f s).mgrPort = s.mgrPort := rfl
@[simp] theorem modCue_tbUnits (g : Nat) (f : Cue → Cue) : (modCue g f s).tbUnits = s.tbUnits := rfl
@[simp] theorem modCue_ticks (g : Nat) (f : Cue → Cue) : (modCue g f s).ticks = s.ticks := rfl
@[simp] theorem modCue_refSys (g : Nat) (f : Cue → Cue) : (modCue g f s).refSys = s.refSys := rfl
@[simp] theorem modCue_dpx (g : Nat) (f : Cue → Cue) : (modCue g f s).dpx = s.dpx := rfl
@[simp] theorem modCue_engines (g : Nat) (f : Cue → Cue) : (modCue g f s).engines = s.engines := rfl
@[simp] theorem modCue_frame (g : Nat) (f : Cue → Cue) : (modCue g f s).frame = s.frame := rfl
@[simp] theorem modCue_isl (g : Nat) (f : Cue → Cue) : (modCue g f s).isl = s.isl := rfl
@[simp] theorem modCue_links (g : Nat) (f : Cue → Cue) : (modCue g f s).links = s.links := rfl
@[simp] theorem modCue_boot (g : Nat) (f : Cue → Cue) : (modCue g f s).boot = s.boot := rfl
@[simp] theorem modCue_lodging (g : Nat) (f : Cue → Cue) : (modCue g f s).lodging = s.lodging := rfl
@[simp] theorem modCue_attest (g : Nat) (f : Cue → Cue) : (modCue g f s).attest = s.attest := rfl
@[simp] theorem modCue_und (g : Nat) (f : Cue → Cue) : (modCue g f s).und = s.und := rfl
@[simp] theorem modCue_thm (g : Nat) (f : Cue → Cue) : (modCue g f s).thm = s.thm := rfl
@[simp] theorem modCue_time (g : Nat) (f : Cue → Cue) : (modCue g f s).time = s.time := rfl
@[simp] theorem modCue_fus (g : Nat) (f : Cue → Cue) : (modCue g f s).fus = s.fus := rfl
@[simp] theorem modCue_kept (g : Nat) (f : Cue → Cue) : (modCue g f s).kept = s.kept := rfl
@[simp] theorem modCue_opLog (g : Nat) (f : Cue → Cue) : (modCue g f s).opLog = s.opLog := rfl
@[simp] theorem regGet_modCue (g : Nat) (f : Cue → Cue) (j : Nat) : regGet (modCue g f s) j = regGet s j := rfl
@[simp] theorem actGet_modCue (g : Nat) (f : Cue → Cue) (j : Nat) : actGet (modCue g f s) j = actGet s j := rfl
@[simp] theorem shGet_modCue (g : Nat) (f : Cue → Cue) (j : Nat) : shGet (modCue g f s) j = shGet s j := rfl
@[simp] theorem portOf_modCue (g : Nat) (f : Cue → Cue) (q : Nat) : portOf (modCue g f s) q = portOf s q := rfl
@[simp] theorem ringOf_modCue (g : Nat) (f : Cue → Cue) (q n : Nat) : ringOf (modCue g f s) q n = ringOf s q n := rfl
@[simp] theorem realmOf_modCue (g : Nat) (f : Cue → Cue) (q : Nat) : realmOf (modCue g f s) q = realmOf s q := rfl
@[simp] theorem engineOf_modCue (g : Nat) (f : Cue → Cue) (q : Nat) : engineOf (modCue g f s) q = engineOf s q := rfl
@[simp] theorem findJob_modCue (g : Nat) (f : Cue → Cue) (n : Nat) : findJob (modCue g f s) n = findJob s n := rfl
@[simp] theorem hostByte_modCue (g : Nat) (f : Cue → Cue) (q n : Nat) : hostByte (modCue g f s) q n = hostByte s q n := rfl

/-! modSpi -/

@[simp] theorem modSpi_pending (m : Nat) (f : Spi → Spi) : (modSpi m f s).pending = s.pending := rfl
@[simp] theorem modSpi_freeCtr (m : Nat) (f : Spi → Spi) : (modSpi m f s).freeCtr = s.freeCtr := rfl
@[simp] theorem modSpi_lastRead (m : Nat) (f : Spi → Spi) : (modSpi m f s).lastRead = s.lastRead := rfl
@[simp] theorem modSpi_op (m : Nat) (f : Spi → Spi) : (modSpi m f s).op = s.op := rfl
@[simp] theorem modSpi_inDrive (m : Nat) (f : Spi → Spi) : (modSpi m f s).inDrive = s.inDrive := rfl
@[simp] theorem modSpi_reg (m : Nat) (f : Spi → Spi) : (modSpi m f s).reg = s.reg := rfl
@[simp] theorem modSpi_active (m : Nat) (f : Spi → Spi) : (modSpi m f s).active = s.active := rfl
@[simp] theorem modSpi_shadow (m : Nat) (f : Spi → Spi) : (modSpi m f s).shadow = s.shadow := rfl
@[simp] theorem modSpi_mem (m : Nat) (f : Spi → Spi) : (modSpi m f s).mem = s.mem := rfl
@[simp] theorem modSpi_realms (m : Nat) (f : Spi → Spi) : (modSpi m f s).realms = s.realms := rfl
@[simp] theorem modSpi_hosts (m : Nat) (f : Spi → Spi) : (modSpi m f s).hosts = s.hosts := rfl
@[simp] theorem modSpi_jobs (m : Nat) (f : Spi → Spi) : (modSpi m f s).jobs = s.jobs := rfl
@[simp] theorem modSpi_accCtr (m : Nat) (f : Spi → Spi) : (modSpi m f s).accCtr = s.accCtr := rfl
@[simp] theorem modSpi_lastServed (m : Nat) (f : Spi → Spi) : (modSpi m f s).lastServed = s.lastServed := rfl
@[simp] theorem modSpi_curtain (m : Nat) (f : Spi → Spi) : (modSpi m f s).curtain = s.curtain := rfl
@[simp] theorem modSpi_lastClass (m : Nat) (f : Spi → Spi) : (modSpi m f s).lastClass = s.lastClass := rfl
@[simp] theorem modSpi_mgrPort (m : Nat) (f : Spi → Spi) : (modSpi m f s).mgrPort = s.mgrPort := rfl
@[simp] theorem modSpi_tbUnits (m : Nat) (f : Spi → Spi) : (modSpi m f s).tbUnits = s.tbUnits := rfl
@[simp] theorem modSpi_ticks (m : Nat) (f : Spi → Spi) : (modSpi m f s).ticks = s.ticks := rfl
@[simp] theorem modSpi_refSys (m : Nat) (f : Spi → Spi) : (modSpi m f s).refSys = s.refSys := rfl
@[simp] theorem modSpi_dpx (m : Nat) (f : Spi → Spi) : (modSpi m f s).dpx = s.dpx := rfl
@[simp] theorem modSpi_engines (m : Nat) (f : Spi → Spi) : (modSpi m f s).engines = s.engines := rfl
@[simp] theorem modSpi_frame (m : Nat) (f : Spi → Spi) : (modSpi m f s).frame = s.frame := rfl
@[simp] theorem modSpi_isl (m : Nat) (f : Spi → Spi) : (modSpi m f s).isl = s.isl := rfl
@[simp] theorem modSpi_links (m : Nat) (f : Spi → Spi) : (modSpi m f s).links = s.links := rfl
@[simp] theorem modSpi_boot (m : Nat) (f : Spi → Spi) : (modSpi m f s).boot = s.boot := rfl
@[simp] theorem modSpi_lodging (m : Nat) (f : Spi → Spi) : (modSpi m f s).lodging = s.lodging := rfl
@[simp] theorem modSpi_attest (m : Nat) (f : Spi → Spi) : (modSpi m f s).attest = s.attest := rfl
@[simp] theorem modSpi_und (m : Nat) (f : Spi → Spi) : (modSpi m f s).und = s.und := rfl
@[simp] theorem modSpi_thm (m : Nat) (f : Spi → Spi) : (modSpi m f s).thm = s.thm := rfl
@[simp] theorem modSpi_time (m : Nat) (f : Spi → Spi) : (modSpi m f s).time = s.time := rfl
@[simp] theorem modSpi_fus (m : Nat) (f : Spi → Spi) : (modSpi m f s).fus = s.fus := rfl
@[simp] theorem modSpi_kept (m : Nat) (f : Spi → Spi) : (modSpi m f s).kept = s.kept := rfl
@[simp] theorem modSpi_opLog (m : Nat) (f : Spi → Spi) : (modSpi m f s).opLog = s.opLog := rfl
@[simp] theorem regGet_modSpi (m : Nat) (f : Spi → Spi) (j : Nat) : regGet (modSpi m f s) j = regGet s j := rfl
@[simp] theorem actGet_modSpi (m : Nat) (f : Spi → Spi) (j : Nat) : actGet (modSpi m f s) j = actGet s j := rfl
@[simp] theorem shGet_modSpi (m : Nat) (f : Spi → Spi) (j : Nat) : shGet (modSpi m f s) j = shGet s j := rfl
@[simp] theorem portOf_modSpi (m : Nat) (f : Spi → Spi) (q : Nat) : portOf (modSpi m f s) q = portOf s q := rfl
@[simp] theorem ringOf_modSpi (m : Nat) (f : Spi → Spi) (q n : Nat) : ringOf (modSpi m f s) q n = ringOf s q n := rfl
@[simp] theorem realmOf_modSpi (m : Nat) (f : Spi → Spi) (q : Nat) : realmOf (modSpi m f s) q = realmOf s q := rfl
@[simp] theorem engineOf_modSpi (m : Nat) (f : Spi → Spi) (q : Nat) : engineOf (modSpi m f s) q = engineOf s q := rfl
@[simp] theorem findJob_modSpi (m : Nat) (f : Spi → Spi) (n : Nat) : findJob (modSpi m f s) n = findJob s n := rfl
@[simp] theorem hostByte_modSpi (m : Nat) (f : Spi → Spi) (q n : Nat) : hostByte (modSpi m f s) q n = hostByte s q n := rfl

/-! modCap -/

@[simp] theorem modCap_pending (c : Nat) (f : Capture → Capture) : (modCap c f s).pending = s.pending := rfl
@[simp] theorem modCap_freeCtr (c : Nat) (f : Capture → Capture) : (modCap c f s).freeCtr = s.freeCtr := rfl
@[simp] theorem modCap_lastRead (c : Nat) (f : Capture → Capture) : (modCap c f s).lastRead = s.lastRead := rfl
@[simp] theorem modCap_op (c : Nat) (f : Capture → Capture) : (modCap c f s).op = s.op := rfl
@[simp] theorem modCap_inDrive (c : Nat) (f : Capture → Capture) : (modCap c f s).inDrive = s.inDrive := rfl
@[simp] theorem modCap_reg (c : Nat) (f : Capture → Capture) : (modCap c f s).reg = s.reg := rfl
@[simp] theorem modCap_active (c : Nat) (f : Capture → Capture) : (modCap c f s).active = s.active := rfl
@[simp] theorem modCap_shadow (c : Nat) (f : Capture → Capture) : (modCap c f s).shadow = s.shadow := rfl
@[simp] theorem modCap_mem (c : Nat) (f : Capture → Capture) : (modCap c f s).mem = s.mem := rfl
@[simp] theorem modCap_realms (c : Nat) (f : Capture → Capture) : (modCap c f s).realms = s.realms := rfl
@[simp] theorem modCap_hosts (c : Nat) (f : Capture → Capture) : (modCap c f s).hosts = s.hosts := rfl
@[simp] theorem modCap_jobs (c : Nat) (f : Capture → Capture) : (modCap c f s).jobs = s.jobs := rfl
@[simp] theorem modCap_accCtr (c : Nat) (f : Capture → Capture) : (modCap c f s).accCtr = s.accCtr := rfl
@[simp] theorem modCap_lastServed (c : Nat) (f : Capture → Capture) : (modCap c f s).lastServed = s.lastServed := rfl
@[simp] theorem modCap_curtain (c : Nat) (f : Capture → Capture) : (modCap c f s).curtain = s.curtain := rfl
@[simp] theorem modCap_lastClass (c : Nat) (f : Capture → Capture) : (modCap c f s).lastClass = s.lastClass := rfl
@[simp] theorem modCap_mgrPort (c : Nat) (f : Capture → Capture) : (modCap c f s).mgrPort = s.mgrPort := rfl
@[simp] theorem modCap_tbUnits (c : Nat) (f : Capture → Capture) : (modCap c f s).tbUnits = s.tbUnits := rfl
@[simp] theorem modCap_ticks (c : Nat) (f : Capture → Capture) : (modCap c f s).ticks = s.ticks := rfl
@[simp] theorem modCap_refSys (c : Nat) (f : Capture → Capture) : (modCap c f s).refSys = s.refSys := rfl
@[simp] theorem modCap_dpx (c : Nat) (f : Capture → Capture) : (modCap c f s).dpx = s.dpx := rfl
@[simp] theorem modCap_engines (c : Nat) (f : Capture → Capture) : (modCap c f s).engines = s.engines := rfl
@[simp] theorem modCap_frame (c : Nat) (f : Capture → Capture) : (modCap c f s).frame = s.frame := rfl
@[simp] theorem modCap_isl (c : Nat) (f : Capture → Capture) : (modCap c f s).isl = s.isl := rfl
@[simp] theorem modCap_links (c : Nat) (f : Capture → Capture) : (modCap c f s).links = s.links := rfl
@[simp] theorem modCap_boot (c : Nat) (f : Capture → Capture) : (modCap c f s).boot = s.boot := rfl
@[simp] theorem modCap_lodging (c : Nat) (f : Capture → Capture) : (modCap c f s).lodging = s.lodging := rfl
@[simp] theorem modCap_attest (c : Nat) (f : Capture → Capture) : (modCap c f s).attest = s.attest := rfl
@[simp] theorem modCap_und (c : Nat) (f : Capture → Capture) : (modCap c f s).und = s.und := rfl
@[simp] theorem modCap_thm (c : Nat) (f : Capture → Capture) : (modCap c f s).thm = s.thm := rfl
@[simp] theorem modCap_time (c : Nat) (f : Capture → Capture) : (modCap c f s).time = s.time := rfl
@[simp] theorem modCap_fus (c : Nat) (f : Capture → Capture) : (modCap c f s).fus = s.fus := rfl
@[simp] theorem modCap_kept (c : Nat) (f : Capture → Capture) : (modCap c f s).kept = s.kept := rfl
@[simp] theorem modCap_opLog (c : Nat) (f : Capture → Capture) : (modCap c f s).opLog = s.opLog := rfl
@[simp] theorem regGet_modCap (c : Nat) (f : Capture → Capture) (j : Nat) : regGet (modCap c f s) j = regGet s j := rfl
@[simp] theorem actGet_modCap (c : Nat) (f : Capture → Capture) (j : Nat) : actGet (modCap c f s) j = actGet s j := rfl
@[simp] theorem shGet_modCap (c : Nat) (f : Capture → Capture) (j : Nat) : shGet (modCap c f s) j = shGet s j := rfl
@[simp] theorem portOf_modCap (c : Nat) (f : Capture → Capture) (q : Nat) : portOf (modCap c f s) q = portOf s q := rfl
@[simp] theorem ringOf_modCap (c : Nat) (f : Capture → Capture) (q n : Nat) : ringOf (modCap c f s) q n = ringOf s q n := rfl
@[simp] theorem realmOf_modCap (c : Nat) (f : Capture → Capture) (q : Nat) : realmOf (modCap c f s) q = realmOf s q := rfl
@[simp] theorem engineOf_modCap (c : Nat) (f : Capture → Capture) (q : Nat) : engineOf (modCap c f s) q = engineOf s q := rfl
@[simp] theorem findJob_modCap (c : Nat) (f : Capture → Capture) (n : Nat) : findJob (modCap c f s) n = findJob s n := rfl
@[simp] theorem hostByte_modCap (c : Nat) (f : Capture → Capture) (q n : Nat) : hostByte (modCap c f s) q n = hostByte s q n := rfl

/-! modIng -/

@[simp] theorem modIng_pending (p : Nat) (f : IngPort → IngPort) : (modIng p f s).pending = s.pending := rfl
@[simp] theorem modIng_freeCtr (p : Nat) (f : IngPort → IngPort) : (modIng p f s).freeCtr = s.freeCtr := rfl
@[simp] theorem modIng_lastRead (p : Nat) (f : IngPort → IngPort) : (modIng p f s).lastRead = s.lastRead := rfl
@[simp] theorem modIng_op (p : Nat) (f : IngPort → IngPort) : (modIng p f s).op = s.op := rfl
@[simp] theorem modIng_inDrive (p : Nat) (f : IngPort → IngPort) : (modIng p f s).inDrive = s.inDrive := rfl
@[simp] theorem modIng_reg (p : Nat) (f : IngPort → IngPort) : (modIng p f s).reg = s.reg := rfl
@[simp] theorem modIng_active (p : Nat) (f : IngPort → IngPort) : (modIng p f s).active = s.active := rfl
@[simp] theorem modIng_shadow (p : Nat) (f : IngPort → IngPort) : (modIng p f s).shadow = s.shadow := rfl
@[simp] theorem modIng_mem (p : Nat) (f : IngPort → IngPort) : (modIng p f s).mem = s.mem := rfl
@[simp] theorem modIng_realms (p : Nat) (f : IngPort → IngPort) : (modIng p f s).realms = s.realms := rfl
@[simp] theorem modIng_hosts (p : Nat) (f : IngPort → IngPort) : (modIng p f s).hosts = s.hosts := rfl
@[simp] theorem modIng_jobs (p : Nat) (f : IngPort → IngPort) : (modIng p f s).jobs = s.jobs := rfl
@[simp] theorem modIng_accCtr (p : Nat) (f : IngPort → IngPort) : (modIng p f s).accCtr = s.accCtr := rfl
@[simp] theorem modIng_lastServed (p : Nat) (f : IngPort → IngPort) : (modIng p f s).lastServed = s.lastServed := rfl
@[simp] theorem modIng_curtain (p : Nat) (f : IngPort → IngPort) : (modIng p f s).curtain = s.curtain := rfl
@[simp] theorem modIng_lastClass (p : Nat) (f : IngPort → IngPort) : (modIng p f s).lastClass = s.lastClass := rfl
@[simp] theorem modIng_mgrPort (p : Nat) (f : IngPort → IngPort) : (modIng p f s).mgrPort = s.mgrPort := rfl
@[simp] theorem modIng_tbUnits (p : Nat) (f : IngPort → IngPort) : (modIng p f s).tbUnits = s.tbUnits := rfl
@[simp] theorem modIng_ticks (p : Nat) (f : IngPort → IngPort) : (modIng p f s).ticks = s.ticks := rfl
@[simp] theorem modIng_refSys (p : Nat) (f : IngPort → IngPort) : (modIng p f s).refSys = s.refSys := rfl
@[simp] theorem modIng_dpx (p : Nat) (f : IngPort → IngPort) : (modIng p f s).dpx = s.dpx := rfl
@[simp] theorem modIng_engines (p : Nat) (f : IngPort → IngPort) : (modIng p f s).engines = s.engines := rfl
@[simp] theorem modIng_frame (p : Nat) (f : IngPort → IngPort) : (modIng p f s).frame = s.frame := rfl
@[simp] theorem modIng_isl (p : Nat) (f : IngPort → IngPort) : (modIng p f s).isl = s.isl := rfl
@[simp] theorem modIng_links (p : Nat) (f : IngPort → IngPort) : (modIng p f s).links = s.links := rfl
@[simp] theorem modIng_boot (p : Nat) (f : IngPort → IngPort) : (modIng p f s).boot = s.boot := rfl
@[simp] theorem modIng_lodging (p : Nat) (f : IngPort → IngPort) : (modIng p f s).lodging = s.lodging := rfl
@[simp] theorem modIng_attest (p : Nat) (f : IngPort → IngPort) : (modIng p f s).attest = s.attest := rfl
@[simp] theorem modIng_und (p : Nat) (f : IngPort → IngPort) : (modIng p f s).und = s.und := rfl
@[simp] theorem modIng_thm (p : Nat) (f : IngPort → IngPort) : (modIng p f s).thm = s.thm := rfl
@[simp] theorem modIng_time (p : Nat) (f : IngPort → IngPort) : (modIng p f s).time = s.time := rfl
@[simp] theorem modIng_fus (p : Nat) (f : IngPort → IngPort) : (modIng p f s).fus = s.fus := rfl
@[simp] theorem modIng_kept (p : Nat) (f : IngPort → IngPort) : (modIng p f s).kept = s.kept := rfl
@[simp] theorem modIng_opLog (p : Nat) (f : IngPort → IngPort) : (modIng p f s).opLog = s.opLog := rfl
@[simp] theorem regGet_modIng (p : Nat) (f : IngPort → IngPort) (j : Nat) : regGet (modIng p f s) j = regGet s j := rfl
@[simp] theorem actGet_modIng (p : Nat) (f : IngPort → IngPort) (j : Nat) : actGet (modIng p f s) j = actGet s j := rfl
@[simp] theorem shGet_modIng (p : Nat) (f : IngPort → IngPort) (j : Nat) : shGet (modIng p f s) j = shGet s j := rfl
@[simp] theorem portOf_modIng (p : Nat) (f : IngPort → IngPort) (q : Nat) : portOf (modIng p f s) q = portOf s q := rfl
@[simp] theorem ringOf_modIng (p : Nat) (f : IngPort → IngPort) (q n : Nat) : ringOf (modIng p f s) q n = ringOf s q n := rfl
@[simp] theorem realmOf_modIng (p : Nat) (f : IngPort → IngPort) (q : Nat) : realmOf (modIng p f s) q = realmOf s q := rfl
@[simp] theorem engineOf_modIng (p : Nat) (f : IngPort → IngPort) (q : Nat) : engineOf (modIng p f s) q = engineOf s q := rfl
@[simp] theorem findJob_modIng (p : Nat) (f : IngPort → IngPort) (n : Nat) : findJob (modIng p f s) n = findJob s n := rfl
@[simp] theorem hostByte_modIng (p : Nat) (f : IngPort → IngPort) (q n : Nat) : hostByte (modIng p f s) q n = hostByte s q n := rfl

/-! modStr -/

@[simp] theorem modStr_pending (k : Nat) (f : Stream → Stream) : (modStr k f s).pending = s.pending := rfl
@[simp] theorem modStr_freeCtr (k : Nat) (f : Stream → Stream) : (modStr k f s).freeCtr = s.freeCtr := rfl
@[simp] theorem modStr_lastRead (k : Nat) (f : Stream → Stream) : (modStr k f s).lastRead = s.lastRead := rfl
@[simp] theorem modStr_op (k : Nat) (f : Stream → Stream) : (modStr k f s).op = s.op := rfl
@[simp] theorem modStr_inDrive (k : Nat) (f : Stream → Stream) : (modStr k f s).inDrive = s.inDrive := rfl
@[simp] theorem modStr_reg (k : Nat) (f : Stream → Stream) : (modStr k f s).reg = s.reg := rfl
@[simp] theorem modStr_active (k : Nat) (f : Stream → Stream) : (modStr k f s).active = s.active := rfl
@[simp] theorem modStr_shadow (k : Nat) (f : Stream → Stream) : (modStr k f s).shadow = s.shadow := rfl
@[simp] theorem modStr_mem (k : Nat) (f : Stream → Stream) : (modStr k f s).mem = s.mem := rfl
@[simp] theorem modStr_realms (k : Nat) (f : Stream → Stream) : (modStr k f s).realms = s.realms := rfl
@[simp] theorem modStr_hosts (k : Nat) (f : Stream → Stream) : (modStr k f s).hosts = s.hosts := rfl
@[simp] theorem modStr_jobs (k : Nat) (f : Stream → Stream) : (modStr k f s).jobs = s.jobs := rfl
@[simp] theorem modStr_accCtr (k : Nat) (f : Stream → Stream) : (modStr k f s).accCtr = s.accCtr := rfl
@[simp] theorem modStr_lastServed (k : Nat) (f : Stream → Stream) : (modStr k f s).lastServed = s.lastServed := rfl
@[simp] theorem modStr_curtain (k : Nat) (f : Stream → Stream) : (modStr k f s).curtain = s.curtain := rfl
@[simp] theorem modStr_lastClass (k : Nat) (f : Stream → Stream) : (modStr k f s).lastClass = s.lastClass := rfl
@[simp] theorem modStr_mgrPort (k : Nat) (f : Stream → Stream) : (modStr k f s).mgrPort = s.mgrPort := rfl
@[simp] theorem modStr_tbUnits (k : Nat) (f : Stream → Stream) : (modStr k f s).tbUnits = s.tbUnits := rfl
@[simp] theorem modStr_ticks (k : Nat) (f : Stream → Stream) : (modStr k f s).ticks = s.ticks := rfl
@[simp] theorem modStr_refSys (k : Nat) (f : Stream → Stream) : (modStr k f s).refSys = s.refSys := rfl
@[simp] theorem modStr_dpx (k : Nat) (f : Stream → Stream) : (modStr k f s).dpx = s.dpx := rfl
@[simp] theorem modStr_engines (k : Nat) (f : Stream → Stream) : (modStr k f s).engines = s.engines := rfl
@[simp] theorem modStr_frame (k : Nat) (f : Stream → Stream) : (modStr k f s).frame = s.frame := rfl
@[simp] theorem modStr_isl (k : Nat) (f : Stream → Stream) : (modStr k f s).isl = s.isl := rfl
@[simp] theorem modStr_links (k : Nat) (f : Stream → Stream) : (modStr k f s).links = s.links := rfl
@[simp] theorem modStr_boot (k : Nat) (f : Stream → Stream) : (modStr k f s).boot = s.boot := rfl
@[simp] theorem modStr_lodging (k : Nat) (f : Stream → Stream) : (modStr k f s).lodging = s.lodging := rfl
@[simp] theorem modStr_attest (k : Nat) (f : Stream → Stream) : (modStr k f s).attest = s.attest := rfl
@[simp] theorem modStr_und (k : Nat) (f : Stream → Stream) : (modStr k f s).und = s.und := rfl
@[simp] theorem modStr_thm (k : Nat) (f : Stream → Stream) : (modStr k f s).thm = s.thm := rfl
@[simp] theorem modStr_time (k : Nat) (f : Stream → Stream) : (modStr k f s).time = s.time := rfl
@[simp] theorem modStr_fus (k : Nat) (f : Stream → Stream) : (modStr k f s).fus = s.fus := rfl
@[simp] theorem modStr_kept (k : Nat) (f : Stream → Stream) : (modStr k f s).kept = s.kept := rfl
@[simp] theorem modStr_opLog (k : Nat) (f : Stream → Stream) : (modStr k f s).opLog = s.opLog := rfl
@[simp] theorem regGet_modStr (k : Nat) (f : Stream → Stream) (j : Nat) : regGet (modStr k f s) j = regGet s j := rfl
@[simp] theorem actGet_modStr (k : Nat) (f : Stream → Stream) (j : Nat) : actGet (modStr k f s) j = actGet s j := rfl
@[simp] theorem shGet_modStr (k : Nat) (f : Stream → Stream) (j : Nat) : shGet (modStr k f s) j = shGet s j := rfl
@[simp] theorem portOf_modStr (k : Nat) (f : Stream → Stream) (q : Nat) : portOf (modStr k f s) q = portOf s q := rfl
@[simp] theorem ringOf_modStr (k : Nat) (f : Stream → Stream) (q n : Nat) : ringOf (modStr k f s) q n = ringOf s q n := rfl
@[simp] theorem realmOf_modStr (k : Nat) (f : Stream → Stream) (q : Nat) : realmOf (modStr k f s) q = realmOf s q := rfl
@[simp] theorem engineOf_modStr (k : Nat) (f : Stream → Stream) (q : Nat) : engineOf (modStr k f s) q = engineOf s q := rfl
@[simp] theorem findJob_modStr (k : Nat) (f : Stream → Stream) (n : Nat) : findJob (modStr k f s) n = findJob s n := rfl
@[simp] theorem hostByte_modStr (k : Nat) (f : Stream → Stream) (q n : Nat) : hostByte (modStr k f s) q n = hostByte s q n := rfl

/-! modMac -/

@[simp] theorem modMac_pending (m : Nat) (f : Mac → Mac) : (modMac m f s).pending = s.pending := rfl
@[simp] theorem modMac_freeCtr (m : Nat) (f : Mac → Mac) : (modMac m f s).freeCtr = s.freeCtr := rfl
@[simp] theorem modMac_lastRead (m : Nat) (f : Mac → Mac) : (modMac m f s).lastRead = s.lastRead := rfl
@[simp] theorem modMac_op (m : Nat) (f : Mac → Mac) : (modMac m f s).op = s.op := rfl
@[simp] theorem modMac_inDrive (m : Nat) (f : Mac → Mac) : (modMac m f s).inDrive = s.inDrive := rfl
@[simp] theorem modMac_reg (m : Nat) (f : Mac → Mac) : (modMac m f s).reg = s.reg := rfl
@[simp] theorem modMac_active (m : Nat) (f : Mac → Mac) : (modMac m f s).active = s.active := rfl
@[simp] theorem modMac_shadow (m : Nat) (f : Mac → Mac) : (modMac m f s).shadow = s.shadow := rfl
@[simp] theorem modMac_mem (m : Nat) (f : Mac → Mac) : (modMac m f s).mem = s.mem := rfl
@[simp] theorem modMac_realms (m : Nat) (f : Mac → Mac) : (modMac m f s).realms = s.realms := rfl
@[simp] theorem modMac_hosts (m : Nat) (f : Mac → Mac) : (modMac m f s).hosts = s.hosts := rfl
@[simp] theorem modMac_jobs (m : Nat) (f : Mac → Mac) : (modMac m f s).jobs = s.jobs := rfl
@[simp] theorem modMac_accCtr (m : Nat) (f : Mac → Mac) : (modMac m f s).accCtr = s.accCtr := rfl
@[simp] theorem modMac_lastServed (m : Nat) (f : Mac → Mac) : (modMac m f s).lastServed = s.lastServed := rfl
@[simp] theorem modMac_curtain (m : Nat) (f : Mac → Mac) : (modMac m f s).curtain = s.curtain := rfl
@[simp] theorem modMac_lastClass (m : Nat) (f : Mac → Mac) : (modMac m f s).lastClass = s.lastClass := rfl
@[simp] theorem modMac_mgrPort (m : Nat) (f : Mac → Mac) : (modMac m f s).mgrPort = s.mgrPort := rfl
@[simp] theorem modMac_tbUnits (m : Nat) (f : Mac → Mac) : (modMac m f s).tbUnits = s.tbUnits := rfl
@[simp] theorem modMac_ticks (m : Nat) (f : Mac → Mac) : (modMac m f s).ticks = s.ticks := rfl
@[simp] theorem modMac_refSys (m : Nat) (f : Mac → Mac) : (modMac m f s).refSys = s.refSys := rfl
@[simp] theorem modMac_dpx (m : Nat) (f : Mac → Mac) : (modMac m f s).dpx = s.dpx := rfl
@[simp] theorem modMac_engines (m : Nat) (f : Mac → Mac) : (modMac m f s).engines = s.engines := rfl
@[simp] theorem modMac_frame (m : Nat) (f : Mac → Mac) : (modMac m f s).frame = s.frame := rfl
@[simp] theorem modMac_isl (m : Nat) (f : Mac → Mac) : (modMac m f s).isl = s.isl := rfl
@[simp] theorem modMac_links (m : Nat) (f : Mac → Mac) : (modMac m f s).links = s.links := rfl
@[simp] theorem modMac_boot (m : Nat) (f : Mac → Mac) : (modMac m f s).boot = s.boot := rfl
@[simp] theorem modMac_lodging (m : Nat) (f : Mac → Mac) : (modMac m f s).lodging = s.lodging := rfl
@[simp] theorem modMac_attest (m : Nat) (f : Mac → Mac) : (modMac m f s).attest = s.attest := rfl
@[simp] theorem modMac_und (m : Nat) (f : Mac → Mac) : (modMac m f s).und = s.und := rfl
@[simp] theorem modMac_thm (m : Nat) (f : Mac → Mac) : (modMac m f s).thm = s.thm := rfl
@[simp] theorem modMac_time (m : Nat) (f : Mac → Mac) : (modMac m f s).time = s.time := rfl
@[simp] theorem modMac_fus (m : Nat) (f : Mac → Mac) : (modMac m f s).fus = s.fus := rfl
@[simp] theorem modMac_kept (m : Nat) (f : Mac → Mac) : (modMac m f s).kept = s.kept := rfl
@[simp] theorem modMac_opLog (m : Nat) (f : Mac → Mac) : (modMac m f s).opLog = s.opLog := rfl
@[simp] theorem regGet_modMac (m : Nat) (f : Mac → Mac) (j : Nat) : regGet (modMac m f s) j = regGet s j := rfl
@[simp] theorem actGet_modMac (m : Nat) (f : Mac → Mac) (j : Nat) : actGet (modMac m f s) j = actGet s j := rfl
@[simp] theorem shGet_modMac (m : Nat) (f : Mac → Mac) (j : Nat) : shGet (modMac m f s) j = shGet s j := rfl
@[simp] theorem portOf_modMac (m : Nat) (f : Mac → Mac) (q : Nat) : portOf (modMac m f s) q = portOf s q := rfl
@[simp] theorem ringOf_modMac (m : Nat) (f : Mac → Mac) (q n : Nat) : ringOf (modMac m f s) q n = ringOf s q n := rfl
@[simp] theorem realmOf_modMac (m : Nat) (f : Mac → Mac) (q : Nat) : realmOf (modMac m f s) q = realmOf s q := rfl
@[simp] theorem engineOf_modMac (m : Nat) (f : Mac → Mac) (q : Nat) : engineOf (modMac m f s) q = engineOf s q := rfl
@[simp] theorem findJob_modMac (m : Nat) (f : Mac → Mac) (n : Nat) : findJob (modMac m f s) n = findJob s n := rfl
@[simp] theorem hostByte_modMac (m : Nat) (f : Mac → Mac) (q n : Nat) : hostByte (modMac m f s) q n = hostByte s q n := rfl

/-! modSvc -/

@[simp] theorem modSvc_pending (k : Nat) (f : Svc → Svc) : (modSvc k f s).pending = s.pending := rfl
@[simp] theorem modSvc_freeCtr (k : Nat) (f : Svc → Svc) : (modSvc k f s).freeCtr = s.freeCtr := rfl
@[simp] theorem modSvc_lastRead (k : Nat) (f : Svc → Svc) : (modSvc k f s).lastRead = s.lastRead := rfl
@[simp] theorem modSvc_op (k : Nat) (f : Svc → Svc) : (modSvc k f s).op = s.op := rfl
@[simp] theorem modSvc_inDrive (k : Nat) (f : Svc → Svc) : (modSvc k f s).inDrive = s.inDrive := rfl
@[simp] theorem modSvc_reg (k : Nat) (f : Svc → Svc) : (modSvc k f s).reg = s.reg := rfl
@[simp] theorem modSvc_active (k : Nat) (f : Svc → Svc) : (modSvc k f s).active = s.active := rfl
@[simp] theorem modSvc_shadow (k : Nat) (f : Svc → Svc) : (modSvc k f s).shadow = s.shadow := rfl
@[simp] theorem modSvc_mem (k : Nat) (f : Svc → Svc) : (modSvc k f s).mem = s.mem := rfl
@[simp] theorem modSvc_realms (k : Nat) (f : Svc → Svc) : (modSvc k f s).realms = s.realms := rfl
@[simp] theorem modSvc_hosts (k : Nat) (f : Svc → Svc) : (modSvc k f s).hosts = s.hosts := rfl
@[simp] theorem modSvc_jobs (k : Nat) (f : Svc → Svc) : (modSvc k f s).jobs = s.jobs := rfl
@[simp] theorem modSvc_accCtr (k : Nat) (f : Svc → Svc) : (modSvc k f s).accCtr = s.accCtr := rfl
@[simp] theorem modSvc_lastServed (k : Nat) (f : Svc → Svc) : (modSvc k f s).lastServed = s.lastServed := rfl
@[simp] theorem modSvc_curtain (k : Nat) (f : Svc → Svc) : (modSvc k f s).curtain = s.curtain := rfl
@[simp] theorem modSvc_lastClass (k : Nat) (f : Svc → Svc) : (modSvc k f s).lastClass = s.lastClass := rfl
@[simp] theorem modSvc_mgrPort (k : Nat) (f : Svc → Svc) : (modSvc k f s).mgrPort = s.mgrPort := rfl
@[simp] theorem modSvc_tbUnits (k : Nat) (f : Svc → Svc) : (modSvc k f s).tbUnits = s.tbUnits := rfl
@[simp] theorem modSvc_ticks (k : Nat) (f : Svc → Svc) : (modSvc k f s).ticks = s.ticks := rfl
@[simp] theorem modSvc_refSys (k : Nat) (f : Svc → Svc) : (modSvc k f s).refSys = s.refSys := rfl
@[simp] theorem modSvc_dpx (k : Nat) (f : Svc → Svc) : (modSvc k f s).dpx = s.dpx := rfl
@[simp] theorem modSvc_engines (k : Nat) (f : Svc → Svc) : (modSvc k f s).engines = s.engines := rfl
@[simp] theorem modSvc_frame (k : Nat) (f : Svc → Svc) : (modSvc k f s).frame = s.frame := rfl
@[simp] theorem modSvc_isl (k : Nat) (f : Svc → Svc) : (modSvc k f s).isl = s.isl := rfl
@[simp] theorem modSvc_links (k : Nat) (f : Svc → Svc) : (modSvc k f s).links = s.links := rfl
@[simp] theorem modSvc_boot (k : Nat) (f : Svc → Svc) : (modSvc k f s).boot = s.boot := rfl
@[simp] theorem modSvc_lodging (k : Nat) (f : Svc → Svc) : (modSvc k f s).lodging = s.lodging := rfl
@[simp] theorem modSvc_attest (k : Nat) (f : Svc → Svc) : (modSvc k f s).attest = s.attest := rfl
@[simp] theorem modSvc_und (k : Nat) (f : Svc → Svc) : (modSvc k f s).und = s.und := rfl
@[simp] theorem modSvc_thm (k : Nat) (f : Svc → Svc) : (modSvc k f s).thm = s.thm := rfl
@[simp] theorem modSvc_time (k : Nat) (f : Svc → Svc) : (modSvc k f s).time = s.time := rfl
@[simp] theorem modSvc_ing (k : Nat) (f : Svc → Svc) : (modSvc k f s).ing = s.ing := rfl
@[simp] theorem modSvc_kept (k : Nat) (f : Svc → Svc) : (modSvc k f s).kept = s.kept := rfl
@[simp] theorem modSvc_opLog (k : Nat) (f : Svc → Svc) : (modSvc k f s).opLog = s.opLog := rfl
@[simp] theorem regGet_modSvc (k : Nat) (f : Svc → Svc) (j : Nat) : regGet (modSvc k f s) j = regGet s j := rfl
@[simp] theorem actGet_modSvc (k : Nat) (f : Svc → Svc) (j : Nat) : actGet (modSvc k f s) j = actGet s j := rfl
@[simp] theorem shGet_modSvc (k : Nat) (f : Svc → Svc) (j : Nat) : shGet (modSvc k f s) j = shGet s j := rfl
@[simp] theorem portOf_modSvc (k : Nat) (f : Svc → Svc) (q : Nat) : portOf (modSvc k f s) q = portOf s q := rfl
@[simp] theorem ringOf_modSvc (k : Nat) (f : Svc → Svc) (q n : Nat) : ringOf (modSvc k f s) q n = ringOf s q n := rfl
@[simp] theorem realmOf_modSvc (k : Nat) (f : Svc → Svc) (q : Nat) : realmOf (modSvc k f s) q = realmOf s q := rfl
@[simp] theorem engineOf_modSvc (k : Nat) (f : Svc → Svc) (q : Nat) : engineOf (modSvc k f s) q = engineOf s q := rfl
@[simp] theorem findJob_modSvc (k : Nat) (f : Svc → Svc) (n : Nat) : findJob (modSvc k f s) n = findJob s n := rfl
@[simp] theorem hostByte_modSvc (k : Nat) (f : Svc → Svc) (q n : Nat) : hostByte (modSvc k f s) q n = hostByte s q n := rfl

/-! modWork -/

@[simp] theorem modWork_pending (k : Nat) (f : Pend → Pend) : (modWork k f s).pending = s.pending := rfl
@[simp] theorem modWork_freeCtr (k : Nat) (f : Pend → Pend) : (modWork k f s).freeCtr = s.freeCtr := rfl
@[simp] theorem modWork_lastRead (k : Nat) (f : Pend → Pend) : (modWork k f s).lastRead = s.lastRead := rfl
@[simp] theorem modWork_op (k : Nat) (f : Pend → Pend) : (modWork k f s).op = s.op := rfl
@[simp] theorem modWork_inDrive (k : Nat) (f : Pend → Pend) : (modWork k f s).inDrive = s.inDrive := rfl
@[simp] theorem modWork_reg (k : Nat) (f : Pend → Pend) : (modWork k f s).reg = s.reg := rfl
@[simp] theorem modWork_active (k : Nat) (f : Pend → Pend) : (modWork k f s).active = s.active := rfl
@[simp] theorem modWork_shadow (k : Nat) (f : Pend → Pend) : (modWork k f s).shadow = s.shadow := rfl
@[simp] theorem modWork_mem (k : Nat) (f : Pend → Pend) : (modWork k f s).mem = s.mem := rfl
@[simp] theorem modWork_realms (k : Nat) (f : Pend → Pend) : (modWork k f s).realms = s.realms := rfl
@[simp] theorem modWork_hosts (k : Nat) (f : Pend → Pend) : (modWork k f s).hosts = s.hosts := rfl
@[simp] theorem modWork_jobs (k : Nat) (f : Pend → Pend) : (modWork k f s).jobs = s.jobs := rfl
@[simp] theorem modWork_accCtr (k : Nat) (f : Pend → Pend) : (modWork k f s).accCtr = s.accCtr := rfl
@[simp] theorem modWork_lastServed (k : Nat) (f : Pend → Pend) : (modWork k f s).lastServed = s.lastServed := rfl
@[simp] theorem modWork_curtain (k : Nat) (f : Pend → Pend) : (modWork k f s).curtain = s.curtain := rfl
@[simp] theorem modWork_lastClass (k : Nat) (f : Pend → Pend) : (modWork k f s).lastClass = s.lastClass := rfl
@[simp] theorem modWork_mgrPort (k : Nat) (f : Pend → Pend) : (modWork k f s).mgrPort = s.mgrPort := rfl
@[simp] theorem modWork_tbUnits (k : Nat) (f : Pend → Pend) : (modWork k f s).tbUnits = s.tbUnits := rfl
@[simp] theorem modWork_ticks (k : Nat) (f : Pend → Pend) : (modWork k f s).ticks = s.ticks := rfl
@[simp] theorem modWork_refSys (k : Nat) (f : Pend → Pend) : (modWork k f s).refSys = s.refSys := rfl
@[simp] theorem modWork_dpx (k : Nat) (f : Pend → Pend) : (modWork k f s).dpx = s.dpx := rfl
@[simp] theorem modWork_engines (k : Nat) (f : Pend → Pend) : (modWork k f s).engines = s.engines := rfl
@[simp] theorem modWork_frame (k : Nat) (f : Pend → Pend) : (modWork k f s).frame = s.frame := rfl
@[simp] theorem modWork_isl (k : Nat) (f : Pend → Pend) : (modWork k f s).isl = s.isl := rfl
@[simp] theorem modWork_links (k : Nat) (f : Pend → Pend) : (modWork k f s).links = s.links := rfl
@[simp] theorem modWork_boot (k : Nat) (f : Pend → Pend) : (modWork k f s).boot = s.boot := rfl
@[simp] theorem modWork_lodging (k : Nat) (f : Pend → Pend) : (modWork k f s).lodging = s.lodging := rfl
@[simp] theorem modWork_attest (k : Nat) (f : Pend → Pend) : (modWork k f s).attest = s.attest := rfl
@[simp] theorem modWork_und (k : Nat) (f : Pend → Pend) : (modWork k f s).und = s.und := rfl
@[simp] theorem modWork_thm (k : Nat) (f : Pend → Pend) : (modWork k f s).thm = s.thm := rfl
@[simp] theorem modWork_time (k : Nat) (f : Pend → Pend) : (modWork k f s).time = s.time := rfl
@[simp] theorem modWork_ing (k : Nat) (f : Pend → Pend) : (modWork k f s).ing = s.ing := rfl
@[simp] theorem modWork_kept (k : Nat) (f : Pend → Pend) : (modWork k f s).kept = s.kept := rfl
@[simp] theorem modWork_opLog (k : Nat) (f : Pend → Pend) : (modWork k f s).opLog = s.opLog := rfl
@[simp] theorem regGet_modWork (k : Nat) (f : Pend → Pend) (j : Nat) : regGet (modWork k f s) j = regGet s j := rfl
@[simp] theorem actGet_modWork (k : Nat) (f : Pend → Pend) (j : Nat) : actGet (modWork k f s) j = actGet s j := rfl
@[simp] theorem shGet_modWork (k : Nat) (f : Pend → Pend) (j : Nat) : shGet (modWork k f s) j = shGet s j := rfl
@[simp] theorem portOf_modWork (k : Nat) (f : Pend → Pend) (q : Nat) : portOf (modWork k f s) q = portOf s q := rfl
@[simp] theorem ringOf_modWork (k : Nat) (f : Pend → Pend) (q n : Nat) : ringOf (modWork k f s) q n = ringOf s q n := rfl
@[simp] theorem realmOf_modWork (k : Nat) (f : Pend → Pend) (q : Nat) : realmOf (modWork k f s) q = realmOf s q := rfl
@[simp] theorem engineOf_modWork (k : Nat) (f : Pend → Pend) (q : Nat) : engineOf (modWork k f s) q = engineOf s q := rfl
@[simp] theorem findJob_modWork (k : Nat) (f : Pend → Pend) (n : Nat) : findJob (modWork k f s) n = findJob s n := rfl
@[simp] theorem hostByte_modWork (k : Nat) (f : Pend → Pend) (q n : Nat) : hostByte (modWork k f s) q n = hostByte s q n := rfl

/-! modChan -/

@[simp] theorem modChan_pending (c : Nat) (f : Channel → Channel) : (modChan c f s).pending = s.pending := rfl
@[simp] theorem modChan_freeCtr (c : Nat) (f : Channel → Channel) : (modChan c f s).freeCtr = s.freeCtr := rfl
@[simp] theorem modChan_lastRead (c : Nat) (f : Channel → Channel) : (modChan c f s).lastRead = s.lastRead := rfl
@[simp] theorem modChan_op (c : Nat) (f : Channel → Channel) : (modChan c f s).op = s.op := rfl
@[simp] theorem modChan_inDrive (c : Nat) (f : Channel → Channel) : (modChan c f s).inDrive = s.inDrive := rfl
@[simp] theorem modChan_reg (c : Nat) (f : Channel → Channel) : (modChan c f s).reg = s.reg := rfl
@[simp] theorem modChan_active (c : Nat) (f : Channel → Channel) : (modChan c f s).active = s.active := rfl
@[simp] theorem modChan_shadow (c : Nat) (f : Channel → Channel) : (modChan c f s).shadow = s.shadow := rfl
@[simp] theorem modChan_mem (c : Nat) (f : Channel → Channel) : (modChan c f s).mem = s.mem := rfl
@[simp] theorem modChan_realms (c : Nat) (f : Channel → Channel) : (modChan c f s).realms = s.realms := rfl
@[simp] theorem modChan_hosts (c : Nat) (f : Channel → Channel) : (modChan c f s).hosts = s.hosts := rfl
@[simp] theorem modChan_jobs (c : Nat) (f : Channel → Channel) : (modChan c f s).jobs = s.jobs := rfl
@[simp] theorem modChan_accCtr (c : Nat) (f : Channel → Channel) : (modChan c f s).accCtr = s.accCtr := rfl
@[simp] theorem modChan_lastServed (c : Nat) (f : Channel → Channel) : (modChan c f s).lastServed = s.lastServed := rfl
@[simp] theorem modChan_curtain (c : Nat) (f : Channel → Channel) : (modChan c f s).curtain = s.curtain := rfl
@[simp] theorem modChan_lastClass (c : Nat) (f : Channel → Channel) : (modChan c f s).lastClass = s.lastClass := rfl
@[simp] theorem modChan_mgrPort (c : Nat) (f : Channel → Channel) : (modChan c f s).mgrPort = s.mgrPort := rfl
@[simp] theorem modChan_tbUnits (c : Nat) (f : Channel → Channel) : (modChan c f s).tbUnits = s.tbUnits := rfl
@[simp] theorem modChan_ticks (c : Nat) (f : Channel → Channel) : (modChan c f s).ticks = s.ticks := rfl
@[simp] theorem modChan_refSys (c : Nat) (f : Channel → Channel) : (modChan c f s).refSys = s.refSys := rfl
@[simp] theorem modChan_dpx (c : Nat) (f : Channel → Channel) : (modChan c f s).dpx = s.dpx := rfl
@[simp] theorem modChan_engines (c : Nat) (f : Channel → Channel) : (modChan c f s).engines = s.engines := rfl
@[simp] theorem modChan_frame (c : Nat) (f : Channel → Channel) : (modChan c f s).frame = s.frame := rfl
@[simp] theorem modChan_isl (c : Nat) (f : Channel → Channel) : (modChan c f s).isl = s.isl := rfl
@[simp] theorem modChan_links (c : Nat) (f : Channel → Channel) : (modChan c f s).links = s.links := rfl
@[simp] theorem modChan_boot (c : Nat) (f : Channel → Channel) : (modChan c f s).boot = s.boot := rfl
@[simp] theorem modChan_lodging (c : Nat) (f : Channel → Channel) : (modChan c f s).lodging = s.lodging := rfl
@[simp] theorem modChan_attest (c : Nat) (f : Channel → Channel) : (modChan c f s).attest = s.attest := rfl
@[simp] theorem modChan_und (c : Nat) (f : Channel → Channel) : (modChan c f s).und = s.und := rfl
@[simp] theorem modChan_thm (c : Nat) (f : Channel → Channel) : (modChan c f s).thm = s.thm := rfl
@[simp] theorem modChan_time (c : Nat) (f : Channel → Channel) : (modChan c f s).time = s.time := rfl
@[simp] theorem modChan_ing (c : Nat) (f : Channel → Channel) : (modChan c f s).ing = s.ing := rfl
@[simp] theorem modChan_kept (c : Nat) (f : Channel → Channel) : (modChan c f s).kept = s.kept := rfl
@[simp] theorem modChan_opLog (c : Nat) (f : Channel → Channel) : (modChan c f s).opLog = s.opLog := rfl
@[simp] theorem regGet_modChan (c : Nat) (f : Channel → Channel) (j : Nat) : regGet (modChan c f s) j = regGet s j := rfl
@[simp] theorem actGet_modChan (c : Nat) (f : Channel → Channel) (j : Nat) : actGet (modChan c f s) j = actGet s j := rfl
@[simp] theorem shGet_modChan (c : Nat) (f : Channel → Channel) (j : Nat) : shGet (modChan c f s) j = shGet s j := rfl
@[simp] theorem portOf_modChan (c : Nat) (f : Channel → Channel) (q : Nat) : portOf (modChan c f s) q = portOf s q := rfl
@[simp] theorem ringOf_modChan (c : Nat) (f : Channel → Channel) (q n : Nat) : ringOf (modChan c f s) q n = ringOf s q n := rfl
@[simp] theorem realmOf_modChan (c : Nat) (f : Channel → Channel) (q : Nat) : realmOf (modChan c f s) q = realmOf s q := rfl
@[simp] theorem engineOf_modChan (c : Nat) (f : Channel → Channel) (q : Nat) : engineOf (modChan c f s) q = engineOf s q := rfl
@[simp] theorem findJob_modChan (c : Nat) (f : Channel → Channel) (n : Nat) : findJob (modChan c f s) n = findJob s n := rfl
@[simp] theorem hostByte_modChan (c : Nat) (f : Channel → Channel) (q n : Nat) : hostByte (modChan c f s) q n = hostByte s q n := rfl

/-! modEgo -/

@[simp] theorem modEgo_pending (f : Ego → Ego) : (modEgo f s).pending = s.pending := rfl
@[simp] theorem modEgo_freeCtr (f : Ego → Ego) : (modEgo f s).freeCtr = s.freeCtr := rfl
@[simp] theorem modEgo_lastRead (f : Ego → Ego) : (modEgo f s).lastRead = s.lastRead := rfl
@[simp] theorem modEgo_op (f : Ego → Ego) : (modEgo f s).op = s.op := rfl
@[simp] theorem modEgo_inDrive (f : Ego → Ego) : (modEgo f s).inDrive = s.inDrive := rfl
@[simp] theorem modEgo_reg (f : Ego → Ego) : (modEgo f s).reg = s.reg := rfl
@[simp] theorem modEgo_active (f : Ego → Ego) : (modEgo f s).active = s.active := rfl
@[simp] theorem modEgo_shadow (f : Ego → Ego) : (modEgo f s).shadow = s.shadow := rfl
@[simp] theorem modEgo_mem (f : Ego → Ego) : (modEgo f s).mem = s.mem := rfl
@[simp] theorem modEgo_realms (f : Ego → Ego) : (modEgo f s).realms = s.realms := rfl
@[simp] theorem modEgo_hosts (f : Ego → Ego) : (modEgo f s).hosts = s.hosts := rfl
@[simp] theorem modEgo_jobs (f : Ego → Ego) : (modEgo f s).jobs = s.jobs := rfl
@[simp] theorem modEgo_accCtr (f : Ego → Ego) : (modEgo f s).accCtr = s.accCtr := rfl
@[simp] theorem modEgo_lastServed (f : Ego → Ego) : (modEgo f s).lastServed = s.lastServed := rfl
@[simp] theorem modEgo_curtain (f : Ego → Ego) : (modEgo f s).curtain = s.curtain := rfl
@[simp] theorem modEgo_lastClass (f : Ego → Ego) : (modEgo f s).lastClass = s.lastClass := rfl
@[simp] theorem modEgo_mgrPort (f : Ego → Ego) : (modEgo f s).mgrPort = s.mgrPort := rfl
@[simp] theorem modEgo_tbUnits (f : Ego → Ego) : (modEgo f s).tbUnits = s.tbUnits := rfl
@[simp] theorem modEgo_ticks (f : Ego → Ego) : (modEgo f s).ticks = s.ticks := rfl
@[simp] theorem modEgo_refSys (f : Ego → Ego) : (modEgo f s).refSys = s.refSys := rfl
@[simp] theorem modEgo_dpx (f : Ego → Ego) : (modEgo f s).dpx = s.dpx := rfl
@[simp] theorem modEgo_engines (f : Ego → Ego) : (modEgo f s).engines = s.engines := rfl
@[simp] theorem modEgo_frame (f : Ego → Ego) : (modEgo f s).frame = s.frame := rfl
@[simp] theorem modEgo_isl (f : Ego → Ego) : (modEgo f s).isl = s.isl := rfl
@[simp] theorem modEgo_links (f : Ego → Ego) : (modEgo f s).links = s.links := rfl
@[simp] theorem modEgo_boot (f : Ego → Ego) : (modEgo f s).boot = s.boot := rfl
@[simp] theorem modEgo_lodging (f : Ego → Ego) : (modEgo f s).lodging = s.lodging := rfl
@[simp] theorem modEgo_attest (f : Ego → Ego) : (modEgo f s).attest = s.attest := rfl
@[simp] theorem modEgo_und (f : Ego → Ego) : (modEgo f s).und = s.und := rfl
@[simp] theorem modEgo_thm (f : Ego → Ego) : (modEgo f s).thm = s.thm := rfl
@[simp] theorem modEgo_time (f : Ego → Ego) : (modEgo f s).time = s.time := rfl
@[simp] theorem modEgo_ing (f : Ego → Ego) : (modEgo f s).ing = s.ing := rfl
@[simp] theorem modEgo_kept (f : Ego → Ego) : (modEgo f s).kept = s.kept := rfl
@[simp] theorem modEgo_opLog (f : Ego → Ego) : (modEgo f s).opLog = s.opLog := rfl
@[simp] theorem regGet_modEgo (f : Ego → Ego) (j : Nat) : regGet (modEgo f s) j = regGet s j := rfl
@[simp] theorem actGet_modEgo (f : Ego → Ego) (j : Nat) : actGet (modEgo f s) j = actGet s j := rfl
@[simp] theorem shGet_modEgo (f : Ego → Ego) (j : Nat) : shGet (modEgo f s) j = shGet s j := rfl
@[simp] theorem portOf_modEgo (f : Ego → Ego) (q : Nat) : portOf (modEgo f s) q = portOf s q := rfl
@[simp] theorem ringOf_modEgo (f : Ego → Ego) (q n : Nat) : ringOf (modEgo f s) q n = ringOf s q n := rfl
@[simp] theorem realmOf_modEgo (f : Ego → Ego) (q : Nat) : realmOf (modEgo f s) q = realmOf s q := rfl
@[simp] theorem engineOf_modEgo (f : Ego → Ego) (q : Nat) : engineOf (modEgo f s) q = engineOf s q := rfl
@[simp] theorem findJob_modEgo (f : Ego → Ego) (n : Nat) : findJob (modEgo f s) n = findJob s n := rfl
@[simp] theorem hostByte_modEgo (f : Ego → Ego) (q n : Nat) : hostByte (modEgo f s) q n = hostByte s q n := rfl

/-! modOut -/

@[simp] theorem modOut_pending (o : Nat) (f : OutStream → OutStream) : (modOut o f s).pending = s.pending := rfl
@[simp] theorem modOut_freeCtr (o : Nat) (f : OutStream → OutStream) : (modOut o f s).freeCtr = s.freeCtr := rfl
@[simp] theorem modOut_lastRead (o : Nat) (f : OutStream → OutStream) : (modOut o f s).lastRead = s.lastRead := rfl
@[simp] theorem modOut_op (o : Nat) (f : OutStream → OutStream) : (modOut o f s).op = s.op := rfl
@[simp] theorem modOut_inDrive (o : Nat) (f : OutStream → OutStream) : (modOut o f s).inDrive = s.inDrive := rfl
@[simp] theorem modOut_reg (o : Nat) (f : OutStream → OutStream) : (modOut o f s).reg = s.reg := rfl
@[simp] theorem modOut_active (o : Nat) (f : OutStream → OutStream) : (modOut o f s).active = s.active := rfl
@[simp] theorem modOut_shadow (o : Nat) (f : OutStream → OutStream) : (modOut o f s).shadow = s.shadow := rfl
@[simp] theorem modOut_mem (o : Nat) (f : OutStream → OutStream) : (modOut o f s).mem = s.mem := rfl
@[simp] theorem modOut_realms (o : Nat) (f : OutStream → OutStream) : (modOut o f s).realms = s.realms := rfl
@[simp] theorem modOut_hosts (o : Nat) (f : OutStream → OutStream) : (modOut o f s).hosts = s.hosts := rfl
@[simp] theorem modOut_jobs (o : Nat) (f : OutStream → OutStream) : (modOut o f s).jobs = s.jobs := rfl
@[simp] theorem modOut_accCtr (o : Nat) (f : OutStream → OutStream) : (modOut o f s).accCtr = s.accCtr := rfl
@[simp] theorem modOut_lastServed (o : Nat) (f : OutStream → OutStream) : (modOut o f s).lastServed = s.lastServed := rfl
@[simp] theorem modOut_curtain (o : Nat) (f : OutStream → OutStream) : (modOut o f s).curtain = s.curtain := rfl
@[simp] theorem modOut_lastClass (o : Nat) (f : OutStream → OutStream) : (modOut o f s).lastClass = s.lastClass := rfl
@[simp] theorem modOut_mgrPort (o : Nat) (f : OutStream → OutStream) : (modOut o f s).mgrPort = s.mgrPort := rfl
@[simp] theorem modOut_tbUnits (o : Nat) (f : OutStream → OutStream) : (modOut o f s).tbUnits = s.tbUnits := rfl
@[simp] theorem modOut_ticks (o : Nat) (f : OutStream → OutStream) : (modOut o f s).ticks = s.ticks := rfl
@[simp] theorem modOut_refSys (o : Nat) (f : OutStream → OutStream) : (modOut o f s).refSys = s.refSys := rfl
@[simp] theorem modOut_dpx (o : Nat) (f : OutStream → OutStream) : (modOut o f s).dpx = s.dpx := rfl
@[simp] theorem modOut_engines (o : Nat) (f : OutStream → OutStream) : (modOut o f s).engines = s.engines := rfl
@[simp] theorem modOut_frame (o : Nat) (f : OutStream → OutStream) : (modOut o f s).frame = s.frame := rfl
@[simp] theorem modOut_isl (o : Nat) (f : OutStream → OutStream) : (modOut o f s).isl = s.isl := rfl
@[simp] theorem modOut_links (o : Nat) (f : OutStream → OutStream) : (modOut o f s).links = s.links := rfl
@[simp] theorem modOut_boot (o : Nat) (f : OutStream → OutStream) : (modOut o f s).boot = s.boot := rfl
@[simp] theorem modOut_lodging (o : Nat) (f : OutStream → OutStream) : (modOut o f s).lodging = s.lodging := rfl
@[simp] theorem modOut_attest (o : Nat) (f : OutStream → OutStream) : (modOut o f s).attest = s.attest := rfl
@[simp] theorem modOut_und (o : Nat) (f : OutStream → OutStream) : (modOut o f s).und = s.und := rfl
@[simp] theorem modOut_thm (o : Nat) (f : OutStream → OutStream) : (modOut o f s).thm = s.thm := rfl
@[simp] theorem modOut_time (o : Nat) (f : OutStream → OutStream) : (modOut o f s).time = s.time := rfl
@[simp] theorem modOut_ing (o : Nat) (f : OutStream → OutStream) : (modOut o f s).ing = s.ing := rfl
@[simp] theorem modOut_kept (o : Nat) (f : OutStream → OutStream) : (modOut o f s).kept = s.kept := rfl
@[simp] theorem modOut_opLog (o : Nat) (f : OutStream → OutStream) : (modOut o f s).opLog = s.opLog := rfl
@[simp] theorem regGet_modOut (o : Nat) (f : OutStream → OutStream) (j : Nat) : regGet (modOut o f s) j = regGet s j := rfl
@[simp] theorem actGet_modOut (o : Nat) (f : OutStream → OutStream) (j : Nat) : actGet (modOut o f s) j = actGet s j := rfl
@[simp] theorem shGet_modOut (o : Nat) (f : OutStream → OutStream) (j : Nat) : shGet (modOut o f s) j = shGet s j := rfl
@[simp] theorem portOf_modOut (o : Nat) (f : OutStream → OutStream) (q : Nat) : portOf (modOut o f s) q = portOf s q := rfl
@[simp] theorem ringOf_modOut (o : Nat) (f : OutStream → OutStream) (q n : Nat) : ringOf (modOut o f s) q n = ringOf s q n := rfl
@[simp] theorem realmOf_modOut (o : Nat) (f : OutStream → OutStream) (q : Nat) : realmOf (modOut o f s) q = realmOf s q := rfl
@[simp] theorem engineOf_modOut (o : Nat) (f : OutStream → OutStream) (q : Nat) : engineOf (modOut o f s) q = engineOf s q := rfl
@[simp] theorem findJob_modOut (o : Nat) (f : OutStream → OutStream) (n : Nat) : findJob (modOut o f s) n = findJob s n := rfl
@[simp] theorem hostByte_modOut (o : Nat) (f : OutStream → OutStream) (q n : Nat) : hostByte (modOut o f s) q n = hostByte s q n := rfl

/-! modRecall -/

@[simp] theorem modRecall_pending (f : Recall → Recall) : (modRecall f s).pending = s.pending := rfl
@[simp] theorem modRecall_freeCtr (f : Recall → Recall) : (modRecall f s).freeCtr = s.freeCtr := rfl
@[simp] theorem modRecall_lastRead (f : Recall → Recall) : (modRecall f s).lastRead = s.lastRead := rfl
@[simp] theorem modRecall_op (f : Recall → Recall) : (modRecall f s).op = s.op := rfl
@[simp] theorem modRecall_inDrive (f : Recall → Recall) : (modRecall f s).inDrive = s.inDrive := rfl
@[simp] theorem modRecall_reg (f : Recall → Recall) : (modRecall f s).reg = s.reg := rfl
@[simp] theorem modRecall_active (f : Recall → Recall) : (modRecall f s).active = s.active := rfl
@[simp] theorem modRecall_shadow (f : Recall → Recall) : (modRecall f s).shadow = s.shadow := rfl
@[simp] theorem modRecall_mem (f : Recall → Recall) : (modRecall f s).mem = s.mem := rfl
@[simp] theorem modRecall_realms (f : Recall → Recall) : (modRecall f s).realms = s.realms := rfl
@[simp] theorem modRecall_hosts (f : Recall → Recall) : (modRecall f s).hosts = s.hosts := rfl
@[simp] theorem modRecall_jobs (f : Recall → Recall) : (modRecall f s).jobs = s.jobs := rfl
@[simp] theorem modRecall_accCtr (f : Recall → Recall) : (modRecall f s).accCtr = s.accCtr := rfl
@[simp] theorem modRecall_lastServed (f : Recall → Recall) : (modRecall f s).lastServed = s.lastServed := rfl
@[simp] theorem modRecall_curtain (f : Recall → Recall) : (modRecall f s).curtain = s.curtain := rfl
@[simp] theorem modRecall_lastClass (f : Recall → Recall) : (modRecall f s).lastClass = s.lastClass := rfl
@[simp] theorem modRecall_mgrPort (f : Recall → Recall) : (modRecall f s).mgrPort = s.mgrPort := rfl
@[simp] theorem modRecall_tbUnits (f : Recall → Recall) : (modRecall f s).tbUnits = s.tbUnits := rfl
@[simp] theorem modRecall_ticks (f : Recall → Recall) : (modRecall f s).ticks = s.ticks := rfl
@[simp] theorem modRecall_refSys (f : Recall → Recall) : (modRecall f s).refSys = s.refSys := rfl
@[simp] theorem modRecall_dpx (f : Recall → Recall) : (modRecall f s).dpx = s.dpx := rfl
@[simp] theorem modRecall_engines (f : Recall → Recall) : (modRecall f s).engines = s.engines := rfl
@[simp] theorem modRecall_frame (f : Recall → Recall) : (modRecall f s).frame = s.frame := rfl
@[simp] theorem modRecall_isl (f : Recall → Recall) : (modRecall f s).isl = s.isl := rfl
@[simp] theorem modRecall_links (f : Recall → Recall) : (modRecall f s).links = s.links := rfl
@[simp] theorem modRecall_boot (f : Recall → Recall) : (modRecall f s).boot = s.boot := rfl
@[simp] theorem modRecall_attest (f : Recall → Recall) : (modRecall f s).attest = s.attest := rfl
@[simp] theorem modRecall_und (f : Recall → Recall) : (modRecall f s).und = s.und := rfl
@[simp] theorem modRecall_thm (f : Recall → Recall) : (modRecall f s).thm = s.thm := rfl
@[simp] theorem modRecall_time (f : Recall → Recall) : (modRecall f s).time = s.time := rfl
@[simp] theorem modRecall_ing (f : Recall → Recall) : (modRecall f s).ing = s.ing := rfl
@[simp] theorem modRecall_fus (f : Recall → Recall) : (modRecall f s).fus = s.fus := rfl
@[simp] theorem modRecall_kept (f : Recall → Recall) : (modRecall f s).kept = s.kept := rfl
@[simp] theorem modRecall_opLog (f : Recall → Recall) : (modRecall f s).opLog = s.opLog := rfl
@[simp] theorem regGet_modRecall (f : Recall → Recall) (j : Nat) : regGet (modRecall f s) j = regGet s j := rfl
@[simp] theorem actGet_modRecall (f : Recall → Recall) (j : Nat) : actGet (modRecall f s) j = actGet s j := rfl
@[simp] theorem shGet_modRecall (f : Recall → Recall) (j : Nat) : shGet (modRecall f s) j = shGet s j := rfl
@[simp] theorem portOf_modRecall (f : Recall → Recall) (q : Nat) : portOf (modRecall f s) q = portOf s q := rfl
@[simp] theorem ringOf_modRecall (f : Recall → Recall) (q n : Nat) : ringOf (modRecall f s) q n = ringOf s q n := rfl
@[simp] theorem realmOf_modRecall (f : Recall → Recall) (q : Nat) : realmOf (modRecall f s) q = realmOf s q := rfl
@[simp] theorem engineOf_modRecall (f : Recall → Recall) (q : Nat) : engineOf (modRecall f s) q = engineOf s q := rfl
@[simp] theorem findJob_modRecall (f : Recall → Recall) (n : Nat) : findJob (modRecall f s) n = findJob s n := rfl
@[simp] theorem hostByte_modRecall (f : Recall → Recall) (q n : Nat) : hostByte (modRecall f s) q n = hostByte s q n := rfl

/-! realmWrite -/

@[simp] theorem realmWrite_pending (r a : Nat) (bs : List Byte) : (realmWrite r a bs s).pending = s.pending := by unfold realmWrite dmaWrite copyWrite; repeat' (first | rfl | split)
@[simp] theorem realmWrite_freeCtr (r a : Nat) (bs : List Byte) : (realmWrite r a bs s).freeCtr = s.freeCtr := by unfold realmWrite dmaWrite copyWrite; repeat' (first | rfl | split)
@[simp] theorem realmWrite_lastRead (r a : Nat) (bs : List Byte) : (realmWrite r a bs s).lastRead = s.lastRead := by unfold realmWrite dmaWrite copyWrite; repeat' (first | rfl | split)
@[simp] theorem realmWrite_op (r a : Nat) (bs : List Byte) : (realmWrite r a bs s).op = s.op := by unfold realmWrite dmaWrite copyWrite; repeat' (first | rfl | split)
@[simp] theorem realmWrite_inDrive (r a : Nat) (bs : List Byte) : (realmWrite r a bs s).inDrive = s.inDrive := by unfold realmWrite dmaWrite copyWrite; repeat' (first | rfl | split)
@[simp] theorem realmWrite_reg (r a : Nat) (bs : List Byte) : (realmWrite r a bs s).reg = s.reg := by unfold realmWrite dmaWrite copyWrite; repeat' (first | rfl | split)
@[simp] theorem realmWrite_active (r a : Nat) (bs : List Byte) : (realmWrite r a bs s).active = s.active := by unfold realmWrite dmaWrite copyWrite; repeat' (first | rfl | split)
@[simp] theorem realmWrite_shadow (r a : Nat) (bs : List Byte) : (realmWrite r a bs s).shadow = s.shadow := by unfold realmWrite dmaWrite copyWrite; repeat' (first | rfl | split)
@[simp] theorem realmWrite_realms (r a : Nat) (bs : List Byte) : (realmWrite r a bs s).realms = s.realms := by unfold realmWrite dmaWrite copyWrite; repeat' (first | rfl | split)
@[simp] theorem realmWrite_hosts (r a : Nat) (bs : List Byte) : (realmWrite r a bs s).hosts = s.hosts := by unfold realmWrite dmaWrite copyWrite; repeat' (first | rfl | split)
@[simp] theorem realmWrite_jobs (r a : Nat) (bs : List Byte) : (realmWrite r a bs s).jobs = s.jobs := by unfold realmWrite dmaWrite copyWrite; repeat' (first | rfl | split)
@[simp] theorem realmWrite_accCtr (r a : Nat) (bs : List Byte) : (realmWrite r a bs s).accCtr = s.accCtr := by unfold realmWrite dmaWrite copyWrite; repeat' (first | rfl | split)
@[simp] theorem realmWrite_lastServed (r a : Nat) (bs : List Byte) : (realmWrite r a bs s).lastServed = s.lastServed := by unfold realmWrite dmaWrite copyWrite; repeat' (first | rfl | split)
@[simp] theorem realmWrite_curtain (r a : Nat) (bs : List Byte) : (realmWrite r a bs s).curtain = s.curtain := by unfold realmWrite dmaWrite copyWrite; repeat' (first | rfl | split)
@[simp] theorem realmWrite_lastClass (r a : Nat) (bs : List Byte) : (realmWrite r a bs s).lastClass = s.lastClass := by unfold realmWrite dmaWrite copyWrite; repeat' (first | rfl | split)
@[simp] theorem realmWrite_mgrPort (r a : Nat) (bs : List Byte) : (realmWrite r a bs s).mgrPort = s.mgrPort := by unfold realmWrite dmaWrite copyWrite; repeat' (first | rfl | split)
@[simp] theorem realmWrite_tbUnits (r a : Nat) (bs : List Byte) : (realmWrite r a bs s).tbUnits = s.tbUnits := by unfold realmWrite dmaWrite copyWrite; repeat' (first | rfl | split)
@[simp] theorem realmWrite_ticks (r a : Nat) (bs : List Byte) : (realmWrite r a bs s).ticks = s.ticks := by unfold realmWrite dmaWrite copyWrite; repeat' (first | rfl | split)
@[simp] theorem realmWrite_refSys (r a : Nat) (bs : List Byte) : (realmWrite r a bs s).refSys = s.refSys := by unfold realmWrite dmaWrite copyWrite; repeat' (first | rfl | split)
@[simp] theorem realmWrite_dpx (r a : Nat) (bs : List Byte) : (realmWrite r a bs s).dpx = s.dpx := by unfold realmWrite dmaWrite copyWrite; repeat' (first | rfl | split)
@[simp] theorem realmWrite_engines (r a : Nat) (bs : List Byte) : (realmWrite r a bs s).engines = s.engines := by unfold realmWrite dmaWrite copyWrite; repeat' (first | rfl | split)
@[simp] theorem realmWrite_frame (r a : Nat) (bs : List Byte) : (realmWrite r a bs s).frame = s.frame := by unfold realmWrite dmaWrite copyWrite; repeat' (first | rfl | split)
@[simp] theorem realmWrite_isl (r a : Nat) (bs : List Byte) : (realmWrite r a bs s).isl = s.isl := by unfold realmWrite dmaWrite copyWrite; repeat' (first | rfl | split)
@[simp] theorem realmWrite_links (r a : Nat) (bs : List Byte) : (realmWrite r a bs s).links = s.links := by unfold realmWrite dmaWrite copyWrite; repeat' (first | rfl | split)
@[simp] theorem realmWrite_boot (r a : Nat) (bs : List Byte) : (realmWrite r a bs s).boot = s.boot := by unfold realmWrite dmaWrite copyWrite; repeat' (first | rfl | split)
@[simp] theorem realmWrite_lodging (r a : Nat) (bs : List Byte) : (realmWrite r a bs s).lodging = s.lodging := by unfold realmWrite dmaWrite copyWrite; repeat' (first | rfl | split)
@[simp] theorem realmWrite_attest (r a : Nat) (bs : List Byte) : (realmWrite r a bs s).attest = s.attest := by unfold realmWrite dmaWrite copyWrite; repeat' (first | rfl | split)
@[simp] theorem realmWrite_und (r a : Nat) (bs : List Byte) : (realmWrite r a bs s).und = s.und := by unfold realmWrite dmaWrite copyWrite; repeat' (first | rfl | split)
@[simp] theorem realmWrite_thm (r a : Nat) (bs : List Byte) : (realmWrite r a bs s).thm = s.thm := by unfold realmWrite dmaWrite copyWrite; repeat' (first | rfl | split)
@[simp] theorem realmWrite_time (r a : Nat) (bs : List Byte) : (realmWrite r a bs s).time = s.time := by unfold realmWrite dmaWrite copyWrite; repeat' (first | rfl | split)
@[simp] theorem realmWrite_ing (r a : Nat) (bs : List Byte) : (realmWrite r a bs s).ing = s.ing := by unfold realmWrite dmaWrite copyWrite; repeat' (first | rfl | split)
@[simp] theorem realmWrite_fus (r a : Nat) (bs : List Byte) : (realmWrite r a bs s).fus = s.fus := by unfold realmWrite dmaWrite copyWrite; repeat' (first | rfl | split)
@[simp] theorem realmWrite_kept (r a : Nat) (bs : List Byte) : (realmWrite r a bs s).kept = s.kept := by unfold realmWrite dmaWrite copyWrite; repeat' (first | rfl | split)
@[simp] theorem realmWrite_opLog (r a : Nat) (bs : List Byte) : (realmWrite r a bs s).opLog = s.opLog := by unfold realmWrite dmaWrite copyWrite; repeat' (first | rfl | split)
@[simp] theorem realmWrite_mem_room (r a : Nat) (bs : List Byte) : (realmWrite r a bs s).mem.room = s.mem.room := by unfold realmWrite dmaWrite copyWrite; repeat' (first | rfl | split)
@[simp] theorem realmWrite_mem_poisonRoom (r a : Nat) (bs : List Byte) : (realmWrite r a bs s).mem.poisonRoom = s.mem.poisonRoom := by unfold realmWrite dmaWrite copyWrite; repeat' (first | rfl | split)
@[simp] theorem realmWrite_mem_poisonDir (r a : Nat) (bs : List Byte) : (realmWrite r a bs s).mem.poisonDir = s.mem.poisonDir := by unfold realmWrite dmaWrite copyWrite; repeat' (first | rfl | split)
@[simp] theorem realmWrite_mem_poisonRaw (r a : Nat) (bs : List Byte) : (realmWrite r a bs s).mem.poisonRaw = s.mem.poisonRaw := by unfold realmWrite dmaWrite copyWrite; repeat' (first | rfl | split)
@[simp] theorem realmWrite_mem_dirs (r a : Nat) (bs : List Byte) : (realmWrite r a bs s).mem.dirs = s.mem.dirs := by unfold realmWrite dmaWrite copyWrite; repeat' (first | rfl | split)
@[simp] theorem realmWrite_mem_slotLimbo (r a : Nat) (bs : List Byte) : (realmWrite r a bs s).mem.slotLimbo = s.mem.slotLimbo := by unfold realmWrite dmaWrite copyWrite; repeat' (first | rfl | split)
@[simp] theorem realmWrite_mem_journal (r a : Nat) (bs : List Byte) : (realmWrite r a bs s).mem.journal = s.mem.journal := by unfold realmWrite dmaWrite copyWrite; repeat' (first | rfl | split)
@[simp] theorem realmWrite_mem_books (r a : Nat) (bs : List Byte) : (realmWrite r a bs s).mem.books = s.mem.books := by unfold realmWrite dmaWrite copyWrite; repeat' (first | rfl | split)
@[simp] theorem realmWrite_mem_shows (r a : Nat) (bs : List Byte) : (realmWrite r a bs s).mem.shows = s.mem.shows := by unfold realmWrite dmaWrite copyWrite; repeat' (first | rfl | split)
@[simp] theorem realmWrite_mem_erased (r a : Nat) (bs : List Byte) : (realmWrite r a bs s).mem.erased = s.mem.erased := by unfold realmWrite dmaWrite copyWrite; repeat' (first | rfl | split)
@[simp] theorem realmWrite_mem_initUnits (r a : Nat) (bs : List Byte) : (realmWrite r a bs s).mem.initUnits = s.mem.initUnits := by unfold realmWrite dmaWrite copyWrite; repeat' (first | rfl | split)
@[simp] theorem realmWrite_mem_scrubbed (r a : Nat) (bs : List Byte) : (realmWrite r a bs s).mem.scrubbed = s.mem.scrubbed := by unfold realmWrite dmaWrite copyWrite; repeat' (first | rfl | split)
@[simp] theorem regGet_realmWrite (r a : Nat) (bs : List Byte) (j : Nat) : regGet (realmWrite r a bs s) j = regGet s j := by unfold realmWrite dmaWrite copyWrite; repeat' (first | rfl | split)
@[simp] theorem actGet_realmWrite (r a : Nat) (bs : List Byte) (j : Nat) : actGet (realmWrite r a bs s) j = actGet s j := by unfold realmWrite dmaWrite copyWrite; repeat' (first | rfl | split)
@[simp] theorem shGet_realmWrite (r a : Nat) (bs : List Byte) (j : Nat) : shGet (realmWrite r a bs s) j = shGet s j := by unfold realmWrite dmaWrite copyWrite; repeat' (first | rfl | split)
@[simp] theorem portOf_realmWrite (r a : Nat) (bs : List Byte) (q : Nat) : portOf (realmWrite r a bs s) q = portOf s q := by unfold realmWrite dmaWrite copyWrite; repeat' (first | rfl | split)
@[simp] theorem ringOf_realmWrite (r a : Nat) (bs : List Byte) (q n : Nat) : ringOf (realmWrite r a bs s) q n = ringOf s q n := by unfold realmWrite dmaWrite copyWrite; repeat' (first | rfl | split)
@[simp] theorem realmOf_realmWrite (r a : Nat) (bs : List Byte) (q : Nat) : realmOf (realmWrite r a bs s) q = realmOf s q := by unfold realmWrite dmaWrite copyWrite; repeat' (first | rfl | split)
@[simp] theorem engineOf_realmWrite (r a : Nat) (bs : List Byte) (q : Nat) : engineOf (realmWrite r a bs s) q = engineOf s q := by unfold realmWrite dmaWrite copyWrite; repeat' (first | rfl | split)
@[simp] theorem findJob_realmWrite (r a : Nat) (bs : List Byte) (n : Nat) : findJob (realmWrite r a bs s) n = findJob s n := by unfold realmWrite dmaWrite copyWrite; repeat' (first | rfl | split)

/-! roomWrite -/

@[simp] theorem roomWrite_pending (r m o : Nat) (bs : List Byte) : (roomWrite r m o bs s).pending = s.pending := by unfold roomWrite roomCopyWrite; split <;> rfl
@[simp] theorem roomWrite_freeCtr (r m o : Nat) (bs : List Byte) : (roomWrite r m o bs s).freeCtr = s.freeCtr := by unfold roomWrite roomCopyWrite; split <;> rfl
@[simp] theorem roomWrite_lastRead (r m o : Nat) (bs : List Byte) : (roomWrite r m o bs s).lastRead = s.lastRead := by unfold roomWrite roomCopyWrite; split <;> rfl
@[simp] theorem roomWrite_op (r m o : Nat) (bs : List Byte) : (roomWrite r m o bs s).op = s.op := by unfold roomWrite roomCopyWrite; split <;> rfl
@[simp] theorem roomWrite_inDrive (r m o : Nat) (bs : List Byte) : (roomWrite r m o bs s).inDrive = s.inDrive := by unfold roomWrite roomCopyWrite; split <;> rfl
@[simp] theorem roomWrite_reg (r m o : Nat) (bs : List Byte) : (roomWrite r m o bs s).reg = s.reg := by unfold roomWrite roomCopyWrite; split <;> rfl
@[simp] theorem roomWrite_active (r m o : Nat) (bs : List Byte) : (roomWrite r m o bs s).active = s.active := by unfold roomWrite roomCopyWrite; split <;> rfl
@[simp] theorem roomWrite_shadow (r m o : Nat) (bs : List Byte) : (roomWrite r m o bs s).shadow = s.shadow := by unfold roomWrite roomCopyWrite; split <;> rfl
@[simp] theorem roomWrite_realms (r m o : Nat) (bs : List Byte) : (roomWrite r m o bs s).realms = s.realms := by unfold roomWrite roomCopyWrite; split <;> rfl
@[simp] theorem roomWrite_hosts (r m o : Nat) (bs : List Byte) : (roomWrite r m o bs s).hosts = s.hosts := by unfold roomWrite roomCopyWrite; split <;> rfl
@[simp] theorem roomWrite_jobs (r m o : Nat) (bs : List Byte) : (roomWrite r m o bs s).jobs = s.jobs := by unfold roomWrite roomCopyWrite; split <;> rfl
@[simp] theorem roomWrite_accCtr (r m o : Nat) (bs : List Byte) : (roomWrite r m o bs s).accCtr = s.accCtr := by unfold roomWrite roomCopyWrite; split <;> rfl
@[simp] theorem roomWrite_lastServed (r m o : Nat) (bs : List Byte) : (roomWrite r m o bs s).lastServed = s.lastServed := by unfold roomWrite roomCopyWrite; split <;> rfl
@[simp] theorem roomWrite_curtain (r m o : Nat) (bs : List Byte) : (roomWrite r m o bs s).curtain = s.curtain := by unfold roomWrite roomCopyWrite; split <;> rfl
@[simp] theorem roomWrite_lastClass (r m o : Nat) (bs : List Byte) : (roomWrite r m o bs s).lastClass = s.lastClass := by unfold roomWrite roomCopyWrite; split <;> rfl
@[simp] theorem roomWrite_mgrPort (r m o : Nat) (bs : List Byte) : (roomWrite r m o bs s).mgrPort = s.mgrPort := by unfold roomWrite roomCopyWrite; split <;> rfl
@[simp] theorem roomWrite_tbUnits (r m o : Nat) (bs : List Byte) : (roomWrite r m o bs s).tbUnits = s.tbUnits := by unfold roomWrite roomCopyWrite; split <;> rfl
@[simp] theorem roomWrite_ticks (r m o : Nat) (bs : List Byte) : (roomWrite r m o bs s).ticks = s.ticks := by unfold roomWrite roomCopyWrite; split <;> rfl
@[simp] theorem roomWrite_refSys (r m o : Nat) (bs : List Byte) : (roomWrite r m o bs s).refSys = s.refSys := by unfold roomWrite roomCopyWrite; split <;> rfl
@[simp] theorem roomWrite_dpx (r m o : Nat) (bs : List Byte) : (roomWrite r m o bs s).dpx = s.dpx := by unfold roomWrite roomCopyWrite; split <;> rfl
@[simp] theorem roomWrite_engines (r m o : Nat) (bs : List Byte) : (roomWrite r m o bs s).engines = s.engines := by unfold roomWrite roomCopyWrite; split <;> rfl
@[simp] theorem roomWrite_frame (r m o : Nat) (bs : List Byte) : (roomWrite r m o bs s).frame = s.frame := by unfold roomWrite roomCopyWrite; split <;> rfl
@[simp] theorem roomWrite_isl (r m o : Nat) (bs : List Byte) : (roomWrite r m o bs s).isl = s.isl := by unfold roomWrite roomCopyWrite; split <;> rfl
@[simp] theorem roomWrite_links (r m o : Nat) (bs : List Byte) : (roomWrite r m o bs s).links = s.links := by unfold roomWrite roomCopyWrite; split <;> rfl
@[simp] theorem roomWrite_boot (r m o : Nat) (bs : List Byte) : (roomWrite r m o bs s).boot = s.boot := by unfold roomWrite roomCopyWrite; split <;> rfl
@[simp] theorem roomWrite_lodging (r m o : Nat) (bs : List Byte) : (roomWrite r m o bs s).lodging = s.lodging := by unfold roomWrite roomCopyWrite; split <;> rfl
@[simp] theorem roomWrite_attest (r m o : Nat) (bs : List Byte) : (roomWrite r m o bs s).attest = s.attest := by unfold roomWrite roomCopyWrite; split <;> rfl
@[simp] theorem roomWrite_und (r m o : Nat) (bs : List Byte) : (roomWrite r m o bs s).und = s.und := by unfold roomWrite roomCopyWrite; split <;> rfl
@[simp] theorem roomWrite_thm (r m o : Nat) (bs : List Byte) : (roomWrite r m o bs s).thm = s.thm := by unfold roomWrite roomCopyWrite; split <;> rfl
@[simp] theorem roomWrite_time (r m o : Nat) (bs : List Byte) : (roomWrite r m o bs s).time = s.time := by unfold roomWrite roomCopyWrite; split <;> rfl
@[simp] theorem roomWrite_ing (r m o : Nat) (bs : List Byte) : (roomWrite r m o bs s).ing = s.ing := by unfold roomWrite roomCopyWrite; split <;> rfl
@[simp] theorem roomWrite_fus (r m o : Nat) (bs : List Byte) : (roomWrite r m o bs s).fus = s.fus := by unfold roomWrite roomCopyWrite; split <;> rfl
@[simp] theorem roomWrite_kept (r m o : Nat) (bs : List Byte) : (roomWrite r m o bs s).kept = s.kept := by unfold roomWrite roomCopyWrite; split <;> rfl
@[simp] theorem roomWrite_opLog (r m o : Nat) (bs : List Byte) : (roomWrite r m o bs s).opLog = s.opLog := by unfold roomWrite roomCopyWrite; split <;> rfl
@[simp] theorem roomWrite_mem_host (r m o : Nat) (bs : List Byte) : (roomWrite r m o bs s).mem.host = s.mem.host := by unfold roomWrite roomCopyWrite; split <;> rfl
@[simp] theorem roomWrite_mem_win (r m o : Nat) (bs : List Byte) : (roomWrite r m o bs s).mem.win = s.mem.win := by unfold roomWrite roomCopyWrite; split <;> rfl
@[simp] theorem roomWrite_mem_poisonWin (r m o : Nat) (bs : List Byte) : (roomWrite r m o bs s).mem.poisonWin = s.mem.poisonWin := by unfold roomWrite roomCopyWrite; split <;> rfl
@[simp] theorem roomWrite_mem_poisonDir (r m o : Nat) (bs : List Byte) : (roomWrite r m o bs s).mem.poisonDir = s.mem.poisonDir := by unfold roomWrite roomCopyWrite; split <;> rfl
@[simp] theorem roomWrite_mem_poisonRaw (r m o : Nat) (bs : List Byte) : (roomWrite r m o bs s).mem.poisonRaw = s.mem.poisonRaw := by unfold roomWrite roomCopyWrite; split <;> rfl
@[simp] theorem roomWrite_mem_dirs (r m o : Nat) (bs : List Byte) : (roomWrite r m o bs s).mem.dirs = s.mem.dirs := by unfold roomWrite roomCopyWrite; split <;> rfl
@[simp] theorem roomWrite_mem_slotLimbo (r m o : Nat) (bs : List Byte) : (roomWrite r m o bs s).mem.slotLimbo = s.mem.slotLimbo := by unfold roomWrite roomCopyWrite; split <;> rfl
@[simp] theorem roomWrite_mem_journal (r m o : Nat) (bs : List Byte) : (roomWrite r m o bs s).mem.journal = s.mem.journal := by unfold roomWrite roomCopyWrite; split <;> rfl
@[simp] theorem roomWrite_mem_books (r m o : Nat) (bs : List Byte) : (roomWrite r m o bs s).mem.books = s.mem.books := by unfold roomWrite roomCopyWrite; split <;> rfl
@[simp] theorem roomWrite_mem_shows (r m o : Nat) (bs : List Byte) : (roomWrite r m o bs s).mem.shows = s.mem.shows := by unfold roomWrite roomCopyWrite; split <;> rfl
@[simp] theorem roomWrite_mem_erased (r m o : Nat) (bs : List Byte) : (roomWrite r m o bs s).mem.erased = s.mem.erased := by unfold roomWrite roomCopyWrite; split <;> rfl
@[simp] theorem roomWrite_mem_initUnits (r m o : Nat) (bs : List Byte) : (roomWrite r m o bs s).mem.initUnits = s.mem.initUnits := by unfold roomWrite roomCopyWrite; split <;> rfl
@[simp] theorem roomWrite_mem_scrubbed (r m o : Nat) (bs : List Byte) : (roomWrite r m o bs s).mem.scrubbed = s.mem.scrubbed := by unfold roomWrite roomCopyWrite; split <;> rfl
@[simp] theorem regGet_roomWrite (r m o : Nat) (bs : List Byte) (j : Nat) : regGet (roomWrite r m o bs s) j = regGet s j := by unfold roomWrite roomCopyWrite; split <;> rfl
@[simp] theorem actGet_roomWrite (r m o : Nat) (bs : List Byte) (j : Nat) : actGet (roomWrite r m o bs s) j = actGet s j := by unfold roomWrite roomCopyWrite; split <;> rfl
@[simp] theorem shGet_roomWrite (r m o : Nat) (bs : List Byte) (j : Nat) : shGet (roomWrite r m o bs s) j = shGet s j := by unfold roomWrite roomCopyWrite; split <;> rfl
@[simp] theorem portOf_roomWrite (r m o : Nat) (bs : List Byte) (q : Nat) : portOf (roomWrite r m o bs s) q = portOf s q := by unfold roomWrite roomCopyWrite; split <;> rfl
@[simp] theorem ringOf_roomWrite (r m o : Nat) (bs : List Byte) (q n : Nat) : ringOf (roomWrite r m o bs s) q n = ringOf s q n := by unfold roomWrite roomCopyWrite; split <;> rfl
@[simp] theorem realmOf_roomWrite (r m o : Nat) (bs : List Byte) (q : Nat) : realmOf (roomWrite r m o bs s) q = realmOf s q := by unfold roomWrite roomCopyWrite; split <;> rfl
@[simp] theorem engineOf_roomWrite (r m o : Nat) (bs : List Byte) (q : Nat) : engineOf (roomWrite r m o bs s) q = engineOf s q := by unfold roomWrite roomCopyWrite; split <;> rfl
@[simp] theorem findJob_roomWrite (r m o : Nat) (bs : List Byte) (n : Nat) : findJob (roomWrite r m o bs s) n = findJob s n := by unfold roomWrite roomCopyWrite; split <;> rfl
@[simp] theorem hostByte_roomWrite (r m o : Nat) (bs : List Byte) (q n : Nat) : hostByte (roomWrite r m o bs s) q n = hostByte s q n := by unfold roomWrite roomCopyWrite; split <;> rfl

/-! modRoom -/

@[simp] theorem modRoom_pending (r m : Nat) (f : Room → Room) : (modRoom r m f s).pending = s.pending := rfl
@[simp] theorem modRoom_freeCtr (r m : Nat) (f : Room → Room) : (modRoom r m f s).freeCtr = s.freeCtr := rfl
@[simp] theorem modRoom_lastRead (r m : Nat) (f : Room → Room) : (modRoom r m f s).lastRead = s.lastRead := rfl
@[simp] theorem modRoom_op (r m : Nat) (f : Room → Room) : (modRoom r m f s).op = s.op := rfl
@[simp] theorem modRoom_inDrive (r m : Nat) (f : Room → Room) : (modRoom r m f s).inDrive = s.inDrive := rfl
@[simp] theorem modRoom_reg (r m : Nat) (f : Room → Room) : (modRoom r m f s).reg = s.reg := rfl
@[simp] theorem modRoom_active (r m : Nat) (f : Room → Room) : (modRoom r m f s).active = s.active := rfl
@[simp] theorem modRoom_shadow (r m : Nat) (f : Room → Room) : (modRoom r m f s).shadow = s.shadow := rfl
@[simp] theorem modRoom_realms (r m : Nat) (f : Room → Room) : (modRoom r m f s).realms = s.realms := rfl
@[simp] theorem modRoom_hosts (r m : Nat) (f : Room → Room) : (modRoom r m f s).hosts = s.hosts := rfl
@[simp] theorem modRoom_jobs (r m : Nat) (f : Room → Room) : (modRoom r m f s).jobs = s.jobs := rfl
@[simp] theorem modRoom_accCtr (r m : Nat) (f : Room → Room) : (modRoom r m f s).accCtr = s.accCtr := rfl
@[simp] theorem modRoom_lastServed (r m : Nat) (f : Room → Room) : (modRoom r m f s).lastServed = s.lastServed := rfl
@[simp] theorem modRoom_curtain (r m : Nat) (f : Room → Room) : (modRoom r m f s).curtain = s.curtain := rfl
@[simp] theorem modRoom_lastClass (r m : Nat) (f : Room → Room) : (modRoom r m f s).lastClass = s.lastClass := rfl
@[simp] theorem modRoom_mgrPort (r m : Nat) (f : Room → Room) : (modRoom r m f s).mgrPort = s.mgrPort := rfl
@[simp] theorem modRoom_tbUnits (r m : Nat) (f : Room → Room) : (modRoom r m f s).tbUnits = s.tbUnits := rfl
@[simp] theorem modRoom_ticks (r m : Nat) (f : Room → Room) : (modRoom r m f s).ticks = s.ticks := rfl
@[simp] theorem modRoom_refSys (r m : Nat) (f : Room → Room) : (modRoom r m f s).refSys = s.refSys := rfl
@[simp] theorem modRoom_dpx (r m : Nat) (f : Room → Room) : (modRoom r m f s).dpx = s.dpx := rfl
@[simp] theorem modRoom_engines (r m : Nat) (f : Room → Room) : (modRoom r m f s).engines = s.engines := rfl
@[simp] theorem modRoom_frame (r m : Nat) (f : Room → Room) : (modRoom r m f s).frame = s.frame := rfl
@[simp] theorem modRoom_isl (r m : Nat) (f : Room → Room) : (modRoom r m f s).isl = s.isl := rfl
@[simp] theorem modRoom_links (r m : Nat) (f : Room → Room) : (modRoom r m f s).links = s.links := rfl
@[simp] theorem modRoom_boot (r m : Nat) (f : Room → Room) : (modRoom r m f s).boot = s.boot := rfl
@[simp] theorem modRoom_lodging (r m : Nat) (f : Room → Room) : (modRoom r m f s).lodging = s.lodging := rfl
@[simp] theorem modRoom_attest (r m : Nat) (f : Room → Room) : (modRoom r m f s).attest = s.attest := rfl
@[simp] theorem modRoom_und (r m : Nat) (f : Room → Room) : (modRoom r m f s).und = s.und := rfl
@[simp] theorem modRoom_thm (r m : Nat) (f : Room → Room) : (modRoom r m f s).thm = s.thm := rfl
@[simp] theorem modRoom_time (r m : Nat) (f : Room → Room) : (modRoom r m f s).time = s.time := rfl
@[simp] theorem modRoom_ing (r m : Nat) (f : Room → Room) : (modRoom r m f s).ing = s.ing := rfl
@[simp] theorem modRoom_fus (r m : Nat) (f : Room → Room) : (modRoom r m f s).fus = s.fus := rfl
@[simp] theorem modRoom_kept (r m : Nat) (f : Room → Room) : (modRoom r m f s).kept = s.kept := rfl
@[simp] theorem modRoom_opLog (r m : Nat) (f : Room → Room) : (modRoom r m f s).opLog = s.opLog := rfl
@[simp] theorem modRoom_mem_host (r m : Nat) (f : Room → Room) : (modRoom r m f s).mem.host = s.mem.host := rfl
@[simp] theorem modRoom_mem_win (r m : Nat) (f : Room → Room) : (modRoom r m f s).mem.win = s.mem.win := rfl
@[simp] theorem modRoom_mem_room (r m : Nat) (f : Room → Room) : (modRoom r m f s).mem.room = s.mem.room := rfl
@[simp] theorem modRoom_mem_poisonWin (r m : Nat) (f : Room → Room) : (modRoom r m f s).mem.poisonWin = s.mem.poisonWin := rfl
@[simp] theorem modRoom_mem_poisonRoom (r m : Nat) (f : Room → Room) : (modRoom r m f s).mem.poisonRoom = s.mem.poisonRoom := rfl
@[simp] theorem modRoom_mem_poisonDir (r m : Nat) (f : Room → Room) : (modRoom r m f s).mem.poisonDir = s.mem.poisonDir := rfl
@[simp] theorem modRoom_mem_poisonRaw (r m : Nat) (f : Room → Room) : (modRoom r m f s).mem.poisonRaw = s.mem.poisonRaw := rfl
@[simp] theorem modRoom_mem_slotLimbo (r m : Nat) (f : Room → Room) : (modRoom r m f s).mem.slotLimbo = s.mem.slotLimbo := rfl
@[simp] theorem modRoom_mem_journal (r m : Nat) (f : Room → Room) : (modRoom r m f s).mem.journal = s.mem.journal := rfl
@[simp] theorem modRoom_mem_books (r m : Nat) (f : Room → Room) : (modRoom r m f s).mem.books = s.mem.books := rfl
@[simp] theorem modRoom_mem_shows (r m : Nat) (f : Room → Room) : (modRoom r m f s).mem.shows = s.mem.shows := rfl
@[simp] theorem modRoom_mem_erased (r m : Nat) (f : Room → Room) : (modRoom r m f s).mem.erased = s.mem.erased := rfl
@[simp] theorem modRoom_mem_initUnits (r m : Nat) (f : Room → Room) : (modRoom r m f s).mem.initUnits = s.mem.initUnits := rfl
@[simp] theorem modRoom_mem_scrubbed (r m : Nat) (f : Room → Room) : (modRoom r m f s).mem.scrubbed = s.mem.scrubbed := rfl
@[simp] theorem regGet_modRoom (r m : Nat) (f : Room → Room) (j : Nat) : regGet (modRoom r m f s) j = regGet s j := rfl
@[simp] theorem actGet_modRoom (r m : Nat) (f : Room → Room) (j : Nat) : actGet (modRoom r m f s) j = actGet s j := rfl
@[simp] theorem shGet_modRoom (r m : Nat) (f : Room → Room) (j : Nat) : shGet (modRoom r m f s) j = shGet s j := rfl
@[simp] theorem portOf_modRoom (r m : Nat) (f : Room → Room) (q : Nat) : portOf (modRoom r m f s) q = portOf s q := rfl
@[simp] theorem ringOf_modRoom (r m : Nat) (f : Room → Room) (q n : Nat) : ringOf (modRoom r m f s) q n = ringOf s q n := rfl
@[simp] theorem realmOf_modRoom (r m : Nat) (f : Room → Room) (q : Nat) : realmOf (modRoom r m f s) q = realmOf s q := rfl
@[simp] theorem engineOf_modRoom (r m : Nat) (f : Room → Room) (q : Nat) : engineOf (modRoom r m f s) q = engineOf s q := rfl
@[simp] theorem findJob_modRoom (r m : Nat) (f : Room → Room) (n : Nat) : findJob (modRoom r m f s) n = findJob s n := rfl
@[simp] theorem hostByte_modRoom (r m : Nat) (f : Room → Room) (q n : Nat) : hostByte (modRoom r m f s) q n = hostByte s q n := rfl

/-! What an accessor reads after the update it belongs to -/

@[simp] theorem regGet_regSet_self (k v : Nat) : regGet (regSet k v s) k = v := tget_tset_self ..
theorem regGet_regSet_ne {j k : Nat} (v : Nat) (h : j ≠ k) : regGet (regSet k v s) j = regGet s j := tget_tset_ne _ _ v h _
theorem regGet_regSet (j k v : Nat) : regGet (regSet k v s) j = if j = k then v else regGet s j := by
  split
  · subst_vars; simp
  · exact regGet_regSet_ne s v ‹_›
@[simp] theorem regGet_regMod_self (k : Nat) (f : Nat → Nat) : regGet (regMod k f s) k = f (regGet s k) := regGet_regSet_self ..
theorem regGet_regMod_ne {j k : Nat} (f : Nat → Nat) (h : j ≠ k) : regGet (regMod k f s) j = regGet s j := regGet_regSet_ne s _ h
@[simp] theorem regGet_regInc_self (k : Nat) : regGet (regInc k s) k = satInc max32 (regGet s k) := regGet_regSet_self ..
theorem regGet_regInc_ne {j k : Nat} (h : j ≠ k) : regGet (regInc k s) j = regGet s j := regGet_regSet_ne s _ h
@[simp] theorem actGet_actSet_self (k v : Nat) : actGet (actSet k v s) k = v := tget_tset_self ..
theorem actGet_actSet_ne {j k : Nat} (v : Nat) (h : j ≠ k) : actGet (actSet k v s) j = actGet s j := tget_tset_ne _ _ v h _
@[simp] theorem shGet_shSet_self (k v : Nat) : shGet (shSet k v s) k = v := tget_tset_self ..
theorem shGet_shSet_ne {j k : Nat} (v : Nat) (h : j ≠ k) : shGet (shSet k v s) j = shGet s j := tget_tset_ne _ _ v h _
@[simp] theorem portOf_modPort_self (p : Nat) (f : HostPort → HostPort) : portOf (modPort p f s) p = f (portOf s p) := tget_tmod_self ..
theorem portOf_modPort_ne {p q : Nat} (f : HostPort → HostPort) (h : q ≠ p) : portOf (modPort p f s) q = portOf s q :=
  tget_tmod_ne _ _ f h _
@[simp] theorem realmOf_modRealm_self (r : Nat) (f : Realm → Realm) : realmOf (modRealm r f s) r = f (realmOf s r) := tget_tmod_self ..
theorem realmOf_modRealm_ne {r q : Nat} (f : Realm → Realm) (h : q ≠ r) : realmOf (modRealm r f s) q = realmOf s q :=
  tget_tmod_ne _ _ f h _
@[simp] theorem engineOf_modEngine_self (d : Nat) (f : Engine → Engine) : engineOf (modEngine d f s) d = f (engineOf s d) := tget_tmod_self ..
theorem engineOf_modEngine_ne {d q : Nat} (f : Engine → Engine) (h : q ≠ d) : engineOf (modEngine d f s) q = engineOf s q :=
  tget_tmod_ne _ _ f h _
@[simp] theorem ringOf_modRing_self (p i : Nat) (f : Ring → Ring) : ringOf (modRing p i f s) p i = f (ringOf s p i) := by
  simp [ringOf, modRing]
@[simp] theorem setOp_op_eq (o : OpState) : (setOp o s).op = o := rfl

end Sys2Proof.Machine
end

