-- ==== Sys2Proof/Laws/Ops.lean ====
section
/-! SUPPORT. What the shared operations can do, said once: host memory reads back what is written and keeps every other byte; an event record
changes nothing but the ports' bookkeeping, event rings and the last fault class; a completion takes its job away. -/

namespace Sys2Proof.Machine

variable {s t u : State}

/-! Bytes -/

@[simp] theorem leBytes_length (n v : Nat) : (leBytes n v).length = n := by
  induction n generalizing v with
  | zero => rfl
  | succ n ih => simp [leBytes, ih]

@[simp] theorem zeros_length (n : Nat) : (zeros n).length = n := by simp [zeros]

/-! Writing bytes one by one -/

/-- A key no byte is written at reads as before. -/
theorem tget_writes_ne {β : Type} (key : β → Nat) (val : β → Byte) (l : List β) {k : Nat} (m : List Host.Cell) (h : ∀ x ∈ l, k ≠ key x) :
    tget (0 : Byte) k (l.foldl (fun m p => tset 0 (key p) (val p) m) m) = tget 0 k m := by
  induction l generalizing m with
  | nil => rfl
  | cons x l ih =>
    rw [List.foldl_cons, ih _ fun y hy => h y (List.mem_cons_of_mem _ hy), tget_tset_ne _ _ _ (h x (List.mem_cons_self ..))]

/-- A byte of the host that none of the written addresses reaches reads as before. -/
theorem hostWrite_ne {p a k : Nat} {bs : List Byte} (h : ∀ i < bs.length, k ≠ hostKey p (a + i)) :
    tget (0 : Byte) k (hostWrite p a bs s).mem.host = tget 0 k s.mem.host :=
  tget_writes_ne (fun q : Byte × Nat => hostKey p (a + q.2)) (fun q => q.1) _ _ fun x hx => by
    have := List.snd_lt_of_mem_zipIdx hx
    exact h x.2 (by omega)

/-- The last byte written at a key is read there, where no two bytes are written at one key. -/
theorem tget_writes_mem {β : Type} (key : β → Nat) (val : β → Byte) (l : List β) {x : β} (m : List Host.Cell)
    (hd : l.Pairwise fun a b => key a ≠ key b) (hx : x ∈ l) :
    tget (0 : Byte) (key x) (l.foldl (fun m p => tset 0 (key p) (val p) m) m) = val x := by
  induction l generalizing m with
  | nil => cases hx
  | cons y l ih =>
    rw [List.foldl_cons]
    rcases List.mem_cons.1 hx with rfl | hx
    · rw [tget_writes_ne key val l _ (List.pairwise_cons.1 hd).1, tget_tset_self]
    · exact ih _ (List.pairwise_cons.1 hd).2 hx

/-- Bytes written from a key read back. -/
theorem memRead_memWrite (m : List Host.Cell) (k : Nat) (bs : List Byte) : memRead (memWrite k bs m) k bs.length = bs := by
  apply List.ext_getElem (by simp [memRead])
  intro i h1 h2
  have hd : bs.zipIdx.Pairwise fun a b => k + a.2 ≠ k + b.2 := by
    rw [List.pairwise_iff_getElem]
    intro i j hi hj hij
    simp
    omega
  have hx : (bs[i], i) ∈ bs.zipIdx := by
    rw [List.mk_mem_zipIdx_iff_getElem?]
    simp [h2]
  have := tget_writes_mem (fun p : Byte × Nat => k + p.2) (fun p => p.1) _ m hd hx
  simpa [memRead, memWrite] using this

/-- Bytes below or above the written ones read as before. -/
theorem memRead_memWrite_ne (m : List Host.Cell) (k a n : Nat) (bs : List Byte) (h : a + n ≤ k ∨ k + bs.length ≤ a) :
    memRead (memWrite k bs m) a n = memRead m a n := by
  unfold memRead
  refine List.map_congr_left fun i hi => ?_
  have hi := List.mem_range.1 hi
  exact tget_writes_ne (fun p : Byte × Nat => k + p.2) (fun p => p.1) _ _ fun x hx => by
    have := List.snd_lt_of_mem_zipIdx hx
    omega

/-- Bytes written to a host below 2^64 read back. -/
theorem hostRead_hostWrite (p a : Nat) (bs : List Byte) (h : a % 2 ^ 64 + bs.length ≤ 2 ^ 64) :
    hostRead (hostWrite p a bs s) p a bs.length = bs := by
  apply List.ext_getElem (by simp [hostRead])
  intro i h1 h2
  have hk : ∀ i, i < bs.length → hostKey p (a + i) = 2 ^ 64 * p + (a % 2 ^ 64 + i) := by
    intro i hi
    unfold hostKey
    omega
  have hd : bs.zipIdx.Pairwise fun x y => hostKey p (a + x.2) ≠ hostKey p (a + y.2) := by
    rw [List.pairwise_iff_getElem]
    intro i j hi hj hij
    simp only [List.length_zipIdx] at hi hj
    simp only [List.getElem_zipIdx]
    rw [hk _ (by omega), hk _ (by omega)]
    omega
  have hx : (bs[i], i) ∈ bs.zipIdx := by
    rw [List.mk_mem_zipIdx_iff_getElem?]
    simp [h2]
  have := tget_writes_mem (fun q : Byte × Nat => hostKey p (a + q.2)) (fun q => q.1) _ s.mem.host hd hx
  simpa [hostRead, hostWrite] using this

/-! Event records -/

theorem Told.refl (s : State) : Told s s := ⟨_, _, _, rfl⟩
theorem Told.trans (h : Told s t) (h' : Told t u) : Told s u := by
  obtain ⟨a, b, c, rfl⟩ := h
  obtain ⟨a', b', c', rfl⟩ := h'
  exact ⟨_, _, _, rfl⟩

theorem modPort_told (p : Nat) (f : HostPort → HostPort) (s : State) : Told s (modPort p f s) := ⟨_, _, _, rfl⟩
theorem hostWrite_told (p a : Nat) (bs : List Byte) (s : State) : Told s (hostWrite p a bs s) := ⟨_, _, _, rfl⟩
theorem putRecord_told (p : Nat) (bs : List Byte) (attn : Bool) (s : State) : Told s (putRecord p bs attn s) := ⟨_, _, _, rfl⟩
theorem flushGap_told (p : Nat) (s : State) : Told s (flushGap p s) := by
  unfold flushGap
  split
  · exact .refl s
  · split
    · exact (putRecord_told ..).trans (modPort_told ..)
    · exact .refl s
theorem countDropped_told (p : Nat) (s : State) : Told s (countDropped p s) := modPort_told ..
theorem loseEvent_told (p : Nat) (s : State) : Told s (loseEvent p s) := (modPort_told ..).trans (countDropped_told ..)
theorem sendEvent_told (p : Nat) (e : Ev) (s : State) : Told s (sendEvent p e s) := by
  unfold sendEvent
  split
  · exact countDropped_told ..
  · split
    · exact countDropped_told ..
    · dsimp only
      split
      · exact (flushGap_told ..).trans (putRecord_told ..)
      · exact (flushGap_told ..).trans (loseEvent_told ..)
theorem foldl_told {α : Type} {f : State → α → State} (l : List α) (s : State) (hf : ∀ s x, Told s (f s x)) : Told s (l.foldl f s) := by
  induction l generalizing s with
  | nil => exact .refl s
  | cons x l ih => exact (hf s x).trans (ih _)

/-- An event delivered changes nothing but the ports' bookkeeping, the hosts' memory and the class of the last fault record. -/
theorem raise_told (d : EvDest) (e : Ev) (s : State) : Told s (raise d e s) := by
  have h : Told s (if 1 ≤ e.cls then { s with lastClass := e.cls } else s) := by
    split
    · exact ⟨_, _, _, rfl⟩
    · exact .refl s
  exact h.trans (foldl_told _ _ fun s p => sendEvent_told p e s)

theorem evBytes_length (s : State) (p idx : Nat) (e : Ev) : (evBytes s p idx e).length = 32 := by
  simp [evBytes]
theorem gapBytes_length (s : State) (p idx : Nat) (g : Gap) : (gapBytes s p idx g).length = 32 := by
  simp [gapBytes]

theorem inEventRing_told (h : Told s t) (k : Nat) : inEventRing t k ↔ inEventRing s k := by
  obtain ⟨a, b, c, rfl⟩ := h
  exact Iff.rfl
theorem OnlyEventRings.refl (s : State) : OnlyEventRings s s := fun _ _ => rfl
theorem OnlyEventRings.trans (h : OnlyEventRings s t) (ht : Told s t) (h' : OnlyEventRings t u) : OnlyEventRings s u :=
  fun k hk => (h' k fun x => hk ((inEventRing_told ht k).1 x)).trans (h k hk)

theorem putRecord_ring (p : Nat) {bs : List Byte} (hl : bs.length = 32) (attn : Bool) (s : State) : OnlyEventRings s (putRecord p bs attn s) := by
  intro k hk
  refine hostWrite_ne (s := s) fun i hi he => hk ⟨p, 32 * ((portOf s p).evtProducer % evtEntries s p) + i, ?_, by rw [he, Nat.add_assoc]⟩
  have : (portOf s p).evtProducer % evtEntries s p < evtEntries s p := Nat.mod_lt _ (Nat.two_pow_pos _)
  omega
theorem flushGap_ring (p : Nat) (s : State) : OnlyEventRings s (flushGap p s) := by
  unfold flushGap
  split
  · exact .refl s
  · split
    · exact putRecord_ring p (gapBytes_length ..) true s
    · exact .refl s
theorem sendEvent_ring (p : Nat) (e : Ev) (s : State) : OnlyEventRings s (sendEvent p e s) := by
  unfold sendEvent
  split
  · exact .refl s
  · split
    · exact .refl s
    · dsimp only
      split
      · exact (flushGap_ring p s).trans (flushGap_told p s) (putRecord_ring p (evBytes_length ..) _ _)
      · exact (flushGap_ring p s).trans (flushGap_told p s) (.refl _)
theorem foldl_ring {α : Type} {f : State → α → State} (l : List α) (s : State) (hf : ∀ s x, Told s (f s x) ∧ OnlyEventRings s (f s x)) :
    OnlyEventRings s (l.foldl f s) := by
  induction l generalizing s with
  | nil => exact .refl s
  | cons x l ih => exact (hf s x).2.trans (hf s x).1 (ih _)

/-- An event delivered writes host memory only within event rings. -/
theorem raise_ring (d : EvDest) (e : Ev) (s : State) : OnlyEventRings s (raise d e s) := by
  unfold raise
  refine OnlyEventRings.trans (t := if 1 ≤ e.cls then { s with lastClass := e.cls } else s) ?_ ?_
    (foldl_ring _ _ fun s p => ⟨sendEvent_told p e s, sendEvent_ring p e s⟩)
  · split <;> exact .refl _
  · split
    · exact ⟨_, _, _, rfl⟩
    · exact .refl s

/-! What an event leaves as it is, part by part -/

@[simp] theorem raise_pending (d : EvDest) (e : Ev) (s : State) : (raise d e s).pending = s.pending := by
  obtain ⟨_, _, _, h⟩ := raise_told d e s
  rw [h]
@[simp] theorem raise_freeCtr (d : EvDest) (e : Ev) (s : State) : (raise d e s).freeCtr = s.freeCtr := by
  obtain ⟨_, _, _, h⟩ := raise_told d e s
  rw [h]
@[simp] theorem raise_lastRead (d : EvDest) (e : Ev) (s : State) : (raise d e s).lastRead = s.lastRead := by
  obtain ⟨_, _, _, h⟩ := raise_told d e s
  rw [h]
@[simp] theorem raise_op (d : EvDest) (e : Ev) (s : State) : (raise d e s).op = s.op := by
  obtain ⟨_, _, _, h⟩ := raise_told d e s
  rw [h]
@[simp] theorem raise_inDrive (d : EvDest) (e : Ev) (s : State) : (raise d e s).inDrive = s.inDrive := by
  obtain ⟨_, _, _, h⟩ := raise_told d e s
  rw [h]
@[simp] theorem raise_reg (d : EvDest) (e : Ev) (s : State) : (raise d e s).reg = s.reg := by
  obtain ⟨_, _, _, h⟩ := raise_told d e s
  rw [h]
@[simp] theorem raise_active (d : EvDest) (e : Ev) (s : State) : (raise d e s).active = s.active := by
  obtain ⟨_, _, _, h⟩ := raise_told d e s
  rw [h]
@[simp] theorem raise_shadow (d : EvDest) (e : Ev) (s : State) : (raise d e s).shadow = s.shadow := by
  obtain ⟨_, _, _, h⟩ := raise_told d e s
  rw [h]
@[simp] theorem raise_realms (d : EvDest) (e : Ev) (s : State) : (raise d e s).realms = s.realms := by
  obtain ⟨_, _, _, h⟩ := raise_told d e s
  rw [h]
@[simp] theorem raise_jobs (d : EvDest) (e : Ev) (s : State) : (raise d e s).jobs = s.jobs := by
  obtain ⟨_, _, _, h⟩ := raise_told d e s
  rw [h]
@[simp] theorem raise_accCtr (d : EvDest) (e : Ev) (s : State) : (raise d e s).accCtr = s.accCtr := by
  obtain ⟨_, _, _, h⟩ := raise_told d e s
  rw [h]
@[simp] theorem raise_lastServed (d : EvDest) (e : Ev) (s : State) : (raise d e s).lastServed = s.lastServed := by
  obtain ⟨_, _, _, h⟩ := raise_told d e s
  rw [h]
@[simp] theorem raise_curtain (d : EvDest) (e : Ev) (s : State) : (raise d e s).curtain = s.curtain := by
  obtain ⟨_, _, _, h⟩ := raise_told d e s
  rw [h]
@[simp] theorem raise_mgrPort (d : EvDest) (e : Ev) (s : State) : (raise d e s).mgrPort = s.mgrPort := by
  obtain ⟨_, _, _, h⟩ := raise_told d e s
  rw [h]
@[simp] theorem raise_tbUnits (d : EvDest) (e : Ev) (s : State) : (raise d e s).tbUnits = s.tbUnits := by
  obtain ⟨_, _, _, h⟩ := raise_told d e s
  rw [h]
@[simp] theorem raise_ticks (d : EvDest) (e : Ev) (s : State) : (raise d e s).ticks = s.ticks := by
  obtain ⟨_, _, _, h⟩ := raise_told d e s
  rw [h]
@[simp] theorem raise_refSys (d : EvDest) (e : Ev) (s : State) : (raise d e s).refSys = s.refSys := by
  obtain ⟨_, _, _, h⟩ := raise_told d e s
  rw [h]
@[simp] theorem raise_dpx (d : EvDest) (e : Ev) (s : State) : (raise d e s).dpx = s.dpx := by
  obtain ⟨_, _, _, h⟩ := raise_told d e s
  rw [h]
@[simp] theorem raise_engines (d : EvDest) (e : Ev) (s : State) : (raise d e s).engines = s.engines := by
  obtain ⟨_, _, _, h⟩ := raise_told d e s
  rw [h]
@[simp] theorem raise_frame (d : EvDest) (e : Ev) (s : State) : (raise d e s).frame = s.frame := by
  obtain ⟨_, _, _, h⟩ := raise_told d e s
  rw [h]
@[simp] theorem raise_isl (d : EvDest) (e : Ev) (s : State) : (raise d e s).isl = s.isl := by
  obtain ⟨_, _, _, h⟩ := raise_told d e s
  rw [h]
@[simp] theorem raise_links (d : EvDest) (e : Ev) (s : State) : (raise d e s).links = s.links := by
  obtain ⟨_, _, _, h⟩ := raise_told d e s
  rw [h]
@[simp] theorem raise_boot (d : EvDest) (e : Ev) (s : State) : (raise d e s).boot = s.boot := by
  obtain ⟨_, _, _, h⟩ := raise_told d e s
  rw [h]
@[simp] theorem raise_lodging (d : EvDest) (e : Ev) (s : State) : (raise d e s).lodging = s.lodging := by
  obtain ⟨_, _, _, h⟩ := raise_told d e s
  rw [h]
@[simp] theorem raise_attest (d : EvDest) (e : Ev) (s : State) : (raise d e s).attest = s.attest := by
  obtain ⟨_, _, _, h⟩ := raise_told d e s
  rw [h]
@[simp] theorem raise_und (d : EvDest) (e : Ev) (s : State) : (raise d e s).und = s.und := by
  obtain ⟨_, _, _, h⟩ := raise_told d e s
  rw [h]
@[simp] theorem raise_thm (d : EvDest) (e : Ev) (s : State) : (raise d e s).thm = s.thm := by
  obtain ⟨_, _, _, h⟩ := raise_told d e s
  rw [h]
@[simp] theorem raise_time (d : EvDest) (e : Ev) (s : State) : (raise d e s).time = s.time := by
  obtain ⟨_, _, _, h⟩ := raise_told d e s
  rw [h]
@[simp] theorem raise_ing (d : EvDest) (e : Ev) (s : State) : (raise d e s).ing = s.ing := by
  obtain ⟨_, _, _, h⟩ := raise_told d e s
  rw [h]
@[simp] theorem raise_fus (d : EvDest) (e : Ev) (s : State) : (raise d e s).fus = s.fus := by
  obtain ⟨_, _, _, h⟩ := raise_told d e s
  rw [h]
@[simp] theorem raise_kept (d : EvDest) (e : Ev) (s : State) : (raise d e s).kept = s.kept := by
  obtain ⟨_, _, _, h⟩ := raise_told d e s
  rw [h]
@[simp] theorem raise_opLog (d : EvDest) (e : Ev) (s : State) : (raise d e s).opLog = s.opLog := by
  obtain ⟨_, _, _, h⟩ := raise_told d e s
  rw [h]
@[simp] theorem raise_mem_win (d : EvDest) (e : Ev) (s : State) : (raise d e s).mem.win = s.mem.win := by
  obtain ⟨_, _, _, h⟩ := raise_told d e s
  rw [h]
@[simp] theorem raise_mem_room (d : EvDest) (e : Ev) (s : State) : (raise d e s).mem.room = s.mem.room := by
  obtain ⟨_, _, _, h⟩ := raise_told d e s
  rw [h]
@[simp] theorem raise_mem_poisonWin (d : EvDest) (e : Ev) (s : State) : (raise d e s).mem.poisonWin = s.mem.poisonWin := by
  obtain ⟨_, _, _, h⟩ := raise_told d e s
  rw [h]
@[simp] theorem raise_mem_poisonRoom (d : EvDest) (e : Ev) (s : State) : (raise d e s).mem.poisonRoom = s.mem.poisonRoom := by
  obtain ⟨_, _, _, h⟩ := raise_told d e s
  rw [h]
@[simp] theorem raise_mem_poisonDir (d : EvDest) (e : Ev) (s : State) : (raise d e s).mem.poisonDir = s.mem.poisonDir := by
  obtain ⟨_, _, _, h⟩ := raise_told d e s
  rw [h]
@[simp] theorem raise_mem_poisonRaw (d : EvDest) (e : Ev) (s : State) : (raise d e s).mem.poisonRaw = s.mem.poisonRaw := by
  obtain ⟨_, _, _, h⟩ := raise_told d e s
  rw [h]
@[simp] theorem raise_mem_dirs (d : EvDest) (e : Ev) (s : State) : (raise d e s).mem.dirs = s.mem.dirs := by
  obtain ⟨_, _, _, h⟩ := raise_told d e s
  rw [h]
@[simp] theorem raise_mem_slotLimbo (d : EvDest) (e : Ev) (s : State) : (raise d e s).mem.slotLimbo = s.mem.slotLimbo := by
  obtain ⟨_, _, _, h⟩ := raise_told d e s
  rw [h]
@[simp] theorem raise_mem_journal (d : EvDest) (e : Ev) (s : State) : (raise d e s).mem.journal = s.mem.journal := by
  obtain ⟨_, _, _, h⟩ := raise_told d e s
  rw [h]
@[simp] theorem raise_mem_books (d : EvDest) (e : Ev) (s : State) : (raise d e s).mem.books = s.mem.books := by
  obtain ⟨_, _, _, h⟩ := raise_told d e s
  rw [h]
@[simp] theorem regGet_raise (d : EvDest) (e : Ev) (s : State) (k : Nat) : regGet (raise d e s) k = regGet s k := by
  rw [regGet, raise_reg, regGet]
@[simp] theorem actGet_raise (d : EvDest) (e : Ev) (s : State) (k : Nat) : actGet (raise d e s) k = actGet s k := by
  rw [actGet, raise_active, actGet]
@[simp] theorem shGet_raise (d : EvDest) (e : Ev) (s : State) (k : Nat) : shGet (raise d e s) k = shGet s k := by
  rw [shGet, raise_shadow, shGet]
@[simp] theorem realmOf_raise (d : EvDest) (e : Ev) (s : State) (r : Nat) : realmOf (raise d e s) r = realmOf s r := by
  rw [realmOf, raise_realms, realmOf]
@[simp] theorem findJob_raise (d : EvDest) (e : Ev) (s : State) (a : Nat) : findJob (raise d e s) a = findJob s a := by
  rw [findJob, raise_jobs, findJob]

end Sys2Proof.Machine
end

