-- ==== Sys2Proof/Laws/Flit.lean ====
section
/-! SUPPORT. Bytes and numbers in little-endian order, and the flit: its CRC, its wire bits and its lane parity when nothing goes wrong. -/

namespace Sys2Proof.Machine

theorem leVal_lt (bs : List Byte) : leVal bs < 256 ^ bs.length := by
  induction bs with
  | nil => simp [leVal]
  | cons b bs ih => rw [leVal, List.length_cons, Nat.pow_succ]; have := b.isLt; omega

theorem leBytes_leVal (bs : List Byte) : leBytes bs.length (leVal bs) = bs := by
  induction bs with
  | nil => rfl
  | cons b bs ih =>
    have hb := b.isLt
    rw [leVal, List.length_cons, leBytes, show (b.toNat + 256 * leVal bs) / 256 = leVal bs by omega, ih,
      show (b.toNat + 256 * leVal bs) % 256 = b.toNat by omega, BitVec.ofNat_toNat, BitVec.setWidth_eq]

theorem leVal_leBytes (n v : Nat) : leVal (leBytes n v) = v % 256 ^ n := by
  induction n generalizing v with
  | zero => simp [leBytes, leVal, Nat.mod_one]
  | succ n ih =>
    rw [leBytes, leVal, ih, BitVec.toNat_ofNat, Nat.mod_mod, Nat.pow_succ, Nat.mul_comm (256 ^ n), Nat.mod_mul]

theorem pow_256 (n : Nat) : 256 ^ n = 2 ^ (8 * n) := (Nat.pow_mul 2 8 n).symm

theorem flitBytes_length (seq ack : Nat) (x : Flit) : (flitBytes seq ack x).length = 136 := by simp [flitBytes]

/-- The CRC of a flit as it is sent holds (R341). -/
theorem crcHolds_flitBytes (seq ack : Nat) (x : Flit) : crcHolds (flitBytes seq ack x) = true := by
  have h : (leBytes 4 (flitHeader seq ack x) ++ x.payload.toList).length = 132 := by simp
  have hc (c : Nat) : (leBytes 4 c).length = 4 := by simp
  simp only [crcHolds, flitBytes, fieldAt]
  rw [List.take_left' h, List.drop_left' h, List.take_of_length_le (by rw [hc]), leVal_leBytes,
    Nat.mod_eq_of_lt (show _ < 256 ^ 4 from BitVec.isLt _)]
  simp

theorem leVal_flitBytes_lt (seq ack : Nat) (x : Flit) : leVal (flitBytes seq ack x) < 2 ^ 1088 :=
  Nat.lt_of_lt_of_eq (leVal_lt _) (by rw [flitBytes_length, pow_256])

/-- The wire bits of a flit at a width carry its bytes (R341). -/
theorem flitData_flitWire (w seq ack : Nat) (x : Flit) (h : w ≤ 64) : flitData (flitWire w (flitBytes seq ack x)) = flitBytes seq ack x := by
  rw [flitData, flitWire, show 1152 - w = 1088 + (64 - w) by omega, Nat.pow_add, Nat.mul_assoc, Nat.add_mul_mod_self_left, Nat.mod_eq_of_lt (leVal_flitBytes_lt seq ack x)]
  exact flitBytes_length seq ack x ▸ leBytes_leVal _

theorem bitOf_testBit (v i : Nat) : bitOf v i = v.testBit i := by
  rw [bitOf, Nat.testBit_eq_decide_div_mod_eq]; exact (Bool.beq_eq_decide_eq _ _)

theorem ofBits_testBit (bs : List Bool) (i : Nat) : (ofBits bs).testBit i = bs.getD i false := by
  induction bs generalizing i with
  | nil => simp [ofBits]
  | cons b bs ih =>
    cases i with
    | zero => cases b <;> simp [ofBits, Nat.testBit_zero]
    | succ i =>
      rw [ofBits, Nat.testBit_succ, show (b.toNat + 2 * ofBits bs) / 2 = ofBits bs by cases b <;> (simp; try omega), ih]
      simp

/-- Each lane of a flit on the wire has even parity (R341). -/
theorem laneOdd_flitWire (n w l seq ack : Nat) (x : Flit) (hn : (n + 1) * w = 1152) (hw : w ≤ 64) (hl : l < w) :
    laneOdd (flitWire w (flitBytes seq ack x)) w l (n + 1) = false := by
  have he : 1152 - w = n * w := by rw [← hn]; ring_nf; omega
  have hi : flitIntervals w = n + 1 := by rw [flitIntervals, ← hn]; exact Nat.mul_div_cancel _ (by omega)
  have hv2 : leVal (flitBytes seq ack x) < 2 ^ (n * w) := Nat.lt_of_lt_of_le (leVal_flitBytes_lt seq ack x) (Nat.pow_le_pow_right (by decide) (by omega))
  rw [flitWire, he, hi, Nat.add_comm, laneOdd, List.range_succ, List.filter_append, List.length_append]
  have h1 : (List.range n).filter (fun t => bitOf (2 ^ (n * w) * ofBits ((List.range w).map fun l => laneOdd (leVal (flitBytes seq ack x)) w l (n + 1 - 1)) +
      leVal (flitBytes seq ack x)) (t * w + l)) = (List.range n).filter fun t => bitOf (leVal (flitBytes seq ack x)) (t * w + l) := by
    refine List.filter_congr fun t ht => ?_
    have : (t + 1) * w ≤ n * w := Nat.mul_le_mul_right _ (List.mem_range.1 ht)
    rw [bitOf_testBit, bitOf_testBit, Nat.testBit_two_pow_mul_add _ hv2, if_pos (by rw [Nat.add_mul] at this; omega)]
  have h2 : bitOf (2 ^ (n * w) * ofBits ((List.range w).map fun l => laneOdd (leVal (flitBytes seq ack x)) w l (n + 1 - 1)) +
      leVal (flitBytes seq ack x)) (n * w + l) = laneOdd (leVal (flitBytes seq ack x)) w l n := by
    rw [bitOf_testBit, Nat.testBit_two_pow_mul_add _ hv2, if_neg (by omega), ofBits_testBit, Nat.add_sub_cancel_left]
    simp [hl]
  rw [h1, List.filter_cons, h2, List.filter_nil, laneOdd]
  generalize ((List.range n).filter _).length = k
  rcases Nat.mod_two_eq_zero_or_one k with h | h
  · simp [h]
  · simp [h, Nat.add_mod]

/-- No lane of a flit that arrives as it was sent fails its parity (R341). -/
theorem parityFails_flitWire (d : LinkDir) (n seq ack : Nat) (x : Flit) (hn : (n + 1) * d.width = 1152) (hw : d.width ≤ 64) :
    parityFails d (flitWire d.width (flitBytes seq ack x)) = [] := by
  have hi : flitIntervals d.width = n + 1 := by
    rw [flitIntervals, ← hn]; exact Nat.mul_div_cancel _ (Nat.pos_of_ne_zero fun h => by rw [h] at hn; omega)
  rw [parityFails, List.filterMap_eq_nil_iff, hi]
  intro l hl
  rw [laneOdd_flitWire n _ _ _ _ _ hn hw (List.mem_range.1 hl)]
  rfl

@[simp] theorem flitArrives_nil (d : LinkDir) (v : Nat) : flitArrives d [] v = v := rfl

end Sys2Proof.Machine
end

