-- ==== Sys2Proof/Laws/Kept.lean ====
section
/-! SUPPORT. The registers an operation leaves alone, said of each operation that writes one. -/

namespace Sys2Proof.Machine

variable {ks : List Nat} {s t u : State}

theorem kept_refl (ks : List Nat) (s : State) : RegsKept ks s s := fun _ _ => rfl

theorem kept_reg (h : u.reg = t.reg) (hs : RegsKept ks s t) : RegsKept ks s u := by
  intro k hk
  unfold regGet
  rw [h]
  exact hs k hk

theorem kept_set {k v : Nat} (h : k ∈ ks) (hs : RegsKept ks s t) : RegsKept ks s (regSet k v t) := by
  intro j hj
  rw [regGet_regSet_ne]
  · exact hs j hj
  · rintro rfl
    exact hj h

theorem kept_mod {k : Nat} {f : Nat → Nat} (h : k ∈ ks) (hs : RegsKept ks s t) : RegsKept ks s (regMod k f t) := kept_set h hs

theorem kept_inc {k : Nat} (h : k ∈ ks) (hs : RegsKept ks s t) : RegsKept ks s (regInc k t) := kept_set h hs

theorem kept_raise {d : EvDest} {e : Ev} (hs : RegsKept ks s t) : RegsKept ks s (raise d e t) := kept_reg (by simp) hs

end Sys2Proof.Machine
end

