-- ==== Sys2Proof/Laws/SoundBase.lean ====
section
/-! SUPPORT. The base updates keep a state sound. -/

namespace Sys2Proof.Machine

variable {s : State}

/-- Soundness speaks of the parts of one state. -/
theorem sound_rec (h : Sound s) : SoundOf s.reg s.active s.shadow s.lodging.saved s.mem.host s.mem.win s.mem.room s.jobs s.accCtr s.op
    s.inDrive := h

/-- A state with the same parts is sound. -/
theorem sound_congr {t : State} (h : Sound s) (hr : t.reg = s.reg) (ha : t.active = s.active) (hs : t.shadow = s.shadow)
    (hl : t.lodging.saved = s.lodging.saved) (hm : t.mem = s.mem) (hj : t.jobs = s.jobs) (hc : t.accCtr = s.accCtr) (ho : t.op = s.op)
    (hd : t.inDrive = s.inDrive) : Sound t := by
  unfold Sound
  rw [hr, ha, hs, hl, hm, hj, hc, ho, hd]
  exact h

theorem sound_ite {c : Prop} [Decidable c] {a b : State} (ha : Sound a) (hb : Sound b) : Sound (if c then a else b) := by
  split <;> assumption

/-- What a fold of sound changes gives is sound. -/
theorem foldl_sound {α : Type} {f : State → α → State} (l : List α) (h : Sound s) (hf : ∀ s x, Sound s → Sound (f s x)) :
    Sound (l.foldl f s) := by
  induction l generalizing s with
  | nil => exact h
  | cons x l ih => exact ih (hf s x h)

theorem sound_fst {α : Type} {p : State × α} {t : State} {x : α} (he : p = (t, x)) (hp : Sound p.1) : Sound t := by
  subst he; exact hp

/-! Registers -/

theorem regSet_sound {k v : Nat} (h : Sound s) : Sound (regSet k v s) :=
  ⟨⟨tcanon_tset k v h.1.1, h.1.2⟩, h.2⟩
theorem regMod_sound {k : Nat} {f : Nat → Nat} (h : Sound s) : Sound (regMod k f s) := regSet_sound h
theorem regInc_sound {k : Nat} (h : Sound s) : Sound (regInc k s) := regSet_sound h
theorem actSet_sound {k v : Nat} (h : Sound s) : Sound (actSet k v s) :=
  ⟨⟨h.1.1, tcanon_tset k v h.1.2.1, h.1.2.2⟩, h.2⟩
theorem shSet_sound {k v : Nat} (h : Sound s) : Sound (shSet k v s) :=
  ⟨⟨h.1.1, h.1.2.1, tcanon_tset k v h.1.2.2.1, h.1.2.2.2⟩, h.2⟩

/-- Another active copy, in canonical form. -/
theorem withActive_sound {a : List (Nat × Nat)} (h : Sound s) (ha : tcanon resetOf a = true) : Sound { s with active := a } :=
  ⟨⟨h.1.1, ha, h.1.2.2⟩, h.2⟩
/-- Another register file, in canonical form. -/
theorem withReg_sound {a : List (Nat × Nat)} (h : Sound s) (ha : tcanon resetOf a = true) : Sound { s with reg := a } :=
  ⟨⟨ha, h.1.2⟩, h.2⟩

/-! Memories -/

/-- Bytes written one by one at any keys keep a memory's canonical form. -/
theorem writes_canon {β : Type} (key : β → Nat) (val : β → Byte) (l : List β) {m : List Host.Cell} (h : tcanon (fun _ => (0 : Byte)) m = true) :
    tcanon (fun _ => (0 : Byte)) (l.foldl (fun m p => tset 0 (key p) (val p) m) m) = true := by
  induction l generalizing m with
  | nil => exact h
  | cons x l ih => exact ih (tcanon_tset (d := fun _ => (0 : Byte)) (key x) (val x) h)

theorem memWrite_canon {k : Nat} {bs : List Byte} {m : List Host.Cell} (h : tcanon (fun _ => (0 : Byte)) m = true) :
    tcanon (fun _ => (0 : Byte)) (memWrite k bs m) = true := writes_canon (fun p : Byte × Nat => k + p.2) (fun p => p.1) _ h

/-- A change of the memories that keeps their canonical form. -/
theorem modMem_sound {f : Memory → Memory} (h : Sound s) (h1 : tcanon (fun _ => 0) (f s.mem).host = true)
    (h2 : tcanon (fun _ => 0) (f s.mem).win = true) (h3 : tcanon (fun _ => 0) (f s.mem).room = true) : Sound (modMem f s) :=
  ⟨h.1, ⟨h1, h2, h3⟩, h.2.2⟩

/-- A change of marks, directory or journal alone. -/
theorem marks_sound {f : Memory → Memory} (h : Sound s) (h1 : ∀ m, (f m).host = m.host) (h2 : ∀ m, (f m).win = m.win)
    (h3 : ∀ m, (f m).room = m.room) : Sound (modMem f s) :=
  modMem_sound h (by rw [h1]; exact h.2.1.1) (by rw [h2]; exact h.2.1.2.1) (by rw [h3]; exact h.2.1.2.2)

theorem hostWrite_sound {p a : Nat} {bs : List Byte} (h : Sound s) : Sound (hostWrite p a bs s) :=
  ⟨h.1, ⟨writes_canon (fun q : Byte × Nat => hostKey p (a + q.2)) (fun q => q.1) _ h.2.1.1, h.2.1.2⟩, h.2.2⟩
theorem applyWrites_sound {ws : List HostWrite} (h : Sound s) : Sound (applyWrites ws s) := foldl_sound ws h fun _ _ h => hostWrite_sound h
theorem dmaWrite_sound {p a : Nat} {bs : List Byte} (h : Sound s) : Sound (dmaWrite p a bs s) := sound_ite (hostWrite_sound h) h

/-- A window or room written in one copy keeps its canonical form. -/
theorem copyWrite_canon {r a c : Nat} {bs : List Byte} {m : Memory} (h : tcanon (fun _ => (0 : Byte)) m.win = true) :
    tcanon (fun _ => (0 : Byte)) (copyWrite r a c bs m).win = true := memWrite_canon h
theorem roomCopyWrite_canon {r q o c : Nat} {bs : List Byte} {m : Memory} (h : tcanon (fun _ => (0 : Byte)) m.room = true) :
    tcanon (fun _ => (0 : Byte)) (roomCopyWrite r q o c bs m).room = true := memWrite_canon h

theorem realmWrite_sound {r a : Nat} {bs : List Byte} (h : Sound s) : Sound (realmWrite r a bs s) := by
  unfold realmWrite
  split
  · exact dmaWrite_sound h
  · split
    · exact ⟨h.1, ⟨h.2.1.1, copyWrite_canon (copyWrite_canon h.2.1.2.1), h.2.1.2.2⟩, h.2.2⟩
    · exact ⟨h.1, ⟨h.2.1.1, copyWrite_canon h.2.1.2.1, h.2.1.2.2⟩, h.2.2⟩
theorem roomWrite_sound {r q o : Nat} {bs : List Byte} (h : Sound s) : Sound (roomWrite r q o bs s) := by
  unfold roomWrite
  split
  · exact ⟨h.1, ⟨h.2.1.1, h.2.1.2.1, roomCopyWrite_canon (roomCopyWrite_canon h.2.1.2.2)⟩, h.2.2⟩
  · exact ⟨h.1, ⟨h.2.1.1, h.2.1.2.1, roomCopyWrite_canon h.2.1.2.2⟩, h.2.2⟩
theorem modRoom_sound {r q : Nat} {f : Room → Room} (h : Sound s) : Sound (modRoom r q f s) := h

/-- Every memory operation keeps the memories' canonical form. -/
theorem hostWrite_wf (p a : Nat) (bs : List Byte) (h : s.mem.wf = true) : (hostWrite p a bs s).mem.wf = true := by
  simp only [Memory.wf, Bool.and_eq_true] at h ⊢
  exact ⟨⟨writes_canon (fun q : Byte × Nat => hostKey p (a + q.2)) (fun q => q.1) _ h.1.1, h.1.2⟩, h.2⟩
theorem realmWrite_wf (r a : Nat) (bs : List Byte) (h : s.mem.wf = true) : (realmWrite r a bs s).mem.wf = true := by
  unfold realmWrite
  split
  · unfold dmaWrite
    split
    · exact hostWrite_wf _ _ _ h
    · exact h
  · simp only [Memory.wf, Bool.and_eq_true] at h ⊢
    split
    · exact ⟨⟨h.1.1, copyWrite_canon (copyWrite_canon h.1.2)⟩, h.2⟩
    · exact ⟨⟨h.1.1, copyWrite_canon h.1.2⟩, h.2⟩
theorem roomWrite_wf (r q o : Nat) (bs : List Byte) (h : s.mem.wf = true) : (roomWrite r q o bs s).mem.wf = true := by
  simp only [Memory.wf, Bool.and_eq_true] at h ⊢
  unfold roomWrite
  split
  · exact ⟨h.1, roomCopyWrite_canon (roomCopyWrite_canon h.2)⟩
  · exact ⟨h.1, roomCopyWrite_canon h.2⟩

/-! Updates of other parts -/

theorem modPort_sound {p : Nat} {f : HostPort → HostPort} (h : Sound s) : Sound (modPort p f s) := h
theorem modRing_sound {p i : Nat} {f : Ring → Ring} (h : Sound s) : Sound (modRing p i f s) := h
theorem modRealm_sound {r : Nat} {f : Realm → Realm} (h : Sound s) : Sound (modRealm r f s) := h
theorem modEngine_sound {d : Nat} {f : Engine → Engine} (h : Sound s) : Sound (modEngine d f s) := h
theorem modIsl_sound {i : Isl} {f : Island → Island} (h : Sound s) : Sound (modIsl i f s) := by cases i <;> exact h
theorem modLink_sound {l : Nat} {f : Link → Link} (h : Sound s) : Sound (modLink l f s) := h
theorem modTherm_sound {d : Nat} {f : DieTherm → DieTherm} (h : Sound s) : Sound (modTherm d f s) := h
theorem modCue_sound {g : Nat} {f : Cue → Cue} (h : Sound s) : Sound (modCue g f s) := h
theorem modSpi_sound {m : Nat} {f : Spi → Spi} (h : Sound s) : Sound (modSpi m f s) := h
theorem modCap_sound {c : Nat} {f : Capture → Capture} (h : Sound s) : Sound (modCap c f s) := h
theorem modIng_sound {p : Nat} {f : IngPort → IngPort} (h : Sound s) : Sound (modIng p f s) := h
theorem modStr_sound {k : Nat} {f : Stream → Stream} (h : Sound s) : Sound (modStr k f s) := h
theorem modMac_sound {m : Nat} {f : Mac → Mac} (h : Sound s) : Sound (modMac m f s) := h
theorem modSvc_sound {k : Nat} {f : Svc → Svc} (h : Sound s) : Sound (modSvc k f s) := h
theorem modWork_sound {k : Nat} {f : Pend → Pend} (h : Sound s) : Sound (modWork k f s) := h
theorem modChan_sound {c : Nat} {f : Channel → Channel} (h : Sound s) : Sound (modChan c f s) := h
theorem modEgo_sound {f : Ego → Ego} (h : Sound s) : Sound (modEgo f s) := h
theorem modOut_sound {o : Nat} {f : OutStream → OutStream} (h : Sound s) : Sound (modOut o f s) := h
theorem modRecall_sound {f : Recall → Recall} (h : Sound s) : Sound (modRecall f s) := h
theorem modFrame_sound {k : Nat} {f : FrameAsm → FrameAsm} (h : Sound s) : Sound (modFrame k f s) := h

/-- A change of the operating state: DRIVE is entered with the in-drive flag set (R29). -/
theorem setOp_sound {o : OpState} (h : Sound s) (ho : o = .drive → s.inDrive = true) : Sound (setOp o s) :=
  ⟨h.1, h.2.1, h.2.2.1, ho⟩

/-! Jobs -/

/-- A change of one job that keeps its acceptance number and a canonical copy of its banks. -/
theorem modJob_sound {a : Nat} {f : Job → Job} (h : Sound s) (h1 : ∀ j, (f j).acc = j.acc)
    (h2 : ∀ j, tcanon resetOf j.banks = true → tcanon resetOf (f j).banks = true) : Sound (modJob a f s) := by
  have hacc : ∀ j : Job, (if j.acc = a then f j else j).acc = j.acc := by intro j; split <;> simp [h1]
  refine ⟨h.1, h.2.1, ⟨?_, ?_⟩, h.2.2.2⟩
  · simp only [modJob, List.pairwise_map, hacc]
    exact h.2.2.1.1
  · intro j hj
    simp only [modJob, List.mem_map] at hj
    obtain ⟨k, hk, rfl⟩ := hj
    have := h.2.2.1.2 k hk
    refine ⟨by rw [hacc]; exact this.1, ?_⟩
    split
    · exact h2 k this.2
    · exact this.2

/-- Every job changed in a way that keeps its acceptance number and its banks. -/
theorem mapJobs_sound {f : Job → Job} (h : Sound s) (h1 : ∀ j, (f j).acc = j.acc) (h2 : ∀ j, (f j).banks = j.banks) :
    Sound { s with jobs := s.jobs.map f } := by
  refine ⟨h.1, h.2.1, ⟨?_, ?_⟩, h.2.2.2⟩
  · simp only [List.pairwise_map, h1]
    exact h.2.2.1.1
  · intro j hj
    simp only [List.mem_map] at hj
    obtain ⟨k, hk, rfl⟩ := hj
    rw [h1, h2]
    exact h.2.2.1.2 k hk

/-- Jobs left out. -/
theorem filterJobs_sound {p : Job → Bool} (h : Sound s) : Sound { s with jobs := s.jobs.filter p } :=
  ⟨h.1, h.2.1, ⟨h.2.2.1.1.filter p, fun j hj => h.2.2.1.2 j (List.mem_filter.1 hj).1⟩, h.2.2.2⟩

/-- The job that an acceptance number finds is one in flight. -/
theorem findJob_mem {a : Nat} {j : Job} (hj : findJob s a = some j) : j ∈ s.jobs := List.mem_of_find?_eq_some hj
theorem findJob_acc {a : Nat} {j : Job} (hj : findJob s a = some j) : j.acc = a := by
  have := List.find?_some hj
  simpa using this

/-- The banks of a job in flight are in canonical form. -/
theorem jobBanks_canon {a : Nat} {j : Job} (h : Sound s) (hj : findJob s a = some j) : tcanon resetOf j.banks = true :=
  (h.2.2.1.2 j (findJob_mem hj)).2

end Sys2Proof.Machine
end

