-- ==== Sys2Proof/Laws/SoundOps.lean ====
section
/-! SUPPORT. Event records, understudy bookkeeping and rooms keep a state sound. -/

namespace Sys2Proof.Machine

variable {s : State}

theorem setIsl_sound {i : Isl} {v : Nat} (hS : Sound s) : Sound (setIsl i v s) := by
  dsimp only [setIsl]
  repeat' first
    | with_reducible assumption
    | with_reducible apply regSet_sound

theorem gate_sound {i : Isl} {d : Decision} (hS : Sound s) : Sound (gate i d s) := by
  dsimp only [gate]
  repeat' first
    | with_reducible assumption
    | split

theorem gateOr_sound {d : Decision} {act : State → State} (ha : Sound (act s)) (hS : Sound s) : Sound (gateOr d act s) :=
  sound_ite (gate_sound hS) ha

theorem putRecord_sound {p : Nat} {bs : List Byte} {attn : Bool} (hS : Sound s) : Sound (putRecord p bs attn s) := by
  dsimp only [putRecord]
  repeat' first
    | with_reducible assumption
    | with_reducible apply modPort_sound
    | with_reducible apply hostWrite_sound

theorem flushGap_sound {p : Nat} (hS : Sound s) : Sound (flushGap p s) := by
  dsimp only [flushGap]
  repeat' first
    | with_reducible assumption
    | with_reducible apply modPort_sound
    | with_reducible apply putRecord_sound
    | split

theorem countDropped_sound {p : Nat} (hS : Sound s) : Sound (countDropped p s) := by
  dsimp only [countDropped]
  repeat' first
    | with_reducible assumption
    | with_reducible apply modPort_sound

theorem loseEvent_sound {p : Nat} (hS : Sound s) : Sound (loseEvent p s) := by
  dsimp only [loseEvent]
  repeat' first
    | with_reducible assumption
    | with_reducible apply countDropped_sound
    | with_reducible apply modPort_sound

theorem sendEvent_sound {p : Nat} {e : Ev} (hS : Sound s) : Sound (sendEvent p e s) := by
  dsimp only [sendEvent]
  repeat' first
    | with_reducible assumption
    | with_reducible apply countDropped_sound
    | with_reducible apply flushGap_sound
    | with_reducible apply putRecord_sound
    | with_reducible apply loseEvent_sound
    | split

theorem raise_sound {d : EvDest} {e : Ev} (hS : Sound s) : Sound (raise d e s) := by
  dsimp only [raise]
  repeat' first
    | with_reducible assumption
    | with_reducible apply sendEvent_sound
    | with_reducible apply foldl_sound
    | split
    | intro _ _ _

theorem recordFault_sound {cls src : Nat} (hS : Sound s) : Sound (recordFault cls src s) := by
  dsimp only [recordFault]
  repeat' first
    | with_reducible assumption
    | with_reducible apply regSet_sound
    | with_reducible apply regMod_sound
    | split

theorem raiseFault_sound {d : EvDest} {e : Ev} (hS : Sound s) : Sound (raiseFault d e s) := by
  dsimp only [raiseFault]
  repeat' first
    | with_reducible assumption
    | with_reducible apply raise_sound
    | with_reducible apply recordFault_sound

theorem pairSet_sound {lo hi v : Nat} (hS : Sound s) : Sound (pairSet lo hi v s) := by
  dsimp only [pairSet]
  repeat' first
    | with_reducible assumption
    | with_reducible apply regSet_sound

theorem undCompare_sound {u : UndJob} (hS : Sound s) : Sound (undCompare u s) := by
  dsimp only [undCompare]
  repeat' first
    | with_reducible assumption
    | with_reducible apply raise_sound
    | with_reducible apply regSet_sound
    | split

theorem undComplete_sound {commit : Option Nat} {ok : Bool} {digest : List Byte} (hS : Sound s) : Sound (undComplete commit ok digest s) := by
  dsimp only [undComplete]
  repeat' first
    | with_reducible assumption
    | with_reducible apply undCompare_sound
    | split

theorem undPoll_sound  (hS : Sound s) : Sound (undPoll s) := by
  dsimp only [undPoll]
  repeat' first
    | with_reducible assumption
    | with_reducible apply undCompare_sound
    | with_reducible apply foldl_sound

theorem orphan_sound {cause : Nat} (hS : Sound s) : Sound (orphan cause s) := by
  dsimp only [orphan]
  repeat' first
    | with_reducible assumption
    | with_reducible apply regSet_sound
    | with_reducible apply raise_sound

theorem undEnd_sound  (hS : Sound s) : Sound (undEnd s) := by
  dsimp only [undEnd]
  repeat' first
    | with_reducible assumption
    | with_reducible apply regSet_sound

theorem undRelease_sound {r : Nat} (hS : Sound s) : Sound (undRelease r s) := by
  dsimp only [undRelease]
  repeat' first
    | with_reducible assumption
    | with_reducible apply undEnd_sound
    | split

theorem invalidate_sound {r a : Nat} (hS : Sound s) : Sound (invalidate r a s) := by
  dsimp only [invalidate]
  repeat' first
    | with_reducible assumption
    | (with_reducible refine marks_sound ?_ (fun _ => rfl) (fun _ => rfl) (fun _ => rfl))

theorem invalidateRealm_sound {r : Nat} (hS : Sound s) : Sound (invalidateRealm r s) := by
  dsimp only [invalidateRealm]
  repeat' first
    | with_reducible assumption
    | (with_reducible refine marks_sound ?_ (fun _ => rfl) (fun _ => rfl) (fun _ => rfl))

theorem invalidateBooks_sound  (hS : Sound s) : Sound (invalidateBooks s) := by
  dsimp only [invalidateBooks]
  repeat' first
    | with_reducible assumption
    | (with_reducible refine marks_sound ?_ (fun _ => rfl) (fun _ => rfl) (fun _ => rfl))

theorem walk_sound {die r a room : Nat} (hS : Sound s) : Sound (walk die r a room s) := by
  dsimp only [walk]
  repeat' first
    | with_reducible assumption
    | with_reducible apply regInc_sound
    | (with_reducible refine marks_sound ?_ (fun _ => rfl) (fun _ => rfl) (fun _ => rfl))

theorem fetchAhead_sound {r die a : Nat} (hS : Sound s) : Sound (fetchAhead r die a s) := by
  dsimp only [fetchAhead]
  repeat' first
    | with_reducible assumption

theorem useStaged_sound {r die a : Nat} (hS : Sound s) : Sound (useStaged r die a s) := by
  dsimp only [useStaged]
  repeat' first
    | with_reducible assumption
    | split

theorem setEntry_sound {r : Nat} {t : RTable} {b g room : Nat} (hS : Sound s) : Sound (setEntry r t b g room s) := by
  dsimp only [setEntry]
  repeat' first
    | with_reducible assumption
    | with_reducible apply invalidate_sound
    | with_reducible apply realmWrite_sound

theorem noteFill_sound {r : Nat} {t : RTable} {len : Nat} (hS : Sound s) : Sound (noteFill r t len s) := by
  dsimp only [noteFill]
  repeat' first
    | with_reducible assumption
    | with_reducible apply modRoom_sound
    | with_reducible apply foldl_sound
    | split
    | intro _ _ _

theorem setLength_sound {r a len : Nat} (hS : Sound s) : Sound (setLength r a len s) := by
  dsimp only [setLength]
  repeat' first
    | with_reducible assumption
    | with_reducible apply noteFill_sound
    | with_reducible apply realmWrite_sound

theorem allocRoom_sound {r home : Nat} (hS : Sound s) : Sound (allocRoom r home s).1 := by
  dsimp only [allocRoom]
  repeat' first
    | with_reducible assumption
    | with_reducible apply modRoom_sound
    | with_reducible apply roomWrite_sound

theorem drainLimbo_sound {r : Nat} (hS : Sound s) : Sound (drainLimbo r s) := by
  dsimp only [drainLimbo]
  repeat' first
    | with_reducible assumption
    | (with_reducible refine marks_sound ?_ (fun _ => rfl) (fun _ => rfl) (fun _ => rfl))

theorem dropCount_sound {r room : Nat} (hS : Sound s) : Sound (dropCount r room s) := by
  dsimp only [dropCount]
  repeat' first
    | with_reducible assumption
    | with_reducible apply modRoom_sound
    | with_reducible apply drainLimbo_sound
    | with_reducible apply modRealm_sound
    | split

theorem freeNow_sound {r room : Nat} (hS : Sound s) : Sound (freeNow r room s) := by
  dsimp only [freeNow]
  repeat' first
    | with_reducible assumption
    | with_reducible apply modRoom_sound

theorem restoreCount_sound {r room : Nat} (hS : Sound s) : Sound (restoreCount r room s) := by
  dsimp only [restoreCount]
  repeat' first
    | with_reducible assumption
    | with_reducible apply modRoom_sound

theorem roomPoisonEvent_sound {r room off : Nat} (hS : Sound s) : Sound (roomPoisonEvent r room off s) := by
  dsimp only [roomPoisonEvent]
  repeat' first
    | with_reducible assumption
    | with_reducible apply raise_sound

theorem winPoisonEvent_sound {r g : Nat} (hS : Sound s) : Sound (winPoisonEvent r g s) := by
  dsimp only [winPoisonEvent]
  repeat' first
    | with_reducible assumption
    | with_reducible apply raise_sound

theorem orPoison_sound {α : Type} {r detail : Nat} {o : Option Nat} {x : State × Except Fail α} (hx : Sound x.1) (hS : Sound s) :
    Sound (orPoison r o detail s x).1 := by
  unfold orPoison
  split
  · exact winPoisonEvent_sound hS
  · exact hx

theorem orPoisonW_sound {r detail : Nat} {o : Option Nat} {x : State × Option Fail} (hx : Sound x.1) (hS : Sound s) :
    Sound (orPoisonW r o detail s x).1 := by
  unfold orPoisonW
  split
  · exact winPoisonEvent_sound hS
  · exact hx

theorem runAll_sound {α : Type} {f : α → State → State × Except Fail Unit} {l : List α} (hf : ∀ a s, Sound s → Sound (f a s).1)
    (hS : Sound s) : Sound (runAll f l s).1 := by
  induction l generalizing s with
  | nil => exact hS
  | cons a t ih =>
    rw [runAll]
    split
    · exact sound_fst ‹_› (hf a s hS)
    · exact ih (sound_fst ‹_› (hf a s hS))

theorem copyRows_sound {r : Nat} {kv h d n src dst : Nat} (hS : Sound s) : Sound (copyRows r kv h d n src dst s) := by
  dsimp only [copyRows]
  repeat' first
    | with_reducible assumption
    | with_reducible apply roomWrite_sound
    | with_reducible apply foldl_sound
    | intro _ _ _

theorem addJournal_sound {e : JEntry} (hS : Sound s) : Sound (addJournal e s) := by
  dsimp only [addJournal]
  repeat' first
    | with_reducible assumption
    | (with_reducible refine marks_sound ?_ (fun _ => rfl) (fun _ => rfl) (fun _ => rfl))

theorem openRoom_sound {r : Nat} {t : RTable} {b g len home place acc : Nat} (hS : Sound s) : Sound (openRoom r t b g len home place acc s).1 := by
  dsimp only [openRoom]
  repeat' first
    | with_reducible assumption
    | with_reducible apply addJournal_sound
    | with_reducible apply orPoison_sound
    | with_reducible apply allocRoom_sound
    | with_reducible apply setEntry_sound
    | with_reducible apply roomPoisonEvent_sound
    | with_reducible apply copyRows_sound
    | with_reducible apply dropCount_sound
    | split

theorem checkedRoomWrite_sound {r room off : Nat} {bs : List Byte} (hS : Sound s) : Sound (checkedRoomWrite r room off bs s).1 := by
  dsimp only [checkedRoomWrite]
  repeat' first
    | with_reducible assumption
    | with_reducible apply roomPoisonEvent_sound
    | with_reducible apply roomWrite_sound
    | split

theorem putRow_sound {r room : Nat} {kv h d area j p : Nat} {bs : List Byte} (hS : Sound s) : Sound (putRow r room kv h d area j p bs s).1 := by
  dsimp only [putRow]
  repeat' first
    | with_reducible assumption
    | with_reducible apply checkedRoomWrite_sound

theorem settleEntries_sound {r newLen : Nat} {l : List JEntry} (hS : Sound s) : Sound (settleEntries r newLen l s) := by
  induction l generalizing s with
  | nil => exact hS
  | cons e t ih =>
    rw [settleEntries]
    refine sound_ite (ih hS) (ih ?_)
    have h1 : Sound (freeNow r e.newRoom (setEntry r (readTable s r e.table) e.block e.group e.oldRoom s)) :=
      freeNow_sound (setEntry_sound hS)
    exact sound_ite (restoreCount_sound h1) h1

theorem settleTable_sound {r acc a newLen : Nat} (hS : Sound s) : Sound (settleTable r acc a newLen s) := by
  dsimp only [settleTable]
  repeat' first
    | with_reducible assumption
    | with_reducible apply settleEntries_sound
    | with_reducible apply invalidateBooks_sound
    | with_reducible apply setLength_sound
    | (with_reducible refine marks_sound ?_ (fun _ => rfl) (fun _ => rfl) (fun _ => rfl))

theorem settleAll_sound {r acc : Nat} {lens : List (Nat × Nat)} (hS : Sound s) : Sound (settleAll r acc lens s) := by
  dsimp only [settleAll]
  repeat' first
    | with_reducible assumption
    | with_reducible apply drainLimbo_sound
    | with_reducible apply settleTable_sound
    | with_reducible apply foldl_sound
    | intro _ _ _

end Sys2Proof.Machine
end

