-- ==== Sys2Proof/Laws/SoundJobs.lean ====
section
/-! SUPPORT. The execution of jobs keeps a state sound. -/

namespace Sys2Proof.Machine

variable {s : State}

theorem appendBlock_sound {r acc : Nat} {x : ASeq} {k v : Array (List Byte)} {tRows hkv : Nat} {bg : Nat × Nat} (hS : Sound s) :
    Sound (appendBlock r acc x k v tRows hkv bg s).1 := by
  unfold appendBlock
  dsimp only
  split
  · exact openRoom_sound hS
  · exact runAll_sound (fun _ _ h => putRow_sound h) (openRoom_sound hS)

theorem appendSeq_sound {r acc : Nat} {k v : Array (List Byte)} {tRows hkv : Nat} {x : ASeq} (hS : Sound s) :
    Sound (appendSeq r acc k v tRows hkv x s).1 := by
  have h1 : ∀ l, Sound (runAll (appendBlock r acc x k v tRows hkv) l s).1 := fun l => runAll_sound (fun _ _ h => appendBlock_sound h) hS
  dsimp only [appendSeq]
  split
  · exact addJournal_sound (h1 _)
  · exact h1 _

theorem failAt_sound {r : Nat} {x : Fail × Option Nat} (hS : Sound s) : Sound (failAt r x s) := by
  dsimp only [failAt]
  repeat' first
    | with_reducible assumption
    | with_reducible apply roomPoisonEvent_sound
    | split

theorem foldl_fst_sound {α β : Type} {f : State × β → α → State × β} (l : List α) {p : State × β} (h : Sound p.1)
    (hf : ∀ p x, Sound p.1 → Sound (f p x).1) : Sound (l.foldl f p).1 := by
  induction l generalizing p with
  | nil => exact h
  | cons x l ih => exact ih (hf p x h)

theorem writeIndex_sound {r acc : Nat} {n : GNode} {x : ASeq} (hS : Sound s) : Sound (writeIndex r acc n x s).1 := by
  unfold writeIndex
  dsimp only
  split
  · exact hS
  · refine foldl_fst_sound _ hS fun p k h => ?_
    split
    · exact h
    · split
      · exact failAt_sound h
      · split
        · exact winPoisonEvent_sound h
        · exact realmWrite_sound h

theorem noteWalks_sound {r : Nat} {n : GNode} {rs : List ARead} (hS : Sound s) : Sound (noteWalks r n rs s) := by
  dsimp only [noteWalks]
  repeat' first
    | with_reducible assumption
    | with_reducible apply useStaged_sound
    | with_reducible apply walk_sound
    | with_reducible apply foldl_sound
    | intro _ _ _

theorem noteUse_sound {r : Nat} {reads sel : List Nat} (hS : Sound s) : Sound (noteUse r reads sel s) := by
  dsimp only [noteUse]
  repeat' first
    | with_reducible assumption
    | with_reducible apply modRealm_sound

theorem attendScore_sound {r acc seed : Nat} {n : GNode} {ins : List TVal} {outs : List TDesc} {seqs : List ASeq} {sat : Bool}
    (hS : Sound s) : Sound (attendScore s r acc seed n ins outs seqs sat).1 := by
  unfold attendScore
  refine orPoison_sound (orPoison_sound ?_ hS) hS
  split
  · exact failAt_sound (noteWalks_sound hS)
  · exact noteUse_sound (noteWalks_sound hS)

theorem attendAppend_sound {r acc : Nat} {n : GNode} {ins : List TVal} {seqs : List ASeq} (hS : Sound s) :
    Sound (attendAppend r acc n ins seqs s).1 := by
  dsimp only [attendAppend]
  split
  · split
    · exact runAll_sound (fun _ _ h => appendSeq_sound h) hS
    · exact hS
  · exact hS

theorem attendIndex_sound {r acc : Nat} {n : GNode} {seqs : List ASeq} {sat : Bool} (hS : Sound s) :
    Sound (attendIndex r acc n seqs sat s).1 := by
  unfold attendIndex
  split
  · refine foldl_fst_sound _ hS fun p x h => ?_
    split
    · exact h
    · exact writeIndex_sound h
  · exact hS

theorem attendDone_sound {n : GNode} {seqs : List ASeq} {o : State × Except Fail OpOut} (hS : Sound o.1) : Sound (attendDone n seqs o).1 := by
  unfold attendDone
  split <;> exact hS

theorem attendRest_sound {r acc seed : Nat} {n : GNode} {ins : List TVal} {outs : List TDesc} {seqs : List ASeq}
    {a : State × Bool × Except Fail Unit} (hS : Sound a.1) : Sound (attendRest r acc seed n ins outs seqs a).1 := by
  unfold attendRest
  split
  · exact hS
  · dsimp only
    split
    · exact attendIndex_sound hS
    · exact attendDone_sound (attendScore_sound (attendIndex_sound hS))

theorem attendExec_sound {r acc seed : Nat} {n : GNode} {ins : List TVal} {outs : List TDesc} (hS : Sound s) :
    Sound (attendExec r acc seed n ins outs s).1 := orPoison_sound (attendRest_sound (attendAppend_sound hS)) hS

theorem storeGranule_sound {mem num : Nat} {u : GranuleUse} {stored : List Byte} (hS : Sound s) : Sound (storeGranule mem num u stored s) := by
  unfold storeGranule
  extract_lets bs
  clear_value bs
  split
  · refine modMem_sound (f := fun m => { m with win := memWrite (granuleKey s mem _) bs m.win }) hS hS.2.1.1 (memWrite_canon hS.2.1.2.1) hS.2.1.2.2
  · refine modMem_sound (f := fun m => { m with room := memWrite (granuleKey s mem _) bs m.room }) hS hS.2.1.1 hS.2.1.2.1 (memWrite_canon hS.2.1.2.2)
  · exact hS

theorem poison_sound {mem num : Nat} {u : GranuleUse} (hS : Sound s) : Sound (poison mem num u s) := by
  dsimp only [poison]
  repeat' first
    | with_reducible assumption
    | (with_reducible refine marks_sound ?_ (fun _ => rfl) (fun _ => rfl) (fun _ => rfl))
    | split

theorem reportCodeword_sound {mem num loc code key : Nat} (hS : Sound s) : Sound (reportCodeword mem num loc code key s) := by
  dsimp only [reportCodeword]
  repeat' first
    | with_reducible assumption
    | with_reducible apply raiseFault_sound
    | with_reducible apply regSet_sound
    | with_reducible apply regInc_sound

theorem noteShow_sound {mem gang group num : Nat} (hS : Sound s) : Sound (noteShow mem gang group num s) := by
  dsimp only [noteShow]
  repeat' first
    | with_reducible assumption
    | with_reducible apply tick_sound
    | (with_reducible refine marks_sound ?_ (fun _ => rfl) (fun _ => rfl) (fun _ => rfl))

theorem meetWord_sound {mem num gang word : Nat} {u : GranuleUse} {o : WordOutcome} (hS : Sound s) : Sound (meetWord mem num gang word u o s) := by
  dsimp only [meetWord]
  repeat' first
    | with_reducible assumption
    | with_reducible apply noteShow_sound
    | with_reducible apply reportCodeword_sound
    | with_reducible apply poison_sound
    | with_reducible apply storeGranule_sound
    | split

theorem meetGranule_sound {mem num : Nat} {u : GranuleUse} {f : GranuleFinding} (hS : Sound s) : Sound (meetGranule mem num u f s) := by
  dsimp only [meetGranule]
  repeat' first
    | with_reducible assumption
    | with_reducible apply meetWord_sound
    | with_reducible apply foldl_sound
    | intro _ _ _

theorem jobRead_sound {x : GranuleRead} (hS : Sound s) : Sound (jobRead x s) := by
  dsimp only [jobRead]
  repeat' first
    | with_reducible assumption
    | with_reducible apply regSet_sound
    | with_reducible apply meetGranule_sound
    | split

theorem jobReads_sound {xs : List GranuleRead} (hS : Sound s) : Sound (jobReads xs s) := by
  dsimp only [jobReads]
  repeat' first
    | with_reducible assumption
    | with_reducible apply jobRead_sound
    | with_reducible apply foldl_sound

theorem completeJob_sound {j : Job} {r : JobResult} {simplex : Bool} {cls : Nat} (hS : Sound s) : Sound (completeJob j r simplex cls s) := by
  have key2 : ∀ t, Sound t → Sound (if cls = 2 then recordFault 2 iodSteward { t with lastClass := 2 } else t) :=
    fun t h => sound_ite (recordFault_sound h) h
  unfold completeJob
  extract_lets s1 idx bs s2 s3 s4
  have h1 : Sound s1 := sound_ite (realmWrite_sound hS) hS
  have h2 : Sound s2 := sound_ite (countDropped_sound h1) (modRing_sound (hostWrite_sound h1))
  have h3 : Sound s3 := filterJobs_sound h2
  have h4 : Sound s4 := undComplete_sound (drainLimbo_sound h3)
  exact key2 s4 h4

theorem failJob_sound {j : Job} {f : Fail} (hS : Sound s) : Sound (failJob j f s) := by
  dsimp only [failJob]
  repeat' first
    | with_reducible assumption
    | with_reducible apply completeJob_sound

theorem okJob_sound {j : Job} {detail : Nat} (hS : Sound s) : Sound (okJob j detail s) := by
  dsimp only [okJob]
  repeat' first
    | with_reducible assumption
    | with_reducible apply completeJob_sound

theorem storeTensor_sound {r : Nat} {t : TDesc} {units : List Nat} (hS : Sound s) : Sound (storeTensor r t units s).1 :=
  orPoisonW_sound (foldl_sound _ hS fun _ _ h => realmWrite_sound h) hS

theorem storeOuts_sound {r : Nat} {l : List (TDesc × List Nat)} (hS : Sound s) : Sound (storeOuts r l s).1 := by
  induction l generalizing s with
  | nil => exact hS
  | cons p t ih =>
    rw [storeOuts]
    split
    · exact sound_fst ‹_› (storeTensor_sound hS)
    · exact ih (sound_fst ‹_› (storeTensor_sound hS))

theorem runNode_sound {g : Graph} {j : Job} {n : GNode} {x : Run} (hS : Sound x.s) : Sound (runNode g j n x).1.s := by
  unfold runNode
  extract_lets r ins outs
  split
  · exact orPoisonW_sound (x := (x.s, none)) hS hS
  · split
    · split
      · exact sound_fst ‹_› (attendExec_sound hS)
      · exact storeOuts_sound (sound_fst ‹_› (attendExec_sound hS))
    · exact storeOuts_sound hS

/-- Nodes executed one after the other keep a state sound. -/
theorem runNodes_sound {g : Graph} {j : Job} {l : List GNode} {x : Run} (hS : Sound x.s) : Sound (runNodes g j l x).1.s := by
  induction l generalizing x with
  | nil => exact hS
  | cons n t ih =>
    have h1 := runNode_sound (g := g) (j := j) (n := n) hS
    rw [runNodes]
    split
    · rename_i heq
      rw [heq] at h1
      exact h1
    · rename_i heq
      rw [heq] at h1
      exact ih h1

theorem leaveSeg_sound {ctr r : Nat} {x : Nat × Nat} (hS : Sound s) : Sound (leaveSeg ctr r x s) := by
  have h := realmWrite_sound (r := r) (a := x.1) (bs := (List.range x.2).map fun i => Config.leftByte ctr (x.1 + i)) hS
  exact ⟨h.1, h.2⟩

theorem leaveOpen_sound {r : Nat} {l : List (Nat × Nat)} (hS : Sound s) : Sound (leaveOpen r l s) := by
  dsimp only [leaveOpen]
  repeat' first
    | with_reducible assumption
    | with_reducible apply leaveSeg_sound
    | with_reducible apply foldl_sound
    | intro _ _ _

theorem runGraph_sound {j : Job} (hS : Sound s) : Sound (runGraph j s).1 := by
  unfold runGraph
  refine orPoison_sound ?_ hS
  dsimp only
  split
  · exact settleAll_sound (leaveOpen_sound (runNodes_sound (x := ⟨s, Aux.none, [], none⟩) hS))
  · exact runNodes_sound (x := ⟨s, Aux.none, [], none⟩) hS

theorem countStale_sound {o : Outcome} (hS : Sound s) : Sound (countStale o s) := by
  dsimp only [countStale]
  repeat' first
    | with_reducible assumption
    | with_reducible apply regInc_sound
    | split

theorem writeOutcome_sound {o : Outcome} {simplex : Bool} (hS : Sound s) : Sound (writeOutcome o simplex s) := by
  dsimp only [writeOutcome]
  repeat' first
    | with_reducible assumption
    | with_reducible apply realmWrite_sound
    | with_reducible apply countStale_sound

theorem dropResult_sound {j : Job} {r : JobResult} {f : Fail} (hS : Sound s) : Sound (dropResult j r f s) := by
  dsimp only [dropResult]
  repeat' first
    | with_reducible assumption
    | with_reducible apply failJob_sound
    | with_reducible apply settleAll_sound
    | with_reducible apply leaveOpen_sound

theorem releaseResult_sound {j : Job} {r : JobResult} {simplex : Bool} {cls : Nat} (hS : Sound s) : Sound (releaseResult j r simplex cls s) := by
  dsimp only [releaseResult]
  repeat' first
    | with_reducible assumption
    | with_reducible apply dropResult_sound
    | with_reducible apply winPoisonEvent_sound
    | with_reducible apply settleAll_sound
    | with_reducible apply completeJob_sound
    | with_reducible apply writeOutcome_sound
    | split

theorem takeClaim_sound {j : Job} {c : Claim} (hS : Sound s) : Sound (takeClaim j c s) := by
  refine modJob_sound hS (fun _ => rfl) fun k hk => ?_
  dsimp only
  split
  · exact hk
  · exact hS.1.2.1

theorem runAhead_sound {run : JobRun} {j : Job} (hS : Sound s) : Sound (runAhead run j s) := by
  dsimp only [runAhead]
  repeat' first
    | with_reducible assumption
    | with_reducible apply fetchAhead_sound
    | with_reducible apply foldl_sound
    | split
    | intro _ _ _

theorem finishRun_sound {run : JobRun} {duplex : Bool} {j : Job} {o : State × Except Fail JobResult} (hS : Sound o.1) :
    Sound (finishRun run duplex j o) := by
  unfold finishRun
  split
  · exact failJob_sound hS
  · extract_lets held
    have h1 : Sound held := modJob_sound hS (fun _ => rfl) fun _ h => h
    clear_value held
    exact sound_ite h1 (sound_ite (gate_sound h1) (releaseResult_sound hS))

theorem setQuiet_sound {p : Nat} {q : Bool} (hS : Sound s) : Sound (setQuiet p q s) := by
  dsimp only [setQuiet]
  repeat' first
    | with_reducible assumption
    | with_reducible apply modPort_sound
    | split

theorem underBanks_sound {work : Job → State → State × Except Fail JobResult} {j : Job} (hw : ∀ s, Sound s → Sound (work j s).1)
    (hj : tcanon resetOf j.banks = true) (hS : Sound s) : Sound (underBanks work j s).1 := by
  rw [underBanks]
  split
  · exact hw s hS
  · exact setQuiet_sound (withActive_sound (hw _ (setQuiet_sound (withActive_sound hS hj))) hS.1.2.1)

theorem holdJob_sound {j : Job} {named changed : List Nat} (hS : Sound s) : Sound (holdJob j named changed s) := by
  refine modJob_sound hS (fun _ => rfl) fun k hk => ?_
  dsimp only
  split
  · exact hk
  · exact hS.1.2.1

theorem startJob_sound {run : JobRun} {duplex : State → Job → Bool} {work : Job → State → State × Except Fail JobResult} {j : Job} {o : PreOut}
    (hw : ∀ j s, Sound s → Sound (work j s).1) (hS : Sound s) : Sound (startJob run duplex work j o s) := by
  unfold startJob
  split
  · exact failJob_sound hS
  · exact hS
  · exact holdJob_sound hS
  · have h1 := takeClaim_sound (j := j) (c := ‹Claim›) hS
    have h2 := jobReads_sound (xs := runReads run) h1
    refine sound_ite (runAhead_sound h1) ?_
    split
    · exact finishRun_sound (underBanks_sound (hw _) (jobBanks_canon h1 ‹_›) h2)
    · exact h1

theorem jobCommand_sound {types : List Nat} {acc : Nat} {run : JobRun} {body : Job → List (Option Nat)} {pre : State → Job → PreOut}
    {work : Job → State → State × Except Fail JobResult} {duplex : State → Job → Bool} (hw : ∀ j s, Sound s → Sound (work j s).1)
    (hS : Sound s) : Sound (jobCommand types acc run body pre work duplex s) := by
  have h2 := jobReads_sound (xs := runReads run) hS
  rw [jobCommand]
  split
  · exact hS
  · refine sound_ite hS ?_
    split
    · exact hS
    · exact sound_ite hS (sound_ite (runAhead_sound hS) (finishRun_sound (underBanks_sound (hw _) (jobBanks_canon hS ‹_›) h2)))
    · exact startJob_sound hw hS
    · refine sound_ite hS ?_
      split
      · exact failJob_sound hS
      · split
        · exact failJob_sound hS
        · exact startJob_sound hw hS

theorem checkedWrite_sound {r a detail : Nat} {bs : List Byte} (hS : Sound s) : Sound (checkedWrite r a detail bs s).1 := by
  dsimp only [checkedWrite]
  repeat' first
    | with_reducible assumption
    | with_reducible apply orPoisonW_sound
    | with_reducible apply realmWrite_sound

theorem checkedRead_sound {r a n detail : Nat} (hS : Sound s) : Sound (checkedRead r a n detail s).1 := by
  dsimp only [checkedRead]
  repeat' first
    | with_reducible assumption
    | with_reducible apply orPoison_sound

theorem moveWork_sound {j : Job} (hS : Sound s) : Sound (moveWork j s).1 := by
  dsimp only [moveWork]
  repeat' first
    | with_reducible assumption
    | with_reducible apply checkedRead_sound
    | with_reducible apply leaveOpen_sound
    | with_reducible apply checkedWrite_sound
    | split
    | (refine sound_fst (by assumption) ?_)

theorem digestCheckWork_sound {j : Job} (hS : Sound s) : Sound (digestCheckWork j s).1 := by
  dsimp only [digestCheckWork]
  repeat' first
    | with_reducible assumption
    | with_reducible apply checkedRead_sound
    | split
    | (refine sound_fst (by assumption) ?_)

theorem unlessPoisoned_sound {j : Job} {es : List (Nat × Nat)} {work : State → State × Except Fail JobResult}
    (hw : Sound (work s).1) (hS : Sound s) : Sound (unlessPoisoned j es work s).1 := orPoison_sound hw hS

theorem writeHeader_sound {r a : Nat} {front back : List Byte} (hS : Sound s) : Sound (writeHeader r a front back s).1 := by
  dsimp only [writeHeader]
  repeat' first
    | with_reducible assumption
    | with_reducible apply checkedWrite_sound
    | split
    | (refine sound_fst (by assumption) ?_)

theorem clearEntries_sound {r a n : Nat} (hS : Sound s) : Sound (clearEntries r a n s).1 := by
  dsimp only [clearEntries]
  repeat' first
    | with_reducible assumption
    | with_reducible apply checkedWrite_sound
    | with_reducible apply invalidate_sound
    | with_reducible apply foldl_sound
    | split
    | intro _ _ _
    | (refine sound_fst (by assumption) ?_)

theorem createWork_sound {j : Job} (hS : Sound s) : Sound (createWork j s).1 := by
  dsimp only [createWork]
  repeat' first
    | with_reducible assumption
    | with_reducible apply unlessPoisoned_sound
    | with_reducible apply writeHeader_sound
    | with_reducible apply clearEntries_sound
    | split
    | intro _ _ _
    | (refine sound_fst (by assumption) ?_)

theorem forkWork_sound {j : Job} (hS : Sound s) : Sound (forkWork j s).1 := by
  dsimp only [forkWork]
  repeat' first
    | with_reducible assumption
    | with_reducible apply unlessPoisoned_sound
    | with_reducible apply checkedWrite_sound
    | with_reducible apply clearEntries_sound
    | with_reducible apply modRoom_sound
    | with_reducible apply realmWrite_sound
    | with_reducible apply foldl_sound
    | split
    | intro _ _ _
    | (refine sound_fst (by assumption) ?_)

theorem cutTable_sound {j : Job} {lo len : Nat} (hS : Sound s) : Sound (cutTable j lo len s).1 := by
  dsimp only [cutTable]
  repeat' first
    | with_reducible assumption
    | with_reducible apply unlessPoisoned_sound
    | with_reducible apply dropCount_sound
    | with_reducible apply setEntry_sound
    | with_reducible apply setLength_sound
    | with_reducible apply foldl_sound
    | split
    | intro _ _ _

theorem truncateWork_sound {j : Job} (hS : Sound s) : Sound (truncateWork j s).1 := by
  dsimp only [truncateWork]
  repeat' first
    | with_reducible assumption
    | with_reducible apply unlessPoisoned_sound
    | with_reducible apply cutTable_sound
    | split

theorem loadGroup_sound {j : Job} {t : RTable} {img : List Byte} {rows g : Nat} (hS : Sound s) : Sound (loadGroup j t img rows g s).1 := by
  dsimp only [loadGroup]
  repeat' first
    | with_reducible assumption
    | with_reducible apply openRoom_sound
    | with_reducible apply runAll_sound
    | with_reducible apply checkedRoomWrite_sound
    | split
    | intro _ _ _
    | (refine sound_fst (by assumption) ?_)

theorem loadWork_sound {j : Job} (hS : Sound s) : Sound (loadWork j s).1 := by
  unfold loadWork
  refine unlessPoisoned_sound ?_ hS
  dsimp only
  split
  · exact sound_fst ‹_› (checkedRead_sound hS)
  · have h1 := sound_fst ‹_› (checkedRead_sound hS)
    have h2 : ∀ (t : State) (l : List Nat) (k : Nat) (x : RTable) (b : List Byte) (m : Nat), Sound t →
        Sound (if k = 0 then (t, Except.ok ()) else runAll (loadGroup j x b m) l t).1 := by
      intro t l k x b m ht
      split
      · exact ht
      · exact runAll_sound (fun _ _ h => loadGroup_sound h) ht
    split
    · exact settleAll_sound (h2 _ _ _ _ _ _ h1)
    · exact setLength_sound (marks_sound (h2 _ _ _ _ _ _ h1) (fun _ => rfl) (fun _ => rfl) (fun _ => rfl))

theorem saveWork_sound {j : Job} (hS : Sound s) : Sound (saveWork j s).1 := by
  dsimp only [saveWork]
  repeat' first
    | with_reducible assumption
    | with_reducible apply unlessPoisoned_sound
    | with_reducible apply leaveOpen_sound
    | with_reducible apply failAt_sound
    | with_reducible apply checkedWrite_sound
    | split
    | intro _ _ _
    | (refine sound_fst (by assumption) ?_)

theorem leaveJob_sound {j : Job} (hS : Sound s) : Sound (leaveJob j s) := by
  dsimp only [leaveJob]
  repeat' first
    | with_reducible assumption
    | with_reducible apply leaveOpen_sound
    | split

theorem invalidateRoom_sound {r room : Nat} (hS : Sound s) : Sound (invalidateRoom r room s) := by
  dsimp only [invalidateRoom]
  repeat' first
    | with_reducible assumption
    | (with_reducible refine marks_sound ?_ (fun _ => rfl) (fun _ => rfl) (fun _ => rfl))

theorem moveRoom_sound {r room : Nat} {hot : Bool} (hS : Sound s) : Sound (moveRoom r room hot s) := by
  dsimp only [moveRoom]
  repeat' first
    | with_reducible assumption
    | with_reducible apply modRoom_sound
    | with_reducible apply drainLimbo_sound
    | with_reducible apply invalidateRoom_sound
    | (with_reducible refine marks_sound ?_ (fun _ => rfl) (fun _ => rfl) (fun _ => rfl))

theorem placeWork_sound {j : Job} (hS : Sound s) : Sound (placeWork j s).1 := by
  dsimp only [placeWork]
  repeat' first
    | with_reducible assumption
    | with_reducible apply unlessPoisoned_sound
    | with_reducible apply modRealm_sound
    | with_reducible apply moveRoom_sound
    | with_reducible apply foldl_sound
    | split
    | intro _ _ _

end Sys2Proof.Machine
end

