-- ==== Sys2Proof/Laws/SoundFaults.lean ====
section
/-! SUPPORT. Faults, the engines and the memory commands keep a state sound. -/

namespace Sys2Proof.Machine

variable {s : State}

theorem writeWear_sound  (hS : Sound s) : Sound (writeWear s) := by
  dsimp only [writeWear]
  repeat' first
    | with_reducible assumption

theorem endWork_sound (hS : Sound s) : Sound (endWork s) :=
  ⟨hS.1, hS.2.1, ⟨List.Pairwise.nil, fun _ h => nomatch h⟩, hS.2.2.2⟩

theorem dropStacks_sound (hS : Sound s) : Sound (modMem dropStacks s) := modMem_sound hS hS.2.1.1 rfl rfl

theorem enterSafeOff_sound (hS : Sound s) : Sound (enterSafeOff s) :=
  setOp_sound (dropStacks_sound (endWork_sound (writeWear_sound hS))) nofun

theorem safeState_sound {cause src : Nat} (hS : Sound s) : Sound (safeState cause src s) := by
  dsimp only [safeState]
  repeat' first
    | with_reducible assumption
    | with_reducible apply raiseFault_sound

theorem safeOffFor_sound {cause : Nat} (hS : Sound s) : Sound (safeOffFor cause s) := by
  dsimp only [safeOffFor]
  repeat' first
    | with_reducible assumption
    | with_reducible apply regSet_sound
    | with_reducible apply enterSafeOff_sound
    | split

theorem classD_sound {cause src : Nat} (hS : Sound s) : Sound (classD cause src s) := by
  dsimp only [classD]
  repeat' first
    | with_reducible assumption
    | with_reducible apply safeState_sound
    | with_reducible apply safeOffFor_sound
    | split

theorem islandsFail_sound  (hS : Sound s) : Sound (islandsFail s) := by
  dsimp only [islandsFail]
  repeat' first
    | with_reducible assumption
    | with_reducible apply classD_sound
    | with_reducible apply safeOffFor_sound
    | split

theorem classDWith_sound {e : Ev} {cause : Nat} (hS : Sound s) : Sound (classDWith e cause s) := by
  dsimp only [classDWith]
  repeat' first
    | with_reducible assumption
    | with_reducible apply raiseFault_sound
    | with_reducible apply classD_sound
    | with_reducible apply raise_sound
    | split

theorem loseDie_sound {k : Nat} (hS : Sound s) : Sound (loseDie k s) :=
  modMem_sound hS hS.2.1.1 (tcanon_filter _ hS.2.1.2.1) (tcanon_filter _ hS.2.1.2.2)

theorem rehomeJournal_sound {k : Nat} (hS : Sound s) : Sound (rehomeJournal k s) := by
  dsimp only [rehomeJournal]
  repeat' first
    | with_reducible assumption
    | (with_reducible refine marks_sound ?_ (fun _ => rfl) (fun _ => rfl) (fun _ => rfl))

theorem replaceLimp_sound {k : Nat} (hS : Sound s) : Sound (replaceLimp k s) := by
  dsimp only [replaceLimp]
  repeat' first
    | with_reducible assumption
    | with_reducible apply classD_sound
    | split

theorem removeDie_sound {k cause : Nat} (hS : Sound s) : Sound (removeDie k cause s) := by
  dsimp only [removeDie]
  repeat' first
    | with_reducible assumption
    | with_reducible apply regMod_sound
    | with_reducible apply modEngine_sound
    | with_reducible apply raiseFault_sound
    | with_reducible apply rehomeJournal_sound
    | with_reducible apply loseDie_sound
    | with_reducible apply classD_sound
    | with_reducible apply replaceLimp_sound
    | split

theorem removeEngine_sound {e cause : Nat} (hS : Sound s) : Sound (removeEngine e cause s) := by
  dsimp only [removeEngine]
  repeat' first
    | with_reducible assumption
    | with_reducible apply raiseFault_sound
    | with_reducible apply classD_sound
    | split

theorem orderRemoval_sound {k cause : Nat} (hS : Sound s) : Sound (orderRemoval k cause s) := by
  dsimp only [orderRemoval]
  repeat' first
    | with_reducible assumption
    | with_reducible apply gateOr_sound
    | with_reducible apply removeDie_sound

theorem orderEngineRemoval_sound {e cause : Nat} (hS : Sound s) : Sound (orderEngineRemoval e cause s) := by
  dsimp only [orderEngineRemoval]
  repeat' first
    | with_reducible assumption
    | with_reducible apply gateOr_sound
    | with_reducible apply removeEngine_sound

theorem rejoinIsl_sound {i : Isl} {pass : Bool} (hS : Sound s) : Sound (rejoinIsl i pass s) := by
  dsimp only [rejoinIsl]
  repeat' first
    | with_reducible assumption
    | with_reducible apply raise_sound
    | with_reducible apply setIsl_sound
    | with_reducible apply modIsl_sound
    | with_reducible apply raiseFault_sound
    | split

theorem rejoinBoth_sound {passA passB : Bool} (hS : Sound s) : Sound (rejoinBoth passA passB s) := by
  dsimp only [rejoinBoth]
  repeat' first
    | with_reducible assumption
    | with_reducible apply rejoinIsl_sound

theorem stopJob_sound {mode : Nat} {j : Job} (hS : Sound s) : Sound (stopJob mode j s) := by
  dsimp only [stopJob]
  repeat' first
    | with_reducible assumption
    | with_reducible apply failJob_sound
    | with_reducible apply leaveJob_sound
    | with_reducible apply regInc_sound

theorem stopLodgers_sound {mode : Nat} {all : Bool} (hS : Sound s) : Sound (stopLodgers mode all s) := by
  dsimp only [stopLodgers]
  repeat' first
    | with_reducible assumption
    | with_reducible apply stopJob_sound
    | with_reducible apply foldl_sound
    | intro _ _ _

theorem dropLodgerTiles_sound  (hS : Sound s) : Sound (dropLodgerTiles s) := by
  dsimp only [dropLodgerTiles]
  repeat' first
    | with_reducible assumption
    | with_reducible apply modEngine_sound
    | with_reducible apply foldl_sound
    | intro _ _ _

theorem endFencesOnce_sound  (hS : Sound s) : Sound (endFencesOnce s) := by
  dsimp only [endFencesOnce]
  repeat' first
    | with_reducible assumption
    | with_reducible apply okJob_sound
    | with_reducible apply foldl_sound
    | intro _ _ _

theorem endFences_sound  (hS : Sound s) : Sound (endFences s) := by
  dsimp only [endFences]
  repeat' first
    | with_reducible assumption
    | with_reducible apply endFencesOnce_sound
    | with_reducible apply foldl_sound
    | intro _ _ _

theorem unmapUnits_sound {r : Nat} (hS : Sound s) : Sound (unmapUnits r s) := by
  dsimp only [unmapUnits]
  repeat' first
    | with_reducible assumption
    | with_reducible apply actSet_sound
    | with_reducible apply foldl_sound
    | intro _ _ _

theorem releaseMemory_sound {r : Nat} (hS : Sound s) : Sound (releaseMemory r s) := by
  have h := invalidateRealm_sound (r := r) hS
  exact modRealm_sound (modMem_sound h h.2.1.1 (tcanon_filter _ h.2.1.2.1) (tcanon_filter _ h.2.1.2.2))

theorem releaseRealm_sound {cause r : Nat} (hS : Sound s) : Sound (releaseRealm cause r s) := by
  dsimp only [releaseRealm]
  repeat' first
    | with_reducible assumption
    | with_reducible apply raise_sound
    | with_reducible apply releaseMemory_sound
    | with_reducible apply modRealm_sound
    | with_reducible apply undRelease_sound
    | with_reducible apply actSet_sound
    | with_reducible apply unmapUnits_sound

theorem releaseLodgers_sound {cause mode : Nat} (hS : Sound s) : Sound (releaseLodgers cause mode s) := by
  dsimp only [releaseLodgers]
  repeat' first
    | with_reducible assumption
    | with_reducible apply endFences_sound
    | with_reducible apply stopLodgers_sound
    | with_reducible apply releaseRealm_sound
    | with_reducible apply foldl_sound
    | split
    | intro _ _ _

theorem limpRelease_sound  (hS : Sound s) : Sound (limpRelease s) := by
  dsimp only [limpRelease]
  repeat' first
    | with_reducible assumption
    | with_reducible apply releaseLodgers_sound
    | with_reducible apply rejoinBoth_sound
    | split

theorem flowStop_sound {cause die : Nat} (hS : Sound s) : Sound (flowStop cause die s) := by
  dsimp only [flowStop]
  repeat' first
    | with_reducible assumption
    | with_reducible apply raise_sound

theorem dropDisputes_sound  (hS : Sound s) : Sound (dropDisputes s) := by
  dsimp only [dropDisputes]
  repeat' first
    | with_reducible assumption
    | with_reducible apply dropResult_sound
    | with_reducible apply foldl_sound
    | split
    | intro _ _ _

theorem followRail_sound {d : Nat} (hS : Sound s) : Sound (followRail d s) := by
  dsimp only [followRail]
  repeat' first
    | with_reducible assumption
    | with_reducible apply modTherm_sound

theorem setLevel_sound {d g l : Nat} (hS : Sound s) : Sound (setLevel d g l s) := by
  dsimp only [setLevel]
  repeat' first
    | with_reducible assumption
    | with_reducible apply regMod_sound
    | split

theorem enterLimp_sound {cause die : Nat} (hS : Sound s) : Sound (enterLimp cause die s) := by
  have h1 : Sound (flowStop cause die (regSet K.THM_STATUS_limp_cause cause s)) := flowStop_sound (regSet_sound hS)
  unfold enterLimp
  split
  · exact hS
  · extract_lets s1
    replace h1 : Sound s1 := h1
    clear_value s1
    split
    · exact classD_sound h1
    · extract_lets s2 s3 s4
      have h2 : Sound s2 := setOp_sound h1 nofun
      have h4 : Sound s4 := dropDisputes_sound (foldl_sound _ h2 fun _ _ h => regSet_sound h)
      clear_value s4
      split
      · exact limpRelease_sound (dropLodgerTiles_sound (stopLodgers_sound h4))
      · exact h4

theorem sideWrite_sound {b : Bool} {r a : Nat} {bs : List Byte} (hS : Sound s) : Sound (sideWrite b r a bs s) :=
  sound_ite (foldl_sound _ hS fun _ _ h => ⟨h.1, ⟨h.2.1.1, copyWrite_canon h.2.1.2.1, h.2.1.2.2⟩, h.2.2⟩) (realmWrite_sound hS)

theorem rowHome_sound {b : Bool} {r : Nat} {t : TDesc} {row u0 : Nat} {units : List Nat} (hS : Sound s) : Sound (rowHome b r t row u0 units s) := by
  dsimp only [rowHome]
  repeat' first
    | with_reducible assumption
    | with_reducible apply sideWrite_sound
    | with_reducible apply foldl_sound
    | split
    | intro _ _ _

theorem blockHome_sound {b : Bool} {r : Nat} {t : TDesc} {rows : List Nat} {c0 : Nat} {block : List (List Nat)} (hS : Sound s) : Sound (blockHome b r t rows c0 block s) := by
  dsimp only [blockHome]
  repeat' first
    | with_reducible assumption
    | with_reducible apply rowHome_sound
    | with_reducible apply foldl_sound
    | split
    | intro _ _ _

theorem writeHome_sound {d : Nat} {j : Job} {g : Graph} {n : GNode} {t : Tile} (hS : Sound s) : Sound (writeHome s d j g n t) := by
  dsimp only [writeHome]
  repeat' first
    | with_reducible assumption
    | with_reducible apply blockHome_sound
    | with_reducible apply foldl_sound
    | split
    | intro _ _ _

theorem markPass_sound {d i : Nat} (hS : Sound s) : Sound (markPass d i s) := by
  dsimp only [markPass]
  repeat' first
    | with_reducible assumption
    | with_reducible apply regMod_sound

theorem recordA_sound {src : Nat} (hS : Sound s) : Sound (recordA src s) := by
  dsimp only [recordA]
  repeat' first
    | with_reducible assumption
    | with_reducible apply recordFault_sound

theorem discardTiles_sound {d : Nat} {which : Tile → Bool} (hS : Sound s) : Sound (discardTiles d which s) := by
  dsimp only [discardTiles]
  repeat' first
    | with_reducible assumption
    | with_reducible apply modEngine_sound

theorem withdrawArray_sound {d i : Nat} (hS : Sound s) : Sound (withdrawArray d i s) := by
  dsimp only [withdrawArray]
  repeat' first
    | with_reducible assumption
    | with_reducible apply regMod_sound
    | with_reducible apply modEngine_sound
    | with_reducible apply discardTiles_sound
    | with_reducible apply recordA_sound
    | with_reducible apply orderRemoval_sound
    | split

theorem withdrawCluster_sound {d c : Nat} (hS : Sound s) : Sound (withdrawCluster d c s) := by
  dsimp only [withdrawCluster]
  repeat' first
    | with_reducible assumption
    | with_reducible apply discardTiles_sound
    | with_reducible apply withdrawArray_sound
    | with_reducible apply foldl_sound
    | intro _ _ _

theorem countIssue_sound {d r : Nat} (hS : Sound s) : Sound (countIssue d r s) := by
  dsimp only [countIssue]
  repeat' first
    | with_reducible assumption
    | with_reducible apply modEngine_sound
    | split

theorem countDeferral_sound {d i : Nat} (hS : Sound s) : Sound (countDeferral d i s) := by
  dsimp only [countDeferral]
  repeat' first
    | with_reducible assumption
    | with_reducible apply regInc_sound
    | with_reducible apply modEngine_sound
    | split

theorem putTile_sound {d : Nat} {x : TileDesc} {res : List (List (List Nat))} (hS : Sound s) : Sound (putTile d x res s) := by
  dsimp only [putTile]
  repeat' first
    | with_reducible assumption
    | with_reducible apply modEngine_sound
    | with_reducible apply regMod_sound

theorem issueTile_sound {d : Nat} {x : TileDesc} (hS : Sound s) : Sound (issueTile d x s) := by
  dsimp only [issueTile]
  repeat' first
    | with_reducible assumption
    | with_reducible apply putTile_sound
    | with_reducible apply countIssue_sound
    | with_reducible apply countDeferral_sound
    | split

theorem dropTile_sound {d t : Nat} (hS : Sound s) : Sound (dropTile d t s) := by
  dsimp only [dropTile]
  repeat' first
    | with_reducible assumption
    | with_reducible apply modEngine_sound

theorem detect_sound {d unit : Nat} (hS : Sound s) : Sound (detect d unit s) := by
  dsimp only [detect]
  repeat' first
    | with_reducible assumption
    | with_reducible apply modEngine_sound

theorem reissue_sound {d : Nat} {t : Tile} {again : Option (Fin 24 × Fin 8)} (hS : Sound s) : Sound (reissue d t again s) := by
  dsimp only [reissue]
  repeat' first
    | with_reducible assumption
    | with_reducible apply modEngine_sound
    | with_reducible apply dropTile_sound
    | with_reducible apply countDeferral_sound
    | split

theorem engineFault_sound {j : Job} {node : Nat} (hS : Sound s) : Sound (engineFault j node s) := by
  dsimp only [engineFault]
  repeat' first
    | with_reducible assumption
    | with_reducible apply dropResult_sound
    | with_reducible apply failJob_sound
    | with_reducible apply leaveOpen_sound
    | split

theorem failTile_sound {d : Nat} {t : Tile} {unit : Nat} {again : Option (Fin 24 × Fin 8)} (hS : Sound s) : Sound (failTile d t unit again s) := by
  dsimp only [failTile]
  repeat' first
    | with_reducible assumption
    | with_reducible apply detect_sound
    | with_reducible apply modEngine_sound
    | with_reducible apply engineFault_sound
    | with_reducible apply reissue_sound
    | with_reducible apply foldl_sound
    | split
    | intro _ _ _

theorem retirePassed_sound {d : Nat} {x : Tile} {f : TileFault} (hS : Sound s) : Sound (retirePassed d x f s) := by
  dsimp only [retirePassed]
  repeat' first
    | with_reducible assumption
    | with_reducible apply dropTile_sound
    | with_reducible apply writeHome_sound
    | with_reducible apply modEngine_sound
    | split

theorem doubleError_sound {d : Nat} {x : Tile} {users : List Nat} {again : Option (Fin 24 × Fin 8)} (hS : Sound s) : Sound (doubleError d x users again s) := by
  dsimp only [doubleError]
  repeat' first
    | with_reducible assumption
    | with_reducible apply recordA_sound
    | with_reducible apply modEngine_sound
    | with_reducible apply discardTiles_sound
    | with_reducible apply reissue_sound
    | with_reducible apply dropTile_sound
    | with_reducible apply withdrawCluster_sound
    | split

theorem checkTile_sound {d : Nat} {x : Tile} {f : TileFault} {again : Option (Fin 24 × Fin 8)} (hS : Sound s) : Sound (checkTile d x f again s) := by
  dsimp only [checkTile]
  repeat' first
    | with_reducible assumption
    | with_reducible apply recordA_sound
    | with_reducible apply failTile_sound
    | with_reducible apply dropTile_sound
    | with_reducible apply detect_sound
    | with_reducible apply doubleError_sound
    | with_reducible apply retirePassed_sound
    | with_reducible apply foldl_sound
    | split
    | intro _ _ _

theorem retireTile_sound {d t : Nat} {f : TileFault} {again : Option (Fin 24 × Fin 8)} (hS : Sound s) : Sound (retireTile d t f again s) := by
  dsimp only [retireTile]
  repeat' first
    | with_reducible assumption
    | with_reducible apply checkTile_sound
    | with_reducible apply modEngine_sound
    | with_reducible apply detect_sound
    | split

theorem startRehearsal_sound {d i : Nat} (hS : Sound s) : Sound (startRehearsal d i s) := by
  dsimp only [startRehearsal]
  repeat' first
    | with_reducible assumption
    | with_reducible apply modEngine_sound
    | split

theorem failDiag_sound {d i : Nat} (hS : Sound s) : Sound (failDiag d i s) := by
  dsimp only [failDiag]
  repeat' first
    | with_reducible assumption

theorem endCalls_sound {d i : Nat} (hS : Sound s) : Sound (endCalls d i s) := by
  dsimp only [endCalls]
  repeat' first
    | with_reducible assumption
    | with_reducible apply regInc_sound
    | with_reducible apply recordA_sound
    | with_reducible apply modEngine_sound
    | with_reducible apply foldl_sound
    | intro _ _ _

theorem endRehearsal_sound {d i : Nat} {run : GoldenRun} (hS : Sound s) : Sound (endRehearsal d i run s) := by
  dsimp only [endRehearsal]
  repeat' first
    | with_reducible assumption
    | with_reducible apply modEngine_sound
    | with_reducible apply endCalls_sound
    | with_reducible apply markPass_sound
    | with_reducible apply failDiag_sound
    | with_reducible apply withdrawCluster_sound
    | with_reducible apply withdrawArray_sound
    | split

theorem warmLoop_sound {d : Nat} {x : Fin 24 × Fin 8 × GoldenRun} (hS : Sound s) : Sound (warmLoop d x s) := by
  dsimp only [warmLoop]
  repeat' first
    | with_reducible assumption
    | with_reducible apply endCalls_sound
    | with_reducible apply markPass_sound
    | with_reducible apply modEngine_sound
    | with_reducible apply withdrawArray_sound
    | split

theorem keepWarm_sound {d : Nat} {loops : List (Fin 24 × Fin 8 × GoldenRun)} {short : Bool} (hS : Sound s) : Sound (keepWarm d loops short s) := by
  dsimp only [keepWarm]
  repeat' first
    | with_reducible assumption
    | with_reducible apply warmLoop_sound
    | with_reducible apply regSet_sound
    | with_reducible apply raise_sound
    | with_reducible apply foldl_sound
    | split
    | intro _ _ _

theorem startDie_sound {bad : Bool} {first : Bool} {d : Nat} (hS : Sound s) : Sound (startDie bad first d s) := by
  dsimp only [startDie]
  repeat' first
    | with_reducible assumption
    | with_reducible apply regMod_sound
    | with_reducible apply regSet_sound
    | with_reducible apply modEngine_sound
    | with_reducible apply foldl_sound
    | split
    | intro _ _ _

theorem rejoinElement_sound {el : Nat} (hS : Sound s) : Sound (rejoinElement el s) := by
  dsimp only [rejoinElement]
  repeat' first
    | with_reducible assumption
    | with_reducible apply raise_sound

theorem beginTest_sound {p : Nat} (hS : Sound s) : Sound (beginTest p s) := by
  dsimp only [beginTest]
  repeat' first
    | with_reducible assumption
    | split

theorem startFrame_sound {bad : List (Fin 4)} (hS : Sound s) : Sound (startFrame bad s) := by
  dsimp only [startFrame]
  repeat' first
    | with_reducible assumption
    | with_reducible apply regMod_sound
    | with_reducible apply rejoinElement_sound
    | with_reducible apply beginTest_sound
    | with_reducible apply startDie_sound
    | with_reducible apply foldl_sound
    | split
    | intro _ _ _

end Sys2Proof.Machine
end

