-- ==== Sys2Proof/Laws/SoundThermal.lean ====
section
/-! SUPPORT. Cooling, islands, links, boot and the time base keep a state sound. -/

namespace Sys2Proof.Machine

variable {s : State}

theorem holdLevels_sound {d : Nat} (hS : Sound s) : Sound (holdLevels d s) := by
  dsimp only [holdLevels]
  repeat' first
    | with_reducible assumption
    | with_reducible apply followRail_sound
    | with_reducible apply setLevel_sound
    | with_reducible apply foldl_sound
    | intro _ _ _

theorem judgeDiode_sound {d h i : Nat} {old : Option Int} {v : Int} (hS : Sound s) : Sound (judgeDiode d h i old v s) := by
  dsimp only [judgeDiode]
  repeat' first
    | with_reducible assumption
    | with_reducible apply raiseFault_sound
    | with_reducible apply regMod_sound
    | split

theorem judgeGap_sound {d h : Nat} {gap : Int} (hS : Sound s) : Sound (judgeGap d h gap s) := by
  dsimp only [judgeGap]
  repeat' first
    | with_reducible assumption
    | with_reducible apply disagree_sound
    | with_reducible apply modTherm_sound
    | with_reducible apply raise_sound
    | split

theorem goBlind_sound {d h : Nat} (hS : Sound s) : Sound (goBlind d h s) := by
  dsimp only [goBlind]
  repeat' first
    | with_reducible assumption
    | with_reducible apply regMod_sound
    | with_reducible apply raiseFault_sound
    | with_reducible apply regSet_sound
    | with_reducible apply holdLevels_sound
    | with_reducible apply orderRemoval_sound
    | split

theorem fireOnce_sound {trigger : Nat} {act : State → State} (ha : ∀ t, Sound t → Sound (act t)) (hS : Sound s) : Sound (fireOnce trigger act s) :=
  sound_ite hS (ha _ (sound_congr hS rfl rfl rfl rfl rfl rfl rfl rfl rfl))

theorem readSpot_sound {d h : Nat} {x : Int × Int} (hS : Sound s) : Sound (readSpot d h x s) := by
  dsimp only [readSpot]
  repeat' first
    | with_reducible assumption
    | with_reducible apply judgeDiode_sound
    | with_reducible apply goBlind_sound
    | with_reducible apply judgeGap_sound
    | with_reducible apply regSet_sound
    | with_reducible apply modTherm_sound
    | with_reducible apply fireOnce_sound
    | with_reducible apply classDWith_sound
    | split
    | intro _ _ _
    | with_reducible intro _ _

theorem countCycles_sound {d : Nat} (hS : Sound s) : Sound (countCycles d s) := by
  dsimp only [countCycles]
  repeat' first
    | with_reducible assumption
    | with_reducible apply modTherm_sound
    | with_reducible apply regInc_sound
    | split

theorem trackFlow_sound {flow : Int} (hS : Sound s) : Sound (trackFlow flow s) := by
  dsimp only [trackFlow]
  repeat' first
    | with_reducible assumption

theorem sampleCoolant_sound {inlet outlet flow : Int} (hS : Sound s) : Sound (sampleCoolant inlet outlet flow s) := by
  dsimp only [sampleCoolant]
  repeat' first
    | with_reducible assumption
    | with_reducible apply regSet_sound
    | with_reducible apply tick_sound
    | with_reducible apply trackFlow_sound
    | with_reducible apply raiseFault_sound
    | split

theorem sample_sound {x : Sample} (hS : Sound s) : Sound (sample x s) := by
  dsimp only [sample]
  repeat' first
    | with_reducible assumption
    | with_reducible apply readSpot_sound
    | with_reducible apply countCycles_sound
    | with_reducible apply modTherm_sound
    | with_reducible apply sampleCoolant_sound
    | with_reducible apply foldl_sound
    | split
    | intro _ _ _

theorem updateCap_sound (hS : Sound s) : Sound (updateCap s) := by
  unfold updateCap
  extract_lets c s1 differs x s2 cap last s3
  have h3 : Sound s3 := regSet_sound (show Sound s1 from regSet_sound (regSet_sound hS))
  exact sound_ite (raise_sound h3) h3

theorem riseTest_sound {d : Nat} (hS : Sound s) : Sound (riseTest d s).1 := by
  dsimp only [riseTest]
  repeat' first
    | with_reducible assumption
    | with_reducible apply modTherm_sound
    | split

theorem riseTests_sound  (hS : Sound s) : Sound (riseTests s) := by
  dsimp only [riseTests]
  repeat' first
    | with_reducible assumption
    | with_reducible apply riseTest_sound
    | with_reducible apply enterLimp_sound
    | with_reducible apply foldl_sound
    | split
    | intro _ _ _

theorem limpExit_sound (hS : Sound s) : Sound (limpExit s) := by
  unfold limpExit
  extract_lets cool flow x s1
  have h1 : Sound s1 := setOp_sound (s := { s with dpx := _ }) hS fun h => by
    split at h
    · assumption
    · cases h
  exact sound_ite hS (raise_sound (regSet_sound h1))

theorem stepDie_sound {s0 : State} {d : Nat} (hS : Sound s) : Sound (stepDie s0 d s) := by
  unfold stepDie
  extract_lets nx changed s1
  have h1 : Sound s1 := foldl_sound _ hS fun t g h => setLevel_sound (s := { t with thm := _ }) h
  exact sound_ite (raise_sound (modTherm_sound h1)) h1

theorem throttle_sound (hS : Sound s) : Sound (throttle s) := by
  unfold throttle
  extract_lets s1 s2 s3
  have h2 : Sound s2 := riseTests_sound (updateCap_sound hS)
  have h3 : Sound s3 := sound_ite (enterLimp_sound h2) h2
  exact sound_ite hS (sound_ite (foldl_sound _ h3 fun _ _ h => sound_ite (stepDie_sound h) h) h3)

theorem wearTime_sound {before after : Nat} (hS : Sound s) : Sound (wearTime before after s) := by
  dsimp only [wearTime]
  repeat' first
    | with_reducible assumption
    | with_reducible apply regMod_sound
    | with_reducible apply regInc_sound
    | with_reducible apply modTherm_sound
    | with_reducible apply foldl_sound
    | split
    | intro _ _ _

theorem stopIsl_sound {i : Isl} (hS : Sound s) : Sound (stopIsl i s) := by
  dsimp only [stopIsl]
  repeat' first
    | with_reducible assumption
    | with_reducible apply modIsl_sound
    | with_reducible apply islandsFail_sound
    | split

theorem takeOver_sound {new : Isl} {cause : Nat} (hS : Sound s) : Sound (takeOver new cause s) := by
  dsimp only [takeOver]
  repeat' first
    | with_reducible assumption
    | with_reducible apply raise_sound
    | with_reducible apply regSet_sound

theorem orderRole_sound {new : Isl} {cause : Nat} (hS : Sound s) : Sound (orderRole new cause s) := by
  dsimp only [orderRole]
  repeat' first
    | with_reducible assumption
    | with_reducible apply gate_sound
    | with_reducible apply takeOver_sound
    | split

theorem haltIsl_sound {i : Isl} {cycles : Nat} (hS : Sound s) : Sound (haltIsl i cycles s) := by
  dsimp only [haltIsl]
  repeat' first
    | with_reducible assumption
    | with_reducible apply modIsl_sound
    | with_reducible apply setIsl_sound
    | with_reducible apply raise_sound
    | with_reducible apply islandsFail_sound
    | split

theorem mismatch_sound {i : Isl} {cycles : Nat} (hS : Sound s) : Sound (mismatch i cycles s) := by
  dsimp only [mismatch]
  repeat' first
    | with_reducible assumption
    | with_reducible apply haltIsl_sound
    | split

theorem loseIsl_sound {i : Isl} (hS : Sound s) : Sound (loseIsl i s) := by
  dsimp only [loseIsl]
  repeat' first
    | with_reducible assumption
    | with_reducible apply raiseFault_sound
    | with_reducible apply modIsl_sound
    | with_reducible apply setIsl_sound
    | with_reducible apply orderRole_sound
    | with_reducible apply islandsFail_sound
    | split

theorem singleIsl_sound {i : Isl} {mainBroken : Bool} (hS : Sound s) : Sound (singleIsl i mainBroken s) := by
  dsimp only [singleIsl]
  repeat' first
    | with_reducible assumption
    | with_reducible apply raiseFault_sound
    | with_reducible apply modIsl_sound
    | with_reducible apply setIsl_sound

theorem failIsl_sound {i : Isl} (hS : Sound s) : Sound (failIsl i s) := by
  dsimp only [failIsl]
  repeat' first
    | with_reducible assumption
    | with_reducible apply raiseFault_sound
    | with_reducible apply setIsl_sound

theorem reportD_sound {i : Isl} {works : Bool} (hS : Sound s) : Sound (reportD i works s) := by
  dsimp only [reportD]
  repeat' first
    | with_reducible assumption
    | with_reducible apply safeState_sound
    | split

theorem latent_sound {i : Isl} {same mainParity checkerParity : Bool} (hS : Sound s) : Sound (latent i same mainParity checkerParity s) := by
  dsimp only [latent]
  repeat' first
    | with_reducible assumption
    | with_reducible apply haltIsl_sound
    | with_reducible apply modIsl_sound
    | with_reducible apply raiseFault_sound
    | split

theorem dbgInspect_sound {halted : Bool} {w : Nat} {core : List (Nat × Nat)} (hS : Sound s) : Sound (dbgInspect halted w core s) := by
  dsimp only [dbgInspect]
  repeat' first
    | with_reducible assumption
    | split

theorem dbgWrite_sound {i : Isl} {w v : Nat} (hS : Sound s) : Sound (dbgWrite i w v s) := by
  dsimp only [dbgWrite]
  repeat' first
    | with_reducible assumption
    | with_reducible apply modIsl_sound

theorem dbgIsland_sound {i : Isl} {act : DebugAct} (hS : Sound s) : Sound (dbgIsland i act s) := by
  dsimp only [dbgIsland]
  repeat' first
    | with_reducible assumption
    | with_reducible apply modIsl_sound
    | with_reducible apply dbgWrite_sound
    | with_reducible apply dbgInspect_sound
    | split

theorem showLink_sound {l : Nat} (hS : Sound s) : Sound (showLink l s) := by
  dsimp only [showLink]
  repeat' first
    | with_reducible assumption
    | with_reducible apply regSet_sound

theorem writeEnd_sound {l fin : Nat} {rev : Bool} (hS : Sound s) : Sound (writeEnd l fin rev s) := by
  dsimp only [writeEnd]
  repeat' first
    | with_reducible assumption
    | split

theorem writeRecord_sound {l : Nat} {rev : Bool} (hS : Sound s) : Sound (writeRecord l rev s) := by
  dsimp only [writeRecord]
  repeat' first
    | with_reducible assumption
    | with_reducible apply writeEnd_sound

theorem retopo_sound {l : Nat} (hS : Sound s) : Sound (retopo l s) := by
  dsimp only [retopo]
  repeat' first
    | with_reducible assumption
    | with_reducible apply regMod_sound
    | with_reducible apply foldl_sound
    | intro _ _ _

theorem dropIsolated_sound  (hS : Sound s) : Sound (dropIsolated s) := by
  dsimp only [dropIsolated]
  repeat' first
    | with_reducible assumption
    | with_reducible apply orderRemoval_sound
    | with_reducible apply foldl_sound
    | split
    | intro _ _ _

theorem giveUpReset_sound  (hS : Sound s) : Sound (giveUpReset s) := by
  dsimp only [giveUpReset]
  repeat' first
    | with_reducible assumption
    | with_reducible apply raise_sound
    | with_reducible apply foldl_sound
    | split
    | intro _ _ _

theorem failLink_sound {l good : Nat} {rev : Bool} (hS : Sound s) : Sound (failLink l good rev s) := by
  dsimp only [failLink]
  repeat' first
    | with_reducible assumption
    | with_reducible apply regSet_sound
    | with_reducible apply modLink_sound
    | with_reducible apply dropIsolated_sound
    | with_reducible apply raiseFault_sound

theorem loseLanes_sound {l : Nat} {rev : Bool} {lanes : List Nat} (hS : Sound s) : Sound (loseLanes l rev lanes s) := by
  dsimp only [loseLanes]
  repeat' first
    | with_reducible assumption
    | with_reducible apply modLink_sound
    | with_reducible apply regSet_sound
    | with_reducible apply foldl_sound
    | split
    | intro _ _ _

theorem judgeLink_sound {l : Nat} (hS : Sound s) : Sound (judgeLink l s) := by
  dsimp only [judgeLink]
  repeat' first
    | with_reducible assumption
    | with_reducible apply showLink_sound
    | with_reducible apply giveUpReset_sound
    | with_reducible apply failLink_sound
    | split

theorem takeFlit_sound {l : Nat} {rev : Bool} {seq : Nat} {good : Bool} {x : Flit} {ack : Nat} (hS : Sound s) : Sound (takeFlit l rev seq good x ack s) := by
  dsimp only [takeFlit]
  repeat' first
    | with_reducible assumption
    | with_reducible apply modLink_sound
    | with_reducible apply regInc_sound
    | split

theorem receiveFlit_sound {l : Nat} {rev : Bool} {seq : Nat} {new : Flit} {errors : List (Fin 68 × Fin 72)} (hS : Sound s) : Sound (receiveFlit l rev seq new errors s) := by
  dsimp only [receiveFlit]
  repeat' first
    | with_reducible assumption
    | with_reducible apply modLink_sound
    | with_reducible apply takeFlit_sound
    | split

theorem startRetrain_sound {l cause : Nat} (hS : Sound s) : Sound (startRetrain l cause s) := by
  dsimp only [startRetrain]
  repeat' first
    | with_reducible assumption
    | with_reducible apply regSet_sound
    | with_reducible apply modLink_sound

theorem islandLink_sound {l : Nat} {rev : Bool} {lane : Nat} (hS : Sound s) : Sound (islandLink l rev lane s) := by
  dsimp only [islandLink]
  repeat' first
    | with_reducible assumption
    | with_reducible apply modLink_sound
    | with_reducible apply raiseFault_sound
    | with_reducible apply loseIsl_sound
    | split

theorem laneErrors_sound {l : Nat} {rev : Bool} {lane errors : Nat} (hS : Sound s) : Sound (laneErrors l rev lane errors s) := by
  dsimp only [laneErrors]
  repeat' first
    | with_reducible assumption
    | with_reducible apply islandLink_sound
    | with_reducible apply judgeLink_sound
    | with_reducible apply loseLanes_sound
    | split

theorem spareLane_sound {l : Nat} {rev : Bool} {lane : Nat} (hS : Sound s) : Sound (spareLane l rev lane s) := by
  dsimp only [spareLane]
  repeat' first
    | with_reducible assumption
    | with_reducible apply modLink_sound
    | with_reducible apply writeRecord_sound
    | with_reducible apply showLink_sound
    | with_reducible apply raiseFault_sound
    | split

theorem stepDir_sound {l : Nat} {rev : Bool} (hS : Sound s) : Sound (stepDir l rev s) := by
  dsimp only [stepDir]
  repeat' first
    | with_reducible assumption
    | with_reducible apply modLink_sound
    | with_reducible apply writeRecord_sound
    | with_reducible apply showLink_sound
    | with_reducible apply raiseFault_sound
    | split

theorem laneTest_sound {l goodF goodR : Nat} (hS : Sound s) : Sound (laneTest l goodF goodR s) := by
  dsimp only [laneTest]
  repeat' first
    | with_reducible assumption
    | with_reducible apply raise_sound

theorem endRetrain_sound {l goodF goodR us : Nat} (hS : Sound s) : Sound (endRetrain l goodF goodR us s) := by
  dsimp only [endRetrain]
  repeat' first
    | with_reducible assumption
    | with_reducible apply regSet_sound
    | with_reducible apply modLink_sound
    | with_reducible apply laneTest_sound
    | with_reducible apply judgeLink_sound
    | with_reducible apply writeRecord_sound
    | with_reducible apply retopo_sound
    | with_reducible apply showLink_sound
    | with_reducible apply regInc_sound
    | with_reducible apply raise_sound
    | split

theorem denied_sound {p : Nat} (hS : Sound s) : Sound (denied p s) := by
  dsimp only [denied]
  repeat' first
    | with_reducible assumption
    | with_reducible apply regInc_sound

theorem lnkRequest_sound {p mask : Nat} (hS : Sound s) : Sound (lnkRequest p mask s) := by
  dsimp only [lnkRequest]
  repeat' first
    | with_reducible assumption
    | with_reducible apply denied_sound
    | with_reducible apply startRetrain_sound
    | with_reducible apply foldl_sound
    | split
    | intro _ _ _

theorem loseNode_sound {i : Nat} (hS : Sound s) : Sound (loseNode i s) := by
  dsimp only [loseNode]
  repeat' first
    | with_reducible assumption
    | with_reducible apply classD_sound
    | with_reducible apply loseIsl_sound
    | with_reducible apply orderRemoval_sound
    | split

theorem trainLink_sound {t : LinkTrain} (hS : Sound s) : Sound (trainLink t s) := by
  dsimp only [trainLink]
  repeat' first
    | with_reducible assumption
    | with_reducible apply startRetrain_sound
    | with_reducible apply showLink_sound
    | with_reducible apply modLink_sound
    | with_reducible apply laneTest_sound
    | with_reducible apply failLink_sound
    | with_reducible apply writeRecord_sound
    | split

theorem partialReset_sound {d : Nat} {train : List LinkTrain} (hS : Sound s) : Sound (partialReset d train s) := by
  dsimp only [partialReset]
  repeat' first
    | with_reducible assumption
    | with_reducible apply modEngine_sound
    | with_reducible apply loseDie_sound
    | with_reducible apply raise_sound
    | with_reducible apply regSet_sound
    | with_reducible apply modLink_sound
    | with_reducible apply giveUpReset_sound
    | with_reducible apply trainLink_sound
    | with_reducible apply foldl_sound
    | split
    | intro _ _ _

theorem giveSlot_sound {k : Nat} {key : Nat} (hS : Sound s) : Sound (giveSlot k key s) := by
  dsimp only [giveSlot]
  repeat' first
    | with_reducible assumption
    | with_reducible apply modRoom_sound

theorem recopied_canon {own : Nat → Bool} {dest : Nat → Option Nat} {m : List Host.Cell} (h : tcanon (fun _ => (0 : Byte)) m = true) :
    tcanon (fun _ => (0 : Byte)) (recopied own dest m) = true := by
  have key : ∀ (l t : List Host.Cell), tcanon (fun _ => (0 : Byte)) t = true → tcanon (fun _ => (0 : Byte)) (l.foldl (fun t c => match dest c.1 with
      | some k => tset 0 k c.2 t
      | none => t) t) = true := by
    intro l
    induction l with
    | nil => exact fun _ h => h
    | cons c l ih =>
      intro t ht
      refine ih _ ?_
      dsimp only
      split
      · exact tcanon_tset (d := fun _ => (0 : Byte)) _ c.2 ht
      · exact ht
  exact key m _ (tcanon_filter _ h)

theorem refill_sound {k : Nat} (hS : Sound s) : Sound (refill k s) := by
  unfold refill
  extract_lets halves own
  refine foldl_sound _ (modMem_sound hS hS.2.1.1 ?_ ?_) fun _ _ h => giveSlot_sound h
  · exact recopied_canon hS.2.1.2.1
  · exact recopied_canon hS.2.1.2.2

theorem restoreDie_sound {k : Nat} (hS : Sound s) : Sound (restoreDie k s) := by
  dsimp only [restoreDie]
  repeat' first
    | with_reducible assumption
    | with_reducible apply refill_sound
    | with_reducible apply regMod_sound
    | with_reducible apply regSet_sound
    | with_reducible apply raise_sound
    | with_reducible apply foldl_sound
    | split
    | intro _ _ _

/-- A module reset leaves a sound state for every operating state but DRIVE. -/
theorem resetAll_sound {keys : List Nat} {o : OpState} (ho : o ≠ .drive) (hS : Sound s) : Sound { resetAll keys s with op := o } :=
  ⟨⟨tcanon_filter _ hS.1.1, rfl, rfl, rfl⟩, ⟨hS.2.1.1, rfl, rfl⟩, ⟨List.Pairwise.nil, fun _ h => nomatch h⟩, fun h => absurd h ho⟩

theorem startBoot_sound  (hS : Sound s) : Sound (startBoot s) := by
  dsimp only [startBoot]
  repeat' first
    | with_reducible assumption
    | with_reducible apply regSet_sound
    | with_reducible apply actSet_sound
    | with_reducible apply shSet_sound
    | (with_reducible refine setOp_sound ?_ nofun)

theorem toPhase_sound {p : Nat} (hS : Sound s) : Sound (toPhase p s) := by
  dsimp only [toPhase]
  repeat' first
    | with_reducible assumption
    | with_reducible apply regSet_sound
    | split

theorem bootFail_sound {code src : Nat} (hS : Sound s) : Sound (bootFail code src s) := by
  dsimp only [bootFail]
  repeat' first
    | with_reducible assumption
    | with_reducible apply classDWith_sound
    | with_reducible apply regSet_sound

theorem takeSlot_sound {slot : Nat} {x : SlotImage} (hS : Sound s) : Sound (takeSlot slot x s) := by
  dsimp only [takeSlot]
  repeat' first
    | with_reducible assumption
    | with_reducible apply regSet_sound
    | with_reducible apply raiseFault_sound
    | with_reducible apply toPhase_sound
    | with_reducible apply foldl_sound
    | split
    | intro _ _ _

theorem trainFull_sound {l goodF goodR : Nat} (hS : Sound s) : Sound (trainFull l goodF goodR s) := by
  dsimp only [trainFull]
  repeat' first
    | with_reducible assumption
    | with_reducible apply modLink_sound
    | with_reducible apply laneTest_sound
    | with_reducible apply judgeLink_sound
    | with_reducible apply showLink_sound
    | with_reducible apply regSet_sound
    | with_reducible apply writeRecord_sound
    | split

theorem failManifest_sound {fs : List (Nat × Nat × Nat)} (hS : Sound s) : Sound (failManifest fs s) := by
  dsimp only [failManifest]
  repeat' first
    | with_reducible assumption
    | with_reducible apply bootFail_sound
    | with_reducible apply raiseFault_sound
    | with_reducible apply raise_sound
    | with_reducible apply foldl_sound
    | split
    | intro _ _ _

theorem passManifest_sound {m : Manifest} (hS : Sound s) : Sound (passManifest m s) := by
  dsimp only [passManifest]
  repeat' first
    | with_reducible assumption
    | with_reducible apply regSet_sound
    | with_reducible apply toPhase_sound
    | with_reducible apply removeDie_sound
    | with_reducible apply dropIsolated_sound
    | with_reducible apply failIsl_sound
    | with_reducible apply foldl_sound
    | split
    | intro _ _ _

theorem resetPortRegs_sound {p : Nat} (hS : Sound s) : Sound (resetPortRegs p s) := withReg_sound hS (tcanon_filter _ hS.1.1)

theorem muteJobs_sound {p : Nat} (hS : Sound s) : Sound (muteJobs p s) :=
  mapJobs_sound hS (fun j => by split <;> rfl) (fun j => by split <;> rfl)

theorem resetPort_sound {p : Nat} (hS : Sound s) : Sound (resetPort p s) := by
  dsimp only [resetPort]
  repeat' first
    | with_reducible assumption
    | with_reducible apply muteJobs_sound
    | with_reducible apply resetPortRegs_sound
    | with_reducible apply modPort_sound

theorem masterFall_sound {p : Nat} (hS : Sound s) : Sound (masterFall p s) := by
  dsimp only [masterFall]
  repeat' first
    | with_reducible assumption
    | with_reducible apply muteJobs_sound
    | with_reducible apply modPort_sound
    | with_reducible apply regSet_sound
    | with_reducible apply foldl_sound
    | split
    | intro _ _ _

theorem mgrWrite_sound {p : Nat} {act : State → State} (ha : ∀ t, Sound t → Sound (act t)) (hS : Sound s) : Sound (mgrWrite p act s) :=
  sound_ite hS (sound_ite (ha s hS) (denied_sound hS))

theorem tbRefuse_sound {key code : Nat} {attn : Bool} {a0 a1 : Nat} (hS : Sound s) : Sound (tbRefuse key code attn a0 a1 s) := by
  dsimp only [tbRefuse]
  repeat' first
    | with_reducible assumption
    | with_reducible apply raise_sound
    | with_reducible apply regSet_sound

theorem tbInc_sound {int : Nat} (hS : Sound s) : Sound (tbInc int s) := by
  dsimp only [tbInc]
  repeat' first
    | with_reducible assumption
    | with_reducible apply regSet_sound
    | with_reducible apply tbRefuse_sound
    | split

theorem tbStep_sound {ns : Nat} (hS : Sound s) : Sound (tbStep ns s) := by
  dsimp only [tbStep]
  repeat' first
    | with_reducible assumption
    | with_reducible apply tbRefuse_sound
    | split

theorem tbBaseline_sound  (hS : Sound s) : Sound (tbBaseline s) := by
  dsimp only [tbBaseline]
  repeat' first
    | with_reducible assumption
    | with_reducible apply tbRefuse_sound
    | split

theorem tbSnap_sound  (hS : Sound s) : Sound (tbSnap s) := by
  dsimp only [tbSnap]
  repeat' first
    | with_reducible assumption
    | with_reducible apply regSet_sound

theorem restartCues_sound  (hS : Sound s) : Sound (restartCues s) := by
  dsimp only [restartCues]
  repeat' first
    | with_reducible assumption
    | with_reducible apply modCue_sound
    | with_reducible apply foldl_sound
    | intro _ _ _

theorem tickHead_sound  (hS : Sound s) : Sound (tickHead s).1 := by
  dsimp only [tickHead]
  repeat' first
    | with_reducible assumption
    | with_reducible apply regSet_sound
    | with_reducible apply regMod_sound
    | with_reducible apply raise_sound
    | with_reducible apply restartCues_sound
    | with_reducible apply regInc_sound
    | split

theorem tick_sound {n : Nat} (hS : Sound s) : Sound (tick n s) := by
  dsimp only [tick]
  repeat' first
    | with_reducible assumption
    | with_reducible apply tickHead_sound
    | with_reducible apply limpRelease_sound
    | with_reducible apply wearTime_sound
    | with_reducible apply regSet_sound
    | split

theorem triggerSpis_sound {kind idx : Nat} {st : Stamp} (hS : Sound s) : Sound (triggerSpis kind idx st s) := by
  dsimp only [triggerSpis]
  repeat' first
    | with_reducible assumption
    | with_reducible apply modSpi_sound
    | with_reducible apply foldl_sound
    | split
    | intro _ _ _

theorem fireEdge_sound {g : Nat} (hS : Sound s) : Sound (fireEdge g s) := by
  dsimp only [fireEdge]
  repeat' first
    | with_reducible assumption
    | with_reducible apply modCue_sound
    | with_reducible apply modSvc_sound
    | with_reducible apply triggerSpis_sound
    | with_reducible apply foldl_sound
    | split
    | intro _ _ _

end Sys2Proof.Machine
end

