-- ==== Sys2Proof/Laws/SoundIngress.lean ====
section
/-! SUPPORT. Sensor channels and ingress ports keep a state sound. -/

namespace Sys2Proof.Machine

variable {s : State}

theorem malformed_sound {c len : Nat} (hS : Sound s) : Sound (malformed c len s) := by
  dsimp only [malformed]
  repeat' first
    | with_reducible assumption
    | with_reducible apply modChan_sound
    | with_reducible apply regInc_sound
    | with_reducible apply raise_sound
    | split

theorem markUnsync_sound {c e t : Nat} (hS : Sound s) : Sound (markUnsync c e t s) := by
  dsimp only [markUnsync]
  repeat' first
    | with_reducible assumption
    | with_reducible apply raise_sound
    | with_reducible apply regSet_sound

theorem feed_sound {c t r : Nat} {inSync : Bool} {payload : List Byte} (hS : Sound s) : Sound (feed c t r inSync payload s) := by
  dsimp only [feed]
  repeat' first
    | with_reducible assumption
    | with_reducible apply modChan_sound
    | with_reducible apply markUnsync_sound
    | with_reducible apply raise_sound
    | with_reducible apply regSet_sound
    | with_reducible apply regInc_sound
    | split

theorem feedPacket_sound {c : Nat} {st : Stamp} {bs : List Byte} (hS : Sound s) : Sound (feedPacket c st bs s) := by
  dsimp only [feedPacket]
  repeat' first
    | with_reducible assumption
    | with_reducible apply malformed_sound
    | with_reducible apply feed_sound
    | split

theorem feedFrame_sound {c : Nat} {f : FrameAsm} {hdr : List Byte} (hS : Sound s) : Sound (feedFrame c f hdr s) := by
  dsimp only [feedFrame]
  repeat' first
    | with_reducible assumption
    | with_reducible apply feed_sound

theorem readPost_sound {c prod n : Nat} (hS : Sound s) : Sound (readPost c prod n s) := by
  induction n generalizing s with
  | zero => exact hS
  | succ n ih =>
    unfold readPost
    extract_lets at_ h len total s1 sec s2
    have h1 : Sound s1 := modChan_sound hS
    exact sound_ite hS (ih (sound_ite (sound_ite (feed_sound h1) (malformed_sound h1)) h1))

theorem pollPost_sound {c : Nat} (hS : Sound s) : Sound (pollPost c s) := by
  dsimp only [pollPost]
  repeat' first
    | with_reducible assumption
    | with_reducible apply readPost_sound
    | with_reducible apply realmWrite_sound
    | split

theorem feedWheel_sound {st : Stamp} {bs : List Byte} (hS : Sound s) : Sound (feedWheel st bs s) := by
  dsimp only [feedWheel]
  repeat' first
    | with_reducible assumption
    | with_reducible apply modEgo_sound

theorem feedImu_sound {st : Stamp} {bs : List Byte} (hS : Sound s) : Sound (feedImu st bs s) := by
  dsimp only [feedImu]
  repeat' first
    | with_reducible assumption
    | with_reducible apply modEgo_sound

theorem feedEgo_sound {port info : Nat} {st : Stamp} {bs : List Byte} (hS : Sound s) : Sound (feedEgo port info st bs s) := by
  dsimp only [feedEgo]
  repeat' first
    | with_reducible assumption
    | with_reducible apply feedWheel_sound
    | with_reducible apply feedImu_sound
    | split

theorem egoConds_sound {slip : Option Bool} (hS : Sound s) : Sound (egoConds slip s) := by
  dsimp only [egoConds]
  repeat' first
    | with_reducible assumption
    | with_reducible apply modEgo_sound

theorem decideEgo_sound {instant : Nat} {slip : Option Bool} (hS : Sound s) : Sound (decideEgo instant slip s) := by
  dsimp only [decideEgo]
  repeat' first
    | with_reducible assumption
    | with_reducible apply egoConds_sound
    | with_reducible apply raise_sound
    | with_reducible apply regSet_sound
    | split

theorem egoAdmission_sound  (hS : Sound s) : Sound (egoAdmission s) := by
  dsimp only [egoAdmission]
  repeat' first
    | with_reducible assumption
    | with_reducible apply modEgo_sound
    | with_reducible apply decideEgo_sound
    | with_reducible apply regInc_sound
    | split

theorem sendPause_sound {p quanta : Nat} (hS : Sound s) : Sound (sendPause p quanta s) := by
  dsimp only [sendPause]
  repeat' first
    | with_reducible assumption
    | with_reducible apply modMac_sound
    | split

theorem refreshHold_sound {p : Nat} (hS : Sound s) : Sound (refreshHold p s) := by
  dsimp only [refreshHold]
  repeat' first
    | with_reducible assumption
    | with_reducible apply modIng_sound
    | with_reducible apply regInc_sound
    | with_reducible apply regSet_sound
    | with_reducible apply sendPause_sound
    | split

theorem discard_sound {p : Nat} (hS : Sound s) : Sound (discard p s) := by
  dsimp only [discard]
  repeat' first
    | with_reducible assumption
    | with_reducible apply regInc_sound

theorem losePacket_sound {p stream : Nat} {st : Stamp} {bytes : Nat} (hS : Sound s) : Sound (losePacket p stream st bytes s) := by
  dsimp only [losePacket]
  repeat' first
    | with_reducible assumption
    | with_reducible apply regInc_sound
    | with_reducible apply regMod_sound
    | with_reducible apply modIng_sound

theorem putItem_sound {p : Nat} {x : FifoItem} (hS : Sound s) : Sound (putItem p x s) := by
  dsimp only [putItem]
  repeat' first
    | with_reducible assumption
    | with_reducible apply refreshHold_sound
    | with_reducible apply modIng_sound

theorem enterPacket_sound {p : Nat} {x : Packet} (hS : Sound s) : Sound (enterPacket p x s) := by
  dsimp only [enterPacket]
  repeat' first
    | with_reducible assumption
    | with_reducible apply putItem_sound
    | with_reducible apply refreshHold_sound
    | with_reducible apply losePacket_sound
    | split

theorem setPort_sound {p : Nat} {on testLine : Bool} (hS : Sound s) : Sound (setPort p on testLine s) := by
  dsimp only [setPort]
  repeat' first
    | with_reducible assumption
    | with_reducible apply refreshHold_sound
    | with_reducible apply regSet_sound

theorem injectTest_sound {p k : Nat} (hS : Sound s) : Sound (injectTest p k s) := by
  dsimp only [injectTest]
  repeat' first
    | with_reducible assumption
    | with_reducible apply putItem_sound
    | split

theorem csiPacket_sound {p : Nat} {x : CsiPkt} (hS : Sound s) : Sound (csiPacket p x s) := by
  dsimp only [csiPacket]
  repeat' first
    | with_reducible assumption
    | with_reducible apply discard_sound
    | with_reducible apply modStr_sound
    | with_reducible apply enterPacket_sound
    | with_reducible apply injectTest_sound
    | split

theorem ethRx_sound {m : Nat} {x : EthFrame} (hS : Sound s) : Sound (ethRx m x s) := by
  dsimp only [ethRx]
  repeat' first
    | with_reducible assumption
    | with_reducible apply discard_sound
    | with_reducible apply enterPacket_sound
    | split

theorem ethTx_sound {m : Nat} (hS : Sound s) : Sound (ethTx m s) := by
  dsimp only [ethTx]
  repeat' first
    | with_reducible assumption
    | with_reducible apply hostWrite_sound
    | with_reducible apply raise_sound
    | with_reducible apply modMac_sound
    | split

theorem canRx_sound {m : Nat} {x : CanFd} (hS : Sound s) : Sound (canRx m x s) := by
  dsimp only [canRx]
  repeat' first
    | with_reducible assumption
    | with_reducible apply discard_sound
    | with_reducible apply enterPacket_sound
    | split

theorem spiTrigger_sound {m : Nat} (hS : Sound s) : Sound (spiTrigger m s) := by
  dsimp only [spiTrigger]
  repeat' first
    | with_reducible assumption
    | with_reducible apply modSpi_sound
    | with_reducible apply refreshHold_sound
    | with_reducible apply losePacket_sound
    | split

theorem spiEnd_sound {m : Nat} {rx : List Byte} (hS : Sound s) : Sound (spiEnd m rx s) := by
  dsimp only [spiEnd]
  repeat' first
    | with_reducible assumption
    | with_reducible apply modSpi_sound
    | with_reducible apply enterPacket_sound
    | with_reducible apply discard_sound
    | split

theorem captureEdge_sound {c : Nat} {rising : Bool} {held : Nat} (hS : Sound s) : Sound (captureEdge c rising held s) := by
  dsimp only [captureEdge]
  repeat' first
    | with_reducible assumption
    | with_reducible apply regInc_sound
    | with_reducible apply tick_sound
    | with_reducible apply raise_sound
    | with_reducible apply modCap_sound
    | with_reducible apply triggerSpis_sound
    | with_reducible apply regSet_sound
    | with_reducible apply enterPacket_sound
    | split

theorem putRing_sound {r : PktRing} {port : Nat} {bs : List Byte} (hS : Sound s) : Sound (putRing r port bs s).1 := by
  dsimp only [putRing]
  repeat' first
    | with_reducible assumption
    | with_reducible apply realmWrite_sound
    | split

theorem putLost_sound {realm cb pkts bytes : Nat} (hS : Sound s) : Sound (putLost realm cb pkts bytes s) := by
  dsimp only [putLost]
  repeat' first
    | with_reducible assumption
    | with_reducible apply realmWrite_sound

theorem strOpen_sound {k : Nat} (hS : Sound s) : Sound (strOpen k s).1 := by
  dsimp only [strOpen]
  repeat' first
    | with_reducible assumption
    | with_reducible apply modStr_sound
    | with_reducible apply raise_sound
    | split

theorem popItem_sound {p : Nat} (hS : Sound s) : Sound (popItem p s) := by
  dsimp only [popItem]
  repeat' first
    | with_reducible assumption
    | with_reducible apply modIng_sound

theorem countLost_sound {k : Nat} {g : GapMark} (hS : Sound s) : Sound (countLost k g s) := by
  dsimp only [countLost]
  repeat' first
    | with_reducible assumption
    | with_reducible apply modStr_sound
    | with_reducible apply putLost_sound

theorem consume_sound {k : Nat} (hS : Sound s) : Sound (consume k s) := by
  dsimp only [consume]
  repeat' first
    | with_reducible assumption
    | with_reducible apply realmWrite_sound

theorem drainPacket_sound {p k : Nat} {x : Packet} (hS : Sound s) : Sound (drainPacket p k x s).1 := by
  unfold drainPacket
  extract_lets bs
  clear_value bs
  split
  · exact sound_fst ‹_› (putRing_sound hS)
  · rename_i t prod heq
    have h1 : Sound t := sound_fst heq (putRing_sound hS)
    extract_lets s1 cs s2
    have h2 : Sound s1 := feedEgo_sound (popItem_sound (modStr_sound h1))
    have h3 : Sound s2 := foldl_sound _ h2 fun _ _ h => feedPacket_sound h
    exact sound_ite h3 (consume_sound h3)

theorem drainGap_sound {p k : Nat} {g : GapMark} (hS : Sound s) : Sound (drainGap p k g s).1 := by
  unfold drainGap
  generalize gapRecord p g = bs
  split
  · exact sound_fst ‹_› (putRing_sound hS)
  · rename_i t prod heq
    have h1 : Sound t := sound_fst heq (putRing_sound hS)
    exact countLost_sound (popItem_sound (modStr_sound h1))

theorem publish_sound {p k : Nat} (hS : Sound s) : Sound (publish p k s) := by
  dsimp only [publish]
  repeat' first
    | with_reducible assumption
    | with_reducible apply modStr_sound
    | with_reducible apply realmWrite_sound
    | with_reducible apply feedFrame_sound
    | with_reducible apply consume_sound
    | with_reducible apply foldl_sound
    | split
    | intro _ _ _

theorem writeLine_sound {k : Nat} {x : Packet} (hS : Sound s) : Sound (writeLine k x s) := by
  dsimp only [writeLine]
  repeat' first
    | with_reducible assumption
    | with_reducible apply modFrame_sound
    | with_reducible apply realmWrite_sound
    | split

theorem drainLine_sound {p k : Nat} {x : Packet} (hS : Sound s) : Sound (drainLine p k x s).1 := by
  dsimp only [drainLine]
  repeat' first
    | with_reducible assumption
    | with_reducible apply publish_sound
    | with_reducible apply modFrame_sound
    | with_reducible apply discard_sound
    | with_reducible apply popItem_sound
    | with_reducible apply modStr_sound
    | with_reducible apply writeLine_sound
    | split

theorem drainTest_sound {p k : Nat} {line : List Byte} (hS : Sound s) : Sound (drainTest p k line s).1 := by
  dsimp only [drainTest]
  repeat' first
    | with_reducible assumption
    | with_reducible apply realmWrite_sound
    | with_reducible apply popItem_sound
    | with_reducible apply modStr_sound
    | split

theorem drainOne_sound {p : Nat} (hS : Sound s) : Sound (drainOne p s).1 := by
  unfold drainOne
  split
  · exact hS
  · rename_i x _ _
    extract_lets k o s1
    clear_value k
    have h1 : Sound s1 := strOpen_sound hS
    have h2 : Sound (popItem p s) := popItem_sound hS
    split
    · dsimp only
      split
      · exact discard_sound h2
      · exact h2
    · clear_value s1
      split
      · exact h1
      · split
        · exact publish_sound h1
        · split
          · split
            · exact drainLine_sound h1
            · exact drainPacket_sound h1
          · split
            · exact countLost_sound (popItem_sound (modFrame_sound h1))
            · exact drainGap_sound h1
          · split
            · exact drainTest_sound h1
            · exact popItem_sound h1
          · exact popItem_sound (modStr_sound h1)

theorem failTest_sound {p k word : Nat} (hS : Sound s) : Sound (failTest p k word s) := by
  dsimp only [failTest]
  repeat' first
    | with_reducible assumption
    | with_reducible apply regInc_sound
    | with_reducible apply modIng_sound
    | with_reducible apply raiseFault_sound
    | with_reducible apply refreshHold_sound
    | split

theorem testCheck_sound {k : Nat} (hS : Sound s) : Sound (testCheck k s) := by
  dsimp only [testCheck]
  repeat' first
    | with_reducible assumption
    | with_reducible apply modStr_sound
    | with_reducible apply publish_sound
    | with_reducible apply failTest_sound
    | split

end Sys2Proof.Machine
end

