-- ==== Sys2Proof/Laws/SoundFusion.lean ====
section
/-! SUPPORT. Fusion, planning and duplex operation keep a state sound. -/

namespace Sys2Proof.Machine

variable {s : State}

theorem noteMotion_sound {x : FusIn} (hS : Sound s) : Sound (noteMotion x s) := by
  dsimp only [noteMotion]
  repeat' first
    | with_reducible assumption
    | split

theorem admitSet_sound {k instant seq : Nat} (hS : Sound s) : Sound (admitSet k instant seq s).1 := by
  dsimp only [admitSet]
  repeat' first
    | with_reducible assumption
    | with_reducible apply decideEgo_sound
    | with_reducible apply noteMotion_sound
    | with_reducible apply modChan_sound
    | with_reducible apply foldl_sound
    | intro _ _ _

theorem fusionAdmission_sound {k : Nat} (hS : Sound s) : Sound (fusionAdmission k s) := by
  dsimp only [fusionAdmission]
  repeat' first
    | with_reducible assumption
    | with_reducible apply admitSet_sound
    | with_reducible apply modSvc_sound
    | split

theorem outOpen_sound {o : Nat} (hS : Sound s) : Sound (outOpen o s).1 := by
  dsimp only [outOpen]
  repeat' first
    | with_reducible assumption
    | with_reducible apply modOut_sound
    | with_reducible apply raise_sound
    | split

theorem dropOut_sound {o instant bytes : Nat} (hS : Sound s) : Sound (dropOut o instant bytes s) := by
  dsimp only [dropOut]
  repeat' first
    | with_reducible assumption
    | with_reducible apply modOut_sound
    | with_reducible apply raise_sound
    | with_reducible apply regInc_sound

theorem putOutGap_sound {o port : Nat} (hS : Sound s) : Sound (putOutGap o port s).1 := by
  dsimp only [putOutGap]
  repeat' first
    | with_reducible assumption
    | with_reducible apply putRing_sound
    | with_reducible apply modOut_sound
    | with_reducible apply putLost_sound
    | split
    | (refine sound_fst (by assumption) ?_)

theorem outWritten_sound {o : Nat} (hS : Sound s) : Sound (outWritten o s) := by
  dsimp only [outWritten]
  repeat' first
    | with_reducible assumption
    | with_reducible apply modOut_sound
    | with_reducible apply raise_sound
    | split

theorem writeOut_sound {port : Nat} {oc : Outcome} {simplex : Bool} (hS : Sound s) : Sound (writeOut port oc simplex s) := by
  dsimp only [writeOut]
  repeat' first
    | with_reducible assumption
    | with_reducible apply countStale_sound
    | with_reducible apply outOpen_sound
    | with_reducible apply dropOut_sound
    | with_reducible apply putOutGap_sound
    | with_reducible apply putRing_sound
    | with_reducible apply outWritten_sound
    | with_reducible apply modOut_sound
    | split
    | (refine sound_fst (by assumption) ?_)

theorem releaseService_sound {k : Nat} {simplex : Bool} (hS : Sound s) : Sound (releaseService k simplex s) := by
  dsimp only [releaseService]
  repeat' first
    | with_reducible assumption
    | with_reducible apply writeOut_sound
    | with_reducible apply modSvc_sound
    | split

theorem dropService_sound {k : Nat} (hS : Sound s) : Sound (dropService k s) := by
  dsimp only [dropService]
  repeat' first
    | with_reducible assumption
    | with_reducible apply modSvc_sound

theorem letGo_sound {e : Nat} (hS : Sound s) : Sound (letGo e s) := by
  dsimp only [letGo]
  repeat' first
    | with_reducible assumption
    | split

theorem fusionResult_sound {k : Nat} {side : Side} {fault : Option (List Byte)} (hS : Sound s) : Sound (fusionResult k side fault s) := by
  dsimp only [fusionResult]
  repeat' first
    | with_reducible assumption
    | with_reducible apply releaseService_sound
    | with_reducible apply letGo_sound
    | with_reducible apply modWork_sound
    | split

theorem streamMissing_sound {o : Nat} (hS : Sound s) : Sound (streamMissing o s) := by
  dsimp only [streamMissing]
  repeat' first
    | with_reducible assumption
    | with_reducible apply raise_sound
    | with_reducible apply modOut_sound
    | split

theorem noteGolden_sound {e : Nat} {pass : Bool} (hS : Sound s) : Sound (noteGolden e pass s) := by
  dsimp only [noteGolden]
  repeat' first
    | with_reducible assumption

theorem goldenWorkload_sound {e : Nat} {pass : Bool} (hS : Sound s) : Sound (goldenWorkload e pass s) := by
  dsimp only [goldenWorkload]
  repeat' first
    | with_reducible assumption
    | with_reducible apply noteGolden_sound
    | with_reducible apply orderEngineRemoval_sound
    | split

theorem fuseWork_sound {j : Job} (hS : Sound s) : Sound (fuseWork j s).1 := by
  dsimp only [fuseWork]
  repeat' first
    | with_reducible assumption
    | with_reducible apply admitSet_sound

theorem takeInstant_sound {acc : Nat} (hS : Sound s) : Sound (takeInstant acc s) := by
  refine modJob_sound hS (fun j => ?_) fun j h => ?_
  · split <;> rfl
  · split <;> exact h

theorem engineRun_sound {es : List Nat} {acc : Nat} {run : JobRun} {act : JobRun → State → State} (ha : ∀ r t, Sound t → Sound (act r t))
    (hS : Sound s) : Sound (engineRun es acc run act s) := by
  unfold engineRun
  extract_lets es'
  exact sound_ite (ha _ _ hS) (sound_ite (ha _ _ hS) (sound_ite (foldl_sound _ (ha _ _ hS) fun _ _ h => letGo_sound h) (ha _ _ hS)))

theorem fuseJob_sound {acc : Nat} {run : JobRun} (hS : Sound s) : Sound (fuseJob acc run s) := by
  have hw : ∀ j t, Sound t → Sound (fuseWork j t).1 := fun _ _ h => fuseWork_sound h
  unfold fuseJob
  split
  · exact hS
  · extract_lets s1
    have h1 : Sound s1 := takeInstant_sound (jobCommand_sound hw hS)
    split
    · exact hS
    · split
      · exact h1
      · exact sound_ite (engineRun_sound (fun _ _ h => jobCommand_sound hw h) h1) h1

theorem fuseReplayWork_sound {j : Job} (hS : Sound s) : Sound (fuseReplayWork j s).1 := by
  dsimp only [fuseReplayWork]
  repeat' first
    | with_reducible assumption

theorem mapCopy_sound {j : Job} {e : Nat} (hS : Sound s) : Sound (mapCopy j e s).1 := by
  dsimp only [mapCopy]
  repeat' first
    | with_reducible assumption
    | with_reducible apply checkedWrite_sound

theorem mapPublish_sound {acc : Nat} (hS : Sound s) : Sound (mapPublish acc s) := by
  dsimp only [mapPublish]
  repeat' first
    | with_reducible assumption
    | with_reducible apply mapCopy_sound
    | with_reducible apply failJob_sound
    | with_reducible apply okJob_sound
    | with_reducible apply realmWrite_sound
    | split
    | (refine sound_fst (by assumption) ?_)

theorem tellNoPlan_sound {r : PlanRun} (hS : Sound s) : Sound (tellNoPlan r s) := by
  dsimp only [tellNoPlan]
  repeat' first
    | with_reducible assumption
    | with_reducible apply raise_sound
    | split

theorem finishPlan_sound {r : PlanRun} (hS : Sound s) : Sound (finishPlan r s) := by
  dsimp only [finishPlan]
  repeat' first
    | with_reducible assumption
    | with_reducible apply tellNoPlan_sound
    | with_reducible apply finishRun_sound
    | with_reducible apply modSvc_sound
    | with_reducible apply writeOut_sound
    | split

theorem putPlan_sound {old new : PlanRun} (hS : Sound s) : Sound (putPlan old new s) := by
  dsimp only [putPlan]
  repeat' first
    | with_reducible assumption

theorem comparePlan_sound {r old : PlanRun} (hS : Sound s) : Sound (comparePlan r old s) := by
  dsimp only [comparePlan]
  repeat' first
    | with_reducible assumption
    | with_reducible apply finishPlan_sound
    | with_reducible apply putPlan_sound
    | split

theorem planAdmission_sound {p : Nat} (hS : Sound s) : Sound (planAdmission p s) := by
  dsimp only [planAdmission]
  repeat' first
    | with_reducible assumption
    | with_reducible apply modSvc_sound
    | split

theorem planSearchEnd_sound {subj : DupSubject} (hS : Sound s) : Sound (planSearchEnd subj s) := by
  dsimp only [planSearchEnd]
  repeat' first
    | with_reducible assumption
    | with_reducible apply letGo_sound
    | with_reducible apply comparePlan_sound
    | with_reducible apply foldl_sound
    | split

theorem planRecheck_sound {subj : DupSubject} (hS : Sound s) : Sound (planRecheck subj s) := by
  dsimp only [planRecheck]
  repeat' first
    | with_reducible assumption
    | with_reducible apply comparePlan_sound
    | with_reducible apply putPlan_sound
    | with_reducible apply finishPlan_sound
    | split

theorem planJob_sound {acc : Nat} (hS : Sound s) : Sound (planJob acc s) := by
  unfold planJob
  split
  · exact hS
  · refine sound_ite hS ?_
    extract_lets s1
    have h1 : Sound s1 := takeInstant_sound (jobCommand_sound (fun _ _ h => h) hS)
    split
    · exact h1
    · exact sound_ite h1 h1

theorem planReplayWork_sound {j : Job} (hS : Sound s) : Sound (planReplayWork j s).1 := by
  dsimp only [planReplayWork]
  repeat' first
    | with_reducible assumption
    | with_reducible apply tellNoPlan_sound

theorem setDispute_sound {subj : DupSubject} {a b : Option (List Byte)} (hS : Sound s) : Sound (setDispute subj a b s) := by
  unfold setDispute
  split
  · exact modJob_sound hS (fun _ => rfl) fun _ h => h
  · exact modWork_sound hS

theorem releaseSubj_sound {subj : DupSubject} {simplex : Bool} {cls : Nat} (hS : Sound s) : Sound (releaseSubj subj simplex cls s) := by
  dsimp only [releaseSubj]
  repeat' first
    | with_reducible assumption
    | with_reducible apply releaseResult_sound
    | with_reducible apply releaseService_sound
    | split

theorem dropSubj_sound {subj : DupSubject} (hS : Sound s) : Sound (dropSubj subj s) := by
  dsimp only [dropSubj]
  repeat' first
    | with_reducible assumption
    | with_reducible apply dropResult_sound
    | with_reducible apply dropService_sound
    | split

theorem beginDiag_sound {subj : DupSubject} (hS : Sound s) : Sound (beginDiag subj s) := by
  dsimp only [beginDiag]
  repeat' first
    | with_reducible assumption
    | with_reducible apply modEngine_sound
    | with_reducible apply foldl_sound
    | split
    | intro _ _ _

theorem endDiag_sound {subj : DupSubject} (hS : Sound s) : Sound (endDiag subj s) := by
  dsimp only [endDiag]
  repeat' first
    | with_reducible assumption

theorem disagree_sound {subj : DupSubject} {missing : Bool} {a b : Option (List Byte)} (hS : Sound s) : Sound (disagree subj missing a b s) := by
  dsimp only [disagree]
  repeat' first
    | with_reducible assumption
    | with_reducible apply raise_sound
    | with_reducible apply beginDiag_sound
    | with_reducible apply setDispute_sound

theorem withdraw_sound {pair : Nat} {sideB : Bool} {v : SideVerdict} (hS : Sound s) : Sound (withdraw s pair sideB v) := by
  dsimp only [withdraw]
  repeat' first
    | with_reducible assumption
    | with_reducible apply removeEngine_sound
    | with_reducible apply withdrawCluster_sound
    | with_reducible apply removeDie_sound
    | with_reducible apply foldl_sound
    | split
    | intro _ _ _

theorem transient_sound {subj : DupSubject} {pair : Nat} (hS : Sound s) : Sound (transient subj pair s) := by
  dsimp only [transient]
  repeat' first
    | with_reducible assumption
    | with_reducible apply regInc_sound
    | with_reducible apply raiseFault_sound
    | with_reducible apply dropSubj_sound

theorem leaveSideB_sound {l : List (Nat × Nat)} (hS : Sound s) : Sound (leaveSideB l s) := by
  unfold leaveSideB
  extract_lets put
  have h : Sound (l.foldl put s) := foldl_sound _ hS fun _ _ h => foldl_sound _ h fun _ _ h =>
    sound_ite ⟨h.1, ⟨h.2.1.1, copyWrite_canon h.2.1.2.1, h.2.1.2.2⟩, h.2.2⟩ h
  exact ⟨h.1, h.2⟩

theorem located_sound {subj : DupSubject} {pair : Nat} {failB : Bool} {v : SideVerdict} (hS : Sound s) : Sound (located subj pair failB v s) := by
  dsimp only [located]
  repeat' first
    | with_reducible assumption
    | with_reducible apply raiseFault_sound
    | with_reducible apply leaveSideB_sound
    | with_reducible apply withdraw_sound
    | with_reducible apply raise_sound
    | with_reducible apply releaseSubj_sound
    | split

theorem bothFail_sound {subj : DupSubject} {pair : Nat} {a b : SideVerdict} (hS : Sound s) : Sound (bothFail subj pair a b s) := by
  dsimp only [bothFail]
  repeat' first
    | with_reducible assumption
    | with_reducible apply withdraw_sound
    | with_reducible apply dropSubj_sound
    | with_reducible apply raise_sound
    | with_reducible apply raiseFault_sound
    | with_reducible apply classD_sound
    | split

theorem verdict_sound {subj : DupSubject} {a b : SideVerdict} (hS : Sound s) : Sound (verdict subj a b s) := by
  dsimp only [verdict]
  repeat' first
    | with_reducible assumption
    | with_reducible apply endDiag_sound
    | with_reducible apply releaseSubj_sound
    | with_reducible apply transient_sound
    | with_reducible apply located_sound
    | with_reducible apply bothFail_sound
    | split

theorem splitPair_sound {pair : Nat} (hS : Sound s) : Sound (splitPair pair s) := by
  dsimp only [splitPair]
  repeat' first
    | with_reducible assumption
    | with_reducible apply raise_sound
    | split

theorem testDone_sound {el : Nat} {pass : Bool} (hS : Sound s) : Sound (testDone el pass s) := by
  dsimp only [testDone]
  repeat' first
    | with_reducible assumption
    | with_reducible apply regSet_sound
    | with_reducible apply removeDie_sound
    | with_reducible apply removeEngine_sound
    | with_reducible apply raise_sound
    | with_reducible apply foldl_sound
    | split
    | intro _ _ _

theorem carryOut_sound {d : Decision} (hS : Sound s) : Sound (carryOut d s) := by
  dsimp only [carryOut]
  repeat' first
    | with_reducible assumption
    | with_reducible apply releaseSubj_sound
    | with_reducible apply verdict_sound
    | with_reducible apply splitPair_sound
    | with_reducible apply testDone_sound
    | with_reducible apply removeDie_sound
    | with_reducible apply removeEngine_sound
    | with_reducible apply restoreDie_sound
    | with_reducible apply takeOver_sound
    | split

theorem decideNow_sound {d : Decision} (hS : Sound s) : Sound (decideNow d s) := by
  dsimp only [decideNow]
  repeat' first
    | with_reducible assumption
    | with_reducible apply gateOr_sound
    | with_reducible apply carryOut_sound
    | split

theorem compare_sound {subj : DupSubject} {fa fb : Option (List Byte)} (hS : Sound s) : Sound (compare subj fa fb s) := by
  dsimp only [compare]
  repeat' first
    | with_reducible assumption
    | with_reducible apply decideNow_sound
    | with_reducible apply disagree_sound
    | with_reducible apply setDispute_sound
    | split

theorem waitTimeout_sound {subj : DupSubject} {missing : Side} (hS : Sound s) : Sound (waitTimeout subj missing s) := by
  dsimp only [waitTimeout]
  repeat' first
    | with_reducible assumption
    | with_reducible apply disagree_sound
    | split

theorem windowClose_sound {i : Isl} {same : Bool} {cycles : Nat} (hS : Sound s) : Sound (windowClose i same cycles s) := by
  dsimp only [windowClose]
  repeat' first
    | with_reducible assumption
    | with_reducible apply haltIsl_sound
    | with_reducible apply carryOut_sound
    | with_reducible apply foldl_sound
    | split
    | intro _ _ _

end Sys2Proof.Machine
end

