-- ==== Sys2Proof/Laws/SoundHost.lean ====
section
/-! SUPPORT. Curtains, host ports, lodging and the set-up window keep a state sound. -/

namespace Sys2Proof.Machine

variable {s : State}

theorem setReady_sound {p : Nat} {ready : Bool} (hS : Sound s) : Sound (setReady p ready s) := by
  dsimp only [setReady]
  repeat' first
    | with_reducible assumption
    | with_reducible apply modPort_sound

theorem writeStatus_sound {p : Nat} (hS : Sound s) : Sound (writeStatus p s) := by
  dsimp only [writeStatus]
  repeat' first
    | with_reducible assumption
    | with_reducible apply setReady_sound
    | with_reducible apply modPort_sound
    | with_reducible apply hostWrite_sound

theorem writeStatuses_sound  (hS : Sound s) : Sound (writeStatuses s) := by
  dsimp only [writeStatuses]
  repeat' first
    | with_reducible assumption
    | with_reducible apply writeStatus_sound
    | with_reducible apply foldl_sound
    | split
    | intro _ _ _

theorem pendCurtain_sound {j : Job} (hS : Sound s) : Sound (pendCurtain j s) := by
  dsimp only [pendCurtain]
  repeat' first
    | with_reducible assumption

theorem curtainJob_sound {acc : Nat} (hS : Sound s) : Sound (curtainJob acc s) := by
  unfold curtainJob
  extract_lets s1
  have h1 : Sound s1 := jobCommand_sound (fun _ _ h => h) hS
  split
  · exact sound_ite (pendCurtain_sound h1) h1
  · exact h1

theorem exchange_sound {ks : List Nat} (hS : Sound s) : Sound (exchange ks s) := by
  dsimp only [exchange]
  repeat' first
    | with_reducible assumption
    | with_reducible apply shSet_sound
    | with_reducible apply actSet_sound
    | with_reducible apply foldl_sound
    | intro _ _ _

theorem remapRealm_sound {hadUnits : Bool} {r : Nat} (hS : Sound s) : Sound (remapRealm hadUnits r s) := by
  dsimp only [remapRealm]
  repeat' first
    | with_reducible assumption
    | with_reducible apply raise_sound
    | with_reducible apply undRelease_sound
    | with_reducible apply releaseMemory_sound
    | with_reducible apply modRealm_sound
    | split

theorem followDrive_sound (hS : Sound s) : Sound (followDrive s) := by
  unfold followDrive
  cases hm : actGet s (K.PART_CTRL_drive 0) == 1 with
  | true =>
    dsimp only
    have h1 : Sound { s with inDrive := true } := ⟨hS.1, hS.2.1, hS.2.2.1, fun _ => rfl⟩
    exact sound_ite (setOp_sound h1 fun _ => rfl) (sound_ite (setOp_sound h1 nofun) h1)
  | false =>
    dsimp only
    split
    · rename_i h
      cases h
    · split
      · exact ⟨hS.1, hS.2.1, hS.2.2.1, nofun⟩
      · rename_i h
        exact ⟨hS.1, hS.2.1, hS.2.2.1, fun ho => absurd (by simpa using ho) (by simpa using h)⟩

theorem followCues_sound {before : List Nat} {ks : List Nat} (hS : Sound s) : Sound (followCues before ks s) := by
  dsimp only [followCues]
  repeat' first
    | with_reducible assumption
    | with_reducible apply modCue_sound
    | with_reducible apply foldl_sound
    | split
    | intro _ _ _

theorem followStreams_sound {outsBefore : List Nat} {egoBefore : Bool} {ks : List Nat} (hS : Sound s) : Sound (followStreams outsBefore egoBefore ks s) := by
  dsimp only [followStreams]
  repeat' first
    | with_reducible assumption
    | with_reducible apply modStr_sound
    | with_reducible apply modChan_sound
    | with_reducible apply regSet_sound
    | with_reducible apply modSvc_sound
    | with_reducible apply modOut_sound
    | with_reducible apply modEgo_sound
    | with_reducible apply refreshHold_sound
    | with_reducible apply foldl_sound
    | split
    | intro _ _ _

theorem swapIn_sound {ks : List Nat} {mask : Nat} (hS : Sound s) : Sound (swapIn ks mask s) := by
  dsimp only [swapIn]
  repeat' first
    | with_reducible assumption
    | with_reducible apply exchange_sound
    | with_reducible apply remapRealm_sound
    | with_reducible apply regMod_sound
    | with_reducible apply followDrive_sound
    | with_reducible apply followCues_sound
    | with_reducible apply followStreams_sound
    | with_reducible apply foldl_sound
    | split
    | intro _ _ _

theorem shownSwap_sound {ks : List Nat} {mask : Nat} (hS : Sound s) : Sound (shownSwap ks mask s) := by
  dsimp only [shownSwap]
  repeat' first
    | with_reducible assumption
    | with_reducible apply writeStatuses_sound
    | with_reducible apply swapIn_sound

theorem curtainSwap_sound  (hS : Sound s) : Sound (curtainSwap s) := by
  dsimp only [curtainSwap]
  repeat' first
    | with_reducible assumption
    | with_reducible apply okJob_sound
    | with_reducible apply exchange_sound
    | with_reducible apply failJob_sound
    | with_reducible apply shownSwap_sound
    | split

theorem refuseRing_sound {p what log2 : Nat} (hS : Sound s) : Sound (refuseRing p what log2 s) := by
  dsimp only [refuseRing]
  repeat' first
    | with_reducible assumption
    | with_reducible apply raise_sound

theorem hostCtrl_sound {p : Nat} {on : Bool} (hS : Sound s) : Sound (hostCtrl p on s) := by
  dsimp only [hostCtrl]
  repeat' first
    | with_reducible assumption
    | with_reducible apply setReady_sound
    | with_reducible apply regSet_sound
    | with_reducible apply modPort_sound
    | split

theorem ringCtrl_sound {p i log2 : Nat} {on : Bool} (hS : Sound s) : Sound (ringCtrl p i log2 on s) := by
  dsimp only [ringCtrl]
  repeat' first
    | with_reducible assumption
    | with_reducible apply regSet_sound
    | with_reducible apply refuseRing_sound
    | with_reducible apply modRing_sound
    | split

theorem evtCtrl_sound {p log2 : Nat} {on : Bool} (hS : Sound s) : Sound (evtCtrl p log2 on s) := by
  dsimp only [evtCtrl]
  repeat' first
    | with_reducible assumption
    | with_reducible apply regSet_sound
    | with_reducible apply refuseRing_sound
    | with_reducible apply modPort_sound
    | split

theorem ethTxCtrl_sound {m log2 : Nat} {on pause : Bool} (hS : Sound s) : Sound (ethTxCtrl m log2 on pause s) := by
  dsimp only [ethTxCtrl]
  repeat' first
    | with_reducible assumption
    | with_reducible apply regSet_sound
    | with_reducible apply refuseRing_sound
    | with_reducible apply modMac_sound
    | split

theorem ownWrite_sound {p : Nat} {act : State → State} (ha : ∀ t, Sound t → Sound (act t)) (hS : Sound s) : Sound (ownWrite p act s) :=
  sound_ite (ha s hS) hS

/-- A job accepted takes the next acceptance number (R226). -/
theorem addJob_sound {j : Job} (hj : j.acc = s.accCtr) (hb : j.banks = []) (hS : Sound s) :
    Sound { s with jobs := s.jobs ++ [j], accCtr := s.accCtr + 1 } := by
  refine ⟨hS.1, hS.2.1, ⟨?_, ?_⟩, hS.2.2.2⟩
  · rw [List.pairwise_append]
    refine ⟨hS.2.2.1.1, List.pairwise_singleton .., fun a ha b hb => ?_⟩
    rw [List.mem_singleton.1 hb, hj]
    exact (hS.2.2.1.2 a ha).1
  · intro k hk
    rcases List.mem_append.1 hk with hk | hk
    · exact ⟨Nat.lt_succ_of_lt (hS.2.2.1.2 k hk).1, (hS.2.2.1.2 k hk).2⟩
    · rw [List.mem_singleton.1 hk, hj, hb]
      exact ⟨Nat.lt_succ_self _, rfl⟩

theorem acceptOne_sound {p i r : Nat} (hS : Sound s) : Sound (acceptOne p i r s) := by
  unfold acceptOne
  extract_lets q desc c j x s1
  have h1 : Sound s1 := modRing_sound (s := { s with jobs := s.jobs ++ [j], accCtr := s.accCtr + 1, und := _ })
    (addJob_sound (j := j) rfl rfl hS)
  exact regMod_sound h1

theorem acceptMany_sound {p i r n : Nat} (hS : Sound s) : Sound (acceptMany p i r n s) := by
  induction n generalizing s with
  | zero => exact hS
  | succ n ih => exact sound_ite (ih (acceptOne_sound hS)) hS

theorem acceptRing_sound {p i : Nat} (hS : Sound s) : Sound (acceptRing p i s).1 := by
  unfold acceptRing
  split
  · exact hS
  · split
    · exact acceptMany_sound hS
    · exact hS

theorem acceptRotation_sound {zero : Option Nat} (hS : Sound s) : Sound (acceptRotation zero s) := by
  dsimp only [acceptRotation]
  repeat' first
    | with_reducible assumption
    | with_reducible apply acceptRing_sound
    | with_reducible apply foldl_sound
    | split
    | intro _ _ _

theorem acceptAll_sound  (hS : Sound s) : Sound (acceptAll s) := by
  dsimp only [acceptAll]
  repeat' first
    | with_reducible assumption
    | with_reducible apply acceptRotation_sound
    | with_reducible apply acceptRing_sound
    | split

theorem ringWord_sound {p : Nat} {page : List Byte} {i : Nat} (hS : Sound s) : Sound (ringWord p page i s) := by
  dsimp only [ringWord]
  repeat' first
    | with_reducible assumption
    | with_reducible apply raise_sound
    | with_reducible apply modRing_sound
    | split

theorem evtWord_sound {p : Nat} {page : List Byte} (hS : Sound s) : Sound (evtWord p page s) := by
  dsimp only [evtWord]
  repeat' first
    | with_reducible assumption
    | with_reducible apply flushGap_sound
    | with_reducible apply modPort_sound
    | split

theorem pollError_sound {p : Nat} (hS : Sound s) : Sound (pollError p s) := by
  dsimp only [pollError]
  repeat' first
    | with_reducible assumption
    | with_reducible apply modPort_sound
    | with_reducible apply regInc_sound
    | with_reducible apply raise_sound

theorem pollPage_sound {p : Nat} (hS : Sound s) : Sound (pollPage p s) := by
  dsimp only [pollPage]
  repeat' first
    | with_reducible assumption
    | with_reducible apply evtWord_sound
    | with_reducible apply modPort_sound
    | with_reducible apply ringWord_sound
    | with_reducible apply undPoll_sound
    | with_reducible apply acceptAll_sound
    | with_reducible apply foldl_sound
    | split
    | intro _ _ _

theorem loadKey_sound {r : Nat} (hS : Sound s) : Sound (loadKey r s) := by
  dsimp only [loadKey]
  repeat' first
    | with_reducible assumption
    | with_reducible apply modRealm_sound
    | split

theorem splitIsl_sound {i : Isl} (hS : Sound s) : Sound (splitIsl i s) := by
  dsimp only [splitIsl]
  repeat' first
    | with_reducible assumption
    | with_reducible apply raise_sound
    | with_reducible apply setIsl_sound
    | split

theorem lodgeWork_sound {j : Job} (hS : Sound s) : Sound (lodgeWork j s).1 := by
  have h0 : ∀ {p : Nat × Nat → Bool} {rs : List Nat},
      Sound { s with lodging := { s.lodging with saved := s.active.filter p, realms := rs } } :=
    ⟨⟨hS.1.1, hS.1.2.1, hS.1.2.2.1, tcanon_filter _ hS.1.2.1⟩, hS.2⟩
  unfold lodgeWork
  split
  · exact hS
  · extract_lets realms split saved x s1 s2 s3 s4
    have h1 : Sound s1 := swapIn_sound h0
    have h2 : Sound s2 := foldl_sound _ h1 fun _ _ h => loadKey_sound h
    have h3 : Sound s3 := sound_ite (splitIsl_sound (splitIsl_sound h2)) h2
    exact raise_sound (setOp_sound (regSet_sound h3) nofun)

theorem beginRecall_sound {j : Job} (hS : Sound s) : Sound (beginRecall j s) := by
  dsimp only [beginRecall]
  repeat' first
    | with_reducible assumption
    | with_reducible apply stopLodgers_sound

theorem recallJob_sound {acc : Nat} (hS : Sound s) : Sound (recallJob acc s) := by
  unfold recallJob
  extract_lets s1
  have h1 : Sound s1 := jobCommand_sound (fun _ _ h => h) hS
  split
  · exact sound_ite (beginRecall_sound h1) h1
  · exact h1

theorem graceEnd_sound  (hS : Sound s) : Sound (graceEnd s) := by
  dsimp only [graceEnd]
  repeat' first
    | with_reducible assumption
    | with_reducible apply limpRelease_sound
    | with_reducible apply dropLodgerTiles_sound
    | with_reducible apply modRecall_sound
    | with_reducible apply releaseLodgers_sound
    | split

theorem restoreBanks_sound  (hS : Sound s) : Sound (restoreBanks s) := by
  dsimp only [restoreBanks]
  repeat' first
    | with_reducible assumption
    | with_reducible apply actSet_sound
    | with_reducible apply releaseMemory_sound
    | with_reducible apply modRealm_sound
    | with_reducible apply loadKey_sound
    | with_reducible apply regMod_sound
    | with_reducible apply foldl_sound
    | split
    | intro _ _ _

theorem recallRestore_sound {passA passB : Bool} (hS : Sound s) : Sound (recallRestore passA passB s) := by
  dsimp only [recallRestore]
  repeat' first
    | with_reducible assumption
    | with_reducible apply restoreBanks_sound
    | with_reducible apply rejoinBoth_sound
    | with_reducible apply modRecall_sound
    | split

theorem endRecall_sound {r : Recall} {j : Job} {status detail : Nat} (hS : Sound s) : Sound (endRecall r j status detail s) := by
  unfold endRecall
  extract_lets us s1 s2 s3 s4 x
  have h2 : Sound s2 := sound_ite (setOp_sound (regSet_sound (regSet_sound hS)) nofun) (regSet_sound (regSet_sound hS))
  have h3 : Sound s3 := raise_sound h2
  have h4 : Sound s4 := sound_ite (okJob_sound h3) (failJob_sound h3)
  exact ⟨⟨h4.1.1, h4.1.2.1, h4.1.2.2.1, rfl⟩, h4.2⟩

theorem recallDone_sound  (hS : Sound s) : Sound (recallDone s) := by
  dsimp only [recallDone]
  repeat' first
    | with_reducible assumption
    | with_reducible apply endRecall_sound
    | split

theorem enterDormant_sound (hS : Sound s) : Sound (enterDormant s) := by
  have h1 : Sound (setOp .dormant (writeWear (regInc K.WEAR_DORMANT_count s))) := setOp_sound (writeWear_sound (regInc_sound hS)) nofun
  unfold enterDormant
  generalize setOp .dormant (writeWear (regInc K.WEAR_DORMANT_count s)) = t at h1
  exact dropStacks_sound (endWork_sound (foldl_sound _ h1 fun _ _ h => sound_ite (writeStatus_sound h) h))

theorem drainStep_sound {j : Job} (hS : Sound s) : Sound (drainStep j s) := by
  dsimp only [drainStep]
  repeat' first
    | with_reducible assumption
    | with_reducible apply okJob_sound
    | with_reducible apply enterDormant_sound
    | split

theorem attCtrl_sound {p op realm : Nat} {go : Bool} (hS : Sound s) : Sound (attCtrl p op realm go s) := by
  dsimp only [attCtrl]
  repeat' first
    | with_reducible assumption
    | with_reducible apply regSet_sound
    | split

theorem attDone_sound {p : Nat} (hS : Sound s) : Sound (attDone p s) := by
  dsimp only [attDone]
  repeat' first
    | with_reducible assumption
    | with_reducible apply hostWrite_sound
    | with_reducible apply regSet_sound
    | with_reducible apply raise_sound
    | split

theorem undBegin_sound (hS : Sound s) : Sound (undBegin s) :=
  regSet_sound (regSet_sound (mapJobs_sound (s := { s with und := _ }) hS (fun _ => rfl) fun _ => rfl))

theorem undLeave_sound  (hS : Sound s) : Sound (undLeave s) := by
  dsimp only [undLeave]
  repeat' first
    | with_reducible assumption
    | with_reducible apply regSet_sound
    | with_reducible apply undEnd_sound
    | split

theorem undSwitch_sound {on : Bool} {realm : Nat} (hS : Sound s) : Sound (undSwitch on realm s) := by
  dsimp only [undSwitch]
  repeat' first
    | with_reducible assumption
    | with_reducible apply undLeave_sound
    | with_reducible apply regSet_sound
    | with_reducible apply refuseRing_sound
    | with_reducible apply undBegin_sound
    | split

theorem undCtrl_sound {on : Bool} {realm : Nat} {orph : Bool} (hS : Sound s) : Sound (undCtrl on realm orph s) := by
  dsimp only [undCtrl]
  repeat' first
    | with_reducible assumption
    | with_reducible apply undSwitch_sound
    | with_reducible apply orphan_sound
    | split

theorem scrubStep_sound  (hS : Sound s) : Sound (scrubStep s) := by
  dsimp only [scrubStep]
  repeat' first
    | with_reducible assumption
    | with_reducible apply regInc_sound
    | with_reducible apply regSet_sound
    | (with_reducible refine marks_sound ?_ (fun _ => rfl) (fun _ => rfl) (fun _ => rfl))
    | split

theorem scrub_sound {mem num : Nat} {u : GranuleUse} {f : GranuleFinding} (hS : Sound s) : Sound (scrub mem num u f s) := by
  dsimp only [scrub]
  repeat' first
    | with_reducible assumption
    | with_reducible apply scrubStep_sound
    | with_reducible apply meetGranule_sound
    | split

theorem markErased_sound {mem gang group : Nat} (hS : Sound s) : Sound (markErased mem gang group s) := by
  dsimp only [markErased]
  repeat' first
    | with_reducible assumption
    | with_reducible apply regMod_sound
    | with_reducible apply raiseFault_sound
    | (with_reducible refine marks_sound ?_ (fun _ => rfl) (fun _ => rfl) (fun _ => rfl))
    | split

theorem promoteRoom_sound {r room : Nat} (hS : Sound s) : Sound (promoteRoom r room s) := by
  dsimp only [promoteRoom]
  repeat' first
    | with_reducible assumption
    | with_reducible apply moveRoom_sound
    | split

theorem clearRc_sound {p off : Nat} (hS : Sound s) : Sound (clearRc p off s) := by
  dsimp only [clearRc]
  repeat' first
    | with_reducible assumption
    | with_reducible apply regSet_sound
    | with_reducible apply foldl_sound
    | split
    | intro _ _ _

theorem readWord_sound {p off : Nat} (hS : Sound s) : Sound (readWord p off s).1 := by
  dsimp only [readWord]
  repeat' first
    | with_reducible assumption
    | with_reducible apply clearRc_sound
    | split

theorem readAccess_sound {p off size : Nat} (hS : Sound s) : Sound (readAccess p off size s) := by
  dsimp only [readAccess]
  repeat' first
    | with_reducible assumption
    | with_reducible apply denied_sound
    | with_reducible apply readWord_sound
    | split

theorem fieldWrite_sound {p off v : Nat} {r : FieldRow} (hS : Sound s) : Sound (fieldWrite p off v r s) := by
  dsimp only [fieldWrite]
  repeat' first
    | with_reducible assumption
    | with_reducible apply regSet_sound
    | with_reducible apply shSet_sound
    | with_reducible apply regMod_sound
    | split

theorem plainWrite_sound {p off v : Nat} (hS : Sound s) : Sound (plainWrite p off v s) := by
  dsimp only [plainWrite]
  repeat' first
    | with_reducible assumption
    | with_reducible apply fieldWrite_sound
    | with_reducible apply regInc_sound
    | with_reducible apply foldl_sound
    | split
    | intro _ _ _

theorem applyWord_sound {p off v : Nat} (hS : Sound s) : Sound (applyWord p off v s) := by
  dsimp only [applyWord]
  repeat' first
    | with_reducible assumption
    | with_reducible apply hostCtrl_sound
    | with_reducible apply evtCtrl_sound
    | with_reducible apply attCtrl_sound
    | with_reducible apply tbInc_sound
    | with_reducible apply tbStep_sound
    | with_reducible apply tbBaseline_sound
    | with_reducible apply tbSnap_sound
    | with_reducible apply lnkRequest_sound
    | with_reducible apply undCtrl_sound
    | with_reducible apply ringCtrl_sound
    | with_reducible apply setPort_sound
    | with_reducible apply ethTxCtrl_sound
    | with_reducible apply plainWrite_sound
    | split

theorem writeWord_sound {p off v : Nat} (hS : Sound s) : Sound (writeWord p off v s) := by
  dsimp only [writeWord]
  repeat' first
    | with_reducible assumption
    | with_reducible apply denied_sound
    | with_reducible apply applyWord_sound
    | split

theorem writeAccess_sound {p off size v : Nat} (hS : Sound s) : Sound (writeAccess p off size v s) := by
  dsimp only [writeAccess]
  repeat' first
    | with_reducible assumption
    | with_reducible apply denied_sound
    | with_reducible apply writeWord_sound
    | split

theorem configRequest_sound {p : Nat} {req : CfgReq} (hS : Sound s) : Sound (configRequest p req s) := by
  dsimp only [configRequest]
  repeat' first
    | with_reducible assumption
    | with_reducible apply modPort_sound
    | with_reducible apply masterFall_sound
    | split

end Sys2Proof.Machine
end

