-- ==== Sys2Proof/WellFormed.lean ====
section
/-! DEFINITION. Which commands can arrive: bounds on operands that the operand types do not give. Every meaning is total, so an ill-formed
command has an effect too; the check says what a bus, a sensor or a port can deliver. -/

namespace Sys2Proof

/-- Host writes fit the 64-bit bus address space (R224). -/
def HostWrite.wf (w : HostWrite) : Bool := decide (w.addr.toNat + w.data.length ≤ 2 ^ 64)

/-- An access of the set-up window has 1, 2, 4 or 8 bytes (R404); the module refuses the first two. -/
def accessSize (size : Nat) : Bool := [1, 2, 4, 8].contains size

/-- A CSI-2 long packet carries a 16-bit word count of payload (R270). -/
def CsiPkt.wf (p : CsiPkt) : Bool := decide (p.payload.length < 65536)

/-- An Ethernet frame holds at least the two addresses and the type, and at most what a port can receive (R270, R275). -/
def EthFrame.wf (f : EthFrame) : Bool := decide (14 ≤ f.bytes.length) && decide (f.bytes.length < 65536)

/-- The number of data bytes that a data length code stands for (R270). -/
def dlcBytes (dlc : Nat) : Nat := [0, 1, 2, 3, 4, 5, 6, 7, 8, 12, 16, 20, 24, 32, 48, 64].getD dlc 0

/-- A CAN frame's data are as long as its length code says; a frame without the FD format carries at most eight bytes, no bit-rate switch,
and an identifier without the extension is 11 bits wide (R270). -/
def CanFd.wf (f : CanFd) : Bool :=
  f.data.length == (if f.fd then dlcBytes f.dlc.val else min 8 f.dlc.val) && (f.fd || !f.brs) && (f.ext || decide (f.ident.toNat < 2048))

/-- The digests that a boot slot's header lists are SHA-384 digests of 48 bytes (R353). -/
def SlotImage.wf (x : SlotImage) : Bool := x.listed.all fun d => d.length == 48

/-- A byte of a golden tile's results that comes out wrong has a wrong bit (R141). -/
def GoldenRun.wf (x : GoldenRun) : Bool := x.wrong.all fun w => w.2 != 0

/-- Which hot spots a sampling covers: eight on a compute die, four on the IOD (R382); a diode's code is 16 bits wide; power comes for the five
sampled dies. -/
def Sample.wf : Sample → Bool
  | .hotSpots die diodes => diodes.length == (if die.val = 4 then 4 else 8) &&
      diodes.all fun p => decide (-32768 ≤ p.1) && decide (p.1 < 32768) && decide (-32768 ≤ p.2) && decide (p.2 < 32768)
  | .coolant inlet outlet _ => decide (-32768 ≤ inlet) && decide (inlet < 32768) && decide (-32768 ≤ outlet) && decide (outlet < 32768)
  | .power dies => dies.length == 5

/-- A digest that a side reports is a SHA-256 digest of 32 bytes (R53). -/
def digestWf : Option (List Byte) → Bool
  | some d => d.length == 32
  | none => true

/-- Whether a command can arrive. Link training names twenty port ends, eight stacks and eight links (R350). -/
def Instr.wf : Instr → Bool
  | .doorbellPoll _ ws _ | .ethTxFrame _ ws | .ingressDrain _ ws | .postStreamRead ws => ws.all HostWrite.wf
  | .rcRead _ _ size | .registerWrite _ _ size _ => accessSize size
  | .timeBaseTick n => decide (1 ≤ n)
  | .csiPacket _ p => p.wf
  | .ethRxFrame _ f => f.wf
  | .canFrame _ f => f.wf
  | .fusionResult _ _ d => digestWf d
  | .duplexCompare _ a b => digestWf a && digestWf b
  | .bootSlot _ x => x.wf
  | .linkTrainingDone ends ids fwd rev => ends.length == 20 && ids.length == 8 && fwd.length == 8 && rev.length == 8
  | .sensorSample x => x.wf
  | .scrubGranule _ _ (.room _ _ off) _ => decide (off % 64 = 0)
  | .rehearsalEnd _ _ _ x => x.wf
  | .keepwarmLoop _ ls _ => ls.all fun l => l.2.2.wf
  | .sibFirmwareVerify x => x.codes.length == 5
  | .laneErrorThreshold _ _ _ n => decide (n < 2 ^ 32)
  | _ => true

end Sys2Proof
end

