-- ==== Sys2Proof/Tests/Slice0.lean ====
section
/-! SUPPORT. The model's own tests: well-formedness, values worked out in the specification, commands on small states, and for every statement with
hypotheses a theorem witness_<its name> that shows concrete states and operands which meet them, clause by clause. -/

open Sys2Proof Sys2Proof.Machine

namespace Sys2Proof.Tests

set_option Elab.async false

/-! Small states -/

/-- A running machine with open host windows, in WARM_IDLE, straps released. -/
def base : State := { State.reset with
  op := .warmIdle,
  hosts := (List.range 4).map fun p => (p, { HostPort.init with perstLow := false, busMaster := true }),
  boot := { State.reset.boot with windows := true, mrstLow := false } }
/-- Register fields set one by one. -/
def setR (l : List (Nat × Nat)) (s : State) : State := l.foldl (fun s e => regSet e.1 e.2 s) s
/-- Active banked fields set one by one. -/
def setA (l : List (Nat × Nat)) (s : State) : State := l.foldl (fun s e => actSet e.1 e.2 s) s
/-- The state after a command. -/
def nx (i : Instr) (s : State) : State := match exec i s with | .next t => t | _ => s
/-- Port 1 has its doorbell and status addresses. -/
def sAddr : State := setR [(K.DB_BASE_LO_base 1, 0x200), (K.STATUS_ADDR_LO_base 1, 0x400)] base
/-- Port 1 is enabled, with an event ring. -/
def sHost : State := setR [(K.HOST_CTRL_enable 1, 1), (K.EVT_BASE_LO_base 1, 0x800), (K.EVT_CTRL_log2_entries 1, 6), (K.EVT_CTRL_enable 1, 1)] sAddr
def sPort : State := setR [(K.ING_CTRL_enable 29, 1)] base
/-- Ring 2 of port 1 is enabled. -/
def sRing : State := setR [(K.RING_CTRL_enable 1 2, 1), (K.RING_CTRL_log2_entries 1 2, 3), (K.RING_SQ_LO_base 1 2, 0x1000), (K.RING_CQ_LO_base 1 2, 0x8000)] sHost
/-- The time base is valid. -/
def sTime : State := { setR [(K.TB_STATUS_valid, 1)] base with tbUnits := 5000 * 2 ^ 32 }
/-- An accepted job of ring 2 of port 1: level 1.0, a realm, further descriptor fields (offset, length, value). -/
def mkJob (acc realm : Nat) (l : List (Nat × Nat × Nat)) : Job :=
  ⟨acc, 1, 2, realm, ((2, 2, 0x0100) :: (4, 1, realm) :: l).foldl (fun d f => d.take f.1 ++ leBytes f.2.1 f.2.2 ++ d.drop (f.1 + f.2.1)) (zeros 128),
    .accepted, none, [], [], 0, [], false, none, none, none, none, [], []⟩
/-- A job in flight. -/
def withJob (j : Job) (s : State) : State := { s with jobs := s.jobs ++ [j], accCtr := j.acc + 1 }
/-- A MOVE of 64 bytes from 0 to 256. -/
def jMove : Job := mkJob 5 0 [(0, 1, 6), (56, 8, 256), (64, 8, 64)]
/-- A window unit of realm 0, with a few bytes in it. -/
def sWin : State := { setA [(K.MPART_HBM_win_units 0, 1)] sRing with mem := { sRing.mem with win := [(3, 7), (70, 9), (260, 1)] } }
def sMove : State := withJob jMove sWin
def fMove (a : Nat) : JobForm := ⟨.move a, fun j => jType j == 6, movePre, moveWork, once, []⟩
def jBad : Job := mkJob 5 0 [(0, 1, 6), (9, 1, 9)]
def jDig : Job := mkJob 5 0 [(0, 1, 10), (56, 8, 32)]
def jFence (e : Nat) : Job := mkJob 5 0 [(0, 1, 9), (48, 8, e)]
def jRun (j : Job) : Job := { j with phase := .running }
def jBar (dormant : Nat) : Job := mkJob 5 0 [(0, 1, 13), (1, 1, dormant)]
def jEarly : Job := { jMove with acc := 3, ring := 1, phase := .running }
def jCur (mask gen : Nat) : Job := mkJob 5 0 [(0, 1, 8), (48, 4, mask), (52, 1, 1), (53, 1, gen), (56, 8, 9)]
def sCue : State := { setA [(K.CUE_CTRL_enable 3, 1), (K.CUE_PERIOD_ns 3, 10000000), (K.CUE_CTRL_targets 3, 7), (K.CUE_CTRL_pin 3, 1), (K.CUE_WIDTH_ns 3, 100)] base with tbUnits := 50000000 * 2 ^ 32 }
def sCur (mask : Nat) : State := { withJob (jRun (jCur mask 3)) { sCue with mgrPort := 1 } with curtain := some ⟨5, mask, true, 3, 9, some 9, false⟩ }
def jLodge (mask : Nat) : Job := mkJob 5 0 [(0, 1, 11), (48, 1, mask)]
def ready (s : State) : State :=
  { setR ((K.ID_DIES_in_service, 15) :: (List.range 4).flatMap fun d => (List.range 6).map fun w => (K.REH_DONE_arrays d w, regGet s (K.SERVICE_arrays d w))) s with
    frame := { s.frame with due := false, golden := [0, 1, 2, 3] } }
def sStr (port k : Nat) : State := setR [(K.ING_CTRL_enable port, 1)] (setA [(K.STR_CTRL_enable k, 1), (K.STR_CTRL_port k, port)] sTime)
def fullPort (p : Nat) (s : State) : State := modIng p (fun x => { x with items := [.packet ⟨9, 0, 0, ⟨0, true⟩, 0, zeros (fifoSize p - 96), none⟩] }) s
def csi : CsiPkt := ⟨0, 0x2A, .good, some 3, false, true, false, [1, 2, 3]⟩
def eth (n : Nat) : EthFrame := ⟨zeros n, true⟩
def pk (k len : Nat) : Packet := ⟨k, 2, 1, ⟨123456, true⟩, 77, (List.range len).map (BitVec.ofNat 8), none⟩
def sDrain (len prod cons : Nat) : State :=
  let s := setA [(K.MPART_HBM_win_units 0, 1), (K.STR_CB_LO_base 31, 16), (K.STR_SIZE_n_or_slots 31, 16)] (sStr 21 31)
  let s := modIng 21 (fun x => { x with items := [.packet (pk 31 len)] }) s
  modStr 31 (fun x => { x with producer := prod }) (realmWrite 0 (strCb s 31 + 8) (leBytes 8 cons) s)
def sTest : State := modStr 31 (fun x => { x with tested := true }) (setA [(K.MPART_HBM_win_units 0, 1), (K.STR_PITCH_bytes 31, 4), (K.STR_CTRL_kind 31, 1)] (sStr 11 31))
/-- Four die engines at work. -/
def sEng : State := { setR [(K.ID_DIES_in_service, 15), (K.DPX_FRAME_frame, 5)] sTime with engines := (List.range 4).map fun d => (d, { Engine.init with prevPass := [0xFFFFFFFF], nextTile := 4 }) }
def tens (fmt role addr : Nat) (dims strides : List Nat) : List Byte :=
  [BitVec.ofNat 8 fmt, 2, BitVec.ofNat 8 role] ++ zeros 5 ++ leBytes 8 addr ++ (dims ++ [0, 0, 0, 0]).flatMap (leBytes 4) ++ (strides ++ [0, 0, 0, 0]).flatMap (leBytes 8) ++ zeros 8
def nod (op : Nat) (ins outs : List Nat) : List Byte :=
  [BitVec.ofNat 8 op, 0, BitVec.ofNat 8 ins.length, BitVec.ofNat 8 outs.length] ++ zeros 4 ++ ((ins ++ zeros4).take 4).flatMap (leBytes 4) ++ ((outs ++ zeros4).take 2).flatMap (leBytes 4) ++ leBytes 4 0x3F800000 ++ zeros 28
  where zeros4 := [0, 0, 0, 0]
def gMem : List Host.Cell :=
  let h := leBytes 2 256 ++ zeros 2 ++ leBytes 4 4 ++ leBytes 4 3 ++ leBytes 2 2 ++ leBytes 2 1 ++ leBytes 8 0x10100 ++ leBytes 8 0x10400 ++ leBytes 8 0x10500 ++ zeros 24
  let ts := tens 1 1 0x20000 [1, 16] [16, 1] ++ tens 1 1 0x20100 [16, 1] [1, 1] ++ tens 8 0 0x20200 [1, 1] [1, 1] ++ tens 8 2 0x20300 [1, 1] [1, 1]
  memWrite 0x10000 h (memWrite 0x10100 ts (memWrite 0x10400 (nod 1 [0, 1] [2] ++ nod 0 [2] [3] ++ nod 0 [3] [2]) (memWrite 0x10500 ([0, 1, 3].flatMap (leBytes 4)) (memWrite 0x20000 [3, 5] (memWrite 0x20100 [7, 2] [])))))
def jG : Job := jRun (mkJob 5 0 [(0, 1, 1), (48, 8, 0x10000)])
def w0 : TileWork := .array ⟨0, 0, 0⟩ 0 0
def sTile (due : List (Nat × Nat)) : State := withJob jG (modEngine 2 (fun e => { e with due := due }) { sEng with mem := { sEng.mem with win := gMem } })
def tileD (w : TileWork) (node : Nat) : TileDesc := ⟨0, 5, node, w, 1, 3⟩
def tl (id node : Nat) (w : TileWork) (failed : List (Nat × Nat)) : Tile := ⟨id, 0, 5, node, w, 1, 3, failed, []⟩
def sTiles (l : List Tile) : State := modEngine 2 (fun e => { e with tiles := l }) (sTile [])
def g0 : Graph := jobGraph (sTile []) jG
def n0 : GNode := g0.nodes.headD (parseNode 0 [])
def n1 : GNode := (g0.nodes.drop 1).headD (parseNode 0 [])
def n2 : GNode := (g0.nodes.drop 2).headD (parseNode 0 [])
def cellFault : TileFault := { cells := [(0, 0, 1)] }
def ledgerFault : TileFault := { ledger := [1] }
def sReady : State := modEngine 2 (fun e => { e with homes := [⟨5, 0, w0, 1, [[[31]]]⟩] }) (sTiles [tl 7 0 (.merge ⟨0, 0, 0⟩) []])
/-- A room of realm 0 in the cellar. -/
def sRoom : State :=
  let s := setA [(K.MPART_HBM_win_units 0, 1), (K.MPART_HBM_room_units 0, 1), (K.MPART_CEL_room_units 0, 2), (K.MPART_ROOM_size_4k 0, 64)] sEng
  modRoom 0 3 (fun _ => ⟨1, 0, 1, 2, .cold, false, false, 64, [⟨4, 1⟩]⟩) (modRealm 0 (fun m => { m with selected := [3] }) s)
def res : JobResult := ⟨0, 0, 0, zeros 32, [], [], none⟩
def jHeld (d : Option Dispute) : Job := { jMove with phase := .withheld, held := some res, dispute := d }
def sDup (d : Option Dispute) : State := withJob (jHeld d) sEng
def sDupT : State := modEngine 2 (fun e => { e with homes := [⟨5, 0, w0, 1, []⟩] }) (sDup none)
def sIsl (f : Island → Island) (st : Nat) : State := let s := setR [(K.ISL_STATUS_sia, st)] sEng; { s with ticks := 10, isl := { s.isl with a := f Island.init } }
def lic (ok : Bool) : DebugLicence := ⟨ok, 1, 5, 0xF⟩
def sDbg : State := setR [(K.BOOT_STATUS_phase, 8)] sEng
def sDbg2 : State := setR [(K.DBG_STATUS_active, 1), (K.DBG_STATUS_scope, 15)] sDbg
def sDbg3 : State := { sDbg2 with inDrive := true }
def sDbg4 : State := { sDbg2 with isl := { sDbg2.isl with a := { sDbg2.isl.a with dbgHalt := true, core := [(64, 9)], checker := [(64, 9)] } } }
/-- Links up, one of them changed. -/
def sLink (l : Nat) (f : Link → Link) : State := modLink l f (setR ((List.range 8).map fun l => (K.LNK_STATUS_state l, 2)) sEng)
def sL7 : State := sLink 7 id
def fl0 : Flit := ⟨3, 5, Vector.replicate 128 (0xA5 : Byte)⟩
def sFlow (run : Nat) : State := sLink 7 fun k => { k with flowR := ⟨1, run, 3, [fl0, fl0], none⟩ }
/-- A machine in a boot phase. -/
def sBoot (p : Nat) : State := { setR [(K.BOOT_STATUS_phase, p)] base with op := .booting, boot := { base.boot with windows := false, railsGood := true } }
def img (ok : Bool) (svn : BitVec 16) : SlotImage := ⟨zeros 97, ok, svn, [sha384 (zeros 1)], [zeros 1], true⟩
def sSlot : State := { sBoot 1 with kept := { (sBoot 1).kept with svnMin := 4, keyHashA := sha384 (zeros 97) } }
def flow (n : Nat) (s : State) : State := setR [(K.THM_FLOW_sensor, n), (K.THM_STATUS_sensor_ok, 1)] s
def wTimeBaseIncrement1 : State := { base with time := { base.time with incNext := some (2^33+1) } }
def wTimeBaseStep1 : State := { sTime with inDrive := true }
def wTimeBaseStep2 : State := { sTime with inDrive := true }
def wTimeBaseStep3 : State := { sTime with inDrive := true, time := { sTime.time with debt := 5 } }
def wTimeBaseBaseline1 : State := { base with inDrive := true }
def wTimeBaseBaseline2 : State := { base with time := { base.time with base := some (7 * 2^32), debt := 9 } }
def wTimeBaseTicks1 : State := { sTime with time := { sTime.time with step := some 100 } }
def wTimeBaseTicks2 : State := { sTime with time := { sTime.time with debt := 2^40 } }
def wTimeBaseTicks3 : State := { setR [(K.TB_STATUS_holding, 1)] sTime with time := { sTime.time with debt := 77 } }
def wTimeBaseTicks4 : State := { sTime with tbUnits := 2^80 + 12345678901234567 }
def wDeniedAccess1 : State := { base with curtain := some ⟨0, 1, false, 0, 0, none, false⟩ }
def sAtt : State := { setR [(K.ATT_ADDR_LO_base 0, 0x10000), (K.EVT_CTRL_log2_entries 0, 6), (K.EVT_CTRL_enable 0, 1)] base with attest := [(0, ⟨0, 3⟩)] }
def wAttestation1 : State := { sAtt with attest := [(0, ⟨1, 3⟩)] }
def sUnd : State := setR [(K.UND_TABLE_CTRL_log2_entries, 6), (K.UND_TABLE_LO_base, 0x1000), (K.UND_START_LO_index, 77)] base
def sUndOn : State := setR [(K.UND_CTRL_enable, 1), (K.UND_CTRL_realm, 2), (K.UND_STATE_state, 1)] { sUnd with ticks := 100000000000, und := { sUnd.und with start := some 77, next := 79, waiting := [⟨78, true, [], 0⟩] } }
def sPoll : State := { sRing with mem := { sRing.mem with host := tset 0 (hostKey 1 (doorbellAt sRing 1 + 16)) (2 : Byte) sRing.mem.host } }
def sPoll2 : State := setA [(K.REALM_BIND_enabled 0, 1), (K.REALM_BIND_host 0, 1), (K.REALM_BIND_ring 0, 2)] sPoll
def sM := (nx (.move 5 .start) sMove)
def jBad1 : Job := mkJob 5 0 [(0, 1, 6), (5, 1, 9)]
def jFR : Job := mkJob 5 1 [(0, 1, 4), (1, 1, 2)]
def fFR : JobForm := ⟨.fuseReplay 5, fun j => jType j == 4 && jReplay j, fuseReplayPre, fuseReplayWork, engineDuplex, [0, 1]⟩
def jE (e lv realm : Nat) : Job := mkJob 5 realm [(0, 1, 6), (8, 8, e), (2, 2, lv)]
def sEp (e : Nat) : State := modRealm 0 (fun r => { r with epoch := e }) sWin
def jLong : Job := mkJob 5 0 [(0, 1, 6), (64, 8, 2^64-1)]
def wCompletionRecord1 : State := modRing 1 2 (fun q => { q with cqProducer := 65535 }) sMove
def sDig : State := withJob jDig sWin
def sDigEq : State := withJob jDig { sWin with mem := { sWin.mem with win := [] } }
def jFW : Job := { jRun (jFence 1) with waitFor := [3] }
def wFencesAndBarriers1 : State := { withJob (jBar 4) { sWin with mgrPort := 1 } with op := .drive }
def wFencesAndBarriers2 : State := withJob (jBar 4) { sWin with mgrPort := 1 }
def wFencesAndBarriers3 : State := withJob (jBar 4) (withJob jEarly { sWin with mgrPort := 1 })
def sC0 : State := withJob (jCur 2 3) { sCue with mgrPort := 1 }
def wCurtainStarts1 : State := withJob (jCur 2 4) { sCue with mgrPort := 1 }
def jc (m : Nat) := jRun (jCur m 3)
def shC : State := shSet (K.REALM_BIND_host 0) 1 (shSet (K.REALM_BIND_enabled 0) 1 { sCur 2 with jobs := [jc 2] })
def shD : State := shSet (K.PART_CTRL_drive 0) 1 (sCur 1)
def bind0 (s : State) : State := setA [(K.REALM_BIND_enabled 0, 1), (K.REALM_BIND_host 0, 1), (K.REALM_BIND_ring 0, 2)] s
def sL1 : State := let s := bind0 { sWin with mgrPort := 1 }; shSet (K.REALM_BIND_host 1) 1 (shSet (K.REALM_BIND_enabled 1) 1 { withJob (jLodge 2) s with shadow := s.active })
def sL0 : State := let s := bind0 { sWin with mgrPort := 1 }; { withJob (jLodge 0) s with shadow := s.active }
def t := nx (.lodge 5) sL1
def jRec : Job := mkJob 6 0 [(0, 1, 12)]
def sRec : State := withJob jRec { t with jobs := [{ jMove with realm := 1, ring := 3 }] }
def rc0 : Recall := ⟨6, 0, 0, 0, false, false, 0, 0⟩
def sGr : State := { withJob (jRun jRec) { t with jobs := [{ jRun jMove with realm := 1, ring := 3 }] } with ticks := 400000000000, lodging := { t.lodging with running := some rc0 } }
def sG2 := nx .recallGraceEnd sGr
def rc1 := sG2.lodging.running.getD rc0
def sG3 := nx (.recallRestore true true) sG2
def rc2 := sG3.lodging.running.getD rc0
def jR2 := (findJob sG3 6).getD jRec
def sG4 : State := { sG3 with frame := { sG3.frame with due := false }, dpx := { sG3.dpx with engOut := [0] }, ticks := 800000000000 }
def sG5 : State := ready sG3
def jFuse : Job := mkJob 5 0 [(0, 1, 4), (64, 8, 0), (72, 8, 0x1000), (80, 4, 0x1000), (88, 8, 0x4000), (96, 4, 0x1000)]
def sFuse : State := { withJob jFuse sWin with tbUnits := 10^9 * 2^32 }
def jPlan : Job := mkJob 5 0 [(0, 1, 5), (64, 8, 0), (72, 8, 0x1000), (80, 4, 0x1000), (88, 8, 0x4000), (96, 4, 0x1000)]
def sPlan : State := { withJob jPlan sWin with tbUnits := 10^9 * 2^32 }
def wr (a : Nat) (n v : Nat) (m : List Host.Cell) := memWrite a (leBytes n v) m
def ev (c : Nat) : Ev := ⟨0x0102, c, c == 1, 7, 8, 9, 10⟩
def wEventRecords1 : State := modPort 1 (fun h => { h with evtProducer := 65535, evtConsumer := 65500 }) sHost
def wEventRecords2 : State := modPort 1 (fun h => { h with evtProducer := 64, gap := some ⟨2, 3, 4⟩ }) sHost
def wEventRecords3 : State := modPort 1 (fun h => { h with evtProducer := 64 }) sHost
def wEventRecords4 : State := modPort 1 (fun h => { h with evtProducer := 62, gap := some ⟨2, 3, 4⟩ }) sHost
def wEventRecords5 : State := modPort 1 (fun h => { h with busMaster := false }) sHost
def wCueEdges1 : State := { sCue with curtain := some ⟨5, 1, true, 3, 1, none, false⟩ }
def sPulse : State := { sCue with ing := { sCue.ing with cues := [(3, ⟨1, 1000, some 1100, none⟩)] } }
def sFrame : State := setR [(K.ID_DIES_in_service, 15), (K.DPX_FRAME_frame, 5)] { base with frame := { base.frame with due := true } }
def wFrameStarts1 : State := { base with frame := { base.frame with due := true } }
def wPacketsEnterFifos1 : CsiPkt := {csi with frameEnd := false}
def wPacketsEnterFifos2 : CsiPkt := {csi with frameEnd := false}
def sTL : State := setR [(K.ING_CTRL_test_line 11, 1)] (setA [(K.STR_CTRL_kind 31, 1), (K.STR_PITCH_bytes 31, 16)] (sStr 11 31))
def wPacketsEnterFifos3 : CsiPkt := { csi with vc := 4 }
def sCap : State := setA [(K.CAP_CTRL_edge 7, 1)] (sStr 29 31)
def wCapturesAndSpi1 : State := { sCap with ticks := 20, ing := { sCap.ing with caps := [(7, ⟨[], some 0, 3⟩)] } }
def wCapturesAndSpi2 : State := { sCap with ticks := 19, ing := { sCap.ing with caps := [(7, ⟨[], some 0, 3⟩)] } }
def wCapturesAndSpi3 : State := setA [(K.CAP_CTRL_filter 7, 1)] sCap
def sSpi (b : Option Stamp) : State := { setA [(K.SPI_CTRL_rlen 1, 64)] (sStr 21 31) with ing := { (sStr 21 31).ing with spis := [(1, ⟨[⟨5, true⟩], b, [], 9⟩)] } }
def sMac : State := setR [(K.ETH_TX_CTRL_enable 3, 1), (K.ETH_TX_CTRL_log2_entries 3, 2), (K.ETH_TX_CTRL_pause_en 3, 1), (K.ING_HOLD_asserted 15, 1), (K.ETH_TX_BASE_LO_base 3, 0x80), (K.HOST_CTRL_enable 1, 1)] { sStr 15 31 with mgrPort := 1, ticks := 10000000 }
def wEthernetAndSensorHealth1 : State := modIng 15 (fun x => { x with high := true }) sMac
def hw (a : Nat) (bs : List Byte) : HostWrite := ⟨1, a, bs⟩
def ws (len : Nat) : List HostWrite := [hw 0x1000 [1, 0], hw 0x1020 (leBytes 8 0x2000 ++ leBytes 2 len ++ [1])]
def wEthernetAndSensorHealth2 : State := { sMac with tbUnits := unitsPerSec * 3 }
def good : State := realmWrite 0 (slotAddr sTest 31 + 576 + frameLines sTest 31 * pitch sTest 31) (testLine sTest 11 31 0) sTest
def wIngressDrains1 : State := modIng 11 (fun x => { x with fails := [(31, 0), (30, 0)] }) sTest
def sPost (prod : Nat) : State :=
  let s := setA [(K.MPART_HBM_win_units 0, 1), (K.FUS_CH_CTRL_enable 7, 1), (K.FUS_CH_CTRL_post 7, 1), (K.FUS_CH_POST_LO_base 7, 16)] sTime
  realmWrite 0 (postCb s 7) (leBytes 8 prod) s
def sEgo : State := modEgo (fun e => { e with on := true, next := 10, wheels := [(9000000, 5, 6)], imus := [(9000000, 3)] }) { sTime with tbUnits := 10200000 * 2 ^ 32 }
def wPostStreamsAndEgo1 : State := { sEgo with tbUnits := 10199999 * 2 ^ 32 }
def sSvc (k : Nat) : State := modSvc k (fun v => { v with due := [(1000, 4)] }) { setA [(K.FUS_SVC_MASK_channels k, 5)] sTime with tbUnits := 10^9 * 2^32 }
def oc : Outcome := ⟨[1], [2], 1000, 4, 900, none, false, 0, 0, 0⟩
def pend : Pend := ⟨oc, none, none, false⟩
def sWork : State := modSvc 3 (fun v => { v with work := [pend] }) sTime
def sSimp : State := { sWork with dpx := { sWork.dpx with engOut := [1] } }
def sOut : State :=
  { setA [(K.FUS_SVC_CTRL_enable 0, 1), (K.FUS_SVC_CTRL_out 0, 5), (K.OUT_CB_LO_base 5, 16), (K.OUT_SIZE_log2 5, 16), (K.MPART_HBM_win_units 0, 1)] sSimp with
    fus := { sSimp.fus with svcs := [(3, ⟨[], [{ pend with o := { oc with out := 5 } }], []⟩)] } }
def sGateT : State := let s := setR [(K.ISL_STATUS_sia, 0)] (setA [(K.ISL_CMP_mode, 1)] sTime); { s with isl := Islands.init }
def sMiss : State := { setA [(K.FUS_SVC_CTRL_enable 0, 1), (K.FUS_SVC_CTRL_out 0, 5), (K.MISS_LIMIT_ms 5, 10)] sTime with tbUnits := (10^7 + 1) * 2^32 }
def cand : Cand := ⟨[0], 5, (1, 1), 0, 0, 1, 5, [(1, 1)], []⟩
def prun : PlanRun := ⟨.plan 1, 1, 1000, 4, 0, 0, 0, none, 0, [0], [cand, cand], 0, false, 0, (1,1), 0, 0, 900, false, 0, 0⟩
def sPR (r : PlanRun) : State := { sTime with fus := { sTime.fus with plans := [r] } }
def sNoGo (r : PlanRun) : State := { sPR r with frame := { sTime.frame with golden := [], ahead := [(3, 0)] } }
def sPRe : State := realmWrite 0 0 (leBytes 8 4 ++ leBytes 8 0x100000 ++ leBytes 8 0x200000 ++ leBytes 8 4096) (setA [(K.MPART_HBM_win_units 0, 1)] (sPR prun))
def prun0 : PlanRun := { prun with cands := [], reason := 2 }
def prun1 : PlanRun := { prun with checking := true, cands := [{ cand with cells := [(-1, 0)] }, cand] }
def wPlanServices1 : Cand := { cand with cells := [(-1, 0)] }
def sReh : State := modEngine 2 (fun e => { e with due := [(11, 0)] }) sEng
def sReh2 (f : Bool) : State := modEngine 2 (fun e => { e with rehearsing := [(11, f)] }) sEng
def sDet (u : Nat) (n : Nat) : State := modEngine 2 (fun e => { e with detections := List.replicate n (u, 5) }) sEng
def sCalled : State := modEngine 2 (fun e => { e with rehearsing := [(11, false)], called := [(11, [11]), (192 + 1, [11, 12])] }) sEng
def sCalledC : State := modEngine 2 (fun e => { e with rehearsing := [(11, true)], called := [(192 + 1, [11, 12])] }) sEng
def sLone : State := (List.range 6).foldl (fun s w => regSet (K.SERVICE_arrays 2 w) (if w = 0 then 2 ^ 11 else 0) s) (modEngine 2 (fun e => { e with rehearsing := [(11, false)] }) sEng)
def sKW : State := modEngine 2 (fun e => { e with due := [(11, 0), (12, 0)] }) sEng
def sHotter (a b : Nat) (s : State) : State :=
  let s := setA [(K.THM_FLOOR_enable, 1)] (setR ((List.range 4).flatMap fun w => [(K.THM_HOT_readingsLo 2 w, b), (K.THM_HOT_readingsHi 2 w, b)]) s)
  { s with thm := { s.thm with dies := tmod DieTherm.init 2 (fun x => { x with means := [(0, Int.ofNat (8 * a), 8)] }) s.thm.dies } }
def sFast : State := sHotter 32 192 sKW
def sNoFloor : State := setA [(K.THM_FLOOR_enable, 0)] sKW
def wMemoryCare1 : State := { sEng with mem := { sEng.mem with scrubbed := scrubTotal - 1 } }
def sGran : State := setA [(K.MPART_HBM_win_units 0, 1)] wMemoryCare1
def sShow : State := { setR [(K.MEM_ERASED_gangs 7, 0x55)] sEng with mem := { sEng.mem with shows := (List.range 64).map fun n => ⟨7, 3, 71, n, 0⟩, erased := [(gangKey 7 3, [2])] } }
def sCel (p n : Nat) : State := { setR [(K.BOOT_STATUS_phase, p)] base with mem := { base.mem with initUnits := List.range n } }
def sFullR : State := modMem (fun m => { m with slotLimbo := (List.range 253).map fun i => ⟨0, ⟨2, i⟩, 0⟩ }) (modRoom 0 0 (fun _ => ⟨1, 0, 1, 2, .hot, true, false, 64, [⟨2, 255⟩]⟩) sRoom)
def sSig (g : List (Isl × Decision)) (s : State) : State := { setA [(K.ISL_CMP_mode, 1)] s with isl := { s.isl with gated := g } }
def pnd (b : Option (List Byte)) : Pend := ⟨oc, some [5], b, false⟩
def sWk (b : Option (List Byte)) : State := modSvc 3 (fun v => { v with work := [pnd b] }) sEng
def di (a b : Option (List Byte)) : Dispute := ⟨a, b⟩
def dv (a b : Option (List Byte)) := sDup (some (di a b))
def jv (a b : Option (List Byte)) := jHeld (some (di a b))
def sv := dv (some [1]) (some [2])
def sSg : State := sSig [] sv
def sDg (x : Diag) : State := modEngine 0 (fun e => { e with called := [(1000, [3])] }) { sv with dpx := { sv.dpx with diags := [x] } }
def sSimplex : State := setR [(K.ID_DIES_in_service, 1)] sv
def jw := jv (some [1]) (some [2])
def sTr (n : Nat) : State := { sEng with dpx := { sEng.dpx with transients := List.replicate n (1, 5) } }
def sTst (n : Nat) : State := { sEng with dpx := { sEng.dpx with testing := [n] } }
def sLost := sIsl (fun i => { i with missed := 3 }) 0
def sNot := sIsl (fun i => { i with notice := true }) 2
def sLost3 : State := setR [(K.ISL_STATUS_sib, 3)] sLost
def sSingleB : State := setR [(K.ISL_STATUS_sib, 3)] sEng
def sNoB : State := setR [(K.ISL_STATUS_sib, 4)] sEng
def sRep : State := { sNot with isl := { sNot.isl with report := true } }
def sRep2 : State := setR [(K.ISL_STATUS_sib, 2)] sRep
def wIslandSelfTests1 : State := sIsl (fun i => { i with relocks := [1,2,3,4] }) 0
def wIslandSelfTests2 : State := sIsl (fun i => { i with relocks := [1,2,3] }) 0
def wIslandResetsAndDebug1 : State := sIsl (fun i => { i with resetLow := true, stopped := true }) 0
def wIslandResetsAndDebug2 : State := sIsl (fun i => { i with resetLow := true, stopped := true }) 0
def wLinkHealth1 : State := sLink 7 (fun k => { k with flowR := { k.flowR with run := 1 } })
def s8 := sLink 7 (fun k => { k with flowF := { k.flowF with run := 8 } })
def wLinkHealth2 : State := sLink 7 (fun k => { k with flowF := { k.flowF with run := 7 } })
def sSp := sLink 7 (fun k => { k with left := [(true, 3)], rev := { k.rev with good := 2^68 - 1 - 8 } })
def sNar := sLink 7 (fun k => { k with left := [(true, 3)], rev := { k.rev with good := 2^64 - 1 - 8 } })
def sRt (c : Nat) := setR [(K.LNK_STATUS_state 7, 1)] (sLink 7 (fun k => { k with retrain := some c }))
def sRtOut : State := setR [(K.ID_DIES_in_service, 0)] (sRt 1)
def sRtLow : State := setR [(K.LNK_STATUS_state 7, 1)] (sLink 7 (fun k => { k with retrain := some 0, fwd := { k.fwd with good := 2 ^ 15 - 1 } }))
def sBr := { sEng with boot := { sEng.boot with broken := [0] } }
def sRs := setR [(K.ID_DIES_in_service, 7), (K.ID_DIES_present, 15)] (sLink 7 id)
def sRj := { sRs with boot := { sRs.boot with resetting := [3] }, frame := { sRs.frame with start := sRs.tbUnits } }
def sLow : State := { sRing with op := .off, boot := { sRing.boot with mrstLow := true } }
def wPowerAndReset1 : State := { sRing with op := .off, boot := { sRing.boot with railsGood := false } }
def sWear := { setR [(K.WEAR_DORMANT_count, 5), (K.WEAR_RETRAIN_count 3, 6)] sMove with kept := { sMove.kept with wear := [(K.WEAR_DORMANT_count, 3)] } }
def wPowerAndReset2 : State := { sWear with op := .dormant }
def wPowerAndReset3 : State := { sWear with op := .dormant, isl := { sWear.isl with b := { Island.init with resetLow := true } } }
def sRom := setR [(K.ISL_STATUS_sia, 2), (K.ISL_STATUS_sib, 2)] (sBoot 1)
def sB1 := { sBoot 1 with boot := { (sBoot 1).boot with slot0 := some 1 }, kept := { (sBoot 1).kept with svnMin := 4 } }
def sFw : State := { sBoot 2 with boot := { (sBoot 2).boot with key := zeros 97, listed := [[], sha384 [7]] }, kept := { (sBoot 2).kept with keyHashB := sha384 (zeros 97) } }
def codes : List (List Byte) := List.replicate 5 [9]
def sCode : State := { sBoot 3 with boot := { (sBoot 3).boot with listed := [[], [], sha384 [9]], codes := codes } }
def sP9 (t : Nat) : State := { flow 2000 (sBoot 9) with ticks := t, thm := { (sBoot 9).thm with goodFrom := some 0 } }
def sB3 := { sBoot 3 with boot := { (sBoot 3).boot with loaded := true } }
def annE (e : Nat) : EndAnn := let f := topoEnd (farEnd e); ⟨true, if f.1 < 4 then 0 else if f.1 = 4 then 1 else 2, BitVec.ofNat 64 (f.1 + 100), Fin.ofNat 8 f.2⟩
def ends := (List.range 20).map annE
def mani : Manifest := ⟨true, 1, (List.range 7).map fun d => BitVec.ofNat 64 (d + 100), (List.range 8).map fun h => BitVec.ofNat 128 (h + 1)⟩
def l68 : List (BitVec 68) := List.replicate 8 (2 ^ 50 - 1)
def sB4 : State := { setR ((List.range 8).map fun h => (K.ID_HBM_id h 0, h + 1)) (sBoot 4) with boot := { (sBoot 4).boot with ends := ends } }
def sB5 : State := setR ((linksOf 3).map fun l => (K.LNK_STATUS_state l, 3)) sB4
def wBootCompletes1 : Manifest := { mani with dies := [] }
def wBootCompletes2 : State := { base with op := .safeOff }
def wRailsClocksWear1 : State := { sEng with refSys := true }
def wRailsClocksWear2 : State := { sEng with refSys := false }
def wRailsClocksWear3 : State := { base with op := .dormant }
def wRailsClocksWear4 : State := { base with op := .dormant }
def sDf (t : Nat) : State := { flow 2000 sEng with ticks := t, thm := { sEng.thm with differFrom := some 0 } }
def sFired : State := { sEng with thm := { sEng.thm with fired := [64, 260] } }
def wFlowAndLimp1 : State := { flow 1000 sEng with op := .limp }
def sStop (t : Nat) := { flow 100 sEng with ticks := t, thm := { sEng.thm with lowFrom := some 0 } }
def sLx (t : Nat) := { flow 2000 sEng with op := .limp, inDrive := true, ticks := t, thm := { sEng.thm with goodFrom := some 0 }, dpx := { sEng.dpx with limpPair := [0, 1] } }

/-! Well-formed commands: one term for each check, which the check refuses -/

theorem test_wf_host_write : Instr.wf (.doorbellPoll 0 [⟨1, 0xFFFFFFFFFFFFFFFF, [1, 2]⟩] false) = false := by decide
theorem test_wf_eth_writes : Instr.wf (.ethTxFrame 0 [⟨1, 0xFFFFFFFFFFFFFFFF, [1, 2]⟩]) = false := by decide
theorem test_wf_drain_writes : Instr.wf (.ingressDrain 0 [⟨1, 0xFFFFFFFFFFFFFFFF, [1, 2]⟩]) = false := by decide
theorem test_wf_post_writes : Instr.wf (.postStreamRead [⟨1, 0xFFFFFFFFFFFFFFFF, [1, 2]⟩]) = false := by decide
theorem test_wf_read_size : Instr.wf (.rcRead 0 0 3) = false := by decide
theorem test_wf_write_size : Instr.wf (.registerWrite 0 0 16 0) = false := by decide
theorem test_wf_no_ticks : Instr.wf (.timeBaseTick 0) = false := by decide
theorem test_wf_csi_length : Instr.wf (.csiPacket 0 ⟨0, 0x2A, .good, none, false, false, false, zeros 65536⟩) = false := by decide +kernel
theorem test_wf_eth_short : Instr.wf (.ethRxFrame 0 ⟨zeros 13, true⟩) = false := by decide
theorem test_wf_can_data : Instr.wf (.canFrame 0 ⟨5, false, true, false, 9, zeros 11⟩) = false := by decide
theorem test_wf_can_rate : Instr.wf (.canFrame 0 ⟨5, false, false, true, 1, zeros 1⟩) = false := by decide
theorem test_wf_can_identifier : Instr.wf (.canFrame 0 ⟨2048, false, false, false, 1, zeros 1⟩) = false := by decide
theorem test_wf_fusion_digest : Instr.wf (.fusionResult 0 .a (some (zeros 31))) = false := by decide
theorem test_wf_compare_digest : Instr.wf (.duplexCompare (.job 1) none (some (zeros 33))) = false := by decide
theorem test_wf_slot_digest : Instr.wf (.bootSlot 0 ⟨zeros 97, true, 0, [zeros 32], [], false⟩) = false := by decide
theorem test_wf_training_ends : Instr.wf (.linkTrainingDone [] [] [] []) = false := by decide
theorem test_wf_iod_hot_spots : Instr.wf (.sensorSample (.hotSpots 4 (List.replicate 8 (0, 0)))) = false := by decide
theorem test_wf_diode_code : Instr.wf (.sensorSample (.hotSpots 4 (List.replicate 4 (0, 32768)))) = false := by decide
theorem test_wf_coolant_code : Instr.wf (.sensorSample (.coolant 32768 0 0)) = false := by decide
theorem test_wf_power_dies : Instr.wf (.sensorSample (.power [1])) = false := by decide
theorem test_wf_room_granule : Instr.wf (.scrubGranule 0 0 (.room 0 0 8) ⟨0, []⟩) = false := by decide
theorem test_wf_golden_bit : Instr.wf (.rehearsalEnd 0 0 0 ⟨[(0, 0)]⟩) = false := by decide
theorem test_wf_keepwarm_bit : Instr.wf (.keepwarmLoop 0 [(0, 0, ⟨[(0, 0)]⟩)] false) = false := by decide
theorem test_wf_steward_codes : Instr.wf (.sibFirmwareVerify ⟨true, [], [[]]⟩) = false := by decide
theorem test_wf_lane_errors : Instr.wf (.laneErrorThreshold 0 .fwd 0 (2 ^ 32)) = false := by decide
theorem test_wf_barrier : Instr.wf (.barrier 5) = true := by decide

/-! Values worked out in the specification -/

/-- Section 2, canonical tree: 16,777,216 and four ones give 16,777,220. -/
theorem test_canonical_sum : canonSum [0x4B800000, 0x3F800000, 0x3F800000, 0x3F800000, 0x3F800000] = 0x4B800002 := by decide +kernel

/-- Section 2, digest: the serialisation of the 2 × 3 INT8 tensor of ordinal 4 with a row stride of 64 bytes. -/
theorem test_serialise : serialise ⟨4, fmtCode .int8, 2, 0, 0, 0, [2, 3], [64, 1], 0⟩ [1, 2, 3, 0xFF, 0xFE, 0xFD] =
    [1, 2, 0, 0, 2, 0, 0, 0, 3, 0, 0, 0] ++ zeros 16 ++ [4, 0, 0, 0, 1, 2, 3, 0xFF, 0xFE, 0xFD] := by decide +kernel

/-- Section 3, MXFP4: 80 84 71 and fourteen zero bytes. -/
theorem test_mxfp4_block : packRow .mxfp4 [encMx ([0x40A00000, 0xBE99999A, 0x3F666666, 0x41400000] ++ List.replicate 28 0)] =
    [0x80, 0x84, 0x71] ++ zeros 14 := by decide +kernel

/-- Section 3, LV4: 7F 04 D6 36 and fourteen bytes AA. -/
theorem test_lv4_block : packRow .lv4 [encLv ([0x3F400000, 0xBE800000, 0x3F000000, 0x3DCCCCCD] ++ List.replicate 28 0)] =
    [0x7F, 0x04, 0xD6, 0x36] ++ List.replicate 14 0xAA := by decide +kernel

/-- Section 3, conversions to floating point. -/
theorem test_to_floating : [encElem .e4m3 none (f32Num 0x43960000), encElem .e4m3 none (f32Num 0x43FA0000), encElem .e5m2 none (f32Num 0x3F800000),
    encElem .bf16 none (f32Num 0x3F808000), encElem .bf16 none (f32Num 0x3F818000)] =
    [(0x79, false), (0x7E, true), (0x3C, false), (0x3F80, false), (0x3F82, false)] := by decide +kernel

/-- Section 3, overflow to infinity, and conversions to integers. -/
theorem test_to_integer : [(encElem .fp16 none (f32Num 0x477FF000)).1, (encElem .int8 none (f32Num 0xC0200000)).1, (encElem .int8 none (f32Num 0xFFC01234)).1] =
    [0x7C00, 0xFE, 0x00] := by decide +kernel

/-- Section 3, a BF16 group that only its sticky bit lifts off the midpoint. -/
theorem test_group_sticky : groupAligned (.fin false 1 0 :: .fin false 1 (-24) :: .fin false 1 (-45) :: List.replicate 13 (.fin false 0 0)) = 0x3F800001 := by
  decide +kernel

/-- Section 3, a group of block sums 37.25 × 2^−1 and −0.5 × 2^17. -/
theorem test_group_exact : groupExact [.fin false 149 (-3), .fin true 1 16] = 0xC77FED60 := by decide +kernel

/-- Section 4, exp2_s(0.5). -/
theorem test_exp2 : exp2S 0x3F000000 = 0x3FB504F3 := by decide +kernel

/-- Section 10, a speed interpolated between 10.0 and 12.0 at 20 of 50 ms. -/
theorem test_interpolation : (f32Div (f32Int 20000000) (f32Int 50000000), lerp 0x41200000 0x41200000 0x41400000 0x3ECCCCCD) =
    (0x3ECCCCCD, 0x412CCCCD) := by decide +kernel

/-- Section 1, the node of array A_6 of CL_17 on CD_2. -/
theorem test_node_word : nodeAddr 2 (17 + 1) (6 + 1) = 0x249C := by decide

/-- Section 6, the locator of a corrected error on DQ[23:20] of channel 9 of H_5. -/
theorem test_locator : locator 5 2 0 21 0 = 0x582A0000 := by decide

/-- Section 6, the areas of the example model's rooms in LV4. -/
theorem test_room_area : (rowLen 0 160, areaLen 0 6 160) = (90, 34560) := by decide

/-- Section 9, a frame stamp corrected by −612.5 ns and +3.25 ns. -/
theorem test_stamp_correction : corrected ⟨1700 * unitsPerSec + 120 * 2 ^ 32, true⟩ (-(0x26480) + (-(0xFFFFFCC0 - 2 ^ 32))) =
    ⟨1699 * unitsPerSec + 0x3B9AC816 * 2 ^ 32 + 0xC0000000, true⟩ := by decide +kernel

/-- R263: the FCS of Ethernet is the CRC-32 of ISO-HDLC, whose check value over "123456789" is 0xCBF43926. -/
theorem test_crc32 : crc32 [0x31, 0x32, 0x33, 0x34, 0x35, 0x36, 0x37, 0x38, 0x39] = 0xCBF43926 := by decide +kernel

/-- R169: the example of FIPS 197 for a key of 256 bits. -/
theorem test_aes : aesEnc (List.range 32) ((List.range 16).map (17 * ·)) =
    [0x8E, 0xA2, 0xB7, 0xCA, 0x51, 0x67, 0x45, 0xBF, 0xEA, 0xFC, 0x49, 0x90, 0x4B, 0x49, 0x60, 0x89] := by decide +kernel

/-! Commands on small states -/

/-- The bytes a host has at an address after a command. -/
def hostAfter (i : Instr) (s : State) (p a n : Nat) : List Byte := hostRead (nx i s) p a n

/-- R253 and section 9: under INC 2 + 0x0083126E × 2^−32 ns, 20,000,002 ticks are 40,000,004 ns and gain 40,000 ns. -/
theorem test_tick_gain : (nx (.timeBaseTick 20000002) { sTime with tbUnits := 0, time := { sTime.time with inc := 2 ^ 33 + 0x0083126E } }).tbUnits / 2 ^ 32 =
    40040004 := by decide +kernel

/-- R256: a step above the jump limit is refused with reason 0 and TB_STATUS.step_refused. -/
theorem test_tb_step_refused : regGet (nx (.tbStep 0 40000) sTime) K.TB_STATUS_step_refused = 1 := by decide +kernel

/-- R254: an INC of 2 and 0x0083126E is the largest that is taken; 0x0083126F is refused. -/
theorem test_tb_inc : ((nx (.tbIncCommit 0 2) (setR [(K.TB_INC_FRAC_frac, 0x0083126E)] base)).time.incNext,
    (nx (.tbIncCommit 0 2) (setR [(K.TB_INC_FRAC_frac, 0x0083126F)] base)).time.incNext) = (some (2 ^ 33 + 0x0083126E), none) := by decide +kernel

/-- R229, R236: a MOVE of 64 bytes from 0 to 256 completes with status OK, phase 1 and tag 0 in slot 0. -/
theorem test_move : (tget 0 259 (nx (.move 5 .whole) sMove).mem.win, hostAfter (.move 5 .whole) sMove 1 0x100000 3) = (7, [0, 0, 1]) := by decide +kernel

/-- R228, R239: a descriptor whose reserved byte 5 is set completes DESC_INVALID with the offset of that byte. -/
theorem test_desc_invalid : (hostAfter (.move 5 .whole) (withJob jBad1 sWin) 1 0x100000 2, hostAfter (.move 5 .whole) (withJob jBad1 sWin) 1 0x100018 4) =
    ([1, 0], [5, 0, 0, 0]) := by decide +kernel

/-- R34: DORMANT is entered by a dormant barrier in WARM_IDLE. -/
theorem test_dormant : (nx (.dormantBarrier 5) wFencesAndBarriers2).op = .dormant := by decide +kernel

/-- R233: a fence sets its realm's epoch. -/
theorem test_fence : (realmOf (nx (.fence 5) (withJob (jFence 7) sWin)) 0).epoch = 7 := by decide +kernel

/-- R400: the device ID and the class code that configuration reads answer. -/
theorem test_configuration : ((nx (.configRequest 1 .device) base).lastRead, (nx (.configRequest 1 .classCode) base).lastRead) = ([0x0480], [0x120000]) := by
  decide +kernel

/-- R404: a read at an offset that is no multiple of its size returns 0 and is counted. -/
theorem test_misaligned_read : ((nx (.rcRead 1 2 4) base).lastRead, regGet (nx (.rcRead 1 2 4) base) (K.HOST_DENIED_count 1)) = ([0], 1) := by decide +kernel

/-- R264: a generator of period 10 ms at 50 ms owes the edge at 10 ms first. -/
theorem test_cue_edge : (cueOf (nx (.cueEdge 3) sCue) 3).edges = 1 ∧ (cueOf (nx (.cueEdge 3) sCue) 3).last = 10000000 := by decide +kernel

/-- R240: an event record begins with its code, its class, and the phase and time-not-valid bits. -/
theorem test_event_record : hostRead (raise (.port 1) ⟨0x0402, 0, false, 0x44C0, 1, 2, 3⟩ sHost) 1 (32 * 0x800) 8 = [0x02, 0x04, 0, 5, 0xC0, 0x44, 0, 0] := by
  decide +kernel

/-- R131, R137: an array tile of a product of 3, 5 and 7, 2 forms the root 3 × 7 + 5 × 2 = 31 in the tile store, and its merge tile the unit 31. -/
theorem test_tiles : ((engineOf (nx (.tileIssue 2 (tileD w0 0)) (sTile [])) 2).tiles.map (·.result), formTile sReady 2 jG g0 n0 (.merge ⟨0, 0, 0⟩)) =
    ([[[[31]]]], [[[31]]]) := by decide +kernel

def r16 : List Byte := List.replicate 16 0xA5

/-! The CRC of a flit, in steps of sixteen bytes -/

theorem crc_head : (leBytes 4 (flitHeader 0 0 fl0)).foldl crcByte 0xFFFFFFFF = 0x7197E29F := by decide +kernel

theorem crc_steps : r16.foldl crcByte 0x7197E29F = 0x206F4C98 ∧ r16.foldl crcByte 0x206F4C98 = 0x78FECED8 ∧ r16.foldl crcByte 0x78FECED8 = 0x9BC6AFEC ∧
  r16.foldl crcByte 0x9BC6AFEC = 0xCEF6F186 ∧ r16.foldl crcByte 0xCEF6F186 = 0xDF9DFABC ∧ r16.foldl crcByte 0xDF9DFABC = 0xAEB66816 ∧
  r16.foldl crcByte 0xAEB66816 = 0x569A7CE2 ∧ r16.foldl crcByte 0x569A7CE2 = 0x6822F7AF := by decide +kernel

theorem payload_fl0 : fl0.payload.toList = r16 ++ (r16 ++ (r16 ++ (r16 ++ (r16 ++ (r16 ++ (r16 ++ r16)))))) := by decide +kernel

theorem bytes_fl0 : flitBytes 0 0 fl0 = leBytes 4 (flitHeader 0 0 fl0) ++ List.replicate 128 0xA5 ++ leBytes 4 0x97DD0850 := by
  obtain ⟨h1, h2, h3, h4, h5, h6, h7, h8⟩ := crc_steps
  have h : crc32 (leBytes 4 (flitHeader 0 0 fl0) ++ fl0.payload.toList) = 0x97DD0850 := by
    rw [crc32, payload_fl0]
    simp only [List.foldl_append, crc_head, h1, h2, h3, h4, h5, h6, h7, h8]
    decide
  show _ ++ leBytes 4 (crc32 (leBytes 4 (flitHeader 0 0 fl0) ++ fl0.payload.toList)).toNat = _
  rw [h]
  rfl

/-- R341: a flit with the CRC of ISO 3309 lies on 64 lanes in 17 unit intervals and one of even parity for each lane. -/
theorem test_flit : flitWire 64 (flitBytes 0 0 fl0) / 2 ^ 1088 = 0x97DD085005300000 := by
  rw [bytes_fl0]
  decide +kernel

/-! Witnesses: the hypotheses of each clause of a statement hold together -/

theorem witness_HostPortSwitch :
  (windowOpen sAddr 1 = true ∧ hostOn sAddr 1 = false ∧ doorbellAt sAddr 1 ≠ 0 ∧ statusAt sAddr 1 ≠ 0 ∧ (portOf sAddr 1).busMaster = true) ∧
  windowOpen sHost 1 = true := by
  decide +kernel

theorem witness_RingSwitch :
  (windowOpen sHost 1 = true ∧ ringOn sHost 1 2 = false ∧ (12 : Fin 16).val ≤ 12 ∧ ringIdle sHost 1 2 = true) ∧
  (windowOpen sRing 1 = true ∧ ringOn sRing 1 2 = true) ∧
  (windowOpen sAddr 1 = true ∧ evtOn sAddr 1 = false ∧ 6 ≤ (12 : Fin 16).val ∧ (12 : Fin 16).val ≤ 12) ∧
  (windowOpen sHost 1 = true ∧ evtOn sHost 1 = true) := by
  decide +kernel

theorem witness_RefusedEnables :
  (windowOpen base 1 = true ∧ hostOn base 1 = false ∧ (doorbellAt base 1 = 0 ∨ statusAt base 1 = 0 ∨ (portOf base 1).busMaster = false)) ∧
  (windowOpen sHost 1 = true ∧ hostOn sHost 1 = true) ∧
  (windowOpen sHost 1 = true ∧ ringOn sHost 1 2 = false ∧ (13 ≤ 13 ∨ ringIdle sHost 1 2 = false)) ∧
  (windowOpen sAddr 1 = true ∧ evtOn sAddr 1 = false ∧ (5 ≤ 5 ∨ 13 ≤ 5)) := by
  decide +kernel

theorem witness_IngressPortSwitch :
  ((Instr.portEnable 0 29 true = .portEnable 0 29 true ∧ true = true ∨ Instr.portEnable 0 29 true = .portDisable 0 29 true ∧ true = false) ∧
    windowOpen base 0 = true ∧ 0 = base.mgrPort) ∧
  ((Instr.portDisable 0 29 true = .portEnable 0 29 true ∧ false = true ∨ Instr.portDisable 0 29 true = .portDisable 0 29 true ∧ false = false) ∧
    windowOpen sPort 0 = true ∧ 0 = sPort.mgrPort ∧ (ingOf sPort 29).items = []) ∧
  (windowOpen base 0 = true ∧ 0 = base.mgrPort ∧ 2 ≤ (8 : Fin 16).val ∧ (8 : Fin 16).val ≤ 8) ∧
  (windowOpen base 0 = true ∧ 0 = base.mgrPort ∧ ((9 : Fin 16).val < 2 ∨ 8 < (9 : Fin 16).val)) := by
  decide +kernel

theorem witness_TimeBaseIncrement :
  (windowOpen (setR [(K.TB_INC_FRAC_frac, 8589934)] base) 0 = true ∧ 0 = (setR [(K.TB_INC_FRAC_frac, 8589934)] base).mgrPort ∧
    2 ^ 33 ≤ 2 * 2 ^ 32 + regGet (setR [(K.TB_INC_FRAC_frac, 8589934)] base) K.TB_INC_FRAC_frac + 8589934 ∧
    2 * 2 ^ 32 + regGet (setR [(K.TB_INC_FRAC_frac, 8589934)] base) K.TB_INC_FRAC_frac ≤ 2 ^ 33 + 8589934) ∧
  (windowOpen (setR [(K.TB_INC_FRAC_frac, 8589935)] base) 0 = true ∧ 0 = (setR [(K.TB_INC_FRAC_frac, 8589935)] base).mgrPort ∧
    (2 * 2 ^ 32 + regGet (setR [(K.TB_INC_FRAC_frac, 8589935)] base) K.TB_INC_FRAC_frac + 8589934 < 2 ^ 33 ∨ 2 ^ 33 + 8589934 < 2 * 2 ^ 32 + regGet (setR [(K.TB_INC_FRAC_frac, 8589935)] base) K.TB_INC_FRAC_frac)) ∧
  (windowOpen base 0 = true ∧ 0 = base.mgrPort) ∧
  wTimeBaseIncrement1.op ≠ OpState.off := by
  decide +kernel

theorem witness_TimeBaseStep :
  (windowOpen wTimeBaseStep1 0 = true ∧ 0 = wTimeBaseStep1.mgrPort ∧ 4294967196 ≠ 0 ∧ Int.natAbs (BitVec.toInt (4294967196 : BitVec 32)) ≤ jumpLimit wTimeBaseStep1 ∧
    wTimeBaseStep1.time.debt = 0 ∧ wTimeBaseStep1.time.step = none ∧ tbValid wTimeBaseStep1 = true) ∧
  (windowOpen sTime 0 = true ∧ 0 = sTime.mgrPort) ∧
  (windowOpen wTimeBaseStep2 0 = true ∧ 0 = wTimeBaseStep2.mgrPort ∧ 1000001 ≠ 0 ∧ (jumpLimit wTimeBaseStep2 < Int.natAbs (BitVec.toInt (1000001 : BitVec 32)) ∧
    0 = 0 ∨ Int.natAbs (BitVec.toInt (1000001 : BitVec 32)) ≤ jumpLimit wTimeBaseStep2 ∧
    (wTimeBaseStep2.time.debt ≠ 0 ∨ Option.isSome wTimeBaseStep2.time.step = true) ∧
    0 = 1 ∨ Int.natAbs (BitVec.toInt (1000001 : BitVec 32)) ≤ jumpLimit wTimeBaseStep2 ∧ wTimeBaseStep2.time.debt = 0 ∧ wTimeBaseStep2.time.step = none ∧
    tbValid wTimeBaseStep2 = false ∧ 0 = 2)) ∧
  (windowOpen wTimeBaseStep3 0 = true ∧ 0 = wTimeBaseStep3.mgrPort ∧ 1000 ≠ 0 ∧ (jumpLimit wTimeBaseStep3 < Int.natAbs (BitVec.toInt (1000 : BitVec 32)) ∧
    1 = 0 ∨ Int.natAbs (BitVec.toInt (1000 : BitVec 32)) ≤ jumpLimit wTimeBaseStep3 ∧ (wTimeBaseStep3.time.debt ≠ 0 ∨ Option.isSome wTimeBaseStep3.time.step = true) ∧
    1 = 1 ∨ Int.natAbs (BitVec.toInt (1000 : BitVec 32)) ≤ jumpLimit wTimeBaseStep3 ∧ wTimeBaseStep3.time.debt = 0 ∧ wTimeBaseStep3.time.step = none ∧
    tbValid wTimeBaseStep3 = false ∧ 1 = 2)) ∧
  (windowOpen base 0 = true ∧ 0 = base.mgrPort ∧ 1000 ≠ 0 ∧ (jumpLimit base < Int.natAbs (BitVec.toInt (1000 : BitVec 32)) ∧
    2 = 0 ∨ Int.natAbs (BitVec.toInt (1000 : BitVec 32)) ≤ jumpLimit base ∧ (base.time.debt ≠ 0 ∨ Option.isSome base.time.step = true) ∧
    2 = 1 ∨ Int.natAbs (BitVec.toInt (1000 : BitVec 32)) ≤ jumpLimit base ∧ base.time.debt = 0 ∧ base.time.step = none ∧ tbValid base = false ∧ 2 = 2)) := by
  refine ⟨?_, ?_, ?_, ?_, ?_⟩ <;> (decide +kernel)

theorem witness_TimeBaseBaseline :
  (windowOpen (setR [(K.TB_BASE_NS_ns, 999999999), (K.TB_BASE_SEC_LO_sec, 7), (K.TB_BASE_SEC_HI_sec, 1)] base) 0 = true ∧
    0 = (setR [(K.TB_BASE_NS_ns, 999999999), (K.TB_BASE_SEC_LO_sec, 7), (K.TB_BASE_SEC_HI_sec, 1)] base).mgrPort ∧
    (setR [(K.TB_BASE_NS_ns, 999999999), (K.TB_BASE_SEC_LO_sec, 7), (K.TB_BASE_SEC_HI_sec, 1)] base).inDrive = false ∧
    regGet (setR [(K.TB_BASE_NS_ns, 999999999), (K.TB_BASE_SEC_LO_sec, 7), (K.TB_BASE_SEC_HI_sec, 1)] base) K.TB_BASE_NS_ns < 1000000000) ∧
  (windowOpen (setR [(K.TB_BASE_NS_ns, 1000000000)] base) 0 = true ∧ 0 = (setR [(K.TB_BASE_NS_ns, 1000000000)] base).mgrPort ∧
    ((setR [(K.TB_BASE_NS_ns, 1000000000)] base).inDrive = true ∨ 1000000000 ≤ regGet (setR [(K.TB_BASE_NS_ns, 1000000000)] base) K.TB_BASE_NS_ns)) ∧
  (windowOpen wTimeBaseBaseline1 0 = true ∧ 0 = wTimeBaseBaseline1.mgrPort ∧
    (wTimeBaseBaseline1.inDrive = true ∨ 1000000000 ≤ regGet wTimeBaseBaseline1 K.TB_BASE_NS_ns)) ∧
  (wTimeBaseBaseline2.op ≠ OpState.off ∧ wTimeBaseBaseline2.time.base = some (7 * 2 ^ 32)) := by
  decide +kernel

theorem witness_TimeBaseTicks :
  (sTime.op ≠ OpState.off ∧ sTime.time.base = none ∧ sTime.time.step = none ∧ sTime.time.debt = 0 ∧ 0 < Option.getD sTime.time.incNext sTime.time.inc) ∧
  (wTimeBaseTicks1.op ≠ OpState.off ∧ wTimeBaseTicks1.time.base = none ∧ wTimeBaseTicks1.time.step = some (Int.ofNat 100) ∧ wTimeBaseTicks1.time.debt = 0 ∧
    0 < Option.getD wTimeBaseTicks1.time.incNext wTimeBaseTicks1.time.inc) ∧
  (wTimeBaseTicks2.op ≠ OpState.off ∧ wTimeBaseTicks2.time.base = none ∧ wTimeBaseTicks2.time.step = none ∧
    0 < Option.getD wTimeBaseTicks2.time.incNext wTimeBaseTicks2.time.inc ∧
    3 * Option.getD wTimeBaseTicks2.time.incNext wTimeBaseTicks2.time.inc < wTimeBaseTicks2.time.debt) ∧
  (wTimeBaseTicks3.op ≠ OpState.off ∧ wTimeBaseTicks3.time.base = none ∧ wTimeBaseTicks3.time.step = none ∧
    wTimeBaseTicks3.time.debt < Option.getD wTimeBaseTicks3.time.incNext wTimeBaseTicks3.time.inc) ∧
  (sTime.time.base = none ∧ sTime.lodging.limpStop = false) ∧
  (windowOpen wTimeBaseTicks4 0 = true ∧ 0 = wTimeBaseTicks4.mgrPort) := by
  decide +kernel

theorem witness_RegisterWriteByCode :
  (windowOpen base 0 = true ∧ 9344 % 4 = 0 ∧ 9344 < 0x8000 ∧ foreign base 0 9344 = false ∧ plainOffset 9344 = true ∧ base.curtain = none ∧
    List.Pairwise (fun a b ↦ a.lo ≠ b.lo) (rowsAt 9344)) ∧
  (windowOpen sRing 1 = true ∧ foreign sRing 1 32 = false ∧ plainOffset 32 = true ∧ sRing.curtain = none ∧ List.Pairwise (fun a b ↦ a.lo ≠ b.lo) (rowsAt 32)) ∧
  (windowOpen base 0 = true ∧ foreign base 0 4864 = false ∧ plainOffset 4864 = true ∧ base.curtain = none ∧ List.Pairwise (fun a b ↦ a.lo ≠ b.lo) (rowsAt 4864)) ∧
  (windowOpen base 0 = true ∧ foreign base 0 0x404 = false ∧ plainOffset 0x404 = true ∧ List.Pairwise (fun a b ↦ a.lo ≠ b.lo) (rowsAt 0x404) ∧
    hasW1c 0x404 = true) := by
  decide +kernel

theorem witness_DeniedAccess :
  (windowOpen base 1 = true ∧ (goodAccess 3 4 = false ∨ 4 = 4 ∧ 3 % 4 = 0 ∧ (32768 ≤ 3 ∨ blockAt 3 = Block.global ∧ 1 ≠ base.mgrPort))) ∧
  (windowOpen base 1 = true ∧ (goodAccess 4096 4 = false ∨ 4 = 4 ∧ 4096 % 4 = 0 ∧ (32768 ≤ 4096 ∨ blockAt 4096 = Block.global ∧ 1 ≠ base.mgrPort))) ∧
  (windowOpen base 1 = true ∧ (goodAccess 32768 4 = false ∨ 4 = 4 ∧ 32768 % 4 = 0 ∧ (32768 ≤ 32768 ∨ blockAt 32768 = Block.global ∧ 1 ≠ base.mgrPort))) ∧
  (windowOpen base 1 = true ∧ goodAccess 2 4 = false) ∧
  (windowOpen base 1 = true ∧ blockAt (36864 % 32768) = Block.global ∧ 1 ≠ base.mgrPort) ∧
  (windowOpen wDeniedAccess1 0 = true ∧ foreign wDeniedAccess1 0 4112 = false ∧ plainOffset 4112 = true ∧ Option.isSome wDeniedAccess1.curtain = true ∧
    (∀ r ∈ rowsAt 4112, r.acc = Access.rws) ∧ rowsAt 4112 ≠ []) := by
  decide +kernel

theorem witness_WindowRead :
  (windowOpen (setR [(K.ING_LOST_PKTS_count 0, 3)] base) 0 = true ∧ foreign (setR [(K.ING_LOST_PKTS_count 0, 3)] base) 0 16404 = false) ∧
  (windowOpen base 0 = true ∧ foreign base 0 (36880 - 32768) = false) ∧
  (windowOpen (setR [(K.ING_LOST_PKTS_count 0, 3)] base) 0 = true ∧ foreign (setR [(K.ING_LOST_PKTS_count 0, 3)] base) 0 16396 = false) := by
  decide +kernel

theorem witness_ConfigurationRequests :
  windowOpen base 3 = true ∧
  windowOpen State.reset 3 = false := by
  decide +kernel

theorem witness_Attestation :
  ((Instr.attestQuote 0 3 = Instr.attestQuote 0 3 ∧ 0 = 0 ∨ Instr.attestQuote 0 3 = Instr.attestCertificate 0 3 ∧ 0 = 1) ∧
    windowOpen (setR [(K.ATT_ADDR_LO_base 0, 65536)] base) 0 = true ∧ regGet (setR [(K.ATT_ADDR_LO_base 0, 65536)] base) (K.ATT_STATUS_busy 0) ≠ 1 ∧
    (realmOn (setR [(K.ATT_ADDR_LO_base 0, 65536)] base) 3 = true ∧
    realmPort (setR [(K.ATT_ADDR_LO_base 0, 65536)] base) 3 = 0 ∨ 0 = (setR [(K.ATT_ADDR_LO_base 0, 65536)] base).mgrPort) ∧
    attAddr (setR [(K.ATT_ADDR_LO_base 0, 65536)] base) 0 ≠ 0) ∧
  ((Instr.attestQuote 1 3 = Instr.attestQuote 1 3 ∧ 0 = 0 ∨ Instr.attestQuote 1 3 = Instr.attestCertificate 1 3 ∧ 0 = 1) ∧ windowOpen base 1 = true ∧
    regGet base (K.ATT_STATUS_busy 1) ≠ 1 ∧ (¬(realmOn base 3 = true ∧ realmPort base 3 = 1 ∨ 1 = base.mgrPort) ∧ 1 = 1 ∨ (realmOn base 3 = true ∧
    realmPort base 3 = 1 ∨ 1 = base.mgrPort) ∧ attAddr base 1 = 0 ∧ 1 = 2)) ∧
  ((Instr.attestCertificate 0 3 = Instr.attestQuote 0 3 ∧ 1 = 0 ∨ Instr.attestCertificate 0 3 = Instr.attestCertificate 0 3 ∧ 1 = 1) ∧ windowOpen base 0 = true ∧
    regGet base (K.ATT_STATUS_busy 0) ≠ 1 ∧ (¬(realmOn base 3 = true ∧ realmPort base 3 = 0 ∨ 0 = base.mgrPort) ∧ 2 = 1 ∨ (realmOn base 3 = true ∧
    realmPort base 3 = 0 ∨ 0 = base.mgrPort) ∧ attAddr base 0 = 0 ∧ 2 = 2)) ∧
  ((Instr.attestCertificate 0 3 = Instr.attestQuote 0 3 ∧ 1 = 0 ∨ Instr.attestCertificate 0 3 = Instr.attestCertificate 0 3 ∧ 1 = 1) ∧
    windowOpen (setR [(K.ATT_STATUS_busy 0, 1)] base) 0 = true ∧ regGet (setR [(K.ATT_STATUS_busy 0, 1)] base) (K.ATT_STATUS_busy 0) = 1) ∧
  (List.find? (fun x ↦ x.1 == 0) sAtt.attest = some (0, Attest.mk 0 3) ∧ windowOpen sAtt 0 = true ∧ (portOf sAtt 0).busMaster = true) ∧
  (List.find? (fun x ↦ x.1 == 0) wAttestation1.attest = some (0, Attest.mk 1 3) ∧ windowOpen wAttestation1 0 = true ∧ (portOf wAttestation1 0).busMaster = true) := by
  refine ⟨?_, ?_, ?_, ?_, ?_, ?_⟩ <;> (decide +kernel)

theorem witness_UnderstudyMode :
  (windowOpen sUnd 0 = true ∧ 0 = sUnd.mgrPort ∧ regGet sUnd K.UND_CTRL_enable ≠ 1 ∧ undTable sUnd ≠ 0 ∧ 6 ≤ regGet sUnd K.UND_TABLE_CTRL_log2_entries ∧
    regGet sUnd K.UND_TABLE_CTRL_log2_entries ≤ 12) ∧
  (windowOpen base 0 = true ∧ 0 = base.mgrPort ∧ regGet base K.UND_CTRL_enable ≠ 1 ∧
    (regGet base K.UND_TABLE_CTRL_log2_entries < 6 ∨ 12 < regGet base K.UND_TABLE_CTRL_log2_entries ∨ undTable base = 0)) ∧
  (windowOpen sUndOn 0 = true ∧ 0 = sUndOn.mgrPort ∧ regGet sUndOn K.UND_CTRL_enable = 1) ∧
  (windowOpen sUndOn 0 = true ∧ 0 = sUndOn.mgrPort ∧ regGet sUndOn K.UND_CTRL_enable = 1 ∧ (undState sUndOn = 1 ∨ undState sUndOn = 2)) ∧
  (undState sUndOn = 1 ∧ UndJob.mk 78 true [] 0 ∈ sUndOn.und.waiting ∧ (UndJob.mk 78 true [] 0).tick + orphanTicks sUndOn ≤ sUndOn.ticks) := by
  decide +kernel

theorem witness_DoorbellPoll :
  polls (applyWrites [] sPoll2) 1 = true ∧
  polls (applyWrites [] sPoll2) 1 = true := by
  decide +kernel

theorem witness_StatusBlock :
  (polls sRing 1 = true ∧ statusAt sRing 1 + 64 ≤ 2 ^ 64) := by
  decide +kernel

theorem witness_MoveCopies :
  (Starts sMove 5 jMove ∧ jType jMove = 6 ∧ movePre sMove jMove = PreOut.go noClaim ∧ jDigest jMove = 0 ∧ 0 < dF jMove 64 8 ∧
    dF jMove 48 8 + dF jMove 64 8 ≤ hostWinBase ∧ dF jMove 56 8 + dF jMove 64 8 ≤ hostWinBase ∧
    poisonedReadA sMove jMove.realm (dF jMove 48 8) (dF jMove 64 8) = none ∧ poisonedWrite sMove jMove.realm (dF jMove 56 8) (dF jMove 64 8) = none) ∧
  mirrored jMove.realm (dF jMove 56 8) = true := by
  unfold Starts; decide +kernel

theorem witness_JobsRefused :
  (fMove 5 ∈ jobForms 5 ∧ fFR ∈ jobForms 5) ∧
  ((fMove 5).mine jBad = true ∧ findJob (withJob jBad sWin) 5 = some jBad ∧ jBad.phase = JobPhase.accepted ∧ mayStart (withJob jBad sWin) jBad = true ∧
    descFault jBad (bodyFaults jBad) = none) ∧
  ((fMove 5).mine jBad1 = true ∧ findJob (withJob jBad1 sWin) 5 = some jBad1 ∧ jBad1.phase = JobPhase.accepted ∧ mayStart (withJob jBad1 sWin) jBad1 = true ∧
    descFault jBad1 (bodyFaults jBad1) = some 5) ∧
  (fFR.mine jFR = true ∧ findJob (withJob jFR sWin) 5 = some jFR ∧ jFR.phase = JobPhase.accepted ∧ mayStart (withJob jFR sWin) jFR = true ∧
    descFault jFR (bodyFaults jFR) = none ∧ permitted (withJob jFR sWin) jFR = false) ∧
  ((fMove 5).mine (jE 1 256 0) = true ∧ findJob (withJob (jE 1 256 0) (sEp 2)) 5 = some (jE 1 256 0) ∧ (jE 1 256 0).phase = JobPhase.accepted ∧
    mayStart (withJob (jE 1 256 0) (sEp 2)) (jE 1 256 0) = true ∧ descFault (jE 1 256 0) (bodyFaults (jE 1 256 0)) = none ∧
    permitted (withJob (jE 1 256 0) (sEp 2)) (jE 1 256 0) = true ∧ dF (jE 1 256 0) 8 8 < (realmOf (withJob (jE 1 256 0) (sEp 2)) (jE 1 256 0).realm).epoch) ∧
  ((fMove 5).mine (jE 3 256 0) = true ∧ findJob (withJob (jE 3 256 0) (sEp 2)) 5 = some (jE 3 256 0) ∧ (jE 3 256 0).phase = JobPhase.accepted ∧
    mayStart (withJob (jE 3 256 0) (sEp 2)) (jE 3 256 0) = true ∧ descFault (jE 3 256 0) (bodyFaults (jE 3 256 0)) = none ∧
    permitted (withJob (jE 3 256 0) (sEp 2)) (jE 3 256 0) = true ∧ (realmOf (withJob (jE 3 256 0) (sEp 2)) (jE 3 256 0).realm).epoch < dF (jE 3 256 0) 8 8) ∧
  ((fMove 5).mine (jE 0 256 1) = true ∧ findJob (withJob (jE 0 256 1) sWin) 5 = some (jE 0 256 1) ∧ (jE 0 256 1).phase = JobPhase.accepted ∧
    mayStart (withJob (jE 0 256 1) sWin) (jE 0 256 1) = true ∧ descFault (jE 0 256 1) (bodyFaults (jE 0 256 1)) = none ∧
    permitted (withJob (jE 0 256 1) sWin) (jE 0 256 1) = true ∧ dF (jE 0 256 1) 8 8 = (realmOf (withJob (jE 0 256 1) sWin) (jE 0 256 1).realm).epoch ∧
    (jE 0 256 1).realm ≠ 0 ∧ (withJob (jE 0 256 1) sWin).op ≠ OpState.lodge) ∧
  ((fMove 5).mine (jE 2 257 0) = true ∧ findJob (withJob (jE 2 257 0) (sEp 2)) 5 = some (jE 2 257 0) ∧ (jE 2 257 0).phase = JobPhase.accepted ∧
    mayStart (withJob (jE 2 257 0) (sEp 2)) (jE 2 257 0) = true ∧ descFault (jE 2 257 0) (bodyFaults (jE 2 257 0)) = none ∧
    permitted (withJob (jE 2 257 0) (sEp 2)) (jE 2 257 0) = true ∧ dF (jE 2 257 0) 8 8 = (realmOf (withJob (jE 2 257 0) (sEp 2)) (jE 2 257 0).realm).epoch ∧
    stateRule (withJob (jE 2 257 0) (sEp 2)) (jE 2 257 0) = false ∧ levelListed (withJob (jE 2 257 0) (sEp 2)) (dF (jE 2 257 0) 2 2) = false) ∧
  ((fMove 5).mine jLong = true ∧ findJob (withJob jLong sWin) 5 = some jLong ∧ jLong.phase = JobPhase.accepted ∧ mayStart (withJob jLong sWin) jLong = true ∧
    Starts (withJob jLong sWin) 5 jLong ∧ (fMove 5).pre (withJob jLong sWin) jLong = PreOut.fail (Fail.mk 8 64)) := by
  refine ⟨⟨by simp [jobForms, fMove], by simp [jobForms, fFR]⟩, ?_, ?_, ?_, ?_, ?_, ?_, ?_, ?_⟩
  · decide +kernel
  · decide +kernel
  · decide +kernel
  · decide +kernel
  · decide +kernel
  · decide +kernel
  · decide +kernel
  · unfold Starts; decide +kernel

theorem witness_CompletionRecord :
  (jMove.mute = false ∧ (portOf sMove jMove.port).busMaster = true ∧ jMove.commit = none ∧
    ((JobResult.mk 0 5 7 (zeros 31 ++ [7]) [] [] none).status = 0 → List.length (JobResult.mk 0 5 7 (zeros 31 ++ [7]) [] [] none).digest = 32) ∧
    cqBase sMove jMove.port jMove.ring + 32 * ((ringOf sMove jMove.port jMove.ring).cqProducer % ringEntries sMove jMove.port jMove.ring) + 32 ≤ 2 ^ 64) ∧
  (jMove.mute = false ∧ (portOf wCompletionRecord1 jMove.port).busMaster = true ∧ jMove.commit = none ∧
    ((JobResult.mk 8 0 64 [] [] [] none).status = 0 → List.length (JobResult.mk 8 0 64 [] [] [] none).digest = 32) ∧
    cqBase wCompletionRecord1 jMove.port jMove.ring + 32 * ((ringOf wCompletionRecord1 jMove.port jMove.ring).cqProducer % ringEntries wCompletionRecord1 jMove.port jMove.ring) + 32 ≤ 2 ^ 64) := by
  decide +kernel

theorem witness_DigestCheckCompares :
  (Starts sDigEq 5 jDig ∧ jType jDig = 10 ∧ digestCheckPre sDigEq jDig = PreOut.go noClaim ∧ poisonedReadA sDigEq jDig.realm (dF jDig 48 8) 32 = none ∧
    poisonedReadA sDigEq jDig.realm (dF jDig 56 8) 32 = none ∧ dF jDig 48 8 + 32 ≤ hostWinBase ∧ dF jDig 56 8 + 32 ≤ hostWinBase ∧ jDig.mute = false ∧
    (portOf sDigEq jDig.port).quiet = false ∧ realmRead sDigEq jDig.realm (dF jDig 48 8) 32 = realmRead sDigEq jDig.realm (dF jDig 56 8) 32) ∧
  (Starts sDig 5 jDig ∧ jType jDig = 10 ∧ digestCheckPre sDig jDig = PreOut.go noClaim ∧ poisonedReadA sDig jDig.realm (dF jDig 48 8) 32 = none ∧
    poisonedReadA sDig jDig.realm (dF jDig 56 8) 32 = none ∧ dF jDig 48 8 + 32 ≤ hostWinBase ∧ dF jDig 56 8 + 32 ≤ hostWinBase ∧ jDig.mute = false ∧
    (portOf sDig jDig.port).quiet = false ∧ List.take 3 (realmRead sDig jDig.realm (dF jDig 48 8) 32) = List.take 3 (realmRead sDig jDig.realm (dF jDig 56 8) 32) ∧
    List.getD (realmRead sDig jDig.realm (dF jDig 48 8) 32) 3 0 ≠ List.getD (realmRead sDig jDig.realm (dF jDig 56 8) 32) 3 0) := by
  refine ⟨?_, ?_⟩ <;> (unfold Starts; decide +kernel)

theorem witness_FencesAndBarriers :
  (Starts (withJob (jFence 1) sWin) 5 (jFence 1) ∧ jType (jFence 1) = 9 ∧ (realmOf (withJob (jFence 1) sWin) (jFence 1).realm).epoch < dF (jFence 1) 48 8) ∧
  (Starts (withJob (jFence 0) sWin) 5 (jFence 0) ∧ jType (jFence 0) = 9 ∧ dF (jFence 0) 48 8 ≤ (realmOf (withJob (jFence 0) sWin) (jFence 0).realm).epoch) ∧
  (findJob (withJob jFW sWin) 5 = some jFW ∧ jType jFW = 9 ∧ jFW.phase = JobPhase.running ∧ (∀ b ∈ jFW.waitFor, findJob (withJob jFW sWin) b = none)) ∧
  (findJob (withJob jFW (withJob jEarly sWin)) 5 = some jFW ∧ jType jFW = 9 ∧ jFW.phase = JobPhase.running ∧
    (∃ b ∈ jFW.waitFor, Option.isSome (findJob (withJob jFW (withJob jEarly sWin)) b) = true)) ∧
  (Starts (withJob (jBar 0) sWin) 5 (jBar 0) ∧ jType (jBar 0) = 13 ∧ jDormant (jBar 0) = false) ∧
  (Starts wFencesAndBarriers1 5 (jBar 4) ∧ jType (jBar 4) = 13 ∧ jDormant (jBar 4) = true ∧ wFencesAndBarriers1.op ≠ OpState.warmIdle) ∧
  (Starts wFencesAndBarriers2 5 (jBar 4) ∧ jType (jBar 4) = 13 ∧ jDormant (jBar 4) = true ∧ wFencesAndBarriers2.op = OpState.warmIdle ∧
    (∀ k ∈ wFencesAndBarriers2.jobs, k.acc = 5)) ∧
  (Starts wFencesAndBarriers3 5 (jBar 4) ∧ jType (jBar 4) = 13 ∧ jDormant (jBar 4) = true ∧ wFencesAndBarriers3.op = OpState.warmIdle ∧
    (∃ k ∈ wFencesAndBarriers3.jobs, k.acc ≠ 5)) := by
  refine ⟨?_, ?_, ?_, ?_, ?_, ?_, ?_, ?_⟩
  · unfold Starts; decide +kernel
  · unfold Starts; decide +kernel
  · decide +kernel
  · decide +kernel
  · unfold Starts; decide +kernel
  · unfold Starts; decide +kernel
  · unfold Starts; decide +kernel
  · unfold Starts; decide +kernel

theorem witness_CurtainStarts :
  (Starts sC0 5 (jCur 2 3) ∧ jType (jCur 2 3) = 8 ∧ sC0.curtain = none ∧ (jAtEdge (jCur 2 3) = true → cueOn sC0 (dF (jCur 2 3) 53 1) = true)) ∧
  (Starts wCurtainStarts1 5 (jCur 2 4) ∧ jType (jCur 2 4) = 8 ∧ jAtEdge (jCur 2 4) = true ∧ cueOn wCurtainStarts1 (dF (jCur 2 4) 53 1) = false) := by
  refine ⟨?_, ?_⟩ <;> (unfold Starts; decide +kernel)

theorem witness_CurtainExchangesBanks :
  ((sCur 0).curtain = some (Curtain.mk 5 0 true 3 9 (some 9) false) ∧ findJob (sCur 0) (Curtain.mk 5 0 true 3 9 (some 9) false).acc = some (jc 0) ∧
    ((Curtain.mk 5 0 true 3 9 (some 9) false).atEdge = true → Option.isSome (Curtain.mk 5 0 true 3 9 (some 9) false).reached = true) ∧
    curtainBusy (sCur 0) (Curtain.mk 5 0 true 3 9 (some 9) false) = false ∧ (Curtain.mk 5 0 true 3 9 (some 9) false).mask = 0) ∧
  (shC.curtain = some (Curtain.mk 5 2 true 3 9 (some 9) false) ∧ findJob shC (Curtain.mk 5 2 true 3 9 (some 9) false).acc = some (jc 2) ∧
    ((Curtain.mk 5 2 true 3 9 (some 9) false).atEdge = true → Option.isSome (Curtain.mk 5 2 true 3 9 (some 9) false).reached = true) ∧
    curtainBusy shC (Curtain.mk 5 2 true 3 9 (some 9) false) = false ∧ (Curtain.mk 5 2 true 3 9 (some 9) false).mask ≠ 0 ∧
    firstBad (Curtain.mk 5 2 true 3 9 (some 9) false).mask (changedKeys shC (Curtain.mk 5 2 true 3 9 (some 9) false).mask) (exchange (changedKeys shC (Curtain.mk 5 2 true 3 9 (some 9) false).mask) shC) = none ∧ (setsDrive shC (Curtain.mk 5 2 true 3 9 (some 9) false).mask = true → driveReady shC (endedFrame shC (Curtain.mk 5 2 true 3 9 (some 9) false)) = true)) ∧
  ((sCur 2).curtain = some (Curtain.mk 5 2 true 3 9 (some 9) false) ∧ findJob (sCur 2) (Curtain.mk 5 2 true 3 9 (some 9) false).acc = some (jc 2) ∧
    ((Curtain.mk 5 2 true 3 9 (some 9) false).atEdge = true → Option.isSome (Curtain.mk 5 2 true 3 9 (some 9) false).reached = true) ∧
    curtainBusy (sCur 2) (Curtain.mk 5 2 true 3 9 (some 9) false) = false ∧ (Curtain.mk 5 2 true 3 9 (some 9) false).mask ≠ 0 ∧
    firstBad (Curtain.mk 5 2 true 3 9 (some 9) false).mask (changedKeys (sCur 2) (Curtain.mk 5 2 true 3 9 (some 9) false).mask) (exchange (changedKeys (sCur 2) (Curtain.mk 5 2 true 3 9 (some 9) false).mask) (sCur 2)) = some 1) ∧
  (shD.curtain = some (Curtain.mk 5 1 true 3 9 (some 9) false) ∧ findJob shD (Curtain.mk 5 1 true 3 9 (some 9) false).acc = some (jc 1) ∧
    ((Curtain.mk 5 1 true 3 9 (some 9) false).atEdge = true → Option.isSome (Curtain.mk 5 1 true 3 9 (some 9) false).reached = true) ∧
    curtainBusy shD (Curtain.mk 5 1 true 3 9 (some 9) false) = false ∧ (Curtain.mk 5 1 true 3 9 (some 9) false).mask ≠ 0 ∧
    firstBad (Curtain.mk 5 1 true 3 9 (some 9) false).mask (changedKeys shD (Curtain.mk 5 1 true 3 9 (some 9) false).mask) (exchange (changedKeys shD (Curtain.mk 5 1 true 3 9 (some 9) false).mask) shD) = none ∧ setsDrive shD (Curtain.mk 5 1 true 3 9 (some 9) false).mask = true ∧ driveReady shD (endedFrame shD (Curtain.mk 5 1 true 3 9 (some 9) false)) = false) := by
  refine ⟨?_, ?_, ?_, ?_⟩ <;> (decide +kernel)

theorem witness_LodgeAndRecall :
  (Starts sL1 5 (jLodge 2) ∧ jType (jLodge 2) = 11 ∧ lodgePre sL1 (jLodge 2) = PreOut.go noClaim ∧ jDigest (jLodge 2) = 0 ∧ lodgeMask (jLodge 2) ≠ 0) ∧
  (Starts sL0 5 (jLodge 0) ∧ jType (jLodge 0) = 11 ∧ lodgePre sL0 (jLodge 0) = PreOut.go noClaim ∧ jDigest (jLodge 0) = 0 ∧ lodgeMask (jLodge 0) = 0) ∧
  (Starts sRec 6 jRec ∧ jType jRec = 12 ∧ sRec.lodging.running = none) ∧
  (sGr.lodging.running = some rc0 ∧ sGr.lodging.limpStop = false ∧ sGr.lodging.realms ≠ [] ∧ (∀ x ∈ sGr.lodging.realms, x < 8) ∧
    (rc0.mode = 1 ∨ rc0.t0 + graceTicks sGr ≤ sGr.ticks) ∧ roomsRunning sGr = false) ∧
  (sG2.lodging.running = some rc1 ∧ rc1.restored = false ∧ sG2.lodging.realms = [] ∧ sG2.lodging.limpStop = false) ∧
  (sG4.lodging.running = some rc2 ∧ findJob sG4 rc2.acc = some jR2 ∧ rc2.restored = true ∧ sG4.frame.due = false ∧ (notReady sG4 = 0 ∧
    framePassed sG4 false = true ∨ notReady sG4 ≠ 0 ∧ rc2.from_ + recallBound ≤ sG4.ticks)) ∧
  (sG5.lodging.running = some rc2 ∧ findJob sG5 rc2.acc = some jR2 ∧ rc2.restored = true ∧ sG5.frame.due = false ∧ (notReady sG5 = 0 ∧
    framePassed sG5 false = true ∨ notReady sG5 ≠ 0 ∧ rc2.from_ + recallBound ≤ sG5.ticks)) := by
  refine ⟨?_, ?_, ?_, ?_, ?_, ?_, ?_⟩
  · unfold Starts; decide +kernel
  · unfold Starts; decide +kernel
  · unfold Starts; decide +kernel
  · decide +kernel
  · decide +kernel
  · decide +kernel
  · decide +kernel

theorem witness_FusePlanMapJobs_start :
  (Starts sFuse 5 jFuse ∧ jType jFuse = 4 ∧ jReplay jFuse = false ∧ recordsPre sFuse jFuse = PreOut.go noClaim) ∧
  (Starts sPlan 5 jPlan ∧ jType jPlan = 5 ∧ jReplay jPlan = false ∧ recordsPre sPlan jPlan = PreOut.go noClaim ∧ dF jPlan 64 8 = 0 ∧ running sPlan = true ∧
    (∀ p ∈ sPlan.fus.plans, p.subj ≠ DupSubject.job 5)) := by
  refine ⟨?_, ?_⟩ <;> (unfold Starts; decide +kernel)

theorem witness_EventRecords :
  ((ev 1).cls < 3 ∧ (portOf wEventRecords5 1).busMaster = false) ∧
  ((ev 1).cls < 3 ∧ (portOf wEventRecords1 1).busMaster = true ∧ (portOf wEventRecords1 1).quiet = false ∧ evtOn wEventRecords1 1 = true ∧
    evtFree wEventRecords1 1 = true ∧ (portOf wEventRecords1 1).gap = none ∧ evtBase wEventRecords1 1 + 32 * evtEntries wEventRecords1 1 ≤ 2 ^ 64) ∧
  ((ev 1).cls < 3 ∧ (portOf wEventRecords2 1).busMaster = true ∧ (portOf wEventRecords2 1).quiet = false ∧ evtOn wEventRecords2 1 = true ∧
    evtFree wEventRecords2 1 = false) ∧
  ((ev 1).cls < 3 ∧ evtOn wEventRecords3 1 = true ∧ evtFree wEventRecords3 1 = false) ∧
  ((ev 1).cls < 3 ∧ (portOf wEventRecords4 1).busMaster = true ∧ (portOf wEventRecords4 1).quiet = false ∧ evtOn wEventRecords4 1 = true ∧
    evtFree wEventRecords4 1 = true ∧ (portOf wEventRecords4 1).gap = some (Gap.mk 2 3 4) ∧
    (((portOf wEventRecords4 1).evtProducer + 1) % 65536 + 65536 - (portOf wEventRecords4 1).evtConsumer) % 65536 < evtEntries wEventRecords4 1) ∧
  3 ≤ (ev 4).cls := by
  decide +kernel

theorem witness_CueEdges :
  (unitsOn wCueEdges1 = true ∧ cueOn wCueEdges1 3 = true ∧ nextEdge wCueEdges1 3 ≤ tauNow wCueEdges1 ∧
    (∀ (h : Fin 16), cueOn wCueEdges1 ↑h = true → nextEdge wCueEdges1 3 ≤ nextEdge wCueEdges1 ↑h)) ∧
  ((cueOf sPulse 3).pulse = some 1100 ∧ 1100 ≤ tauNow sPulse) := by
  decide +kernel

theorem witness_FrameStarts :
  (running sFrame = true ∧ frameIsDue sFrame = true) ∧
  (running wFrameStarts1 = true ∧ frameIsDue wFrameStarts1 = true) ∧
  (running base = false ∨ frameIsDue base = false) := by
  refine ⟨?_, ?_, ?_⟩ <;> (decide +kernel)

theorem witness_PacketsEnterFifos :
  (unitsOn (sStr 11 31) = true ∧ portRuns (sStr 11 31) 11 = true ∧ wPacketsEnterFifos1.ecc ≠ HdrEcc.bad ∧ List.contains csiTypes 42 = true ∧
    ((streamFor (sStr 11 31) 11 fun k ↦ actGet (sStr 11 31) (K.STR_CTRL_vc k) == 0) = some 31) ∧
    (wPacketsEnterFifos1.frameEnd = false ∨ regGet (sStr 11 31) (K.ING_CTRL_test_line 11) ≠ 1)) ∧
  (unitsOn (fullPort 11 (sStr 11 31)) = true ∧ portRuns (fullPort 11 (sStr 11 31)) 11 = true ∧ wPacketsEnterFifos2.ecc ≠ HdrEcc.bad ∧
    List.contains csiTypes 42 = true ∧ ((streamFor (fullPort 11 (sStr 11 31)) 11 fun k ↦ actGet (fullPort 11 (sStr 11 31)) (K.STR_CTRL_vc k) == 0) = some 31) ∧
    (wPacketsEnterFifos2.frameEnd = false ∨ regGet (fullPort 11 (sStr 11 31)) (K.ING_CTRL_test_line 11) ≠ 1)) ∧
  (unitsOn sTL = true ∧ portRuns sTL 11 = true ∧ csi.ecc ≠ HdrEcc.bad ∧ List.contains csiTypes 42 = true ∧
    ((streamFor sTL 11 fun k ↦ actGet sTL (K.STR_CTRL_vc k) == 0) = some 31) ∧ csi.frameEnd = true ∧ regGet sTL (K.ING_CTRL_test_line 11) = 1 ∧
    isFrames sTL 31 = true ∧
    (fits sTL 11 (FifoItem.packet (Packet.mk 31 0 (ofBits [csi.crcError, csi.frameStart, csi.frameEnd]) (stampNow sTL) (42 + (match csi.line with | some l => BitVec.toNat l | none => if csi.frameStart = true then 0 else (strOf sTL 31).line) * 2 ^ 16) csi.payload (if csi.frameStart = true then some (frameStamp sTL 31 (stampNow sTL)) else none))) = true)) ∧
  (unitsOn (sStr 11 31) = true ∧
    (portRuns (sStr 11 31) 11 = false ∨ wPacketsEnterFifos3.ecc = HdrEcc.bad ∨ List.contains csiTypes 42 = false ∨ 4 ≤ 4 ∨ (streamFor (sStr 11 31) 11 fun k ↦ actGet (sStr 11 31) (K.STR_CTRL_vc k) == 4) = none)) ∧
  (unitsOn (sStr 15 31) = true ∧ portRuns (sStr 15 31) (12 + 3) = true ∧ (eth 1522).fcsOk = true ∧ List.length (eth 1522).bytes ≤ 1522 ∧
    (isPtp (eth 1522).bytes = true → tbValid (sStr 15 31) = true) ∧ streamFor (sStr 15 31) (12 + 3) (filterMatches (sStr 15 31) (eth 1522).bytes) = some 31) ∧
  (unitsOn (sStr 15 31) = true ∧
    (portRuns (sStr 15 31) (12 + 3) = false ∨ (eth 1523).fcsOk = false ∨ 1522 < List.length (eth 1523).bytes ∨ isPtp (eth 1523).bytes = true ∧
    tbValid (sStr 15 31) = false ∨ streamFor (sStr 15 31) (12 + 3) (filterMatches (sStr 15 31) (eth 1523).bytes) = none)) ∧
  (unitsOn (sStr 19 31) = true ∧ portRuns (sStr 19 31) (16 + 3) = true ∧ ((streamFor (sStr 19 31) (16 + 3) fun _ => true) = some 31)) ∧
  (unitsOn base = true ∧ portRuns base (16 + 3) = false) := by
  refine ⟨?_, ?_, ?_, ?_, ?_, ?_, ?_, ?_⟩ <;> (decide +kernel)

theorem witness_CapturesAndSpi :
  (unitsOn wCapturesAndSpi1 = true ∧ bitOf (actGet wCapturesAndSpi1 (K.CAP_CTRL_edge 7)) (if true = true then 0 else 1) = true ∧
    (actGet wCapturesAndSpi1 (K.CAP_CTRL_filter 7) = 1 → 20 ≤ 20) ∧ (∀ (x : ℕ), (capOf wCapturesAndSpi1 7).tick = some x → x + 20 ≤ wCapturesAndSpi1.ticks)) ∧
  (actGet wCapturesAndSpi3 (K.CAP_CTRL_filter 7) = 1 ∧ 19 < 20) ∧
  (unitsOn wCapturesAndSpi2 = true ∧ bitOf (actGet wCapturesAndSpi2 (K.CAP_CTRL_edge 7)) (if true = true then 0 else 1) = true ∧
    (actGet wCapturesAndSpi2 (K.CAP_CTRL_filter 7) = 1 → 20 ≤ 20) ∧ (capOf wCapturesAndSpi2 7).tick = some 0 ∧ wCapturesAndSpi2.ticks < 0 + 20) ∧
  ((spiOf (sSpi none) 1).due = [Stamp.mk 5 true] ∧ portRuns (sSpi none) (20 + 1) = true ∧ (spiOf (sSpi none) 1).busy = none) ∧
  ((spiOf (sSpi (some (Stamp.mk 5 true))) 1).due = [Stamp.mk 5 true] ∧ portRuns (sSpi (some (Stamp.mk 5 true))) (20 + 1) = true ∧
    Option.isSome (spiOf (sSpi (some (Stamp.mk 5 true))) 1).busy = true ∧ ((streamFor (sSpi (some (Stamp.mk 5 true))) (20 + 1) fun _ => true) = some 31)) ∧
  (unitsOn (sSpi (some (Stamp.mk 5 true))) = true ∧ (spiOf (sSpi (some (Stamp.mk 5 true))) 1).busy = some (Stamp.mk 5 true) ∧
    ((streamFor (sSpi (some (Stamp.mk 5 true))) (20 + 1) fun _ => true) = some 31)) := by
  decide +kernel

theorem witness_EthernetAndSensorHealth :
  unitsOn sMac = true ∧
  (unitsOn wEthernetAndSensorHealth1 = true ∧ (ingOf wEthernetAndSensorHealth1 (12 + 3)).high = true ∧
    regGet wEthernetAndSensorHealth1 (K.ING_HOLD_asserted (12 + 3)) = 1 ∧ (macOf wEthernetAndSensorHealth1 3).pauseAt + msTicks ≤ wEthernetAndSensorHealth1.ticks ∧
    regGet wEthernetAndSensorHealth1 (K.ETH_TX_CTRL_pause_en 3) = 1) ∧
  (txPolled sMac 3 = true ∧ 0 < (fieldAt (hostRead (applyWrites (ws 1518) sMac) sMac.mgrPort (txBase sMac 3) 2) 0 2 + 65536 - (macOf sMac 3).txCons) % 65536 ∧
    (fieldAt (hostRead (applyWrites (ws 1518) sMac) sMac.mgrPort (txBase sMac 3) 2) 0 2 + 65536 - (macOf sMac 3).txCons) % 65536 ≤ 2 ^ regGet sMac (K.ETH_TX_CTRL_log2_entries 3) ∧ (macOf sMac 3).pausedTo ≤ sMac.ticks ∧ txBase sMac 3 + 32 + 32 * ((macOf sMac 3).txCons % 2 ^ regGet sMac (K.ETH_TX_CTRL_log2_entries 3)) + 32 ≤ 2 ^ 64 ∧ 14 ≤ fieldAt (hostRead (applyWrites (ws 1518) sMac) sMac.mgrPort (txBase sMac 3 + 32 + 32 * ((macOf sMac 3).txCons % 2 ^ regGet sMac (K.ETH_TX_CTRL_log2_entries 3))) 32) 8 2 ∧ fieldAt (hostRead (applyWrites (ws 1518) sMac) sMac.mgrPort (txBase sMac 3 + 32 + 32 * ((macOf sMac 3).txCons % 2 ^ regGet sMac (K.ETH_TX_CTRL_log2_entries 3))) 32) 8 2 ≤ 1518 ∧ (isPtp (hostRead (applyWrites (ws 1518) sMac) sMac.mgrPort (fieldAt (hostRead (applyWrites (ws 1518) sMac) sMac.mgrPort (txBase sMac 3 + 32 + 32 * ((macOf sMac 3).txCons % 2 ^ regGet sMac (K.ETH_TX_CTRL_log2_entries 3))) 32) 0 8) (fieldAt (hostRead (applyWrites (ws 1518) sMac) sMac.mgrPort (txBase sMac 3 + 32 + 32 * ((macOf sMac 3).txCons % 2 ^ regGet sMac (K.ETH_TX_CTRL_log2_entries 3))) 32) 8 2)) = true → tbValid sMac = true)) ∧
  (txPolled sMac 3 = true ∧ 0 < (fieldAt (hostRead (applyWrites (ws 14) sMac) sMac.mgrPort (txBase sMac 3) 2) 0 2 + 65536 - (macOf sMac 3).txCons) % 65536 ∧
    (fieldAt (hostRead (applyWrites (ws 14) sMac) sMac.mgrPort (txBase sMac 3) 2) 0 2 + 65536 - (macOf sMac 3).txCons) % 65536 ≤ 2 ^ regGet sMac (K.ETH_TX_CTRL_log2_entries 3) ∧ (macOf sMac 3).pausedTo ≤ sMac.ticks ∧ txBase sMac 3 + 32 + 32 * ((macOf sMac 3).txCons % 2 ^ regGet sMac (K.ETH_TX_CTRL_log2_entries 3)) + 32 ≤ 2 ^ 64 ∧ 14 ≤ fieldAt (hostRead (applyWrites (ws 14) sMac) sMac.mgrPort (txBase sMac 3 + 32 + 32 * ((macOf sMac 3).txCons % 2 ^ regGet sMac (K.ETH_TX_CTRL_log2_entries 3))) 32) 8 2 ∧ fieldAt (hostRead (applyWrites (ws 14) sMac) sMac.mgrPort (txBase sMac 3 + 32 + 32 * ((macOf sMac 3).txCons % 2 ^ regGet sMac (K.ETH_TX_CTRL_log2_entries 3))) 32) 8 2 ≤ 1518 ∧ (isPtp (hostRead (applyWrites (ws 14) sMac) sMac.mgrPort (fieldAt (hostRead (applyWrites (ws 14) sMac) sMac.mgrPort (txBase sMac 3 + 32 + 32 * ((macOf sMac 3).txCons % 2 ^ regGet sMac (K.ETH_TX_CTRL_log2_entries 3))) 32) 0 8) (fieldAt (hostRead (applyWrites (ws 14) sMac) sMac.mgrPort (txBase sMac 3 + 32 + 32 * ((macOf sMac 3).txCons % 2 ^ regGet sMac (K.ETH_TX_CTRL_log2_entries 3))) 32) 8 2)) = true → tbValid sMac = true)) ∧
  (txPolled sMac 3 = true ∧ 0 < (fieldAt (hostRead (applyWrites (ws 13) sMac) sMac.mgrPort (txBase sMac 3) 2) 0 2 + 65536 - (macOf sMac 3).txCons) % 65536 ∧
    (fieldAt (hostRead (applyWrites (ws 13) sMac) sMac.mgrPort (txBase sMac 3) 2) 0 2 + 65536 - (macOf sMac 3).txCons) % 65536 ≤ 2 ^ regGet sMac (K.ETH_TX_CTRL_log2_entries 3) ∧ (macOf sMac 3).pausedTo ≤ sMac.ticks ∧ txBase sMac 3 + 32 + 32 * ((macOf sMac 3).txCons % 2 ^ regGet sMac (K.ETH_TX_CTRL_log2_entries 3)) + 32 ≤ 2 ^ 64 ∧ (fieldAt (hostRead (applyWrites (ws 13) sMac) sMac.mgrPort (txBase sMac 3 + 32 + 32 * ((macOf sMac 3).txCons % 2 ^ regGet sMac (K.ETH_TX_CTRL_log2_entries 3))) 32) 8 2 < 14 ∨ 1518 < fieldAt (hostRead (applyWrites (ws 13) sMac) sMac.mgrPort (txBase sMac 3 + 32 + 32 * ((macOf sMac 3).txCons % 2 ^ regGet sMac (K.ETH_TX_CTRL_log2_entries 3))) 32) 8 2 ∨ isPtp (hostRead (applyWrites (ws 13) sMac) sMac.mgrPort (fieldAt (hostRead (applyWrites (ws 13) sMac) sMac.mgrPort (txBase sMac 3 + 32 + 32 * ((macOf sMac 3).txCons % 2 ^ regGet sMac (K.ETH_TX_CTRL_log2_entries 3))) 32) 0 8) (fieldAt (hostRead (applyWrites (ws 13) sMac) sMac.mgrPort (txBase sMac 3 + 32 + 32 * ((macOf sMac 3).txCons % 2 ^ regGet sMac (K.ETH_TX_CTRL_log2_entries 3))) 32) 8 2)) = true ∧ tbValid sMac = false)) ∧
  portRuns (sStr 19 31) (16 + 3) = true ∧
  (unitsOn wEthernetAndSensorHealth2 = true ∧ tbSec wEthernetAndSensorHealth2 ≠ wEthernetAndSensorHealth2.ing.second) := by
  refine ⟨?_, ?_, ?_, ?_, ?_, ?_, ?_⟩ <;> (decide +kernel)

theorem witness_IngressDrains :
  (running (sDrain 33 65440 0) = true ∧ (ingOf (sDrain 33 65440 0) 21).items = [FifoItem.packet (pk 31 33)] ∧ actGet (sDrain 33 65440 0) (K.STR_CTRL_enable 31) = 1 ∧
    actGet (sDrain 33 65440 0) (K.STR_CTRL_port 31) = 21 ∧ isFrames (sDrain 33 65440 0) 31 = false ∧ (strOf (sDrain 33 65440 0) 31).cur = none ∧
    RingFree (strRing (sDrain 33 65440 0) 31) 96 (sDrain 33 65440 0) ∧ 32 + roundUp 33 32 = 96 ∧ chansOf (sDrain 33 65440 0) 31 = [] ∧
    actGet (sDrain 33 65440 0) K.EGO_CTRL_enable ≠ 1) ∧
  (running (sDrain 33 65504 0) = true ∧ (ingOf (sDrain 33 65504 0) 21).items = [FifoItem.packet (pk 31 33)] ∧ (strOf (sDrain 33 65504 0) 31).cur = none ∧
    consOk (sDrain 33 65504 0) (strRing (sDrain 33 65504 0) 31) = true ∧
    (strRing (sDrain 33 65504 0) 31).size < ringAfter (strRing (sDrain 33 65504 0) 31) 96 - ringCons (sDrain 33 65504 0) (strRing (sDrain 33 65504 0) 31)) ∧
  (running good = true ∧ (strOf good 31).tested = true ∧ (strOf good 31).checked = none ∧ (strOf good 31).cur = none ∧
    testDiffers good (actGet good (K.STR_CTRL_port 31)) 31 = none) ∧
  (running sTest = true ∧ (strOf sTest 31).tested = true ∧ (strOf sTest 31).checked = none ∧ (strOf sTest 31).cur = none ∧ actGet sTest (K.STR_CTRL_port 31) < 30 ∧
    testDiffers sTest (actGet sTest (K.STR_CTRL_port 31)) 31 = some 0 ∧
    List.length (List.filter (fun x ↦ decide ((strOf sTest x.1).producer < x.2 + 100)) (ingOf sTest (actGet sTest (K.STR_CTRL_port 31))).fails) < 2) ∧
  (running wIngressDrains1 = true ∧ (strOf wIngressDrains1 31).tested = true ∧ (strOf wIngressDrains1 31).checked = none ∧ (strOf wIngressDrains1 31).cur = none ∧
    actGet wIngressDrains1 (K.STR_CTRL_port 31) < 30 ∧ testDiffers wIngressDrains1 (actGet wIngressDrains1 (K.STR_CTRL_port 31)) 31 = some 0 ∧
    (ingOf wIngressDrains1 (actGet wIngressDrains1 (K.STR_CTRL_port 31))).failed = false ∧
    2 ≤ List.length (List.filter (fun x ↦ decide ((strOf wIngressDrains1 x.1).producer < x.2 + 100)) (ingOf wIngressDrains1 (actGet wIngressDrains1 (K.STR_CTRL_port 31))).fails)) := by
  unfold RingFree
  refine ⟨?_, ?_, ?_, ?_, ?_⟩ <;> (decide +kernel)

theorem witness_PostStreamsAndEgo :
  (running (sPost 64) = true ∧ (∀ (d : Fin 32), chanOn (sPost 64) ↑d = true ∧ actGet (sPost 64) (K.FUS_CH_CTRL_post ↑d) = 1 ↔ d = 7) ∧
    (chanOf (sPost 64) 7).post < fieldAt (realmRead (sPost 64) 0 (postCb (sPost 64) 7) 8) 0 8 ∧
    fieldAt (realmRead (sPost 64) 0 (postCb (sPost 64) 7) 8) 0 8 ≤ (chanOf (sPost 64) 7).post + postSize 7 ∧ postCb (sPost 64) 7 + 16 ≤ hostWinBase) ∧
  (running (sPost 0) = true ∧ (∀ (d : Fin 32), chanOn (sPost 0) ↑d = true ∧ actGet (sPost 0) (K.FUS_CH_CTRL_post ↑d) = 1 ↔ d = 7) ∧
    (fieldAt (realmRead (sPost 0) 0 (postCb (sPost 0) 7) 8) 0 8 ≤ (chanOf (sPost 0) 7).post ∨ (chanOf (sPost 0) 7).post + postSize 7 < fieldAt (realmRead (sPost 0) 0 (postCb (sPost 0) 7) 8) 0 8)) ∧
  (running sEgo = true ∧ sEgo.fus.ego.on = true ∧ sEgo.fus.ego.next * 1000000 + 200000 ≤ tauNow sEgo ∧
    List.head? (List.filter (fun x ↦ decide (x.1 ≤ sEgo.fus.ego.next * 1000000)) sEgo.fus.ego.wheels) = some (9000000, 5, 6) ∧
    List.head? (List.filter (fun x ↦ decide (x.1 ≤ sEgo.fus.ego.next * 1000000)) sEgo.fus.ego.imus) = some (9000000, 3)) ∧
  (running wPostStreamsAndEgo1 = false ∨ wPostStreamsAndEgo1.fus.ego.on = false ∨ tauNow wPostStreamsAndEgo1 < wPostStreamsAndEgo1.fus.ego.next * 1000000 + 200000) := by
  refine ⟨?_, ?_, ?_, ?_⟩
  · refine ⟨by decide +kernel, by decide +kernel, by decide +kernel, le_trans (b := 2 ^ 16) (by decide +kernel) ?_, by decide +kernel⟩
    exact le_trans (b := postSize 7) (Nat.pow_le_pow_right (by decide) (Nat.le_add_right _ _)) (Nat.le_add_left _ _)
  · exact ⟨by decide +kernel, by decide +kernel, Or.inl (by decide +kernel)⟩
  · decide +kernel
  · decide +kernel

theorem witness_FusionServices :
  ((svcOf (sSvc 3) 3).due = [(1000, 4)] ∧ running (sSvc 3) = true ∧ 1000 + admitWait (sSvc 3) ≤ tauNow (sSvc 3)) ∧
  ((svcOf { sSvc 3 with tbUnits := 999 * 2 ^ 32 } 3).due = [(1000, 4)] ∧ tauNow { sSvc 3 with tbUnits := 999 * 2 ^ 32 } < 1000 + admitWait (sSvc 3)) ∧
  (svcOf sWork 3).due = [] ∧
  ((svcOf sWork 3).work = [pend] ∧ running sWork = true ∧ engineServes sWork 1 = true ∧ pend.digB.isSome = false ∧ mayGo sWork 1 = true ∧
    enginesDuplex sWork false = true) ∧
  ((svcOf sSimp 3).work = [pend] ∧ running sSimp = true ∧ engineServes sSimp 0 = true ∧ pend.digA.isSome = false ∧ mayGo sSimp 0 = true ∧
    enginesDuplex sSimp false = false) ∧
  ((svcOf sSimp 3).work = [pend] ∧ engineServes sSimp 1 = false) ∧
  (sOut.fus.svcs = [(3, ⟨[], [{ pend with o := { oc with out := 5 } }], []⟩)] ∧ 5 < 6 ∧ (outOf sOut 5).gap = none ∧
    RingFree (outRing sOut 5) (32 + roundUp (sealedRecord { oc with out := 5 } (stampNow sOut) (outMarks sOut { oc with out := 5 } true) ++ oc.adm).length 32) sOut) ∧
  (powered sMiss = true ∧ outOn sMiss 5 = true ∧ (outOf sMiss 5).missing = false ∧
    Option.getD (outOf sMiss 5).last (outOf sMiss 5).from_ + clampNat 1 2000 (actGet sMiss (K.MISS_LIMIT_ms 5)) * 1000000 < tauNow sMiss) ∧
  outOn sTime 5 = false ∧
  (running sTime = true ∧ powered sTime = true ∧ engineIn sTime 3 = true ∧ List.contains sTime.frame.golden 3 = false ∧ gates sTime (holder sTime) = false ∧
    ∀ x ∈ sTime.dpx.diags, ∀ q ∈ x.arrays, q.1 ≠ 4 + 3) ∧
  (running sGateT = true ∧ powered sGateT = true ∧ engineIn sGateT 3 = true ∧ List.contains sGateT.frame.golden 3 = false ∧ gates sGateT (holder sGateT) = true) ∧
  (engineIn sSimp 1 = false) := by
  unfold RingFree
  decide +kernel

theorem witness_PlanServices :
  (running (sSvc 5) = true ∧ (svcOf (sSvc 5) (4 + 1)).due = [(1000, 4)] ∧ 1000 ≤ tauNow (sSvc 5)) ∧
  (planOf (sPR prun) (DupSubject.plan 1) false = some prun ∧ running (sPR prun) = true ∧ prun.cands = [cand, cand] ∧ prun.reason = 0 ∧
    (∀ e < 4, e = 2 ∨ e = 3 → engineServes (sPR prun) e = true → mayGo (sPR prun) e = true) ∧ (8 ≤ prun.rechecks ∨ newerEpoch (sPR prun) prun cand = none) ∧
      enginesDuplex (sPR prun) true = true) ∧
  (planOf (sNoGo prun) (DupSubject.plan 1) false = some prun ∧ running (sNoGo prun) = true ∧ engineServes (sNoGo prun) 3 = true ∧ mayGo (sNoGo prun) 3 = false) ∧
  (planOf sPRe (DupSubject.plan 1) false = some prun ∧ running sPRe = true ∧ prun.cands = [cand, cand] ∧ prun.reason = 0 ∧ prun.rechecks < 8 ∧
    (∀ e < 4, e = 2 ∨ e = 3 → engineServes sPRe e = true → mayGo sPRe e = true) ∧ newerEpoch sPRe prun cand = some 4) ∧
  (planOf (sPR prun0) (DupSubject.plan 1) false = some prun0 ∧ running (sPR prun0) = true ∧ prun0.cands = [] ∧ prun0.reason ≠ 0 ∧
    enginesDuplex (sPR prun0) true = true ∧ mayGo (sPR prun0) 2 = true ∧ mayGo (sPR prun0) 3 = true) ∧
  (planOf (sPR prun1) (DupSubject.plan 1) true = some prun1 ∧ running (sPR prun1) = true ∧ prun1.cands = [wPlanServices1, cand] ∧ [cand] ≠ [] ∧ prun1.rechecks < 7 ∧
    blocked (sPR prun1) (mapAt (sPR prun1) prun1.mapSet (List.getLastD prun1.epochs 0) prun1.instant) wPlanServices1.cells wPlanServices1.voxels = true) := by
  refine ⟨?_, ?_, ?_, ?_, ?_, ?_⟩ <;> (decide +kernel)

theorem witness_TileWindow_issue :
  (findJob (sTile [(12, 0)]) 5 = some jG ∧ (jobGraph (sTile [(12, 0)]) jG).nodes[0]? = some n0 ∧ running (sTile [(12, 0)]) = true ∧ dieIn (sTile [(12, 0)]) 2 = true ∧
    mayIssue (sTile [(12, 0)]) 2 (tileD w0 0) jG (jobGraph (sTile [(12, 0)]) jG) n0 = true ∧ placeTakes (sTile [(12, 0)]) 2 w0.kind 0 1 3 = true ∧
    (1, 3) ∉ failedAt (engineOf (sTile [(12, 0)]) 2) (tileD w0 0) ∧ mustRehearse (sTile [(12, 0)]) 2 11 = false) ∧
  findJob sEng 5 = none := by
  refine ⟨?_, ?_⟩ <;> (decide +kernel)

theorem witness_TileWindow_deferral :
  mayIssue (sTile [(11, 1)]) 2 (tileD w0 0) jG (jobGraph (sTile [(11, 1)]) jG) n0 = true ∧ placeTakes (sTile [(11, 1)]) 2 w0.kind 0 1 3 = true ∧
    turnCome (sTile [(11, 1)]) 2 11 = true ∧
    mustRehearse (sTile [(11, 1)]) 2 11 = false := by
  decide +kernel

theorem witness_TileWindow_retire :
  ((engineOf (sTiles [tl 7 0 w0 []]) 2).tiles.find? (fun u => u.id == 7) = some (tl 7 0 w0 []) ∧ findJob (sTiles [tl 7 0 w0 []]) 5 = some jG ∧
    (jobGraph (sTiles [tl 7 0 w0 []]) jG).nodes[0]? = some n0 ∧ w0.kind = .array) ∧
  findJob (modEngine 2 (fun e => { e with tiles := [tl 7 0 w0 []] }) sEng) 5 = none ∧
  ((engineOf sReady 2).tiles.find? (fun u => u.id == 7) = some (tl 7 0 (.merge ⟨0, 0, 0⟩) []) ∧ outputsFree sReady 2 jG (jobGraph sReady jG) n0 = true ∧
    readsSettled sReady 2 jG (jobGraph sReady jG) n0 = true) ∧
  ((∀ u ∈ (engineOf (sTiles []) 2).tiles, u.id ≠ 7) ∧ ∀ u ∈ (engineOf (sTiles []) 2).ghosts, u.id ≠ 7) := by
  refine ⟨?_, ?_, ?_, ?_⟩ <;> (decide +kernel)

theorem witness_TileWindow_waits :
  (engineOf (sTiles [tl 8 2 (.vector 0 0) []]) 2).tiles.find? (fun u => u.id == 8) = some (tl 8 2 (.vector 0 0) []) ∧
    (jobGraph (sTiles [tl 8 2 (.vector 0 0) []]) jG).nodes[2]? = some n2 ∧
    outputsFree (sTiles [tl 8 2 (.vector 0 0) []]) 2 jG (jobGraph (sTiles [tl 8 2 (.vector 0 0) []]) jG) n2 = false := by
  decide +kernel

theorem witness_TileWindow_checks :
  (arrayFault (tileView (sTiles [tl 7 0 w0 []]) (tl 7 0 w0 [])) w0 cellFault = true ∧ sramErrors (sTiles [tl 7 0 w0 []]) cellFault = [] ∧
    ([(1, 3)] : List (Nat × Nat)).length < 3) ∧
  (arrayFault (tileView (sTiles [tl 9 0 w0 [(0, 0), (0, 1)]]) (tl 9 0 w0 [(0, 0), (0, 1)])) w0 cellFault = true ∧
    findJob (sTiles [tl 9 0 w0 [(0, 0), (0, 1)]]) 5 = some jG ∧
    3 ≤ ([(0, 0), (0, 1), (1, 3)] : List (Nat × Nat)).length) ∧
  (arrayFault (tileView (sTiles [tl 7 0 w0 []]) (tl 7 0 w0 [])) w0 ledgerFault = false ∧ laneFault ledgerFault = false ∧
    (ledgerFault.sram.zipIdx.all fun y => secDed (sTiles []).freeCtr y != some true) = true ∧ sramErrors (sTiles [tl 7 0 w0 []]) ledgerFault ≠ []) ∧
  (1 % resM ≠ 0 ∧ (tileView (sTiles [tl 7 0 w0 []]) (tl 7 0 w0 [])).any (fun v => decide (0 < v.rows ∧ 0 < v.cols)) = true) := by
  refine ⟨?_, ?_, ?_, ?_⟩ <;> (decide +kernel)

theorem witness_Rehearsals :
  (goldenOk {} = true ∧ goldenOk { wrong := [(0, 1)] } = false) ∧
  (running sReh = true ∧ arrayIn sReh 2 11 = true ∧ arrayOn sReh 2 11 = true ∧ (engineOf sReh 2).tableBad = false ∧
    (∀ q ∈ (engineOf sReh 2).rehearsing, q.1 / 8 ≠ 11 / 8) ∧
    (∀ u ∈ (engineOf sReh 2).tiles, onArray u 11 = false) ∧ (∃ q ∈ (engineOf sReh 2).due, q.1 = 11) ∧ sReh.frame.start + 11 / 48 * groupGap ≤ sReh.tbUnits ∧
    ∀ q ∈ (engineOf sReh 2).due, q.1 / 8 = 11 / 8 → 11 ≤ q.1) ∧
  (∃ q ∈ (engineOf sCalled 2).called, 11 ∈ q.2) ∧
  (∀ q ∈ (engineOf sReh 2).rehearsing, q.1 ≠ 11) ∧
  ((engineOf (sReh2 false) 2).rehearsing.find? (fun q => q.1 == 11) = some (11, false) ∧ callsEnded (engineOf (sReh2 false) 2) 11 = 0) ∧
  ((engineOf sCalled 2).rehearsing.find? (fun q => q.1 == 11) = some (11, false) ∧ callsEnded (engineOf sCalled 2) 11 = 1) ∧
  ((engineOf (sReh2 true) 2).rehearsing.find? (fun q => q.1 == 11) = some (11, true) ∧ arrayIn (sReh2 true) 2 11 = true ∧
    (∀ q ∈ (engineOf (sReh2 true) 2).called, q.1 = 192 + 1 → 11 ∉ q.2) ∧
    ∃ k < 192, k ≠ 11 ∧ arrayIn (sReh2 true) 2 k = true) ∧
  ((engineOf sLone 2).rehearsing.find? (fun q => q.1 == 11) = some (11, false) ∧ arrayIn sLone 2 11 = true ∧ ∀ k < 192, k ≠ 11 → arrayIn sLone 2 k = false) ∧
  ((engineOf sCalledC 2).rehearsing.find? (fun q => q.1 == 11) = some (11, true) ∧ ∃ q ∈ (engineOf sCalledC 2).called, q.1 = 192 + 1 ∧ 11 ∈ q.2) ∧
  3 ≤ recentDetections (sDet 11 3) 2 (arrayIdx 1 3) ∧ recentDetections (sDet 11 2) 2 (arrayIdx 1 3) < 3 ∧
  3 ≤ recentDetections (sDet 193 3) 2 (192 + 1) ∧ recentDetections (sDet 193 2) 2 (192 + 1) < 3 ∧
  ((sKW.op = .warmIdle ∨ sKW.op = .drive ∨ sKW.op = .lodge) ∧ dieIn sKW 2 = true ∧ warming sKW 2 = true ∧ risesFast sKW 2 = false ∧ arrayIn sKW 2 11 = true ∧
    (engineOf sKW 2).tableBad = false ∧
    (∀ q ∈ (engineOf sKW 2).rehearsing, q.1 ≠ 11) ∧ (∀ u ∈ (engineOf sKW 2).tiles, onArray u 11 = false) ∧ (∃ k < 192, k ≠ 11 ∧ arrayIn sKW 2 k = true) ∧
    ∀ w, sKW.thm.warmShort = some w → w + hourTicks ≤ sKW.ticks) ∧
  (dieIn sFast 2 = true ∧ warming sFast 2 = true ∧ risesFast sFast 2 = true) ∧
  (warming sNoFloor 2 = false ∧ fallsFast sNoFloor 2 = false) := by
  refine ⟨⟨goldenOk_clean, goldenOk_wrong⟩, ?_, ?_, ?_, ?_, ?_, ?_, ?_, ?_, ?_, ?_, ?_, ?_, ?_, ?_, ?_⟩ <;> (decide +kernel)

theorem witness_MemoryCare :
  (memReached State.reset 9 = false) ∧
  (memReached sGran 0 = true ∧ granuleFits sGran 0 (.window 0 64) = true ∧ ∀ e ∈ (⟨0, []⟩ : GranuleFinding).errors, e.bits = 0) ∧
  (memReached sGran 0 = true ∧ granuleFits sGran 0 (.window 0 64) = true ∧ granulePoisoned sGran 0 5 (.window 0 64) = false ∧
    (∀ v : Fin 2, v ≠ 0 → wrongSymbols v [⟨0, 71, 3⟩] = []) ∧
    wrongSymbols 0 [⟨0, 71, 3⟩] = [71] ∧ (groupOf 0 5 0 71 ∈ erasedOf sGran 0 0 ∨ (erasedOf sGran 0 0).length < erasedMax 0)) ∧
  ((∀ v : Fin 2, v ≠ 1 → wrongSymbols v [⟨1, 0, 1⟩, ⟨1, 71, 8⟩] = []) ∧ wrongSymbols 1 [⟨1, 0, 1⟩, ⟨1, 71, 8⟩] = [0, 71] ∧ erasedOf sGran 0 0 = []) ∧
  (memReached sShow 7 = true ∧ (7 < 8 ∨ (3 = 0 ∧ 71 < 64)) ∧ 64 ≤ showCount sShow 7 3 71 ∧ (erasedOf sShow 7 3).length < erasedMax 7 ∧ 71 ∉ erasedOf sShow 7 3) ∧
  (6 ≤ phase (sCel 8 7167) ∧ phase (sCel 8 7167) ≤ 8 ∧ (sCel 8 7167).boot.cellarIn = true ∧ 7167 < cellarUnits ∧ 7167 ∉ (sCel 8 7167).mem.initUnits) ∧
  (running sRoom = true ∧ canPromote sRoom 0 3 = true ∧ 3 < roomCount sRoom 0 ∧ (3 ∈ (realmOf sRoom 0).selected ∨ 3 ∈ (realmOf sRoom 0).askedHot)) ∧
  (running sFullR = true ∧ 64 * hbmFreeOn sFullR 0 2 < hbmSlots sFullR 0 ∧ (demotable sFullR 0 2).head? = some 0) ∧
  (running sRoom = false ∨ hbmSlots sRoom 0 ≤ 64 * hbmFreeOn sRoom 0 2) := by
  refine ⟨?_, ?_, ?_, ?_, ?_, ?_, ?_, ?_, ?_⟩ <;> (decide +kernel)

theorem witness_DuplexCompares :
  (powered (sDup none) = true ∧ islRuns (sDup none) (holder (sDup none)) = true ∧ findJob (sDup none) 5 = some (jHeld none) ∧ (jHeld none).phase = .withheld ∧
    (jHeld none).held = some res ∧ (jHeld none).dispute = none ∧
    gates (sDup none) (holder (sDup none)) = false ∧ ([1] : List Byte) ≠ [2] ∧ ∀ z ∈ (sDup none).dpx.diags, z.subj ≠ .job 5) ∧
  (powered (sSig [] (sDup none)) = true ∧ islRuns (sSig [] (sDup none)) (holder (sSig [] (sDup none))) = true ∧ findJob (sSig [] (sDup none)) 5 = some (jHeld none) ∧
    gates (sSig [] (sDup none)) (holder (sSig [] (sDup none))) = true ∧ (holder (sSig [] (sDup none)), Decision.release (.job 5)) ∉ (sSig [] (sDup none)).isl.gated) ∧
  (2 ∈ sideDies (sDup none) false ++ sideDies (sDup none) true ∧ 1 ∈ jobClusters sDupT 5 2 ∧ clusterArrays sDupT 2 1 ≠ []) ∧
  (findJob (sDup (some ⟨some [1], none⟩)) 5 = some (jHeld (some ⟨some [1], none⟩)) ∧ powered (sDup (some ⟨some [1], none⟩)) = true ∧
    islRuns (sDup (some ⟨some [1], none⟩)) (holder (sDup (some ⟨some [1], none⟩))) = true) ∧
  (powered (sWk (some [5])) = true ∧ islRuns (sWk (some [5])) (holder (sWk (some [5]))) = true ∧ (svcOf (sWk (some [5])) 3).work = [pnd (some [5])] ∧
    (pnd (some [5])).dispute = false ∧
    (pnd (some [5])).digA = some [5] ∧ (pnd (some [5])).digB = some [5] ∧ gates (sWk (some [5])) (holder (sWk (some [5]))) = false) ∧
  (powered (sWk none) = true ∧ islRuns (sWk none) (holder (sWk none)) = true ∧ (svcOf (sWk none) 3).work = [pnd none] ∧ (pnd none).digA = some [5] ∧
    (pnd none).digB = none ∧
    (holder (sWk none), Decision.release (.fusion 3)) ∉ (sWk none).isl.gated) ∧
  (holder (sSig [(.a, .release (.fusion 3))] sEng), Decision.release (.fusion 3)) ∈ (sSig [(.a, .release (.fusion 3))] sEng).isl.gated := by
  refine ⟨?_, ?_, ?_, ?_, ?_, ?_, ?_⟩ <;> (decide +kernel)

theorem witness_DuplexVerdicts :
  (powered sSg = true ∧ islRuns sSg (holder sSg) = true ∧ sSg.op ≠ .safeOff ∧ findJob sSg 5 = some jw ∧ jw.phase = .withheld ∧ jw.held = some res ∧
    jw.dispute = some (di (some [1]) (some [2])) ∧
    gates sSg (holder sSg) = true ∧ (holder sSg, Decision.verdict (.job 5) .pass .pass) ∉ sSg.isl.gated) ∧
  (diagOf (sDg ⟨.job 5, [(0, 3)], false, false⟩) (.job 5) = some ⟨.job 5, [(0, 3)], false, false⟩ ∧
    diagTodo (sDg ⟨.job 5, [(0, 3)], false, false⟩) ⟨.job 5, [(0, 3)], false, false⟩ false = true ∧
    gates (sDg ⟨.job 5, [(0, 3)], false, false⟩) (holder (sDg ⟨.job 5, [(0, 3)], false, false⟩)) = false) ∧
  (diagOf (sDg ⟨.job 5, [], false, true⟩) (.job 5) = some ⟨.job 5, [], false, true⟩ ∧
    diagTodo (sDg ⟨.job 5, [], false, true⟩) ⟨.job 5, [], false, true⟩ false = false) ∧
  (powered (dv (some [1]) (some [1])) = true ∧ islRuns (dv (some [1]) (some [1])) (holder (dv (some [1]) (some [1]))) = true ∧
    gates (dv (some [1]) (some [1])) (holder (dv (some [1]) (some [1]))) = false ∧
    findJob (dv (some [1]) (some [1])) 5 = some (jv (some [1]) (some [1])) ∧ diagOf (dv (some [1]) (some [1])) (.job 5) = none ∧
      (di (some [1]) (some [1])).digA.isSome = true ∧
    (di (some [1]) (some [1])).digA = (di (some [1]) (some [1])).digB) ∧
  (powered sv = true ∧ islRuns sv (holder sv) = true ∧ sv.op ≠ .safeOff ∧ findJob sv 5 = some jw ∧ jw.phase = .withheld ∧ jw.held = some res ∧
    gates sv (holder sv) = false ∧ diagOf sv (.job 5) = none ∧
    (di (some [1]) (some [2])).digA ≠ (di (some [1]) (some [2])).digB ∧ subjPair sv (.job 5) < 2 ∧ 3 ∈ sideDies sv true ∧ diesDuplex sv = true) ∧
  (findJob sSimplex 5 = some jw ∧ gates sSimplex (holder sSimplex) = false ∧ islRuns sSimplex (holder sSimplex) = true ∧ subjPair sSimplex (.job 5) < 2 ∧
    diesDuplex sSimplex = false) := by
  refine ⟨?_, ?_, ?_, ?_, ?_, ?_⟩ <;> (decide +kernel)

theorem witness_SplitsAndTests :
  (powered (sSig [] sEng) = true ∧ islRuns (sSig [] sEng) (holder (sSig [] sEng)) = true ∧ gates (sSig [] sEng) (holder (sSig [] sEng)) = true) ∧
  (powered (sTr 3) = true ∧ islRuns (sTr 3) (holder (sTr 3)) = true ∧ gates (sTr 3) (holder (sTr 3)) = false ∧ running (sTr 3) = true ∧ (sTr 3).op ≠ .limp ∧
    inTest (sTr 3) 1 = false ∧ 3 ≤ recentTransients (sTr 3) 1) ∧
  (islRuns (sTr 2) (holder (sTr 2)) = true ∧ gates (sTr 2) (holder (sTr 2)) = false ∧ recentTransients (sTr 2) 1 < 3) ∧
  (powered (sTst 1) = true ∧ islRuns (sTst 1) (holder (sTst 1)) = true ∧ gates (sTst 1) (holder (sTst 1)) = false ∧
    (sTst 1).dpx.testing.contains (elNum (.die 1)) = true ∧ (sTst 1).dpx.rejoin.contains (elNum (.die 1)) = false ∧ (sTst 1).op ≠ .safeOff) ∧
  ((sTst 5).dpx.testing.contains (elNum (.engine 1)) = true ∧ (sTst 5).dpx.rejoin.contains (elNum (.engine 1)) = false ∧ (sTst 5).op ≠ .safeOff) ∧
  (powered (sSig [(.a, .split 2), (.b, .split 1)] sEng) = true ∧ islLocked (sSig [(.a, .split 2), (.b, .split 1)] sEng) .a = true ∧
    cmpMode (sSig [(.a, .split 2), (.b, .split 1)] sEng) = 1) := by
  refine ⟨?_, ?_, ?_, ?_, ?_, ?_⟩ <;> (decide +kernel)

theorem witness_IslandTakeover :
  (powered sEng = true ∧ islRuns sEng (otherIsl .a) = true) ∧
  (powered sLost = true ∧ islRuns sLost (otherIsl .a) = true ∧ (islOf sLost .a).lost = false ∧ 3 ≤ (islOf sLost .a).missed ∧ islState sLost (otherIsl .a) = 0 ∧
    gates sLost (otherIsl .a) = false) ∧
  (powered (sSig [] sLost) = true ∧ islRuns (sSig [] sLost) (otherIsl .a) = true ∧ 3 ≤ (islOf (sSig [] sLost) .a).missed ∧ gates (sSig [] sLost) (otherIsl .a) = true) ∧
  (islRuns sLost3 (otherIsl .a) = true ∧ (islOf sLost3 .a).lost = false ∧ 3 ≤ (islOf sLost3 .a).missed ∧ islState sLost3 (otherIsl .a) ≠ 0 ∧
    holdsDuty sLost3 .a = true) ∧
  (islOf sEng .a).missed < 3 ∧
  (powered sEng = true ∧ islLocked sEng .a = true ∧ islRuns sEng (otherIsl .a) = true ∧ (holdsDuty sEng .a = false ∨ islState sEng (otherIsl .a) = 0)) ∧
  (islLocked sSingleB .a = true ∧ islRuns sSingleB (otherIsl .a) = true ∧ islState sSingleB (otherIsl .a) ≠ 0 ∧ holdsDuty sSingleB .a = true) ∧
  (islLocked sNoB .a = true ∧ powered sNoB = true ∧ islRuns sNoB (otherIsl .a) = false) ∧
  ((islOf sNot .a).notice = true ∧ islRuns sNot (otherIsl .a) = true ∧ gates sNot (otherIsl .a) = false) ∧
  ((islOf (sSig [] sNot) .a).notice = true ∧ islRuns (sSig [] sNot) (otherIsl .a) = true ∧ gates (sSig [] sNot) (otherIsl .a) = true) := by
  decide +kernel

theorem witness_IslandSelfTests :
  (selfTesting sNot .a = true ∧ sNot.isl.report = false) ∧
  (selfTesting sRep .a = true ∧ sRep.isl.report = true ∧ selfTesting sRep (otherIsl .a) = false) ∧
  (selfTesting sRep2 .a = true ∧ sRep2.isl.report = true ∧ selfTesting sRep2 (otherIsl .a) = true) ∧
  (powered sEng = true ∧ islLocked sEng .a = true ∧ (true || false) = true ∧ (false || false) = false) ∧
  (powered wIslandSelfTests1 = true ∧ islLocked wIslandSelfTests1 .a = true ∧ 4 ≤ (recentLocks wIslandSelfTests1 .a).length) ∧
  (powered wIslandSelfTests2 = true ∧ islLocked wIslandSelfTests2 .a = true ∧ (recentLocks wIslandSelfTests2 .a).length < 4) ∧
  (islState (sIsl id 1) .a = 1 ∧ islRuns (sIsl id 1) .a = true) := by
  decide +kernel

theorem witness_IslandResetsAndDebug :
  (powered sEng = true ∧ islLocked sEng (otherIsl .b) = true) ∧
  (powered (sIsl id 1) = true ∧ islLocked (sIsl id 1) (otherIsl .b) = false) ∧
  (powered (sIsl id 4) = true ∧ islRuns (sIsl id 4) (otherIsl .b) = false) ∧
  (powered wIslandResetsAndDebug1 = true ∧ (islOf wIslandResetsAndDebug1 .a).resetLow = true) ∧
  (powered sDbg = true ∧ licenceOk sDbg (lic true) = true) ∧ (powered sDbg = true ∧ licenceOk sDbg (lic false) = false) ∧
  regGet sDbg K.DBG_STATUS_active ≠ 1 ∧
  islLocked (sIsl id 1) .a = false ∧
  (regGet sDbg2 K.DBG_STATUS_active = 1 ∧ bitOf (regGet sDbg2 K.DBG_STATUS_scope) (islNum .a) = true ∧ islLocked sDbg2 .a = true ∧
    bitOf (regGet sDbg2 K.DBG_STATUS_scope) 3 = true ∧ sDbg2.inDrive = false ∧ (islOf sDbg2 .a).dbgHalt = false) ∧
  (regGet sDbg3 K.DBG_STATUS_active = 1 ∧ bitOf (regGet sDbg3 K.DBG_STATUS_scope) (islNum .a) = true ∧ islLocked sDbg3 .a = true ∧ sDbg3.inDrive = true) ∧
  (regGet sDbg4 K.DBG_STATUS_active = 1 ∧ islLocked sDbg4 .a = true ∧ (islOf sDbg4 .a).dbgHalt = true ∧
    (islOf sDbg4 .a).core.find? (fun x => x.1 == 64) = some (64, 9)) ∧
  bitOf (regGet sDbg2 K.DBG_STATUS_scope) 2 = true ∧ ((∀ n, DebugAct.step ≠ .readReg n) ∧ ∀ a, DebugAct.step ≠ .readMem a) := by
  refine ⟨?_, ?_, ?_, ?_, ?_, ?_, ?_, ?_, ?_, ?_, ?_, ?_, ?_⟩
  case refine_13 => exact ⟨fun _ h => (by cases h), fun _ h => (by cases h)⟩
  all_goals decide +kernel

theorem witness_LinkHealth :
  (linkState sL7 7 = 2 ∧ unitsOn sL7 = true ∧ flitSent (flowOf (linkOf sL7 7) true) 1 fl0 = none) ∧
  (flitSent (flowOf (linkOf sL7 7) true) 0 fl0 = some fl0 ∧ 0 = (flowOf (linkOf sL7 7) true).want ∧
    parityFails (dirOf (linkOf sL7 7) true) (flitArrives (dirOf (linkOf sL7 7) true) [] (flitWire 64 (flitBytes 0 0 fl0))) = [] ∧
    crcHolds (flitData (flitArrives (dirOf (linkOf sL7 7) true) [] (flitWire 64 (flitBytes 0 0 fl0)))) = true) ∧
  (parityFails (dirOf (linkOf sL7 7) true) (flitArrives (dirOf (linkOf sL7 7) true) [(63, 16)] (flitWire 64 (flitBytes 0 0 fl0))) ≠ [] ∧
    (dirOf (linkOf sL7 7) true).width = 64) ∧
  (flitSent (flowOf (linkOf (sFlow 0) 7) true) 2 fl0 = some fl0 ∧ (flowOf (linkOf (sFlow 0) 7) true).want < 2 ∧ (flowOf (linkOf (sFlow 0) 7) true).run = 0) ∧
  (flitSent (flowOf (linkOf (sFlow 1) 7) true) 2 fl0 = some fl0 ∧ (flowOf (linkOf (sFlow 1) 7) true).want < 2 ∧ (flowOf (linkOf (sFlow 1) 7) true).run ≠ 0) ∧
  (linkState s8 7 = 2 ∧ unitsOn s8 = true ∧ (linkOf s8 7).retrain = none ∧ (8 ≤ (linkOf s8 7).flowF.run ∨ 8 ≤ (linkOf s8 7).flowR.run)) ∧
  (linkState wLinkHealth2 7 = 2 ∧ (linkOf wLinkHealth2 7).flowF.run < 8 ∧ (linkOf wLinkHealth2 7).flowR.run < 8) ∧
  errsOf sL7 7 true 3 + laneLimit sL7 ≤ laneLimit sL7 ∧
  (laneLimit sL7 < errsOf sL7 7 true 3 + (laneLimit sL7 + 1) ∧ unitsOn sL7 = true ∧ bitOf (dirOf (linkOf sL7 7) true).good 3 = true ∧ linkState sL7 7 = 2 ∧
    (dirOf (linkOf sL7 7) true).map.contains 3 = true ∧ (linkOf sL7 7).retrain = none) ∧
  (bitOf (dirOf (linkOf sL7 9) true).good 3 = true ∧ islRuns sL7 (otherIsl .b) = true) ∧
  (linkState sSp 7 = 2 ∧ unitsOn sSp = true ∧ (linkOf sSp 7).left.contains (true, 3) = true ∧ spares (dirOf (linkOf sSp 7) true) = [64, 65, 66, 67]) ∧
  (linkState sNar 7 = 2 ∧ unitsOn sNar = true ∧ stepDue (linkOf sNar 7) true = true) ∧
  stepDue (linkOf sL7 7) true = false := by
  refine ⟨?_, ?_, ?_, ?_, ?_, ?_, ?_, ?_, ?_, ?_, ?_, ?_, ?_⟩
  case refine_2 =>
    refine ⟨by decide +kernel, by decide +kernel, ?_, ?_⟩
    · have hw : (dirOf (linkOf sL7 7) true).width = 64 := by decide +kernel
      have h := parityFails_flitWire (dirOf (linkOf sL7 7) true) 17 0 0 fl0 (by rw [hw]) (by rw [hw])
      rw [hw] at h
      rw [flitArrives_nil, h]
    · rw [flitArrives_nil, flitData_flitWire 64 0 0 fl0 (by decide)]
      exact crcHolds_flitBytes 0 0 fl0
  case refine_3 =>
    rw [bytes_fl0]
    decide +kernel
  all_goals decide +kernel

theorem witness_LinkRetrains :
  (windowOpen sL7 0 = true ∧ 0 = sL7.mgrPort ∧ sL7.op = .warmIdle) ∧
  (windowOpen sL7 1 = true ∧ 1 ≠ sL7.mgrPort) ∧
  (unitsOn (sRt 1) = true ∧ (linkOf (sRt 1) 7).retrain = some 1 ∧ (∀ d < 4, d ∈ [(linkEnds 7).1, (linkEnds 7).2] → dieIn (sRt 1) d = true) ∧
    16 ≤ goodLanes (linkOf (sRt 1) 7).fwd ∧ 16 ≤ goodLanes (linkOf (sRt 1) 7).rev) ∧
  (unitsOn sRtOut = true ∧ (linkOf sRtOut 7).retrain = some 1 ∧ ∃ d < 4, d ∈ [(linkEnds 7).1, (linkEnds 7).2] ∧ dieIn sRtOut d = false) ∧
  (unitsOn sRtLow = true ∧ (linkOf sRtLow 7).retrain = some 0 ∧ (∀ d < 4, d ∈ [(linkEnds 7).1, (linkEnds 7).2] → dieIn sRtLow d = true) ∧
    goodLanes (linkOf sRtLow 7).fwd < 16) ∧
  (unitsOn (sRt 3) = true ∧ (linkOf (sRt 3) 7).retrain = some 3 ∧ (∀ d < 4, d ∈ [(linkEnds 7).1, (linkEnds 7).2] → dieIn (sRt 3) d = true) ∧
    16 ≤ popCount 68 1099511627775 ∧ 16 ≤ popCount 68 65535 ∧ popCount 68 32767 < 16) ∧
  (linkOf sL7 7).retrain = none := by
  decide +kernel

theorem witness_RingAndDieReset :
  (powered sEng = true ∧ sEng.boot.broken = []) ∧
  (powered sBr = true ∧ sBr.boot.broken ≠ [] ∧ 6 ∉ sBr.boot.broken ∧ reached { sBr with boot := { sBr.boot with broken := sBr.boot.broken ++ [6] } } 0 = false ∧
    islRuns sBr .b = true) ∧
  (powered sBr = true ∧ 2 ∉ sBr.boot.broken ∧ cmpMode sBr ≠ 1 ∧ (∃ i < 7, nth ringNodes i 0 < 4 ∧
    reached { sBr with boot := { sBr.boot with broken := sBr.boot.broken ++ [2] } } i = false)) ∧
  (∃ g < 7, g ∉ sBr.boot.broken ∧ reached { sBr with boot := { sBr.boot with broken := sBr.boot.broken ++ [g] } } 3 = false) ∧
  (powered sBr = true ∧ 0 ∈ sBr.boot.broken) ∧
  mayReset sRs 3 = true ∧ mayReset sRs 2 = false ∧
  (3 ∈ sRj.boot.resetting ∧ running sRj = true ∧ sRj.frame.start = sRj.tbUnits ∧ (∃ l ∈ linksOf 3, linkState sRj l = 2) ∧ gates sRj (holder sRj) = false) ∧
  (3 ∈ (sSig [] sRj).boot.resetting ∧ running (sSig [] sRj) = true ∧ gates (sSig [] sRj) (holder (sSig [] sRj)) = true) ∧
  2 ∉ sRj.boot.resetting := by
  decide +kernel

theorem witness_PowerAndReset :
  sLow.boot.mrstLow = true ∧ sRing.boot.mrstLow = false ∧
  (wPowerAndReset1.boot.mrstLow = false ∧ wPowerAndReset1.boot.railsGood = false) ∧
  (sRing.boot.mrstLow = false ∧ sRing.boot.railsGood = true) ∧
  (sWear.hosts.map (·.1)).Nodup ∧
  (wPowerAndReset2.op = .dormant ∧ wPowerAndReset2.isl.b.resetLow = false) ∧
  (wPowerAndReset3.op = .dormant ∧ wPowerAndReset3.isl.b.resetLow = true) ∧
  sWear.op ≠ .dormant := by
  decide +kernel

theorem witness_SecureBoot :
  (bootAt sRom 1 = true ∧ powered sRom = true ∧ islState sRom .a = 2 ∧ islState sRom .b = 2) ∧
  (bootAt sSlot 1 = true ∧ powered sSlot = true ∧ islState sSlot .a = 0 ∧ (0 = 1 ↔ sSlot.boot.slot0.isSome = true) ∧
    sha384 (img true 4).key = sSlot.kept.keyHashA ∧ (img true 4).sigOk = true ∧ (img true 4).components.map sha384 = (img true 4).listed ∧
      sSlot.kept.svnMin ≤ (img true 4).svn.toNat) ∧
  ((img false 0).sigOk = false ∧ sSlot.boot.slot0 = none ∧ (img true 3).svn.toNat < sSlot.kept.svnMin) ∧
  (bootAt sB1 1 = true ∧ powered sB1 = true ∧ islState sB1 .a = 0 ∧ (1 = 1 ↔ sB1.boot.slot0.isSome = true) ∧ sB1.boot.slot0 = some 1) ∧
  (bootAt sFw 2 = true ∧ sha384 sFw.boot.key = sFw.kept.keyHashB ∧ sha384 [7] = nth sFw.boot.listed 1 []) ∧
  (bootAt (sBoot 2) 2 = true ∧ islState (sBoot 2) .b ≠ 4) ∧
  (bootAt (flow 1000 sCode) 3 = true ∧ (flow 1000 sCode).boot.loaded = false ∧ 4 ∉ refusals (flow 1000 sCode) ∧ f32Le f32One (flowUsed (flow 1000 sCode)) = true) ∧
  (bootAt (flow 999 sCode) 3 = true ∧ 4 ∉ refusals (flow 999 sCode) ∧ f32Le f32One (flowUsed (flow 999 sCode)) = false) ∧
  (bootAt (sBoot 3) 3 = true ∧ powered (sBoot 3) = true ∧ 4 ∈ refusals (sBoot 3)) ∧
  (bootAt (sP9 secTicks) 9 = true ∧ regGet (sP9 secTicks) K.THM_STATUS_sensor_ok = 1 ∧ (sP9 secTicks).thm.goodFrom = some 0 ∧ flowStays (sP9 secTicks) = true) ∧
  (bootAt (sP9 (secTicks - 1)) 9 = true ∧ flowStays (sP9 (secTicks - 1)) = false) := by
  refine ⟨?_, ?_, ?_, ?_, ?_, ?_, ?_, ?_, ?_, ?_, ?_⟩ <;> (decide +kernel)

theorem witness_BootCompletes :
  (bootAt sB3 3 = true ∧ sB3.boot.loaded = true ∧ (∀ l < 8, linkAnswered (heardEnds sB3 ends) l = true → 16 ≤ popCount 68 (BitVec.toNat (nth l68 l 0)) ∧
    16 ≤ popCount 68 (BitVec.toNat (nth l68 l 0)))) ∧
  (bootAt sB4 4 = true ∧ powered sB4 = true ∧ mani.sigOk = true ∧ mani.serial.toNat = moduleSerial sB4 ∧ manifestFaults sB4 mani = [] ∧
    (∀ d < 4, heard sB4.boot.ends d ≠ [] ∧ ∃ l ∈ linksOf d, linkState sB4 l ≠ 3) ∧ (∀ h < 8, stackId sB4 h ≠ 0)) ∧
  (bootAt sB5 4 = true ∧ powered sB5 = true ∧ mani.serial.toNat = moduleSerial sB5 ∧ manifestFaults sB5 mani = [] ∧ cmpMode sB5 ≠ 1 ∧
    ∀ l ∈ linksOf 3, linkState sB5 l = 3) ∧
  (bootAt sB4 4 = true ∧ manifestFaults sB4 wBootCompletes1 ≠ [] ∧ { mani with serial := 2 }.serial.toNat ≠ moduleSerial sB4) ∧
  bootAt (sBoot 5) 5 = true ∧
  (bootAt (setR [(K.ID_DIES_in_service, 15)] (sBoot 6)) 6 = true ∧ dieIn (setR [(K.ID_DIES_in_service, 15)] (sBoot 6)) 3 = true) ∧
  bootAt (sBoot 7) 7 = true ∧
  wBootCompletes2.op = .safeOff ∧
  (base.op ≠ .booting ∧ Instr.stewardLoad = .stewardLoad) := by
  refine ⟨?_, ?_, ?_, ?_, ?_, ?_, ?_, ?_, by decide, rfl⟩ <;> (decide +kernel)

theorem witness_PortResets :
  (Instr.perstAssert 1 = Instr.perstAssert 1 ∧ (portOf (withJob jMove sRing) 1).perstLow = false ∨ Instr.perstAssert 1 = Instr.functionLevelReset 1 ∧
    portUp (withJob jMove sRing) 1 = true) ∧
  (Instr.functionLevelReset 1 = Instr.perstAssert 1 ∧ (portOf (withJob jMove sRing) 1).perstLow = false ∨ Instr.functionLevelReset 1 = Instr.functionLevelReset 1 ∧
    portUp (withJob jMove sRing) 1 = true) ∧
  (portOf State.reset 0).perstLow = true ∧
  ((portOf (withJob jMove sRing) 1).busMaster = true ∧ hostOn (withJob jMove sRing) 1 = true) ∧
  ((portOf base 1).busMaster = true ∧ hostOn base 1 = false) ∧ (portOf State.reset 0).busMaster = false := by
  decide +kernel

theorem witness_RailsClocksWear :
  ((Instr.undervoltage (.cd 3) = .undervoltage (.cd 3) ∨ (Instr.undervoltage (.cd 3) = .avsConfirmTimeout 3 ∧ gates sEng (holder sEng) = false)) ∧
    powered sEng = true ∧ sEng.op ≠ .safeOff ∧ dieIn sEng 3 = true) ∧
  ((Instr.avsConfirmTimeout 0 = .undervoltage (.cd 0) ∨ (Instr.avsConfirmTimeout 0 = .avsConfirmTimeout 0 ∧ gates sEng (holder sEng) = false)) ∧ powered sEng = true ∧
    sEng.op ≠ .safeOff ∧ dieIn sEng 0 = true) ∧
  gates (sSig [] sEng) (holder (sSig [] sEng)) = true ∧
  ((Instr.refclkSysLoss = .undervoltage .iod ∨ Instr.refclkSysLoss = .undervoltage .h1v1 ∨ Instr.refclkSysLoss = .undervoltage .q0v4 ∨ Instr.refclkSysLoss = .refclkSysLoss) ∧ powered sMove = true ∧ sMove.op ≠ .safeOff) ∧
  (powered sEng = true ∧ islLocked sEng (otherIsl .b) = true) ∧
  (wRailsClocksWear1.op ≠ .off ∧ wRailsClocksWear1.refSys = true) ∧
  (wRailsClocksWear2.op ≠ .off ∧ wRailsClocksWear2.refSys ≠ true) ∧
  running (setR [(K.THM_LEVEL_levels 2, 21008)] sEng) = true ∧
  (setR [(K.WEAR_DORMANT_count, 5)] sEng).op ≠ .off ∧
  (wRailsClocksWear3.op = .dormant ∧ (1361 < -640 ∨ 1360 < 1361)) ∧
  wRailsClocksWear4.op = .dormant := by
  decide +kernel

theorem witness_Sensors :
  (powered (flow 0 sEng) = true ∧ ((0 ≤ 10000 ∧ 10000 ≤ 10000) ∨ regGet (flow 0 sEng) K.THM_STATUS_sensor_ok ≠ 1)) ∧
  (powered (flow 0 sEng) = true ∧ (10001 < 0 ∨ 10000 < 10001) ∧ regGet (flow 0 sEng) K.THM_STATUS_sensor_ok = 1) ∧
  (powered sEng = true ∧ (thermOf sEng 4).diodes = [] ∧ diodeFailed sEng 4 0 0 = false ∧ diodeFailed sEng 4 0 1 = false ∧ max 1759 1758 < 1760) ∧
  (powered sFired = true ∧ (thermOf sFired 4).diodes = [] ∧ diodeFailed sFired 4 0 0 = false ∧ diodeFailed sFired 4 0 1 = false ∧ 16 * 4 ∈ sFired.thm.fired ∧
    256 + 4 ∈ sFired.thm.fired) ∧
  (1760 ≤ max 1760 1696 ∧ 1760 - 1696 ≤ 64 ∧ 16 * 4 ∉ sEng.thm.fired ∧ 256 + 4 ∉ sEng.thm.fired) ∧
  (powered (sDf (10 * secTicks)) = true ∧ (sDf (10 * secTicks)).thm.differFrom = some 0 ∧ regGet (sDf (10 * secTicks)) K.THM_STATUS_sensor_ok = 1 ∧
    0 + 10 * secTicks ≤ (sDf (10 * secTicks)).ticks) ∧
  (powered (sDf (10 * secTicks - 1)) = true ∧ (sDf (10 * secTicks - 1)).thm.differFrom = some 0 ∧ regGet (sDf (10 * secTicks - 1)) K.THM_STATUS_sensor_ok = 1 ∧
    (sDf (10 * secTicks - 1)).ticks < 0 + 10 * secTicks) := by
  decide +kernel

theorem witness_FlowAndLimp :
  (powered wFlowAndLimp1 = true ∧ wFlowAndLimp1.op ≠ OpState.warmIdle ∧ wFlowAndLimp1.op ≠ OpState.drive ∧ wFlowAndLimp1.op ≠ OpState.lodge) ∧
  (powered (flow 1000 sEng) = true ∧ ((flow 1000 sEng).op = OpState.warmIdle ∨ (flow 1000 sEng).op = OpState.drive ∨ (flow 1000 sEng).op = OpState.lodge) ∧
    f32Le (flowUsed (flow 1000 sEng)) f32One = true) ∧
  (powered (flow 1500 sEng) = true ∧ ((flow 1500 sEng).op = OpState.warmIdle ∨ (flow 1500 sEng).op = OpState.drive ∨ (flow 1500 sEng).op = OpState.lodge) ∧
    f32Le (flowUsed (flow 1500 sEng)) f32One = false ∧ (∀ d < 4, dieIn (flow 1500 sEng) d = true → (riseTest d (flow 1500 sEng)).2 = false)) ∧
  ((sStop (5 * msTicks)).thm.lowFrom = some 0 ∧ regGet (sStop (5 * msTicks)) K.THM_STATUS_sensor_ok = 1 ∧ 0 + 5 * msTicks ≤ (sStop (5 * msTicks)).ticks ∧
    ((sStop (5 * msTicks)).op = OpState.warmIdle ∨ (sStop (5 * msTicks)).op = OpState.drive ∨ (sStop (5 * msTicks)).op = OpState.lodge) ∧
    chooseLimp (sStop (5 * msTicks)) = some (0, 1)) ∧
  ((sStop (5 * msTicks - 1)).thm.lowFrom = some 0 ∧ regGet (sStop (5 * msTicks - 1)) K.THM_STATUS_sensor_ok = 1 ∧ (sStop (5 * msTicks - 1)).ticks < 0 + 5 * msTicks) ∧
  ((sLx (10 * secTicks)).op = OpState.limp ∧ regGet (sLx (10 * secTicks)) K.THM_STATUS_sensor_ok = 1 ∧ (sLx (10 * secTicks)).thm.goodFrom = some 0 ∧
    0 + 10 * secTicks ≤ (sLx (10 * secTicks)).ticks ∧ (∀ (d : Fin 5), hotOr (sLx (10 * secTicks)) ↑d < 1360)) ∧
  ((sLx (10 * secTicks - 1)).op = OpState.limp ∧ regGet (sLx (10 * secTicks - 1)) K.THM_STATUS_sensor_ok = 1 ∧ (sLx (10 * secTicks - 1)).thm.goodFrom = some 0 ∧
    ((sLx (10 * secTicks - 1)).ticks < 0 + 10 * secTicks ∨ ∃ d : Fin 5, 1360 ≤ hotOr (sLx (10 * secTicks - 1)) ↑d)) := by
  refine ⟨?_, ?_, ?_, ?_, ?_, ?_, ?_⟩ <;> (decide +kernel)

/-! Witnesses of statements about results of job bodies and of MAP_PUBLISH -/

/-- The result of a job's body, if it has one. -/
theorem work_ok (x : State × Except Fail JobResult) (h : x.2.isOk = true) : ∃ u r, x = (u, .ok r) := by
  obtain ⟨u, _ | r⟩ := x
  · cases h
  · exact ⟨u, r, rfl⟩
theorem work_error (x : State × Except Fail JobResult) (h : x.2.isOk = false) : ∃ u e, x = (u, .error e) := by
  obtain ⟨u, e | _⟩ := x
  · exact ⟨u, e, rfl⟩
  · cases h
def jFuse2 : Job := { jRun jFuse with instant := some 1000, banks := sWin.active }
def sFuse2 : State := { withJob jFuse2 sWin with tbUnits := 10 ^ 9 * 2 ^ 32, frame := { sWin.frame with golden := [0, 1, 2, 3] } }
theorem witness_FusePlanMapJobs_fuse : findJob sFuse2 5 = some jFuse2 ∧ jType jFuse2 = 4 ∧ jReplay jFuse2 = false ∧ jFuse2.phase = .running ∧
    jFuse2.instant = some 1000 ∧ running sFuse2 = true ∧ 1000 + admitWait { sFuse2 with active := jFuse2.banks } ≤ tauNow sFuse2 ∧
    lodgerStopped sFuse2 jFuse2 = false ∧ sFuse2.frame.golden.contains 0 = true ∧ sFuse2.frame.golden.contains 1 = true ∧ (∀ k ∈ sFuse2.jobs, k.acc = 5 → k = jFuse2) ∧
    ∃ u r, underBanks fuseWork jFuse2 sFuse2 = (u, .ok r) ∧ (engineDuplex sFuse2 jFuse2 && gates u (holder u)) = false := by
  refine ⟨by decide +kernel, by decide +kernel, by decide +kernel, by decide +kernel, by decide +kernel, by decide +kernel, by decide +kernel, by decide +kernel, by decide +kernel, by decide +kernel, by decide +kernel, ?_⟩
  have h : (underBanks fuseWork jFuse2 sFuse2).2.isOk = true ∧
    (engineDuplex sFuse2 jFuse2 && gates (underBanks fuseWork jFuse2 sFuse2).1 (holder (underBanks fuseWork jFuse2 sFuse2).1)) = false := by
    decide +kernel
  obtain ⟨u, r, e⟩ := work_ok _ h.1
  exact ⟨u, r, e, by have := h.2; rwa [e] at this⟩
/-- A FUSE replay that names an admission record of 64 bytes at 0, on an engine pair that serves in duplex. -/
def jReplay0 : Job := mkJob 5 0 [(0, 1, 4), (1, 1, 2), (72, 8, 0x1000), (80, 4, 0x1000), (88, 8, 0x4000), (96, 4, 0x1000)]
def replayRecord : List Byte := (leBytes 2 1 ++ zeros 46 ++ leBytes 4 64 ++ zeros 12)
def sReplay : State := withJob jReplay0 { sWin with isl := sEng.isl, dpx := sEng.dpx, frame := { sWin.frame with golden := [0, 1] }, mem := { sWin.mem with win := memWrite 0 replayRecord [] }, fus := { sWin.fus with motions := [(replayRecord, 0, 0)] } }
/-- A MOVE whose source holds a poisoned granule. -/
def sMovePoison : State := { sMove with mem := { sMove.mem with poisonWin := [0] } }
theorem witness_JobsComplete : (∃ (f : JobForm) (k : Job) (u : State) (r : JobResult), f ∈ jobForms 5 ∧ Starts sMove 5 jMove ∧ f.mine jMove = true ∧
  f.pre sMove jMove = .go noClaim ∧
      (∀ e ∈ f.engines, sMove.frame.golden.contains e = true) ∧ findJob (takeClaim jMove noClaim sMove) 5 = some k ∧
        underBanks f.work k (jobReads [] (takeClaim jMove noClaim sMove)) = (u, .ok r)) ∧
    (∃ (f : JobForm) (k : Job) (u : State) (r : JobResult), f ∈ jobForms 5 ∧ Starts sReplay 5 jReplay0 ∧ f.mine jReplay0 = true ∧ f.pre sReplay jReplay0 = .go noClaim ∧
      (∀ e ∈ f.engines, sReplay.frame.golden.contains e = true) ∧ findJob (takeClaim jReplay0 noClaim sReplay) 5 = some k ∧
      underBanks f.work k (jobReads [] (takeClaim jReplay0 noClaim sReplay)) = (u, .ok r) ∧ f.duplex (takeClaim jReplay0 noClaim sReplay) jReplay0 = true) ∧
    (∃ (f : JobForm) (k : Job) (u : State) (e : Fail), f ∈ jobForms 5 ∧ Starts sMovePoison 5 jMove ∧ f.mine jMove = true ∧ f.pre sMovePoison jMove = .go noClaim ∧
      (∀ e ∈ f.engines, sMovePoison.frame.golden.contains e = true) ∧ findJob (takeClaim jMove noClaim sMovePoison) 5 = some k ∧
      underBanks f.work k (jobReads [] (takeClaim jMove noClaim sMovePoison)) = (u, .error e)) := by
  refine ⟨?_, ?_, ?_⟩
  · obtain ⟨u, r, h⟩ := work_ok (underBanks moveWork ((findJob (takeClaim jMove noClaim sMove) 5).getD jMove) (jobReads [] (takeClaim jMove noClaim sMove))) (by decide +kernel)
    exact ⟨fMove 5, _, u, r, by simp [jobForms, fMove], by unfold Starts; decide +kernel, by decide +kernel, by decide +kernel, by decide +kernel, by decide +kernel, h⟩
  · obtain ⟨u, r, h⟩ := work_ok (underBanks fuseReplayWork ((findJob (takeClaim jReplay0 noClaim sReplay) 5).getD jMove) (jobReads [] (takeClaim jReplay0 noClaim sReplay))) (by decide +kernel)
    exact ⟨fFR, _, u, r, by simp [jobForms, fFR], by unfold Starts; decide +kernel, by decide +kernel, by decide +kernel, by decide +kernel, by decide +kernel, h, by decide +kernel⟩
  · obtain ⟨u, e, h⟩ := work_error (underBanks moveWork ((findJob (takeClaim jMove noClaim sMovePoison) 5).getD jMove) (jobReads [] (takeClaim jMove noClaim sMovePoison))) (by decide +kernel)
    exact ⟨fMove 5, _, u, e, by simp [jobForms, fMove], by unfold Starts; decide +kernel, by decide +kernel, by decide +kernel, by decide +kernel, by decide +kernel, h⟩
def sStep : State := { sMove with pending := [.move 5 .start] }
theorem witness_StepKeepsSound : Sound sStep ∧ ∃ t, step sStep = .next t := by
  refine ⟨?_, _, rfl⟩
  unfold Sound SoundOf
  decide +kernel
theorem witness_StepIdles : State.reset.pending = [] := rfl

/-- A MAP_UPDATE job of the map set at 0 with the image at 0x3000000. -/
def jMapU : Job := mkJob 5 0 [(0, 1, 14), (56, 8, 0x3000000), (64, 8, 0), (72, 8, 77)]
/-- The record of a map set: epoch 0, its buffers, their size. -/
def mapRecord (size : Nat) : List Byte := leBytes 8 0 ++ leBytes 8 0x1000000 ++ leBytes 8 0x2000000 ++ leBytes 8 size
def sMapU : State := withJob jMapU { sWin with mem := { sWin.mem with win := memWrite 0 (mapRecord 64) [] } }
/-- A MAP_UPDATE job of a map set in the cellar window, whose image has a voxel tree of one empty root. -/
def jMapC : Job := mkJob 5 0 [(0, 1, 14), (56, 8, 0x004003000000), (64, 8, 0x004000000000), (72, 8, 77)]
/-- The record of a map set in the cellar window. -/
def mapRecordC (size : Nat) : List Byte := leBytes 8 0 ++ leBytes 8 0x004001000000 ++ leBytes 8 0x004002000000 ++ leBytes 8 size
def mapMem : List Host.Cell := memWrite (0x004003000000 + treeBase + 12) (leBytes 4 max32) (memWrite 0x004000000000 (mapRecordC (treeBase + 16)) [])
def sMapP : State := withJob (jRun jMapC) { sWin with mem := { sWin.mem with win := mapMem, poisonWin := [] } }
theorem mapMem_record : memRead mapMem 0x004000000000 32 = mapRecordC (treeBase + 16) := by decide +kernel
theorem mapMem_root : memRead mapMem (0x004003000000 + treeBase) 16 = zeros 12 ++ leBytes 4 max32 := by decide +kernel
theorem memRead_slice (m : List Host.Cell) (k n a b : Nat) (h : a + b ≤ n) : ((memRead m k n).drop a).take b = memRead m (k + a) b := by
  apply List.ext_getElem
  · simp [memRead]; omega
  · intro i h1 h2
    simp [memRead, Nat.add_assoc]
/-- The bytes that an image is copied as (R302). -/
def mapImage (j : Job) (img : List Byte) (n : Nat) : List Byte :=
  (leBytes 8 1 ++ leBytes 8 (dF j 72 8) ++ (img.drop 16).take 33 ++ leBytes 1 (jDirty j) ++ img.drop 50).take n
theorem mapImage_length (j : Job) (img : List Byte) (n : Nat) (h : img.length = n) (hn : 50 ≤ n) : (mapImage j img n).length = n := by
  simp [mapImage, h]; omega
theorem mapImage_slice (j : Job) (img : List Byte) (n a b : Nat) (h : img.length = n) (ha : 50 ≤ a) (hb : a + b ≤ n) :
    ((mapImage j img n).drop a).take b = (img.drop a).take b := by
  have hl : (leBytes 8 1 ++ leBytes 8 (dF j 72 8) ++ (img.drop 16).take 33 ++ leBytes 1 (jDirty j)).length = 50 := by
    simp [h]; omega
  rw [mapImage, List.drop_take, List.take_take, List.drop_append, hl, List.drop_drop, List.drop_of_length_le (by rw [hl]; exact ha)]
  rw [List.nil_append, Nat.min_eq_left (by omega), show 50 + (a - 50) = a by omega]
def mapBytes : List Byte := mapImage (jRun jMapC) (memRead mapMem 0x004003000000 (treeBase + 16)) (treeBase + 16)
theorem mapBytes_length : mapBytes.length = treeBase + 16 := mapImage_length _ _ _ (by rw [memRead, List.length_map, List.length_range]) (by decide)
theorem mapBytes_root : (mapBytes.drop treeBase).take 16 = zeros 12 ++ leBytes 4 max32 := by
  rw [mapBytes, mapImage_slice _ _ _ _ _ (by rw [memRead, List.length_map, List.length_range]) (by decide) (by decide), memRead_slice _ _ _ _ _ (by decide), mapMem_root]
theorem sMapP_size : mapSize sMapP (jSet (jRun jMapC)) = treeBase + 16 := by decide +kernel
theorem sMapP_buf : mapBuf sMapP (jSet (jRun jMapC)) 1 = 0x004002000000 := by decide +kernel
theorem sMapP_win : sMapP.mem.win = mapMem := by unfold sMapP withJob; rfl
theorem sMapP_poison : sMapP.mem.poisonWin = [] := by unfold sMapP withJob; rfl
theorem jMapC_image : jImage (jRun jMapC) = 0x004003000000 := by decide +kernel
theorem sMapP_image (n : Nat) : realmRead sMapP 0 (jImage (jRun jMapC)) n = memRead mapMem 0x004003000000 n := by
  rw [jMapC_image, realmRead, if_neg (by decide), if_neg (by decide), sMapP_win, show winKey 0 0x004003000000 = 0x004003000000 from rfl]
theorem noPoison (s : State) (r a n : Nat) (h : s.mem.poisonWin = []) : poisonedWrite s r a n = none := by
  simp [poisonedWrite, winBad, h]
theorem mapCopy_image (j : Job) (s : State) : mapCopy j 1 s =
    checkedWrite 0 (mapBuf s (jSet j) 1) 0 (mapImage j (realmRead s 0 (jImage j) (mapSize s (jSet j))) (mapSize s (jSet j))) s := rfl
theorem checkedWrite_clean (s : State) (r a d : Nat) (bs : List Byte) (h : s.mem.poisonWin = []) : checkedWrite r a d bs s = (realmWrite r a bs s, none) := by
  rw [checkedWrite, noPoison _ _ _ _ h, orPoisonW]
theorem sMapP_copy : mapCopy (jRun jMapC) 1 sMapP = (realmWrite 0 0x004002000000 mapBytes sMapP, none) := by
  rw [mapCopy_image, sMapP_size, sMapP_buf, sMapP_image, checkedWrite_clean _ _ _ _ _ sMapP_poison, mapBytes]
def uMap : State := realmWrite 0 0x004002000000 mapBytes sMapP
theorem uMap_win : uMap.mem.win = memWrite 0x004002000000 mapBytes mapMem := by
  rw [uMap, realmWrite, if_neg (by decide), if_neg (by decide)]; simp only [copyWrite, winKey, Nat.mul_zero, Nat.zero_add, Nat.add_zero, sMapP_win]
theorem uMap_low (a n : Nat) (ha : 0x004000000000 ≤ a) (h : a + n ≤ 0x004002000000) : realmRead uMap 0 a n = memRead mapMem a n := by
  have hm : mirrored 0 a = false := by simp [mirrored, cellarBase]; omega
  simp only [realmRead, uMap_win, hm]
  rw [if_neg (by unfold hostWinBase; omega), if_neg (by decide), winKey, memRead_memWrite_ne _ _ _ _ _ (.inl (by omega))]
  simp
theorem uMap_root (a n : Nat) (h : a + n ≤ 16) :
    bufF uMap 0x004002000000 (treeBase + 16 * 0 + a) n = fieldAt (((zeros 12 ++ leBytes 4 max32).drop a).take n) 0 n := by
  have h1 := memRead_slice (memWrite 0x004002000000 mapBytes mapMem) 0x004002000000 mapBytes.length (treeBase + a) n
    (by rw [mapBytes_length, Nat.add_assoc]; exact Nat.add_le_add_left h _)
  rw [memRead_memWrite] at h1
  have ha : ¬ hostWinBase ≤ 0x004002000000 + (treeBase + 16 * 0 + a) := by unfold hostWinBase treeBase; omega
  have hm : ¬ mirrored 0 (0x004002000000 + (treeBase + 16 * 0 + a)) = true := by simp [mirrored, cellarBase]; omega
  rw [bufF, realmRead, if_neg ha, if_neg hm, uMap_win, winKey, ← mapBytes_root, Nat.mul_zero, Nat.zero_add, Nat.mul_zero, Nat.add_zero, ← h1,
    List.drop_take, List.drop_drop, List.take_take, Nat.min_eq_left (by omega)]
theorem witness_FusePlanMapJobs_publish : findJob sMapP 5 = some (jRun jMapC) ∧ jType (jRun jMapC) = 14 ∧ (jRun jMapC).phase = .running ∧ jDigest (jRun jMapC) = 0 ∧
    jSet (jRun jMapC) + 64 ≤ hostWinBase ∧ (mapEpoch sMapP (jSet (jRun jMapC)) + 1) % 2 ^ 64 = 1 ∧ bufferHeld sMapP (jSet (jRun jMapC)) 1 = false ∧
    mapCopy (jRun jMapC) 1 sMapP = (uMap, none) ∧ treeBase + 16 ≤ mapSize uMap (jSet (jRun jMapC)) ∧
    treeFault uMap (mapBuf uMap (jSet (jRun jMapC)) 1) (mapSize uMap (jSet (jRun jMapC))) 5 0 = false := by
  have hj : jSet (jRun jMapC) = 0x004000000000 := by decide +kernel
  have hs : mapSize uMap 0x004000000000 = treeBase + 16 := by rw [mapSize, uMap_low _ _ (by decide) (by decide)]; decide +kernel
  have hb : mapBuf uMap 0x004000000000 1 = 0x004002000000 := by rw [mapBuf, uMap_low _ _ (by decide) (by decide)]; decide +kernel
  have hc : nodeChild uMap 0x004002000000 0 = max32 := by rw [nodeChild, uMap_root 12 4 (by decide)]; decide +kernel
  have hm : nodeMask uMap 0x004002000000 0 = 0 := by rw [nodeMask]; exact (uMap_root 0 10 (by decide)).trans (by decide +kernel)
  refine ⟨by decide +kernel, by decide +kernel, by decide +kernel, by decide +kernel, by decide +kernel, by decide +kernel, by decide +kernel, sMapP_copy, ?_, ?_⟩
  · rw [hj, hs]
  · rw [hj, hb, hs, treeFault, hc, if_pos rfl, hm]; rfl
theorem witness_FusePlanMapJobs_update : Starts sMapU 5 jMapU ∧ jType jMapU = 14 ∧ mapPre sMapU jMapU = .go noClaim := by
  unfold Starts; decide +kernel

end Sys2Proof.Tests
end

section
/-! PROOFS. The completion record (R236, R237): what a byte structure's fields read, the state in which a completion has written its digest,
and the memory, ring index and jobs after it. -/

namespace Sys2Proof.Machine

variable {s : State} {j : Job} {r : JobResult}

/-! Fields of byte structures -/

/-- A field that starts at or after the end of a prefix is a field of the rest. -/
theorem fieldAt_append_right {as : List Byte} (bs : List Byte) {off : Nat} (n : Nat) (h : as.length ≤ off) :
    fieldAt (as ++ bs) off n = fieldAt bs (off - as.length) n := by
  rw [fieldAt, List.drop_append, List.drop_of_length_le h, List.nil_append, fieldAt]

@[simp] theorem fieldAt_leBytes_append (n v : Nat) (bs : List Byte) : fieldAt (leBytes n v ++ bs) 0 n = v % 256 ^ n := by
  rw [fieldAt, List.drop_zero, List.take_left' (leBytes_length n v), leVal_leBytes]

@[simp] theorem fieldAt_leBytes (n v : Nat) : fieldAt (leBytes n v) 0 n = v % 256 ^ n := by
  simpa using fieldAt_leBytes_append n v []

theorem fieldAt_lt (bs : List Byte) (off n : Nat) : fieldAt bs off n < 256 ^ n :=
  Nat.lt_of_lt_of_le (leVal_lt _) (Nat.pow_le_pow_right (by decide) (List.length_take_le ..))

/-! The bytes of a record -/

theorem tbNs_lt (s : State) : tbNs s < 256 ^ 4 := by
  have hu : s.tbUnits % unitsPerSec < 2 ^ 32 * 256 ^ 4 := Nat.lt_trans (Nat.mod_lt _ (by decide)) (by decide)
  exact Nat.div_lt_of_lt_mul hu

theorem complFlags_eq (entries idx : Nat) (simplex : Bool) :
    complFlags entries idx simplex = (idx / entries + 1) % 2 + 2 * simplex.toNat := by
  have hp : (phaseBit entries idx == 1).toNat = phaseBit entries idx := by
    unfold phaseBit
    rcases Nat.mod_two_eq_zero_or_one (idx / entries + 1) with h | h <;> rw [h] <;> rfl
  rw [complFlags, ofBits, hp, ofBits, ofBits, Nat.mul_zero, Nat.add_zero, phaseBit]

theorem complFlags_lt (entries idx : Nat) (simplex : Bool) : complFlags entries idx simplex < 256 ^ 1 := by
  rw [complFlags_eq]
  have := Bool.toNat_le simplex
  omega

/-- The digest bytes of a record: the first eight of the job digest, or zeros for a job that failed (R236). -/
def recordDigest (r : JobResult) : List Byte := if r.status = 0 then r.digest.take 8 else zeros 8

theorem recordDigest_length (h : r.status = 0 → r.digest.length = 32) : (recordDigest r).length = 8 := by
  unfold recordDigest
  split
  · rw [List.length_take, h ‹_›]; rfl
  · exact zeros_length 8

/-- The parts of a record, each before the ones that follow it. -/
theorem complBytes_eq (s : State) (j : Job) (idx : Nat) (r : JobResult) (simplex : Bool) (cls : Nat) :
    complBytes s j idx r simplex cls = leBytes 2 r.status ++ (leBytes 1 (complFlags (ringEntries s j.port j.ring) idx simplex) ++
      (leBytes 1 cls ++ (leBytes 4 (if r.status = 0 then r.aux else 0) ++ (recordDigest r ++
      (leBytes 8 (dF j 16 8) ++ (leBytes 4 r.detail ++ leBytes 4 (tbNs s))))))) := by
  simp only [complBytes, recordDigest, List.append_assoc]

theorem complBytes_length (h : r.status = 0 → r.digest.length = 32) (s : State) (j : Job) (idx : Nat) (simplex : Bool) (cls : Nat) :
    (complBytes s j idx r simplex cls).length = 32 := by
  simp [complBytes_eq, recordDigest_length h]

/-- What each field of a record reads (R236). -/
theorem complBytes_fields (h : r.status = 0 → r.digest.length = 32) (s : State) (j : Job) (idx : Nat) (simplex : Bool) (cls : Nat) :
    let b := complBytes s j idx r simplex cls
    fieldAt b 0 2 = r.status % 2 ^ 16 ∧
    fieldAt b 2 1 = (idx / ringEntries s j.port j.ring + 1) % 2 + 2 * simplex.toNat ∧ fieldAt b 3 1 = cls % 256 ∧
    fieldAt b 4 4 = (if r.status = 0 then r.aux % 2 ^ 32 else 0) ∧ (b.drop 8).take 8 = recordDigest r ∧
    fieldAt b 16 8 = dF j 16 8 ∧ fieldAt b 24 4 = r.detail % 2 ^ 32 ∧ fieldAt b 28 4 = tbNs s := by
  have hd := recordDigest_length h
  dsimp only
  rw [complBytes_eq]
  refine ⟨?status, ?flags, ?faultClass, ?aux, ?digest, ?user, ?detail, ?time⟩
  case status => simp
  case flags =>
    rw [← complFlags_eq, ← Nat.mod_eq_of_lt (complFlags_lt ..)]
    simp [fieldAt_append_right]
  case faultClass => simp [fieldAt_append_right]
  case aux =>
    simp only [fieldAt_append_right, leBytes_length, Nat.reduceLeDiff, Nat.reduceSub, fieldAt_leBytes_append]
    split <;> rfl
  case digest => simp [List.drop_append, List.drop_of_length_le, hd]
  case user =>
    rw [← Nat.mod_eq_of_lt (show dF j 16 8 < 256 ^ 8 from fieldAt_lt ..)]
    simp [fieldAt_append_right, hd]
  case detail => simp [fieldAt_append_right, hd]
  case time =>
    rw [← Nat.mod_eq_of_lt (tbNs_lt s)]
    simp [fieldAt_append_right, hd]

/-! The state after a completion -/

/-- The state in which a completion has written its job digest, where the job asks for one (R55). -/
def withDigest (j : Job) (r : JobResult) (s : State) : State :=
  if r.status = 0 && jDigest j ≠ 0 then realmWrite j.realm (jDigest j) r.digest s else s

@[simp] theorem regGet_withDigest (k : Nat) : regGet (withDigest j r s) k = regGet s k := by unfold withDigest; split <;> simp
@[simp] theorem withDigest_tbUnits : (withDigest j r s).tbUnits = s.tbUnits := by unfold withDigest; split <;> simp
@[simp] theorem withDigest_jobs : (withDigest j r s).jobs = s.jobs := by unfold withDigest; split <;> simp
@[simp] theorem portOf_withDigest (p : Nat) : portOf (withDigest j r s) p = portOf s p := by unfold withDigest; split <;> simp
@[simp] theorem ringOf_withDigest (p i : Nat) : ringOf (withDigest j r s) p i = ringOf s p i := by unfold withDigest; split <;> simp

@[simp] theorem cqBase_withDigest (p i : Nat) : cqBase (withDigest j r s) p i = cqBase s p i := by simp [cqBase]
@[simp] theorem ringEntries_withDigest (p i : Nat) : ringEntries (withDigest j r s) p i = ringEntries s p i := by simp [ringEntries]
@[simp] theorem complBytes_withDigest (k : Job) (idx : Nat) (q : JobResult) (simplex : Bool) (cls : Nat) :
    complBytes (withDigest j r s) k idx q simplex cls = complBytes s k idx q simplex cls := by simp [complBytes, tbNs]

/-- The bus address of the slot that a job's completion record takes (R236). -/
def recordSlot (s : State) (j : Job) : Nat :=
  cqBase s j.port j.ring + 32 * ((ringOf s j.port j.ring).cqProducer % ringEntries s j.port j.ring)

@[simp] theorem recordSlot_withDigest (k : Job) : recordSlot (withDigest j r s) k = recordSlot s k := by simp [recordSlot]

/-- A state with a job's completion record written and the producer index raised (R236). -/
def recordPosted (j : Job) (r : JobResult) (simplex : Bool) (cls : Nat) (s : State) : State :=
  modRing j.port j.ring (fun q => { q with cqProducer := (q.cqProducer + 1) % 65536 })
    (hostWrite j.port (recordSlot s j) (complBytes s j (ringOf s j.port j.ring).cqProducer r simplex cls) s)

/-- What a completion does after its record: the job leaves and limbo drains; a fault of class B enters FAULT_LAST (R181, R339). -/
def afterRecord (j : Job) (cls : Nat) (s : State) : State :=
  let u := drainLimbo j.realm { s with jobs := s.jobs.filter fun k => k.acc != j.acc }
  if cls = 2 then regSet K.FAULT_LAST_source iodSteward { u with lastClass := 2 } else u

@[simp] theorem hostRead_afterRecord (cls p a n : Nat) : hostRead (afterRecord j cls s) p a n = hostRead s p a n := by
  unfold afterRecord; split <;> rfl
@[simp] theorem ringOf_afterRecord (cls p i : Nat) : ringOf (afterRecord j cls s) p i = ringOf s p i := by
  unfold afterRecord; split <;> rfl
@[simp] theorem afterRecord_jobs (cls : Nat) : (afterRecord j cls s).jobs = s.jobs.filter fun k => k.acc != j.acc := by
  unfold afterRecord; split <;> rfl

/-- A completion that is neither muted nor without bus mastering posts its record after its digest (R236, R401); outside understudy mode
nothing is compared. -/
theorem completeJob_eq_posted {simplex : Bool} {cls : Nat} (hm : j.mute = false) (hb : (portOf s j.port).busMaster = true) (hc : j.commit = none) :
    completeJob j r simplex cls s = afterRecord j cls (recordPosted j r simplex cls (withDigest j r s)) := by
  let u := withDigest j r s
  have hpost : (j.mute || !(portOf u j.port).busMaster) = false := by simp [u, hm, hb]
  calc completeJob j r simplex cls s
      = afterRecord j cls (if j.mute || !(portOf u j.port).busMaster then countDropped u.mgrPort u else recordPosted j r simplex cls u) := by
        rw [completeJob, hc]; rfl
    _ = afterRecord j cls (recordPosted j r simplex cls u) := by rw [hpost]; rfl

/-- The slot of the record reads the record's bytes. -/
theorem hostRead_recordPosted (simplex : Bool) (cls : Nat) (hd : r.status = 0 → r.digest.length = 32) (hs : recordSlot s j + 32 ≤ 2 ^ 64) :
    hostRead (recordPosted j r simplex cls s) j.port (recordSlot s j) 32 =
      complBytes s j (ringOf s j.port j.ring).cqProducer r simplex cls := by
  have hl := complBytes_length hd s j (ringOf s j.port j.ring).cqProducer simplex cls
  have hw := hostRead_hostWrite (s := s) j.port (recordSlot s j) (complBytes s j (ringOf s j.port j.ring).cqProducer r simplex cls) (by omega)
  rwa [hl] at hw

@[simp] theorem cqProducer_recordPosted {simplex : Bool} {cls : Nat} :
    (ringOf (recordPosted j r simplex cls s) j.port j.ring).cqProducer = ((ringOf s j.port j.ring).cqProducer + 1) % 65536 := by
  simp [recordPosted]

@[simp] theorem recordPosted_jobs {simplex : Bool} {cls : Nat} : (recordPosted j r simplex cls s).jobs = s.jobs := by
  simp [recordPosted]

/-- Settles O24: the completion is its record posted and what follows it, and the slot reads the record's bytes, whose fields are known. -/
theorem completionRecord : Obligations.CompletionRecord := by
  intro j r simplex cls s hm hb hc hd q at_ hs t b
  have ht : t = afterRecord j cls (recordPosted j r simplex cls (withDigest j r s)) := completeJob_eq_posted hm hb hc
  have hbytes : b = complBytes s j q.cqProducer r simplex cls := by
    have hslot : recordSlot (withDigest j r s) j + 32 ≤ 2 ^ 64 := by rw [recordSlot_withDigest]; exact hs
    have hread := hostRead_recordPosted simplex cls hd hslot
    rw [recordSlot_withDigest, complBytes_withDigest, ringOf_withDigest] at hread
    rw [← hread, ← hostRead_afterRecord (j := j) cls, ← ht]
    rfl
  obtain ⟨hstatus, hflags, hcls, haux, hdigest, huser, hdetail, htime⟩ := complBytes_fields hd s j q.cqProducer simplex cls
  rw [hbytes]
  refine ⟨hstatus, hflags, hcls, haux, hdigest, huser, hdetail, htime, ?producer, ?jobs⟩
  case producer => rw [ht, ringOf_afterRecord, cqProducer_recordPosted, ringOf_withDigest]
  case jobs => rw [ht, afterRecord_jobs, recordPosted_jobs, withDigest_jobs]

end Sys2Proof.Machine
end

section
/-! PROOFS. The time base (R253 to R257): what a tick's side effects leave of it, its register commands, and its tick. -/

namespace Sys2Proof.Machine

variable {s t u : State}

/-! What the release of lodgers and the wear counters leave of the time base -/

/-- Whether a register key lies in block TIMEBASE, 0x1400 to 0x14FF (R259, R402). -/
abbrev tbKey (k : Nat) : Prop := k / 0x2000 = 0x14

/-- The time base, its registers among it, as it was. -/
structure TimeKept (s t : State) : Prop where
  time : t.time = s.time
  units : t.tbUnits = s.tbUnits
  regs : ∀ k, tbKey k → regGet t k = regGet s k

namespace TimeKept

theorem refl (s : State) : TimeKept s s := ⟨rfl, rfl, fun _ _ => rfl⟩

theorem trans (h : TimeKept s t) (hu : TimeKept t u) : TimeKept s u :=
  ⟨hu.time.trans h.time, hu.units.trans h.units, fun k hk => (hu.regs k hk).trans (h.regs k hk)⟩

theorem same (h : TimeKept s t) (htime : u.time = t.time) (hunits : u.tbUnits = t.tbUnits) (hreg : u.reg = t.reg) : TimeKept s u :=
  ⟨htime.trans h.time, hunits.trans h.units, fun k hk => by rw [← h.regs k hk, regGet, hreg, regGet]⟩

theorem ite {c : Prop} [Decidable c] (ht : TimeKept s t) (hu : TimeKept s u) : TimeKept s (if c then t else u) := by
  split
  · exact ht
  · exact hu

theorem foldl {α : Type} {f : State → α → State} (l : List α) (h : TimeKept s t) (hf : ∀ t x, TimeKept s t → TimeKept s (f t x)) :
    TimeKept s (l.foldl f t) := by
  induction l generalizing t with
  | nil => exact h
  | cons x l ih => exact ih (hf t x h)

theorem set {k v : Nat} (h : TimeKept s t) (hk : ¬ tbKey k) : TimeKept s (regSet k v t) where
  time := h.time
  units := h.units
  regs j hj := by
    have hne : j ≠ k := by rintro rfl; exact hk hj
    rw [regGet_regSet_ne _ _ hne, h.regs j hj]

theorem mod {k : Nat} {f : Nat → Nat} (h : TimeKept s t) (hk : ¬ tbKey k) : TimeKept s (regMod k f t) := h.set hk

theorem inc {k : Nat} (h : TimeKept s t) (hk : ¬ tbKey k) : TimeKept s (regInc k t) := h.mod hk

theorem raised (d : EvDest) (e : Ev) (h : TimeKept s t) : TimeKept s (raise d e t) :=
  h.same (raise_time d e t) (raise_tbUnits d e t) (raise_reg d e t)

theorem written (r a : Nat) (bs : List Byte) (h : TimeKept s t) : TimeKept s (realmWrite r a bs t) :=
  h.same (realmWrite_time ..) (realmWrite_tbUnits ..) (realmWrite_reg ..)

theorem faultRecorded (cls src : Nat) (h : TimeKept s t) : TimeKept s (recordFault cls src t) := by
  have hlast : TimeKept s (if 2 ≤ cls then regSet K.FAULT_LAST_source src t else t) := ite (h.set (by decide)) h
  exact ite (hlast.mod (by decide)) (ite (hlast.mod (by decide)) hlast)

theorem undCompared (x : UndJob) (h : TimeKept s t) : TimeKept s (undCompare x t) := by
  refine ite h (ite h (ite (h.same rfl rfl rfl) (.raised _ _ (.set ?_ (by decide)))))
  exact h.same rfl rfl rfl

theorem undCompleted (commit : Option Nat) (ok : Bool) (digest : List Byte) (h : TimeKept s t) :
    TimeKept s (undComplete commit ok digest t) := by
  cases commit with
  | none => exact h
  | some c => exact ite h (ite (.undCompared _ (h.same rfl rfl rfl)) (h.same rfl rfl rfl))

theorem limboDrained (r : Nat) (h : TimeKept s t) : TimeKept s (drainLimbo r t) := h.same rfl rfl rfl

theorem jobsSet (l : List Job) (h : TimeKept s t) : TimeKept s { t with jobs := l } := h.same rfl rfl rfl

theorem completed (j : Job) (r : JobResult) (simplex : Bool) (cls : Nat) (h : TimeKept s t) :
    TimeKept s (completeJob j r simplex cls t) := by
  have hdigest : TimeKept s (withDigest j r t) := ite (h.written ..) h
  have hclass : ∀ v, TimeKept s v → TimeKept s (if cls = 2 then recordFault 2 iodSteward { v with lastClass := 2 } else v) :=
    fun v hv => ite (.faultRecorded _ _ (hv.same rfl rfl rfl)) hv
  refine hclass _ (.undCompleted _ _ _ (.limboDrained _ (.jobsSet _ (ite ?dropped ?posted))))
  case dropped => exact hdigest.same rfl rfl rfl
  case posted => exact hdigest.same rfl rfl rfl

theorem segLeft (ctr r : Nat) (x : Nat × Nat) (h : TimeKept s t) : TimeKept s (leaveSeg ctr r x t) :=
  (h.written r x.1 ((List.range x.2).map fun i => Config.leftByte ctr (x.1 + i))).same rfl rfl rfl

theorem leftOpen (r : Nat) (l : List (Nat × Nat)) (h : TimeKept s t) : TimeKept s (leaveOpen r l t) :=
  .foldl l (h.same rfl rfl rfl) fun _ x h => h.segLeft t.freeCtr r x

theorem jobStopped (mode : Nat) (j : Job) (h : TimeKept s t) : TimeKept s (stopJob mode j t) := by
  have hleft : TimeKept s (leaveJob j t) := ite (h.leftOpen ..) h
  refine (TimeKept.inc (hleft.completed ..) ?_).same rfl rfl rfl
  split <;> decide

theorem lodgersStopped (mode : Nat) (all : Bool) (h : TimeKept s t) : TimeKept s (stopLodgers mode all t) :=
  h.foldl _ fun _ _ h => h.jobStopped ..

theorem fencesEnded (h : TimeKept s t) : TimeKept s (endFences t) :=
  h.foldl _ fun _ _ h => h.foldl _ fun _ _ h => h.completed ..

theorem undReleased (r : Nat) (h : TimeKept s t) : TimeKept s (undRelease r t) :=
  ite (.set (.set (h.same rfl rfl rfl) (by decide)) (by decide)) h

theorem memoryReleased (r : Nat) (h : TimeKept s t) : TimeKept s (releaseMemory r t) := h.same rfl rfl rfl

theorem realmSet (r : Nat) (f : Realm → Realm) (h : TimeKept s t) : TimeKept s (modRealm r f t) := h.same rfl rfl rfl

theorem activeSet (k v : Nat) (h : TimeKept s t) : TimeKept s (actSet k v t) := h.same rfl rfl rfl

theorem unitsUnmapped (r : Nat) (h : TimeKept s t) : TimeKept s (unmapUnits r t) := h.foldl _ fun _ k h => h.activeSet k 0

theorem realmReleased (cause r : Nat) (h : TimeKept s t) : TimeKept s (releaseRealm cause r t) :=
  .undReleased r (.activeSet _ _ (.unitsUnmapped r (.memoryReleased r (.realmSet _ _ (h.raised ..)))))

theorem lodgersReleased (cause mode : Nat) (h : TimeKept s t) : TimeKept s (releaseLodgers cause mode t) :=
  ite h (((h.lodgersStopped ..).fencesEnded.foldl _ fun _ _ h => h.realmReleased ..).same rfl rfl rfl)

theorem islSet (i : Isl) (v : Nat) (h : TimeKept s t) : TimeKept s (setIsl i v t) := by
  cases i with
  | a => exact (h.set (by decide)).set (by decide)
  | b => exact (h.set (by decide)).set (by decide)

theorem islRejoined (i : Isl) (pass : Bool) (h : TimeKept s t) : TimeKept s (rejoinIsl i pass t) := by
  refine ite h (ite (.raised _ _ (h.islSet ..)) (.raised _ _ (.faultRecorded _ _ (.raised _ _ ?single))))
  exact (h.islSet i 3).same (modIsl_time ..) (modIsl_tbUnits ..) (modIsl_reg ..)

/-- The release that a LIMP entry left to wait (R369) leaves the time base alone. -/
theorem limpReleased (h : TimeKept s t) : TimeKept s (limpRelease t) :=
  ite h (.islRejoined _ _ (.islRejoined _ _ ((h.lodgersReleased ..).same rfl rfl rfl)))

/-- The wear counters that grow with time (R396) leave the time base alone. -/
theorem worn (before after : Nat) (h : TimeKept s t) : TimeKept s (wearTime before after t) := by
  have hhours := fun f => h.mod (k := K.WEAR_POWER_hours) (f := f) (by decide)
  refine ite h (ite (hhours _) (.foldl _ (hhours _) fun v d hv => ite (.inc (hv.same rfl rfl rfl) ?_) hv))
  simp only [tbKey, K.WEAR_HOT_minutes, fieldKey]
  omega

theorem cuesRestarted (h : TimeKept s t) : TimeKept s (restartCues t) := h.foldl _ fun _ _ h => h.same rfl rfl rfl

end TimeKept

/-! Register commands -/

/-- The manager host's command to an open window does what the register's write does (R403). -/
theorem exec_manager {c : Instr} {p : Nat} {act : State → State} (hc : exec c s = .next (mgrWrite p act s))
    (hw : windowOpen s p = true) (hp : p = s.mgrPort) (h : act s = t) : exec c s = .next t := by
  rw [hc, ← h]
  simp [mgrWrite, hw, ← hp]

/-- A refusal sets its flag of TB_STATUS and tells the manager; nothing else changes (R254 to R257). -/
theorem tbRefuse_tells {ks : List Nat} {key : Nat} (code : Nat) (attn : Bool) (a0 a1 : Nat)
    (ht : t = { s with reg := t.reg }) (hk : RegsKept ks s t) (hkey : key ∈ ks) :
    Tells .manager ⟨code, 0, attn, 0x44C0, a0, a1, 0⟩ (tbRefuse key code attn a0 a1 t) fun u =>
      regGet u key = 1 ∧ u = { s with reg := u.reg } ∧ RegsKept ks s u := by
  refine ⟨regSet key 1 t, rfl, regGet_regSet_self .., ?_, kept_set hkey hk⟩
  rw [ht]
  rfl

theorem toSigned_toNat (x : BitVec 32) : toSigned 32 x.toNat = x.toInt := by
  have hx := x.isLt
  rw [toSigned, BitVec.toInt_eq_toNat_cond, Nat.mod_eq_of_lt hx]
  simp only [Int.ofNat_eq_natCast]
  split <;> split <;> omega

theorem toInt_ne_zero {ns : BitVec 32} (h : ns ≠ 0) : ns.toInt ≠ 0 := by
  rwa [Ne, ← BitVec.toInt_zero, BitVec.toInt_inj]

/-- A step is taken where none of the three reasons holds (R256). -/
theorem stepRefusal_none {d : Int} (hlim : d.natAbs ≤ jumpLimit s) (hdebt : s.time.debt = 0) (hstep : s.time.step = none)
    (hv : tbValid s = true) : stepRefusal d s = none := by
  simp [stepRefusal, Nat.not_lt.2 hlim, hdebt, hstep, hv]

theorem stepRefusal_limit {d : Int} (hlim : jumpLimit s < d.natAbs) : stepRefusal d s = some 0 := by
  simp [stepRefusal, hlim]

theorem stepRefusal_pending {d : Int} (hlim : d.natAbs ≤ jumpLimit s) (h : s.time.debt ≠ 0 ∨ s.time.step.isSome = true) :
    stepRefusal d s = some 1 := by
  simp [stepRefusal, Nat.not_lt.2 hlim, h]

theorem stepRefusal_invalid {d : Int} (hlim : d.natAbs ≤ jumpLimit s) (hdebt : s.time.debt = 0) (hstep : s.time.step = none)
    (hv : tbValid s = false) : stepRefusal d s = some 2 := by
  simp [stepRefusal, Nat.not_lt.2 hlim, hdebt, hstep, hv]

theorem tbStep_stored {ns : BitVec 32} (hns : ns ≠ 0) (h : stepRefusal ns.toInt s = none) :
    tbStep ns.toNat s = { s with time := { s.time with step := some ns.toInt } } := by
  simp only [tbStep, toSigned_toNat, if_neg (toInt_ne_zero hns), h]

theorem tbStep_refused {ns : BitVec 32} {why : Nat} (hns : ns ≠ 0) (h : stepRefusal ns.toInt s = some why) :
    tbStep ns.toNat s = tbRefuse K.TB_STATUS_step_refused 0x0402 true ns.toNat why s := by
  simp only [tbStep, toSigned_toNat, if_neg (toInt_ne_zero hns), h]

/-- Where a BASELINE finds 10^9 ns or more, or the block in drive, it is refused; drive is the first reason (R257). -/
theorem tbBaseline_refused (h : s.inDrive = true ∨ 1000000000 ≤ regGet s K.TB_BASE_NS_ns) :
    tbBaseline s = tbRefuse K.TB_STATUS_baseline_refused 0x0403 true (if s.inDrive then 0 else 1) 0 s := by
  cases hd : s.inDrive with
  | true => simp [tbBaseline, hd]
  | false =>
    have hns : 1000000000 ≤ regGet s K.TB_BASE_NS_ns := h.resolve_left (by simp [hd])
    simp [tbBaseline, hd, hns]

theorem tbBaseline_accepted (hd : s.inDrive = false) (hns : regGet s K.TB_BASE_NS_ns < 1000000000) :
    tbBaseline s = { s with time := { s.time with base := some (
      (regGet s K.TB_BASE_SEC_LO_sec + 2 ^ 32 * regGet s K.TB_BASE_SEC_HI_sec) * (1000000000 * 2 ^ 32) + regGet s K.TB_BASE_NS_ns * 2 ^ 32) } } := by
  simp only [tbBaseline, hd, Nat.not_le.2 hns, Bool.false_eq_true, if_false, addr64, pow_zero, one_mul]

/-- The pair is accepted within 1,000 ppm of nominal (R254). -/
theorem tbInc_accepted {int : Nat} (hlo : 2 ^ 33 ≤ int * 2 ^ 32 + regGet s K.TB_INC_FRAC_frac + 8589934)
    (hhi : int * 2 ^ 32 + regGet s K.TB_INC_FRAC_frac ≤ 2 ^ 33 + 8589934) :
    tbInc int s = { regSet K.TB_INC_INT_int int s with
      time := { s.time with incNext := some (int * 2 ^ 32 + regGet s K.TB_INC_FRAC_frac) } } := by
  rw [tbInc, if_pos (by simp only [hlo, hhi, decide_true, Bool.and_self])]
  rfl

theorem tbInc_refused {int : Nat} (h : int * 2 ^ 32 + regGet s K.TB_INC_FRAC_frac + 8589934 < 2 ^ 33 ∨
      2 ^ 33 + 8589934 < int * 2 ^ 32 + regGet s K.TB_INC_FRAC_frac) :
    tbInc int s = tbRefuse K.TB_STATUS_inc_refused 0x0401 false int (regGet s K.TB_INC_FRAC_frac) (regSet K.TB_INC_INT_int int s) := by
  have hout : ¬ (decide (int * 2 ^ 32 + regGet s K.TB_INC_FRAC_frac ≤ 2 ^ 33 + 8589934) &&
      decide (2 ^ 33 ≤ int * 2 ^ 32 + regGet s K.TB_INC_FRAC_frac + 8589934)) = true := by
    simp only [Bool.and_eq_true, decide_eq_true_eq]
    omega
  rw [tbInc, if_neg hout]

/-- A 32-bit write of TB_INC_FRAC by the manager host: one RW field over the whole word (R7, R259). -/
theorem exec_write_incFrac {p : Fin 4} (v : BitVec 64) (hw : windowOpen s p = true) (hp : p.val = s.mgrPort) :
    exec (.registerWrite p 0x1404 4 v) s = .next (regSet K.TB_INC_FRAC_frac (v.toNat % 2 ^ 32) s) := by
  have hrows : rowsAt 0x1404 = [⟨0x1404, 0x4, 1, 4, 1, 31, 0, .rw, 0, 7⟩] := by decide +kernel
  have hforeign : foreign s p 0x1404 = false := by simp [foreign, hp]
  have hplain : plainWrite p 0x1404 (v.toNat % 2 ^ 32) s = regSet K.TB_INC_FRAC_frac (v.toNat % 2 ^ 32) s := by
    simp [plainWrite, hrows, fieldWrite, heldField, winFieldKey, portOff, bitsAt, rowWidth]
  calc exec (.registerWrite p 0x1404 4 v) s = .next (writeAccess p 0x1404 4 v.toNat s) := rfl
    _ = .next (writeWord p 0x1404 (v.toNat % 2 ^ 32) s) := by simp [writeAccess, hw, goodAccess]
    _ = .next (plainWrite p 0x1404 (v.toNat % 2 ^ 32) s) := by rw [writeWord, hforeign]; rfl
    _ = _ := by rw [hplain]

/-! The tick -/

/-- The time base with a BASELINE loaded, before the event and the cues that follow it (R257). -/
def loaded (v : Nat) (s : State) : State :=
  regSet K.TB_STATUS_valid 1 (regMod K.TB_GEN_gen (fun g => (g + 1) % 2 ^ 32)
    { s with tbUnits := v, time := ⟨s.time.incNext.getD s.time.inc, none, none, none, 0⟩ })

theorem tickHead_loaded {v : Nat} (hb : s.time.base = some v) : (tickHead s).2 = true ∧ TimeKept (loaded v s) (tickHead s).1 := by
  constructor
  · simp only [tickHead, hb]
  · simp only [tickHead, hb]
    exact .raised _ _ (.cuesRestarted ((TimeKept.refl (loaded v s)).same rfl rfl rfl))

/-- The pending increment is in force at the tick, whatever else the tick finds (R254). -/
theorem tickHead_inc (s : State) : (tickHead s).1.time.inc = s.time.incNext.getD s.time.inc ∧ (tickHead s).1.time.incNext = none := by
  cases hb : s.time.base with
  | some v =>
    have htime := (tickHead_loaded hb).2.time
    rw [htime]
    exact ⟨rfl, rfl⟩
  | none =>
    simp only [tickHead, hb]
    split
    · exact ⟨rfl, rfl⟩
    · split <;> exact ⟨rfl, rfl⟩

/-- The time base after `n` counted ticks: its count and debt, and TB_STATUS.holding (R253, R255). -/
def counted (n : Nat) (s : State) : State :=
  let h := tickHead s
  let r := runTicks (max 1 h.1.time.inc) (if h.2 then n - 1 else n) h.1.tbUnits h.1.time.debt
  regSet K.TB_STATUS_holding (decide (r.2 ≠ 0)).toNat { h.1 with tbUnits := r.1, time := { h.1.time with debt := r.2 } }

/-- What follows the count in a tick leaves the time base alone. -/
theorem tick_counted {n : Nat} (hn : 0 < n) (hop : s.op ≠ .off) : TimeKept (counted n s) (tick n s) := by
  have hrun : ¬ (decide (s.op = .off) || decide (n = 0)) = true := by simp [hop, Nat.pos_iff_ne_zero.1 hn]
  rw [tick, if_neg hrun]
  exact .limpReleased (.worn _ _ ((TimeKept.refl (counted n s)).same rfl rfl rfl))

/-- The tick that loads a BASELINE counts nothing on top of it (R257). -/
theorem counted_loaded {v : Nat} (hb : s.time.base = some v) : TimeKept (regSet K.TB_STATUS_holding 0 (loaded v s)) (counted 1 s) := by
  obtain ⟨hload, htime, hunits, hregs⟩ := tickHead_loaded hb
  have hdebt : (tickHead s).1.time.debt = 0 := by rw [htime]; rfl
  have hr : runTicks (max 1 (tickHead s).1.time.inc) 0 (tickHead s).1.tbUnits 0 = (v, 0) := by
    simp [runTicks, hunits, loaded]
  simp only [counted, hload, hdebt, if_true, hr]
  refine ⟨?time, rfl, ?regs⟩
  case time => rw [regSet_time, regSet_time, htime]; rfl
  case regs =>
    intro k hk
    rw [regGet_regSet, regGet_regSet]
    exact ite_congr rfl (fun _ => rfl) fun _ => hregs k hk

/-! The obligations -/

/-- Settles O10: the written pair is held or refused by its distance from nominal, and the tick takes what is held. -/
theorem timeBaseIncrement : Obligations.TimeBaseIncrement := by
  refine ⟨?accepted, ?refused, ?fraction, ?tick, rfl⟩
  case accepted =>
    intro p int s hw hp hlo hhi
    refine ⟨_, exec_manager rfl hw hp (tbInc_accepted hlo hhi), ?int, rfl, ?kept⟩
    case int => exact regGet_regSet_self ..
    case kept => exact kept_reg rfl (kept_set (by simp) (kept_refl _ s))
  case refused =>
    intro p int s hw hp h
    refine ⟨_, exec_manager rfl hw hp (tbInc_refused h), ?_⟩
    exact tbRefuse_tells _ _ _ _ rfl (kept_set (by simp) (kept_refl _ s)) (by simp)
  case fraction =>
    intro p v s hw hp
    exact ⟨_, exec_write_incFrac v hw hp, regGet_regSet_self .., rfl, kept_set (by simp) (kept_refl _ s)⟩
  case tick =>
    intro n s hn hop
    obtain ⟨hinc, hnext⟩ := tickHead_inc s
    have htime := (tick_counted hn hop).time
    refine ⟨tick n s, rfl, ?inc, ?incNext⟩
    case inc => rw [htime]; exact hinc
    case incNext => rw [htime]; exact hnext

/-- Settles O11: the refusal is found by its first reason, and a step without one is stored. -/
theorem timeBaseStep : Obligations.TimeBaseStep := by
  refine ⟨?stored, ?zero, ?refused, ?reset⟩
  case stored =>
    intro p ns s hw hp hns hlim hdebt hstep hv
    exact exec_manager rfl hw hp (tbStep_stored hns (stepRefusal_none hlim hdebt hstep hv))
  case zero =>
    intro p s hw hp
    exact exec_manager rfl hw hp rfl
  case refused =>
    intro p ns s why hw hp hns hwhy
    have hr : stepRefusal ns.toInt s = some why := by
      obtain ⟨hlim, rfl⟩ | ⟨hlim, hpend, rfl⟩ | ⟨hlim, hdebt, hstep, hv, rfl⟩ := hwhy
      · exact stepRefusal_limit hlim
      · exact stepRefusal_pending hlim hpend
      · exact stepRefusal_invalid hlim hdebt hstep hv
    exact ⟨_, exec_manager rfl hw hp (tbStep_refused hns hr), tbRefuse_tells _ _ _ _ rfl (kept_refl _ s) (by simp)⟩
  case reset => decide +kernel

/-- Settles O12: the command stores the time or is refused, and the tick that loads it leaves it as loaded. -/
theorem timeBaseBaseline : Obligations.TimeBaseBaseline := by
  refine ⟨?stored, ?refused, ?tick⟩
  case stored =>
    intro p s hw hp hd hns
    exact exec_manager rfl hw hp (tbBaseline_accepted hd hns)
  case refused =>
    intro p s hw hp h
    refine ⟨_, exec_manager rfl hw hp (tbBaseline_refused h), ?_⟩
    exact tbRefuse_tells _ _ _ _ rfl (kept_refl _ s) (by simp)
  case tick =>
    intro v s hop hb
    obtain ⟨htime, hunits, hreg⟩ := (counted_loaded hb).trans (tick_counted Nat.one_pos hop)
    refine ⟨tick 1 s, rfl, hunits, ?debt, ?base, ?step, ?valid, ?holding, ?gen⟩
    case debt => rw [htime]; rfl
    case base => rw [htime]; rfl
    case step => rw [htime]; rfl
    case valid =>
      rw [hreg _ (by decide), regGet_regSet_ne _ _ (by decide), loaded, regGet_regSet_self]
    case holding => rw [hreg _ (by decide), regGet_regSet_self]
    case gen =>
      rw [hreg _ (by decide), regGet_regSet_ne _ _ (by decide), loaded, regGet_regSet_ne _ _ (by decide), regGet_regMod_self]
      rfl

end Sys2Proof.Machine
end

section
/-! PROOFS. Soundness of a step: the commands whose meaning takes more than one shared operation, then every command, then the step. -/

namespace Sys2Proof.Machine

variable {s t : State}

/-- A command that answers with a sound state leaves a sound state. -/
theorem next_sound {u : State} (h : Sound u) (e : (.next u : Host.Outcome State Fault Refusal) = .next t) : Sound t := by
  injection e with e
  exact e ▸ h

/-! Jobs -/

/-- A ROOMS command of one subtype is a job command where the job is of it. -/
theorem roomsCommand_sound {sub a : Nat} {run : JobRun} {pre : State → Job → PreOut} {work : Job → State → State × Except Fail JobResult}
    (hw : ∀ j s, Sound s → Sound (work j s).1) (hS : Sound s) :
    Sound (match findJob s a with
      | some j => if subIs j sub then jobCommand [0x07] a run bodyFaults (roomsPre pre) work once s else s
      | none => s) := by
  split
  · exact sound_ite (jobCommand_sound hw hS) hS
  · exact hS

/-- A replayed job of an engine runs behind its golden workloads. -/
theorem replayCommand_sound {es types : List Nat} {a : Nat} {run : JobRun} {pre : State → Job → PreOut}
    {work : Job → State → State × Except Fail JobResult} (hw : ∀ j s, Sound s → Sound (work j s).1) (hS : Sound s) :
    Sound (match findJob s a with
      | some j => if replayIs true j then
          engineRun es a run (fun run s => jobCommand types a run bodyFaults pre work engineDuplex s) s else s
      | none => s) := by
  split
  · exact sound_ite (engineRun_sound (fun _ _ h => jobCommand_sound hw h) hS) hS
  · exact hS

/-- A job whose checks fail ends; one whose checks pass goes on soundly. -/
theorem checksFirst_sound {j : Job} {u : State} (hu : Sound u) (hS : Sound s) :
    Sound (match headFail s j (bodyFaults j), digestFail s j with
      | some f, _ => failJob j f s
      | none, some f => failJob j f s
      | none, none => u) := by
  split
  · exact failJob_sound hS
  · exact failJob_sound hS
  · exact hu

theorem execFence_sound {a : Nat} (hS : Sound s) (e : execFence a s = .next t) : Sound t := by
  refine next_sound ?_ e
  split
  · exact hS
  · refine sound_ite hS (checksFirst_sound (sound_ite (failJob_sound hS) ?_) hS)
    exact modJob_sound (modRealm_sound hS) (fun _ => rfl) fun _ h => h

theorem execFenceComplete_sound {a : Nat} (hS : Sound s) (e : execFenceComplete a s = .next t) : Sound t := by
  refine next_sound ?_ e
  split
  · exact hS
  · exact sound_ite (okJob_sound hS) hS

theorem execBarrier_sound {a : Nat} (hS : Sound s) (e : execBarrier a s = .next t) : Sound t := by
  refine next_sound ?_ e
  split
  · exact hS
  · exact sound_ite hS (checksFirst_sound (okJob_sound hS) hS)

theorem execDormantBarrier_sound {a : Nat} (hS : Sound s) (e : execDormantBarrier a s = .next t) : Sound t := by
  refine next_sound ?_ e
  split
  · exact hS
  · refine sound_ite hS (sound_ite (drainStep_sound hS) (sound_ite hS (checksFirst_sound (drainStep_sound ?_) hS)))
    exact modJob_sound hS (fun _ => rfl) fun _ h => h

/-! The set-up window and the ports -/

theorem execDoorbellPoll_sound {p : Fin 4} {ws : List HostWrite} {ok : Bool} (hS : Sound s) (e : execDoorbellPoll p ws ok s = .next t) : Sound t :=
  have hw : Sound (applyWrites ws s) := applyWrites_sound hS
  next_sound (sound_ite hw (sound_ite (pollPage_sound hw) (pollError_sound hw))) e

theorem execPostStreamRead_sound {ws : List HostWrite} (hS : Sound s) (e : execPostStreamRead ws s = .next t) : Sound t :=
  have hw : Sound (applyWrites ws s) := applyWrites_sound hS
  next_sound (sound_ite hw (foldl_sound _ hw fun _ _ h => sound_ite (pollPost_sound h) h)) e

theorem drainAll_sound {p : Nat} : ∀ (n : Nat) {s : State}, Sound s → Sound (drainAll p n s)
  | 0, _, hS => hS
  | n + 1, s, hS => by
    have h1 : Sound (drainOne p s).1 := drainOne_sound hS
    rw [drainAll]
    split
    · rename_i heq; rw [heq] at h1; exact h1
    · rename_i heq; rw [heq] at h1; exact drainAll_sound n h1

theorem execIngressDrain_sound {p : Fin 30} {ws : List HostWrite} (hS : Sound s) (e : execIngressDrain p ws s = .next t) : Sound t := by
  have hw : Sound (applyWrites ws s) := applyWrites_sound hS
  refine next_sound (sound_ite (refreshHold_sound ?_) hw) e
  exact drainAll_sound _ hw

theorem execSensorHealth_sound (hS : Sound s) (e : execSensorHealth s = .next t) : Sound t := by
  refine next_sound ?_ e
  split
  · exact hS
  · extract_lets _ u
    have hu : Sound u := hS
    apply foldl_sound
    · exact hu
    · intro v p hv
      exact sound_ite (raise_sound (modIng_sound hv)) (modIng_sound hv)

theorem execTbIncCommit_sound {p : Fin 4} {n : BitVec 8} (hS : Sound s) (e : execTbIncCommit p n s = .next t) : Sound t :=
  next_sound (mgrWrite_sound (act := tbInc n.toNat) (fun _ h => tbInc_sound h) hS) e

/-! Memory, sensors and cues -/

theorem demoteSome_sound {r d : Nat} : ∀ (l : List Nat) {s : State}, Sound s → Sound (demoteSome r d l s)
  | [], _, hS => hS
  | _ :: l, _, hS => sound_ite hS (demoteSome_sound l (sound_ite (moveRoom_sound hS) hS))

theorem execCellarInitUnit_sound {n : Nat} (hS : Sound s) (e : execCellarInitUnit n s = .next t) : Sound t :=
  have hm : Sound (modMem (fun m => { m with initUnits := m.initUnits ++ [n] }) s) := hS
  next_sound (sound_ite hS (sound_ite (regSet_sound hm) hm)) e

theorem execDetectionLimit_sound {d : Fin 4} {c : Fin 24} {a : Option (Fin 8)} (hS : Sound s) (e : execDetectionLimit d c a s = .next t) :
    Sound t := by
  refine next_sound ?_ e
  split
  · exact sound_ite hS (withdrawArray_sound hS)
  · exact sound_ite hS (withdrawCluster_sound hS)

theorem execFlowSensor_sound (hS : Sound s) (e : execFlowSensor s = .next t) : Sound t := by
  refine next_sound ?_ e
  split
  · exact sound_ite (raiseFault_sound hS) hS
  · exact hS

theorem execFlowStop_sound (hS : Sound s) (e : execFlowStop s = .next t) : Sound t := by
  refine next_sound ?_ e
  split
  · exact sound_ite (enterLimp_sound hS) hS
  · exact hS

theorem execRefclkSwitch_sound {b : Bool} (hS : Sound s) (e : execRefclkSwitch b s = .next t) : Sound t := by
  refine next_sound (sound_ite hS (raiseFault_sound ?_)) e
  exact hS

theorem execDormantInletSample_sound {x : Int} (hS : Sound s) (e : execDormantInletSample x s = .next t) : Sound t := by
  refine next_sound (sound_ite ?_ hS) e
  exact hS

theorem execUndervoltage_sound {r : Rail} (hS : Sound s) (e : execUndervoltage r s = .next t) : Sound t := by
  refine next_sound ?_ e
  cases r with
  | cd k => exact removeDie_sound hS
  | iod => exact classD_sound hS
  | h1v1 => exact classD_sound hS
  | q0v4 => exact classD_sound hS
  | sia => exact sound_ite (stopIsl_sound hS) hS
  | sib => exact sound_ite (stopIsl_sound hS) hS

theorem execCuePulseEnd_sound {g : Fin 16} (hS : Sound s) (e : execCuePulseEnd g s = .next t) : Sound t := by
  refine next_sound ?_ e
  split
  · exact sound_ite (modCue_sound hS) hS
  · exact hS

/-! Islands -/

theorem execHaltNotice_sound {i : Isl} (hS : Sound s) (e : execHaltNotice i s = .next t) : Sound t :=
  have hi := modIsl_sound (i := i) (f := fun x => { x with notice := false }) hS
  next_sound (sound_ite hS (sound_ite (orderRole_sound hi) hi)) e

theorem execIslandVerdict_sound {i : Isl} {v : CoreVerdict} (hS : Sound s) (e : execIslandVerdict i v s = .next t) : Sound t := by
  have hi := modIsl_sound (i := i) (f := fun x => { x with lost := false, missed := 0 }) hS
  refine next_sound (sound_ite hS ?_) e
  cases v with
  | bothGood => exact reportD_sound (raiseFault_sound (setIsl_sound hi))
  | mainBroken => exact reportD_sound (singleIsl_sound hi)
  | checkerBroken => exact reportD_sound (singleIsl_sound hi)
  | bothBroken => exact reportD_sound (failIsl_sound hi)

theorem execIslandLatentLimit_sound {i : Isl} (hS : Sound s) (e : execIslandLatentLimit i s = .next t) : Sound t := by
  refine next_sound (sound_ite (haltIsl_sound ?_) hS) e
  exact hS

theorem execIslandReset_sound {i : Isl} (hS : Sound s) (e : execIslandReset i s = .next t) : Sound t :=
  have hi := modIsl_sound (i := i) (f := fun x => { x with resetLow := true }) hS
  have hs := stopIsl_sound (i := i) hi
  next_sound (sound_ite hi (sound_ite (islandsFail_sound hs) hs)) e

theorem execIslandResetRelease_sound {i : Isl} {ok : Bool} (hS : Sound s) (e : execIslandResetRelease i ok s = .next t) : Sound t := by
  have hi := modIsl_sound (i := i) (f := fun x => { x with resetLow := false }) hS
  refine next_sound (sound_ite hS (sound_ite hi ?_)) e
  refine sound_ite (setIsl_sound ?fresh) (failIsl_sound ?fresh)
  exact sound_ite (orderRole_sound (modIsl_sound hi)) (modIsl_sound hi)

theorem execDebugSession_sound {l : DebugLicence} (hS : Sound s) (e : execDebugSession l s = .next t) : Sound t := by
  refine next_sound (sound_ite hS (sound_ite (raise_sound (regSet_sound (regSet_sound ?_))) (raise_sound hS))) e
  exact hS

theorem execDebugAction_sound {x : DebugTarget} {act : DebugAct} (hS : Sound s) (e : execDebugAction x act s = .next t) : Sound t := by
  refine next_sound (sound_ite hS ?_) e
  cases x with
  | island i => exact sound_ite (dbgIsland_sound hS) hS
  | steward d =>
    refine sound_ite hS ?_
    cases act with
    | readReg | readMem => exact dbgInspect_sound hS
    | _ => exact hS

theorem execDebugSessionClose_sound (hS : Sound s) (e : execDebugSessionClose s = .next t) : Sound t := by
  refine next_sound (sound_ite hS (raise_sound (regSet_sound (regSet_sound ?_)))) e
  exact hS

/-! Links -/

theorem execReplayLimit_sound {l : Fin 8} {f r : BitVec 68} (hS : Sound s) (e : execReplayLimit l f r s = .next t) : Sound t :=
  have hj := judgeLink_sound (loseLanes_sound (loseLanes_sound hS))
  next_sound (sound_ite hS (sound_ite (startRetrain_sound hj) hj)) e

theorem execMgmtSegmentBreak_sound {g : Fin 7} (hS : Sound s) (e : execMgmtSegmentBreak g s = .next t) : Sound t :=
  have hb : Sound { s with boot := { s.boot with broken := s.boot.broken ++ [g.val] } } := hS
  next_sound (sound_ite hS (sound_ite (recordA_sound hb) (foldl_sound _ hb fun _ _ h => loseNode_sound h))) e

/-! Resets and the boot -/

theorem execMrstRelease_sound {p : Fin 4} {b : Bool} (hS : Sound s) (e : execMrstRelease p b s = .next t) : Sound t :=
  have hb : Sound { s with boot := { s.boot with mrstLow := false, railsGood := b }, mgrPort := p.val } := hS
  next_sound (sound_ite hS (sound_ite (startBoot_sound hb) hb)) e

theorem execRailsGood_sound (hS : Sound s) (e : execRailsGood s = .next t) : Sound t := by
  refine next_sound (sound_ite hS (startBoot_sound ?_)) e
  exact hS

theorem execMrstAssert_sound (hS : Sound s) (e : execMrstAssert s = .next t) : Sound t := by
  have hoff : Sound { resetAll wearKeys { s with boot := { s.boot with mrstLow := true } } with op := .off } :=
    resetAll_sound (s := { s with boot := { s.boot with mrstLow := true } }) nofun hS
  refine next_sound ?_ e
  dsimp only
  split
  · rename_i h
    exact sound_congr hoff rfl rfl rfl rfl rfl rfl rfl h rfl
  · exact hoff

/-- Wear counters written back one by one give a register file in canonical form. -/
theorem wearRegs_canon (l : List (Nat × Nat)) {r : List (Nat × Nat)} (h : tcanon resetOf r = true) :
    tcanon resetOf (l.foldl (fun r e => tset (resetOf e.1) e.1 e.2 r) r) = true := by
  induction l generalizing r with
  | nil => exact h
  | cons x l ih => exact ih (tcanon_tset x.1 x.2 h)

theorem execPowerRemoval_sound (hS : Sound s) (e : execPowerRemoval s = .next t) : Sound t := by
  refine next_sound ?_ e
  exact ⟨⟨wearRegs_canon _ rfl, rfl, rfl, rfl⟩, ⟨hS.2.1.1, rfl, rfl⟩, ⟨List.Pairwise.nil, fun _ h => nomatch h⟩, nofun⟩

theorem execWake_sound (hS : Sound s) (e : execWake s = .next t) : Sound t := by
  refine next_sound ?_ e
  split
  · exact hS
  · rename_i h
    have hop : s.op = .dormant := by
      by_contra hne
      exact h (by simp [hne])
    have hr : Sound (resetAll (wearKeys ++ wakeKeys) s) :=
      sound_congr (resetAll_sound (keys := wearKeys ++ wakeKeys) (o := .dormant) nofun hS) rfl rfl rfl rfl rfl rfl rfl hop rfl
    exact startBoot_sound hr

theorem execRomSelfTest_sound {a b : Bool} (hS : Sound s) (e : execRomSelfTest a b s = .next t) : Sound t := by
  refine next_sound (sound_ite hS ?_) e
  refine sound_ite (sound_ite (bootFail_sound ?set) (bootFail_sound ?set)) (sound_ite ?set (raiseFault_sound ?set))
  exact regSet_sound (regSet_sound hS)

theorem execBootSlot_sound {i : Fin 2} {x : SlotImage} (hS : Sound s) (e : execBootSlot i x s = .next t) : Sound t := by
  refine next_sound (sound_ite hS ?_) e
  split
  · exact takeSlot_sound hS
  · exact hS
  · exact bootFail_sound hS

theorem execSibFirmwareVerify_sound {x : RingLoad} (hS : Sound s) (e : execSibFirmwareVerify x s = .next t) : Sound t := by
  refine next_sound (sound_ite hS (toPhase_sound (sound_ite ?_ (raiseFault_sound (regSet_sound ?_))))) e <;> exact hS

theorem powerDies_sound (hS : Sound s) : Sound (powerDies s) :=
  foldl_sound _ (show Sound { s with boot := { s.boot with loaded := true } } from hS) fun _ _ h => sound_ite h (followRail_sound h)

theorem execStewardLoad_sound (hS : Sound s) (e : execStewardLoad s = .next t) : Sound t := by
  refine next_sound (sound_ite hS (sound_ite (classD_sound ?_) (sound_ite (powerDies_sound ?_) (toPhase_sound ?_)))) e <;> exact hS

theorem execLinkTrainingDone_sound {es : List EndAnn} {ids : List (BitVec 128)} {f r : List (BitVec 68)} (hS : Sound s)
    (e : execLinkTrainingDone es ids f r s = .next t) : Sound t := by
  refine next_sound (sound_ite hS (toPhase_sound (foldl_sound _ (foldl_sound _ (foldl_sound _ ?_ ?train) ?topo) ?hbmStacks))) e
  · exact hS
  case train => exact fun _ _ h => sound_ite (trainFull_sound h) h
  case topo => exact fun _ _ h => regSet_sound (regSet_sound (regSet_sound h))
  case hbmStacks => exact fun _ _ h => foldl_sound _ h fun _ _ h => regSet_sound h

theorem execManifestCheck_sound {m : Manifest} (hS : Sound s) (e : execManifestCheck m s = .next t) : Sound t :=
  next_sound (sound_ite hS (sound_ite (bootFail_sound hS) (sound_ite (passManifest_sound hS) (failManifest_sound hS)))) e

theorem execMemoryTrainingDone_sound {l : List (Fin 8)} {b : Bool} (hS : Sound s) (e : execMemoryTrainingDone l b s = .next t) : Sound t := by
  have hd : Sound (l.foldl (fun s h => removeDie (h.val / 2) 0 s) (toPhase 6 s)) :=
    foldl_sound _ (toPhase_sound hS) fun _ _ h => removeDie_sound h
  refine next_sound (sound_ite hS (sound_ite (recordFault_sound ?_) hd)) e
  exact hd

theorem execBootRehearsalDone_sound {l : List (Fin 4 × Fin 24 × Fin 8)} {es : List (Fin 4)} (hS : Sound s)
    (e : execBootRehearsalDone l es s = .next t) : Sound t := by
  refine next_sound (sound_ite hS ?_) e
  refine show Sound _ from foldl_sound es (foldl_sound _ (foldl_sound l (toPhase_sound hS) ?arrays) ?done) ?engines
  case arrays => exact fun _ _ h => withdrawArray_sound h
  case done => exact fun _ _ h => sound_ite (foldl_sound _ h fun _ _ h => regSet_sound h) h
  case engines => exact fun _ _ h => removeEngine_sound h

theorem execHostWindowsReady_sound (hS : Sound s) (e : execHostWindowsReady s = .next t) : Sound t := by
  refine next_sound ?_ e
  refine sound_ite (setOp_sound ?_ nofun) (sound_ite ?_ hS)
  · exact regSet_sound (k := K.BOOT_STATUS_phase) (v := 8) (regSet_sound hS)
  · exact hS

/-! The step -/

theorem exec_sound {c : Instr} (hS : Sound s) (e : exec c s = .next t) : Sound t := by
  cases c with
  | graph | step | prefill => exact next_sound (jobCommand_sound (fun _ _ h => runGraph_sound h) hS) e
  | fuse => exact next_sound (fuseJob_sound hS) e
  | fuseReplay => exact next_sound (replayCommand_sound (fun _ _ h => fuseReplayWork_sound h) hS) e
  | plan => exact next_sound (planJob_sound hS) e
  | planReplay => exact next_sound (replayCommand_sound (fun _ _ h => planReplayWork_sound h) hS) e
  | move => exact next_sound (jobCommand_sound (fun _ _ h => moveWork_sound h) hS) e
  | roomsCreate => exact next_sound (roomsCommand_sound (fun _ _ h => createWork_sound h) hS) e
  | roomsFork => exact next_sound (roomsCommand_sound (fun _ _ h => forkWork_sound h) hS) e
  | roomsTruncate => exact next_sound (roomsCommand_sound (fun _ _ h => truncateWork_sound h) hS) e
  | roomsFree => exact next_sound (roomsCommand_sound (fun _ _ h => cutTable_sound h) hS) e
  | roomsLoad => exact next_sound (roomsCommand_sound (fun _ _ h => loadWork_sound h) hS) e
  | roomsSave => exact next_sound (roomsCommand_sound (fun _ _ h => saveWork_sound h) hS) e
  | roomsPlace => exact next_sound (roomsCommand_sound (fun _ _ h => placeWork_sound h) hS) e
  | curtain => exact next_sound (curtainJob_sound hS) e
  | curtainSwap => exact next_sound (curtainSwap_sound hS) e
  | fence => exact execFence_sound hS e
  | fenceComplete => exact execFenceComplete_sound hS e
  | digestCheck => exact next_sound (jobCommand_sound (fun _ _ h => digestCheckWork_sound h) hS) e
  | lodge => exact next_sound (jobCommand_sound (fun _ _ h => lodgeWork_sound h) hS) e
  | recallGraceEnd => exact next_sound (graceEnd_sound hS) e
  | recallRestore => exact next_sound (recallRestore_sound hS) e
  | recallDone => exact next_sound (recallDone_sound hS) e
  | barrier => exact execBarrier_sound hS e
  | dormantBarrier => exact execDormantBarrier_sound hS e
  | mapUpdate => exact next_sound (jobCommand_sound (fun _ _ h => h) hS) e
  | mapPublish => exact next_sound (mapPublish_sound hS) e
  | doorbellPoll => exact execDoorbellPoll_sound hS e
  | statusBlockWrite => exact next_sound (sound_ite (writeStatus_sound hS) hS) e
  | hostEnable | hostDisable => exact next_sound (ownWrite_sound (fun _ h => hostCtrl_sound h) hS) e
  | ringEnable | ringDisable => exact next_sound (ownWrite_sound (fun _ h => ringCtrl_sound h) hS) e
  | eventRingEnable | eventRingDisable => exact next_sound (ownWrite_sound (fun _ h => evtCtrl_sound h) hS) e
  | ethTxRingEnable => exact next_sound (mgrWrite_sound (fun _ h => ethTxCtrl_sound h) hS) e
  | ethTxFrame => exact next_sound (ethTx_sound (applyWrites_sound hS)) e
  | portEnable | portDisable => exact next_sound (mgrWrite_sound (fun _ h => setPort_sound h) hS) e
  | tbIncCommit => exact execTbIncCommit_sound hS e
  | tbStep => exact next_sound (mgrWrite_sound (fun _ h => tbStep_sound h) hS) e
  | tbBaseline => exact next_sound (mgrWrite_sound (fun _ h => tbBaseline_sound h) hS) e
  | tbSnap => exact next_sound (mgrWrite_sound (fun _ h => tbSnap_sound h) hS) e
  | lnkRetrainRequest => exact next_sound (sound_ite (lnkRequest_sound hS) hS) e
  | attestQuote | attestCertificate => exact next_sound (ownWrite_sound (fun _ h => attCtrl_sound h) hS) e
  | attestDone => exact next_sound (attDone_sound hS) e
  | understudyEnable | understudyPromote | understudyOrphan => exact next_sound (mgrWrite_sound (fun _ h => undCtrl_sound h) hS) e
  | undOrphanTimeout => exact next_sound (sound_ite (orphan_sound hS) hS) e
  | w1cWrite => exact next_sound (sound_ite (writeAccess_sound hS) hS) e
  | rcRead => exact next_sound (readAccess_sound hS) e
  | registerWrite => exact next_sound (writeAccess_sound hS) e
  | configRequest => exact next_sound (configRequest_sound hS) e
  | timeBaseTick => exact next_sound (tick_sound hS) e
  | cueEdge => exact next_sound (sound_ite (fireEdge_sound hS) hS) e
  | cuePulseEnd => exact execCuePulseEnd_sound hS e
  | frameStart => exact next_sound (startFrame_sound hS) e
  | sensorHealth => exact execSensorHealth_sound hS e
  | csiPacket => exact next_sound (sound_ite (csiPacket_sound hS) hS) e
  | ethRxFrame => exact next_sound (sound_ite (ethRx_sound hS) hS) e
  | pauseFrameRx => exact next_sound (sound_ite (modMac_sound hS) hS) e
  | canFrame => exact next_sound (sound_ite (canRx_sound hS) hS) e
  | canBusOff => exact next_sound (sound_ite (raiseFault_sound hS) hS) e
  | spiTrigger => exact next_sound (spiTrigger_sound hS) e
  | spiTransactionEnd => exact next_sound (sound_ite (spiEnd_sound hS) hS) e
  | captureEdge => exact next_sound (captureEdge_sound hS) e
  | pauseRepeat => exact next_sound (sound_ite (sendPause_sound hS) hS) e
  | ingressDrain => exact execIngressDrain_sound hS e
  | testLineCheck => exact next_sound (testCheck_sound hS) e
  | postStreamRead => exact execPostStreamRead_sound hS e
  | fusionAdmission => exact next_sound (fusionAdmission_sound hS) e
  | fusionResult => exact next_sound (fusionResult_sound hS) e
  | egoAdmission => exact next_sound (egoAdmission_sound hS) e
  | planAdmission => exact next_sound (planAdmission_sound hS) e
  | planSearchEnd => exact next_sound (planSearchEnd_sound hS) e
  | planRecheck => exact next_sound (planRecheck_sound hS) e
  | streamMissing => exact next_sound (streamMissing_sound hS) e
  | goldenWorkload => exact next_sound (goldenWorkload_sound hS) e
  | tileIssue => exact next_sound (issueTile_sound hS) e
  | tileRetire => exact next_sound (retireTile_sound hS) e
  | rehearsal => exact next_sound (startRehearsal_sound hS) e
  | rehearsalEnd => exact next_sound (endRehearsal_sound hS) e
  | rehearsalTableReload => exact next_sound (modEngine_sound hS) e
  | detectionLimit => exact execDetectionLimit_sound hS e
  | keepwarmLoop => exact next_sound (keepWarm_sound hS) e
  | scrubGranule => exact next_sound (scrub_sound hS) e
  | memErased => exact next_sound (markErased_sound hS) e
  | roomPromote => exact next_sound (promoteRoom_sound hS) e
  | roomDemote => exact next_sound (sound_ite (demoteSome_sound _ hS) hS) e
  | cellarInitUnit => exact execCellarInitUnit_sound hS e
  | duplexCompare => exact next_sound (sound_ite (compare_sound hS) hS) e
  | dpxWaitTimeout => exact next_sound (sound_ite (waitTimeout_sound hS) hS) e
  | duplexVerdict | duplexSplit | extendedTestDone => exact next_sound (decideNow_sound hS) e
  | islandHeartbeat => exact next_sound (sound_ite hS (sound_ite (modIsl_sound hS) (modIsl_sound hS))) e
  | islandLost => exact next_sound (sound_ite hS (loseIsl_sound hS)) e
  | haltNotice => exact execHaltNotice_sound hS e
  | islandMismatch => exact next_sound (mismatch_sound hS) e
  | signatureWindowClose => exact next_sound (windowClose_sound hS) e
  | islandVerdict => exact execIslandVerdict_sound hS e
  | islandLatent => exact next_sound (latent_sound hS) e
  | islandLatentLimit => exact execIslandLatentLimit_sound hS e
  | selfTestSlice => exact next_sound (sound_ite hS (singleIsl_sound hS)) e
  | debugSession => exact execDebugSession_sound hS e
  | debugAction => exact execDebugAction_sound hS e
  | flitReceive => exact next_sound (receiveFlit_sound hS) e
  | replayLimit => exact execReplayLimit_sound hS e
  | laneErrorThreshold => exact next_sound (laneErrors_sound hS) e
  | laneSpared => exact next_sound (spareLane_sound hS) e
  | linkNarrowed => exact next_sound (sound_ite hS (startRetrain_sound (stepDir_sound (stepDir_sound hS)))) e
  | linkRetrain => exact next_sound (endRetrain_sound hS) e
  | mgmtSegmentBreak => exact execMgmtSegmentBreak_sound hS e
  | partialReset => exact next_sound (partialReset_sound hS) e
  | partialResetRejoin => exact next_sound (sound_ite hS (gateOr_sound (restoreDie_sound hS) hS)) e
  | mrstRelease => exact execMrstRelease_sound hS e
  | mrstAssert => exact execMrstAssert_sound hS e
  | bootSlot => exact execBootSlot_sound hS e
  | sibFirmwareVerify => exact execSibFirmwareVerify_sound hS e
  | stewardLoad => exact execStewardLoad_sound hS e
  | linkTrainingDone => exact execLinkTrainingDone_sound hS e
  | manifestCheck => exact execManifestCheck_sound hS e
  | memoryTrainingDone => exact execMemoryTrainingDone_sound hS e
  | bootRehearsalDone => exact execBootRehearsalDone_sound hS e
  | hostWindowsReady => exact execHostWindowsReady_sound hS e
  | bootResume => exact next_sound (sound_ite (toPhase_sound (powerDies_sound hS)) hS) e
  | perstAssert => exact next_sound (sound_ite hS (modPort_sound (resetPort_sound hS))) e
  | functionLevelReset => exact next_sound (sound_ite (resetPort_sound hS) hS) e
  | busMasterEnableFall => exact next_sound (masterFall_sound hS) e
  | islandReset => exact execIslandReset_sound hS e
  | wake => exact execWake_sound hS e
  | undervoltage => exact execUndervoltage_sound hS e
  | refclkSysLoss => exact next_sound (classD_sound hS) e
  | refclkSwitch => exact execRefclkSwitch_sound hS e
  | islandClockLoss => exact next_sound (sound_ite (stopIsl_sound hS) hS) e
  | avsFault => exact next_sound (sound_ite (holdLevels_sound (modTherm_sound hS)) hS) e
  | avsConfirmTimeout => exact next_sound (orderRemoval_sound hS) e
  | sensorSample => exact next_sound (sample_sound hS) e
  | thermalTrip => exact next_sound (sound_ite (fireOnce_sound (fun _ h => classDWith_sound h) hS) hS) e
  | thermalThrottle => exact next_sound (throttle_sound hS) e
  | flowStop => exact execFlowStop_sound hS e
  | limpExit => exact next_sound (limpExit_sound hS) e
  | flowSensor => exact execFlowSensor_sound hS e
  | wearWrite => exact next_sound (sound_ite hS (writeWear_sound hS)) e
  | dormantInletSample => exact execDormantInletSample_sound hS e
  | powerRemoval => exact execPowerRemoval_sound hS e
  | perstRelease => exact next_sound (modPort_sound hS) e
  | islandResetRelease => exact execIslandResetRelease_sound hS e
  | railsGood => exact execRailsGood_sound hS e
  | romSelfTest => exact execRomSelfTest_sound hS e
  | debugSessionClose => exact execDebugSessionClose_sound hS e
  | _ => -- RECALL, whose name is a keyword of Mathlib
    exact next_sound (recallJob_sound hS) e

/-- Settles O3: every command keeps soundness, and taking it from the queue changes no part that soundness speaks of. -/
theorem stepKeepsSound : Obligations.StepKeepsSound := by
  intro s t hS e
  unfold step at e
  split at e
  · exact next_sound hS e
  · rename_i rest _
    exact exec_sound (s := { s with pending := rest }) hS e

end Sys2Proof.Machine
end

section
/-! PROOFS. The set-up window's commands to an own port and to a global block, and the enables of hosts and rings (R221, R222, R245, R248, R401). -/

namespace Sys2Proof.Machine

variable {s t u : State}

/-! Commands through the window -/

/-- A host's command to a register of its own port does what the register's write does, where its window is open (R219, R356). -/
theorem exec_own {c : Instr} {p : Nat} {act : State → State} (hc : exec c s = .next (ownWrite p act s)) (hw : windowOpen s p = true)
    (h : act s = t) : exec c s = .next t := by
  rw [hc, ownWrite, if_pos hw, h]

theorem kept_modPort {ks : List Nat} {p : Nat} {f : HostPort → HostPort} (h : RegsKept ks s t) : RegsKept ks s (modPort p f t) := h

theorem kept_modRing {ks : List Nat} {p i : Nat} {f : Ring → Ring} (h : RegsKept ks s t) : RegsKept ks s (modRing p i f t) := h

/-! Hosts -/

theorem hostCtrl_on (p : Nat) (hoff : hostOn s p = false) (hd : doorbellAt s p ≠ 0) (hst : statusAt s p ≠ 0)
    (hb : (portOf s p).busMaster = true) :
    hostCtrl p true s = modPort p (fun h => { h with dropped := 0, pollFails := 0 })
      (regSet (K.HOST_STATUS_err p) 0 (regSet (K.HOST_CTRL_enable p) 1 s)) := by
  simp [hostCtrl, hoff, hd, hst, hb]

theorem hostCtrl_refused (p : Nat) (hoff : hostOn s p = false) (h : doorbellAt s p = 0 ∨ statusAt s p = 0 ∨ (portOf s p).busMaster = false) :
    hostCtrl p true s = regSet (K.HOST_STATUS_err p) 1 s := by
  simp only [hostCtrl, hoff, Bool.not_true, Bool.false_eq_true, if_false]
  rw [if_pos]
  simpa [or_assoc] using h

theorem hostCtrl_already (p : Nat) (hon : hostOn s p = true) : hostCtrl p true s = s := by
  simp [hostCtrl, hon]

/-- Settles O6: an enable that meets the conditions and a disable are updates of the enable, the error flag and the port's own record. -/
theorem hostPortSwitch : Obligations.HostPortSwitch := by
  refine ⟨?enable, ?disable⟩
  case enable =>
    intro p s hw hoff hd hst hb
    refine ⟨_, exec_own rfl hw (hostCtrl_on p hoff hd hst hb), ?on, ?err, ?port, ?others, ?frame, ?kept⟩
    case frame => simp only [modPort, regSet]
    case on => simp (disch := grind) [hostOn, regGet_regSet_ne]
    case err => simp
    case port => simp
    case others => exact fun q hq => portOf_modPort_ne _ _ hq
    case kept => exact kept_modPort (kept_set (by simp) (kept_set (by simp) (kept_refl _ s)))
  case disable =>
    intro p s hw
    refine ⟨_, exec_own rfl hw rfl, ?off, ?pin, ?portOff, ?othersOff, rfl, ?keptOff⟩
    case off => simp [hostCtrl, setReady, hostOn]
    case pin => simp [hostCtrl, setReady, hrdy]
    case portOff => simp [hostCtrl, setReady]
    case othersOff => exact fun q hq => portOf_modPort_ne _ _ hq
    case keptOff => exact kept_modPort (kept_set (by simp) (kept_refl _ s))

/-! Rings -/

theorem ringCtrl_on {p i l : Nat} (hoff : ringOn s p i = false) (hl : l ≤ 12) (hi : ringIdle s p i = true) :
    ringCtrl p i l true s = modRing p i (fun _ => Ring.init)
      (regSet (K.RING_STATUS_err p i) 0 (regSet (K.RING_CTRL_enable p i) 1 (regSet (K.RING_CTRL_log2_entries p i) l s))) := by
  have hgood : (decide (12 < l) || !ringIdle (regSet (K.RING_CTRL_log2_entries p i) l s) p i) = false := by
    rw [decide_eq_false (Nat.not_lt.2 hl), ringIdle, regSet_jobs, ← ringIdle, hi]
    rfl
  simp only [ringCtrl, hoff, Bool.false_eq_true, if_false, Bool.not_true, hgood]

theorem ringCtrl_off {p i l : Nat} (hon : ringOn s p i = true) : ringCtrl p i l false s = regSet (K.RING_CTRL_enable p i) 0 s := by
  simp [ringCtrl, hon]

theorem ringCtrl_refused {p i l : Nat} (hoff : ringOn s p i = false) (h : 13 ≤ l ∨ ringIdle s p i = false) :
    ringCtrl p i l true s = refuseRing p i l (regSet (K.RING_STATUS_err p i) 1 (regSet (K.RING_CTRL_log2_entries p i) l s)) := by
  have hbad : (decide (12 < l) || !ringIdle (regSet (K.RING_CTRL_log2_entries p i) l s) p i) = true := by
    rcases h with h | h
    · rw [decide_eq_true (Nat.lt_of_succ_le h), Bool.true_or]
    · rw [ringIdle, regSet_jobs, ← ringIdle, h, Bool.not_false, Bool.or_true]
  simp only [ringCtrl, hoff, Bool.false_eq_true, if_false, Bool.not_true, hbad, if_true]

theorem evtCtrl_on {p l : Nat} (hoff : evtOn s p = false) (h6 : 6 ≤ l) (h12 : l ≤ 12) :
    evtCtrl p l true s = modPort p (fun h => { h with evtProducer := 0, evtConsumer := 0, attn := [] })
      (regSet (K.HOST_STATUS_err p) 0 (regSet (K.EVT_CTRL_enable p) 1 (regSet (K.EVT_CTRL_log2_entries p) l s))) := by
  simp [evtCtrl, hoff, Nat.not_lt.2 h6, Nat.not_lt.2 h12]

theorem evtCtrl_off {p l : Nat} (hon : evtOn s p = true) : evtCtrl p l false s = regSet (K.EVT_CTRL_enable p) 0 s := by
  simp [evtCtrl, hon]

theorem evtCtrl_refused {p l : Nat} (hoff : evtOn s p = false) (h : l ≤ 5 ∨ 13 ≤ l) :
    evtCtrl p l true s = refuseRing p 8 l (regSet (K.HOST_STATUS_err p) 1 (regSet (K.EVT_CTRL_log2_entries p) l s)) := by
  have hbad : (decide (l < 6) || decide (12 < l)) = true := by simp; omega
  simp only [evtCtrl, hoff, Bool.false_eq_true, if_false, Bool.not_true, hbad, if_true]

/-- Settles O7: each switch is an update of the ring's control register, of its error flag and of its indices. -/
theorem ringSwitch : Obligations.RingSwitch := by
  refine ⟨?ringOn, ?ringOff, ?evtOn, ?evtOff⟩
  case ringOn =>
    intro p i l s hw hoff hl hi
    refine ⟨_, exec_own rfl hw (ringCtrl_on hoff hl hi), ?on, ?size, ?err, ?idx, ?frame, ?kept⟩
    case frame => simp only [modRing, modPort, regSet]
    case on => simp (disch := grind) [ringOn, regGet_regSet_ne]
    case size => simp (disch := grind) [ringEntries, regGet_regSet_ne]
    case err => simp
    case idx => rw [ringOf_modRing_self]; rfl
    case kept => exact kept_modRing (kept_set (by simp) (kept_set (by simp) (kept_set (by simp) (kept_refl _ s))))
  case ringOff =>
    intro p i l s hw hon
    refine ⟨_, exec_own rfl hw (ringCtrl_off hon), ?_, rfl, kept_set (by simp) (kept_refl _ s)⟩
    simp [ringOn]
  case evtOn =>
    intro p l s hw hoff h6 h12
    refine ⟨_, exec_own rfl hw (evtCtrl_on hoff h6 h12), ?evtEnabled, ?evtSize, ?evtErr, ?prod, ?cons, ?evtFrame, ?evtKept⟩
    case evtFrame => simp only [modPort, regSet]
    case evtEnabled => simp (disch := grind) [evtOn, regGet_regSet_ne]
    case evtSize => simp (disch := grind) [evtEntries, regGet_regSet_ne]
    case evtErr => simp
    case prod => simp
    case cons => simp
    case evtKept => exact kept_modPort (kept_set (by simp) (kept_set (by simp) (kept_set (by simp) (kept_refl _ s))))
  case evtOff =>
    intro p l s hw hon
    refine ⟨_, exec_own rfl hw (evtCtrl_off hon), ?_, rfl, kept_set (by simp) (kept_refl _ s)⟩
    simp [evtOn]

/-- Settles O8: a refused enable sets the error flag, and a ring's refusal then tells the port. -/
theorem refusedEnables : Obligations.RefusedEnables := by
  refine ⟨?host, ?already, ?ring, ?events⟩
  case host =>
    intro p s hw hoff h
    refine ⟨_, exec_own rfl hw (hostCtrl_refused p hoff h), ?off, regGet_regSet_self .., rfl, kept_set (by simp) (kept_refl _ s)⟩
    rw [hostOn, regGet_regSet_ne _ _ (by grind)]
    exact hoff
  case already =>
    intro p s hw hon
    exact exec_own rfl hw (hostCtrl_already p hon)
  case ring =>
    intro p i l s hw hoff h
    refine ⟨_, exec_own rfl hw (ringCtrl_refused hoff h), _, rfl, ?ringOff, regGet_regSet_self .., rfl, ?kept⟩
    case ringOff =>
      rw [ringOn, regGet_regSet_ne _ _ (by grind), regGet_regSet_ne _ _ (by grind)]
      exact hoff
    case kept => exact kept_set (by simp) (kept_set (by simp) (kept_refl _ s))
  case events =>
    intro p l s hw hoff h
    refine ⟨_, exec_own rfl hw (evtCtrl_refused hoff h), _, rfl, ?evtOff, regGet_regSet_self .., rfl, ?kept⟩
    case evtOff =>
      rw [evtOn, regGet_regSet_ne _ _ (by grind), regGet_regSet_ne _ _ (by grind)]
      exact hoff
    case kept => exact kept_set (by simp) (kept_set (by simp) (kept_refl _ s))

end Sys2Proof.Machine
end

section
/-! PROOFS. What the accessors of sensors, links, cues, services and ingress read after the updates of the state. -/

namespace Sys2Proof.Machine

variable (s : State)

/-! After the update it belongs to -/

@[simp] theorem thermOf_modTherm_self (d : Nat) (f : DieTherm → DieTherm) : thermOf (modTherm d f s) d = f (thermOf s d) := tget_tmod_self ..
theorem thermOf_modTherm_ne {d q : Nat} (f : DieTherm → DieTherm) (h : q ≠ d) : thermOf (modTherm d f s) q = thermOf s q := tget_tmod_ne _ _ f h _
theorem thermOf_modTherm (d q : Nat) (f : DieTherm → DieTherm) : thermOf (modTherm d f s) q = if q = d then f (thermOf s q) else thermOf s q := by
  split
  · subst_vars; exact tget_tmod_self ..
  · exact tget_tmod_ne _ _ f ‹_› _
@[simp] theorem linkOf_modLink_self (l : Nat) (f : Link → Link) : linkOf (modLink l f s) l = f (linkOf s l) := tget_tmod_self ..
theorem linkOf_modLink_ne {l q : Nat} (f : Link → Link) (h : q ≠ l) : linkOf (modLink l f s) q = linkOf s q := tget_tmod_ne _ _ f h _
@[simp] theorem cueOf_modCue_self (g : Nat) (f : Cue → Cue) : cueOf (modCue g f s) g = f (cueOf s g) := tget_tmod_self ..
theorem cueOf_modCue_ne {g q : Nat} (f : Cue → Cue) (h : q ≠ g) : cueOf (modCue g f s) q = cueOf s q := tget_tmod_ne _ _ f h _
@[simp] theorem svcOf_modSvc_self (k : Nat) (f : Svc → Svc) : svcOf (modSvc k f s) k = f (svcOf s k) := tget_tmod_self ..
theorem svcOf_modSvc_ne {k q : Nat} (f : Svc → Svc) (h : q ≠ k) : svcOf (modSvc k f s) q = svcOf s q := tget_tmod_ne _ _ f h _
theorem svcOf_modSvc (k q : Nat) (f : Svc → Svc) : svcOf (modSvc k f s) q = if q = k then f (svcOf s q) else svcOf s q := by
  split
  · subst_vars; exact tget_tmod_self ..
  · exact tget_tmod_ne _ _ f ‹_› _
@[simp] theorem spiOf_modSpi_self (m : Nat) (f : Spi → Spi) : spiOf (modSpi m f s) m = f (spiOf s m) := tget_tmod_self ..
@[simp] theorem capOf_modCap_self (c : Nat) (f : Capture → Capture) : capOf (modCap c f s) c = f (capOf s c) := tget_tmod_self ..
@[simp] theorem ingOf_modIng_self (p : Nat) (f : IngPort → IngPort) : ingOf (modIng p f s) p = f (ingOf s p) := tget_tmod_self ..
theorem ingOf_modIng_ne {p q : Nat} (f : IngPort → IngPort) (h : q ≠ p) : ingOf (modIng p f s) q = ingOf s q := tget_tmod_ne _ _ f h _
theorem ingOf_modIng (p q : Nat) (f : IngPort → IngPort) : ingOf (modIng p f s) q = if q = p then f (ingOf s q) else ingOf s q := by
  split
  · subst_vars; exact tget_tmod_self ..
  · exact tget_tmod_ne _ _ f ‹_› _
@[simp] theorem strOf_modStr_self (k : Nat) (f : Stream → Stream) : strOf (modStr k f s) k = f (strOf s k) := tget_tmod_self ..
@[simp] theorem macOf_modMac_self (m : Nat) (f : Mac → Mac) : macOf (modMac m f s) m = f (macOf s m) := tget_tmod_self ..
theorem macOf_modMac_ne {m q : Nat} (f : Mac → Mac) (h : q ≠ m) : macOf (modMac m f s) q = macOf s q := tget_tmod_ne _ _ f h _
theorem macOf_modMac (m q : Nat) (f : Mac → Mac) : macOf (modMac m f s) q = if q = m then f (macOf s q) else macOf s q := by
  split
  · subst_vars; exact tget_tmod_self ..
  · exact tget_tmod_ne _ _ f ‹_› _

/-! After an update of registers, host ports or host memory, and after an event -/

@[simp] theorem linkOf_regSet (k v : Nat) (q : Nat) : linkOf (regSet k v s) q = linkOf s q := rfl
@[simp] theorem linkOf_regInc (k : Nat) (q : Nat) : linkOf (regInc k s) q = linkOf s q := rfl
@[simp] theorem linkOf_raise (d : EvDest) (e : Ev) (q : Nat) : linkOf (raise d e s) q = linkOf s q := by rw [linkOf, raise_links, linkOf]
@[simp] theorem ingOf_regSet (k v : Nat) (q : Nat) : ingOf (regSet k v s) q = ingOf s q := rfl
@[simp] theorem ingOf_regMod (k : Nat) (g : Nat → Nat) (q : Nat) : ingOf (regMod k g s) q = ingOf s q := rfl
@[simp] theorem ingOf_regInc (k : Nat) (q : Nat) : ingOf (regInc k s) q = ingOf s q := rfl
@[simp] theorem macOf_hostWrite (h a : Nat) (bs : List Byte) (q : Nat) : macOf (hostWrite h a bs s) q = macOf s q := rfl

end Sys2Proof.Machine
end

section
/-! PROOFS. The hold of an ingress port (R276, R277, R282): what `refreshHold` and `sendPause` leave and change, and the switches of ingress
ports and Ethernet rings. -/

namespace Sys2Proof.Machine

variable {s t u : State} {p : Nat}

/-! PAUSE frames -/

/-- Whether a port's MAC sends PAUSE frames (R277). -/
def pausing (s : State) (p : Nat) : Bool := decide (12 ≤ p) && decide (p < 16) && regGet s (K.ETH_TX_CTRL_pause_en (p - 12)) == 1

theorem sendPause_eq (p q : Nat) (s : State) : sendPause p q s =
    if pausing s p = true then modMac (p - 12) (fun m => { m with sent := m.sent ++ [.pause q], pauseAt := s.ticks }) s else s := rfl

theorem sendPause_frame (p q : Nat) (s : State) : sendPause p q s = { s with ing := { s.ing with macs := (sendPause p q s).ing.macs } } := by
  rw [sendPause_eq]; split <;> rfl

@[simp] theorem sendPause_reg (p q : Nat) (s : State) : (sendPause p q s).reg = s.reg := by rw [sendPause_frame]
@[simp] theorem regGet_sendPause (p q : Nat) (s : State) (k : Nat) : regGet (sendPause p q s) k = regGet s k := by
  rw [regGet, sendPause_reg, regGet]
@[simp] theorem ingOf_sendPause (p q : Nat) (s : State) (i : Nat) : ingOf (sendPause p q s) i = ingOf s i := by
  rw [sendPause_frame]; rfl

theorem macOf_sendPause (p q : Nat) (s : State) (m : Nat) : macOf (sendPause p q s) m =
    if pausing s p = true ∧ m = p - 12 then { macOf s m with sent := (macOf s m).sent ++ [.pause q], pauseAt := s.ticks } else macOf s m := by
  rw [sendPause_eq]
  by_cases h : pausing s p = true
  · simp only [h, if_true, true_and, macOf_modMac]
  · simp only [h, if_false, Bool.false_eq_true, false_and]

/-! The hold -/

/-- What a port's watermarks ask for (R276): the hold from the high one up and until the low one. -/
def asksHold (p : Nat) (s : State) : Bool :=
  if 4096 * actGet s (K.ING_WM_high_4k p) ≤ fifoFill s p then true
  else if fifoFill s p ≤ 4096 * actGet s (K.ING_WM_low_4k p) then false else (ingOf s p).high

/-- A port with what its watermarks ask for noted. -/
abbrev asked (p : Nat) (s : State) : State := modIng p (fun x => { x with high := asksHold p s }) s

/-- Whether a port's hold is to stand (R277). -/
def wantsHold (p : Nat) (s : State) : Bool := !portRuns s p || asksHold p s

theorem portRuns_asked (p : Nat) (s : State) : portRuns (asked p s) p = portRuns s p := by
  have h : ingOf (asked p s) p = { ingOf s p with high := asksHold p s } := ingOf_modIng_self ..
  simp only [portRuns, h]
  rfl

theorem refreshHold_eq (p : Nat) (s : State) : refreshHold p s =
    if wantsHold p s = (regGet s (K.ING_HOLD_asserted p) == 1) then asked p s
    else if wantsHold p s = true then
      sendPause p 0xFFFF (regInc (K.ING_HOLD_COUNT_count p) (regSet (K.ING_HOLD_asserted p) 1 (asked p s)))
    else sendPause p 0 (regSet (K.ING_HOLD_asserted p) 0 (asked p s)) := by
  have hw : (!portRuns (asked p s) p || asksHold p s) = wantsHold p s := by rw [portRuns_asked, wantsHold]
  calc refreshHold p s
      = if ((!portRuns (asked p s) p || asksHold p s) == (regGet s (K.ING_HOLD_asserted p) == 1)) = true then asked p s
        else if (!portRuns (asked p s) p || asksHold p s) = true then
          sendPause p 0xFFFF (regInc (K.ING_HOLD_COUNT_count p) (regSet (K.ING_HOLD_asserted p) 1 (asked p s)))
        else sendPause p 0 (regSet (K.ING_HOLD_asserted p) 0 (asked p s)) := rfl
    _ = _ := by simp only [hw, beq_iff_eq]

theorem ingOf_refreshHold (p q : Nat) (s : State) :
    ingOf (refreshHold p s) q = if q = p then { ingOf s q with high := asksHold p s } else ingOf s q := by
  have h : ingOf (asked p s) q = if q = p then { ingOf s q with high := asksHold p s } else ingOf s q := ingOf_modIng ..
  rw [refreshHold_eq]
  split
  · exact h
  · split <;> simp only [ingOf_sendPause, ingOf_regInc, ingOf_regSet, h]

@[simp] theorem ingOf_refreshHold_self (p : Nat) (s : State) : ingOf (refreshHold p s) p = { ingOf s p with high := asksHold p s } := by
  rw [ingOf_refreshHold, if_pos rfl]

theorem ingOf_refreshHold_ne {q : Nat} (h : q ≠ p) : ingOf (refreshHold p s) q = ingOf s q := by rw [ingOf_refreshHold, if_neg h]

theorem refreshHold_frame (p : Nat) (s : State) : refreshHold p s =
    { s with reg := (refreshHold p s).reg, ing := { s.ing with ports := (refreshHold p s).ing.ports, macs := (refreshHold p s).ing.macs } } := by
  rw [refreshHold_eq]
  split
  · rfl
  · split <;> rw [sendPause_frame] <;> simp only [regInc, regMod, regSet, modIng]

theorem kept_sendPause {ks : List Nat} {q : Nat} (h : RegsKept ks s t) : RegsKept ks s (sendPause p q t) := kept_reg (sendPause_reg ..) h

theorem refreshHold_kept {ks : List Nat} (h1 : K.ING_HOLD_asserted p ∈ ks) (h2 : K.ING_HOLD_COUNT_count p ∈ ks) (h : RegsKept ks s t) :
    RegsKept ks s (refreshHold p t) := by
  have ha : RegsKept ks s (asked p t) := h
  rw [refreshHold_eq]
  split
  · exact ha
  · split
    · exact kept_sendPause (kept_inc h2 (kept_set h1 ha))
    · exact kept_sendPause (kept_set h1 ha)

theorem fifoFill_refreshHold (p : Nat) (s : State) : fifoFill (refreshHold p s) p = fifoFill s p := by
  rw [fifoFill, ingOf_refreshHold_self, fifoFill]

theorem portNamed_refreshHold (p : Nat) (s : State) : portNamed (refreshHold p s) p = portNamed s p := by
  have hk := refreshHold_kept (p := p) (ks := [K.ING_HOLD_asserted p, K.ING_HOLD_COUNT_count p]) (by simp) (by simp) (kept_refl _ s)
  have hc : regGet (refreshHold p s) (K.ING_CTRL_enable p) = regGet s (K.ING_CTRL_enable p) := hk _ (by grind)
  have ha : (refreshHold p s).active = s.active := by rw [refreshHold_frame]
  simp only [portNamed, hc, actGet, ha]

theorem portRuns_refreshHold (p : Nat) (s : State) : portRuns (refreshHold p s) p = portRuns s p := by
  have ho : (refreshHold p s).op = s.op := by rw [refreshHold_frame]
  simp only [portRuns, portNamed_refreshHold, ingOf_refreshHold_self, running, ho]

theorem held_refreshHold (p : Nat) (s : State) : (regGet (refreshHold p s) (K.ING_HOLD_asserted p) == 1) = wantsHold p s := by
  rw [refreshHold_eq]
  split
  · rename_i h; exact h.symm
  · split
    · rename_i h
      rw [regGet_sendPause, regGet_regInc_ne _ (by grind), regGet_regSet_self, h]; rfl
    · rename_i h
      rw [regGet_sendPause, regGet_regSet_self, Bool.eq_false_iff.2 h]; rfl

/-- The hold of a port after `refreshHold` follows from the state before it. -/
theorem refreshHold_follows (p : Nat) (s : State) : HoldFollows p s (refreshHold p s) := by
  have hheld := held_refreshHold p s
  refine ⟨?asks, ?stands, ?count, ?pause⟩
  case asks =>
    rw [ingOf_refreshHold_self, fifoFill_refreshHold, asksHold]
  case stands =>
    rw [ingOf_refreshHold_self, portRuns_refreshHold]
    exact hheld
  case count =>
    simp only [hheld]
    rw [refreshHold_eq]
    by_cases h : wantsHold p s = (regGet s (K.ING_HOLD_asserted p) == 1)
    · rw [if_pos h, if_neg (by rw [h]; simp)]; rfl
    · rw [if_neg h]
      by_cases hw : wantsHold p s = true
      · rw [if_pos hw, if_pos ⟨hw, by simpa [hw] using h⟩, regGet_sendPause, regGet_regInc_self, regGet_regSet_ne _ _ (by grind)]
        rfl
      · rw [if_neg hw, if_neg (by simp [hw]), regGet_sendPause, regGet_regSet_ne _ _ (by grind)]
        rfl
  case pause =>
    intro m
    simp only [hheld]
    rw [refreshHold_eq]
    by_cases h : wantsHold p s = (regGet s (K.ING_HOLD_asserted p) == 1)
    · rw [if_pos h, if_neg (by simp [h])]; rfl
    · have hp : ∀ v, pausing (regSet (K.ING_HOLD_asserted p) v (asked p s)) p = pausing s p := fun v => by
        simp only [pausing]
        rw [regGet_regSet_ne _ _ (by grind)]
        rfl
      have hp' : pausing (regInc (K.ING_HOLD_COUNT_count p) (regSet (K.ING_HOLD_asserted p) 1 (asked p s))) p = pausing s p := by
        rw [← hp 1]
        simp only [pausing]
        rw [regGet_regInc_ne _ (by grind)]
      have hiff : (pausing s p = true ∧ m = p - 12) ↔ (12 ≤ p ∧ p < 16 ∧ m = p - 12 ∧ wantsHold p s ≠ (regGet s (K.ING_HOLD_asserted p) == 1) ∧
          regGet s (K.ETH_TX_CTRL_pause_en m) = 1) := by
        simp only [pausing, Bool.and_eq_true, decide_eq_true_eq, beq_iff_eq]
        constructor
        · rintro ⟨⟨⟨h1, h2⟩, h3⟩, rfl⟩; exact ⟨h1, h2, rfl, h, h3⟩
        · rintro ⟨h1, h2, rfl, -, h3⟩; exact ⟨⟨⟨h1, h2⟩, h3⟩, rfl⟩
      rw [if_neg h]
      by_cases hw : wantsHold p s = true
      · rw [if_pos hw, macOf_sendPause, hp', if_pos hw]
        exact if_congr hiff rfl rfl
      · rw [if_neg hw, macOf_sendPause, hp, if_neg hw]
        exact if_congr hiff rfl rfl

/-- The hold follows from an earlier state too, where what lies between leaves the watermarks, the hold and the MACs. -/
theorem HoldFollows.of_eq (h : HoldFollows p u t) (hact : ∀ k, actGet u k = actGet s k) (hhigh : (ingOf u p).high = (ingOf s p).high)
    (hheld : regGet u (K.ING_HOLD_asserted p) = regGet s (K.ING_HOLD_asserted p))
    (hcount : regGet u (K.ING_HOLD_COUNT_count p) = regGet s (K.ING_HOLD_COUNT_count p)) (hmac : ∀ m, macOf u m = macOf s m)
    (hpause : ∀ m, regGet u (K.ETH_TX_CTRL_pause_en m) = regGet s (K.ETH_TX_CTRL_pause_en m)) (hticks : u.ticks = s.ticks) : HoldFollows p s t := by
  simpa only [HoldFollows, hact, hhigh, hheld, hcount, hmac, hpause, hticks] using h

/-! The switches -/

theorem portOff_holds (hoff : regGet u (K.ING_CTRL_enable p) = 0) (hempty : (ingOf u p).items = []) :
    regGet (refreshHold p u) (K.ING_HOLD_asserted p) = 1 := by
  have hruns : portRuns u p = false := by
    rw [portRuns, portNamed, hoff, hempty]
    simp
  have h := held_refreshHold p u
  rw [wantsHold, hruns, Bool.not_false, Bool.true_or] at h
  exact beq_iff_eq.1 h

theorem setPort_switches (p : Nat) (on b : Bool) (s : State) :
    let t := setPort p on b s
    regGet t (K.ING_CTRL_enable p) = on.toNat ∧ regGet t (K.ING_CTRL_test_line p) = b.toNat ∧ HoldFollows p s t ∧
      (on = false → (ingOf s p).items = [] → regGet t (K.ING_HOLD_asserted p) = 1) ∧
      ingOf t p = { ingOf s p with high := (ingOf t p).high } ∧ (∀ q, q ≠ p → ingOf t q = ingOf s q) ∧
      t = { s with reg := t.reg, ing := { s.ing with ports := t.ing.ports, macs := t.ing.macs } } ∧
      RegsKept [K.ING_CTRL_enable p, K.ING_CTRL_test_line p, K.ING_HOLD_asserted p, K.ING_HOLD_COUNT_count p] s t := by
  intro t
  let u := regSet (K.ING_CTRL_enable p) on.toNat (regSet (K.ING_CTRL_test_line p) b.toNat s)
  have ht : t = refreshHold p u := rfl
  have hk : RegsKept [K.ING_HOLD_asserted p, K.ING_HOLD_COUNT_count p] u t := refreshHold_kept (by simp) (by simp) (kept_refl _ u)
  have hu : ∀ k, k ≠ K.ING_CTRL_enable p → k ≠ K.ING_CTRL_test_line p → regGet u k = regGet s k := fun k h1 h2 => by
    rw [regGet_regSet_ne _ _ h1, regGet_regSet_ne _ _ h2]
  refine ⟨?enable, ?line, ?follows, ?off, ?port, ?others, ?frame, ?kept⟩
  case enable => rw [hk _ (by grind), regGet_regSet_self]
  case line => rw [hk _ (by grind), regGet_regSet_ne _ _ (by grind), regGet_regSet_self]
  case follows =>
    exact (refreshHold_follows p u).of_eq (fun _ => rfl) rfl (hu _ (by grind) (by grind)) (hu _ (by grind) (by grind)) (fun _ => rfl)
      (fun _ => hu _ (by grind) (by grind)) rfl
  case off =>
    rintro rfl hempty
    exact portOff_holds (regGet_regSet_self ..) hempty
  case port => rw [ht, ingOf_refreshHold_self]; rfl
  case others => exact fun q hq => ingOf_refreshHold_ne hq
  case frame => rw [ht, refreshHold_frame]; simp only [u, regSet]
  case kept => exact refreshHold_kept (by simp) (by simp) (kept_set (by simp) (kept_set (by simp) (kept_refl _ s)))

theorem ethTxCtrl_on {m l : Nat} (b : Bool) (h2 : 2 ≤ l) (h8 : l ≤ 8) : ethTxCtrl m l true b s =
    (let w := regSet (K.ETH_TX_CTRL_log2_entries m) l (regSet (K.ETH_TX_CTRL_enable m) 1 (regSet (K.ETH_TX_CTRL_pause_en m) b.toNat s))
     if regGet s (K.ETH_TX_CTRL_enable m) = 1 then w else modMac m (fun x => { x with txCons := 0 }) w) := by
  have hgood : (true && (decide (l < 2) || decide (8 < l))) = false := by simp; omega
  simp only [ethTxCtrl, hgood, Bool.false_eq_true, if_false, Bool.true_and, Bool.not_eq_true', beq_eq_false_iff_ne, ne_eq, ite_not]
  rfl

theorem ethTxCtrl_refused {m l : Nat} (b : Bool) (h : l < 2 ∨ 8 < l) : ethTxCtrl m l true b s =
    (let w := regSet (K.ETH_TX_CTRL_pause_en m) b.toNat s
     refuseRing s.mgrPort 9 l (if regGet s (K.ETH_TX_CTRL_enable m) = 1 then w else regSet (K.ETH_TX_CTRL_log2_entries m) l w)) := by
  have hbad : (true && (decide (l < 2) || decide (8 < l))) = true := by simp; omega
  simp only [ethTxCtrl, hbad, if_true, beq_iff_eq, regSet_mgrPort]

theorem ethTxOn_switches {m l : Nat} (b : Bool) (h2 : 2 ≤ l) (h8 : l ≤ 8) :
    let t := ethTxCtrl m l true b s
    regGet t (K.ETH_TX_CTRL_enable m) = 1 ∧ regGet t (K.ETH_TX_CTRL_log2_entries m) = l ∧ regGet t (K.ETH_TX_CTRL_pause_en m) = b.toNat ∧
      macOf t m = (if regGet s (K.ETH_TX_CTRL_enable m) = 1 then macOf s m else { macOf s m with txCons := 0 }) ∧
      (∀ q, q ≠ m → macOf t q = macOf s q) ∧ t = { s with reg := t.reg, ing := { s.ing with macs := t.ing.macs } } ∧
      RegsKept [K.ETH_TX_CTRL_enable m, K.ETH_TX_CTRL_log2_entries m, K.ETH_TX_CTRL_pause_en m] s t := by
  intro t
  let w := regSet (K.ETH_TX_CTRL_log2_entries m) l (regSet (K.ETH_TX_CTRL_enable m) 1 (regSet (K.ETH_TX_CTRL_pause_en m) b.toNat s))
  have ht : t = if regGet s (K.ETH_TX_CTRL_enable m) = 1 then w else modMac m (fun x => { x with txCons := 0 }) w := ethTxCtrl_on b h2 h8
  have hreg : t.reg = w.reg := by rw [ht]; split <;> rfl
  have hget : ∀ k, regGet t k = regGet w k := fun k => by rw [regGet, hreg, regGet]
  have hmac : ∀ q, macOf w q = macOf s q := fun _ => rfl
  refine ⟨?enable, ?size, ?pause, ?mac, ?others, ?frame, ?kept⟩
  case enable => rw [hget, regGet_regSet_ne _ _ (by grind), regGet_regSet_self]
  case size => rw [hget, regGet_regSet_self]
  case pause => rw [hget, regGet_regSet_ne _ _ (by grind), regGet_regSet_ne _ _ (by grind), regGet_regSet_self]
  case mac =>
    rw [ht]
    split
    · exact hmac m
    · rw [macOf_modMac_self, hmac]
  case others =>
    intro q hq
    rw [ht]
    split
    · exact hmac q
    · rw [macOf_modMac_ne _ _ hq, hmac]
  case frame =>
    rw [ht]
    split <;> simp only [w, modMac, regSet]
  case kept => exact kept_reg hreg (kept_set (by simp) (kept_set (by simp) (kept_set (by simp) (kept_refl _ s))))

theorem ethTxRefused_tells {m l : Nat} (b : Bool) (h : l < 2 ∨ 8 < l) :
    Tells (.port s.mgrPort) ⟨0x0004, 0, true, portNode s.mgrPort, 9, l, 0⟩ (ethTxCtrl m l true b s) fun u =>
      regGet u (K.ETH_TX_CTRL_enable m) = regGet s (K.ETH_TX_CTRL_enable m) ∧
      regGet u (K.ETH_TX_CTRL_log2_entries m) = (if regGet s (K.ETH_TX_CTRL_enable m) = 1 then regGet s (K.ETH_TX_CTRL_log2_entries m) else l) ∧
      regGet u (K.ETH_TX_CTRL_pause_en m) = b.toNat ∧ u = { s with reg := u.reg } ∧
      RegsKept [K.ETH_TX_CTRL_log2_entries m, K.ETH_TX_CTRL_pause_en m] s u := by
  refine ⟨_, ethTxCtrl_refused b h, ?_⟩
  split
  · refine ⟨?_, ?_, regGet_regSet_self .., rfl, kept_set (by simp) (kept_refl _ s)⟩ <;> exact regGet_regSet_ne _ _ (by grind)
  · refine ⟨?_, regGet_regSet_self .., ?_, rfl, kept_set (by simp) (kept_set (by simp) (kept_refl _ s))⟩
    · rw [regGet_regSet_ne _ _ (by grind), regGet_regSet_ne _ _ (by grind)]
    · rw [regGet_regSet_ne _ _ (by grind), regGet_regSet_self]

/-- Settles O9: the port switches write ING_CTRL and the hold follows; the ring switch writes ETH_TX_CTRL or is refused by its size. -/
theorem ingressPortSwitch : Obligations.IngressPortSwitch := by
  refine ⟨?port, ?ring, ?refused⟩
  case port =>
    intro g b on p s c hc hw hp
    have he : exec c s = .next (setPort g on b s) := by
      obtain ⟨rfl, rfl⟩ | ⟨rfl, rfl⟩ := hc
      · exact exec_manager rfl hw hp rfl
      · exact exec_manager rfl hw hp rfl
    exact ⟨_, he, setPort_switches g on b s⟩
  case ring =>
    intro m l b p s hw hp h2 h8
    exact ⟨_, exec_manager rfl hw hp rfl, ethTxOn_switches b h2 h8⟩
  case refused =>
    intro m l b p s hw hp h
    rw [hp]
    exact ⟨_, exec_manager rfl hw hp rfl, ethTxRefused_tells b h⟩

end Sys2Proof.Machine
end

section
/-! PROOFS. What ending jobs, releasing lodgers, re-joining islands and telling events leave as it is. -/

namespace Sys2Proof.Machine

variable {s t u : State}

/-- Nothing differs but registers, the active banks, memory, realms, host ports, jobs, the last fault class, islands, lodging, understudy
mode and the counter of free values: what the end of jobs, the release of lodgers and events can change. -/
def Ending (s t : State) : Prop :=
  t = { s with reg := t.reg, active := t.active, mem := t.mem, realms := t.realms, hosts := t.hosts, jobs := t.jobs, lastClass := t.lastClass,
               isl := t.isl, lodging := t.lodging, und := t.und, freeCtr := t.freeCtr }

namespace Ending

theorem refl (s : State) : Ending s s := rfl

theorem trans (h : Ending s t) (h' : Ending t u) : Ending s u := by
  unfold Ending at *
  calc u = { t with reg := u.reg, active := u.active, mem := u.mem, realms := u.realms, hosts := u.hosts, jobs := u.jobs, lastClass := u.lastClass,
                    isl := u.isl, lodging := u.lodging, und := u.und, freeCtr := u.freeCtr } := h'
    _ = _ := by rw [h]

theorem op (h : Ending s t) : t.op = s.op := (congrArg State.op h :)
theorem inDrive (h : Ending s t) : t.inDrive = s.inDrive := (congrArg State.inDrive h :)
theorem shadow (h : Ending s t) : t.shadow = s.shadow := (congrArg State.shadow h :)
theorem tbUnits (h : Ending s t) : t.tbUnits = s.tbUnits := (congrArg State.tbUnits h :)
theorem ticks (h : Ending s t) : t.ticks = s.ticks := (congrArg State.ticks h :)
theorem time (h : Ending s t) : t.time = s.time := (congrArg State.time h :)
theorem thm (h : Ending s t) : t.thm = s.thm := (congrArg State.thm h :)
theorem engines (h : Ending s t) : t.engines = s.engines := (congrArg State.engines h :)
theorem dpx (h : Ending s t) : t.dpx = s.dpx := (congrArg State.dpx h :)
theorem frame (h : Ending s t) : t.frame = s.frame := (congrArg State.frame h :)
theorem links (h : Ending s t) : t.links = s.links := (congrArg State.links h :)
theorem boot (h : Ending s t) : t.boot = s.boot := (congrArg State.boot h :)
theorem ing (h : Ending s t) : t.ing = s.ing := (congrArg State.ing h :)
theorem fus (h : Ending s t) : t.fus = s.fus := (congrArg State.fus h :)
theorem kept (h : Ending s t) : t.kept = s.kept := (congrArg State.kept h :)
theorem curtain (h : Ending s t) : t.curtain = s.curtain := (congrArg State.curtain h :)
theorem mgrPort (h : Ending s t) : t.mgrPort = s.mgrPort := (congrArg State.mgrPort h :)

theorem ite {c : Prop} [Decidable c] (ht : Ending s t) (hu : Ending s u) : Ending s (if c then t else u) := by
  split
  · exact ht
  · exact hu

theorem foldl {α : Type} {f : State → α → State} (l : List α) (h : Ending s t) (hf : ∀ t x, Ending t (f t x)) : Ending s (l.foldl f t) := by
  induction l generalizing t with
  | nil => exact h
  | cons x l ih => exact ih (h.trans (hf t x))

end Ending

/-- What each step of a fold leaves as it is, the fold leaves as it is. -/
theorem foldl_keeps {α β : Type} (e : State → β) {f : State → α → State} (l : List α) (hf : ∀ t x, e (f t x) = e t) (s : State) :
    e (l.foldl f s) = e s := by
  induction l generalizing s with
  | nil => rfl
  | cons x l ih => rw [List.foldl_cons, ih, hf]

/-! One operation -/

theorem regSet_ending (k v : Nat) (s : State) : Ending s (regSet k v s) := rfl
theorem regMod_ending (k : Nat) (f : Nat → Nat) (s : State) : Ending s (regMod k f s) := rfl
theorem regInc_ending (k : Nat) (s : State) : Ending s (regInc k s) := rfl
theorem actSet_ending (k v : Nat) (s : State) : Ending s (actSet k v s) := rfl
theorem modMem_ending (f : Memory → Memory) (s : State) : Ending s (modMem f s) := rfl
theorem modRealm_ending (r : Nat) (f : Realm → Realm) (s : State) : Ending s (modRealm r f s) := rfl
theorem modPort_ending (p : Nat) (f : HostPort → HostPort) (s : State) : Ending s (modPort p f s) := rfl
theorem modRing_ending (p i : Nat) (f : Ring → Ring) (s : State) : Ending s (modRing p i f s) := rfl
theorem hostWrite_ending (p a : Nat) (bs : List Byte) (s : State) : Ending s (hostWrite p a bs s) := rfl
theorem modIsl_ending (i : Isl) (f : Island → Island) (s : State) : Ending s (modIsl i f s) := by cases i <;> rfl

theorem told_ending (h : Told s t) : Ending s t := by
  obtain ⟨a, b, c, rfl⟩ := h
  rfl

theorem raise_ending (d : EvDest) (e : Ev) (s : State) : Ending s (raise d e s) := told_ending (raise_told d e s)

theorem realmWrite_ending (r a : Nat) (bs : List Byte) (s : State) : Ending s (realmWrite r a bs s) := by
  unfold realmWrite
  split
  · unfold dmaWrite; split <;> rfl
  · rfl

theorem setIsl_ending (i : Isl) (v : Nat) (s : State) : Ending s (setIsl i v s) := (regSet_ending ..).trans (regSet_ending ..)

theorem recordFault_ending (cls src : Nat) (s : State) : Ending s (recordFault cls src s) := by
  have h : Ending s (if 2 ≤ cls then regSet K.FAULT_LAST_source src s else s) := .ite (regSet_ending ..) (.refl s)
  exact .ite (h.trans (regMod_ending ..)) (.ite (h.trans (regMod_ending ..)) h)

theorem raiseFault_ending (d : EvDest) (e : Ev) (s : State) : Ending s (raiseFault d e s) :=
  (recordFault_ending ..).trans (raise_ending ..)

/-! The end of jobs -/

theorem undCompare_ending (x : UndJob) (s : State) : Ending s (undCompare x s) := by
  have hund : ∀ m : Understudy, Ending s { s with und := m } := fun _ => rfl
  exact .ite (.refl s) (.ite (.refl s) (.ite (hund _) ((hund _).trans ((regSet_ending ..).trans (raise_ending ..)))))

theorem undComplete_ending (c : Option Nat) (ok : Bool) (d : List Byte) (s : State) : Ending s (undComplete c ok d s) := by
  have hund : ∀ m : Understudy, Ending s { s with und := m } := fun _ => rfl
  cases c with
  | none => exact .refl s
  | some c => exact .ite (.refl s) (.ite ((hund _).trans (undCompare_ending ..)) (hund _))

theorem completeJob_ending (j : Job) (r : JobResult) (simplex : Bool) (cls : Nat) (s : State) : Ending s (completeJob j r simplex cls s) := by
  have hdigest : Ending s (withDigest j r s) := .ite (realmWrite_ending ..) (.refl s)
  have hclass : ∀ v, Ending s v → Ending s (if cls = 2 then recordFault 2 iodSteward { v with lastClass := 2 } else v) := fun v hv =>
    .ite ((hv.trans (u := { v with lastClass := 2 }) rfl).trans (recordFault_ending ..)) hv
  have hleft : ∀ v, Ending s v → Ending s (drainLimbo j.realm { v with jobs := v.jobs.filter fun k => k.acc != j.acc }) := fun v hv =>
    hv.trans rfl
  refine hclass _ ((hleft _ (.ite ?dropped ?posted)).trans (undComplete_ending ..))
  case dropped => exact hdigest.trans (modPort_ending ..)
  case posted => exact (hdigest.trans (hostWrite_ending ..)).trans (modRing_ending ..)

theorem failJob_ending (j : Job) (f : Fail) (s : State) : Ending s (failJob j f s) := completeJob_ending ..
theorem okJob_ending (j : Job) (detail : Nat) (s : State) : Ending s (okJob j detail s) := completeJob_ending ..

theorem leaveSeg_ending (ctr r : Nat) (x : Nat × Nat) (s : State) : Ending s (leaveSeg ctr r x s) := (realmWrite_ending ..).trans rfl

theorem leaveOpen_ending (r : Nat) (l : List (Nat × Nat)) (s : State) : Ending s (leaveOpen r l s) :=
  .foldl l (rfl : Ending s { s with freeCtr := s.freeCtr + 1 }) fun t x => leaveSeg_ending s.freeCtr r x t

theorem stopJob_ending (mode : Nat) (j : Job) (s : State) : Ending s (stopJob mode j s) := by
  have hleft : Ending s (leaveJob j s) := .ite (leaveOpen_ending ..) (.refl s)
  exact ((hleft.trans (failJob_ending ..)).trans (regInc_ending ..)).trans rfl

theorem stopLodgers_ending (mode : Nat) (all : Bool) (s : State) : Ending s (stopLodgers mode all s) :=
  .foldl _ (.refl s) fun _ _ => stopJob_ending ..

theorem endFences_ending (s : State) : Ending s (endFences s) :=
  .foldl _ (.refl s) fun t _ => .foldl _ (.refl t) fun _ _ => okJob_ending ..

/-! The release of lodgers -/

theorem undEnd_ending (s : State) : Ending s (undEnd s) := by
  have hund : Ending s { s with und := { s.und with waiting := [], matched := [] } } := rfl
  exact hund.trans ((regSet_ending ..).trans (regSet_ending ..))

theorem undRelease_ending (r : Nat) (s : State) : Ending s (undRelease r s) := .ite (undEnd_ending s) (.refl s)

theorem releaseMemory_ending (r : Nat) (s : State) : Ending s (releaseMemory r s) :=
  ((modMem_ending ..).trans (modMem_ending ..)).trans (modRealm_ending ..)

theorem unmapUnits_ending (r : Nat) (s : State) : Ending s (unmapUnits r s) := .foldl _ (.refl s) fun _ _ => actSet_ending ..

theorem releaseRealm_ending (cause r : Nat) (s : State) : Ending s (releaseRealm cause r s) :=
  ((((raise_ending ..).trans (modRealm_ending ..)).trans (releaseMemory_ending ..)).trans (unmapUnits_ending ..)).trans
    ((actSet_ending ..).trans (undRelease_ending ..))

theorem releaseLodgers_ending (cause mode : Nat) (s : State) : Ending s (releaseLodgers cause mode s) := by
  refine .ite (.refl s) (Ending.trans (.foldl _ ((stopLodgers_ending mode true s).trans (endFences_ending _)) fun _ _ => ?_) rfl)
  exact releaseRealm_ending ..

theorem rejoinIsl_ending (i : Isl) (pass : Bool) (s : State) : Ending s (rejoinIsl i pass s) :=
  .ite (.refl s) (.ite ((setIsl_ending ..).trans (raise_ending ..))
    (((setIsl_ending ..).trans ((modIsl_ending ..).trans (raise_ending ..))).trans (raiseFault_ending ..)))

theorem rejoinBoth_ending (a b : Bool) (s : State) : Ending s (rejoinBoth a b s) := (rejoinIsl_ending ..).trans (rejoinIsl_ending ..)

theorem limpRelease_ending (s : State) : Ending s (limpRelease s) := by
  have hctr : ∀ u : State, Ending u { u with freeCtr := u.freeCtr + 2 } := fun _ => rfl
  exact .ite (.refl s) (((releaseLodgers_ending 1 1 s).trans (hctr _)).trans (rejoinBoth_ending ..))

end Sys2Proof.Machine
end

section
/-! PROOFS. The count of a tick (R253, R255) and the snapshot (R259). -/

namespace Sys2Proof.Machine

variable {s : State} {n inc units debt : Nat}

/-! Ticks under a hold and after it -/

theorem runTicks_free (hn : 0 < n) : runTicks inc n units 0 = (units + n * inc, 0) := by
  have h : n ≠ 0 := hn.ne'
  simp only [runTicks, Nat.zero_div, Nat.min_zero, Nat.zero_mul, Nat.sub_zero, if_neg h]

theorem runTicks_held (hinc : 0 < inc) (h : n * inc < debt) : runTicks inc n units debt = (units, debt - n * inc) := by
  have hm : min n (debt / inc) = n := Nat.min_eq_left ((Nat.le_div_iff_mul_le hinc).2 h.le)
  simp only [runTicks, hm, if_true]

theorem runTicks_last (h : debt < inc) : runTicks inc 1 units debt = (units + inc - debt, 0) := by
  simp [runTicks, Nat.div_eq_of_lt h]

/-! The head of a tick -/

theorem tickHead_plain (hb : s.time.base = none) (hs : s.time.step = none) :
    tickHead s = ({ s with time := { s.time with inc := s.time.incNext.getD s.time.inc, incNext := none } }, false) := by
  simp only [tickHead, hb, hs]

theorem tickHead_step {d : Nat} (hb : s.time.base = none) (hs : s.time.step = some (Int.ofNat d)) :
    (tickHead s).2 = false ∧ (tickHead s).1.tbUnits = s.tbUnits + d * 2 ^ 32 ∧
      (tickHead s).1.time = ⟨s.time.incNext.getD s.time.inc, none, none, none, s.time.debt⟩ := by
  have hd : (0 : Int) ≤ Int.ofNat d := Int.natCast_nonneg d
  simp only [tickHead, hb, hs, if_pos hd, true_and]
  exact ⟨rfl, rfl⟩

/-- Without a BASELINE the head of a tick touches the registers and the time base alone. -/
theorem tickHead_frame (hb : s.time.base = none) :
    (tickHead s).1 = { s with tbUnits := (tickHead s).1.tbUnits, time := (tickHead s).1.time, reg := (tickHead s).1.reg } := by
  simp only [tickHead, hb]
  split
  · rfl
  · split <;> simp only [regInc, regMod, regSet]

/-! What a tick leaves -/

/-- A tick without a BASELINE counts from its head by `runTicks`; the flag stands while a debt is left. -/
theorem tick_counts {r : Nat × Nat} (hn : 0 < n) (hop : s.op ≠ .off) (hlive : (tickHead s).2 = false)
    (hr : runTicks (max 1 (tickHead s).1.time.inc) n (tickHead s).1.tbUnits (tickHead s).1.time.debt = r) :
    (tick n s).tbUnits = r.1 ∧ (tick n s).time = { (tickHead s).1.time with debt := r.2 } ∧
      regGet (tick n s) K.TB_STATUS_holding = (decide (r.2 ≠ 0)).toNat := by
  obtain ⟨htime, hunits, hregs⟩ := tick_counted hn hop
  rw [htime, hunits, hregs _ (by decide)]
  simp only [counted, hlive, Bool.false_eq_true, if_false, hr]
  exact ⟨rfl, rfl, regGet_regSet_self ..⟩

/-- A tick that finds neither BASELINE nor step counts from the state as it is. -/
theorem tick_plain {r : Nat × Nat} (hn : 0 < n) (hop : s.op ≠ .off) (hb : s.time.base = none) (hs : s.time.step = none)
    (hinc : 0 < s.time.incNext.getD s.time.inc) (hr : runTicks (s.time.incNext.getD s.time.inc) n s.tbUnits s.time.debt = r) :
    (tick n s).tbUnits = r.1 ∧ (tick n s).time.debt = r.2 ∧ regGet (tick n s) K.TB_STATUS_holding = (decide (r.2 ≠ 0)).toNat := by
  have hh := tickHead_plain hb hs
  obtain ⟨hu, ht, hf⟩ := tick_counts (r := r) hn hop (by rw [hh]) (by rw [hh, ← hr]; exact congrArg (runTicks · n _ _) (max_eq_right hinc))
  exact ⟨hu, by rw [ht], hf⟩

/-- A state without what a tick touches. -/
def tickErased (s : State) : State := { s with tbUnits := 0, ticks := 0, time := TimeBase.init, reg := [], thm := Thermal.init }

theorem wearTime_erased (a b : Nat) (s : State) : tickErased (wearTime a b s) = tickErased s := by
  unfold wearTime
  split
  · rfl
  · extract_lets hours u
    have hu : tickErased u = tickErased s := rfl
    split
    · exact hu
    · refine (foldl_keeps tickErased _ (fun t d => ?_) _).trans hu
      split <;> rfl

theorem wearTime_ticks (a b : Nat) (s : State) : (wearTime a b s).ticks = s.ticks := by
  unfold wearTime
  split
  · rfl
  · extract_lets hours u
    split
    · rfl
    · refine foldl_keeps State.ticks _ (fun t d => ?_) _
      split <;> rfl

theorem limpRelease_none (h : s.lodging.limpStop = false) : limpRelease s = s := by
  simp [limpRelease, h]

theorem tick_ticks (hn : 0 < n) (hop : s.op ≠ .off) (hb : s.time.base = none) : (tick n s).ticks = s.ticks + n := by
  have hrun : ¬ (decide (s.op = .off) || decide (n = 0)) = true := by simp [hop, Nat.pos_iff_ne_zero.1 hn]
  have hhead : (tickHead s).1.ticks = s.ticks := by rw [tickHead_frame hb]
  rw [tick, if_neg hrun, (limpRelease_ending _).ticks, wearTime_ticks]
  exact congrArg (· + n) hhead

/-- A tick without a BASELINE, outside a release that waits, touches the time base, the registers and the thermal records alone. -/
theorem tick_frame (hb : s.time.base = none) (hl : s.lodging.limpStop = false) :
    tick n s = { s with tbUnits := (tick n s).tbUnits, ticks := (tick n s).ticks, time := (tick n s).time, reg := (tick n s).reg,
                        thm := (tick n s).thm } := by
  have h : tickErased (tick n s) = tickErased s := by
    unfold tick
    split
    · rfl
    · extract_lets h u r t0 _ v
      have hu : tickErased u = tickErased s := (congrArg tickErased (tickHead_frame hb) :)
      have hw : tickErased (wearTime t0 (t0 + n) (regSet K.TB_STATUS_holding (decide (r.2 ≠ 0)).toNat v)) = tickErased s :=
        (wearTime_erased ..).trans hu
      have hlod := congrArg State.lodging hw
      have hnone := limpRelease_none (s := wearTime t0 (t0 + n) (regSet K.TB_STATUS_holding (decide (r.2 ≠ 0)).toNat v))
        ((congrArg Lodging.limpStop hlod).trans hl)
      rwa [hnone]
  exact congrArg (fun x => { x with tbUnits := (tick n s).tbUnits, ticks := (tick n s).ticks, time := (tick n s).time, reg := (tick n s).reg,
                                    thm := (tick n s).thm }) h

/-! The snapshot -/

theorem tbSnap_frame (s : State) : tbSnap s = { s with reg := (tbSnap s).reg } := by simp only [tbSnap, regSet]

/-- Settles O13: a tick counts from its head by `runTicks`, whose value each clause names, and the snapshot writes four fields. -/
theorem timeBaseTicks : Obligations.TimeBaseTicks := by
  refine ⟨⟨?free, ?step, ?held, ?last, ?frame⟩, ?snap⟩
  case free =>
    intro n s hn hop hb hs hd hinc
    obtain ⟨hu, ht, -⟩ := tick_plain hn hop hb hs hinc (r := (s.tbUnits + n * s.time.incNext.getD s.time.inc, 0)) (by rw [hd]; exact runTicks_free hn)
    exact ⟨_, rfl, hu, ht, tick_ticks hn hop hb⟩
  case step =>
    intro n d s hn hop hb hs hd hinc
    obtain ⟨hlive, hunits, htime⟩ := tickHead_step hb hs
    obtain ⟨hu, ht, -⟩ := tick_counts hn hop hlive (by rw [htime, hunits, hd])
    refine ⟨_, rfl, ?_, by rw [ht, htime]⟩
    rw [hu, runTicks_free hn]
    exact congrArg (s.tbUnits + d * 2 ^ 32 + n * ·) (max_eq_right hinc)
  case held =>
    intro n s hn hop hb hs hinc hlt
    obtain ⟨hu, ht, hf⟩ := tick_plain hn hop hb hs hinc (runTicks_held hinc hlt)
    refine ⟨_, rfl, hu, ht, ?_⟩
    rw [hf, decide_eq_true (Nat.sub_pos_of_lt hlt).ne']
    rfl
  case last =>
    intro s hop hb hs hlt
    obtain ⟨hu, ht, hf⟩ := tick_plain Nat.one_pos hop hb hs (Nat.zero_lt_of_lt hlt) (runTicks_last hlt)
    exact ⟨_, rfl, hu, ht, hf⟩
  case frame =>
    intro n s hb hl
    exact ⟨_, rfl, tick_frame hb hl⟩
  case snap =>
    intro p s hw hp
    refine ⟨_, exec_manager rfl hw hp rfl, ?frac, ?ns, ?lo, ?hi, tbSnap_frame s, ?kept⟩
    case frac => exact regGet_regSet_self ..
    case ns =>
      rw [tbSnap, regGet_regSet_ne _ _ (by decide), regGet_regSet_self]
      exact Nat.mod_mul_left_div_self ..
    case lo =>
      rw [tbSnap, regGet_regSet_ne _ _ (by decide), regGet_regSet_ne _ _ (by decide), regGet_regSet_self]
      exact Nat.mod_mod_of_dvd _ (by decide)
    case hi =>
      rw [tbSnap, regGet_regSet_ne _ _ (by decide), regGet_regSet_ne _ _ (by decide), regGet_regSet_ne _ _ (by decide), regGet_regSet_self, ← Nat.div_div_eq_div_mul]
      exact Nat.mod_mul_right_div_self (s.tbUnits / unitsPerSec) (2 ^ 32) (2 ^ 16)
    case kept => exact kept_set (by simp) (kept_set (by simp) (kept_set (by simp) (kept_set (by simp) (kept_refl _ s))))

end Sys2Proof.Machine
end

section
/-! PROOFS. The set-up window (R7, R402 to R405): what a word read or written does to the fields of its register, and which accesses are refused. -/

namespace Sys2Proof.Machine

variable {s t : State} {p off v : Nat}

/-! Keys of one register -/

theorem winFieldKey_inj {lo lo' : Nat} : winFieldKey p off lo = winFieldKey p off lo' ↔ lo = lo' := by
  simp only [winFieldKey, fieldKey]
  omega

theorem fieldRows_lo : ∀ r ∈ fieldRows, r.lo < 32 := by decide +kernel

theorem rowsAt_lo {r : FieldRow} (h : r ∈ rowsAt off) : r.lo < 32 := fieldRows_lo r (List.mem_filter.1 h).1

/-- No field of a register that a running ring holds is an enable that holds it (R219). -/
theorem heldField_congr {lo : Nat} (hlo : lo < 32) (h : ∀ k, k ≠ winFieldKey p off lo → regGet t k = regGet s k) :
    heldField t p off = heldField s p off := by
  have hevt : off = 0x28 ∨ off = 0x2C → evtOn t p = evtOn s p := fun ho => by
    have hne : K.EVT_CTRL_enable p ≠ winFieldKey p off lo := by
      simp only [K.EVT_CTRL_enable, winFieldKey, portOff, fieldKey]
      split <;> omega
    rw [evtOn, h _ hne, ← evtOn]
  have hring : 0x100 ≤ off → off < 0x200 → off % 0x20 < 0x10 → ringOn t p ((off - 0x100) / 0x20) = ringOn s p ((off - 0x100) / 0x20) :=
    fun h1 h2 h3 => by
      have hne : K.RING_CTRL_enable p ((off - 0x100) / 0x20) ≠ winFieldKey p off lo := by
        simp only [K.RING_CTRL_enable, winFieldKey, portOff, fieldKey]
        split <;> omega
      rw [ringOn, h _ hne, ← ringOn]
  rw [Bool.eq_iff_iff]
  simp only [heldField, Bool.or_eq_true, Bool.and_eq_true, beq_iff_eq, decide_eq_true_eq]
  grind

/-! A field written -/

/-- What a field is after a write, by its access code (R7). -/
def FieldAfter (p off v : Nat) (r : FieldRow) (s t : State) : Prop :=
  let k := winFieldKey p off r.lo
  let x := bitsAt v r.lo (rowWidth r)
  (r.acc = .rw → regGet t k = if heldField s p off then regGet s k else x) ∧
  (r.acc = .w1c → regGet t k = Nat.land (regGet s k) (2 ^ rowWidth r - 1 - x)) ∧
  (r.acc = .rws → shGet t k = x) ∧
  (r.acc = .ro ∨ r.acc = .wo ∨ r.acc = .rc → regGet t k = regGet s k)

theorem fieldWrite_after (r : FieldRow) (hc : s.curtain = none) : FieldAfter p off v r s (fieldWrite p off v r s) := by
  have hcur : s.curtain.isSome = false := by rw [hc]; rfl
  cases ha : r.acc <;> simp only [FieldAfter, fieldWrite, ha, hcur] <;> simp
  split <;> simp

theorem fieldWrite_ne {k : Nat} {r : FieldRow} (h : k ≠ winFieldKey p off r.lo) :
    regGet (fieldWrite p off v r s) k = regGet s k ∧ shGet (fieldWrite p off v r s) k = shGet s k := by
  unfold fieldWrite
  split
  · split
    · exact ⟨rfl, rfl⟩
    · exact ⟨regGet_regSet_ne _ _ h, rfl⟩
  · split
    · exact ⟨rfl, rfl⟩
    · exact ⟨rfl, shGet_shSet_ne _ _ h⟩
  · exact ⟨regGet_regMod_ne _ _ h, rfl⟩
  all_goals exact ⟨rfl, rfl⟩

/-- A state without the registers and the shadow copies. -/
def windowErased (s : State) : State := { s with reg := [], shadow := [] }

theorem fieldWrite_erased (r : FieldRow) (s : State) : windowErased (fieldWrite p off v r s) = windowErased s := by
  unfold fieldWrite
  split
  · split <;> rfl
  · split <;> rfl
  all_goals rfl

theorem windowErased_eq (h : windowErased t = windowErased s) : t = { s with reg := t.reg, shadow := t.shadow } :=
  congrArg (fun x => { x with reg := t.reg, shadow := t.shadow }) h

/-- The fields of a register with distinct places are written one by one, each from the value that the register had. -/
theorem fieldsWritten (l : List FieldRow) (hl : l.Pairwise fun a b => a.lo ≠ b.lo) (hlo : ∀ r ∈ l, r.lo < 32) (s : State) (hc : s.curtain = none) :
    let t := l.foldl (fun s r => fieldWrite p off v r s) s
    (∀ r ∈ l, FieldAfter p off v r s t) ∧
      ∀ k, (∀ r ∈ l, k ≠ winFieldKey p off r.lo) → regGet t k = regGet s k ∧ shGet t k = shGet s k := by
  induction l generalizing s with
  | nil => exact ⟨nofun, fun _ _ => ⟨rfl, rfl⟩⟩
  | cons r l ih =>
    obtain ⟨hr, hl⟩ := List.pairwise_cons.1 hl
    have hc' : (fieldWrite p off v r s).curtain = none := ((congrArg State.curtain (fieldWrite_erased r s) :)).trans hc
    obtain ⟨hafter, hkept⟩ := ih hl (fun q hq => hlo q (List.mem_cons_of_mem _ hq)) _ hc'
    have hheld : heldField (fieldWrite p off v r s) p off = heldField s p off :=
      heldField_congr (hlo r (List.mem_cons_self ..)) fun k hk => (fieldWrite_ne hk).1
    rw [List.foldl_cons]
    refine ⟨fun q hq => ?_, fun k hk => ?_⟩
    · rcases List.mem_cons.1 hq with rfl | hq
      · obtain ⟨h1, h2⟩ := hkept (winFieldKey p off q.lo) fun x hx e => hr x hx (winFieldKey_inj.1 e)
        simpa only [FieldAfter, h1, h2] using fieldWrite_after (p := p) (off := off) (v := v) q hc
      · obtain ⟨h1, -⟩ := fieldWrite_ne (p := p) (off := off) (v := v) (s := s) (r := r) (k := winFieldKey p off q.lo)
          fun e => hr q hq (winFieldKey_inj.1 e).symm
        simpa only [FieldAfter, h1, hheld] using hafter q hq
    · have ⟨h1, h2⟩ := hkept k fun q hq => hk q (List.mem_cons_of_mem _ hq)
      have ⟨h3, h4⟩ := fieldWrite_ne (v := v) (s := s) (hk r (List.mem_cons_self ..))
      exact ⟨h1.trans h3, h2.trans h4⟩

/-! Which writes only write fields -/

theorem applyWord_plain (h : plainOffset off = true) : applyWord p off v s = plainWrite p off v s := by
  have hno : ∀ x ∈ [0x0000, 0x0030, 0x0400, 0x1408, 0x140C, 0x1420, 0x1428, 0x1644, 0x1900], off ≠ x := by
    rintro x hx rfl
    have hmem := List.contains_iff_mem.2 hx
    simp only [plainOffset, hmem, Bool.true_or, Bool.not_true, Bool.false_eq_true] at h
  simp only [List.mem_cons, List.not_mem_nil, or_false, forall_eq_or_imp, forall_eq] at hno
  obtain ⟨h0, h1, h2, h3, h4, h5, h6, h7, h8⟩ := hno
  simp only [plainOffset, Bool.not_eq_true', Bool.or_eq_false_iff] at h
  obtain ⟨⟨⟨-, hring⟩, hport⟩, heth⟩ := h
  unfold applyWord
  split
  case h_10 =>
    simp only [beq_eq_decide] at hring hport heth
    simp only [hring, hport, heth, Bool.false_eq_true, if_false]
  all_goals contradiction

theorem goodAccess_word (h : off % 4 = 0) : goodAccess off 4 = true := by simp [goodAccess, h]

theorem writeAccess_word (hw : windowOpen s p = true) (h4 : off % 4 = 0) :
    writeAccess p off 4 v s = writeWord p off (v % 2 ^ 32) s := by
  simp [writeAccess, hw, goodAccess_word h4]

theorem writeAccess_plain (hw : windowOpen s p = true) (h4 : off % 4 = 0) (hlow : off < 0x8000) (hf : foreign s p off = false)
    (hp : plainOffset off = true) : writeAccess p off 4 v s = plainWrite p off (v % 2 ^ 32) s := by
  have hok : (decide (0x8000 ≤ off) || foreign s p off) = false := by rw [hf, decide_eq_false (Nat.not_le.2 hlow)]; rfl
  rw [writeAccess_word hw h4, writeWord, hok, applyWord_plain hp]
  rfl

/-- A plain write with no curtain pending, to a register with distinct fields. -/
theorem plainWrite_after (hc : s.curtain = none) (hl : (rowsAt off).Pairwise fun a b => a.lo ≠ b.lo) :
    let t := plainWrite p off v s
    (∀ r ∈ rowsAt off, FieldAfter p off v r s t) ∧ t = { s with reg := t.reg, shadow := t.shadow } ∧
      RegsKept ((rowsAt off).map fun r => winFieldKey p off r.lo) s t := by
  intro t
  have herased := foldl_keeps windowErased (f := fun s r => fieldWrite p off v r s) (rowsAt off) (fun t r => fieldWrite_erased r t) s
  have ht : t = (rowsAt off).foldl (fun s r => fieldWrite p off v r s) s := by
    have hcur := (congrArg State.curtain herased :).trans hc
    simp only [t, plainWrite]
    rw [if_neg]
    simp only [windowErased] at hcur
    rw [hcur]
    simp
  obtain ⟨hafter, hkept⟩ := fieldsWritten (p := p) (off := off) (v := v) (rowsAt off) hl (fun r hr => rowsAt_lo hr) s hc
  rw [ht]
  refine ⟨hafter, windowErased_eq herased, fun k hk => (hkept k fun r hr e => hk ?_).1⟩
  exact List.mem_map.2 ⟨r, hr, e.symm⟩

/-- Settles O14: the write reaches the register's fields, which are written one by one. -/
theorem registerWriteByCode : Obligations.RegisterWriteByCode := by
  intro p off v s hw h4 hlow hf hp hc hl after
  have hv : v.toNat % 2 ^ 32 = v.toNat := Nat.mod_eq_of_lt v.isLt
  have hz : (v.zeroExtend 64).toNat = v.toNat := BitVec.toNat_setWidth_of_le (by decide)
  have hwrite : ∀ x : Nat, x = v.toNat → writeAccess p off.toNat 4 x s = plainWrite p off.toNat v.toNat s := by
    rintro x rfl
    rw [writeAccess_plain hw h4 hlow hf hp, hv]
  have hafter : after (plainWrite p off.toNat v.toNat s) := plainWrite_after hc hl
  refine ⟨⟨_, congrArg Host.Outcome.next (hwrite _ hz), hafter⟩, fun h1c => ⟨_, ?_, hafter⟩⟩
  have hbase : hasW1c (off.toNat % 0x8000) = true := by rwa [Nat.mod_eq_of_lt hlow]
  calc exec (.w1cWrite p off v) s = .next (if hasW1c (off.toNat % 0x8000) then writeAccess p off.toNat 4 v.toNat s else s) := rfl
    _ = .next (plainWrite p off.toNat v.toNat s) := by rw [if_pos hbase, hwrite _ rfl]

/-! Refused accesses -/

theorem denied_counts (p : Nat) (s : State) :
    let t := denied p s
    regGet t (K.HOST_DENIED_count p) = satInc 0xFFFFFFFF (regGet s (K.HOST_DENIED_count p)) ∧ t = { s with reg := t.reg } ∧
      RegsKept [K.HOST_DENIED_count p] s t :=
  ⟨regGet_regInc_self .., rfl, kept_inc (by simp) (kept_refl _ s)⟩

theorem foreign_global (hb : blockAt off = .global) (hp : p ≠ s.mgrPort) : foreign s p off = true := by simp [foreign, hb, hp]

theorem writeAccess_denied {size : Nat} (hw : windowOpen s p = true) (h : goodAccess off size = false ∨
    (size = 4 ∧ off % 4 = 0 ∧ (0x8000 ≤ off ∨ (blockAt off = .global ∧ p ≠ s.mgrPort)))) : writeAccess p off size v s = denied p s := by
  rcases h with h | ⟨rfl, h4, h⟩
  · simp [writeAccess, hw, h]
  · have hbad : (decide (0x8000 ≤ off) || foreign s p off) = true := by
      rcases h with h | ⟨hb, hp⟩
      · rw [decide_eq_true h, Bool.true_or]
      · rw [foreign_global hb hp, Bool.or_true]
    rw [writeAccess_word hw h4, writeWord, hbad, if_pos rfl]

/-- While a curtain is pending no shadow field is written (R252). -/
theorem fieldsWritten_pending (l : List FieldRow) (hl : ∀ r ∈ l, r.acc = .rws) (hc : s.curtain.isSome = true) :
    l.foldl (fun s r => fieldWrite p off v r s) s = s := by
  induction l with
  | nil => rfl
  | cons r l ih =>
    have hr : fieldWrite p off v r s = s := by simp only [fieldWrite, hl r (List.mem_cons_self ..), hc, if_true]
    rw [List.foldl_cons, hr]
    exact ih fun q hq => hl q (List.mem_cons_of_mem _ hq)

theorem plainWrite_pending (hc : s.curtain.isSome = true) (hl : ∀ r ∈ rowsAt off, r.acc = .rws) (hne : rowsAt off ≠ []) :
    plainWrite p off v s = regInc K.CFG_SHADOW_DROPPED_count s := by
  obtain ⟨r, l, hrl⟩ := List.exists_cons_of_ne_nil hne
  have hany : (rowsAt off).any (fun r => r.acc == .rws) = true :=
    List.any_eq_true.2 ⟨r, by simp [hrl], by simp [hl r (by simp [hrl])]⟩
  simp only [plainWrite, fieldsWritten_pending (rowsAt off) hl hc, hc, hany, Bool.and_self, if_true]

/-- Settles O15: an access that is refused is counted in the port's register or not at all, and a write under a curtain is dropped. -/
theorem deniedAccess : Obligations.DeniedAccess := by
  refine ⟨⟨?write, ?read, ?foreignRead⟩, ?pending⟩
  case write =>
    intro p off size v s hw h
    exact ⟨_, congrArg Host.Outcome.next (writeAccess_denied hw h), denied_counts p s⟩
  case read =>
    intro p off size s hw hbad
    have hread : readAccess p off.toNat size s = { denied p s with lastRead := [0] } := by simp [readAccess, hw, hbad]
    obtain ⟨hcount, -, hkept⟩ := denied_counts p s
    exact ⟨_, congrArg Host.Outcome.next hread, rfl, hcount, rfl, hkept⟩
  case foreignRead =>
    intro p off s hw h4 hb hp
    have hword : readWord p off.toNat s = (s, 0) := by simp only [readWord, foreign_global hb hp, if_true]
    refine congrArg Host.Outcome.next ?_
    simp [readAccess, hw, goodAccess_word h4, hword]
  case pending =>
    intro p off v s hw h4 hlow hf hp hc hl hne
    refine ⟨_, congrArg Host.Outcome.next ((writeAccess_plain hw h4 hlow hf hp).trans (plainWrite_pending hc hl hne)), ?_⟩
    exact ⟨regGet_regInc_self .., rfl, kept_inc (by simp) (kept_refl _ s)⟩

/-! Reads -/

/-- The RC fields of a register are left at what a read leaves, and nothing else changes. -/
theorem rcCleared (l : List FieldRow) (s : State) :
    let t := l.foldl (fun s r => if r.acc = .rc then regSet (winFieldKey p off r.lo) (rcLeaves s off) s else s) s
    (∀ r ∈ l, r.acc = .rc → regGet t (winFieldKey p off r.lo) = rcLeaves s off) ∧ windowErased t = windowErased s ∧ t.shadow = s.shadow ∧
      RegsKept ((l.filter fun r => decide (r.acc = .rc)).map fun r => winFieldKey p off r.lo) s t := by
  induction l generalizing s with
  | nil => exact ⟨nofun, rfl, rfl, kept_refl _ s⟩
  | cons r l ih =>
    rw [List.foldl_cons]
    by_cases hr : r.acc = .rc
    · rw [if_pos hr]
      obtain ⟨hset, herased, hshadow, hkept⟩ := ih (regSet (winFieldKey p off r.lo) (rcLeaves s off) s)
      refine ⟨fun q hq hqa => ?_, herased, hshadow, fun k hk => ?_⟩
      · rcases List.mem_cons.1 hq with rfl | hq
        · by_cases hin : winFieldKey p off q.lo ∈ (l.filter fun r => decide (r.acc = .rc)).map fun r => winFieldKey p off r.lo
          · obtain ⟨x, hx, hxk⟩ := List.mem_map.1 hin
            obtain ⟨hxl, hxa⟩ := List.mem_filter.1 hx
            have hx := hset x hxl (by simpa using hxa)
            rwa [hxk] at hx
          · rw [hkept _ hin, regGet_regSet_self]
        · exact hset q hq hqa
      · simp only [List.filter_cons, hr, decide_true, if_true, List.map_cons, List.mem_cons, not_or] at hk
        rw [hkept k hk.2, regGet_regSet_ne _ _ hk.1]
    · rw [if_neg hr]
      obtain ⟨hset, herased, hshadow, hkept⟩ := ih s
      refine ⟨fun q hq hqa => ?_, herased, hshadow, fun k hk => hkept k ?_⟩
      · rcases List.mem_cons.1 hq with rfl | hq
        · exact absurd hqa hr
        · exact hset q hq hqa
      · simpa only [List.filter_cons, hr, decide_false, Bool.false_eq_true, if_false] using hk

theorem clearRc_reads (p off : Nat) (s : State) :
    let t := clearRc p off s
    (∀ r ∈ rowsAt off, r.acc = .rc → regGet t (winFieldKey p off r.lo) = rcLeaves s off) ∧ t = { s with reg := t.reg } ∧
      RegsKept (((rowsAt off).filter fun r => decide (r.acc = .rc)).map fun r => winFieldKey p off r.lo) s t := by
  intro t
  obtain ⟨hset, herased, hshadow, hkept⟩ := rcCleared (p := p) (off := off) (rowsAt off) s
  refine ⟨hset, ?_, hkept⟩
  have h := windowErased_eq herased
  rw [hshadow] at h
  exact h

/-- Settles O16: the read takes the word and leaves the RC fields as `rcLeaves` says; through the active view it only reads. -/
theorem windowRead : Obligations.WindowRead := by
  refine ⟨?base, ?view, ?leaves⟩
  case base =>
    intro p off s hw h4 hlow hf
    have hmod : off.toNat % 0x8000 = off.toNat := Nat.mod_eq_of_lt hlow
    have hread : readAccess p off.toNat 4 s = { clearRc p off.toNat s with lastRead := [wordRead s p off.toNat false] } := by
      simp [readAccess, hw, goodAccess_word h4, readWord, hmod, hf, Nat.not_le.2 hlow]
    obtain ⟨hset, hframe, hkept⟩ := clearRc_reads p off.toNat s
    refine ⟨_, congrArg Host.Outcome.next hread, rfl, hset, ?_, hkept⟩
    rw [hframe]
  case view =>
    intro p off s hw h4 hhigh hf
    have hmod : off.toNat % 0x8000 = off.toNat - 0x8000 := by
      have := off.isLt
      omega
    refine congrArg Host.Outcome.next ?_
    simp [readAccess, hw, goodAccess_word h4, readWord, hmod, hf, hhigh]
  case leaves =>
    intro s
    refine ⟨rfl, fun d => ?_, fun off hoff hjobs htiles => ?_⟩
    · have hd := d.isLt
      have h1 : ¬ 0x2804 + 0x100 * d.val = 0x1008 := by omega
      have h2 : (decide (0x2800 ≤ 0x2804 + 0x100 * d.val) && decide (0x2804 + 0x100 * d.val < 0x2C00) &&
          decide ((0x2804 + 0x100 * d.val) % 0x100 = 4)) = true := by
        simp only [Bool.and_eq_true, decide_eq_true_eq]
        omega
      have h3 : (0x2804 + 0x100 * d.val - 0x2800) / 0x100 = d.val := by omega
      rw [rcLeaves, if_neg h1, if_pos h2, h3]
    · have := off.isLt
      simp only [rcLeaves, Bool.and_eq_true, decide_eq_true_eq]
      rw [if_neg (by omega), if_neg (by omega)]

/-! Configuration requests -/

/-- Settles O17: the request is answered from the registers where the window is open, and by nothing where it is not. -/
theorem configurationRequests : Obligations.ConfigurationRequests := by
  have hopen : ∀ (p : Fin 4) (q : CfgReq) (s : State), windowOpen s p = true → configRequest p q s = (match q with
      | .busMaster true => modPort p (fun h => { h with busMaster := true }) s
      | .busMaster false => masterFall p s
      | r => { s with lastRead := [cfgData s r] }) := fun p q s hw => by
    simp only [configRequest, hw, Bool.not_true, Bool.false_eq_true, if_false] <;> rfl
  refine ⟨fun p s hw => ⟨?vendor, ?device, ?revision, ?classCode, ?header, ?rise, ?fall⟩, fun p q s hw => ?closed, ?deviceReset, ?vendorReset⟩
  case rise =>
    refine ⟨_, congrArg Host.Outcome.next (hopen p (.busMaster true) s hw), portOf_modPort_self .., rfl⟩
  case closed =>
    refine congrArg Host.Outcome.next ?_
    simp [configRequest, hw]
  case deviceReset => decide +kernel
  case vendorReset => decide +kernel
  all_goals exact congrArg Host.Outcome.next (hopen p _ s hw)

end Sys2Proof.Machine
end

section
/-! PROOFS. The machine as a whole: the queue, totality, the reset state (R7, R411). -/

namespace Sys2Proof.Machine

/-- Settles O1: the step matches on the queue. -/
theorem stepRunsFrontCommand : Obligations.StepRunsFrontCommand := by
  refine ⟨fun c rest s => rfl, fun s hs => ?_⟩
  rw [step, hs]

/-- Settles O2: every command's effect is a next state. -/
theorem everyCommandAnswers : Obligations.EveryCommandAnswers := by
  intro c s
  cases c <;> exact ⟨_, rfl, trivial⟩

/-- Settles O4: the reset state lists nothing. -/
theorem resetIsSound : Obligations.ResetIsSound :=
  ⟨⟨rfl, rfl, rfl, rfl⟩, ⟨rfl, rfl, rfl⟩, ⟨List.Pairwise.nil, nofun⟩, nofun⟩

/-- Settles O5: with nothing listed every field reads its reset value. -/
theorem resetState : Obligations.ResetState :=
  ⟨fun _ => ⟨rfl, rfl, rfl⟩, rfl, rfl, rfl, rfl, rfl⟩

end Sys2Proof.Machine
end

section
/-! PROOFS. Attestation and understudy mode (R371 to R376). -/

namespace Sys2Proof.Machine

variable {s t u : State}

/-! The lengths of the attestation objects -/

theorem foldl_length {α β : Type} {f : List β → α → List β} (hf : ∀ b x, (f b x).length = b.length) (l : List α) (b : List β) :
    (l.foldl f b).length = b.length := by
  induction l generalizing b with
  | nil => rfl
  | cons x l ih => rw [List.foldl_cons, ih, hf]

theorem shaRound_length (sp : ShaSpec) (st : List Nat) (kw : Nat × Nat) : (shaRound sp st kw).length = st.length := by
  unfold shaRound
  split <;> rfl

theorem shaBlock_length (sp : ShaSpec) (hs : List Nat) (blk : List Byte) : (shaBlock sp hs blk).length = hs.length := by
  simp [shaBlock, foldl_length (shaRound_length sp)]

@[simp] theorem sha256_length (msg : List Byte) : (sha256 msg).length = 32 := by
  have h : (shaWords sha256Spec sha256Init msg).length = 8 := foldl_length (shaBlock_length sha256Spec) ..
  simp [sha256, List.length_flatMap, beBytes, h]

@[simp] theorem quoteBody_length (s : State) (p r : Nat) : (quoteBody s p r).length = 160 := by
  simp [quoteBody, List.length_flatMap]

/-- A quote has 256 bytes, the certificate 2,048 at most (R371). -/
theorem attObject_length (s : State) (p r : Nat) : (attObject s p ⟨0, r⟩).length = 256 ∧ (attObject s p ⟨1, r⟩).length ≤ 2048 := by
  refine ⟨by simp [attObject], ?_⟩
  have := Config.certificateLen.isLt
  simp [attObject]

/-! Requests -/

theorem find?_tinsert_self {α : Type} (k : Nat) (v : α) {l : List (Nat × α)} (h : ∀ e ∈ l, e.1 ≠ k) :
    (tinsert k v l).find? (fun e => e.1 == k) = some (k, v) := by
  induction l with
  | nil => simp [tinsert]
  | cons e l ih =>
    obtain ⟨hne, hl⟩ := List.forall_mem_cons.1 h
    unfold tinsert
    split
    · rw [List.find?_cons_of_neg (by simpa using hne), ih hl]
    · rw [List.find?_cons_of_pos (by simp)]

/-- The fields of the request written (R371). -/
def attAsked (p op realm : Nat) (s : State) : State := regSet (K.ATT_CTRL_op p) op (regSet (K.ATT_CTRL_realm p) realm s)

theorem attAsked_kept (p op realm : Nat) (s : State) : RegsKept [K.ATT_CTRL_op p, K.ATT_CTRL_realm p] s (attAsked p op realm s) :=
  kept_set (by simp) (kept_set (by simp) (kept_refl _ s))

/-- Whether a port may ask for a realm: the realm is bound to it, or it is the manager's (R371). -/
abbrev attFree (p realm : Nat) (s : State) : Prop := (realmOn s realm = true ∧ realmPort s realm = p) ∨ p = s.mgrPort

/-- The registers of a request that is allowed (R371). -/
def attGranted (p op realm : Nat) (s : State) : State := regSet (K.ATT_STATUS_busy p) 1 (regSet (K.ATT_STATUS_err p) 0 (attAsked p op realm s))

theorem attGranted_reads (p op realm : Nat) (s : State) :
    regGet (attGranted p op realm s) (K.ATT_STATUS_busy p) = 1 ∧ regGet (attGranted p op realm s) (K.ATT_STATUS_err p) = 0 ∧
      RegsKept [K.ATT_CTRL_op p, K.ATT_CTRL_realm p, K.ATT_STATUS_busy p, K.ATT_STATUS_err p] s (attGranted p op realm s) := by
  refine ⟨regGet_regSet_self .., ?_, kept_set (by simp) (kept_set (by simp) (kept_set (by simp) (kept_set (by simp) (kept_refl _ s))))⟩
  rw [attGranted, regGet_regSet_ne _ _ (by grind), regGet_regSet_self]

/-- A request by the state before it (R371). -/
theorem attCtrl_go (p op realm : Nat) (s : State) : attCtrl p op realm true s =
    if regGet s (K.ATT_STATUS_busy p) = 1 then attAsked p op realm s
    else if ¬ attFree p realm s then regSet (K.ATT_STATUS_err p) 1 (attAsked p op realm s)
    else if attAddr s p = 0 then regSet (K.ATT_STATUS_err p) 2 (attAsked p op realm s)
    else { s with reg := (attGranted p op realm s).reg, attest := tinsert p ⟨op, realm⟩ (tdrop p s.attest) } := by
  have hkept := attAsked_kept p op realm s
  have hbusy : regGet (attAsked p op realm s) (K.ATT_STATUS_busy p) = regGet s (K.ATT_STATUS_busy p) := hkept _ (by grind)
  have haddr : attAddr (attAsked p op realm s) p = attAddr s p := by
    rw [attAddr, hkept _ (by grind), hkept _ (by grind), attAddr]
  have hfree : (!(realmOn (attAsked p op realm s) realm && realmPort (attAsked p op realm s) realm == p) && p ≠ (attAsked p op realm s).mgrPort) = true
      ↔ ¬ attFree p realm s := by
    have h1 : realmOn (attAsked p op realm s) realm = realmOn s realm := rfl
    have h2 : realmPort (attAsked p op realm s) realm = realmPort s realm := rfl
    have h3 : (attAsked p op realm s).mgrPort = s.mgrPort := rfl
    grind
  have hgrant : ({ regSet (K.ATT_STATUS_busy p) 1 (regSet (K.ATT_STATUS_err p) 0 (attAsked p op realm s)) with
      attest := tinsert p ⟨op, realm⟩ (tdrop p s.attest) } : State) =
      { s with reg := (attGranted p op realm s).reg, attest := tinsert p ⟨op, realm⟩ (tdrop p s.attest) } := by
    simp only [attGranted, attAsked, regSet]
  rw [← hbusy, ← haddr, ← hgrant]
  simp only [← hfree, attCtrl, Bool.not_true, Bool.false_or, decide_eq_true_eq]
  rfl

/-! The end of a request -/

/-- An object written and its request over, not told yet (R371). -/
def attWritten (p : Nat) (a : Attest) (s : State) : State :=
  let s := regSet (K.ATT_STATUS_busy p) 0 (regSet (K.ATT_STATUS_done p) 1 (hostWrite p (attAddr s p) (attObject s p a) s))
  { s with attest := tdrop p s.attest, freeCtr := s.freeCtr + 1 }

theorem attWritten_reads (p : Nat) (a : Attest) (s : State) : regGet (attWritten p a s) (K.ATT_STATUS_busy p) = 0 ∧ regGet (attWritten p a s) (K.ATT_STATUS_done p) = 1 ∧
    RegsKept [K.ATT_STATUS_busy p, K.ATT_STATUS_done p] s (attWritten p a s) := by
  have hreg : (attWritten p a s).reg = (regSet (K.ATT_STATUS_busy p) 0 (regSet (K.ATT_STATUS_done p) 1 s)).reg := rfl
  refine ⟨?_, ?_, kept_reg hreg (kept_set (by simp) (kept_set (by simp) (kept_refl _ s)))⟩
  · rw [regGet, hreg]
    exact regGet_regSet_self ..
  · rw [regGet, hreg]
    exact (regGet_regSet_ne _ _ (by grind)).trans (regGet_regSet_self ..)

theorem attWritten_fields (p : Nat) (a : Attest) (s : State) : ∃ reg, attWritten p a s = { s with
    reg := reg, attest := tdrop p s.attest, freeCtr := s.freeCtr + 1, mem := { s.mem with host := (hostWrite p (attAddr s p) (attObject s p a) s).mem.host } } := by
  have hset (j k v w : Nat) (u : State) : regSet j v (regSet k w u) = { u with reg := (regSet j v (regSet k w u)).reg } := rfl
  unfold attWritten
  rw [hset]
  exact ⟨_, rfl⟩

theorem attWritten_frame (p : Nat) (a : Attest) (s : State) : attWritten p a s =
    { s with reg := (attWritten p a s).reg, attest := tdrop p s.attest, freeCtr := s.freeCtr + 1, mem := { s.mem with host := (attWritten p a s).mem.host } } := by
  obtain ⟨reg, h⟩ := attWritten_fields p a s
  have hreg : (attWritten p a s).reg = reg := by rw [h]
  have hhost : (attWritten p a s).mem.host = (hostWrite p (attAddr s p) (attObject s p a) s).mem.host := by rw [h]
  rw [hreg, hhost]
  exact h

theorem attDone_writes {p : Nat} {a : Attest} (hf : s.attest.find? (fun x => x.1 == p) = some (p, a)) (hw : windowOpen s p = true)
    (hm : (portOf s p).busMaster = true) : attDone p s = raise (.port p) ⟨0x0806, 0, false, islNode (keyIsl s), a.realm, a.op, p⟩ (attWritten p a s) := by
  have hgo : ¬ (!windowOpen s p || !(portOf s p).busMaster) = true := by
    rw [hw, hm]
    decide
  rw [attDone, hf]
  exact if_neg hgo

theorem attRequest_runs {p : Fin 4} {r : Fin 8} {op : Nat} {c : Instr} (hc : c = .attestQuote p r ∧ op = 0 ∨ c = .attestCertificate p r ∧ op = 1)
    (hw : windowOpen s p = true) : exec c s = .next (attCtrl p op r true s) := by
  obtain ⟨rfl, rfl⟩ | ⟨rfl, rfl⟩ := hc
  · exact congrArg Host.Outcome.next (if_pos hw)
  · exact congrArg Host.Outcome.next (if_pos hw)

/-- A request that is allowed (R371). -/
theorem attRequest_granted {p op r : Nat} (hb : regGet s (K.ATT_STATUS_busy p) ≠ 1) (hf : attFree p r s) (ha : attAddr s p ≠ 0) :
    regGet (attCtrl p op r true s) (K.ATT_STATUS_busy p) = 1 ∧ regGet (attCtrl p op r true s) (K.ATT_STATUS_err p) = 0 ∧
    (attCtrl p op r true s).attest.find? (fun a => a.1 == p) = some (p, ⟨op, r⟩) ∧
    attCtrl p op r true s = { s with reg := (attCtrl p op r true s).reg, attest := (attCtrl p op r true s).attest } ∧
    RegsKept [K.ATT_CTRL_op p, K.ATT_CTRL_realm p, K.ATT_STATUS_busy p, K.ATT_STATUS_err p] s (attCtrl p op r true s) := by
  have hrun : attCtrl p op r true s = { s with reg := (attGranted p op r s).reg, attest := tinsert p ⟨op, r⟩ (tdrop p s.attest) } := by
    rw [attCtrl_go, if_neg hb, if_neg (not_not.2 hf), if_neg ha]
  have hreg : (attCtrl p op r true s).reg = (attGranted p op r s).reg := by rw [hrun]
  have hattest : (attCtrl p op r true s).attest = tinsert p ⟨op, r⟩ (tdrop p s.attest) := by rw [hrun]
  obtain ⟨hbusy, hno, hk⟩ := attGranted_reads p op r s
  refine ⟨?_, ?_, ?_, ?_, kept_reg hreg hk⟩
  · rw [← hbusy, regGet, hreg, regGet]
  · rw [← hno, regGet, hreg, regGet]
  · rw [hattest]
    exact find?_tinsert_self p _ (tdrop_not_mem p s.attest)
  · rw [hreg, hattest]
    exact hrun

/-- A request that is refused: for its realm, or its address (R371). -/
theorem attRequest_refused {p op r e : Nat} (hb : regGet s (K.ATT_STATUS_busy p) ≠ 1)
    (he : ¬ attFree p r s ∧ e = 1 ∨ attFree p r s ∧ attAddr s p = 0 ∧ e = 2) : attCtrl p op r true s = regSet (K.ATT_STATUS_err p) e (attAsked p op r s) := by
  rw [attCtrl_go, if_neg hb]
  obtain ⟨hf, rfl⟩ | ⟨hf, ha, rfl⟩ := he
  · rw [if_pos hf]
  · rw [if_neg (not_not.2 hf), if_pos ha]

/-- Settles O18: a request by `attCtrl_go`, its end by what is written. -/
theorem attestation : Obligations.Attestation := by
  unfold Obligations.Attestation
  refine ⟨?_, fun p a s hf hw hm => ?_, fun p r s => attObject_length s p r⟩
  · intro p r s op c hc hw free
    have hrun := attRequest_runs hc hw
    have hasked := attAsked_kept p op r s
    refine ⟨fun hb hfree ha => ⟨_, hrun, attRequest_granted hb hfree ha⟩, fun e hb he => ?_, fun hb => ?_⟩
    · rw [attRequest_refused hb he] at hrun
      refine ⟨_, hrun, regGet_regSet_self .., rfl, kept_set (by simp) fun k hk => hasked k fun hm => hk ?_⟩
      exact List.mem_append_left [K.ATT_STATUS_err p] hm
    · rw [attCtrl_go, if_pos hb] at hrun
      exact ⟨_, hrun, rfl, hasked⟩
  · obtain ⟨hbusy, hdone, hk⟩ := attWritten_reads p a s
    exact ⟨_, congrArg Host.Outcome.next (attDone_writes hf hw hm), _, rfl, rfl, hbusy, hdone, attWritten_frame p a s, hk⟩

/-! Understudy mode -/

theorem orphan_tells (cause : Nat) (s : State) :
    Tells (.realm (undRealm s)) ⟨0x0805, 0, true, islNode (keyIsl s), undRealm s, cause, undVerified s⟩ (orphan cause s) fun u =>
      undState u = 3 ∧ u = { s with reg := u.reg } ∧ RegsKept [K.UND_STATE_state] s u := by
  have hrealm : undRealm (regSet K.UND_STATE_state 3 s) = undRealm s := regGet_regSet_ne _ _ (by grind)
  refine ⟨regSet K.UND_STATE_state 3 s, ?_, regGet_regSet_self .., rfl, kept_set (by simp) (kept_refl _ s)⟩
  simp only [orphan, hrealm]
  rfl

/-- An enable that is a new one, by the state before it (R373, R374, R380). -/
theorem undCtrl_enable {realm : Nat} (hnew : regGet s K.UND_CTRL_enable ≠ 1 ∨ undState s = 2) :
    undCtrl true realm false s =
      if regGet s K.UND_TABLE_CTRL_log2_entries < 6 ∨ 12 < regGet s K.UND_TABLE_CTRL_log2_entries ∨ undTable s = 0 then
        refuseRing s.mgrPort 10 (regGet s K.UND_TABLE_CTRL_log2_entries) (regSet K.UND_CTRL_realm realm s)
      else undBegin (regSet K.UND_CTRL_realm realm s) := by
  have htable : undTable (regSet K.UND_CTRL_realm realm s) = undTable s := by
    rw [undTable, pairGet, regGet_regSet_ne _ _ (by grind), regGet_regSet_ne _ _ (by grind)]
    rfl
  have hin : ¬ (undIn s = true ∧ ¬ undState s = 2) := by
    simp only [undIn, beq_iff_eq]
    rintro ⟨hon, hst⟩
    exact hnew.elim (· hon) hst
  simp [undCtrl, undSwitch, hin, htable, or_assoc]

theorem undBegin_reads (realm : Nat) (s : State) :
    let t := undBegin (regSet K.UND_CTRL_realm realm s)
    undState t = 1 ∧ undRealm t = realm ∧
      t.und = ⟨some (pairGet s K.UND_START_LO_index K.UND_START_HI_index), pairGet s K.UND_START_LO_index K.UND_START_HI_index, none, none, [], []⟩ ∧
      t = { s with reg := t.reg, und := t.und, jobs := s.jobs.map fun j => { j with commit := none } } ∧
      RegsKept [K.UND_CTRL_enable, K.UND_CTRL_realm, K.UND_STATE_state] s t := by
  have hstart : pairGet (regSet K.UND_CTRL_realm realm s) K.UND_START_LO_index K.UND_START_HI_index =
      pairGet s K.UND_START_LO_index K.UND_START_HI_index := by
    rw [pairGet, regGet_regSet_ne _ _ (by grind), regGet_regSet_ne _ _ (by grind), pairGet]
  have hkept : RegsKept [K.UND_CTRL_enable, K.UND_CTRL_realm, K.UND_STATE_state] s
      (regSet K.UND_CTRL_enable 1 (regSet K.UND_STATE_state 1 (regSet K.UND_CTRL_realm realm s))) :=
    kept_set (by simp) (kept_set (by simp) (kept_set (by simp) (kept_refl _ s)))
  simp only [undBegin, hstart]
  refine ⟨?_, ?_, rfl, ?_, hkept⟩
  · exact (regGet_regSet_ne _ _ (by grind)).trans (regGet_regSet_self ..)
  · rw [undRealm, regGet_regSet_ne _ _ (by grind), regGet_regSet_ne _ _ (by grind)]
    exact regGet_regSet_self s K.UND_CTRL_realm realm
  · simp only [regSet]

theorem undEnd_reads (s : State) : regGet (undEnd s) K.UND_CTRL_enable = 0 ∧ undState (undEnd s) = 0 ∧
    (undEnd s).und = { s.und with waiting := [], matched := [] } ∧ undEnd s = { s with reg := (undEnd s).reg, und := (undEnd s).und } ∧
    RegsKept [K.UND_CTRL_enable, K.UND_STATE_state] s (undEnd s) := by
  refine ⟨?_, regGet_regSet_self .., rfl, ?_, kept_set (by simp) (kept_set (by simp) (kept_refl _ s))⟩
  · exact (regGet_regSet_ne _ _ (by grind)).trans (regGet_regSet_self ..)
  · simp only [undEnd, regSet]

/-- The end of understudy mode by a promotion (R374, R376). -/
theorem undLeave_reads (s : State) : undIn (undLeave s) = false ∧ undState (undLeave s) = (if undState s = 2 then 2 else 0) ∧
    (undLeave s).und = { s.und with waiting := [], matched := [] } ∧ undLeave s = { s with reg := (undLeave s).reg, und := (undLeave s).und } ∧
    RegsKept [K.UND_CTRL_enable, K.UND_STATE_state] s (undLeave s) := by
  obtain ⟨hon, hst, hund, hframe, hkept⟩ := undEnd_reads s
  have hin : undIn (regSet K.UND_STATE_state 2 (undEnd s)) = undIn (undEnd s) := by rw [undIn, regGet_regSet_ne _ _ (by grind), undIn]
  have hoff : undIn (undEnd s) = false := by rw [undIn, hon]; rfl
  by_cases h : undState s = 2
  · rw [undLeave, if_pos h, if_pos h]
    refine ⟨hin.trans hoff, regGet_regSet_self .., hund, ?_, kept_set (by simp) hkept⟩
    rw [regSet, hframe]
  · rw [undLeave, if_neg h, if_neg h]
    exact ⟨hoff, hst, hund, hframe, hkept⟩

/-- Settles O19: the branches of `undSwitch` and of the orphaning. -/
theorem understudyMode : Obligations.UnderstudyMode := by
  refine ⟨fun p r s hw hp hon ht h6 h12 => ?good, fun p r s hw hp hon hbad => ?bad, fun p r s hw hp hon => ?promote, fun p r s hw hp hon hst => ?orphan,
    fun s w hst hmem hlate => ?timeout⟩
  case timeout =>
    have hany : (s.und.waiting.any fun u => decide (u.tick + orphanTicks s ≤ s.ticks)) = true := List.any_eq_true.2 ⟨w, hmem, by simpa using hlate⟩
    refine ⟨orphan 0 s, ?_, orphan_tells 0 s⟩
    refine congrArg Host.Outcome.next (if_pos ?_)
    rw [hst, hany]
    rfl
  case orphan =>
    refine ⟨orphan 1 s, exec_manager rfl hw hp ?_, orphan_tells 1 s⟩
    have h : (undState s = 1 || undState s = 2) = true := by simpa using hst
    simp [undCtrl, undIn, hon, hst]
  case good =>
    have hok : ¬ (regGet s K.UND_TABLE_CTRL_log2_entries < 6 ∨ 12 < regGet s K.UND_TABLE_CTRL_log2_entries ∨ undTable s = 0) := by
      rintro (h | h | h) <;> omega
    obtain ⟨hst, hr, hund, hframe, hkept⟩ := undBegin_reads r s
    have hstart : pairGet s K.UND_START_LO_index K.UND_START_HI_index =
        regGet s K.UND_START_LO_index + 2 ^ 32 * regGet s K.UND_START_HI_index := by
      rw [pairGet, addr64, Nat.pow_zero, Nat.one_mul]
    refine ⟨_, exec_manager rfl hw hp ((undCtrl_enable hon).trans (if_neg hok)), hst, hr, ?_, ?_, ?_, ?_, hframe, hkept⟩
    all_goals rw [hund]
    exact hstart
  case bad =>
    have hor : regGet s K.UND_TABLE_CTRL_log2_entries < 6 ∨ 12 < regGet s K.UND_TABLE_CTRL_log2_entries ∨ undTable s = 0 := hbad
    refine ⟨_, exec_manager rfl hw hp ((undCtrl_enable hon).trans (if_pos hor)), regSet K.UND_CTRL_realm r s, ?_, rfl, kept_set (by simp) (kept_refl _ s)⟩
    rw [refuseRing, hp]
  case promote =>
    have hleave : undCtrl false r false s = undLeave s := by simp [undCtrl, undSwitch, undIn, hon]
    refine ⟨_, exec_manager rfl hw hp hleave, ?_⟩
    exact undLeave_reads s

end Sys2Proof.Machine
end

section
/-! PROOFS. Event records (R240 to R243): what an event leaves of a port, and the record, the gap marker and the counts it writes. -/

namespace Sys2Proof.Machine

variable {s t u : State}

/-! What events leave of a port -/

/-- A port without its event bookkeeping. -/
def bookless (h : HostPort) : HostPort := { h with evtProducer := 0, attn := [], gap := none, dropped := 0 }

theorem bookless_modPort (p q : Nat) {f : HostPort → HostPort} (hf : ∀ h, bookless (f h) = bookless h) :
    bookless (portOf (modPort p f s) q) = bookless (portOf s q) := by
  by_cases h : q = p
  · rw [h, portOf_modPort_self, hf]
  · rw [portOf_modPort_ne _ _ h]

theorem bookless_putRecord (p q : Nat) (bs : List Byte) (attn : Bool) (s : State) :
    bookless (portOf (putRecord p bs attn s) q) = bookless (portOf s q) := by
  rw [putRecord, bookless_modPort, portOf_hostWrite]
  exact fun _ => rfl

theorem bookless_flushGap (p q : Nat) (s : State) : bookless (portOf (flushGap p s) q) = bookless (portOf s q) := by
  unfold flushGap
  split
  · rfl
  · split
    · rw [bookless_modPort, bookless_putRecord]
      exact fun _ => rfl
    · rfl

theorem bookless_countDropped (p q : Nat) (s : State) : bookless (portOf (countDropped p s) q) = bookless (portOf s q) := by
  rw [countDropped, bookless_modPort]
  exact fun _ => rfl

theorem bookless_loseEvent (p q : Nat) (s : State) : bookless (portOf (loseEvent p s) q) = bookless (portOf s q) := by
  rw [loseEvent, bookless_countDropped, bookless_modPort]
  exact fun _ => rfl

theorem bookless_sendEvent (p q : Nat) (e : Ev) (s : State) : bookless (portOf (sendEvent p e s) q) = bookless (portOf s q) := by
  unfold sendEvent
  split
  · exact bookless_countDropped ..
  · split
    · exact bookless_countDropped ..
    · dsimp only
      split
      · rw [bookless_putRecord, bookless_flushGap]
      · rw [bookless_loseEvent, bookless_flushGap]

/-- An event changes only the bookkeeping of a port. -/
theorem bookless_raise (d : EvDest) (e : Ev) (q : Nat) (s : State) : bookless (portOf (raise d e s) q) = bookless (portOf s q) := by
  refine (foldl_keeps (fun t => bookless (portOf t q)) _ (fun t p => bookless_sendEvent p q e t) _).trans ?_
  split <;> rfl

@[simp] theorem ringOf_raise (d : EvDest) (e : Ev) (p i : Nat) (s : State) : ringOf (raise d e s) p i = ringOf s p i :=
  (congrArg (fun h : HostPort => tget Ring.init i h.rings) (bookless_raise d e p s) :)

@[simp] theorem pollFails_raise (d : EvDest) (e : Ev) (p : Nat) (s : State) : (portOf (raise d e s) p).pollFails = (portOf s p).pollFails :=
  (congrArg HostPort.pollFails (bookless_raise d e p s) :)

theorem ringOf_flushGap (p q i : Nat) (s : State) : ringOf (flushGap p s) q i = ringOf s q i :=
  (congrArg (fun h : HostPort => tget Ring.init i h.rings) (bookless_flushGap p q s) :)

theorem pollFails_flushGap (p q : Nat) (s : State) : (portOf (flushGap p s) q).pollFails = (portOf s q).pollFails :=
  (congrArg HostPort.pollFails (bookless_flushGap p q s) :)

/-! An event offered to one host -/

/-- An event below class C concerns one host (R242, R245). -/
theorem raise_port {e : Ev} (p : Nat) (h : e.cls < 3) (s : State) : ∃ c, raise (.port p) e s = sendEvent p e { s with lastClass := c } := by
  rw [raise, evPorts, if_neg (Nat.not_le.2 h)]
  split
  · exact ⟨e.cls, rfl⟩
  · exact ⟨s.lastClass, rfl⟩

theorem sendEvent_lost {p : Nat} {e : Ev} (h : (portOf s p).busMaster = false ∨ (portOf s p).quiet = true) :
    sendEvent p e s = countDropped s.mgrPort s := by
  have hc : ((portOf s p).quiet || !(portOf s p).busMaster) = true := by
    rcases h with h | h <;> simp [h]
  rw [sendEvent, if_pos hc]

/-- An event at a host that takes records and has its event ring on (R243). -/
theorem sendEvent_on {p : Nat} {e : Ev} (hb : (portOf s p).busMaster = true) (hq : (portOf s p).quiet = false) (ho : evtOn s p = true) :
    sendEvent p e s =
      if evtFree (flushGap p s) p && (portOf (flushGap p s) p).gap.isNone then
        putRecord p (evBytes (flushGap p s) p (portOf (flushGap p s) p).evtProducer e) (e.attn || decide (3 ≤ e.cls)) (flushGap p s)
      else loseEvent p (flushGap p s) := by
  rw [sendEvent, if_neg (by simp [hb, hq]), if_neg (by simp [ho])]

theorem flushGap_none {p : Nat} (h : (portOf s p).gap = none) : flushGap p s = s := by
  rw [flushGap, h]

theorem flushGap_full {p : Nat} (h : evtFree s p = false) : flushGap p s = s := by
  unfold flushGap
  split
  · rfl
  · rw [if_neg (by simp [h])]

theorem flushGap_some {p : Nat} {g : Gap} (ho : evtOn s p = true) (hf : evtFree s p = true) (h : (portOf s p).gap = some g) :
    flushGap p s = modPort p (fun h => { h with gap := none }) (putRecord p (gapBytes s p (portOf s p).evtProducer g) true s) := by
  rw [flushGap, h]
  simp [ho, hf]

/-- An event for which a slot is free and no gap marker waits (R243). -/
theorem sendEvent_put {p : Nat} {e : Ev} (hb : (portOf s p).busMaster = true) (hq : (portOf s p).quiet = false) (ho : evtOn s p = true)
    (hf : evtFree s p = true) (hg : (portOf s p).gap = none) :
    sendEvent p e s = putRecord p (evBytes s p (portOf s p).evtProducer e) (e.attn || decide (3 ≤ e.cls)) s := by
  rw [sendEvent_on hb hq ho, flushGap_none hg, hf, hg]
  rfl

/-- An event for which no slot is free (R243). -/
theorem sendEvent_full {p : Nat} {e : Ev} (hb : (portOf s p).busMaster = true) (hq : (portOf s p).quiet = false) (ho : evtOn s p = true)
    (hf : evtFree s p = false) : sendEvent p e s = loseEvent p s := by
  rw [sendEvent_on hb hq ho, flushGap_full hf, hf]
  rfl

theorem portOf_loseEvent (p : Nat) (s : State) : portOf (loseEvent p s) p = { portOf s p with
    dropped := satInc max32 (portOf s p).dropped,
    gap := some (match (portOf s p).gap with
      | none => ⟨1, timeWord s, timeWord s⟩
      | some g => ⟨g.count + 1, g.first, timeWord s⟩) } := by
  rw [loseEvent, countDropped, portOf_modPort_self, portOf_modPort_self]
  cases (portOf s p).gap <;> rfl

theorem portOf_putRecord (p : Nat) (bs : List Byte) (attn : Bool) (s : State) :
    portOf (putRecord p bs attn s) p = { portOf s p with
      evtProducer := ((portOf s p).evtProducer + 1) % 65536,
      attn := if attn then (portOf s p).attn ++ [(portOf s p).evtProducer] else (portOf s p).attn } := by
  rw [putRecord, portOf_modPort_self]
  rfl

theorem portOf_putRecord_ne {p q : Nat} (h : q ≠ p) (bs : List Byte) (attn : Bool) (s : State) :
    portOf (putRecord p bs attn s) q = portOf s q := by
  rw [putRecord, portOf_modPort_ne _ _ h]
  rfl

theorem hostRead_modPort (p q a n : Nat) (f : HostPort → HostPort) (s : State) : hostRead (modPort p f s) q a n = hostRead s q a n := rfl

theorem hostRead_putRecord (p : Nat) {bs : List Byte} (attn : Bool) (hl : bs.length = 32) (hb : evtBase s p + 32 * evtEntries s p ≤ 2 ^ 64) :
    hostRead (putRecord p bs attn s) p (evtBase s p + 32 * ((portOf s p).evtProducer % evtEntries s p)) 32 = bs := by
  have hlt : (portOf s p).evtProducer % evtEntries s p < evtEntries s p := Nat.mod_lt _ (Nat.two_pow_pos _)
  rw [putRecord, hostRead_modPort, ← hl]
  exact hostRead_hostWrite _ _ _ (by rw [hl]; omega)

/-! The fields of a record -/

theorem timeWord_lt (s : State) : timeWord s < 2 ^ 64 := by
  have := tbNs_lt s
  unfold timeWord
  split <;> omega

theorem evBytes_fields (p idx : Nat) {e : Ev} (h : e.cls < 3) (s : State) :
    let b := evBytes s p idx e
    fieldAt b 0 2 = e.code % 2 ^ 16 ∧ fieldAt b 2 1 = e.cls ∧
    fieldAt b 3 1 = (idx / evtEntries s p + 1) % 2 + 2 * e.attn.toNat + 4 * (!tbValid s).toNat ∧ fieldAt b 4 4 = e.src % 2 ^ 32 ∧
    fieldAt b 8 8 = timeWord s ∧ fieldAt b 16 4 = e.a0 % 2 ^ 32 ∧ fieldAt b 20 4 = e.a1 % 2 ^ 32 ∧ fieldAt b 24 8 = e.a2 % 2 ^ 64 := by
  have hflags : ofBits [phaseBit (evtEntries s p) idx == 1, e.attn || decide (3 ≤ e.cls), !tbValid s] % 256 =
      (idx / evtEntries s p + 1) % 2 + 2 * e.attn.toNat + 4 * (!tbValid s).toNat := by
    have hcls : decide (3 ≤ e.cls) = false := decide_eq_false (Nat.not_le.2 h)
    rw [hcls, Bool.or_false, phaseBit]
    rcases Nat.mod_two_eq_zero_or_one (idx / evtEntries s p + 1) with hp | hp <;> rw [hp] <;> cases e.attn <;> cases tbValid s <;> rfl
  have htime : timeWord s % 256 ^ 8 = timeWord s := Nat.mod_eq_of_lt (timeWord_lt s)
  simp only [evBytes, List.append_assoc]
  refine ⟨?code, ?cls, ?flags, ?src, ?time, ?a0, ?a1, ?a2⟩
  case cls => simp [fieldAt_append_right, Nat.mod_eq_of_lt (show e.cls < 256 by omega)]
  case flags => simpa [fieldAt_append_right] using hflags
  case time => simpa [fieldAt_append_right] using htime
  all_goals simp [fieldAt_append_right]

/-! An event of class C or D, offered to several hosts -/

/-- An event offered to another host counts one loss at most at this one. -/
theorem portOf_sendEvent_ne {p q : Nat} (h : q ≠ p) (e : Ev) (s : State) :
    ∃ d, portOf (sendEvent p e s) q = { portOf s q with dropped := d } := by
  have hflush : portOf (flushGap p s) q = portOf s q := by
    unfold flushGap
    split
    · rfl
    · split
      · rw [portOf_modPort_ne _ _ h, portOf_putRecord_ne h]
      · rfl
  unfold sendEvent
  split
  · by_cases hm : q = s.mgrPort
    · exact ⟨_, by rw [countDropped, hm, portOf_modPort_self]⟩
    · exact ⟨_, by rw [countDropped, portOf_modPort_ne _ _ hm]⟩
  · split
    · exact ⟨_, by rw [countDropped, portOf_modPort_ne _ _ h]⟩
    · dsimp only
      split
      · exact ⟨_, by rw [portOf_putRecord_ne h, hflush]⟩
      · exact ⟨_, by rw [loseEvent, countDropped, portOf_modPort_ne _ _ h, portOf_modPort_ne _ _ h, hflush]⟩

/-- A host whose event ring takes a record, whatever its count of lost ones. -/
def TakesRecord (p n : Nat) (s : State) : Prop :=
  (portOf s p).busMaster = true ∧ (portOf s p).quiet = false ∧ evtOn s p = true ∧ evtFree s p = true ∧ (portOf s p).gap = none ∧
    (portOf s p).evtProducer = n

theorem sendEvent_reg (p : Nat) (e : Ev) (s : State) : (sendEvent p e s).reg = s.reg := by
  obtain ⟨_, _, _, h⟩ := sendEvent_told p e s
  rw [h]

theorem takesRecord_sendEvent {p q n : Nat} (h : q ≠ p) (e : Ev) (hs : TakesRecord q n s) : TakesRecord q n (sendEvent p e s) := by
  obtain ⟨d, hd⟩ := portOf_sendEvent_ne h e s
  have hreg (k : Nat) : regGet (sendEvent p e s) k = regGet s k := by rw [regGet, sendEvent_reg, regGet]
  unfold TakesRecord evtOn evtFree evtEntries at hs ⊢
  rw [hd, hreg, hreg]
  exact hs

theorem evtProducer_sendEvent {p n : Nat} (e : Ev) (hs : TakesRecord p n s) : (portOf (sendEvent p e s) p).evtProducer = (n + 1) % 65536 := by
  obtain ⟨hb, hq, ho, hf, hg, rfl⟩ := hs
  rw [sendEvent_put hb hq ho hf hg, portOf_putRecord]

theorem evtProducer_keeps {p : Nat} {e : Ev} (l : List Nat) (h : p ∉ l) (s : State) :
    (portOf (l.foldl (fun s q => sendEvent q e s) s) p).evtProducer = (portOf s p).evtProducer := by
  induction l generalizing s with
  | nil => rfl
  | cons q l ih =>
    obtain ⟨hq, hl⟩ := List.ne_and_not_mem_of_not_mem_cons h
    obtain ⟨d, hd⟩ := portOf_sendEvent_ne hq e s
    rw [List.foldl_cons, ih hl, hd]

theorem sendEvent_lastClass (p : Nat) (e : Ev) (s : State) : (sendEvent p e s).lastClass = s.lastClass := by
  have hflush : (flushGap p s).lastClass = s.lastClass := by
    unfold flushGap
    split
    · rfl
    · split <;> rfl
  unfold sendEvent
  split
  · rfl
  · split
    · rfl
    · dsimp only
      split <;> exact hflush

/-- A waiting gap marker is written, and behind it the record, where two slots are free (R243). -/
theorem sendEvent_flushes {p : Nat} {e : Ev} {g : Gap} (hb : (portOf s p).busMaster = true) (hq : (portOf s p).quiet = false) (ho : evtOn s p = true)
    (hf : evtFree s p = true) (hg : (portOf s p).gap = some g)
    (hn : (((portOf s p).evtProducer + 1) % 65536 + 65536 - (portOf s p).evtConsumer) % 65536 < evtEntries s p) :
    let t := sendEvent p e s
    (portOf t p).gap = none ∧ (portOf t p).evtProducer = (((portOf s p).evtProducer + 1) % 65536 + 1) % 65536 ∧
      (portOf t p).dropped = (portOf s p).dropped := by
  have hport : portOf (flushGap p s) p = { portOf s p with
      gap := none, evtProducer := ((portOf s p).evtProducer + 1) % 65536, attn := (portOf s p).attn ++ [(portOf s p).evtProducer] } := by
    rw [flushGap_some ho hf hg, portOf_modPort_self, portOf_putRecord]
    rfl
  have hreg : (flushGap p s).reg = s.reg := by
    obtain ⟨_, _, _, h⟩ := flushGap_told p s
    rw [h]
  have hfree : evtFree (flushGap p s) p = true := by
    rw [evtFree, hport, evtEntries, regGet, hreg]
    exact decide_eq_true hn
  have hsend := sendEvent_on (e := e) hb hq ho
  rw [hfree, if_pos (by rw [hport]; rfl)] at hsend
  rw [hsend]
  dsimp only
  rw [portOf_putRecord, hport]
  exact ⟨rfl, rfl, rfl⟩

/-- Among hosts that an event is offered to, each once, one that takes it has one record more. -/
theorem evtProducer_foldl {p n : Nat} (e : Ev) {l : List Nat} (hl : l.Nodup) (hp : p ∈ l) (hs : TakesRecord p n s) :
    (portOf (l.foldl (fun s q => sendEvent q e s) s) p).evtProducer = (n + 1) % 65536 := by
  induction l generalizing s with
  | nil => cases hp
  | cons q l ih =>
    obtain ⟨hq, hl⟩ := List.nodup_cons.1 hl
    rw [List.foldl_cons]
    rcases List.mem_cons.1 hp with rfl | hp
    · rw [evtProducer_keeps l hq, evtProducer_sendEvent e hs]
    · exact ih hl hp (takesRecord_sendEvent (fun h : p = q => hq (h ▸ hp)) e hs)

/-- Settles O32: the five ways of `sendEvent` at one host, and the hosts of an event of class C or D one by one. -/
theorem eventRecords : Obligations.EventRecords := by
  refine ⟨fun d e s => ⟨raise_told d e s, raise_ring d e s⟩, fun p e s hc hlost => ?lost, fun p e s hc hb hq ho hf hg hr => ?put,
    fun p e s hc hb hq ho hf => ?full, fun p e s g hc hb hq ho hf hg => ?flushed, fun e s hc => ?all⟩
  case lost =>
    obtain ⟨c, hc⟩ := raise_port p hc s
    rw [hc, sendEvent_lost (s := { s with lastClass := c }) hlost]
    exact ⟨rfl, portOf_modPort_self .., fun q hq => portOf_modPort_ne _ _ hq⟩
  case put =>
    have hfields := evBytes_fields p (portOf s p).evtProducer hc s
    have hattn : (e.attn || decide (3 ≤ e.cls)) = e.attn := by simp [hc]
    obtain ⟨c, hc⟩ := raise_port p hc s
    rw [hc, sendEvent_put (s := { s with lastClass := c }) hb hq ho hf hg, hattn]
    intro t n b
    have hb : b = evBytes s p n e := hostRead_putRecord p e.attn (evBytes_length ..) hr
    rw [hb]
    obtain ⟨hcode, hcls, hflags, hsrc, htime, h0, h1, h2⟩ := hfields
    exact ⟨hcode, hcls, hflags, hsrc, htime, h0, h1, h2, portOf_putRecord ..⟩
  case full =>
    obtain ⟨c, hc⟩ := raise_port p hc s
    rw [hc, sendEvent_full (s := { s with lastClass := c }) hb hq ho hf]
    exact ⟨rfl, portOf_loseEvent p { s with lastClass := c }⟩
  case flushed =>
    intro n hn
    obtain ⟨c, hc⟩ := raise_port p hc s
    rw [hc]
    exact sendEvent_flushes (s := { s with lastClass := c }) hb hq ho hf hg hn
  case all =>
    have hcls : (raise .manager e s).lastClass = e.cls := by
      refine (foldl_keeps State.lastClass _ (fun t p => sendEvent_lastClass p e t) _).trans ?_
      rw [if_pos (by omega)]
    refine ⟨hcls, fun p hb hq ho hf hg => ?_⟩
    have hports : evPorts { s with lastClass := e.cls } .manager e.cls = (List.range 4).filter fun p => evtOn s p || p == s.mgrPort := if_pos hc
    have hraise : raise .manager e s = ((List.range 4).filter fun p => evtOn s p || p == s.mgrPort).foldl (fun s p => sendEvent p e s)
        { s with lastClass := e.cls } := by
      rw [raise, if_pos (by omega), hports]
    rw [hraise]
    refine evtProducer_foldl e (List.nodup_range.filter _) ?_ ⟨hb, hq, ho, hf, hg, rfl⟩
    exact List.mem_filter.2 ⟨List.mem_range.2 p.isLt, by rw [ho]; rfl⟩

end Sys2Proof.Machine
end

section
/-! PROOFS. The status block (R245, R249). -/

namespace Sys2Proof.Machine

variable {s t u : State}

theorem ofBits_lt (l : List Bool) : ofBits l < 2 ^ l.length := by
  induction l with
  | nil => decide
  | cons b l ih =>
    have := Bool.toNat_lt b
    rw [ofBits, List.length_cons, Nat.pow_succ]
    omega

theorem reasons_lt (s : State) (p : Nat) : reasons s p < 2 ^ 16 := Nat.lt_trans (ofBits_lt _) (show 2 ^ 9 < 2 ^ 16 by decide)

/-- The block as the fields of R245 one after the other. -/
theorem statusBytes_eq (s : State) (p hb : Nat) :
    statusBytes s p hb = leBytes 4 hb ++ (leBytes 1 (opCode s.op + if s.inDrive then 128 else 0) ++ (leBytes 1 0 ++ (leBytes 2 (reasons s p) ++
      (leBytes 2 (ringOf s p 0).sqConsumed ++ (leBytes 2 (ringOf s p 1).sqConsumed ++ (leBytes 2 (ringOf s p 2).sqConsumed ++
      (leBytes 2 (ringOf s p 3).sqConsumed ++ (leBytes 2 (ringOf s p 4).sqConsumed ++ (leBytes 2 (ringOf s p 5).sqConsumed ++
      (leBytes 2 (ringOf s p 6).sqConsumed ++ (leBytes 2 (ringOf s p 7).sqConsumed ++ (leBytes 2 (portOf s p).evtProducer ++ (leBytes 2 0 ++
      (leBytes 4 (portOf s p).dropped ++ (leBytes 2 (s.jobs.filter fun j => j.port == p).length ++ (leBytes 2 s.jobs.length ++
      (leBytes 1 s.lastClass ++ (leBytes 3 0 ++ (leBytes 8 (timeWord s) ++ (leBytes 8 (if undIn s then undVerified s else 0) ++
      (leBytes 4 0 ++ leBytes 4 hb))))))))))))))))))))) := by
  have hrings : ((List.range 8).flatMap fun i => leBytes 2 (ringOf s p i).sqConsumed) =
      leBytes 2 (ringOf s p 0).sqConsumed ++ (leBytes 2 (ringOf s p 1).sqConsumed ++ (leBytes 2 (ringOf s p 2).sqConsumed ++
      (leBytes 2 (ringOf s p 3).sqConsumed ++ (leBytes 2 (ringOf s p 4).sqConsumed ++ (leBytes 2 (ringOf s p 5).sqConsumed ++
      (leBytes 2 (ringOf s p 6).sqConsumed ++ (leBytes 2 (ringOf s p 7).sqConsumed ++ []))))))) := rfl
  have hzeros : ([0] : List Byte) = leBytes 1 0 ∧ ([0, 0] : List Byte) = leBytes 2 0 ∧ zeros 3 = leBytes 3 0 ∧ zeros 4 = leBytes 4 0 := by decide
  obtain ⟨h1, h2, h3, h4⟩ := hzeros
  rw [statusBytes, statusFields, List.take_left' (by simp [List.length_flatMap]), List.drop_left' (by simp [List.length_flatMap]), hrings, h2, h1, h3, h4]
  simp only [List.append_assoc, List.append_nil]

theorem statusBytes_length (s : State) (p hb : Nat) : (statusBytes s p hb).length = 64 := by
  rw [statusBytes_eq]
  simp

/-- What each field of a status block reads (R245). -/
theorem statusBytes_fields (s : State) (p hb : Nat) :
    let b := statusBytes s p hb
    fieldAt b 0 4 = hb % 2 ^ 32 ∧ fieldAt b 60 4 = hb % 2 ^ 32 ∧
    fieldAt b 4 1 = opCode s.op + (if s.inDrive then 128 else 0) ∧ fieldAt b 5 1 = 0 ∧ fieldAt b 6 2 = reasons s p ∧
    (∀ i : Fin 8, fieldAt b (8 + 2 * i) 2 = (ringOf s p i).sqConsumed % 2 ^ 16) ∧ fieldAt b 24 2 = (portOf s p).evtProducer % 2 ^ 16 ∧
    fieldAt b 26 2 = 0 ∧ fieldAt b 28 4 = (portOf s p).dropped % 2 ^ 32 ∧ fieldAt b 32 2 = (s.jobs.filter fun j => j.port == p).length % 2 ^ 16 ∧
    fieldAt b 34 2 = s.jobs.length % 2 ^ 16 ∧ fieldAt b 36 1 = s.lastClass % 256 ∧ fieldAt b 37 3 = 0 ∧ fieldAt b 40 8 = timeWord s % 2 ^ 64 ∧
    fieldAt b 48 8 = (if undIn s = true then undVerified s else 0) % 2 ^ 64 ∧ fieldAt b 56 4 = 0 := by
  have hop : (opCode s.op + if s.inDrive then 128 else 0) % 256 = opCode s.op + if s.inDrive then 128 else 0 := by
    cases s.op <;> cases s.inDrive <;> rfl
  have hreasons : reasons s p % 65536 = reasons s p := Nat.mod_eq_of_lt (reasons_lt s p)
  dsimp only
  rw [statusBytes_eq]
  refine ⟨?heartbeat, ?copy, ?op, ?zero, ?reasons, ?rings, ?producer, ?zero', ?dropped, ?mine, ?jobs, ?cls, ?zeros, ?time, ?verified, ?zeros'⟩
  case op => simpa [fieldAt_append_right] using hop
  case reasons => simpa [fieldAt_append_right] using hreasons
  case rings =>
    intro i
    fin_cases i <;> simp [fieldAt_append_right]
  all_goals simp [fieldAt_append_right]

/-- Settles O21: the block written reads back, field by field, and the port's bookkeeping follows. -/
theorem statusBlock : Obligations.StatusBlock := by
  intro p s hp ha
  have hexec : exec (.statusBlockWrite p) s = .next (writeStatus p s) := congrArg Host.Outcome.next (if_pos hp)
  refine ⟨_, hexec, ?_⟩
  have hread : hostRead (writeStatus p s) p (statusAt s p) 64 = statusBytes s p (((portOf s p).heartbeat + 1) % 2 ^ 32) := by
    have h := hostRead_hostWrite (s := s) p (statusAt s p) (statusBytes s p (((portOf s p).heartbeat + 1) % 2 ^ 32))
      (by rw [statusBytes_length]; omega)
    rw [statusBytes_length] at h
    simp only [writeStatus, setReady, hostRead_modPort, h]
  obtain ⟨hheart, hcopy, hop, hzero, hreasons, hrings, hprod, hzero', hdropped, hmine, hjobs, hcls, hzeros, htime, hverified, hzeros'⟩ :=
    statusBytes_fields s p (((portOf s p).heartbeat + 1) % 2 ^ 32)
  beta_reduce
  rw [hread]
  refine ⟨by rw [hheart, Nat.mod_mod], by rw [hcopy, Nat.mod_mod], hop, hzero, hreasons, hrings, hprod, hzero', hdropped, hmine, hjobs, hcls, hzeros, htime,
    hverified, hzeros', ?port, fun q hq => ?others, fun k hk => ?memory, ?frame⟩
  case port => rw [writeStatus, setReady, portOf_modPort_self, portOf_modPort_self, portOf_hostWrite]
  case others => rw [writeStatus, setReady, portOf_modPort_ne _ _ hq, portOf_modPort_ne _ _ hq, portOf_hostWrite]
  case memory =>
    simp only [writeStatus, setReady, modPort]
    refine hostWrite_ne (s := s) fun i hi => hk i ?_
    rwa [statusBytes_length] at hi
  case frame => simp only [writeStatus, setReady, modPort, hostWrite]

end Sys2Proof.Machine
end

section
/-! PROOFS. Doorbell polls (R225 to R227): the indices read, and the jobs accepted. -/

namespace Sys2Proof.Machine

variable {s t u : State}

/-! Acceptance -/

/-- Jobs that one state has behind those of another: new ones, from rings in use and valid, under rising numbers; the rest of what acceptance
looks at is as it was. -/
structure Accepts (s t : State) (new : List Job) : Prop where
  jobs : t.jobs = s.jobs ++ new
  numbers : new.map (·.acc) = (List.range new.length).map (s.accCtr + ·)
  counter : t.accCtr = s.accCtr + new.length
  fresh : ∀ j ∈ new, j.phase = .accepted ∧ ringOn s j.port j.ring = true ∧ hostOn s j.port = true ∧ (ringOf s j.port j.ring).invalid = false
  ringOn : ∀ p i, ringOn t p i = ringOn s p i
  hostOn : ∀ p, hostOn t p = hostOn s p
  producer : ∀ p i, (ringOf t p i).sqProducer = (ringOf s p i).sqProducer
  consumer : ∀ p i, (ringOf t p i).cqConsumer = (ringOf s p i).cqConsumer
  invalid : ∀ p i, (ringOf t p i).invalid = (ringOf s p i).invalid
  fails : ∀ p, (portOf t p).pollFails = (portOf s p).pollFails

theorem Accepts.refl (s : State) : Accepts s s [] :=
  ⟨(List.append_nil _).symm, rfl, rfl, nofun, fun _ _ => rfl, fun _ => rfl, fun _ _ => rfl, fun _ _ => rfl, fun _ _ => rfl, fun _ => rfl⟩

theorem Accepts.trans {l m : List Job} (h : Accepts s t l) (h' : Accepts t u m) : Accepts s u (l ++ m) where
  jobs := by rw [h'.jobs, h.jobs, List.append_assoc]
  numbers := by
    rw [List.map_append, h.numbers, h'.numbers, List.length_append, List.range_add, List.map_append, List.map_map, h.counter]
    simp [Function.comp_def, Nat.add_assoc]
  counter := by rw [h'.counter, h.counter, List.length_append, Nat.add_assoc]
  fresh := by
    intro j hj
    rcases List.mem_append.1 hj with hj | hj
    · exact h.fresh j hj
    · obtain ⟨hp, hr, hh, hi⟩ := h'.fresh j hj
      exact ⟨hp, h.ringOn .. ▸ hr, h.hostOn .. ▸ hh, h.invalid .. ▸ hi⟩
  ringOn p i := (h'.ringOn p i).trans (h.ringOn p i)
  hostOn p := (h'.hostOn p).trans (h.hostOn p)
  producer p i := (h'.producer p i).trans (h.producer p i)
  consumer p i := (h'.consumer p i).trans (h.consumer p i)
  invalid p i := (h'.invalid p i).trans (h.invalid p i)
  fails p := (h'.fails p).trans (h.fails p)

theorem portOf_modRing (p q i : Nat) (f : Ring → Ring) (s : State) :
    portOf (modRing p i f s) q = if q = p then { portOf s p with rings := tmod Ring.init i f (portOf s p).rings } else portOf s q := by
  split
  · rw [‹q = p›, modRing, portOf_modPort_self]
  · rw [modRing, portOf_modPort_ne _ _ ‹_›]

theorem ringOf_modRing (p q i j : Nat) (f : Ring → Ring) (s : State) :
    ringOf (modRing p i f s) q j = if q = p ∧ j = i then f (ringOf s p i) else ringOf s q j := by
  by_cases hq : q = p
  · subst hq
    by_cases hj : j = i
    · rw [if_pos ⟨rfl, hj⟩, hj, ringOf_modRing_self]
    · rw [if_neg (fun h => hj h.2), ringOf, portOf_modRing, if_pos rfl, tget_tmod_ne _ _ _ hj, ringOf]
  · rw [if_neg (fun h => hq h.1), ringOf, portOf_modRing, if_neg hq, ringOf]

theorem acceptOne_accepts {p i r : Nat} (h : mayAccept s p i r = true) : ∃ new, Accepts s (acceptOne p i r s) new := by
  simp only [mayAccept, Bool.and_eq_true, Bool.not_eq_true'] at h
  obtain ⟨⟨⟨⟨⟨⟨⟨hhost, hring⟩, -⟩, hvalid⟩, -⟩, -⟩, -⟩, -⟩ := h
  have hring' (q j : Nat) : ringOf (acceptOne p i r s) q j =
      if q = p ∧ j = i then { ringOf s p i with sqConsumed := ((ringOf s p i).sqConsumed + 1) % 65536 } else ringOf s q j :=
    ringOf_modRing p q i j _ _
  refine ⟨_, rfl, rfl, rfl, ?_, ?_, ?_, ?_, ?_, ?_, ?_⟩
  · simpa using ⟨hring, hhost, hvalid⟩
  · exact fun q j => congrArg (· == 1) (regGet_regSet_ne _ _ (by grind))
  · exact fun q => congrArg (· == 1) (regGet_regSet_ne _ _ (by grind))
  · intro q j; rw [hring']; split <;> grind
  · intro q j; rw [hring']; split <;> grind
  · intro q j; rw [hring']; split <;> grind
  · intro q
    refine (congrArg HostPort.pollFails (portOf_modRing ..)).trans ?_
    split
    · rw [‹q = p›]; rfl
    · rfl

theorem acceptMany_accepts (p i r n : Nat) (s : State) : ∃ new, Accepts s (acceptMany p i r n s) new := by
  induction n generalizing s with
  | zero => exact ⟨_, .refl s⟩
  | succ n ih =>
    rw [acceptMany]
    split
    · obtain ⟨l, hl⟩ := acceptOne_accepts ‹_›
      obtain ⟨m, hm⟩ := ih (acceptOne p i r s)
      exact ⟨_, hl.trans hm⟩
    · exact ⟨_, .refl s⟩

theorem acceptRing_accepts (p i : Nat) (s : State) : ∃ new, Accepts s (acceptRing p i s).1 new := by
  unfold acceptRing
  split
  · exact ⟨_, .refl s⟩
  · split
    · exact acceptMany_accepts ..
    · exact ⟨_, .refl s⟩

theorem foldl_accepts {α : Type} {f : State → α → State} (l : List α) (hf : ∀ s x, ∃ new, Accepts s (f s x) new) (s : State) :
    ∃ new, Accepts s (l.foldl f s) new := by
  induction l generalizing s with
  | nil => exact ⟨_, .refl s⟩
  | cons x l ih =>
    obtain ⟨m, hm⟩ := hf s x
    obtain ⟨n, hn⟩ := ih (f s x)
    exact ⟨_, hm.trans hn⟩

theorem acceptRotation_accepts (z : Option Nat) (s : State) : ∃ new, Accepts s (acceptRotation z s) new := by
  refine foldl_accepts _ (fun s x => ?_) s
  obtain ⟨new, h⟩ := acceptRing_accepts (x / 8) (x % 8) s
  refine ⟨new, ?_⟩
  dsimp only
  split
  · exact ⟨h.jobs, h.numbers, h.counter, h.fresh, h.ringOn, h.hostOn, h.producer, h.consumer, h.invalid, h.fails⟩
  · exact h

theorem acceptAll_accepts (s : State) : ∃ new, Accepts s (acceptAll s) new := by
  cases hz : zeroRing s with
  | none =>
    simp only [acceptAll, hz]
    exact acceptRotation_accepts none s
  | some x =>
    simp only [acceptAll, hz]
    obtain ⟨m, hm⟩ := acceptRing_accepts (x / 8) (x % 8) s
    obtain ⟨n, hn⟩ := acceptRotation_accepts (some x) (acceptRing (x / 8) (x % 8) s).1
    exact ⟨_, hm.trans hn⟩

/-! The doorbell page -/

/-- A state in which nothing that acceptance starts from differs: jobs, numbers, the switches and sizes of rings, consumed indices, failed polls. -/
structure PollKept (s t : State) : Prop where
  jobs : t.jobs = s.jobs
  counter : t.accCtr = s.accCtr
  ringOn : ∀ p i, ringOn t p i = ringOn s p i
  hostOn : ∀ p, hostOn t p = hostOn s p
  entries : ∀ p i, ringEntries t p i = ringEntries s p i
  rings : ∀ p i, ringOf t p i = ringOf s p i
  fails : ∀ p, (portOf t p).pollFails = (portOf s p).pollFails

theorem PollKept.refl (s : State) : PollKept s s :=
  ⟨rfl, rfl, fun _ _ => rfl, fun _ => rfl, fun _ _ => rfl, fun _ _ => rfl, fun _ => rfl⟩

theorem PollKept.trans (h : PollKept s t) (h' : PollKept t u) : PollKept s u where
  jobs := h'.jobs.trans h.jobs
  counter := h'.counter.trans h.counter
  ringOn p i := (h'.ringOn p i).trans (h.ringOn p i)
  hostOn p := (h'.hostOn p).trans (h.hostOn p)
  entries p i := (h'.entries p i).trans (h.entries p i)
  rings p i := (h'.rings p i).trans (h.rings p i)
  fails p := (h'.fails p).trans (h.fails p)

/-- What changes no register, job or count keeps the poll's start, where it keeps the rings and the failed polls. -/
theorem PollKept.of_reg (hreg : t.reg = s.reg) (hjobs : t.jobs = s.jobs) (hctr : t.accCtr = s.accCtr) (hr : ∀ p i, ringOf t p i = ringOf s p i)
    (hf : ∀ p, (portOf t p).pollFails = (portOf s p).pollFails) : PollKept s t where
  jobs := hjobs
  counter := hctr
  ringOn p i := by rw [Machine.ringOn, regGet, hreg]; rfl
  hostOn p := by rw [Machine.hostOn, regGet, hreg]; rfl
  entries p i := by rw [ringEntries, regGet, hreg]; rfl
  rings := hr
  fails := hf

theorem raise_pollKept (d : EvDest) (e : Ev) (s : State) : PollKept s (raise d e s) :=
  .of_reg (by simp) (by simp) (by simp) (fun p i => ringOf_raise d e p i s) fun p => pollFails_raise d e p s

theorem undCompare_pollKept (w : UndJob) (s : State) : PollKept s (undCompare w s) := by
  have hset : PollKept s (regSet K.UND_STATE_state 2 { s with und := { s.und with waiting := [] } }) :=
    ⟨rfl, rfl, fun p i => congrArg (· == 1) (regGet_regSet_ne _ _ (by grind)), fun p => congrArg (· == 1) (regGet_regSet_ne _ _ (by grind)),
      fun p i => congrArg (2 ^ ·) (regGet_regSet_ne _ _ (by grind)), fun _ _ => rfl, fun _ => rfl⟩
  unfold undCompare
  split
  · exact .refl s
  · dsimp only
    split
    · exact .refl s
    · split
      · exact .of_reg rfl rfl rfl (fun _ _ => rfl) fun _ => rfl
      · exact hset.trans (raise_pollKept ..)

theorem foldl_pollKept {α : Type} {f : State → α → State} (l : List α) (hf : ∀ s x, PollKept s (f s x)) (s : State) : PollKept s (l.foldl f s) := by
  induction l generalizing s with
  | nil => exact .refl s
  | cons x l ih => exact (hf s x).trans (ih _)

theorem flushGap_pollKept (p : Nat) (s : State) : PollKept s (flushGap p s) := by
  obtain ⟨hosts, mem, cls, h⟩ := flushGap_told p s
  exact .of_reg (by rw [h]) (by rw [h]) (by rw [h]) (fun q i => ringOf_flushGap p q i s) fun q => pollFails_flushGap p q s

theorem modPort_pollKept (p : Nat) {f : HostPort → HostPort} (hr : ∀ h, (f h).rings = h.rings) (hf : ∀ h, (f h).pollFails = h.pollFails) (s : State) :
    PollKept s (modPort p f s) := by
  refine .of_reg rfl rfl rfl (fun q i => ?_) fun q => ?_
  · by_cases hq : q = p
    · rw [hq, ringOf, portOf_modPort_self, hr, ringOf]
    · rw [ringOf, portOf_modPort_ne _ _ hq, ringOf]
  · by_cases hq : q = p
    · rw [hq, portOf_modPort_self, hf]
    · rw [portOf_modPort_ne _ _ hq]

theorem evtWord_pollKept (p : Nat) (page : List Byte) (s : State) : PollKept s (evtWord p page s) := by
  unfold evtWord
  split
  · exact .refl s
  · refine .trans (modPort_pollKept p ?_ ?_ s) (flushGap_pollKept p _)
    all_goals exact fun _ => rfl

theorem hostWrite_pollKept (p a : Nat) (bs : List Byte) (s : State) : PollKept s (hostWrite p a bs s) :=
  .of_reg rfl rfl rfl (fun _ _ => rfl) fun _ => rfl

theorem applyWrites_pollKept (ws : List HostWrite) (s : State) : PollKept s (applyWrites ws s) :=
  foldl_pollKept ws (fun s w => hostWrite_pollKept w.port w.addr.toNat w.data s) s

theorem applyWrites_eq (ws : List HostWrite) (s : State) :
    applyWrites ws s = { s with mem := { s.mem with host := (applyWrites ws s).mem.host } } := by
  unfold applyWrites
  induction ws generalizing s with
  | nil => rfl
  | cons w ws ih =>
    rw [List.foldl_cons, ih]
    rfl

theorem undPoll_pollKept (s : State) : PollKept s (undPoll s) := foldl_pollKept _ (fun s w => undCompare_pollKept w s) s

/-- A ring with the indices of its doorbell word (R225). -/
def readRing (page : List Byte) (i entries : Nat) (q : Ring) : Ring :=
  { q with sqProducer := fieldAt page (8 * i) 2, cqConsumer := fieldAt page (8 * i + 4) 2,
           invalid := decide (entries < (fieldAt page (8 * i) 2 + 65536 - q.sqConsumed) % 65536) }

/-- What the word of a ring leaves: that ring read, and all else that acceptance starts from. -/
structure WordRead (p : Nat) (page : List Byte) (i : Nat) (s t : State) : Prop where
  jobs : t.jobs = s.jobs
  counter : t.accCtr = s.accCtr
  ringOn : ∀ q j, ringOn t q j = ringOn s q j
  hostOn : ∀ q, hostOn t q = hostOn s q
  entries : ∀ q j, ringEntries t q j = ringEntries s q j
  ring : ∀ j, ringOf t p j = if j = i ∧ Machine.ringOn s p i = true then readRing page i (ringEntries s p i) (ringOf s p i) else ringOf s p j
  fails : ∀ q, (portOf t q).pollFails = (portOf s q).pollFails

theorem ringWord_read (p : Nat) (page : List Byte) (i : Nat) (s : State) : WordRead p page i s (ringWord p page i s) := by
  unfold ringWord
  by_cases hon : ringOn s p i = true
  · rw [if_neg (by simp [hon])]
    dsimp only
    generalize hu : (if (decide (ringEntries s p i < (fieldAt page (8 * i) 2 + 65536 - (ringOf s p i).sqConsumed) % 65536) && !(ringOf s p i).invalid) = true
      then raise (.port p) ⟨0x0002, 0, true, portNode p, i, fieldAt page (8 * i) 2, 0⟩ s else s) = u
    have hk : PollKept s u := by
      rw [← hu]
      split
      · exact raise_pollKept ..
      · exact .refl s
    refine ⟨hk.jobs, hk.counter, hk.ringOn, hk.hostOn, hk.entries, fun j => ?_, fun q => ?_⟩
    · rw [ringOf_modRing]
      simp only [true_and, hon, and_true, hk.rings]
      rfl
    · refine (congrArg HostPort.pollFails (portOf_modRing ..)).trans ?_
      split
      · rw [‹q = p›]; exact hk.fails p
      · exact hk.fails q
  · rw [if_pos (by simpa using hon)]
    exact ⟨rfl, rfl, fun _ _ => rfl, fun _ => rfl, fun _ _ => rfl, fun j => (if_neg fun h => hon h.2).symm, fun _ => rfl⟩

/-- The words of several rings of a host, each read once. -/
theorem ringWords_read (p : Nat) (page : List Byte) {l : List Nat} (hl : l.Nodup) (s : State) :
    let t := l.foldl (fun s i => ringWord p page i s) s
    t.jobs = s.jobs ∧ t.accCtr = s.accCtr ∧ (∀ q j, ringOn t q j = ringOn s q j) ∧ (∀ q, hostOn t q = hostOn s q) ∧
      (∀ j, ringOf t p j = if j ∈ l ∧ ringOn s p j = true then readRing page j (ringEntries s p j) (ringOf s p j) else ringOf s p j) ∧
      ∀ q, (portOf t q).pollFails = (portOf s q).pollFails := by
  induction l generalizing s with
  | nil => exact ⟨rfl, rfl, fun _ _ => rfl, fun _ => rfl, fun j => by simp, fun _ => rfl⟩
  | cons i l ih =>
    obtain ⟨hi, hl⟩ := List.nodup_cons.1 hl
    have h := ringWord_read p page i s
    obtain ⟨hjobs, hctr, hring, hhost, hread, hfails⟩ := ih hl (ringWord p page i s)
    refine ⟨hjobs.trans h.jobs, hctr.trans h.counter, fun q j => (hring q j).trans (h.ringOn q j), fun q => (hhost q).trans (h.hostOn q), fun j => ?_,
      fun q => (hfails q).trans (h.fails q)⟩
    refine (hread j).trans ?_
    rw [h.ringOn, h.entries, h.ring]
    by_cases hj : j = i
    · subst hj
      simp [hi]
    · simp [hj]

/-- The state whose jobs a poll accepts: the rings of the host read, and nothing else that acceptance starts from changed. -/
theorem pollPage_read (p : Nat) (s : State) :
    let page := hostRead s p (doorbellAt s p) 128
    ∃ u new, Accepts u (pollPage p s) new ∧ u.jobs = s.jobs ∧ u.accCtr = s.accCtr ∧ (∀ q j, ringOn u q j = ringOn s q j) ∧
      (∀ q, hostOn u q = hostOn s q) ∧ (portOf u p).pollFails = 0 ∧
      ∀ j < 8, ringOn s p j = true → ringOf u p j = readRing page j (ringEntries s p j) (ringOf s p j) := by
  intro page
  generalize hv : evtWord p page (modPort p (fun h => { h with pollFails := 0 }) s) = v
  have hzero : (portOf v p).pollFails = 0 := by
    rw [← hv, (evtWord_pollKept ..).fails, portOf_modPort_self]
  have hrings : ∀ q i, ringOf (modPort p (fun h => { h with pollFails := 0 }) s) q i = ringOf s q i := by
    intro q i
    by_cases hq : q = p
    · rw [hq, ringOf, portOf_modPort_self, ringOf]
    · rw [ringOf, portOf_modPort_ne _ _ hq, ringOf]
  have hvk := hv ▸ evtWord_pollKept p page (modPort p (fun h => { h with pollFails := 0 }) s)
  obtain ⟨hjobs, hctr, hring, hhost, hread, hfails⟩ := ringWords_read p page (l := List.range 8) List.nodup_range v
  generalize hw : (List.range 8).foldl (fun s i => ringWord p page i s) v = w at hjobs hctr hring hhost hread hfails
  generalize hu : (if (undIn w && realmPort w (undRealm w) == p) = true then undPoll w else w) = u
  have huk : PollKept w u := by
    rw [← hu]
    split
    · exact undPoll_pollKept w
    · exact .refl w
  obtain ⟨new, hnew⟩ := acceptAll_accepts u
  have hpage : pollPage p s = acceptAll u := by rw [← hu, ← hw, ← hv]; rfl
  rw [hpage]
  refine ⟨u, new, hnew, huk.jobs.trans (hjobs.trans hvk.jobs), huk.counter.trans (hctr.trans hvk.counter),
    fun q j => (huk.ringOn q j).trans ((hring q j).trans (hvk.ringOn q j)), fun q => (huk.hostOn q).trans ((hhost q).trans (hvk.hostOn q)),
    (huk.fails p).trans ((hfails p).trans hzero), fun j hj hon => ?_⟩
  have hon' : ringOn v p j = true := (hvk.ringOn p j).trans hon
  rw [huk.rings, hread, if_pos ⟨List.mem_range.2 hj, hon'⟩, hvk.entries, hvk.rings, hrings]
  rfl

/-- Settles O20: the poll reads the words one ring at a time and then accepts; a failed one is counted. -/
theorem doorbellPoll : Obligations.DoorbellPoll := by
  refine ⟨fun p ws s hp => ?page, fun p ws s hp => ?failed⟩
  case page =>
    have hk := applyWrites_pollKept ws s
    have hexec : exec (.doorbellPoll p ws true) s = .next (pollPage p (applyWrites ws s)) :=
      congrArg Host.Outcome.next ((if_neg (by simp [hp])).trans (if_pos rfl))
    obtain ⟨u, new, hnew, hjobs, hctr, hring, hhost, hfails, hread⟩ := pollPage_read p (applyWrites ws s)
    have hat : doorbellAt (applyWrites ws s) p = doorbellAt s p := by rw [applyWrites_eq]; rfl
    rw [hat] at hread
    refine ⟨_, hexec, fun i hon => ?_, (hnew.fails p).trans hfails, new, ?_, ?_, ?_, fun j hj => ?_⟩
    · have h := hread i i.isLt ((hk.ringOn p i).trans hon)
      rw [hk.entries, hk.rings] at h
      rw [hnew.producer, hnew.consumer, hnew.invalid, h]
      exact ⟨rfl, rfl, rfl⟩
    · rw [hnew.jobs, hjobs, hk.jobs]
    · rw [hnew.numbers, hctr, hk.counter]
    · rw [hnew.counter, hctr, hk.counter]
    · obtain ⟨hphase, hr, hh, hi⟩ := hnew.fresh j hj
      refine ⟨hphase, ?_, ?_, (hnew.invalid ..).trans hi⟩
      · rwa [hring, hk.ringOn] at hr
      · rwa [hhost, hk.hostOn] at hh
  case failed =>
    have hexec : exec (.doorbellPoll p ws false) s = .next (pollError p (applyWrites ws s)) :=
      congrArg Host.Outcome.next ((if_neg (by simp [hp])).trans (if_neg (by decide)))
    have hw := applyWrites_eq ws s
    have herror : pollError p (applyWrites ws s) = raise (.port p) ⟨0x0003, 0, false, portNode p, min max32 ((portOf s p).pollFails + 1), 0, 0⟩
        (modPort p (fun h => { h with pollFails := h.pollFails + 1 }) (regInc (K.HOST_POLL_ERR_count p) (applyWrites ws s))) := by
      rw [pollError]
      simp only [portOf_modPort_self, portOf_regInc]
      rw [hw]
      rfl
    refine ⟨_, hexec, _, herror, ?_, ?_, ?_, kept_modPort (kept_inc (by simp) ?_)⟩
    · refine (regGet_regInc_self (s := applyWrites ws s) (K.HOST_POLL_ERR_count p)).trans ?_
      rw [hw]
      rfl
    · rw [portOf_modPort_self, portOf_regInc, hw]
      rfl
    · rw [hw]
      rfl
    · rw [hw]
      exact kept_refl _ s

end Sys2Proof.Machine
end

section
/-! PROOFS. The commands of jobs that run as soon as they start (R228 to R236): what a job's start and end leave, the command's shape, its checks. -/

namespace Sys2Proof.Machine

variable {s t u : State}

/-! What reads and the end of a job leave -/

theorem modJob_ending (a : Nat) (f : Job → Job) (s : State) : Ending s (modJob a f s) := rfl
theorem takeClaim_ending (j : Job) (c : Claim) (s : State) : Ending s (takeClaim j c s) := rfl

theorem reportCodeword_ending (mem num loc code key : Nat) (s : State) : Ending s (reportCodeword mem num loc code key s) :=
  (((regInc_ending ..).trans (regSet_ending ..)).trans (raiseFault_ending ..))

theorem noteShow_ending (mem gang group num : Nat) (s : State) : Ending s (noteShow mem gang group num s) := rfl
theorem freeNow_ending (r room : Nat) (s : State) : Ending s (freeNow r room s) := rfl
theorem restoreCount_ending (r room : Nat) (s : State) : Ending s (restoreCount r room s) := rfl
theorem modRoom_ending (r room : Nat) (f : Room → Room) (s : State) : Ending s (modRoom r room f s) := rfl
theorem invalidateBooks_ending (s : State) : Ending s (invalidateBooks s) := rfl
theorem drainLimbo_ending (r : Nat) (s : State) : Ending s (drainLimbo r s) := rfl

theorem setEntry_ending (r : Nat) (tab : RTable) (b g room : Nat) (s : State) : Ending s (setEntry r tab b g room s) :=
  (realmWrite_ending ..).trans rfl

theorem poison_ending (mem num : Nat) (w : GranuleUse) (s : State) : Ending s (poison mem num w s) := .ite (.refl s) (modMem_ending ..)

theorem storeGranule_ending (mem num : Nat) (w : GranuleUse) (bs : List Byte) (s : State) : Ending s (storeGranule mem num w bs s) := by
  cases w <;> simp only [storeGranule]
  case window => exact modMem_ending ..
  case room => exact modMem_ending ..
  all_goals exact .refl s

theorem meetWord_ending (mem num gang word : Nat) (w : GranuleUse) (o : WordOutcome) (s : State) : Ending s (meetWord mem num gang word w o s) := by
  cases o with
  | clean => exact .refl s
  | corrected y er => exact (reportCodeword_ending ..).trans (noteShow_ending ..)
  | detected y => exact (reportCodeword_ending ..).trans (poison_ending ..)
  | wrong y =>
    have hstore (bs : List Byte) : Ending s (storeGranule mem num w bs { s with freeCtr := s.freeCtr + 1 }) :=
      Ending.trans (t := { s with freeCtr := s.freeCtr + 1 }) rfl (storeGranule_ending ..)
    cases y with
    | none => exact hstore _
    | some z => exact (hstore _).trans (reportCodeword_ending ..)

theorem meetGranule_ending (mem num : Nat) (w : GranuleUse) (f : GranuleFinding) (s : State) : Ending s (meetGranule mem num w f s) :=
  .foldl _ (.refl s) fun _ _ => meetWord_ending ..

theorem jobReads_ending (rs : List GranuleRead) (s : State) : Ending s (jobReads rs s) :=
  .foldl rs (.refl s) fun _ _ => .ite (.refl _) (.ite (regSet_ending ..) (meetGranule_ending ..))

theorem settleEntries_ending (r newLen : Nat) (l : List JEntry) (s : State) : Ending s (settleEntries r newLen l s) := by
  induction l generalizing s with
  | nil => exact .refl s
  | cons e l ih =>
    rw [settleEntries]
    split
    · exact ih s
    · have hset (tab : RTable) : Ending s (freeNow r e.newRoom (setEntry r tab e.block e.group e.oldRoom s)) :=
        (setEntry_ending ..).trans (freeNow_ending ..)
      exact (Ending.ite ((hset _).trans (restoreCount_ending ..)) (hset _)).trans (ih _)

theorem noteFill_ending (r : Nat) (tab : RTable) (len : Nat) (s : State) : Ending s (noteFill r tab len s) :=
  .foldl _ (.refl s) fun _ _ => .ite (.refl _) (modRoom_ending ..)

theorem setLength_ending (r a len : Nat) (s : State) : Ending s (setLength r a len s) := (realmWrite_ending ..).trans (noteFill_ending ..)

theorem settleTable_ending (r acc a newLen : Nat) (s : State) : Ending s (settleTable r acc a newLen s) :=
  (((settleEntries_ending ..).trans (setLength_ending ..)).trans (invalidateBooks_ending ..)).trans rfl

theorem settleAll_ending (r acc : Nat) (lens : List (Nat × Nat)) (s : State) : Ending s (settleAll r acc lens s) :=
  (Ending.foldl lens (.refl s) fun _ _ => settleTable_ending ..).trans (drainLimbo_ending ..)

theorem writeOutcome_ending (o : Outcome) (simplex : Bool) (s : State) : Ending s (writeOutcome o simplex s) :=
  ((Ending.ite (regInc_ending ..) (.refl s)).trans (realmWrite_ending ..)).trans (realmWrite_ending ..)

theorem dropResult_ending (j : Job) (r : JobResult) (f : Fail) (s : State) : Ending s (dropResult j r f s) :=
  ((leaveOpen_ending ..).trans (settleAll_ending ..)).trans (failJob_ending ..)

theorem releaseResult_ending (j : Job) (r : JobResult) (simplex : Bool) (cls : Nat) (s : State) : Ending s (releaseResult j r simplex cls s) := by
  unfold releaseResult
  split
  · exact (raise_ending ..).trans (dropResult_ending ..)
  · refine .trans ?_ (completeJob_ending ..)
    cases r.out with
    | none => exact settleAll_ending ..
    | some o => exact (settleAll_ending ..).trans (writeOutcome_ending ..)

theorem setQuiet_ending (p : Nat) (q : Bool) (s : State) : Ending s (setQuiet p q s) := .ite (modPort_ending ..) (.refl s)

theorem withActive_ending (l : List (Nat × Nat)) (h : Ending s t) : Ending s { t with active := l } :=
  h.trans (u := { t with active := l }) rfl

theorem underBanks_ending {work : Job → State → State × Except Fail JobResult} (hw : ∀ j s, Ending s (work j s).1) (j : Job) (s : State) :
    Ending s (underBanks work j s).1 := by
  unfold underBanks
  split
  · exact hw j s
  · have hbody : Ending s (work j (setQuiet j.port j.mute { s with active := j.banks })).1 :=
      Ending.trans (t := { s with active := j.banks }) rfl ((setQuiet_ending ..).trans (hw ..))
    exact (withActive_ending s.active hbody).trans (setQuiet_ending ..)

theorem gate_ending (i : Isl) (d : Decision) (s : State) : Ending s (gate i d s) := .ite (.refl s) rfl

theorem finishRun_ending (run : JobRun) (dup : Bool) (j : Job) {o : State × Except Fail JobResult} (h : Ending s o.1) :
    Ending s (finishRun run dup j o) := by
  unfold finishRun
  split
  · exact h.trans (failJob_ending ..)
  · exact .ite (h.trans (modJob_ending ..)) (.ite ((h.trans (modJob_ending ..)).trans (gate_ending ..)) (h.trans (releaseResult_ending ..)))

theorem tellNoPlan_ending (r : PlanRun) (s : State) : Ending s (tellNoPlan r s) := .ite (.refl s) (raise_ending ..)

/-! Finding jobs -/

theorem findJob_filtered {j : Job} (h : t.jobs = s.jobs.filter fun k => k.acc != j.acc) : findJob t j.acc = none := by
  rw [findJob, h, List.find?_filter]
  exact List.find?_eq_none.2 fun x _ => by simp

theorem undCompare_jobs (x : UndJob) (s : State) : (undCompare x s).jobs = s.jobs := by
  unfold undCompare
  split
  · rfl
  · dsimp only
    split
    · rfl
    · split
      · rfl
      · simp

theorem undComplete_jobs (c : Option Nat) (ok : Bool) (d : List Byte) (s : State) : (undComplete c ok d s).jobs = s.jobs := by
  unfold undComplete
  split
  · rfl
  · split
    · rfl
    · dsimp only
      split
      · exact undCompare_jobs ..
      · rfl

theorem recordFault_jobs (cls src : Nat) (s : State) : (recordFault cls src s).jobs = s.jobs := by
  unfold recordFault
  split <;> split <;> (try split) <;> rfl

/-- A job that completes is no longer in flight. -/
theorem completeJob_jobs (j : Job) (r : JobResult) (simplex : Bool) (cls : Nat) (s : State) :
    (completeJob j r simplex cls s).jobs = s.jobs.filter fun k => k.acc != j.acc := by
  unfold completeJob
  extract_lets _ _ _ u v w
  have hdigest : (withDigest j r s).jobs = s.jobs := by
    unfold withDigest
    split
    · simp
    · rfl
  have hu : u.jobs = s.jobs := by
    unfold u
    split
    · exact hdigest
    · exact hdigest
  have hw : w.jobs = s.jobs.filter fun k => k.acc != j.acc := by
    rw [← hu]
    exact undComplete_jobs ..
  split
  · rw [recordFault_jobs, hw]
  · exact hw

theorem findJob_completeJob (j : Job) (r : JobResult) (simplex : Bool) (cls : Nat) (s : State) :
    findJob (completeJob j r simplex cls s) j.acc = none := findJob_filtered (completeJob_jobs ..)

theorem findJob_modJob {a : Nat} {f : Job → Job} {j : Job} (h : findJob s a = some j) (hf : ∀ k, (f k).acc = k.acc) :
    findJob (modJob a f s) a = some (f j) := by
  have hsame : ((fun k : Job => k.acc == a) ∘ fun k => if k.acc = a then f k else k) = fun k => k.acc == a := by
    funext k
    simp only [Function.comp]
    split
    · rw [hf]
    · rfl
  have hj : (s.jobs.find? fun k => k.acc == a) = some j := h
  rw [findJob, modJob, List.find?_map, hsame, hj, Option.map_some, if_pos (findJob_acc h)]

/-! The shape of a job command -/

theorem jobCommand_head {ty : List Nat} {a : Nat} {run : JobRun} {pre : State → Job → PreOut} {work : Job → State → State × Except Fail JobResult}
    {dup : State → Job → Bool} {j : Job} {f : Fail} (hj : findJob s a = some j) (ht : ty.contains (jType j) = true) (hp : j.phase = .accepted)
    (hm : mayStart s j = true) (hh : headFail s j (bodyFaults j) = some f) :
    jobCommand ty a run bodyFaults pre work dup s = failJob j f s := by
  simp only [jobCommand, hj, ht, hp, hm, hh, Bool.not_true, Bool.false_and, Bool.false_eq_true, if_false]

theorem jobCommand_starts {ty : List Nat} {a : Nat} {run : JobRun} {pre : State → Job → PreOut} {work : Job → State → State × Except Fail JobResult}
    {dup : State → Job → Bool} {j : Job} (ht : ty.contains (jType j) = true) (hs : Starts s a j) :
    jobCommand ty a run bodyFaults pre work dup s = startJob run dup work j (pre s j) s := by
  obtain ⟨hj, hp, hm, hh, hd⟩ := hs
  simp only [jobCommand, hj, ht, hp, hm, hh, hd, Bool.not_true, Bool.false_and, Bool.false_eq_true, if_false]

/-! Commands on engines -/

theorem engineRun_none (a : Nat) (run : JobRun) (act : JobRun → State → State) (s : State) : engineRun [] a run act s = act run s := by
  simp [engineRun]

theorem letGo_golden {e : Nat} (h : s.frame.golden.contains e = true) : letGo e s = s := if_pos h

/-- Engines whose golden workload of the frame is behind them let the command do as it does (R310). -/
theorem engineRun_golden {es : List Nat} {a : Nat} {run : JobRun} {act : JobRun → State → State} (hg : ∀ e ∈ es, s.frame.golden.contains e = true)
    (hf : (act run s).frame = s.frame) : engineRun es a run act s = act run s := by
  have hall : (es.filter (engineServes s)).all (mayGo s) = true := by
    refine List.all_eq_true.2 fun e he => ?_
    rw [mayGo, hg e (List.mem_filter.1 he).1, Bool.true_or]
  have hlet : ∀ l : List Nat, (∀ e ∈ l, s.frame.golden.contains e = true) → l.foldl (fun s e => letGo e s) (act run s) = act run s := by
    intro l hl
    induction l with
    | nil => rfl
    | cons e l ih =>
      obtain ⟨he, hl⟩ := List.forall_mem_cons.1 hl
      rw [List.foldl_cons, letGo_golden (by rw [hf]; exact he), ih hl]
  simp only [engineRun, hall, Bool.not_true, Bool.false_eq_true, if_false, hlet _ fun e he => hg e (List.mem_filter.1 he).1]
  split
  · rfl
  · split <;> rfl

/-- A command that ends its job, holds it or leaves it does so whatever the engines (R310). -/
theorem engineRun_settled {es : List Nat} {a : Nat} {run : JobRun} {act : JobRun → State → State} (ht : ∀ run, act run s = t)
    (hn : (findJob t a).any (·.phase == .running) = false) : engineRun es a run act s = t := by
  simp only [engineRun, ht, hn, Bool.false_and, Bool.false_eq_true, if_false]
  split
  · rfl
  · split <;> rfl

/-! The forms -/

theorem exec_plain {c : Instr} {a ty : Nat} {run : JobRun} {pre : State → Job → PreOut} {work : Job → State → State × Except Fail JobResult}
    {dup : State → Job → Bool} {j : Job} (hc : exec c s = .next (jobCommand [ty] a run bodyFaults pre work dup s)) (hm : (jType j == ty) = true) :
    exec c s = .next (engineRun [] a run (fun run s => jobCommand [jType j] a run bodyFaults pre work dup s) s) := by
  rw [engineRun_none, hc, eq_of_beq hm]

/-- A ROOMS command for the job's sub-operation (R229). -/
theorem exec_rooms {c : Instr} {a k : Nat} {run : JobRun} {pre : State → Job → PreOut} {work : Job → State → State × Except Fail JobResult}
    {dup : State → Job → Bool} {j : Job}
    (hc : exec c s = .next (match findJob s a with
      | some j => if subIs j k then jobCommand [0x07] a run bodyFaults pre work dup s else s
      | none => s))
    (hj : findJob s a = some j) (hm : (jType j == 7 && dF j 48 1 == k) = true) :
    exec c s = .next (engineRun [] a run (fun run s => jobCommand [jType j] a run bodyFaults pre work dup s) s) := by
  obtain ⟨ht, hk⟩ := Bool.and_eq_true_iff.1 hm
  have hs : subIs j k = true := by rw [subIs, hk]; simp
  rw [engineRun_none, hc, hj, eq_of_beq ht]
  exact congrArg Host.Outcome.next (if_pos hs)

/-- A replay's command for a replay (R43). -/
theorem exec_replay {c : Instr} {a ty : Nat} {es : List Nat} {run : JobRun} {pre : State → Job → PreOut}
    {work : Job → State → State × Except Fail JobResult} {dup : State → Job → Bool} {j : Job}
    (hc : exec c s = .next (match findJob s a with
      | some j => if replayIs true j then engineRun es a run (fun run s => jobCommand [ty] a run bodyFaults pre work dup s) s else s
      | none => s))
    (hj : findJob s a = some j) (hm : (jType j == ty && jReplay j) = true) :
    exec c s = .next (engineRun es a run (fun run s => jobCommand [jType j] a run bodyFaults pre work dup s) s) := by
  obtain ⟨ht, hk⟩ := Bool.and_eq_true_iff.1 hm
  have hs : replayIs true j = true := by rw [replayIs, hk]; simp
  rw [hc, hj, eq_of_beq ht]
  exact congrArg Host.Outcome.next (if_pos hs)

/-- A job command of the list is the job command of its form, on the form's engines. -/
theorem exec_jobForm {a : Nat} {f : JobForm} {j : Job} (run : JobRun) (hf : f ∈ jobForms a) (hj : findJob s a = some j) (hm : f.mine j = true) :
    exec (f.cmd run) s =
      .next (engineRun f.engines a run (fun run s => jobCommand [jType j] a run bodyFaults f.pre f.work f.duplex s) s) := by
  simp only [jobForms, List.mem_cons, List.not_mem_nil, or_false] at hf
  rcases hf with rfl | rfl | rfl | rfl | rfl | rfl | rfl | rfl | rfl | rfl | rfl | rfl | rfl | rfl
  · exact exec_plain rfl hm
  · exact exec_plain rfl hm
  · exact exec_plain rfl hm
  · exact exec_replay rfl hj hm
  · exact exec_replay rfl hj hm
  · exact exec_plain rfl hm
  · exact exec_rooms rfl hj hm
  · exact exec_rooms rfl hj hm
  · exact exec_rooms rfl hj hm
  · exact exec_rooms rfl hj hm
  · exact exec_rooms rfl hj hm
  · exact exec_rooms rfl hj hm
  · exact exec_rooms rfl hj hm
  · exact exec_plain rfl hm

/-- The body of a form on engines leaves the frame as it is. -/
theorem jobForm_work {a : Nat} {f : JobForm} (hf : f ∈ jobForms a) : f.engines = [] ∨ ∀ j s, Ending s (f.work j s).1 := by
  simp only [jobForms, List.mem_cons, List.not_mem_nil, or_false] at hf
  rcases hf with rfl | rfl | rfl | rfl | rfl | rfl | rfl | rfl | rfl | rfl | rfl | rfl | rfl | rfl
  case inr.inr.inr.inl => exact Or.inr fun j s => .refl s
  case inr.inr.inr.inr.inl => exact Or.inr fun j s => tellNoPlan_ending ..
  all_goals exact Or.inl rfl

/-- A form's command on a job that starts, its engines' golden workloads of the frame behind them. -/
theorem exec_starts {a : Nat} {f : JobForm} {j : Job} {c : Claim} (run : JobRun) (hf : f ∈ jobForms a) (hs : Starts s a j) (hm : f.mine j = true)
    (hp : f.pre s j = .go c) (hg : ∀ e ∈ f.engines, s.frame.golden.contains e = true) :
    exec (f.cmd run) s = .next (if onlyStarts run then runAhead run j (takeClaim j c s) else match findJob (takeClaim j c s) j.acc with
      | some k => finishRun run (f.duplex (takeClaim j c s) j) j (underBanks f.work k (jobReads (runReads run) (takeClaim j c s)))
      | none => takeClaim j c s) := by
  have hact (run : JobRun) : jobCommand [jType j] a run bodyFaults f.pre f.work f.duplex s = startJob run f.duplex f.work j (.go c) s := by
    rw [jobCommand_starts (by simp) hs, hp]
  rw [exec_jobForm run hf hs.1 hm]
  refine congrArg Host.Outcome.next ?_
  rcases jobForm_work hf with he | hw
  · rw [he, engineRun_none, hact]
    rfl
  · by_cases hrun : onlyStarts run = true
    · rw [engineRun, if_pos hrun, hact]
      rfl
    · rw [engineRun_golden hg, hact]
      · rfl
      · rw [hact, startJob]
        simp only [hrun, Bool.false_eq_true, if_false]
        split
        · exact Ending.frame (finishRun_ending run _ j (((takeClaim_ending j c s).trans (jobReads_ending ..)).trans (underBanks_ending hw ..)))
        · rfl

/-- Settles O22: a command that starts its job, or goes on to the end that its body gives. -/
theorem jobsComplete : Obligations.JobsComplete := by
  intro a f s j c hf hs hm hp hg
  have hacc : j.acc = a := findJob_acc hs.1
  refine ⟨fun l => exec_starts (.start l) hf hs hm hp hg, fun k u rs hk => ?_⟩
  have hwhole := exec_starts (.whole rs) hf hs hm hp hg
  have hwithhold := exec_starts (.withhold rs) hf hs hm hp hg
  rw [hacc, hk] at hwhole hwithhold
  simp only [onlyStarts, Bool.false_eq_true, if_false, runReads] at hwhole hwithhold
  dsimp only
  refine ⟨fun r hr => ⟨fun hgate => ?released, fun hgate => ?gated, fun hdup => ?withheld⟩, fun e he => ⟨?failed, ?failed'⟩⟩
  case released =>
    rw [hwhole, hr]
    simp [finishRun, withholds, hgate]
  case gated =>
    rw [hwhole, hr]
    simp only [finishRun, withholds, Bool.false_and, Bool.false_eq_true, if_false, hgate, if_true, hacc]
  case withheld =>
    rw [hwithhold, hr]
    simp only [finishRun, withholds, Bool.true_and, hdup, if_true, hacc]
  case failed => rw [hwhole, he]; rfl
  case failed' => rw [hwithhold, he]; rfl

/-! The checks -/

/-- A form's command on a job that one of the common checks ends. -/
theorem exec_headFail {a : Nat} {f : JobForm} {j : Job} {e : Fail} (run : JobRun) (hf : f ∈ jobForms a) (hj : findJob s a = some j)
    (hm : f.mine j = true) (hp : j.phase = .accepted) (hs : mayStart s j = true) (he : headFail s j (bodyFaults j) = some e) :
    exec (f.cmd run) s = .next (failJob j e s) := by
  rw [exec_jobForm run hf hj hm, engineRun_settled (t := failJob j e s) (fun run => jobCommand_head hj (by simp) hp hs he)]
  rw [← findJob_acc hj, failJob, findJob_completeJob]
  rfl

/-- A form's command on a job that its own checks do not let run. -/
theorem exec_ownCheck {a : Nat} {f : JobForm} {j : Job} (run : JobRun) (hf : f ∈ jobForms a) (hm : f.mine j = true) (hs : Starts s a j)
    (ht : ∀ run, startJob run f.duplex f.work j (f.pre s j) s = t) (hn : (findJob t a).any (·.phase == .running) = false) :
    exec (f.cmd run) s = .next t := by
  rw [exec_jobForm run hf hs.1 hm, engineRun_settled (t := t) (fun run => ?_) hn]
  rw [jobCommand_starts (by simp) hs, ht]

/-- Settles O23: `headFail` in the order of its checks, and the outcomes of a form's own checks. -/
theorem jobsRefused : Obligations.JobsRefused := by
  intro a f s j run hf hm hj hp hs
  have hhead {e : Fail} (h : headFail s j (bodyFaults j) = some e) := exec_headFail run hf hj hm hp hs h
  refine ⟨fun off hd => hhead ?desc, fun hd => ⟨fun hperm => hhead ?perm, fun hperm => ⟨fun hlt => hhead ?past, fun hlt => hhead ?future, fun heq =>
    ⟨fun hr hop => hhead ?state, fun hst hlv => hhead ?level⟩⟩⟩, fun hstarts => ⟨fun e he => ?fails, fun hw => ?waits, fun n c hh => ?held⟩⟩
  case desc => rw [headFail, hd]
  case perm => simp [headFail, hd, hperm]
  case past => simp [headFail, hd, hperm, hlt]
  case future => simp [headFail, hd, hperm, hlt, Nat.not_lt.2 (Nat.le_of_lt hlt)]
  case state => simp [headFail, hd, hperm, heq, stateRule, hr, hop]
  case level => simp [headFail, hd, hperm, heq, hst, hlv]
  case fails =>
    refine exec_ownCheck run hf hm hstarts (fun run => by rw [he]; rfl) ?_
    rw [← findJob_acc hj, failJob, findJob_completeJob]
    rfl
  case waits =>
    refine exec_ownCheck run hf hm hstarts (fun run => by rw [hw]; rfl) ?_
    rw [hj, Option.any_some, hp]
    rfl
  case held =>
    refine exec_ownCheck run hf hm hstarts (fun run => by rw [hh]; rfl) ?_
    rw [holdJob, findJob_acc hj, findJob_modJob hj]
    · rfl
    · exact fun _ => rfl

end Sys2Proof.Machine
end

section
/-! PROOFS. The memories of windows as a write leaves them and a read meets them (R156, R327), MOVE and DIGEST_CHECK (R56, R229, R235). -/

namespace Sys2Proof.Machine

variable {s t u : State}

/-! Bytes of windows -/

/-- A byte that is not written reads as before. -/
theorem tget_memWrite_ne {k a : Nat} {bs : List Byte} (m : List Host.Cell) (h : k < a ∨ a + bs.length ≤ k) :
    tget (0 : Byte) k (memWrite a bs m) = tget 0 k m :=
  tget_writes_ne (fun p : Byte × Nat => a + p.2) (fun p => p.1) _ _ fun x hx => by
    have := List.snd_lt_of_mem_zipIdx hx
    omega

theorem tget_memRead (m : List Host.Cell) {a n i : Nat} (h : i < n) : (memRead m a n)[i]? = some (tget (0 : Byte) (a + i) m) := by
  simp [memRead, h]

/-- A byte that is written reads back. -/
theorem tget_memWrite {a i : Nat} {bs : List Byte} (m : List Host.Cell) (h : i < bs.length) : tget (0 : Byte) (a + i) (memWrite a bs m) = bs[i] := by
  have h1 := tget_memRead (memWrite a bs m) (a := a) h
  rw [memRead_memWrite, List.getElem?_eq_getElem h] at h1
  exact (Option.some.inj h1).symm

/-- The bytes at a realm address stand in the windows' memory, in both copies of the mirrored window (R327). -/
def Stores (r a : Nat) (bs : List Byte) (m : List Host.Cell) : Prop :=
  ∀ i (h : i < bs.length), tget (0 : Byte) (winKey r a + i) m = bs[i] ∧ (mirrored r a = true → tget (0 : Byte) (winKey r a + i + mirrorKey) m = bs[i])

theorem sideCopy_cases (s : State) (q : Nat) : sideCopy s q = 0 ∨ sideCopy s q = mirrorKey := by
  have hmem : ∀ l : List (Nat × Nat), (∀ c ∈ l, c.2 = 0 ∨ c.2 = mirrorKey) →
      ((l.filter fun c => dieIn s c.1).map (·.2)).headD 0 = 0 ∨ ((l.filter fun c => dieIn s c.1).map (·.2)).headD 0 = mirrorKey := by
    intro l hl
    cases hf : (l.filter fun c => dieIn s c.1) with
    | nil => exact Or.inl rfl
    | cons c m => exact hl c (List.mem_filter.1 (hf ▸ List.mem_cons_self ..)).1
  unfold sideCopy quarterCopies
  dsimp only
  refine hmem _ fun c hc => ?_
  split at hc <;> grind

/-- What is stored is read, on whichever side (R156, R327). -/
theorem realmRead_stores {r a : Nat} {bs : List Byte} (ha : a < hostWinBase) (h : Stores r a bs s.mem.win) : realmRead s r a bs.length = bs := by
  have hkey (i : Nat) : winKey r (a + i) = winKey r a + i := by rw [winKey, winKey, Nat.add_assoc]
  rw [realmRead, if_neg (Nat.not_le.2 ha)]
  split
  · refine List.ext_getElem (by simp) fun i h1 h2 => ?_
    obtain ⟨hfirst, hsecond⟩ := h i h2
    rw [List.getElem_map, List.getElem_range, hkey]
    rcases sideCopy_cases s (quarterOf s (a + i)) with hc | hc
    · rw [hc]; exact hfirst
    · rw [hc]; exact hsecond ‹_›
  · refine List.ext_getElem (by simp [memRead]) fun i h1 h2 => ?_
    simp only [memRead, List.getElem_map, List.getElem_range]
    exact (h i h2).1

theorem realmWrite_win {r a : Nat} (bs : List Byte) (ha : a < hostWinBase) (s : State) :
    (realmWrite r a bs s).mem.win = if mirrored r a then memWrite (winKey r a + mirrorKey) bs (memWrite (winKey r a) bs s.mem.win)
      else memWrite (winKey r a) bs s.mem.win := by
  rw [realmWrite, if_neg (Nat.not_le.2 ha)]
  split
  · rfl
  · rfl

/-- What is written is stored. -/
theorem stores_realmWrite {r a : Nat} {bs : List Byte} (ha : a + bs.length ≤ hostWinBase) (hn : 0 < bs.length) (s : State) :
    Stores r a bs (realmWrite r a bs s).mem.win := by
  intro i hi
  have hbase : hostWinBase < mirrorKey := by decide
  rw [realmWrite_win bs (by omega)]
  split
  · refine ⟨?_, fun _ => ?_⟩
    · rw [tget_memWrite_ne _ (by omega), tget_memWrite _ hi]
    · rw [Nat.add_right_comm, tget_memWrite _ hi]
  · exact ⟨tget_memWrite _ hi, fun h => absurd h ‹_›⟩

/-- Every byte of the windows outside the copies that are written keeps its value. -/
theorem tget_realmWrite_ne {r a k : Nat} {bs : List Byte} (ha : a < hostWinBase) (h : k < winKey r a ∨ winKey r a + bs.length ≤ k)
    (hm : mirrored r a = true → k < winKey r a + mirrorKey ∨ winKey r a + mirrorKey + bs.length ≤ k) (s : State) :
    tget (0 : Byte) k (realmWrite r a bs s).mem.win = tget 0 k s.mem.win := by
  rw [realmWrite_win bs ha]
  split
  · rw [tget_memWrite_ne _ (hm ‹_›), tget_memWrite_ne _ h]
  · exact tget_memWrite_ne _ h

theorem realmRead_length (s : State) (r a n : Nat) : (realmRead s r a n).length = n := by
  unfold realmRead dmaRead hostRead
  split
  · split <;> simp
  · split <;> simp [memRead]

/-- The windows' memory after a job has ended that settles no table and asks for no digest. -/
theorem undComplete_win (c : Option Nat) (ok : Bool) (d : List Byte) (s : State) : (undComplete c ok d s).mem.win = s.mem.win := by
  have hraise (d : EvDest) (e : Ev) (s : State) : (raise d e s).mem.win = s.mem.win := by
    obtain ⟨_, _, _, h⟩ := raise_told d e s
    rw [h]
  have hcompare (x : UndJob) (s : State) : (undCompare x s).mem.win = s.mem.win := by
    unfold undCompare
    split
    · rfl
    · dsimp only
      split
      · rfl
      · split
        · rfl
        · exact hraise ..
  unfold undComplete
  split
  · rfl
  · split
    · rfl
    · dsimp only
      split
      · exact hcompare ..
      · rfl

theorem completeJob_win {j : Job} {r : JobResult} (hd : r.status = 0 → jDigest j = 0) (simplex : Bool) (cls : Nat) (s : State) :
    (completeJob j r simplex cls s).mem.win = s.mem.win := by
  have hrecord (cls src : Nat) (s : State) : (recordFault cls src s).mem.win = s.mem.win := by
    unfold recordFault
    split <;> split <;> (try split) <;> rfl
  unfold completeJob
  extract_lets v _ _ u w x
  have hv : v = s := if_neg (by simpa using hd)
  have hu : u.mem.win = s.mem.win := by
    unfold u
    rw [hv]
    split <;> rfl
  have hx : x.mem.win = s.mem.win := (undComplete_win ..).trans hu
  split
  · exact (hrecord ..).trans hx
  · exact hx

/-! MOVE -/

/-- A body runs on the state that its start leaves, its banks those active then. -/
def bodyState (j : Job) (s : State) : State := setQuiet j.port j.mute (takeClaim j noClaim s)

theorem bodyState_eq (j : Job) (s : State) : ∃ hosts, bodyState j s = { takeClaim j noClaim s with hosts := hosts } := by
  unfold bodyState setQuiet
  split
  · exact ⟨_, rfl⟩
  · exact ⟨(takeClaim j noClaim s).hosts, rfl⟩

/-- The job that a claim of nothing makes of one accepted. -/
def started (j : Job) (s : State) : Job :=
  { j with phase := .running, tables := [], changed := [], reserve := 0, need := [], banks := s.active, pin := none }

theorem findJob_takeClaim {a : Nat} {j : Job} (hj : findJob s a = some j) (hp : j.phase = .accepted) :
    findJob (takeClaim j noClaim s) a = some (started j s) := by
  rw [takeClaim, findJob_acc hj, findJob_modJob hj]
  · rw [if_neg (by decide), if_neg (by rw [hp]; decide)]
    rfl
  · exact fun _ => rfl

/-- A job command whose result is not compared, on a job that starts: its body's outcome on the state of its start. -/
theorem exec_once {a : Nat} {f : JobForm} {j : Job} {v : State} {o : Except Fail JobResult} (hf : f ∈ jobForms a) (hs : Starts s a j)
    (hm : f.mine j = true) (hp : f.pre s j = .go noClaim) (he : f.engines = []) (hd : f.duplex = once) (ht : jType j ≠ 0x0B)
    (hw : f.work (started j s) (bodyState j s) = (v, o)) :
    exec (f.cmd (.whole [])) s = .next (finishRun (.whole []) false j (setQuiet j.port false { v with active := s.active }, o)) := by
  have hexec := exec_starts (.whole []) hf hs hm hp (by simp [he])
  obtain ⟨hj, hacc, -, -, -⟩ := hs
  rw [findJob_acc hj, findJob_takeClaim hj hacc] at hexec
  have hunder : underBanks f.work (started j s) (takeClaim j noClaim s) = (setQuiet j.port false { v with active := s.active }, o) := by
    have ht' : (jType (started j s) == 0x0B) = false := by simpa [jType, started, dF] using ht
    have hstate : setQuiet (started j s).port (started j s).mute { takeClaim j noClaim s with active := (started j s).banks } = bodyState j s := rfl
    rw [underBanks, ht']
    simp only [Bool.false_eq_true, if_false, hstate, hw]
    rfl
  rw [show jobReads (runReads (.whole [])) (takeClaim j noClaim s) = takeClaim j noClaim s from rfl, hd] at hexec
  simp only [onlyStarts, Bool.false_eq_true, if_false, hunder] at hexec
  exact hexec

theorem finishRun_ok (j : Job) (r : JobResult) (s : State) : finishRun (.whole []) false j (s, .ok r) = releaseResult j r false 0 s := by
  simp [finishRun, withholds]

theorem finishRun_error (j : Job) (e : Fail) (s : State) : finishRun (.whole []) false j (s, .error e) = failJob j e s := rfl

/-- A body reads realm memory as the state before its start does. -/
theorem realmRead_bodyState (j : Job) (s : State) (r a n : Nat) (ha : a < hostWinBase) : realmRead (bodyState j s) r a n = realmRead s r a n := by
  obtain ⟨hosts, h⟩ := bodyState_eq j s
  rw [h, realmRead, realmRead, if_neg (Nat.not_le.2 ha), if_neg (Nat.not_le.2 ha)]
  rfl

theorem checkedRead_clean {r a n d : Nat} (h : poisonedReadA s r a n = none) : checkedRead r a n d s = (s, .ok (realmRead s r a n)) := by
  rw [checkedRead, h]
  rfl

theorem poisonedReadA_bodyState (j : Job) (s : State) (r a n : Nat) : poisonedReadA (bodyState j s) r a n = poisonedReadA s r a n := by
  obtain ⟨hosts, h⟩ := bodyState_eq j s
  rw [h]
  rfl

theorem poisonedWrite_bodyState (j : Job) (s : State) (r a n : Nat) : poisonedWrite (bodyState j s) r a n = poisonedWrite s r a n := by
  obtain ⟨hosts, h⟩ := bodyState_eq j s
  rw [h]
  rfl

theorem setQuiet_win (p : Nat) (q : Bool) (s : State) : (setQuiet p q s).mem.win = s.mem.win := by
  unfold setQuiet
  split <;> rfl

/-- A result that settles no table, writes no records and asks for no digest is released by its completion. -/
theorem releaseResult_plain {j : Job} {r : JobResult} (hl : r.lens = []) (ho : r.out = none) (hd : jDigest j = 0) (simplex : Bool) (cls : Nat) (s : State) :
    (releaseResult j r simplex cls s).mem.win = s.mem.win ∧ findJob (releaseResult j r simplex cls s) j.acc = none := by
  have hp : lastPoison s j r = none := by
    rw [lastPoison, hl, hd]
    simp [firstSome]
  have hrel : releaseResult j r simplex cls s = completeJob j r simplex cls (drainLimbo j.realm s) := by
    rw [releaseResult, hp]
    simp only [hl, ho]
    rfl
  rw [hrel]
  exact ⟨completeJob_win (fun _ => hd) .., findJob_completeJob ..⟩

/-- Settles O25: the body reads the source and writes the destination, and the completion writes no window. -/
theorem moveCopies : Obligations.MoveCopies := by
  intro a s j hs ht hp hd hn hsrc hdst hread hwrite
  have hf : (⟨.move a, fun j => jType j == 6, movePre, moveWork, once, []⟩ : JobForm) ∈ jobForms a := by simp [jobForms]
  have hlen : (realmRead s j.realm (dF j 48 8) (dF j 64 8)).length = dF j 64 8 := realmRead_length ..
  have hwork : moveWork (started j s) (bodyState j s) =
      (realmWrite j.realm (dF j 56 8) (realmRead s j.realm (dF j 48 8) (dF j 64 8)) (bodyState j s),
        .ok (okResult j (serialiseBytes (realmRead s j.realm (dF j 48 8) (dF j 64 8))) 1)) := by
    have hclean := checkedRead_clean (d := 0) ((poisonedReadA_bodyState j s ..).trans hread)
    rw [realmRead_bodyState j s _ _ _ (by omega)] at hclean
    have hwritten : checkedWrite j.realm (dF j 56 8) 0 (realmRead s j.realm (dF j 48 8) (dF j 64 8)) (bodyState j s) =
        (realmWrite j.realm (dF j 56 8) (realmRead s j.realm (dF j 48 8) (dF j 64 8)) (bodyState j s), none) := by
      rw [checkedWrite, hlen, poisonedWrite_bodyState, hwrite]
      rfl
    change moveWork j (bodyState j s) = _
    simp only [moveWork, hclean, hwritten]
  have hexec := exec_once (f := ⟨.move a, fun j => jType j == 6, movePre, moveWork, once, []⟩) hf hs (by simp [ht]) hp rfl rfl (by omega) hwork
  rw [finishRun_ok] at hexec
  generalize hbs : realmRead s j.realm (dF j 48 8) (dF j 64 8) = bs at hexec hlen
  obtain ⟨hwin, hgone⟩ := releaseResult_plain (j := j) (r := okResult j (serialiseBytes bs) 1) rfl rfl hd false 0
    (setQuiet j.port false { realmWrite j.realm (dF j 56 8) bs (bodyState j s) with active := s.active })
  rw [setQuiet_win] at hwin
  have hstores := stores_realmWrite (r := j.realm) (a := dF j 56 8) (bs := bs) (by omega) (by omega) (bodyState j s)
  refine ⟨_, hexec, ?read, ?copies, ?kept, ?gone⟩
  case read =>
    have h := realmRead_stores (a := dF j 56 8) (r := j.realm) (bs := bs) (by omega) (hwin ▸ hstores)
    rw [hlen] at h
    exact h.trans hbs.symm
  case copies =>
    intro hm i hi
    obtain ⟨hfirst, hsecond⟩ := hstores i (by omega)
    rw [hwin]
    exact (hsecond hm).trans hfirst.symm
  case kept =>
    intro k hk hkm
    have hbody : (bodyState j s).mem = s.mem := by
      obtain ⟨hosts, h⟩ := bodyState_eq j s
      rw [h]
      rfl
    rw [hwin]
    refine (tget_realmWrite_ne (by omega) (by rwa [hlen]) (by rwa [hlen]) _).trans ?_
    rw [hbody]
  case gone => rw [← findJob_acc hs.1]; exact hgone

/-! DIGEST_CHECK -/

theorem setQuiet_off {p : Nat} (h : (portOf s p).quiet = false) : setQuiet p false s = s := by
  rw [setQuiet, h]
  rfl

/-- Where the events of a job are not discarded, its body runs on its start and leaves the port as it is. -/
theorem bodyState_loud {j : Job} (hm : j.mute = false) (hq : (portOf s j.port).quiet = false) :
    bodyState j s = takeClaim j noClaim s ∧ setQuiet j.port false { bodyState j s with active := s.active } = takeClaim j noClaim s := by
  have hb : bodyState j s = takeClaim j noClaim s := by
    rw [bodyState, hm]
    exact setQuiet_off (s := takeClaim j noClaim s) hq
  refine ⟨hb, ?_⟩
  rw [hb]
  exact setQuiet_off (s := takeClaim j noClaim s) hq

theorem findIdx?_zip_ne {x y : List Byte} (hl : x.length = y.length) {i : Nat} (hi : i < x.length) (ht : x.take i = y.take i)
    (hne : x.getD i 0 ≠ y.getD i 0) : ((x.zip y).findIdx? fun p => p.1 != p.2) = some i := by
  refine List.findIdx?_eq_some_iff_getElem.2 ⟨by simp [hl] at hi ⊢; omega, ?_, fun k hk => ?_⟩
  · rw [List.getElem_zip]
    rw [List.getD_eq_getElem _ _ hi, List.getD_eq_getElem _ _ (hl ▸ hi)] at hne
    simpa using hne
  · rw [List.getElem_zip]
    have h : (x.take i)[k]? = (y.take i)[k]? := by rw [ht]
    rw [List.getElem?_take_of_lt hk, List.getElem?_take_of_lt hk, List.getElem?_eq_getElem (by omega), List.getElem?_eq_getElem (by omega)] at h
    simpa using h

theorem findIdx?_zip_self (x : List Byte) : ((x.zip x).findIdx? fun p => p.1 != p.2) = none := by
  refine List.findIdx?_eq_none_iff.2 fun p hp => ?_
  obtain ⟨i, hi, h⟩ := List.getElem_of_mem hp
  rw [List.getElem_zip] at h
  rw [← h]
  simp

/-- Settles O26: the body compares the two digests byte by byte. -/
theorem digestCheckCompares : Obligations.DigestCheckCompares := by
  intro a s j hs ht hp hread1 hread2 ha hb hm hq x y
  have hf : (⟨.digestCheck a, fun j => jType j == 10, digestCheckPre, digestCheckWork, once, []⟩ : JobForm) ∈ jobForms a := by simp [jobForms]
  have hx : checkedRead j.realm (dF j 48 8) 32 0 (bodyState j s) = (bodyState j s, .ok x) := by
    rw [checkedRead_clean ((poisonedReadA_bodyState j s ..).trans hread1), realmRead_bodyState j s _ _ _ (by omega)]
  have hy : checkedRead j.realm (dF j 56 8) 32 0 (bodyState j s) = (bodyState j s, .ok y) := by
    rw [checkedRead_clean ((poisonedReadA_bodyState j s ..).trans hread2), realmRead_bodyState j s _ _ _ (by omega)]
  have hlx : x.length = 32 := realmRead_length ..
  have hly : y.length = 32 := realmRead_length ..
  have hexec {o : Except Fail JobResult} (hw : digestCheckWork j (bodyState j s) = (bodyState j s, o)) :
      exec (.digestCheck a (.whole [])) s = .next (finishRun (.whole []) false j (takeClaim j noClaim s, o)) := by
    rw [← (bodyState_loud hm hq).2]
    exact exec_once (f := ⟨.digestCheck a, fun j => jType j == 10, digestCheckPre, digestCheckWork, once, []⟩) hf hs (by simp [ht]) hp rfl rfl (by omega) hw
  refine ⟨fun heq => ?equal, fun i hi htake hne => ?differs⟩
  case equal =>
    refine (hexec ?_).trans (congrArg Host.Outcome.next (finishRun_ok ..))
    simp only [digestCheckWork, hx, hy, ← heq, findIdx?_zip_self]
  case differs =>
    refine (hexec ?_).trans (congrArg Host.Outcome.next (finishRun_error ..))
    simp only [digestCheckWork, hx, hy, findIdx?_zip_ne (hlx.trans hly.symm) (by omega) htake hne]

end Sys2Proof.Machine
end

section
/-! PROOFS. FENCE, BARRIER and the dormant barrier (R29, R31, R231, R233), CURTAIN and its swap (R250 to R252). -/

namespace Sys2Proof.Machine

variable {s t u : State}

/-! FENCE and BARRIER -/

/-- A FENCE that starts (R233). -/
theorem fence_starts {a : Nat} {j : Job} (hs : Starts s a j) (ht : jType j = 9) :
    exec (.fence a) s = .next (if dF j 48 8 ≤ (realmOf s j.realm).epoch then failJob j ⟨5, (realmOf s j.realm).epoch % 2 ^ 32⟩ s
      else modJob a (fun k => { k with
          phase := .running, waitFor := (s.jobs.filter fun x => x.realm == j.realm && x.phase != .accepted).map (·.acc) })
        (modRealm j.realm (fun m => { m with epoch := dF j 48 8 }) s)) := by
  obtain ⟨hj, hp, hm, hh, hd⟩ := hs
  refine congrArg Host.Outcome.next ?_
  simp only [hj, ht, hm, hh, hd, ne_eq, not_true, decide_false, Bool.not_true, Bool.or_false, Bool.false_eq_true, if_false]

/-- A plain BARRIER that starts (R231). -/
theorem barrier_starts {a : Nat} {j : Job} (hs : Starts s a j) (ht : jType j = 13) (hd : jDormant j = false) :
    exec (.barrier a) s = .next (okJob j 0 s) := by
  obtain ⟨hj, hp, hm, hh, hdig⟩ := hs
  refine congrArg Host.Outcome.next ?_
  simp only [hj, ht, hd, hm, hh, hdig, ne_eq, not_true, decide_false, Bool.not_true, Bool.or_false, Bool.false_eq_true, if_false]

/-- A dormant barrier that starts (R29, R31). -/
theorem dormantBarrier_starts {a : Nat} {j : Job} (hs : Starts s a j) (ht : jType j = 13) (hd : jDormant j = true) :
    exec (.dormantBarrier a) s = .next (drainStep { j with phase := .running } (modJob a (fun k => { k with phase := .running }) s)) := by
  obtain ⟨hj, hp, hm, hh, hdig⟩ := hs
  refine congrArg Host.Outcome.next ?_
  simp only [hj, ht, hd, hp, hm, hh, hdig, ne_eq, not_true, decide_false, Bool.not_true, Bool.or_false, Bool.false_eq_true, if_false, reduceCtorEq]

theorem endWork_drops (s : State) :
    let t := modMem dropStacks (endWork s)
    t.op = s.op ∧ t.jobs = [] ∧ t.mem.win = [] ∧ t.mem.room = [] ∧ t.mem.dirs = [] := ⟨rfl, rfl, rfl, rfl, rfl⟩

theorem writeStatus_op (p : Nat) (s : State) : (writeStatus p s).op = s.op := by simp only [writeStatus, setReady, modPort, hostWrite]

/-- What the entry to DORMANT leaves (R29, R31). -/
theorem enterDormant_leaves (s : State) :
    let t := enterDormant s
    t.op = .dormant ∧ t.jobs = [] ∧ t.mem.win = [] ∧ t.mem.room = [] ∧ t.mem.dirs = [] := by
  obtain ⟨hop, hjobs, hwin, hroom, hdirs⟩ := endWork_drops ((List.range 4).foldl
    (fun s p => if hostOn s p && (portOf s p).busMaster then writeStatus p s else s) (setOp .dormant (writeWear (regInc K.WEAR_DORMANT_count s))))
  refine ⟨hop.trans ?_, hjobs, hwin, hroom, hdirs⟩
  refine (foldl_keeps State.op _ (fun t p => ?_) _).trans (setOp_op_eq ..)
  split
  · exact writeStatus_op p t
  · rfl

/-- Settles O27: the branches of the three commands; a dormant barrier with other jobs left only starts. -/
theorem fencesAndBarriers : Obligations.FencesAndBarriers := by
  refine ⟨⟨fun a s j hs ht he => ?fence, fun a s j hs ht he => ?past, fun a s j hj ht hp => ⟨fun hnone => ?ended, fun hsome => ?waits⟩⟩,
    fun a s j hs ht hd => barrier_starts hs ht hd, fun a s j hs ht hd hop => ?busy, fun a s j hs ht hd hop hall => ?enters, fun a s j hs ht hd hop hex => ?drains⟩
  case fence =>
    refine ⟨_, (fence_starts hs ht).trans (congrArg Host.Outcome.next (if_neg (Nat.not_le.2 he))), ?_, fun r hr => ?_, ?_, rfl⟩
    · rw [realmOf_modJob, realmOf_modRealm_self]
    · rw [realmOf_modJob, realmOf_modRealm_ne _ _ hr]
    · refine ⟨_, findJob_modJob (s := modRealm j.realm (fun m => { m with epoch := dF j 48 8 }) s) hs.1 ?_, rfl, rfl⟩
      exact fun _ => rfl
  case past => exact (fence_starts hs ht).trans (congrArg Host.Outcome.next (if_pos he))
  case ended =>
    refine congrArg Host.Outcome.next ?_
    have hall : (j.waitFor.all fun a => (findJob s a).isNone) = true := List.all_eq_true.2 fun b hb => by rw [hnone b hb]; rfl
    simp only [hj, ht, hp, hall, decide_true, Bool.and_self, if_true]
  case waits =>
    refine congrArg Host.Outcome.next ?_
    obtain ⟨b, hb, hsome⟩ := hsome
    have hall : (j.waitFor.all fun a => (findJob s a).isNone) = false := by
      refine List.all_eq_false.2 ⟨b, hb, ?_⟩
      rw [Option.isNone_iff_eq_none, ← Option.not_isSome_iff_eq_none, not_not, hsome]
    simp only [hj, hall, Bool.and_false, Bool.false_eq_true, if_false]
  case busy =>
    refine ⟨_, dormantBarrier_starts hs ht hd, ?_⟩
    rw [drainStep, if_pos (by exact hop)]
    refine ⟨?_, (okJob_ending ..).op⟩
    rw [← findJob_acc hs.1]
    exact findJob_completeJob ..
  case enters =>
    refine ⟨_, dormantBarrier_starts hs ht hd, ?_⟩
    have hother : ((modJob a (fun k => { k with phase := .running }) s).jobs.any fun k => k.acc != j.acc) = false := by
      rw [findJob_acc hs.1]
      simp only [modJob, List.any_map, List.any_eq_false, Function.comp]
      intro k hk
      rw [if_pos (hall k hk)]
      simp [hall k hk]
    rw [drainStep, if_neg (by simpa using hop), if_neg (by simpa using hother)]
    obtain ⟨hop', hjobs, hwin, hroom, hdirs⟩ := enterDormant_leaves (okJob { j with phase := .running } 0 (modJob a (fun k => { k with phase := .running }) s))
    refine ⟨hop', hjobs, hwin, hroom, hdirs, ?_⟩
    rw [powered, hop']
    rfl
  case drains =>
    refine ⟨_, dormantBarrier_starts hs ht hd, ?_⟩
    obtain ⟨k, hk, hka⟩ := hex
    have hother : ((modJob a (fun k => { k with phase := .running }) s).jobs.any fun k => k.acc != j.acc) = true := by
      rw [findJob_acc hs.1]
      refine List.any_eq_true.2 ⟨k, List.mem_map.2 ⟨k, hk, if_neg hka⟩, by simpa using hka⟩
    rw [drainStep, if_neg (by simpa using hop), if_pos hother]
    refine ⟨rfl, List.any_eq_true.2 ⟨{ j with phase := .running }, List.mem_map.2 ⟨j, findJob_mem hs.1, if_pos (findJob_acc hs.1)⟩, ?_⟩⟩
    have hty : jType { j with phase := .running } = jType j := rfl
    rw [hty, ht]
    rfl

/-! CURTAIN -/

/-- A CURTAIN job that starts is pending, its banks those active at its start (R251). -/
theorem curtainJob_starts {a : Nat} {j : Job} (hs : Starts s a j) (ht : jType j = 8) (hp : curtainPre s j = .go noClaim) (hc : s.curtain = none) :
    curtainJob a s = pendCurtain (started j s) (takeClaim j noClaim s) := by
  have hcmd : jobCommand [0x08] a .start bodyFaults curtainPre (fun _ s => (s, .error ⟨0, 0⟩)) once s = takeClaim j noClaim s := by
    rw [jobCommand_starts (by simp [ht]) hs, hp]
    rfl
  have hty : jType (started j s) = 8 := ht
  have hcur : (takeClaim j noClaim s).curtain.isNone = true := Option.isNone_iff_eq_none.2 hc
  rw [curtainJob, hcmd]
  simp only [findJob_takeClaim hs.1 hs.2.1, hty, hcur]
  rfl

/-- Settles O28: the start goes through `curtainPre`, and the job that runs is noted as the pending curtain. -/
theorem curtainStarts : Obligations.CurtainStarts := by
  refine ⟨fun a s j hs ht hc hon => ?pends, fun a s j hs ht he hoff => ?refused⟩
  case pends =>
    have hp : curtainPre s j = .go noClaim := by
      rw [curtainPre, if_neg]
      intro h
      obtain ⟨he, hoff⟩ := Bool.and_eq_true_iff.1 h
      simp [hon he] at hoff
    refine ⟨_, congrArg Host.Outcome.next (curtainJob_starts hs ht hp hc), ?_, ⟨started j s, findJob_takeClaim hs.1 hs.2.1, rfl⟩, rfl⟩
    rw [← findJob_acc hs.1]
    rfl
  case refused =>
    have hp : curtainPre s j = .fail ⟨0x12, 3⟩ := by
      rw [curtainPre, he, hoff]
      rfl
    have hcmd : jobCommand [0x08] a .start bodyFaults curtainPre (fun _ s => (s, .error ⟨0, 0⟩)) once s = failJob j ⟨0x12, 3⟩ s := by
      rw [jobCommand_starts (by simp [ht]) hs, hp]
      rfl
    have hgone : findJob (failJob j ⟨0x12, 3⟩ s) a = none := by
      rw [← findJob_acc hs.1]
      exact findJob_completeJob ..
    refine congrArg Host.Outcome.next ?_
    rw [curtainJob, hcmd]
    simp only [hgone]

/-! The swap -/

theorem actGet_exchange {ks : List Nat} (hk : ks.Nodup) (s : State) (k : Nat) :
    actGet (exchange ks s) k = (if k ∈ ks then shGet s k else actGet s k) ∧ shGet (exchange ks s) k = if k ∈ ks then actGet s k else shGet s k := by
  induction ks generalizing s with
  | nil => exact ⟨rfl, rfl⟩
  | cons x ks ih =>
    obtain ⟨hx, hk⟩ := List.nodup_cons.1 hk
    have hstep : exchange (x :: ks) s = exchange ks (shSet x (actGet s x) (actSet x (shGet s x) s)) := rfl
    obtain ⟨hact, hsh⟩ := ih hk (shSet x (actGet s x) (actSet x (shGet s x) s))
    rw [hstep, hact, hsh]
    by_cases h : k = x
    · subst h
      simp [hx, actGet_actSet_self]
    · simp [h, shGet_shSet_ne _ _ h, actGet_actSet_ne _ _ h]

theorem nodup_eraseDups (l : List Nat) : l.eraseDups.Nodup := by
  induction hn : l.length using Nat.strong_induction_on generalizing l with
  | _ n ih =>
    cases l with
    | nil => exact List.nodup_nil
    | cons a l =>
      rw [List.eraseDups_cons]
      refine List.nodup_cons.2 ⟨fun h => ?_, ih _ ?_ _ rfl⟩
      · simpa using List.mem_eraseDups.1 h
      · rw [← hn]
        exact Nat.lt_succ_of_le (List.length_filter_le ..)

theorem tget_notMem {α : Type} (d : α) {k : Nat} {l : List (Nat × α)} (h : k ∉ l.map (·.1)) : tget d k l = d := by
  induction l with
  | nil => rfl
  | cons e l ih =>
    rw [List.map_cons, List.mem_cons, not_or] at h
    rw [tget, if_neg (Ne.symm h.1), ih h.2]

/-- A field of a bank named either differs between the copies and is exchanged, or reads the same in both. -/
theorem exchange_changed (mask : Nat) (s : State) (k : Nat) :
    let t := exchange (changedKeys s mask) s
    if bitOf mask (bankOf k) = true then actGet t k = shGet s k ∧ shGet t k = actGet s k else actGet t k = actGet s k ∧ shGet t k = shGet s k := by
  intro t
  obtain ⟨hact, hsh⟩ := actGet_exchange (ks := changedKeys s mask) ((nodup_eraseDups _).filter _) s k
  rw [hact, hsh]
  by_cases hk : k ∈ changedKeys s mask
  · have hb : bitOf mask (bankOf k) = true := (Bool.and_eq_true_iff.1 (List.mem_filter.1 hk).2).1
    simp [hk, hb]
  · simp only [if_neg hk]
    split
    · have hsame : actGet s k = shGet s k := by
        by_contra hne
        refine hk (List.mem_filter.2 ⟨List.mem_eraseDups.2 ?_, by simp [‹bitOf mask (bankOf k) = true›, hne]⟩)
        by_contra hmem
        rw [List.map_append, List.mem_append, not_or] at hmem
        exact hne ((tget_notMem _ hmem.1).trans (tget_notMem _ hmem.2).symm)
      exact ⟨hsame, hsame.symm⟩
    · simp

/-- The copies of the banks and CFG_GEN, as they were. -/
structure BanksKept (s t : State) : Prop where
  act : t.active = s.active
  sh : t.shadow = s.shadow
  gen : regGet t K.CFG_GEN_gen = regGet s K.CFG_GEN_gen

namespace BanksKept

theorem refl (s : State) : BanksKept s s := ⟨rfl, rfl, rfl⟩

theorem trans (h : BanksKept s t) (h' : BanksKept t u) : BanksKept s u := ⟨h'.act.trans h.act, h'.sh.trans h.sh, h'.gen.trans h.gen⟩

theorem of_reg (hact : t.active = s.active) (hsh : t.shadow = s.shadow) (hreg : t.reg = s.reg) : BanksKept s t :=
  ⟨hact, hsh, by rw [regGet, hreg, regGet]⟩

theorem ite {c : Prop} [Decidable c] (ht : BanksKept s t) (hu : BanksKept s u) : BanksKept s (if c then t else u) := by
  split
  · exact ht
  · exact hu

theorem foldl {α : Type} {f : State → α → State} (l : List α) (h : BanksKept s t) (hf : ∀ t x, BanksKept t (f t x)) : BanksKept s (l.foldl f t) := by
  induction l generalizing t with
  | nil => exact h
  | cons x l ih => exact ih (h.trans (hf t x))

end BanksKept

theorem regSet_banks {k : Nat} (v : Nat) (hk : K.CFG_GEN_gen ≠ k) (s : State) : BanksKept s (regSet k v s) := ⟨rfl, rfl, regGet_regSet_ne _ _ hk⟩

theorem told_banks (h : Told s t) : BanksKept s t := by
  obtain ⟨_, _, _, rfl⟩ := h
  exact .of_reg rfl rfl rfl

theorem raise_banks (d : EvDest) (e : Ev) (s : State) : BanksKept s (raise d e s) := told_banks (raise_told d e s)

theorem realmWrite_banks (r a : Nat) (bs : List Byte) (s : State) : BanksKept s (realmWrite r a bs s) := .of_reg (by simp) (by simp) (by simp)

theorem undCompare_banks (x : UndJob) (s : State) : BanksKept s (undCompare x s) := by
  have hund : ∀ m : Understudy, BanksKept s { s with und := m } := fun _ => .of_reg rfl rfl rfl
  exact .ite (.refl s) (.ite (.refl s) (.ite (hund _) ((hund _).trans ((regSet_banks _ (by grind) _).trans (raise_banks ..)))))

theorem undComplete_banks (c : Option Nat) (ok : Bool) (d : List Byte) (s : State) : BanksKept s (undComplete c ok d s) := by
  have hund : ∀ m : Understudy, BanksKept s { s with und := m } := fun _ => .of_reg rfl rfl rfl
  cases c with
  | none => exact .refl s
  | some c => exact .ite (.refl s) (.ite ((hund _).trans (undCompare_banks ..)) (hund _))

theorem recordFault_banks (cls src : Nat) (s : State) : BanksKept s (recordFault cls src s) := by
  have h : BanksKept s (if 2 ≤ cls then regSet K.FAULT_LAST_source src s else s) := .ite (regSet_banks _ (by grind) _) (.refl s)
  exact .ite (h.trans (regSet_banks _ (by grind) _)) (.ite (h.trans (regSet_banks _ (by grind) _)) h)

theorem completeJob_banks (j : Job) (r : JobResult) (simplex : Bool) (cls : Nat) (s : State) : BanksKept s (completeJob j r simplex cls s) := by
  have hdigest : BanksKept s (withDigest j r s) := .ite (realmWrite_banks ..) (.refl s)
  have hclass : ∀ v, BanksKept s v → BanksKept s (if cls = 2 then recordFault 2 iodSteward { v with lastClass := 2 } else v) := fun v hv =>
    .ite ((hv.trans (u := { v with lastClass := 2 }) (.of_reg rfl rfl rfl)).trans (recordFault_banks ..)) hv
  have hleft : ∀ v, BanksKept s v → BanksKept s (drainLimbo j.realm { v with jobs := v.jobs.filter fun k => k.acc != j.acc }) := fun v hv =>
    hv.trans (.of_reg rfl rfl rfl)
  refine hclass _ ((hleft _ (.ite ?dropped ?posted)).trans (undComplete_banks ..))
  case dropped => exact hdigest.trans (.of_reg rfl rfl rfl)
  case posted => exact hdigest.trans (.of_reg rfl rfl rfl)

theorem writeStatus_banks (p : Nat) (s : State) : BanksKept s (writeStatus p s) := by
  simp only [writeStatus, setReady, modPort, hostWrite]
  exact .of_reg rfl rfl rfl

theorem writeStatuses_banks (s : State) : BanksKept s (writeStatuses s) := .foldl _ (.refl s) fun _ _ => .ite (writeStatus_banks ..) (.refl _)

theorem releaseMemory_banks (r : Nat) (s : State) : BanksKept s (releaseMemory r s) := .of_reg rfl rfl rfl

theorem undRelease_banks (r : Nat) (s : State) : BanksKept s (undRelease r s) := by
  refine .ite ?_ (.refl s)
  have hund : BanksKept s { s with und := { s.und with waiting := [], matched := [] } } := .of_reg rfl rfl rfl
  exact (hund.trans (regSet_banks _ (by grind) _)).trans (regSet_banks _ (by grind) _)

theorem modRealm_banks (r : Nat) (f : Realm → Realm) (s : State) : BanksKept s (modRealm r f s) := .of_reg rfl rfl rfl

theorem remapRealm_banks (had : Bool) (r : Nat) (s : State) : BanksKept s (remapRealm had r s) :=
  .ite ((((raise_banks ..).trans (modRealm_banks ..)).trans (releaseMemory_banks ..)).trans (undRelease_banks ..))
    ((modRealm_banks ..).trans (releaseMemory_banks ..))

theorem followDrive_banks (s : State) : BanksKept s (followDrive s) := .ite (.of_reg rfl rfl rfl) (.ite (.of_reg rfl rfl rfl) (.of_reg rfl rfl rfl))

theorem modCue_banks (g : Nat) (f : Cue → Cue) (s : State) : BanksKept s (modCue g f s) := .of_reg rfl rfl rfl
theorem modStr_banks (k : Nat) (f : Stream → Stream) (s : State) : BanksKept s (modStr k f s) := .of_reg rfl rfl rfl
theorem modChan_banks (c : Nat) (f : Channel → Channel) (s : State) : BanksKept s (modChan c f s) := .of_reg rfl rfl rfl
theorem modSvc_banks (k : Nat) (f : Svc → Svc) (s : State) : BanksKept s (modSvc k f s) := .of_reg rfl rfl rfl
theorem modOut_banks (o : Nat) (f : OutStream → OutStream) (s : State) : BanksKept s (modOut o f s) := .of_reg rfl rfl rfl
theorem modEgo_banks (f : Ego → Ego) (s : State) : BanksKept s (modEgo f s) := .of_reg rfl rfl rfl

theorem followCues_banks (before ks : List Nat) (s : State) : BanksKept s (followCues before ks s) := by
  unfold followCues
  dsimp only
  have hcues : BanksKept s _ := .foldl ((List.range 16).filter fun g => bankTouched ks (0x2400 + 0x20 * g) 0x20) (.refl s) fun t g =>
    modCue_banks g (fun c => { c with last := tauNow t, pulse := if actGet t (K.CUE_CTRL_pin g) = 1 then c.pulse else none }) t
  exact .ite hcues (.ite (hcues.trans (.of_reg rfl rfl rfl)) hcues)

theorem refreshHold_banks (p : Nat) (s : State) : BanksKept s (refreshHold p s) := by
  have hkept : RegsKept [K.ING_HOLD_asserted p, K.ING_HOLD_COUNT_count p] s (refreshHold p s) := refreshHold_kept (by simp) (by simp) (kept_refl _ s)
  refine ⟨?_, ?_, hkept _ (by grind)⟩
  all_goals rw [refreshHold_frame]

theorem followStreams_banks (outs : List Nat) (ego : Bool) (ks : List Nat) (s : State) : BanksKept s (followStreams outs ego ks s) := by
  unfold followStreams
  extract_lets s1 _ s2 s3 s4 _ s5 s6 on _ s7
  have h1 : BanksKept s s1 := .foldl _ (.refl s) fun _ _ => modStr_banks ..
  have h2 : BanksKept s s2 := .foldl _ h1 fun t c => (regSet_banks (k := K.FUS_CH_STATE_unsync c) 0 (by grind) t).trans (modChan_banks ..)
  have h3 : BanksKept s s3 := .foldl _ h2 fun _ _ => modSvc_banks ..
  have h4 : BanksKept s s4 := .foldl _ h3 fun _ _ => modSvc_banks ..
  have h5 : BanksKept s s5 := .foldl _ h4 fun _ _ => modOut_banks ..
  have h6 : BanksKept s s6 := .foldl _ h5 fun _ _ => modOut_banks ..
  have h7 : BanksKept s s7 := .ite (h6.trans (modEgo_banks ..)) (.ite (h6.trans (modEgo_banks ..)) h6)
  exact .foldl _ h7 fun t p => refreshHold_banks p t

theorem exchange_gen (ks : List Nat) (s : State) : regGet (exchange ks s) K.CFG_GEN_gen = regGet s K.CFG_GEN_gen := by
  have hreg : (exchange ks s).reg = s.reg := foldl_keeps State.reg ks (fun t k => (rfl : (shSet k (actGet t k) (actSet k (shGet t k) t)).reg = t.reg)) s
  rw [regGet, hreg, regGet]

/-- What a swap leaves in the banks: the exchange, and CFG_GEN one higher. -/
theorem swapIn_banks (ks : List Nat) (mask : Nat) (s : State) :
    (swapIn ks mask s).active = (exchange ks s).active ∧ (swapIn ks mask s).shadow = (exchange ks s).shadow ∧
      regGet (swapIn ks mask s) K.CFG_GEN_gen = (regGet s K.CFG_GEN_gen + 1) % 2 ^ 32 := by
  unfold swapIn
  extract_lets relaid had cues outs ego s1 s2 s3 s4 s5
  have h2 : BanksKept s1 s2 := .foldl _ (.refl s1) fun _ _ => remapRealm_banks ..
  have h4 : BanksKept s3 s4 := .ite (followDrive_banks s3) (.refl s3)
  have h5 : BanksKept s3 s5 := .ite (h4.trans (followCues_banks ..)) h4
  have h6 : BanksKept s3 (if bitOf mask 2 = true then followStreams outs ego ks s5 else s5) := .ite (h5.trans (followStreams_banks ..)) h5
  have h3 : regGet s3 K.CFG_GEN_gen = (regGet s K.CFG_GEN_gen + 1) % 2 ^ 32 := by
    rw [regGet_regMod_self, h2.gen, exchange_gen]
  exact ⟨h6.act.trans h2.act, h6.sh.trans h2.sh, h6.gen.trans h3⟩

theorem actGet_congr (h : t.active = s.active) (k : Nat) : actGet t k = actGet s k := by rw [actGet, h, actGet]
theorem shGet_congr (h : t.shadow = s.shadow) (k : Nat) : shGet t k = shGet s k := by rw [shGet, h, shGet]

theorem exchange_congr (hact : t.active = s.active) (hsh : t.shadow = s.shadow) (ks : List Nat) :
    (exchange ks t).active = (exchange ks s).active ∧ (exchange ks t).shadow = (exchange ks s).shadow := by
  induction ks generalizing s t with
  | nil => exact ⟨hact, hsh⟩
  | cons k ks ih =>
    refine ih (t := shSet k (actGet t k) (actSet k (shGet t k) t)) (s := shSet k (actGet s k) (actSet k (shGet s k) s)) ?_ ?_
    · change tset _ _ (shGet t k) t.active = tset _ _ (shGet s k) s.active
      rw [hact, shGet_congr hsh]
    · change tset _ _ (actGet t k) t.shadow = tset _ _ (actGet s k) s.shadow
      rw [hsh, actGet_congr hact]

/-- A swap as the hosts see it leaves the banks exchanged and CFG_GEN one higher, and no curtain pending (R250, R251). -/
theorem shownSwap_banks (ks : List Nat) (mask : Nat) (s : State) :
    (shownSwap ks mask s).active = (exchange ks s).active ∧ (shownSwap ks mask s).shadow = (exchange ks s).shadow ∧
      regGet (shownSwap ks mask s) K.CFG_GEN_gen = (regGet s K.CFG_GEN_gen + 1) % 2 ^ 32 ∧ (shownSwap ks mask s).curtain = none := by
  unfold shownSwap
  extract_lets s1
  have h1 : BanksKept s s1 :=
    .trans (t := { s with curtain := s.curtain.map fun c => { c with swapping := true } }) (.of_reg rfl rfl rfl) (writeStatuses_banks _)
  obtain ⟨hact, hsh, hgen⟩ := swapIn_banks ks mask s1
  obtain ⟨hact1, hsh1⟩ := exchange_congr h1.act h1.sh ks
  have h2 : BanksKept (swapIn ks mask s1) (writeStatuses { swapIn ks mask s1 with curtain := none }) :=
    .trans (t := { swapIn ks mask s1 with curtain := none }) (.of_reg rfl rfl rfl) (writeStatuses_banks _)
  refine ⟨(h2.act.trans hact).trans hact1, (h2.sh.trans hsh).trans hsh1, (h2.gen.trans hgen).trans (by rw [h1.gen]), ?_⟩
  refine foldl_keeps State.curtain _ (fun t p => ?_) _
  split
  · simp only [writeStatus, setReady, modPort, hostWrite]
  · rfl

/-- Settles O29: the four outcomes of `curtainSwap` at its point. -/
theorem curtainExchangesBanks : Obligations.CurtainExchangesBanks := by
  intro s c j hc hj hpoint hbusy ks d
  have hgo : ((c.atEdge && c.reached.isNone) || curtainBusy s c) = false := by
    rw [hbusy, Bool.or_false]
    cases he : c.atEdge with
    | false => rfl
    | true => simpa using hpoint he
  have hswap : curtainSwap s = if c.mask = 0 then okJob j d { s with curtain := none }
      else match firstBad c.mask ks (exchange ks s) with
        | some b => failJob j ⟨0x12, b⟩ { s with curtain := none }
        | none =>
          if setsDrive s c.mask && !driveReady s (endedFrame s c) then failJob j ⟨6, opCode s.op⟩ { s with curtain := none }
          else okJob j d (shownSwap ks c.mask s) := by
    simp only [curtainSwap, hc, hj, hgo, Bool.false_eq_true, if_false] <;> rfl
  refine ⟨fun hm => ?empty, fun hm hbad hdrive => ?valid, fun b hm hbad => ?invalid, fun hm hbad hsets hready => ?notReady⟩
  case empty =>
    refine congrArg Host.Outcome.next ?_
    rw [hswap, if_pos hm]
  case valid =>
    have hok : (setsDrive s c.mask && !driveReady s (endedFrame s c)) = false := by
      cases hs : setsDrive s c.mask with
      | false => rfl
      | true => simp [hdrive hs]
    have hexec : exec .curtainSwap s = .next (okJob j d (shownSwap ks c.mask s)) := by
      refine congrArg Host.Outcome.next ?_
      rw [hswap, if_neg hm, hbad]
      simp only [hok, Bool.false_eq_true, if_false]
    obtain ⟨hact, hsh, hgen, hcur⟩ := shownSwap_banks ks c.mask s
    have hdone : BanksKept (shownSwap ks c.mask s) (okJob j d (shownSwap ks c.mask s)) := completeJob_banks ..
    refine ⟨_, hexec, (okJob_ending ..).curtain.trans hcur, ?_, hdone.gen.trans hgen, fun k => ?_⟩
    · rw [← findJob_acc hj]
      exact findJob_completeJob ..
    · have hk := exchange_changed c.mask s k
      rw [actGet_congr (hdone.act.trans hact), shGet_congr (hdone.sh.trans hsh)]
      exact hk
  case invalid =>
    refine congrArg Host.Outcome.next ?_
    rw [hswap, if_neg hm, hbad]
  case notReady =>
    refine congrArg Host.Outcome.next ?_
    rw [hswap, if_neg hm, hbad]
    simp [hsets, hready]

end Sys2Proof.Machine
end

section
/-! PROOFS. FUSE and PLAN jobs that run live (R299, R308): the instant of a job that carries one before it starts. -/

namespace Sys2Proof.Machine

/-- A live FUSE job without records that has an instant of 1 ns before it starts. -/
def stampedFuse : Job :=
  ⟨0, 0, 0, 0, leBytes 2 4 ++ leBytes 2 0x0100 ++ zeros 124, .accepted, none, [], [], 0, [], false, none, none, none, some 1, [], []⟩

/-- The reset state with that job in flight, its time base at 0. -/
def stampedState : State := { State.reset with jobs := [stampedFuse] }

theorem stampedFuse_starts : Starts stampedState 0 stampedFuse := by
  unfold Starts
  decide +kernel

/-- The start of the job keeps the instant that it has. -/
theorem stampedFuse_keeps : (findJob (fuseJob 0 (.start []) stampedState) 0).map (·.instant) = some (some 1) := by decide +kernel

/-- Refutes O31: an accepted job that already has an instant keeps it at its start, where the statement asks for the time base (0 here): `takeInstant` gives an instant only to a job
without one, and the statement does not say that the job has none. -/
theorem not_fusePlanMapJobs : ¬ Obligations.FusePlanMapJobs := by
  rintro ⟨⟨hfuse, -, -⟩, -⟩
  obtain ⟨t, hexec, ⟨k, hk, -, hinstant⟩, -⟩ :=
    hfuse 0 stampedState stampedFuse stampedFuse_starts (by decide +kernel) (by decide +kernel) (by decide +kernel)
  have ht : fuseJob 0 (.start []) stampedState = t := by injection hexec
  have hkept := stampedFuse_keeps
  rw [ht, hk, Option.map_some, hinstant] at hkept
  exact absurd hkept (by decide +kernel)

end Sys2Proof.Machine
end

section
/-! PROOFS. Cue edges (R264 to R267) and the start of a frame (R142, R145, R147). -/

namespace Sys2Proof.Machine

variable {s t u : State}

/-! The parts of an edge -/

/-- A generator after its edge (R264, R265). -/
def edgeCue (g : Nat) (s : State) (c : Cue) : Cue :=
  ⟨((cueOf s g).edges + 1) % 2 ^ 64, nextEdge s g,
    if (actGet s (K.CUE_CTRL_pin g) == 1) = true then some (nextEdge s g + actGet s (K.CUE_WIDTH_ns g)) else c.pulse, some (stampNow s)⟩

/-- Services that each get one instant more, each once (R289). -/
theorem svcOf_foldl_due {l : List Nat} (hl : l.Nodup) (x : Nat × Nat) (s : State) (k : Nat) :
    svcOf (l.foldl (fun s k => modSvc k (fun v => { v with due := v.due ++ [x] }) s) s) k =
      { svcOf s k with due := (svcOf s k).due ++ if k ∈ l then [x] else [] } := by
  induction l generalizing s with
  | nil => simp
  | cons q l ih =>
    obtain ⟨hq, hl⟩ := List.nodup_cons.1 hl
    rw [List.foldl_cons, ih hl, svcOf_modSvc]
    by_cases h : k = q
    · subst h
      simp [hq]
    · simp [h]

theorem svcsOf_nodup (s : State) (g : Nat) : (svcsOf s g).Nodup := by
  have hfus (p : Nat → Bool) : ((List.range 4).filter p).Nodup := List.nodup_range.filter _
  have hple (p : Nat → Bool) : (((List.range 2).filter p).map (4 + ·)).Nodup := (List.nodup_range.filter _).map fun a b h => by simpa using h
  unfold svcsOf
  refine List.Nodup.append ?_ ?_ ?_
  · split
    · exact hfus _
    · exact List.nodup_nil
  · split
    · exact hple _
    · exact List.nodup_nil
  · intro x h1 h2
    split at h1
    · split at h2
      · simp only [List.mem_filter, List.mem_range, List.mem_map] at h1 h2
        obtain ⟨a, -, ha⟩ := h2
        omega
      · cases h2
    · cases h1

/-- A trigger changes only the masters. -/
theorem triggerSpis_frame (kind idx : Nat) (st : Stamp) (s : State) :
    triggerSpis kind idx st s = { s with ing := { s.ing with spis := (triggerSpis kind idx st s).ing.spis } } := by
  unfold triggerSpis
  generalize List.range 2 = l
  induction l generalizing s with
  | nil => rfl
  | cons m l ih =>
    rw [List.foldl_cons, ih]
    split <;> rfl

/-- Services that get an instant each leave everything else. -/
theorem foldl_due_frame (l : List Nat) (x : Nat × Nat) (s : State) :
    let t := l.foldl (fun s k => modSvc k (fun v => { v with due := v.due ++ [x] }) s) s
    t = { s with fus := { s.fus with svcs := t.fus.svcs } } := by
  induction l generalizing s with
  | nil => rfl
  | cons k l ih => exact (ih _).trans rfl

/-- What an edge does to its generator, the frame, the curtain and the services (R142, R251, R264, R265, R289). -/
theorem fireEdge_parts (g : Nat) (s : State) :
    let t := fireEdge g s
    let n := ((cueOf s g).edges + 1) % 2 ^ 64
    t.ing.cues = (modCue g (edgeCue g s) s).ing.cues ∧
    t.frame = (if (bitOf (actGet s (K.CUE_CTRL_targets g)) 0 && cueGoverns s && running s) = true then
      { s.frame with due := true, dueEdge := some (g, n) } else s.frame) ∧
    t.curtain = s.curtain.map (fun c => if c.atEdge && c.gen = g && c.reached.isNone &&
      (if c.edge = 0 then !curtainBusy s c else decide (c.edge ≤ n)) then { c with reached := some n } else c) ∧
    (∀ k, svcOf t k = { svcOf s k with due := (svcOf s k).due ++ if running s = true ∧ k ∈ svcsOf s g then [(nextEdge s g, n)] else [] }) ∧
    t = { s with ing := { s.ing with cues := t.ing.cues, spis := t.ing.spis }, frame := t.frame, curtain := t.curtain,
                 fus := { s.fus with svcs := t.fus.svcs } } := by
  intro t n
  have ht : t = fireEdge g s := rfl
  unfold fireEdge at ht
  extract_lets e st pin u1 _ u2 u3 u4 at ht
  have h1 : u1 = modCue g (edgeCue g s) s := rfl
  have h2 : u2 = { modCue g (edgeCue g s) s with
      frame := if (bitOf (actGet s (K.CUE_CTRL_targets g)) 0 && cueGoverns s && running s) = true then
        { s.frame with due := true, dueEdge := some (g, n) } else s.frame } := by
    have hcond : (bitOf (actGet u1 (K.CUE_CTRL_targets g)) 0 && cueGoverns u1 && running u1) =
        (bitOf (actGet s (K.CUE_CTRL_targets g)) 0 && cueGoverns s && running s) := rfl
    unfold u2
    rw [hcond]
    split <;> rfl
  clear_value u1 u2
  subst h1 h2
  have h4 : u4 = { u3 with fus := { s.fus with svcs := u4.fus.svcs } } := by
    unfold u4
    split
    · exact foldl_due_frame ..
    · rfl
  have hsvc : ∀ k, svcOf u4 k = { svcOf s k with due := (svcOf s k).due ++ if running s = true ∧ k ∈ svcsOf s g then [(e, n)] else [] } := by
    intro k
    have hrun : running u3 = running s := rfl
    have hsvcs : svcsOf u3 g = svcsOf s g := rfl
    unfold u4
    rw [hrun, hsvcs]
    by_cases hr : running s = true
    · rw [if_pos hr, svcOf_foldl_due (svcsOf_nodup s g)]
      simp only [hr, true_and]
      rfl
    · simp only [hr, Bool.false_eq_true, if_false, false_and, List.append_nil]
      rfl
  obtain ⟨spis, hspi⟩ : ∃ spis, t = { u4 with ing := { u4.ing with spis := spis } } := ⟨_, ht.trans (triggerSpis_frame 0 g st u4)⟩
  clear ht
  clear_value u4 t
  obtain ⟨svcs, rfl⟩ : ∃ svcs, u4 = { u3 with fus := { s.fus with svcs := svcs } } := ⟨_, h4⟩
  subst hspi
  exact ⟨rfl, rfl, rfl, hsvc, rfl⟩

/-- Settles O33: the parts of `fireEdge`, each of which touches its own target, and the end of a pulse. -/
theorem cueEdges : Obligations.CueEdges := by
  refine ⟨fun g s hu hon hdue hmin => ?edge, fun g s x hx hle => ?pulse⟩
  case pulse =>
    have hexec : exec (.cuePulseEnd g) s = .next (modCue g (fun c => { c with pulse := none }) s) := by
      refine congrArg Host.Outcome.next ?_
      simp only [hx, hle, if_true]
    refine ⟨_, hexec, cueOf_modCue_self .., ?_, fun h hh => cueOf_modCue_ne _ _ hh, rfl⟩
    rw [cueLevel, cueOf_modCue_self]
    exact Bool.false_bne _
  case edge =>
    have hfirst : ((List.range 16).all fun h => !edgeDue s h || decide (nextEdge s g ≤ nextEdge s h)) = true := by
      refine List.all_eq_true.2 fun h hh => ?_
      cases hd : edgeDue s h with
      | false => rfl
      | true =>
        have hmin := hmin ⟨h, List.mem_range.1 hh⟩ (Bool.and_eq_true_iff.1 hd).1
        simpa using hmin
    have hexec : exec (.cueEdge g) s = .next (fireEdge g s) := by
      refine congrArg Host.Outcome.next (if_pos ?_)
      rw [hu, edgeDue, hon, decide_eq_true hdue, hfirst]
      rfl
    obtain ⟨hcues, hframe, hcurtain, hsvc, hrest⟩ := fireEdge_parts g s
    have hcue : ∀ h, cueOf (fireEdge g s) h = cueOf (modCue g (edgeCue g s) s) h := fun h => by rw [cueOf, hcues, cueOf]
    refine ⟨_, hexec, ?_, fun h hh => ?_, ?_, fun c hc he hg hr hz hn => ?_, hsvc, hrest⟩
    · rw [hcue, cueOf_modCue_self, edgeCue]
      simp only [beq_iff_eq]
    · rw [hcue, cueOf_modCue_ne _ _ hh]
    · rw [hframe]
      simp only [Bool.and_eq_true, and_assoc]
    · rw [hcurtain, hc, Option.map_some, if_pos]
      simp only [he, hg, hr, hz, if_false, decide_true, Bool.true_and, Option.isNone_none]
      exact decide_eq_true hn

end Sys2Proof.Machine
end

section
/-! PROOFS. The start of a frame (R142, R145, R147, R310, R332). -/

namespace Sys2Proof.Machine

variable {s t u : State}

theorem regGet_congr (h : t.reg = u.reg) (k : Nat) : regGet t k = regGet u k := congrArg (tget (resetOf k) k) h

/-! A die at the start of a frame -/

/-- The registers that the start of a frame writes for a die. -/
abbrev frameKeys (d : Nat) : List Nat := K.REH_MISSED_count d :: (List.range 6).map (K.REH_DONE_arrays d)

/-- What the start of a frame leaves of a die, after a state (R142, R145, R147). -/
def Begun (bad first : Bool) (d : Nat) (s t : State) : Prop :=
  (∀ w : Fin 6, regGet t (K.REH_DONE_arrays d w) = 0) ∧
  regGet t (K.REH_MISSED_count d) = (if first = true then regGet s (K.REH_MISSED_count d) else
    min 65535 (regGet s (K.REH_MISSED_count d) + ((liveArrays s d).filter fun i => !bitOf (nth (passWords s d) (i / 32) 0) (i % 32)).length)) ∧
  ∃ l, engineOf t d = { engineOf s d with
    prevPass := passWords s d, due := ((liveArrays s d).filter fun i => !((engineOf s d).rehearsing.any fun q => q.1 == i)).map (fun i => (i, 0)),
    detections := l, doubles := [], tableBad := (engineOf s d).tableBad || bad }

/-- A state that differs from another only in the frame's registers and the engines of some dies. -/
structure DiesBegun (l : List Nat) (s t : State) : Prop where
  frame : t = { s with reg := t.reg, engines := t.engines }
  regs : RegsKept (l.flatMap frameKeys) s t
  others : ∀ d, d ∉ l → engineOf t d = engineOf s d

theorem clearDone_regs (d : Nat) (l : List Nat) (s : State) :
    let t := l.foldl (fun s w => regSet (K.REH_DONE_arrays d w) 0 s) s
    t = { s with reg := t.reg } ∧ RegsKept (l.map (K.REH_DONE_arrays d)) s t ∧ ∀ w ∈ l, regGet t (K.REH_DONE_arrays d w) = 0 := by
  induction l generalizing s with
  | nil => exact ⟨rfl, kept_refl _ s, by simp⟩
  | cons w l ih =>
    obtain ⟨hf, hk, hz⟩ := ih (regSet (K.REH_DONE_arrays d w) 0 s)
    refine ⟨hf, fun k hk' => ?_, fun v hv => ?_⟩
    · rw [List.map_cons, List.mem_cons, not_or] at hk'
      exact (hk k hk'.2).trans (regGet_regSet_ne _ _ hk'.1)
    · by_cases hvl : v ∈ l
      · exact hz v hvl
      · obtain rfl : v = w := (List.mem_cons.1 hv).resolve_right hvl
        refine (hk _ fun hm => ?_).trans (regGet_regSet_self ..)
        obtain ⟨x, hx, he⟩ := List.mem_map.1 hm
        exact hvl (by rwa [show v = x by grind])

/-- The arrays that run on a die, where its registers and the state of the module are the same. -/
theorem liveArrays_congr {d : Nat} (hs : ∀ w, w < 6 → regGet t (K.SERVICE_arrays d w) = regGet s (K.SERVICE_arrays d w))
    (hd : regGet t K.ID_DIES_in_service = regGet s K.ID_DIES_in_service) (ho : t.op = s.op) (hl : t.dpx.limpPair = s.dpx.limpPair) :
    liveArrays t d = liveArrays s d := by
  refine List.filter_congr fun i hi => ?_
  rw [List.mem_range] at hi
  rw [arrayIn, arrayIn, hs _ (by omega)]
  simp only [arrayOn, dieIn, hd, ho, hl]

theorem passWords_congr {d : Nat} (h : ∀ w, w < 6 → regGet t (K.REH_DONE_arrays d w) = regGet s (K.REH_DONE_arrays d w)) :
    passWords t d = passWords s d :=
  List.map_congr_left fun w hw => h w (List.mem_range.1 hw)

theorem service_notMem (l : List Nat) (d : Nat) {w : Nat} (hw : w < 6) : K.SERVICE_arrays d w ∉ l.flatMap frameKeys := by
  simp only [List.mem_flatMap, List.mem_cons, List.mem_map, List.mem_range]
  rintro ⟨q, -, h | ⟨v, hv, h⟩⟩ <;> grind

theorem diesIn_notMem (l : List Nat) : K.ID_DIES_in_service ∉ l.flatMap frameKeys := by
  simp only [List.mem_flatMap, List.mem_cons, List.mem_map, List.mem_range]
  rintro ⟨q, -, h | ⟨v, hv, h⟩⟩ <;> grind

theorem startDie_begun (bad first : Bool) (d : Nat) (s : State) :
    Begun bad first d s (startDie bad first d s) ∧ DiesBegun [d] s (startDie bad first d s) := by
  generalize ht : startDie bad first d s = t
  unfold startDie at ht
  extract_lets words missed u1 u2 live at ht
  have h1 : u1 = { s with reg := u1.reg } := by
    unfold u1
    split <;> rfl
  have hm : regGet u1 (K.REH_MISSED_count d) = if first = true then regGet s (K.REH_MISSED_count d) else min 65535 (regGet s (K.REH_MISSED_count d) + missed) := by
    unfold u1
    split
    · rfl
    · exact regGet_regMod_self ..
  have hk1 : RegsKept [K.REH_MISSED_count d] s u1 := by
    unfold u1
    split
    · exact kept_refl _ s
    · exact kept_mod (by simp) (kept_refl _ s)
  obtain ⟨h2, hk2, hz⟩ : u2 = { u1 with reg := u2.reg } ∧ RegsKept ((List.range 6).map (K.REH_DONE_arrays d)) u1 u2 ∧
    ∀ w ∈ List.range 6, regGet u2 (K.REH_DONE_arrays d w) = 0 := clearDone_regs d (List.range 6) u1
  have hr : u2 = { s with reg := u2.reg } := by
    rw [h2, h1]
  have hk : RegsKept (frameKeys d) s u2 := fun k hk => by
    obtain ⟨ha, hb⟩ := not_or.1 (List.mem_cons.not.1 hk)
    exact (hk2 k hb).trans (hk1 k (List.mem_singleton.not.2 ha))
  have hk' : RegsKept ([d].flatMap frameKeys) s u2 := by simpa using hk
  have hlive : live = liveArrays s d := by
    refine liveArrays_congr (fun w hw => hk' _ (service_notMem _ _ hw)) (hk' _ (diesIn_notMem _)) ?_ ?_ <;> rw [hr]
  have hmiss : regGet u2 (K.REH_MISSED_count d) = regGet u1 (K.REH_MISSED_count d) := hk2 _ (by simp; grind)
  have heng : ∀ q, engineOf u2 q = engineOf s q := fun q => by rw [hr]; rfl
  clear_value u2 live u1
  subst hlive ht
  rw [hm] at hmiss
  refine ⟨⟨?done, ?missed, (engineOf s d).detections.filter fun x => decide (regGet u2 K.DPX_FRAME_frame < x.2 + 1000), ?engine⟩, ⟨?frame, ?kept, ?others⟩⟩
  case missed => rw [regGet_modEngine, hmiss]
  case kept => exact kept_reg (t := u2) rfl hk'
  case done => exact fun w => (regGet_modEngine ..).trans (hz w (by simp))
  case engine => rw [engineOf_modEngine_self, heng]
  case frame =>
    rw [hr]
    rfl
  case others =>
    intro q hq
    rw [engineOf_modEngine_ne _ _ (by simpa using hq), heng]

theorem DiesBegun.trans {l m : List Nat} (h : DiesBegun l s t) (g : DiesBegun m t u) : DiesBegun (l ++ m) s u where
  frame := by
    rw [g.frame, h.frame]
  regs := fun k hk => by
    rw [List.flatMap_append, List.mem_append, not_or] at hk
    exact (g.regs k hk.2).trans (h.regs k hk.1)
  others := fun d hd => by
    rw [List.mem_append, not_or] at hd
    exact (g.others d hd.2).trans (h.others d hd.1)

theorem frameKeys_other {l : List Nat} {d k : Nat} (hd : d ∉ l) (hk : k ∈ frameKeys d) : k ∉ l.flatMap frameKeys := by
  simp only [List.mem_flatMap, not_exists, not_and]
  intro q hq hm
  have hne : q ≠ d := fun h => hd (h ▸ hq)
  simp only [List.mem_cons, List.mem_map, List.mem_range] at hk hm
  obtain rfl | ⟨w, hw, rfl⟩ := hk <;> obtain h | ⟨v, hv, h⟩ := hm <;> grind

/-- A die whose registers and engine stand as in a state. -/
theorem DiesBegun.begun_left {l : List Nat} {bad first : Bool} {d : Nat} (h : DiesBegun l s t) (hd : d ∉ l) (hb : Begun bad first d t u) :
    Begun bad first d s u := by
  have hk : ∀ k ∈ frameKeys d, regGet t k = regGet s k := fun k hk => h.regs k (frameKeys_other hd hk)
  have hlive : liveArrays t d = liveArrays s d := by
    refine liveArrays_congr (fun w hw => h.regs _ (service_notMem _ _ hw)) (h.regs _ (diesIn_notMem _)) ?_ ?_ <;> rw [h.frame]
  have hpass : passWords t d = passWords s d := passWords_congr fun w hw => hk _ (by simp; omega)
  rwa [Begun, hk _ (List.mem_cons_self ..), hlive, hpass, h.others d hd] at hb

theorem DiesBegun.begun_right {l : List Nat} {bad first : Bool} {d : Nat} (h : DiesBegun l t u) (hd : d ∉ l) (hb : Begun bad first d s t) :
    Begun bad first d s u := by
  have hk : ∀ k ∈ frameKeys d, regGet u k = regGet t k := fun k hk => h.regs k (frameKeys_other hd hk)
  obtain ⟨hdone, hmissed, hengine⟩ := hb
  rw [Begun, hk _ (List.mem_cons_self ..), h.others d hd]
  exact ⟨fun w => (hk _ (by simp)).trans (hdone w), hmissed, hengine⟩

/-- Each die of a list has begun its frame from a state, and no other die has. -/
theorem startDies_begun (bad : Nat → Bool) (first : Bool) {l : List Nat} (hl : l.Nodup) (s : State) :
    let t := l.foldl (fun s d => startDie (bad d) first d s) s
    DiesBegun l s t ∧ ∀ d ∈ l, Begun (bad d) first d s t := by
  induction l generalizing s with
  | nil => exact ⟨⟨rfl, kept_refl _ s, fun _ _ => rfl⟩, by simp⟩
  | cons d l ih =>
    obtain ⟨hd, hl⟩ := List.nodup_cons.1 hl
    obtain ⟨hbegun, hdie⟩ := startDie_begun (bad d) first d s
    obtain ⟨hrest, hall⟩ := ih hl (startDie (bad d) first d s)
    refine ⟨hdie.trans hrest, fun q hq => ?_⟩
    by_cases hqd : q = d
    · subst hqd
      exact hrest.begun_right hd hbegun
    · exact hdie.begun_left (by simpa using hqd) (hall q ((List.mem_cons.1 hq).resolve_left hqd))

/-! Rejoining elements and tests that begin -/

/-- A state in which elements rejoin or leave for their test, after another (R332): of the duplex mode the LIMP pair is the same. -/
structure Rejoins (s t : State) : Prop where
  frame : t = { s with hosts := t.hosts, mem := { s.mem with host := t.mem.host }, dpx := t.dpx }
  limp : t.dpx.limpPair = s.dpx.limpPair

theorem Rejoins.trans (h : Rejoins s t) (g : Rejoins t u) : Rejoins s u where
  frame := by
    obtain ⟨hosts, host, dpx, rfl⟩ : ∃ hosts host dpx, t = { s with hosts := hosts, mem := { s.mem with host := host }, dpx := dpx } := ⟨_, _, _, h.frame⟩
    exact g.frame
  limp := g.limp.trans h.limp

theorem Rejoins.foldl {α : Type} {f : State → α → State} (hf : ∀ s x, Rejoins s (f s x)) (l : List α) (s : State) : Rejoins s (l.foldl f s) := by
  induction l generalizing s with
  | nil => exact ⟨rfl, rfl⟩
  | cons x l ih => exact (hf s x).trans (ih _)

/-- An event of class I leaves the class of the last fault record (R245). -/
theorem raise_lastClass_zero (d : EvDest) {e : Ev} (h : e.cls = 0) (s : State) : (raise d e s).lastClass = s.lastClass := by
  refine (foldl_keeps State.lastClass _ (fun t p => sendEvent_lastClass p e t) _).trans ?_
  rw [if_neg (by omega)]

theorem raise_inform (d : EvDest) {e : Ev} (h : e.cls = 0) (s : State) :
    ∃ hosts host, raise d e s = { s with hosts := hosts, mem := { s.mem with host := host } } := by
  obtain ⟨hosts, host, cls, ht⟩ := raise_told d e s
  have hc : (raise d e s).lastClass = s.lastClass := raise_lastClass_zero d h s
  obtain rfl : cls = s.lastClass := by rw [← hc, ht]
  exact ⟨hosts, host, ht⟩

/-- The duplex mode after an element rejoins. -/
def afterRejoin (el : Nat) (s : State) : Duplex := { s.dpx with
  rejoin := s.dpx.rejoin.filter (· != el),
  testing := s.dpx.testing.filter (· != el) ++ s.dpx.testNext.filter (fun e => pairOf s e == pairOf s el),
  testNext := s.dpx.testNext.filter fun e => pairOf s e != pairOf s el,
  transients := s.dpx.transients.filter fun t => t.1 != pairOf s el }

theorem rejoinElement_parts (el : Nat) (s : State) :
    ∃ hosts host, rejoinElement el s = { s with hosts := hosts, mem := { s.mem with host := host }, dpx := afterRejoin el s } :=
  raise_inform _ rfl _

theorem rejoinElement_rejoins (s : State) (el : Nat) : Rejoins s (rejoinElement el s) := by
  obtain ⟨hosts, host, h⟩ := rejoinElement_parts el s
  rw [h]
  exact ⟨rfl, rfl⟩

/-- Elements that rejoin one after the other. -/
theorem rejoin_foldl (l : List Nat) (s : State) :
    (l.foldl (fun s e => rejoinElement e s) s).dpx.rejoin = s.dpx.rejoin.filter (fun e => !l.contains e) := by
  induction l generalizing s with
  | nil => simp
  | cons el l ih =>
    have h : (rejoinElement el s).dpx.rejoin = s.dpx.rejoin.filter (· != el) := by
      obtain ⟨hosts, host, h⟩ := rejoinElement_parts el s
      rw [h, afterRejoin]
    rw [List.foldl_cons, ih, h, List.filter_filter]
    refine List.filter_congr fun e _ => ?_
    by_cases he : e = el <;> simp [he]

theorem beginTest_rejoins (s : State) (p : Nat) : Rejoins s (beginTest p s) := by
  unfold beginTest
  extract_lets
  split <;> exact ⟨rfl, rfl⟩

theorem beginTest_lists (s : State) (p : Nat) :
    (beginTest p s).dpx.rejoin = s.dpx.rejoin ∧ (beginTest p s).dpx.splitNext = s.dpx.splitNext := by
  unfold beginTest
  extract_lets
  split <;> exact ⟨rfl, rfl⟩

/-! The frame -/

/-- The state in which the dies begin the frame: the number is raised, elements have rejoined, split pairs have left. -/
def atFrame (s : State) : State :=
  let u := s.dpx.rejoin.foldl (fun s e => rejoinElement e s) (regMod K.DPX_FRAME_frame (fun v => (v + 1) % 2 ^ 32) s)
  u.dpx.splitNext.foldl (fun s p => beginTest p s) { u with dpx := { u.dpx with splitNext := [] } }

theorem atFrame_rejoins (s : State) : Rejoins (regMod K.DPX_FRAME_frame (fun v => (v + 1) % 2 ^ 32) s) (atFrame s) := by
  unfold atFrame
  extract_lets u
  have h1 : Rejoins (regMod K.DPX_FRAME_frame (fun v => (v + 1) % 2 ^ 32) s) u := Rejoins.foldl rejoinElement_rejoins ..
  have h2 : Rejoins u { u with dpx := { u.dpx with splitNext := [] } } := ⟨rfl, rfl⟩
  exact h1.trans (h2.trans (Rejoins.foldl beginTest_rejoins ..))

theorem atFrame_lists (s : State) : (atFrame s).dpx.rejoin = [] ∧ (atFrame s).dpx.splitNext = [] := by
  unfold atFrame
  extract_lets u
  have hu : u.dpx.rejoin = [] := by
    unfold u
    rw [rejoin_foldl]
    exact List.filter_eq_nil_iff.2 fun e he => by simpa using he
  constructor
  · rw [foldl_keeps (·.dpx.rejoin) _ (fun t p => (beginTest_lists t p).1)]
    exact hu
  · rw [foldl_keeps (·.dpx.splitNext) _ (fun t p => (beginTest_lists t p).2)]

theorem frameNumber_notMem {l : List Nat} : K.DPX_FRAME_frame ∉ l.flatMap frameKeys := by
  simp only [List.mem_flatMap, List.mem_cons, List.mem_map, List.mem_range]
  rintro ⟨q, -, h | ⟨v, hv, h⟩⟩ <;> grind

/-- The state after the dies have begun the frame. -/
abbrev diesBegun (bad : List (Fin 4)) (s : State) : State :=
  (List.range 4).foldl (fun v d => startDie (bad.any fun b => b.val == d) (regGet s K.DPX_FRAME_frame == 0) d v) (atFrame s)

/-- The frame's own record after its start, with what it takes from the frame before. -/
def closeFrame (v : State) : State :=
  { v with
    frame := { v.frame with due := false, dueEdge := none, start := v.tbUnits, edge := v.frame.dueEdge, golden := [], goldenPrev := v.frame.golden,
                            ahead := (engineBusy v).map fun e => (e, 3) },
    dpx := { v.dpx with transients := v.dpx.transients.filter fun x => decide (regGet v K.DPX_FRAME_frame < x.2 + 1000) },
    realms := v.realms.map fun r => (r.1, { r.2 with used := [], usedPrev := r.2.used }) }

theorem startFrame_due (bad : List (Fin 4)) (hr : running s = true) (hd : frameIsDue s = true) : startFrame bad s = closeFrame (diesBegun bad s) := by
  rw [startFrame, if_neg (by simp [hr, hd])]
  rfl

theorem atFrame_frame (s : State) : atFrame s = { s with
    reg := (regMod K.DPX_FRAME_frame (fun v => (v + 1) % 2 ^ 32) s).reg, hosts := (atFrame s).hosts,
    mem := { s.mem with host := (atFrame s).mem.host }, dpx := (atFrame s).dpx } := (atFrame_rejoins s).frame

theorem atFrame_reg (s : State) : (atFrame s).reg = (regMod K.DPX_FRAME_frame (fun v => (v + 1) % 2 ^ 32) s).reg := by
  rw [atFrame_frame]

/-- A register but the frame's number reads, when the dies begin the frame, as before. -/
theorem atFrame_regs {k : Nat} (h : k ≠ K.DPX_FRAME_frame) : regGet (atFrame s) k = regGet s k := by
  rw [regGet_congr (atFrame_reg s)]
  exact regGet_regMod_ne _ _ h

theorem begun_atFrame {bad first : Bool} {d : Nat} (h : Begun bad first d (atFrame s) t) : Begun bad first d s t := by
  have hlive : liveArrays (atFrame s) d = liveArrays s d := by
    refine liveArrays_congr (fun w hw => atFrame_regs (by grind)) (atFrame_regs (by grind)) ?_ (atFrame_rejoins s).limp
    rw [atFrame_frame]
  have hpass : passWords (atFrame s) d = passWords s d := passWords_congr fun w hw => atFrame_regs (by grind)
  have hengine : engineOf (atFrame s) d = engineOf s d := by
    rw [atFrame_frame]
    rfl
  rwa [Begun, atFrame_regs (by grind), hlive, hpass, hengine] at h

/-- Settles O34: elements rejoin and pairs leave first, which touches no register and no engine; then each die begins its frame. -/
theorem frameStarts : Obligations.FrameStarts := by
  refine ⟨fun bad s hr hd => ⟨_, congrArg Host.Outcome.next (startFrame_due bad hr hd), ?_⟩, fun bad s h => ?_⟩
  · obtain ⟨hdies, hbegun⟩ := startDies_begun (fun d => bad.any fun b => b.val == d) (regGet s K.DPX_FRAME_frame == 0) (List.nodup_range (n := 4)) (atFrame s)
    change DiesBegun _ _ (diesBegun bad s) at hdies
    change ∀ d ∈ List.range 4, Begun _ _ d (atFrame s) (diesBegun bad s) at hbegun
    have hf := hdies.frame
    generalize diesBegun bad s = v at hdies hbegun hf
    have hframe : RegsKept (K.DPX_FRAME_frame :: (List.range 4).flatMap frameKeys) s v := fun k hk => by
      obtain ⟨h1, h2⟩ := not_or.1 (List.mem_cons.not.1 hk)
      exact (hdies.regs k h2).trans (atFrame_regs h1)
    obtain ⟨hrej, hsplit⟩ := atFrame_lists s
    have hnum : regGet v K.DPX_FRAME_frame = (regGet s K.DPX_FRAME_frame + 1) % 2 ^ 32 := by
      rw [hdies.regs _ frameNumber_notMem, regGet_congr (atFrame_reg s)]
      exact regGet_regMod_self ..
    have hv : v = { s with reg := v.reg, hosts := v.hosts, mem := { s.mem with host := v.mem.host }, engines := v.engines, dpx := (atFrame s).dpx } := by
      rw [hf, atFrame_frame]
    refine ⟨hnum, ?frame, ?rejoin, ?split, fun d => ?die, ?rest, hframe⟩
    case frame => rw [hv]; rfl
    case rejoin => rw [hv]; exact hrej
    case split => rw [hv]; exact hsplit
    case rest =>
      rw [closeFrame, hv]
    case die =>
      obtain ⟨hdone, hmissed, l, hengine⟩ := begun_atFrame (hbegun d (by simp))
      rw [show engineOf (closeFrame v) d = engineOf v d from rfl, hengine]
      refine ⟨hdone, rfl, rfl, rfl, ?_, rfl, hmissed.trans ?_⟩
      · have hb : (fun b : Fin 4 => b.val == d.val) = fun b => d == b := funext fun b => by
          rw [Bool.eq_iff_iff, beq_iff_eq, beq_iff_eq, Fin.ext_iff, eq_comm]
        simp only [List.contains_eq_any_beq, hb]
      · simp only [beq_iff_eq]
  · refine congrArg Host.Outcome.next (if_pos ?_)
    rcases h with h | h <;> simp [h]

end Sys2Proof.Machine
end

section
/-! PROOFS. Packets at the ingress ports and their FIFOs (R262, R268, R270, R271, R274, R275, R278). -/

namespace Sys2Proof.Machine

variable {s t u : State} {p : Nat}

/-! Items and losses -/

/-- The registers that a FIFO's items change: the port's counts of lost packets and its hold. -/
abbrev fifoKeys (p : Nat) : List Nat :=
  [K.ING_LOST_PKTS_count p, K.ING_LOST_BYTES_count p, K.ING_HOLD_asserted p, K.ING_HOLD_COUNT_count p]

/-- A state that differs from another in a port's FIFO, its counts and its hold only. -/
structure FifoMoves (p : Nat) (s t : State) : Prop where
  frame : t = { s with reg := t.reg, ing := { s.ing with ports := t.ing.ports, macs := t.ing.macs } }
  others : ∀ q, q ≠ p → ingOf t q = ingOf s q
  regs : RegsKept (fifoKeys p) s t

theorem FifoMoves.refl (p : Nat) (s : State) : FifoMoves p s s := ⟨rfl, fun _ _ => rfl, kept_refl _ s⟩

theorem FifoMoves.trans (h : FifoMoves p s t) (g : FifoMoves p t u) : FifoMoves p s u where
  frame := by
    obtain ⟨reg, ports, macs, rfl⟩ : ∃ reg ports macs, t = { s with reg := reg, ing := { s.ing with ports := ports, macs := macs } } := ⟨_, _, _, h.frame⟩
    exact g.frame
  others := fun q hq => (g.others q hq).trans (h.others q hq)
  regs := fun k hk => (g.regs k hk).trans (h.regs k hk)

theorem modIng_moves (p : Nat) (f : IngPort → IngPort) (s : State) : FifoMoves p s (modIng p f s) :=
  ⟨rfl, fun _ hq => ingOf_modIng_ne _ _ hq, kept_reg (t := s) rfl (kept_refl _ s)⟩

theorem refreshHold_moves (p : Nat) (s : State) : FifoMoves p s (refreshHold p s) :=
  ⟨refreshHold_frame p s, fun _ hq => ingOf_refreshHold_ne hq, refreshHold_kept (by simp) (by simp) (kept_refl _ s)⟩

theorem losePacket_moves (p k : Nat) (st : Stamp) (n : Nat) (s : State) : FifoMoves p s (losePacket p k st n s) := by
  refine FifoMoves.trans ?_ (modIng_moves p _ _)
  exact ⟨rfl, fun _ _ => rfl, kept_inc (by simp) (kept_mod (by simp) (kept_refl _ s))⟩

theorem putItem_moves (p : Nat) (x : FifoItem) (s : State) : FifoMoves p s (putItem p x s) :=
  (modIng_moves p _ s).trans (refreshHold_moves p _)

theorem putItem_items (p : Nat) (x : FifoItem) (s : State) : (ingOf (putItem p x s) p).items = (ingOf s p).items ++ [x] := by
  rw [putItem, ingOf_refreshHold_self, ingOf_modIng_self]

theorem enterPacket_moves (p : Nat) (x : Packet) (s : State) : FifoMoves p s (enterPacket p x s) := by
  unfold enterPacket
  split
  · exact putItem_moves p _ s
  · exact (losePacket_moves p _ _ _ s).trans (refreshHold_moves p _)

theorem FifoMoves.regIng (h : FifoMoves p u t) (hu : u = { s with reg := u.reg, ing := u.ing }) : t = { s with reg := t.reg, ing := t.ing } := by
  obtain ⟨reg, ing, rfl⟩ : ∃ reg ing, u = { s with reg := reg, ing := ing } := ⟨_, _, hu⟩
  obtain ⟨reg, ing, rfl⟩ : ∃ reg ing, t = { s with reg := reg, ing := ing } := ⟨_, _, h.frame⟩
  rfl

theorem FifoMoves.strOf_eq (h : FifoMoves p s t) (k : Nat) : strOf t k = strOf s k := by
  have hs : t.ing.streams = s.ing.streams := by rw [h.frame]
  rw [strOf, hs, strOf]

theorem FifoMoves.active (h : FifoMoves p s t) : t.active = s.active := by rw [h.frame]

theorem FifoMoves.spiOf_eq (h : FifoMoves p s t) (m : Nat) : spiOf t m = spiOf s m := by
  have hs : t.ing.spis = s.ing.spis := by rw [h.frame]
  rw [spiOf, hs, spiOf]

theorem FifoMoves.capOf_eq (h : FifoMoves p s t) (c : Nat) : capOf t c = capOf s c := by
  have hs : t.ing.caps = s.ing.caps := by rw [h.frame]
  rw [capOf, hs, capOf]

/-- What a lost packet leaves of the FIFO and the counts (R278). -/
theorem losePacket_counts (p k : Nat) (st : Stamp) (n : Nat) (s : State) :
    regGet (losePacket p k st n s) (K.ING_LOST_PKTS_count p) = satInc max32 (regGet s (K.ING_LOST_PKTS_count p)) ∧
    regGet (losePacket p k st n s) (K.ING_LOST_BYTES_count p) = min max32 (regGet s (K.ING_LOST_BYTES_count p) + n) ∧
    ∃ l g, (ingOf (losePacket p k st n s) p).items = l ++ [.gap g] ∧ g.last = st ∧
      ((∃ h, (ingOf s p).items = l ++ [.gap h] ∧ g.first = h.first ∧ g.count = satInc max32 h.count) ∨
       (l = (ingOf s p).items ∧ g.stream = k ∧ g.first = st ∧ g.count = 1)) := by
  refine ⟨?pkts, ?bytes, ?gap⟩
  case pkts =>
    rw [losePacket, regGet_modIng, regGet_regInc_self, regGet_regMod_ne _ _ (by grind)]
  case bytes =>
    rw [losePacket, regGet_modIng, regGet_regInc_ne _ (by grind), regGet_regMod_self]
  case gap =>
    rw [losePacket, ingOf_modIng_self, ingOf_regInc, ingOf_regMod]
    dsimp only
    split
    · rename_i g hg
      obtain ⟨l, hl⟩ := List.getLast?_eq_some_iff.1 hg
      refine ⟨l, { g with last := st, count := satInc max32 g.count, bytes := min max32 (g.bytes + n) }, ?_, rfl, .inl ⟨g, hl, rfl, rfl⟩⟩
      rw [hl, List.dropLast_concat]
    · exact ⟨_, _, rfl, rfl, .inr ⟨rfl, rfl, rfl, rfl⟩⟩

/-- A packet that comes to a FIFO enters it or is lost (R271, R278). -/
theorem enterPacket_enters (p : Nat) (x : Packet) (s : State) : Enters p x s (enterPacket p x s) := by
  have hm := enterPacket_moves p x s
  refine ⟨fun h => ?_, fun h => ?_, hm.others, ?_, hm.regs⟩
  · rw [enterPacket, if_pos h, putItem_items]
  · obtain ⟨h1, h2, h3⟩ := losePacket_counts p x.stream x.stamp x.payload.length s
    have hk := refreshHold_kept (p := p) (ks := [K.ING_HOLD_asserted p, K.ING_HOLD_COUNT_count p]) (by simp) (by simp)
      (kept_refl _ (losePacket p x.stream x.stamp x.payload.length s))
    rw [enterPacket, if_neg (by rw [h]; exact Bool.false_ne_true), hk _ (by grind), hk _ (by grind), ingOf_refreshHold_self]
    exact ⟨h1, h2, h3⟩
  · rw [hm.frame]

/-- Where a packet enters after a state that has the same FIFO. -/
theorem Enters.of_eq {x : Packet} (h : Enters p x u t) (hing : ∀ q, ingOf u q = ingOf s q) (hreg : u.reg = s.reg)
    (hf : u = { s with reg := u.reg, ing := u.ing }) : Enters p x s t := by
  have hr : ∀ k, regGet u k = regGet s k := regGet_congr hreg
  obtain ⟨h1, h2, h3, h4, h5⟩ := h
  have hfits : fits u p (.packet x) = fits s p (.packet x) := by
    rw [fits, fifoFill, hing, fits, fifoFill]
  simp only [hing, hfits, hr] at h1 h2 h3
  refine ⟨h1, h2, h3, ?_, fun k hk => (h5 k hk).trans (hr k)⟩
  obtain ⟨reg, ing, rfl⟩ : ∃ reg ing, u = { s with reg := reg, ing := ing } := ⟨_, _, hf⟩
  exact h4

theorem discard_discards (p : Nat) (s : State) : Discards p s (discard p s) :=
  ⟨regGet_regInc_self .., rfl, kept_inc (by simp) (kept_refl _ s)⟩

/-! Camera ports -/

/-- The line number of a camera packet (R270, R274). -/
abbrev csiLine (s : State) (k : Nat) (x : CsiPkt) : Nat := match x.line with
  | some l => l.toNat
  | none => if x.frameStart then 0 else (strOf s k).line

/-- A camera packet as it enters its FIFO (R271, R274). -/
abbrev csiItem (s : State) (k : Nat) (x : CsiPkt) : Packet :=
  ⟨k, x.vc, ofBits [x.crcError, x.frameStart, x.frameEnd], stampNow s, x.dataType.toNat + csiLine s k x * 2 ^ 16, x.payload,
    if x.frameStart then some (frameStamp s k (stampNow s)) else none⟩

/-- The state behind a camera packet, before its test line. -/
abbrev csiEntered (p k : Nat) (x : CsiPkt) (s : State) : State :=
  enterPacket p (csiItem s k x) (modStr k (fun t => { t with line := (csiLine s k x + 1) % 2 ^ 16 }) s)

theorem csiPacket_taken {x : CsiPkt} {k : Nat} (hr : portRuns s p = true) (he : x.ecc ≠ .bad) (hd : csiTypes.contains x.dataType.toNat = true)
    (hv : x.vc.val < 4) (hk : streamFor s p (fun k => actGet s (K.STR_CTRL_vc k) == x.vc.val) = some k) :
    csiPacket p x s = if x.frameEnd = true then injectTest p k (csiEntered p k x s) else csiEntered p k x s := by
  rw [csiPacket, if_neg, hk]
  · rfl
  · simp only [Bool.or_eq_true, Bool.not_eq_true', decide_eq_true_eq, beq_iff_eq, hr, hd, he, Bool.true_eq_false, or_self, false_or]
    omega

theorem csiPacket_discarded {x : CsiPkt} (h : portRuns s p = false ∨ x.ecc = .bad ∨ csiTypes.contains x.dataType.toNat = false ∨
    4 ≤ x.vc.val ∨ streamFor s p (fun k => actGet s (K.STR_CTRL_vc k) == x.vc.val) = none) : csiPacket p x s = discard p s := by
  unfold csiPacket
  split
  · rfl
  · rename_i hc
    have hk : streamFor s p (fun k => actGet s (K.STR_CTRL_vc k) == x.vc.val) = none := by
      refine (or_assoc.2 (or_assoc.2 (or_assoc.2 h))).resolve_left fun hn => hc ?_
      simpa only [Bool.or_eq_true, Bool.not_eq_true', decide_eq_true_eq, beq_iff_eq] using hn
    rw [hk]

theorem csiEntered_enters (k : Nat) (x : CsiPkt) (s : State) : Enters p (csiItem s k x) s (csiEntered p k x s) :=
  (enterPacket_enters p _ _).of_eq (fun _ => rfl) rfl rfl

theorem csiEntered_line (k : Nat) (x : CsiPkt) (s : State) : (strOf (csiEntered p k x s) k).line = (csiLine s k x + 1) % 2 ^ 16 := by
  rw [(enterPacket_moves p _ _).strOf_eq, strOf_modStr_self]

/-- A test line, or the mark that there is none, behind the end of a frame (R281). -/
theorem injectTest_items {k : Nat} (ht : regGet s (K.ING_CTRL_test_line p) = 1) (hf : isFrames s k = true) :
    ∃ y, (y = .noTest k ∨ y = .test k (testLine s p k (((strOf s k).producer + openFrames s p k) % 2 ^ 32))) ∧
      injectTest p k s = putItem p y s := by
  rw [injectTest, if_neg (by simp [ht, hf])]
  dsimp only
  split
  · exact ⟨_, .inl rfl, rfl⟩
  · exact ⟨_, .inr rfl, rfl⟩

/-- A test line that is behind a frame's end opens no frame. -/
theorem openFrames_putItem {k : Nat} {y : FifoItem} (h : ∀ q, y ≠ .packet q) (s : State) : openFrames (putItem p y s) p k = openFrames s p k := by
  rw [openFrames, openFrames, (putItem_moves p y s).strOf_eq, putItem_items, List.filter_append, List.length_append]
  cases y with
  | packet q => exact absurd rfl (h q)
  | _ => rfl

/-! Ethernet ports -/

/-- A received frame as it enters its FIFO (R261, R262). -/
abbrev ethItem (s : State) (m k : Nat) (x : EthFrame) : Packet :=
  ⟨k, k, if isPtp x.bytes then 8 else 0, corrected (stampNow s) (-Int.ofNat (regGet s (K.ETH_RX_LAT_lat m)) - asym s m), 0, x.bytes, none⟩

theorem ethRx_taken {m k : Nat} {x : EthFrame} (hr : portRuns s (12 + m) = true) (hf : x.fcsOk = true) (hl : x.bytes.length ≤ 1522)
    (hp : isPtp x.bytes = true → tbValid s = true) (hk : streamFor s (12 + m) (filterMatches s x.bytes) = some k) :
    ethRx m x s = enterPacket (12 + m) (ethItem s m k x) s := by
  have hptp : (isPtp x.bytes && !tbValid s) = false := by
    cases h : isPtp x.bytes with
    | false => rfl
    | true => rw [hp h]; rfl
  rw [ethRx]
  simp only [hr, hf, hptp, hk, Bool.not_true, Bool.or_false, Bool.false_or, decide_eq_true_eq, if_neg (Nat.not_lt.2 hl)]

theorem ethRx_discarded {m : Nat} {x : EthFrame} (h : portRuns s (12 + m) = false ∨ x.fcsOk = false ∨ 1522 < x.bytes.length ∨
    (isPtp x.bytes = true ∧ tbValid s = false) ∨ streamFor s (12 + m) (filterMatches s x.bytes) = none) : ethRx m x s = discard (12 + m) s := by
  unfold ethRx
  dsimp only
  split
  · rfl
  · rename_i hc
    simp only [Bool.or_eq_true, Bool.and_eq_true, Bool.not_eq_true', decide_eq_true_eq, not_or] at hc
    obtain ⟨⟨⟨hf, hl⟩, hr⟩, hp⟩ := hc
    rw [(((h.resolve_left hr).resolve_left hf).resolve_left hl).resolve_left hp]

/-- Settles O35: each port's packets are discarded by one condition, and otherwise enter by `enterPacket`. -/
theorem packetsEnterFifos : Obligations.PacketsEnterFifos := by
  refine ⟨fun p x s k hu hr he hd hv hk => ⟨fun hend => ?plain, fun hend ht hf hfit => ?test⟩, fun p x s hu h => ?noCsi,
    fun m x s k hu hr hfcs hlen hptp hk => ?eth, fun m x s hu h => ?noEth, fun m x s hu => ⟨fun k hr hk => ?can, fun hr => ?noCan⟩⟩
  case plain =>
    have h := csiPacket_taken hr he hd hv hk
    have henter := csiEntered_enters (p := p) k x s
    have hline := csiEntered_line (p := p) k x s
    have hreg : RegsKept (fifoKeys p) s (csiEntered p k x s) := henter.2.2.2.2
    have hc : csiPacket p x s = csiEntered p k x s := by
      rw [h]
      split
      · rename_i hx
        rw [injectTest, if_pos]
        rw [hreg _ (by grind)]
        simp [(hend.resolve_left (by simp [hx]))]
      · rfl
    exact ⟨_, congrArg Host.Outcome.next ((if_pos hu).trans hc), henter, hline⟩
  case test =>
    have h := csiPacket_taken hr he hd hv hk
    rw [if_pos hend] at h
    obtain ⟨henter, -, -, hrest, hreg⟩ := csiEntered_enters (p := p) k x s
    have hact : (csiEntered p k x s).active = s.active := by rw [hrest]
    have hprod : (strOf (csiEntered p k x s) k).producer = (strOf s k).producer := by
      rw [(enterPacket_moves p _ _).strOf_eq, strOf_modStr_self]
    have hline (f : Nat) : testLine (csiEntered p k x s) p k f = testLine s p k f := by simp only [testLine, pitch, actGet, hact]
    have hf' : isFrames (csiEntered p k x s) k = true := by rwa [isFrames, actGet_congr hact]
    obtain ⟨y, hy, hput⟩ := injectTest_items ((hreg _ (by grind)).trans ht) hf'
    have hn : ∀ q, y ≠ .packet q := by
      rintro q rfl
      rcases hy with hy | hy <;> cases hy
    refine ⟨_, congrArg Host.Outcome.next ((if_pos hu).trans (h.trans hput)), y, ?_, by rw [putItem_items, henter hfit, List.append_assoc]; rfl⟩
    rwa [openFrames_putItem hn, ← hprod, ← hline]
  case noCsi => exact ⟨_, congrArg Host.Outcome.next ((if_pos hu).trans (csiPacket_discarded h)), discard_discards p s⟩
  case eth =>
    refine ⟨_, congrArg Host.Outcome.next ((if_pos hu).trans (ethRx_taken hr hfcs hlen hptp hk)), enterPacket_enters _ _ s⟩
  case noEth => exact ⟨_, congrArg Host.Outcome.next ((if_pos hu).trans (ethRx_discarded h)), discard_discards _ s⟩
  case can =>
    refine ⟨_, congrArg Host.Outcome.next ((if_pos hu).trans ?_), enterPacket_enters _ _ s⟩
    simp only [canRx, hr, hk, Bool.not_true, Bool.false_eq_true, if_false]
  case noCan =>
    exact ⟨_, congrArg Host.Outcome.next ((if_pos hu).trans (if_pos (by rw [hr]; rfl))), discard_discards _ s⟩

/-! Capture ports -/

theorem portRuns_congr {q : Nat} (hop : t.op = s.op) (hact : t.active = s.active) (hreg : regGet t (K.ING_CTRL_enable q) = regGet s (K.ING_CTRL_enable q))
    (hing : ingOf t q = ingOf s q) : portRuns t q = portRuns s q := by
  simp only [portRuns, portNamed, running, hop, actGet_congr hact, hreg, hing]

theorem streamFor_congr (hact : t.active = s.active) (q : Nat) (f : Nat → Bool) : streamFor t q f = streamFor s q f := by
  simp only [streamFor, actGet_congr hact]

theorem fits_congr {q : Nat} (hing : ingOf t q = ingOf s q) (x : FifoItem) : fits t q x = fits s q x := by
  rw [fits, fifoFill, hing, fits, fifoFill]

/-- Whether a capture input takes an edge (R268). -/
def capTakes (s : State) (c : Nat) (up : Bool) (held : Nat) : Prop :=
  unitsOn s = true ∧ bitOf (actGet s (K.CAP_CTRL_edge c)) (if up then 0 else 1) = true ∧ (actGet s (K.CAP_CTRL_filter c) = 1 → 20 ≤ held)

theorem captureEdge_ignored {c held : Nat} {up : Bool} (h : unitsOn s = false ∨ bitOf (actGet s (K.CAP_CTRL_edge c)) (if up then 0 else 1) = false ∨
    (actGet s (K.CAP_CTRL_filter c) = 1 ∧ held < 20)) : captureEdge c up held s = s := by
  refine if_pos ?_
  rcases h with h | h | ⟨h, h'⟩
  · rw [h]; rfl
  · rw [h]; simp
  · rw [h, decide_eq_true h']; simp

/-- An accepted edge after its stamp, before its packet (R268). -/
abbrev capStamped (c : Nat) (s : State) : State :=
  triggerSpis 1 c (stampNow s) (regSet (K.CAP_LAST_NS_ns c) (tbNs s)
    (modCap c (fun x => { x with stamps := (stampNow s :: x.stamps).take 16, tick := some s.ticks, unstamped := 0 }) (regInc (K.CAP_COUNT_count c) s)))

/-- An accepted edge that is too near the one before (R268). -/
abbrev capUnstamped (c : Nat) (s : State) : State :=
  modCap c (fun x => { x with tick := some s.ticks, unstamped := x.unstamped + 1 }) (regInc (K.CAP_COUNT_count c) s)

theorem stampNow_counted (c : Nat) (s : State) : stampNow (regInc (K.CAP_COUNT_count c) s) = stampNow s := by
  have h : tbValid (regInc (K.CAP_COUNT_count c) s) = tbValid s := by
    rw [tbValid, regGet_regInc_ne _ (by grind), tbValid]
  rw [stampNow, h]
  rfl

theorem captureEdge_taken {c held : Nat} {up : Bool} (h : capTakes s c up held) :
    captureEdge c up held s =
      if ((capOf s c).tick.any fun t => decide (s.ticks < t + 20)) = true then
        raise .manager ⟨0x0415, 0, false, timeNode, c, (capOf s c).unstamped + 1, 0⟩ (capUnstamped c s)
      else if (!portRuns (capStamped c s) (22 + c)) = true then capStamped c s
      else match streamFor (capStamped c s) (22 + c) fun _ => true with
        | some k => enterPacket (22 + c) ⟨k, if up then 0 else 1, 0, stampNow s, 0, [], none⟩ (capStamped c s)
        | none => capStamped c s := by
  obtain ⟨hu, hb, hf⟩ := h
  have hfilter : (actGet s (K.CAP_CTRL_filter c) == 1 && decide (held < 20)) = false := by
    rw [Bool.and_eq_false_iff, beq_eq_false_iff_ne, decide_eq_false_iff_not, Nat.not_lt]
    exact (em _).symm.imp_right hf
  unfold captureEdge
  rw [if_neg (by simp only [hu, hb, hfilter]; decide), capStamped, ← stampNow_counted c s]
  rfl

theorem capStamped_frame (c : Nat) (s : State) : capStamped c s =
    { s with reg := (capStamped c s).reg, ing := { s.ing with caps := (capStamped c s).ing.caps, spis := (capStamped c s).ing.spis } } := by
  rw [capStamped, triggerSpis_frame]
  rfl

theorem capStamped_regIng (c : Nat) (s : State) : capStamped c s = { s with reg := (capStamped c s).reg, ing := (capStamped c s).ing } := by
  generalize hv : capStamped c s = v
  obtain ⟨reg, ing, rfl⟩ : ∃ reg ing, v = { s with reg := reg, ing := ing } := ⟨_, _, hv ▸ capStamped_frame c s⟩
  rfl

theorem capStamped_reg (c : Nat) (s : State) : (capStamped c s).reg = (regSet (K.CAP_LAST_NS_ns c) (tbNs s) (regInc (K.CAP_COUNT_count c) s)).reg := by
  rw [capStamped, triggerSpis_frame]
  rfl

theorem capOf_capStamped (c : Nat) (s : State) : capOf (capStamped c s) c = ⟨(stampNow s :: (capOf s c).stamps).take 16, some s.ticks, 0⟩ := by
  have h : (capStamped c s).ing.caps = (modCap c (fun x => ⟨(stampNow s :: x.stamps).take 16, some s.ticks, 0⟩) s).ing.caps := by
    rw [capStamped, triggerSpis_frame]
    rfl
  rw [capOf, h]
  exact capOf_modCap_self ..

theorem capStamped_kept (c : Nat) (s : State) : RegsKept [K.CAP_COUNT_count c, K.CAP_LAST_NS_ns c] s (capStamped c s) :=
  kept_reg (t := regSet (K.CAP_LAST_NS_ns c) (tbNs s) (regInc (K.CAP_COUNT_count c) s)) (capStamped_reg c s)
    (kept_set (by simp) (kept_inc (by simp) (kept_refl _ s)))

theorem ingOf_capStamped (c : Nat) (s : State) (q : Nat) : ingOf (capStamped c s) q = ingOf s q := by
  rw [capStamped_frame]
  rfl

/-- The end of an accepted edge: only its port's FIFO moves after the stamp. -/
theorem captureEdge_stamped {c held : Nat} {up : Bool} (h : capTakes s c up held) (hn : ∀ x, (capOf s c).tick = some x → x + 20 ≤ s.ticks) :
    FifoMoves (22 + c) (capStamped c s) (captureEdge c up held s) ∧
    ∀ k, portRuns s (22 + c) = true → streamFor s (22 + c) (fun _ => true) = some k →
      captureEdge c up held s = enterPacket (22 + c) ⟨k, if up then 0 else 1, 0, stampNow s, 0, [], none⟩ (capStamped c s) := by
  have hnear : ((capOf s c).tick.any fun t => decide (s.ticks < t + 20)) = false := by
    cases ht : (capOf s c).tick with
    | none => rfl
    | some x => exact decide_eq_false (Nat.not_lt.2 (hn x ht))
  have hact : (capStamped c s).active = s.active := by rw [capStamped_frame]
  have hruns : portRuns (capStamped c s) (22 + c) = portRuns s (22 + c) :=
    portRuns_congr (by rw [capStamped_frame]) hact (capStamped_kept c s _ (by grind)) (ingOf_capStamped c s _)
  rw [captureEdge_taken h, if_neg (by rw [hnear]; exact Bool.false_ne_true)]
  constructor
  · split
    · exact .refl _ _
    · split
      · exact enterPacket_moves _ _ _
      · exact .refl _ _
  · intro k hr hk
    rw [hruns, if_neg (by rw [hr]; decide), streamFor_congr hact, hk]

/-! SPI ports -/

theorem spiTrigger_starts {m : Nat} {st : Stamp} {rest : List Stamp} (hd : (spiOf s m).due = st :: rest) (hr : portRuns s (20 + m) = true) :
    spiTrigger m s =
      if (spiOf s m).busy.isSome = true then
        match streamFor s (20 + m) fun _ => true with
        | some k => refreshHold (20 + m) (losePacket (20 + m) k st (spiRead s m) (modSpi m (fun x => { x with due := rest }) s))
        | none => modSpi m (fun x => { x with due := rest }) s
      else modSpi m (fun x => { x with busy := some st, cmd := spiCmd s m }) (modSpi m (fun x => { x with due := rest }) s) := by
  have hr' : (!portRuns (modSpi m (fun x => { x with due := rest }) s) (20 + m)) = false := by
    rw [show portRuns (modSpi m (fun x => { x with due := rest }) s) (20 + m) = portRuns s (20 + m) from rfl, hr, Bool.not_true]
  have hb : (spiOf (modSpi m (fun x => { x with due := rest }) s) m).busy = (spiOf s m).busy := by rw [spiOf_modSpi_self]
  unfold spiTrigger
  rw [hd]
  dsimp only
  rw [hr', if_neg Bool.false_ne_true, hb]
  rfl

theorem spiEnd_ends {m k : Nat} {st : Stamp} (rx : List Byte) (hb : (spiOf s m).busy = some st) (hk : streamFor s (20 + m) (fun _ => true) = some k) :
    spiEnd m rx s = enterPacket (20 + m) ⟨k, 0, 0, st, (spiOf s m).next, (rx ++ zeros 64).take (spiRead s m), none⟩
      (modSpi m (fun x => { x with busy := none, next := ((spiOf s m).next + 1) % 2 ^ 32 }) s) := by
  have hk' : streamFor (modSpi m (fun x => { x with busy := none, next := ((spiOf s m).next + 1) % 2 ^ 32 }) s) (20 + m) (fun _ => true) = some k :=
    (streamFor_congr rfl _ _).trans hk
  unfold spiEnd
  rw [hb]
  dsimp only
  rw [hk']
  rfl

/-- Settles O36: an edge by `captureEdge_taken`, a trigger by `spiTrigger_starts`; both end in the FIFO of their port. -/
theorem capturesAndSpi : Obligations.CapturesAndSpi := by
  refine ⟨fun c up held s hu hb hf hn => ?stamped, fun c up held s h => congrArg Host.Outcome.next (captureEdge_ignored h),
    fun c up held s x hu hb hf hx hlt => ?near, fun m s st rest hd hr => ⟨fun hb => ?starts, fun k hb hk => ?lost⟩, fun m rx s st k hu hb hk => ?ends⟩
  case stamped =>
    obtain ⟨hm, hput⟩ := captureEdge_stamped (up := up) ⟨hu, hb, hf⟩ hn
    have hk : RegsKept [K.CAP_COUNT_count c, K.CAP_LAST_NS_ns c, K.ING_LOST_PKTS_count (22 + c.val), K.ING_LOST_BYTES_count (22 + c.val),
        K.ING_HOLD_asserted (22 + c.val), K.ING_HOLD_COUNT_count (22 + c.val)] s (captureEdge c up held s) := fun k hk =>
      (hm.regs k (by grind)).trans (capStamped_kept c s k (by grind))
    refine ⟨_, rfl, ?_, ?_, ?_, fun k hr hs => ?_, ?_, hk⟩
    · rw [hm.regs _ (by grind), regGet_congr (capStamped_reg c s), regGet_regSet_ne _ _ (by grind), regGet_regInc_self]
    · rw [hm.regs _ (by grind), regGet_congr (capStamped_reg c s), regGet_regSet_self]
    · rw [hm.capOf_eq, capOf_capStamped]
    · intro pk hfit
      rw [hput k hr hs, enterPacket, if_pos (by rwa [fits_congr (ingOf_capStamped c s _)]), putItem_items, ingOf_capStamped]
    · exact hm.regIng (capStamped_regIng c s)
  case near =>
    refine ⟨_, congrArg Host.Outcome.next ((captureEdge_taken ⟨hu, hb, hf⟩).trans (if_pos ?_)), capUnstamped c s, rfl, ?_, regGet_regInc_self .., rfl, ?_⟩
    · rw [hx]
      exact decide_eq_true hlt
    · exact capOf_modCap_self ..
    · exact kept_reg (t := regInc (K.CAP_COUNT_count c) s) rfl (kept_inc (by simp) (kept_refl _ s))
  case starts =>
    refine ⟨_, congrArg Host.Outcome.next ((spiTrigger_starts hd hr).trans (if_neg (by rw [hb]; decide))), ?_, rfl⟩
    rw [spiOf_modSpi_self, spiOf_modSpi_self]
  case lost =>
    have hm : FifoMoves (20 + m) (modSpi m (fun x => { x with due := rest }) s) _ := (losePacket_moves (20 + m) k st (spiRead s m) _).trans (refreshHold_moves _ _)
    refine ⟨_, congrArg Host.Outcome.next ((spiTrigger_starts hd hr).trans ((if_pos hb).trans (by rw [hk]))), ?_, ?_, ?_⟩
    · rw [hm.spiOf_eq, spiOf_modSpi_self]
    · have hk := refreshHold_kept (p := 20 + m) (ks := [K.ING_HOLD_asserted (20 + m), K.ING_HOLD_COUNT_count (20 + m)]) (by simp) (by simp)
        (kept_refl _ (losePacket (20 + m) k st (spiRead s m) (modSpi m (fun x => { x with due := rest }) s)))
      rw [hk _ (by grind), (losePacket_counts ..).1, regGet_modSpi]
    · exact hm.regIng rfl
  case ends =>
    refine ⟨_, congrArg Host.Outcome.next ((if_pos hu).trans (spiEnd_ends rx hb hk)), ?_, ?_⟩
    · rw [(enterPacket_moves _ _ _).spiOf_eq, spiOf_modSpi_self]
    · exact (enterPacket_enters ..).of_eq (fun _ => rfl) rfl rfl

end Sys2Proof.Machine
end

section
/-! PROOFS. Ethernet flow control and transmission, CAN bus-off, lost packets at a whole second (R263, R277, R280, R283). -/

namespace Sys2Proof.Machine

variable {s t u : State}

/-! Host memory -/

/-- A write leaves the bytes of a read that shares no address with it. -/
theorem hostRead_hostWrite_ne {p q a b n : Nat} {bs : List Byte} (h : ∀ i < n, ∀ j < bs.length, hostKey q (b + i) ≠ hostKey p (a + j)) :
    hostRead (hostWrite p a bs s) q b n = hostRead s q b n :=
  List.map_congr_left fun i hi => hostWrite_ne (h i (List.mem_range.1 hi))

/-- Two stretches of a host's memory that do not wrap and do not meet share no address. -/
theorem hostKey_ne {p a b i j n m : Nat} (ha : a + n ≤ 2 ^ 64) (hb : b + m ≤ 2 ^ 64) (hi : i < n) (hj : j < m) (h : a + n ≤ b ∨ b + m ≤ a) :
    hostKey p (a + i) ≠ hostKey p (b + j) := by
  unfold hostKey
  rw [Nat.mod_eq_of_lt (by omega), Nat.mod_eq_of_lt (by omega)]
  omega

theorem hostRead_length (s : State) (p a n : Nat) : (hostRead s p a n).length = n := by simp [hostRead]

/-! Transmission -/

/-- The descriptor at a MAC's consumer index (R263). -/
abbrev txSlot (s : State) (m : Nat) : Nat := txBase s m + 32 + 32 * ((macOf s m).txCons % 2 ^ regGet s (K.ETH_TX_CTRL_log2_entries m))

/-- The frame that a descriptor names. -/
abbrev txFrame (s : State) (m : Nat) : List Byte :=
  hostRead s s.mgrPort (fieldAt (hostRead s s.mgrPort (txSlot s m) 32) 0 8) (fieldAt (hostRead s s.mgrPort (txSlot s m) 32) 8 2)

/-- The descriptors that wait (R263). -/
abbrev txPending (s : State) (m : Nat) : Nat := (fieldAt (hostRead s s.mgrPort (txBase s m) 2) 0 2 + 65536 - (macOf s m).txCons) % 65536

/-- The flag byte of a descriptor that is done. -/
abbrev txFlag (s : State) (m : Nat) : Nat := bitsAt (fieldAt (hostRead s s.mgrPort (txSlot s m) 32) 10 1) 0 1

/-- The consumer index moves on and is written back (R263). -/
def txMoves (m : Nat) (h c : Nat) (s : State) : State :=
  hostWrite h (txBase s m + 8) (leBytes 2 c) (modMac m (fun x => { x with txCons := c }) s)

/-- Whether a descriptor's length is out of range (R263). -/
abbrev txBadLen (s : State) (m : Nat) : Bool :=
  let len := fieldAt (hostRead s s.mgrPort (txSlot s m) 32) 8 2
  len < 14 || 1518 < len

/-- Whether a descriptor is refused (R262, R263). -/
abbrev txBad (s : State) (m : Nat) : Bool := txBadLen s m || (isPtp (txFrame s m) && !tbValid s)

/-- The descriptor marked done (R263). -/
abbrev txMarked (m : Nat) (s : State) : State :=
  hostWrite s.mgrPort (txSlot s m + 10) (leBytes 1 (txFlag s m + 2 + if txBad s m = true then 4 else 0)) s

/-- The descriptor stamped where it asks (R261). -/
abbrev txStamped (m : Nat) (s : State) : State :=
  if txFlag s m = 1 then
    hostWrite s.mgrPort (txSlot s m + 16)
      (stampBytes (corrected (stampNow (txMarked m s)) (Int.ofNat (regGet (txMarked m s) (K.ETH_TX_LAT_lat m)) - asym (txMarked m s) m))) (txMarked m s)
  else txMarked m s

theorem ethTx_due {m : Nat} (hp : txPolled s m = true) (h0 : 0 < txPending s m) (hn : txPending s m ≤ 2 ^ regGet s (K.ETH_TX_CTRL_log2_entries m))
    (ht : (macOf s m).pausedTo ≤ s.ticks) :
    ethTx m s = txMoves m s.mgrPort (((macOf s m).txCons + 1) % 65536)
      (if txBad s m = true then
        (if txBadLen s m = true then raise .manager ⟨0x0413, 0, false, ethNode, 12 + m, (macOf s m).txCons, 0⟩ (txMarked m s) else txMarked m s)
      else modMac m (fun x => { x with sent := x.sent ++ [.frame (onWire (txFrame s m))] }) (txStamped m s)) := by
  have hidle : (!txPolled s m || decide (txPending s m = 0) || decide (2 ^ regGet s (K.ETH_TX_CTRL_log2_entries m) < txPending s m) ||
      decide (s.ticks < (macOf s m).pausedTo)) = false := by
    rw [hp, decide_eq_false (by omega), decide_eq_false (by omega), decide_eq_false (by omega)]
    rfl
  unfold ethTx
  extract_lets h prod cons n pending
  rw [if_neg (ne_true_of_eq_false hidle)]
  rfl

/-- A state that differs from another in the hosts' memory only (R224). -/
def HostOnly (s t : State) : Prop := ∃ host, t = { s with mem := { s.mem with host := host } }

theorem HostOnly.trans (h : HostOnly s t) (g : HostOnly t u) : HostOnly s u := by
  obtain ⟨_, rfl⟩ := h
  exact g

theorem hostWrite_only (p a : Nat) (bs : List Byte) (s : State) : HostOnly s (hostWrite p a bs s) := ⟨_, rfl⟩

theorem txMarked_only (m : Nat) (s : State) : HostOnly s (txMarked m s) := hostWrite_only ..

theorem txStamped_only (m : Nat) (s : State) : HostOnly s (txStamped m s) := by
  unfold txStamped
  split
  · exact (txMarked_only m s).trans (hostWrite_only ..)
  · exact txMarked_only m s

theorem txMoves_index {m h c : Nat} (hc : c < 65536) (hb : txBase s m + 10 ≤ 2 ^ 64) :
    fieldAt (hostRead (txMoves m h c s) h (txBase s m + 8) 2) 0 2 = c := by
  have hr := hostRead_hostWrite (s := modMac m (fun x => { x with txCons := c }) s) h (txBase s m + 8) (leBytes 2 c) (by simp; omega)
  rw [leBytes_length] at hr
  rw [txMoves, hr, fieldAt_leBytes, Nat.mod_eq_of_lt (by omega)]

/-- The index written back leaves the descriptors (R263). -/
theorem txMoves_slot {m h c a : Nat} (ha : txBase s m + 32 ≤ a) (hb : a + 1 ≤ 2 ^ 64) :
    hostRead (txMoves m h c s) h a 1 = hostRead s h a 1 :=
  (hostRead_hostWrite_ne fun i hi j hj => hostKey_ne hb (m := 2) (by omega) hi (by simpa using hj) (by omega)).trans rfl

theorem txStamped_flag {m : Nat} (hb : txSlot s m + 32 ≤ 2 ^ 64) (hok : txBad s m = false) :
    hostRead (txStamped m s) s.mgrPort (txSlot s m + 10) 1 = leBytes 1 (txFlag s m + 2) := by
  have hmark : hostRead (txMarked m s) s.mgrPort (txSlot s m + 10) 1 = leBytes 1 (txFlag s m + 2) := by
    have hr := hostRead_hostWrite (s := s) s.mgrPort (txSlot s m + 10) (leBytes 1 (txFlag s m + 2 + if txBad s m = true then 4 else 0))
      (by simp only [leBytes_length]; omega)
    rw [leBytes_length] at hr
    rw [hr, hok, if_neg Bool.false_ne_true, Nat.add_zero]
  unfold txStamped
  split
  · refine (hostRead_hostWrite_ne fun i hi j hj => hostKey_ne (n := 1) (m := 16) (by omega) (by omega) hi ?_ (by omega)).trans hmark
    simpa [stampBytes] using hj
  · exact hmark

/-- A descriptor sent (R261, R263). -/
theorem ethTx_sent {m : Nat} (hp : txPolled s m = true) (h0 : 0 < txPending s m) (hn : txPending s m ≤ 2 ^ regGet s (K.ETH_TX_CTRL_log2_entries m))
    (ht : (macOf s m).pausedTo ≤ s.ticks) (hb : txSlot s m + 32 ≤ 2 ^ 64) (hok : txBad s m = false) :
    let t := ethTx m s
    let c := ((macOf s m).txCons + 1) % 65536
    macOf t m = { macOf s m with txCons := c, sent := (macOf s m).sent ++ [.frame (onWire (txFrame s m))] } ∧
    fieldAt (hostRead t s.mgrPort (txBase s m + 8) 2) 0 2 = c ∧
    hostRead t s.mgrPort (txSlot s m + 10) 1 = leBytes 1 (txFlag s m + 2) ∧
    t = { s with ing := { s.ing with macs := t.ing.macs }, mem := { s.mem with host := t.mem.host } } := by
  intro t c
  have hslot : txBase s m + 32 ≤ txSlot s m := Nat.le_add_right ..
  have hflag := txStamped_flag hb hok
  obtain ⟨host, hv⟩ := txStamped_only m s
  have ht' : t = txMoves m s.mgrPort c (modMac m (fun x => { x with sent := x.sent ++ [.frame (onWire (txFrame s m))] }) (txStamped m s)) := by
    rw [show t = ethTx m s from rfl, ethTx_due hp h0 hn ht, if_neg (ne_true_of_eq_false hok)]
  generalize hw : modMac m (fun x => { x with sent := x.sent ++ [.frame (onWire (txFrame s m))] }) (txStamped m s) = w at ht'
  have hbase : txBase w m = txBase s m := by
    rw [← hw, hv]
    rfl
  have hread : hostRead w s.mgrPort (txSlot s m + 10) 1 = leBytes 1 (txFlag s m + 2) := by
    rw [← hw]
    exact hflag
  have hmac : macOf w m = { macOf s m with sent := (macOf s m).sent ++ [.frame (onWire (txFrame s m))] } := by
    rw [← hw, macOf_modMac_self, hv]
    rfl
  rw [ht']
  refine ⟨?_, ?_, ?_, ?_⟩
  · rw [txMoves, macOf_hostWrite, macOf_modMac_self, hmac]
  · rw [← hbase]
    exact txMoves_index (Nat.mod_lt _ (by decide)) (by omega)
  · rw [txMoves_slot (by omega) (by omega), hread]
  · rw [txMoves, ← hw, hv]
    rfl

/-- A descriptor refused (R262, R263). -/
theorem ethTx_refused {m : Nat} (hp : txPolled s m = true) (h0 : 0 < txPending s m) (hn : txPending s m ≤ 2 ^ regGet s (K.ETH_TX_CTRL_log2_entries m))
    (ht : (macOf s m).pausedTo ≤ s.ticks) (hb : txSlot s m + 32 ≤ 2 ^ 64) (hbad : txBad s m = true) :
    let t := ethTx m s
    let c := ((macOf s m).txCons + 1) % 65536
    macOf t m = { macOf s m with txCons := c } ∧ fieldAt (hostRead t s.mgrPort (txBase s m + 8) 2) 0 2 = c ∧
    t = { s with ing := { s.ing with macs := t.ing.macs }, mem := { s.mem with host := t.mem.host }, hosts := t.hosts } := by
  intro t c
  have hslot : txBase s m + 32 ≤ txSlot s m := Nat.le_add_right ..
  obtain ⟨w, ht', hosts, host, hw⟩ : ∃ w, t = txMoves m s.mgrPort c w ∧ ∃ hosts host, w = { s with hosts := hosts, mem := { s.mem with host := host } } := by
    refine ⟨_, (ethTx_due hp h0 hn ht).trans (congrArg _ (if_pos hbad)), ?_⟩
    split
    · exact raise_inform _ rfl _
    · exact ⟨_, _, rfl⟩
  have hbase : txBase w m = txBase s m := by
    rw [hw]
    rfl
  have hmac : macOf w m = macOf s m := by
    rw [hw]
    rfl
  rw [ht']
  refine ⟨?_, ?_, ?_⟩
  · rw [txMoves, macOf_hostWrite, macOf_modMac_self, hmac]
  · rw [← hbase]
    exact txMoves_index (Nat.mod_lt _ (by decide)) (by omega)
  · rw [txMoves, hw]
    rfl

/-! A whole second -/

/-- A port's lost packets compared with their limit (R280). -/
abbrev healthOf (s : State) (p : Nat) : State :=
  let x := ingOf s p
  let s := modIng p (fun x => { x with secPkts := 0, secBytes := 0 }) s
  if actGet s (K.ING_DROP_LIMIT_pkts p) < x.secPkts then raise .manager ⟨0x0410, 0, true, ingNode, p, x.secPkts, x.secBytes⟩ s else s

theorem healthOf_parts (s : State) (p : Nat) : ∃ hosts host,
    healthOf s p = { modIng p (fun x => { x with secPkts := 0, secBytes := 0 }) s with hosts := hosts, mem := { s.mem with host := host } } ∧
    ((ingOf s p).secPkts ≤ actGet s (K.ING_DROP_LIMIT_pkts p) → hosts = s.hosts ∧ host = s.mem.host) := by
  unfold healthOf
  dsimp only
  split
  · rename_i h
    obtain ⟨hosts, host, ht⟩ := raise_inform .manager (e := ⟨0x0410, 0, true, ingNode, p, (ingOf s p).secPkts, (ingOf s p).secBytes⟩) rfl
      (modIng p (fun x => { x with secPkts := 0, secBytes := 0 }) s)
    exact ⟨hosts, host, ht, fun hle => absurd hle (Nat.not_le.2 h)⟩
  · exact ⟨_, _, rfl, fun _ => ⟨rfl, rfl⟩⟩

/-- The ports of a list compared, each once (R280). -/
theorem health_foldl {l : List Nat} (hl : l.Nodup) (s : State) :
    let t := l.foldl healthOf s
    (∀ p, ingOf t p = if p ∈ l then { ingOf s p with secPkts := 0, secBytes := 0 } else ingOf s p) ∧
    ((∀ p ∈ l, (ingOf s p).secPkts ≤ actGet s (K.ING_DROP_LIMIT_pkts p)) → t.hosts = s.hosts ∧ t.mem = s.mem) ∧
    t = { s with ing := { s.ing with ports := t.ing.ports }, hosts := t.hosts, mem := { s.mem with host := t.mem.host } } := by
  induction l generalizing s with
  | nil => exact ⟨by simp, fun _ => ⟨rfl, rfl⟩, rfl⟩
  | cons q l ih =>
    obtain ⟨hq, hl⟩ := List.nodup_cons.1 hl
    obtain ⟨hosts, host, hs, hquiet⟩ := healthOf_parts s q
    obtain ⟨hing, hsame, hf⟩ := ih hl (healthOf s q)
    have hone : ∀ p, ingOf (healthOf s q) p = if p = q then { ingOf s p with secPkts := 0, secBytes := 0 } else ingOf s p := fun p => by
      rw [hs]
      exact ingOf_modIng ..
    refine ⟨fun p => ?_, fun hall => ?_, ?_⟩
    · rw [List.foldl_cons, hing, hone]
      by_cases hp : p = q
      · subst hp
        simp [hq]
      · simp [hp]
    · obtain ⟨rfl, rfl⟩ := hquiet (hall q (List.mem_cons_self ..))
      obtain ⟨h1, h2⟩ := hsame fun p hp => by
        rw [hone, if_neg (by rintro rfl; exact hq hp), hs]
        exact hall p (List.mem_cons_of_mem _ hp)
      rw [List.foldl_cons, h1, h2, hs]
      exact ⟨rfl, rfl⟩
    · rw [List.foldl_cons]
      rw [hs] at hf ⊢
      exact hf

/-- Settles O37: a descriptor by `ethTx_sent` and `ethTx_refused`, the whole second by `health_foldl`. -/
theorem ethernetAndSensorHealth : Obligations.EthernetAndSensorHealth := by
  refine ⟨fun m q s hu => ?pause, fun m s hu hh hd he => ?repeated, fun m ws s => ?transmit,
    fun m e s hr => ?busOff, fun s hu hsec => ?health⟩
  case pause => exact ⟨_, congrArg Host.Outcome.next (if_pos hu), macOf_modMac_self .., fun n hn => macOf_modMac_ne _ _ hn, rfl⟩
  case repeated =>
    have hpause : pausing s (12 + m) = true := by
      rw [pausing, Nat.add_sub_cancel_left, he]
      simp
      omega
    refine ⟨_, congrArg Host.Outcome.next (if_pos (by rw [hu, hh, decide_eq_true hd]; rfl)), ?_, fun n hn => ?_, sendPause_frame ..⟩
    · rw [macOf_sendPause, if_pos ⟨hpause, by omega⟩]
    · rw [macOf_sendPause, if_neg (by omega)]
  case transmit =>
    intro u h base n cons pending at_ d len bytes wire hp h0 hn ht hb
    have hu : u = { s with mem := { s.mem with host := u.mem.host } } := applyWrites_eq ws s
    have hexec : exec (.ethTxFrame m ws) s = .next (ethTx m u) := rfl
    clear_value u
    obtain ⟨host, rfl⟩ : ∃ host, u = { s with mem := { s.mem with host := host } } := ⟨_, hu⟩
    refine ⟨fun h14 hl hptp => ?_, fun hbad => ?_⟩
    · have hok : txBad { s with mem := { s.mem with host := host } } m = false := by
        refine Bool.or_eq_false_iff.2 ⟨Bool.or_eq_false_iff.2 ⟨decide_eq_false (Nat.not_lt.2 h14), decide_eq_false (Nat.not_lt.2 hl)⟩, ?_⟩
        cases hp : isPtp bytes with
        | false => exact Bool.and_eq_false_iff.2 (.inl hp)
        | true => exact Bool.and_eq_false_iff.2 (.inr ((congrArg not (hptp hp)).trans rfl))
      obtain ⟨hmac, hcons, hflag, hf⟩ := ethTx_sent (s := { s with mem := { s.mem with host := host } }) hp h0 hn ht hb hok
      have hlen : bytes.length = len := hostRead_length ..
      have hwire : onWire bytes = wire ++ leBytes 4 (crc32 wire).toNat := by rw [onWire, hlen]
      have hbit : fieldAt (leBytes 1 (bitsAt (fieldAt d 10 1) 0 1 + 2)) 0 1 = fieldAt d 10 1 % 2 + 2 := by
        rw [fieldAt_leBytes, bitsAt, pow_zero, Nat.div_one]
        omega
      refine ⟨_, hexec, ?_, hcons, (congrArg (fieldAt · 0 1) hflag).trans hbit, hf⟩
      exact hmac.trans (congrArg (fun w : List Byte => ({ macOf s m with txCons := (cons + 1) % 65536, sent := (macOf s m).sent ++ [EthOut.frame w] } : Mac)) hwire)
    · have hbad' : txBad { s with mem := { s.mem with host := host } } m = true := by
        refine Bool.or_eq_true_iff.2 ?_
        rcases hbad with h | h | ⟨hp, hv⟩
        · exact .inl (Bool.or_eq_true_iff.2 (.inl (decide_eq_true h)))
        · exact .inl (Bool.or_eq_true_iff.2 (.inr (decide_eq_true h)))
        · exact .inr (Bool.and_eq_true_iff.2 ⟨hp, (congrArg not hv).trans rfl⟩)
      obtain ⟨hmac, hcons, hf⟩ := ethTx_refused (s := { s with mem := { s.mem with host := host } }) hp h0 hn ht hb hbad'
      exact ⟨_, hexec, hmac, hcons, hf⟩
  case busOff => exact ⟨_, congrArg Host.Outcome.next (if_pos hr), s, rfl, rfl⟩
  case health =>
    obtain ⟨hing, hsame, hf⟩ := health_foldl (List.nodup_range (n := 30)) { s with ing := { s.ing with second := tbSec s } }
    refine ⟨_, congrArg Host.Outcome.next (if_neg (by simp [hu, hsec])), ?_, fun p => ?_, fun hall => ?_, ?_⟩
    · rw [hf]
    · have h := hing p
      rw [if_pos (List.mem_range.2 p.isLt)] at h
      exact ⟨(congrArg IngPort.secPkts h :), (congrArg IngPort.secBytes h :), (congrArg IngPort.items h :)⟩
    · exact hsame fun p hp => hall ⟨p, List.mem_range.1 hp⟩
    · obtain ⟨ports, hosts, host, ht⟩ : ∃ ports hosts host, (List.range 30).foldl healthOf { s with ing := { s.ing with second := tbSec s } } =
          { s with ing := { s.ing with second := tbSec s, ports := ports }, hosts := hosts, mem := { s.mem with host := host } } := ⟨_, _, _, hf⟩
      rw [ht]

end Sys2Proof.Machine
end

section
/-! PROOFS. Draining a FIFO into a packet stream (R272, R285): a stream that feeds a channel is consumed as it is written. -/

namespace Sys2Proof.Machine

/-- A packet without payload for stream 0. -/
def fedPacket : Packet := ⟨0, 0, 0, ⟨0, false⟩, 0, [], none⟩

/-- In DRIVE, stream 0 enabled on port 0 and feeding the enabled channel 0, that packet in the port's FIFO, its ring empty. -/
def fedState : State :=
  actSet (K.STR_CTRL_enable 0) 1 (actSet (K.FUS_CH_CTRL_enable 0) 1
    (modIng 0 (fun x => { x with items := [.packet fedPacket] }) { State.reset with op := .drive }))

/-- The lowest byte of the ring's consumer index, 0 before, is 32 after the drain. -/
theorem fedState_consumed : (match exec (.ingressDrain 0 []) fedState with
    | .next t => tget (0 : Byte) (winKey 0 8) t.mem.win
    | _ => 0) = 32 := by decide +kernel

theorem fedState_before : tget (0 : Byte) (winKey 0 8) fedState.mem.win = 0 := by decide +kernel

theorem fedState_free : RingFree (strRing fedState 0) 32 fedState := by
  unfold RingFree
  decide +kernel

/-- Refutes O38: where the stream feeds a channel, the admission stage consumes it (R285), which writes the consumer index in the ring's control block; the statement says of every
stream that no byte of the windows changes but the producer index, the record and its pad record. -/
theorem not_ingressDrains : ¬ Obligations.IngressDrains := by
  rintro ⟨hdrain, -, -⟩
  obtain ⟨hfree, -⟩ := hdrain 0 fedPacket fedState (by decide +kernel) rfl (by decide +kernel) (by decide +kernel) (by decide +kernel) (by decide +kernel)
  obtain ⟨t, hexec, -, -, ⟨-, -, -, hkept⟩, -⟩ := hfree fedState_free
  have hbyte : tget (0 : Byte) (winKey 0 8) t.mem.win = 32 := by
    have h := fedState_consumed
    rw [hexec] at h
    exact h
  have hsame := hkept (winKey 0 8) (by decide +kernel)
  rw [hbyte, fedState_before] at hsame
  exact absurd hsame (by decide)

end Sys2Proof.Machine
end

section
/-! PROOFS. Post streams (R285 to R288) and the steps of the ego-motion integrator (R293, R295). -/

namespace Sys2Proof.Machine

variable {s t u : State}

/-! Channels -/

@[simp] theorem chanOf_modChan_self (c : Nat) (f : Channel → Channel) (s : State) : chanOf (modChan c f s) c = f (chanOf s c) := tget_tmod_self ..
theorem chanOf_modChan_ne {c d : Nat} (f : Channel → Channel) (h : d ≠ c) (s : State) : chanOf (modChan c f s) d = chanOf s d := tget_tmod_ne _ _ f h _
@[simp] theorem chanOf_raise (x : EvDest) (e : Ev) (s : State) (d : Nat) : chanOf (raise x e s) d = chanOf s d := by rw [chanOf, raise_fus, chanOf]

/-- A state that differs from another in the samples of a channel, not in its place in its post stream; the active bank is the same. -/
structure Feeds (c : Nat) (s t : State) : Prop where
  post : (chanOf t c).post = (chanOf s c).post
  others : ∀ d, d ≠ c → chanOf t d = chanOf s d
  active : t.active = s.active

variable {c : Nat}

theorem Feeds.refl (c : Nat) (s : State) : Feeds c s s := ⟨rfl, fun _ _ => rfl, rfl⟩

theorem Feeds.trans (h : Feeds c s t) (g : Feeds c t u) : Feeds c s u :=
  ⟨g.post.trans h.post, fun d hd => (g.others d hd).trans (h.others d hd), g.active.trans h.active⟩

theorem Feeds.raise {x : EvDest} {e : Ev} (h : Feeds c s t) : Feeds c s (raise x e t) :=
  h.trans ⟨by rw [chanOf_raise], fun d _ => chanOf_raise .., raise_active ..⟩

theorem Feeds.modChan {f : Channel → Channel} (h : Feeds c s t) (hf : ∀ x, (f x).post = x.post := by exact fun _ => rfl) : Feeds c s (modChan c f t) :=
  h.trans ⟨by rw [chanOf_modChan_self, hf], fun _ hd => chanOf_modChan_ne _ hd _, rfl⟩

theorem Feeds.regs {k v : Nat} (h : Feeds c s t) : Feeds c s (regSet k v t) := h.trans ⟨rfl, fun _ _ => rfl, rfl⟩

theorem Feeds.inc {k : Nat} (h : Feeds c s t) : Feeds c s (regInc k t) := h.trans ⟨rfl, fun _ _ => rfl, rfl⟩

theorem malformed_feeds (c len : Nat) (s : State) : Feeds c s (malformed c len s) := by
  unfold malformed
  have h : Feeds c s (Machine.modChan c (fun x => { x with malformed := x.malformed + 1 }) (regInc K.FUS_MALFORMED_count s)) :=
    (Feeds.refl c s).inc.modChan
  dsimp only
  split
  · exact (h.modChan).raise
  · exact h

theorem feed_feeds (c x r : Nat) (inSync : Bool) (payload : List Byte) (s : State) : Feeds c s (feed c x r inSync payload s) := by
  unfold feed
  extract_lets y u1 per e bad u2 u3 u4
  have h1 : Feeds c s u1 := (Feeds.refl c s).modChan
  have h2 : Feeds c s u2 := by
    unfold u2
    split
    · exact h1.modChan
    · exact h1
  have h3 : Feeds c s u3 := by
    unfold u3
    split
    · exact h2.regs.raise
    · exact h2
  have h4 : Feeds c s u4 := by
    unfold u4
    split
    · exact h3.inc
    · exact h3
  split
  · exact h2.regs.raise
  · split
    · exact h3.inc
    · exact h4.modChan

/-! Post streams -/

/-- Whatever the records of a post stream bring, the module consumes them in order, up to the producer at most (R272, R285). -/
theorem readPost_post (c prod n : Nat) (s : State) :
    (chanOf s c).post ≤ (chanOf (readPost c prod n s) c).post ∧
    ((chanOf s c).post ≤ prod → (chanOf (readPost c prod n s) c).post ≤ prod) ∧
    (∀ d, d ≠ c → chanOf (readPost c prod n s) d = chanOf s d) ∧ (readPost c prod n s).active = s.active := by
  induction n generalizing s with
  | zero => exact ⟨Nat.le_refl _, id, fun _ _ => rfl, rfl⟩
  | succ n ih =>
    unfold readPost
    extract_lets at_ h len total u1 sec bs u2
    split
    · exact ⟨Nat.le_refl _, id, fun _ _ => rfl, rfl⟩
    · rename_i hfits
      have hle : at_ + total ≤ prod := Nat.le_of_not_lt fun h => hfits (by rw [decide_eq_true h]; rfl)
      have hu1 : (chanOf u1 c).post = at_ + total := by
        unfold u1
        rw [chanOf_modChan_self]
      have hfeeds : Feeds c u1 u2 := by
        unfold u2
        split
        · split
          · exact feed_feeds ..
          · exact malformed_feeds ..
        · exact .refl c u1
      have hpost : (chanOf u2 c).post = at_ + total := hfeeds.post.trans hu1
      obtain ⟨h1, h2, h3, h4⟩ := ih u2
      rw [hpost] at h1 h2
      refine ⟨Nat.le_trans (Nat.le_add_right ..) h1, fun _ => h2 hle, fun d hd => ?_, h4.trans hfeeds.active⟩
      rw [h3 d hd, hfeeds.others d hd]
      exact chanOf_modChan_ne _ hd _

/-- The post stream of one channel is read where the others have none. -/
theorem postStreamRead_one {c : Nat} (hc : c < 32) (hr : running s = true)
    (hone : ∀ d < 32, (chanOn s d = true ∧ actGet s (K.FUS_CH_CTRL_post d) = 1) ↔ d = c) (ha : (pollPost c s).active = s.active) :
    exec (.postStreamRead []) s = .next (pollPost c s) := by
  have hskip (v : State) (hv : v.active = s.active) (l : List Nat) (hl : ∀ d ∈ l, d < 32 ∧ d ≠ c) :
      l.foldl (fun s c => if (chanOn s c && actGet s (K.FUS_CH_CTRL_post c) == 1) = true then pollPost c s else s) v = v := by
    induction l with
    | nil => rfl
    | cons d l ih =>
      obtain ⟨hd, hne⟩ := hl d (List.mem_cons_self ..)
      have hoff : ¬(chanOn v d && actGet v (K.FUS_CH_CTRL_post d) == 1) = true := by
        rw [Bool.and_eq_true, beq_iff_eq, chanOn, actGet_congr hv, actGet_congr hv]
        exact fun h => hne ((hone d hd).1 h)
      rw [List.foldl_cons, if_neg hoff, ih fun e he => hl e (List.mem_cons_of_mem _ he)]
  have hsplit : List.range 32 = List.range c ++ c :: (List.range (31 - c)).map (c + 1 + ·) := by
    rw [show 32 = c + (1 + (31 - c)) by omega, List.range_add, List.range_add]
    simp
  refine congrArg Host.Outcome.next ((if_neg (by rw [applyWrites, List.foldl_nil, hr]; decide)).trans ?_)
  have hon : (chanOn s c && actGet s (K.FUS_CH_CTRL_post c) == 1) = true := by
    rw [Bool.and_eq_true, beq_iff_eq]
    exact (hone c hc).2 rfl
  rw [applyWrites, List.foldl_nil, hsplit, List.foldl_append, List.foldl_cons, hskip s rfl, if_pos hon, hskip _ ha]
  · intro d hd
    simp only [List.mem_map, List.mem_range] at hd
    omega
  · intro d hd
    rw [List.mem_range] at hd
    omega

theorem pollPost_idle {c : Nat} (h : fieldAt (realmRead s 0 (postCb s c) 8) 0 8 ≤ (chanOf s c).post ∨
    (chanOf s c).post + postSize c < fieldAt (realmRead s 0 (postCb s c) 8) 0 8) : pollPost c s = s := by
  refine if_pos ?_
  rw [Bool.or_eq_true, decide_eq_true_eq, decide_eq_true_eq]
  omega

/-! The integrator -/

/-- A tick of the integrator that is due, from the inputs latest at it (R293). -/
theorem egoAdmission_due {w : Nat × BitVec 16 × BitVec 16} {i : Nat × BitVec 16} (hr : running s = true) (hon : s.fus.ego.on = true)
    (hdue : s.fus.ego.next * 1000000 + 200000 ≤ tauNow s)
    (hw : (s.fus.ego.wheels.filter fun x => decide (x.1 ≤ s.fus.ego.next * 1000000)).head? = some w)
    (hi : (s.fus.ego.imus.filter fun x => decide (x.1 ≤ s.fus.ego.next * 1000000)).head? = some i) :
    let at_ := s.fus.ego.next * 1000000
    let o := egoStep s (s.fus.ego.poses.headD ⟨at_ - 1000000, 0, 0, f32One, f32Zero⟩) w.2.1 w.2.2 i.2 at_
    ∃ wheels imus slip, egoAdmission s = decideEgo at_ slip (regInc K.EGO_TICKS_count
      (modEgo (fun e => { e with
        next := e.next + 1, poses := (o.1 :: e.poses).take 2000, v := o.2.1, yaw := o.2.2, wheels := wheels, imus := imus })
      { s with freeCtr := s.freeCtr + 3 })) := by
  intro at_ o
  unfold egoAdmission
  rw [if_neg (by rw [hr, hon, decide_eq_false (Nat.not_lt.2 hdue)]; decide)]
  have hwheel : (latestAt (·.1) (s.fus.ego.next * 1000000) s.fus.ego.wheels).1 = some w := hw
  have himu : (latestAt (·.1) (s.fus.ego.next * 1000000) s.fus.ego.imus).1 = some i := hi
  refine ⟨(latestAt (·.1) at_ s.fus.ego.wheels).2, (latestAt (·.1) at_ s.fus.ego.imus).2, some (slips s w.2.1 w.2.2 i.2), ?_⟩
  dsimp only
  rw [hwheel, himu]
  rfl

/-- The ego source decided (R295): it stays, or changes and is told. -/
theorem decideEgo_cases (x : Nat) (slip : Option Bool) (s : State) : decideEgo x slip s = egoConds slip s ∨
    ∃ ev v, ev.cls = 0 ∧ decideEgo x slip s = raise .manager ev (regSet K.EGO_STATUS_source v (egoConds slip s)) := by
  unfold decideEgo
  extract_lets u e now conds lost back cur new
  split
  · exact .inl rfl
  · refine .inr ⟨_, new, ?_, rfl⟩
    rcases new with _ | _ | _ <;> rfl

/-- Of the integrator only what decides the source, its times, changes. -/
theorem decideEgo_parts (x : Nat) (slip : Option Bool) (s : State) :
    let t := decideEgo x slip s
    (t.fus.ego.next = s.fus.ego.next ∧ t.fus.ego.poses = s.fus.ego.poses ∧ t.fus.ego.v = s.fus.ego.v ∧ t.fus.ego.yaw = s.fus.ego.yaw) ∧
    t = { s with reg := t.reg, fus := { s.fus with ego := t.fus.ego }, hosts := t.hosts, mem := { s.mem with host := t.mem.host } } ∧
    RegsKept [K.EGO_STATUS_source] s t := by
  intro t
  have hego : (egoConds slip s).fus.ego.next = s.fus.ego.next ∧ (egoConds slip s).fus.ego.poses = s.fus.ego.poses ∧
      (egoConds slip s).fus.ego.v = s.fus.ego.v ∧ (egoConds slip s).fus.ego.yaw = s.fus.ego.yaw := ⟨rfl, rfl, rfl, rfl⟩
  have hf : egoConds slip s = { s with fus := { s.fus with ego := (egoConds slip s).fus.ego } } := rfl
  have ht : t = decideEgo x slip s := rfl
  have hcases := decideEgo_cases x slip s
  rw [← ht] at hcases
  clear_value t
  clear ht
  generalize egoConds slip s = u at hego hf hcases
  obtain ⟨ego, rfl⟩ : ∃ ego, u = { s with fus := { s.fus with ego := ego } } := ⟨_, hf⟩
  obtain rfl | ⟨ev, v, hcls, ht⟩ := hcases
  · exact ⟨hego, rfl, kept_refl _ s⟩
  · obtain ⟨hosts, host, hr⟩ := raise_inform .manager hcls (regSet K.EGO_STATUS_source v { s with fus := { s.fus with ego := ego } })
    rw [ht]
    refine ⟨by rw [raise_fus]; exact hego, ?_, kept_raise (kept_set (by simp) (kept_refl _ s))⟩
    rw [hr]
    rfl

/-- Settles O39: the records of a post stream by `readPost_post`, a step of the integrator by `egoAdmission_due`. -/
theorem postStreamsAndEgo : Obligations.PostStreamsAndEgo := by
  refine ⟨fun c s => ?post, fun s w i => ?step, fun s h => congrArg Host.Outcome.next (if_pos ?_)⟩
  case post =>
    intro prod hr hone
    have hexec : (pollPost c s).active = s.active → exec (.postStreamRead []) s = .next (pollPost c s) :=
      postStreamRead_one c.isLt hr fun d hd => (hone ⟨d, hd⟩).trans Fin.ext_iff
    refine ⟨fun hlt hle hcb => ?_, fun h => ?_⟩
    · generalize hu : readPost c prod ((prod - (chanOf s c).post) / 32) s = u
      have hparts := readPost_post c prod ((prod - (chanOf s c).post) / 32) s
      rw [hu] at hparts
      obtain ⟨hge, hmost, hothers, hact⟩ := hparts
      have hcb' : postCb u c = postCb s c := by simp only [postCb, actGet_congr hact]
      have hpoll : pollPost c s = realmWrite 0 (postCb s c + 8) (leBytes 8 (chanOf u c).post) u := by
        rw [← hcb', ← hu]
        exact if_neg (by rw [Bool.or_eq_true, decide_eq_true_eq, decide_eq_true_eq]; omega)
      have hfus : (pollPost c s).fus = u.fus := by rw [hpoll, realmWrite, if_neg (by omega)]
      have hchan (d : Nat) : chanOf (pollPost c s) d = chanOf u d := by rw [chanOf, hfus, chanOf]
      have hread : realmRead (pollPost c s) 0 (postCb s c + 8) 8 = leBytes 8 (chanOf u c).post := by
        have h := realmRead_stores (s := pollPost c s) (by omega) (hpoll ▸ stores_realmWrite (by rw [leBytes_length]; omega) (by rw [leBytes_length]; decide) u)
        rwa [leBytes_length] at h
      refine ⟨_, hexec ?_, ?_, ?_, ?_, fun d hd => ?_⟩
      · rw [hpoll, realmWrite, if_neg (by omega)]
        exact hact
      · rw [hchan]
        exact hge
      · rw [hchan]
        exact hmost (by omega)
      · rw [hread, fieldAt_leBytes, hchan]
        rfl
      · rw [hchan]
        exact hothers d hd
    · have hidle := pollPost_idle h
      have h := hexec (by rw [hidle])
      rwa [hidle] at h
  case step =>
    intro e at_ hr hon hdue hw hi
    obtain ⟨wheels, imus, slip, hstep⟩ := egoAdmission_due hr hon hdue hw hi
    obtain ⟨⟨hnext, hposes, hv, hyaw⟩, hf, hk⟩ := decideEgo_parts at_ slip (regInc K.EGO_TICKS_count
      (modEgo (fun e => { e with next := e.next + 1, poses := _, v := _, yaw := _, wheels := wheels, imus := imus }) { s with freeCtr := s.freeCtr + 3 }))
    refine ⟨_, congrArg Host.Outcome.next hstep, hnext, hposes, hv, hyaw, ?_, ?_, fun k hk' => ?_⟩
    · rw [hk _ (by grind), regGet_regInc_self]
      rfl
    · rw [hf]
      rfl
    · rw [hk k (by grind), regGet_regInc_ne _ (by grind)]
      rfl
  · rcases h with h | h | h <;> simp [h]

end Sys2Proof.Machine
end

section
/-! PROOFS. Records written into the packet rings of a realm's window (R272). -/

namespace Sys2Proof.Machine

variable {s t u : State}

/-! Bytes of a window -/

/-- What is stored stays where the next write does not meet it. -/
theorem stores_realmWrite_ne {r a b : Nat} {bs cs : List Byte} (ha : a + bs.length ≤ hostWinBase) (hb : b + cs.length ≤ hostWinBase) (hn : 0 < cs.length)
    (hd : a + bs.length ≤ b ∨ b + cs.length ≤ a) (h : Stores r a bs s.mem.win) : Stores r a bs (realmWrite r b cs s).mem.win := by
  have hbase : hostWinBase < mirrorKey := by decide
  have hkey (x : Nat) : winKey r x = 2 ^ 48 * r + x := rfl
  intro i hi
  obtain ⟨h1, h2⟩ := h i hi
  refine ⟨?_, fun hm => ?_⟩
  · rw [tget_realmWrite_ne (by omega) (by rw [hkey, hkey]; omega) (fun _ => by rw [hkey, hkey]; omega)]
    exact h1
  · rw [tget_realmWrite_ne (by omega) (by rw [hkey, hkey]; omega) (fun _ => by rw [hkey, hkey]; omega)]
    exact h2 hm

/-- The windows' memory alone changes where a realm's own window is written. -/
theorem realmWrite_own {r a : Nat} (bs : List Byte) (ha : a < hostWinBase) (s : State) : ∃ win poison,
    realmWrite r a bs s = { s with mem := { s.mem with win := win, poisonWin := poison } } := by
  rw [realmWrite, if_neg (Nat.not_le.2 ha)]
  split
  · exact ⟨_, _, rfl⟩
  · exact ⟨_, _, rfl⟩

/-! Rings -/

/-- The pad before a record of `n` bytes (R272). -/
abbrev ringPad (r : PktRing) (n : Nat) : Nat := if r.producer % r.size + n ≤ r.size then 0 else r.size - r.producer % r.size

/-- A pad record (R272). -/
abbrev padRecord (r : PktRing) (port n : Nat) : List Byte := leBytes 4 (ringPad r n - 32) ++ [2] ++ leBytes 1 port ++ zeros 26

/-- A ring's state after its pad record. -/
abbrev padded (r : PktRing) (port n : Nat) (s : State) : State :=
  if ringPad r n = 0 then s else realmWrite r.realm (4096 + r.cb + r.producer % r.size) (padRecord r port n) s

theorem putRing_free {r : PktRing} {bs : List Byte} (port : Nat) (h : RingFree r bs.length s) :
    putRing r port bs s = (realmWrite r.realm r.cb (leBytes 8 (ringAfter r bs.length))
      (realmWrite r.realm (4096 + r.cb + (r.producer + ringPad r bs.length) % r.size) bs (padded r port bs.length s)), some (ringAfter r bs.length)) := by
  obtain ⟨hcons, -, -, hfree⟩ := h
  rw [consOk, Bool.and_eq_true, decide_eq_true_eq, decide_eq_true_eq] at hcons
  obtain ⟨hle, -⟩ := hcons
  unfold putRing
  dsimp only
  rw [if_neg]
  · rfl
  · rw [ringAfter] at hfree
    omega

/-- Where a record of a ring lies: inside it, before its pad record where it has one. -/
theorem ring_place {r : PktRing} {n : Nat} (hs : 0 < r.size) (h : RingFree r n s) :
    (ringPad r n = 0 ∧ (r.producer + ringPad r n) % r.size = r.producer % r.size ∧ r.producer % r.size + n ≤ r.size) ∨
    (0 < ringPad r n ∧ (r.producer + ringPad r n) % r.size = 0 ∧ n ≤ r.producer % r.size ∧ ringPad r n = r.size - r.producer % r.size) := by
  obtain ⟨hcons, -, -, hfree⟩ := h
  rw [consOk, Bool.and_eq_true, decide_eq_true_eq, decide_eq_true_eq] at hcons
  obtain ⟨hle, -⟩ := hcons
  have hlt := Nat.mod_lt r.producer hs
  rw [ringAfter] at hfree
  by_cases hfits : r.producer % r.size + n ≤ r.size
  · exact .inl ⟨if_pos hfits, by rw [ringPad, if_pos hfits, Nat.add_zero], hfits⟩
  · have hpad : ringPad r n = r.size - r.producer % r.size := if_neg hfits
    rw [if_neg hfits] at hfree
    refine .inr ⟨by omega, ?_, by omega, hpad⟩
    have hdiv := Nat.div_add_mod r.producer r.size
    rw [hpad, show r.producer + (r.size - r.producer % r.size) = r.size * (r.producer / r.size + 1) by rw [Nat.mul_add]; omega, Nat.mul_mod_right]

/-- A byte that is none of a stretch lies before it or after it. -/
theorem winKey_outside {r a n k c : Nat} (h : ∀ i < n, k ≠ winKey r (a + i) + c) : k < winKey r a + c ∨ winKey r a + c + n ≤ k := by
  by_contra hc
  have hkey (x : Nat) : winKey r (a + x) = winKey r a + x := (Nat.add_assoc ..).symm
  refine h (k - (winKey r a + c)) (by omega) ?_
  rw [hkey]
  omega

theorem winKept_realmWrite {r a : Nat} {bs : List Byte} (ha : a < hostWinBase) (s : State) : WinKept r [(a, bs.length)] s (realmWrite r a bs s) := by
  intro k hk
  have hk := hk (a, bs.length) (List.mem_cons_self ..)
  refine tget_realmWrite_ne ha ?_ (fun hm => winKey_outside fun i hi => (hk i hi).2 hm) s
  exact winKey_outside (c := 0) fun i hi => (hk i hi).1

theorem WinKept.trans {r : Nat} {l m : List (Nat × Nat)} (h : WinKept r l s t) (g : WinKept r m t u) : WinKept r (l ++ m) s u := fun k hk =>
  (g k fun e he => hk e (List.mem_append_right _ he)).trans (h k fun e he => hk e (List.mem_append_left _ he))

theorem WinKept.mono {r : Nat} {l m : List (Nat × Nat)} (h : WinKept r l s t) (hlm : ∀ e ∈ l, e ∈ m) : WinKept r m s t := fun k hk =>
  h k fun e he => hk e (hlm e he)

theorem padRecord_length (r : PktRing) (port n : Nat) : (padRecord r port n).length = 32 := by simp [padRecord, zeros]

/-- A ring that has the space takes a record, with the windows' memory as `putRing` leaves it (R272). -/
theorem ringTakes_of_win {r : PktRing} {port : Nat} {bs : List Byte} (hs : 0 < r.size) (h32 : r.size % 32 = 0) (hb : 0 < bs.length)
    (h : RingFree r bs.length s) (hw : t.mem.win = (putRing r port bs s).1.mem.win) : RingTakes r port bs s t := by
  have hplace := ring_place hs h
  obtain ⟨-, hbase, hprod32, -⟩ := id h
  have hlt := Nat.mod_lt r.producer hs
  have hpos32 : r.producer % r.size % 32 = 0 := by
    rw [Nat.mod_mod_of_dvd _ (Nat.dvd_of_mod_eq_zero h32)]
    exact hprod32
  rw [putRing_free port h] at hw
  generalize hv : padded r port bs.length s = v at hw
  generalize hx : (r.producer + ringPad r bs.length) % r.size = x at hw hplace
  have hprod := stores_realmWrite (a := r.cb) (bs := leBytes 8 (ringAfter r bs.length)) (r := r.realm) (by rw [leBytes_length]; omega)
    (by rw [leBytes_length]; decide) (realmWrite r.realm (4096 + r.cb + x) bs v)
  have hrec := stores_realmWrite_ne (a := 4096 + r.cb + x) (bs := bs) (b := r.cb) (cs := leBytes 8 (ringAfter r bs.length)) (r := r.realm) (by omega)
    (by rw [leBytes_length]; omega) (by rw [leBytes_length]; decide) (by rw [leBytes_length]; omega) (stores_realmWrite (by omega) hb v)
  rw [← hw] at hprod hrec
  have hpad : ringPad r bs.length ≠ 0 → Stores r.realm (4096 + r.cb + r.producer % r.size) (padRecord r port bs.length) t.mem.win := fun hne => by
    have hlen := padRecord_length r port bs.length
    rw [hw]
    refine stores_realmWrite_ne (by omega) (by rw [leBytes_length]; omega) (by rw [leBytes_length]; decide) (by rw [leBytes_length]; omega)
      (stores_realmWrite_ne (by omega) (by omega) hb (by omega) ?_)
    rw [← hv, padded, if_neg hne]
    exact stores_realmWrite (by omega) (by omega) s
  have hkept : WinKept r.realm ([(r.cb, 8), (4096 + r.cb + x, bs.length)] ++
      if ringPad r bs.length = 0 then [] else [(4096 + r.cb + r.producer % r.size, 32)]) s t := by
    have hlen := padRecord_length r port bs.length
    have h1 : WinKept r.realm (if ringPad r bs.length = 0 then [] else [(4096 + r.cb + r.producer % r.size, 32)]) s v := by
      rw [← hv, padded]
      split
      · exact fun _ _ => rfl
      · have hk := winKept_realmWrite (r := r.realm) (a := 4096 + r.cb + r.producer % r.size) (bs := padRecord r port bs.length) (by omega) s
        rwa [hlen] at hk
    have h2 := winKept_realmWrite (r := r.realm) (a := 4096 + r.cb + x) (bs := bs) (by omega) v
    have h3 := winKept_realmWrite (r := r.realm) (a := r.cb) (bs := leBytes 8 (ringAfter r bs.length)) (by omega) (realmWrite r.realm (4096 + r.cb + x) bs v)
    rw [leBytes_length] at h3
    intro k hk
    rw [hw]
    refine ((h1.trans (h2.trans h3)).mono ?_) k hk
    simp only [List.mem_append, List.mem_cons, List.not_mem_nil, or_false]
    tauto
  have hread (a : Nat) (cs : List Byte) (ha : a < hostWinBase) (hc : Stores r.realm a cs t.mem.win) : realmRead t r.realm a cs.length = cs :=
    realmRead_stores ha hc
  have hcb := hread _ _ (by omega) hprod
  have hbs := hread _ _ (by omega) hrec
  rw [leBytes_length] at hcb
  rw [Nat.add_comm 4096, ← hx] at hbs hkept
  refine ⟨?_, fun hne => ?_, hbs, ?_⟩
  · rw [hcb, fieldAt_leBytes]
    rfl
  · have hlen := padRecord_length r port bs.length
    have h := hread _ _ (by omega) (hpad hne)
    rwa [hlen, Nat.add_comm 4096] at h
  · exact hkept

end Sys2Proof.Machine
end

section
/-! PROOFS. Fault records (R333, R339), SAFE_OFF and class D (R29, R33, R335). -/

namespace Sys2Proof.Machine

variable {s t u : State}

/-! Fault records -/

/-- The registers that fault records write (R339). -/
abbrev faultKeys : List Nat := [K.FAULT_LAST_source, K.FAULT_COUNT_c, K.FAULT_COUNT_d]

theorem recordFault_c (src : Nat) (s : State) : recordFault 3 src s = regMod K.FAULT_COUNT_c (satInc 255) (regSet K.FAULT_LAST_source src s) := rfl
theorem recordFault_d (src : Nat) (s : State) : recordFault 4 src s = regMod K.FAULT_COUNT_d (satInc 255) (regSet K.FAULT_LAST_source src s) := rfl

/-- Only registers hold a fault record. -/
theorem recordFault_regs (cls src : Nat) (s : State) :
    recordFault cls src s = { s with reg := (recordFault cls src s).reg } ∧ RegsKept faultKeys s (recordFault cls src s) := by
  have hlast : ∃ reg, (if 2 ≤ cls then regSet K.FAULT_LAST_source src s else s) = { s with reg := reg } ∧
      RegsKept faultKeys s { s with reg := reg } := by
    split
    · exact ⟨_, rfl, kept_set (by simp) (kept_refl _ s)⟩
    · exact ⟨_, rfl, kept_refl _ s⟩
  obtain ⟨reg, hreg, hk⟩ := hlast
  unfold recordFault
  dsimp only
  rw [hreg]
  split
  · exact ⟨rfl, kept_mod (by simp) hk⟩
  · split
    · exact ⟨rfl, kept_mod (by simp) hk⟩
    · exact ⟨rfl, hk⟩

/-- An event that is the record of its detection: its class is the last, its registers those of the record. -/
theorem raiseFault_parts (d : EvDest) {e : Ev} (h : 1 ≤ e.cls) (s : State) : ∃ hosts host,
    raiseFault d e s = { s with reg := (recordFault e.cls e.src s).reg, hosts := hosts, mem := { s.mem with host := host }, lastClass := e.cls } := by
  obtain ⟨hosts, host, cls, ht⟩ := raise_told d e (recordFault e.cls e.src s)
  have hc : (raiseFault d e s).lastClass = e.cls := by
    refine (foldl_keeps State.lastClass _ (fun t p => sendEvent_lastClass p e t) _).trans ?_
    rw [if_pos h]
  obtain ⟨hf, -⟩ := recordFault_regs e.cls e.src s
  have ht' : raiseFault d e s = _ := ht
  obtain rfl : cls = e.cls := by rw [← hc, ht']
  refine ⟨hosts, host, ht'.trans ?_⟩
  generalize recordFault e.cls e.src s = v at hf
  obtain ⟨reg, rfl⟩ : ∃ reg, v = { s with reg := reg } := ⟨_, hf⟩
  rfl

theorem raiseFault_reg (d : EvDest) (e : Ev) (s : State) : (raiseFault d e s).reg = (recordFault e.cls e.src s).reg := raise_reg ..

theorem raiseFault_kept {ks : List Nat} {d : EvDest} {e : Ev} (hks : ∀ k ∈ faultKeys, k ∈ ks) (h : RegsKept ks s t) : RegsKept ks s (raiseFault d e t) :=
  kept_raise fun k hk => ((recordFault_regs e.cls e.src t).2 k fun hm => hk (hks k hm)).trans (h k hk)

/-- What a fault record and its event leave, of whatever class. -/
theorem raiseFault_told (d : EvDest) (e : Ev) (s : State) :
    ∃ hosts host cls, raiseFault d e s = { s with reg := (recordFault e.cls e.src s).reg, hosts := hosts, mem := { s.mem with host := host }, lastClass := cls } := by
  obtain ⟨hosts, host, cls, ht⟩ := raise_told d e (recordFault e.cls e.src s)
  obtain ⟨hf, -⟩ := recordFault_regs e.cls e.src s
  refine ⟨hosts, host, cls, ht.trans ?_⟩
  generalize recordFault e.cls e.src s = v at hf
  obtain ⟨reg, rfl⟩ : ∃ reg, v = { s with reg := reg } := ⟨_, hf⟩
  rfl

@[simp] theorem raiseFault_op (d : EvDest) (e : Ev) (s : State) : (raiseFault d e s).op = s.op := by
  obtain ⟨_, _, _, h⟩ := raiseFault_told d e s
  rw [h]
@[simp] theorem raiseFault_boot (d : EvDest) (e : Ev) (s : State) : (raiseFault d e s).boot = s.boot := by
  obtain ⟨_, _, _, h⟩ := raiseFault_told d e s
  rw [h]
@[simp] theorem raiseFault_dpx (d : EvDest) (e : Ev) (s : State) : (raiseFault d e s).dpx = s.dpx := by
  obtain ⟨_, _, _, h⟩ := raiseFault_told d e s
  rw [h]
@[simp] theorem raiseFault_isl (d : EvDest) (e : Ev) (s : State) : (raiseFault d e s).isl = s.isl := by
  obtain ⟨_, _, _, h⟩ := raiseFault_told d e s
  rw [h]
@[simp] theorem raiseFault_jobs (d : EvDest) (e : Ev) (s : State) : (raiseFault d e s).jobs = s.jobs := by
  obtain ⟨_, _, _, h⟩ := raiseFault_told d e s
  rw [h]
@[simp] theorem raiseFault_engines (d : EvDest) (e : Ev) (s : State) : (raiseFault d e s).engines = s.engines := by
  obtain ⟨_, _, _, h⟩ := raiseFault_told d e s
  rw [h]
@[simp] theorem raiseFault_links (d : EvDest) (e : Ev) (s : State) : (raiseFault d e s).links = s.links := by
  obtain ⟨_, _, _, h⟩ := raiseFault_told d e s
  rw [h]
@[simp] theorem raiseFault_thm (d : EvDest) (e : Ev) (s : State) : (raiseFault d e s).thm = s.thm := by
  obtain ⟨_, _, _, h⟩ := raiseFault_told d e s
  rw [h]
@[simp] theorem raiseFault_active (d : EvDest) (e : Ev) (s : State) : (raiseFault d e s).active = s.active := by
  obtain ⟨_, _, _, h⟩ := raiseFault_told d e s
  rw [h]

/-! SAFE_OFF and class D -/

/-- The registers that the way into SAFE_OFF writes. -/
abbrev offKeys : List Nat := [K.BOOT_STATUS_phase, K.BOOT_STATUS_code]

/-- What an entry to SAFE_OFF keeps besides the registers: the ports, the islands but for what they have gated, the engines out, the sensors, the links. -/
structure Offed (s t : State) : Prop where
  op : t.op = .safeOff
  boot : t.boot = s.boot
  hosts : t.hosts = s.hosts
  host : t.mem.host = s.mem.host
  isl : t.isl = { s.isl with gated := t.isl.gated }
  engOut : t.dpx.engOut = s.dpx.engOut
  thm : t.thm = s.thm
  links : t.links = s.links
  active : t.active = s.active
  regs : RegsKept offKeys s t

theorem enterSafeOff_offed (s : State) : Offed s (enterSafeOff s) :=
  ⟨rfl, rfl, rfl, rfl, rfl, rfl, rfl, rfl, rfl, kept_reg (t := s) rfl (kept_refl _ s)⟩

theorem Offed.of_regs (h : Offed u t) (hu : u = { s with reg := u.reg }) (hk : RegsKept offKeys s u) : Offed s t := by
  obtain ⟨reg, rfl⟩ : ∃ reg, u = { s with reg := reg } := ⟨_, hu⟩
  exact ⟨h.op, h.boot, h.hosts, h.host, h.isl, h.engOut, h.thm, h.links, h.active, fun k hk' => (h.regs k hk').trans (hk k hk')⟩

theorem safeOffFor_offed (cause : Nat) (s : State) : Offed s (safeOffFor cause s) := by
  have hcode : ∀ v, v = { s with reg := v.reg } ∧ RegsKept offKeys s v → Offed s (enterSafeOff v) := fun v hv =>
    (enterSafeOff_offed v).of_regs hv.1 hv.2
  unfold safeOffFor
  split
  · rename_i h
    exact ⟨h, rfl, rfl, rfl, rfl, rfl, rfl, rfl, rfl, kept_refl _ s⟩
  · refine hcode _ ?_
    split
    · split
      · exact ⟨rfl, kept_set (by simp) (kept_set (by simp) (kept_refl _ s))⟩
      · exact ⟨rfl, kept_set (by simp) (kept_refl _ s)⟩
    · exact ⟨rfl, kept_refl _ s⟩

/-- The registers that a class D detection writes. -/
abbrev classDKeys : List Nat := offKeys ++ faultKeys

theorem classD_parts {cause src : Nat} (h : powered s = true) : classD cause src s = safeState cause src (safeOffFor cause s) := if_pos h

@[simp] theorem classD_op {cause src : Nat} (h : powered s = true) : (classD cause src s).op = .safeOff := by
  rw [classD_parts h, safeState, raiseFault_op, (safeOffFor_offed cause s).op]

theorem classD_engOut (cause src : Nat) (s : State) : (classD cause src s).dpx.engOut = s.dpx.engOut := by
  unfold classD
  split
  · rw [safeState, raiseFault_dpx, (safeOffFor_offed cause s).engOut]
  · rfl

theorem classD_kept {ks : List Nat} {cause src : Nat} (hks : ∀ k ∈ classDKeys, k ∈ ks) (h : RegsKept ks s t) : RegsKept ks s (classD cause src t) := by
  unfold classD
  split
  · refine raiseFault_kept (fun k hk => hks k (List.mem_append_right _ hk)) fun k hk => ?_
    exact ((safeOffFor_offed cause t).regs k fun hm => hk (hks k (List.mem_append_left _ hm))).trans (h k hk)
  · exact h

/-- A class D detection leaves the count of class C. -/
theorem classD_countC (cause src : Nat) (s : State) : regGet (classD cause src s) K.FAULT_COUNT_c = regGet s K.FAULT_COUNT_c := by
  unfold classD
  split
  · rw [safeState, regGet_congr (raiseFault_reg ..), recordFault_d, regGet_regMod_ne _ _ (by grind), regGet_regSet_ne _ _ (by grind),
      (safeOffFor_offed cause s).regs _ (by grind)]
  · rfl

end Sys2Proof.Machine
end

section
/-! PROOFS. Fusion services: admission, release, missing streams, golden workloads (R289, R297, R298, R310, R312, R318). -/

namespace Sys2Proof.Machine

variable {s t u : State}

/-! Admission -/

/-- Channels that each change once. -/
theorem chanOf_foldl_modChan {l : List Nat} (hl : l.Nodup) (f : Channel → Channel) (s : State) (c : Nat) :
    chanOf (l.foldl (fun s c => modChan c f s) s) c = if c ∈ l then f (chanOf s c) else chanOf s c := by
  induction l generalizing s with
  | nil => simp
  | cons q l ih =>
    obtain ⟨hq, hl⟩ := List.nodup_cons.1 hl
    rw [List.foldl_cons, ih hl]
    by_cases h : c = q
    · subst h
      rw [if_neg hq, chanOf_modChan_self, if_pos (List.mem_cons_self ..)]
    · rw [chanOf_modChan_ne _ h]
      simp [h]

theorem foldl_modChan_frame (l : List Nat) (f : Channel → Channel) (s : State) :
    let t := l.foldl (fun s c => modChan c f s) s
    t = { s with fus := { s.fus with chans := t.fus.chans } } := by
  induction l generalizing s with
  | nil => rfl
  | cons c l ih => exact (ih _).trans rfl

theorem noteMotion_frame (x : FusIn) (s : State) : noteMotion x s = { s with fus := { s.fus with motions := (noteMotion x s).fus.motions } } := by
  unfold noteMotion
  dsimp only
  split <;> rfl

/-- A channel with an instant admitted (R290). -/
abbrev admits (x : Nat) (y : Channel) : Channel := { y with admitted := some (max x (y.admitted.getD 0)) }

/-- The channels of an admission marked. -/
abbrev marked (k x : Nat) (s : State) : State := (svcChans s k).foldl (fun s c => modChan c (admits x) s) s

theorem chanOf_marked (k x : Nat) (s : State) (c : Nat) :
    chanOf (marked k x s) c = if c < 32 ∧ bitOf (actGet s (K.FUS_SVC_MASK_channels k)) c = true then admits x (chanOf s c) else chanOf s c := by
  have hl : (svcChans s k).Nodup := List.nodup_range.filter _
  rw [marked, chanOf_foldl_modChan hl]
  simp only [svcChans, List.mem_filter, List.mem_range]

/-- What an admission marks and decides (R289, R290, R295). -/
theorem admitSet_parts (k x n : Nat) (s : State) :
    let t := (admitSet k x n s).1
    (∀ c, chanOf t c = if c < 32 ∧ bitOf (actGet s (K.FUS_SVC_MASK_channels k)) c = true then admits x (chanOf s c) else chanOf s c) ∧
    t = { s with reg := t.reg, hosts := t.hosts, mem := { s.mem with host := t.mem.host },
                 fus := { s.fus with chans := t.fus.chans, ego := t.fus.ego, motions := t.fus.motions } } ∧
    RegsKept [K.EGO_STATUS_source] s t := by
  intro t
  obtain ⟨-, hf, hk⟩ := decideEgo_parts x none s
  generalize hv : decideEgo x none s = v at hf hk
  obtain ⟨reg, ego, hosts, host, rfl⟩ : ∃ reg ego hosts host, v =
      { s with reg := reg, fus := { s.fus with ego := ego }, hosts := hosts, mem := { s.mem with host := host } } := ⟨_, _, _, _, hf⟩
  generalize hw : marked k x { s with reg := reg, fus := { s.fus with ego := ego }, hosts := hosts, mem := { s.mem with host := host } } = w
  have hchan := fun c => congrArg (chanOf · c) hw
  obtain ⟨chans, rfl⟩ : ∃ chans, w = { s with reg := reg, fus := { s.fus with ego := ego, chans := chans }, hosts := hosts, mem := { s.mem with host := host } } :=
    ⟨_, hw.symm.trans (foldl_modChan_frame ..)⟩
  obtain ⟨motions, ht⟩ : ∃ motions,
      t = { s with reg := reg, hosts := hosts, mem := { s.mem with host := host }, fus := { s.fus with ego := ego, chans := chans, motions := motions } } :=
    ⟨_, Eq.trans (b := noteMotion _ (marked k x (decideEgo x none s))) rfl ((congrArg _ ((congrArg _ hv).trans hw)).trans (noteMotion_frame _ _))⟩
  rw [ht]
  refine ⟨fun c => (hchan c).symm.trans (chanOf_marked ..), rfl, hk⟩

theorem fusionAdmission_early {k x n : Nat} {rest : List (Nat × Nat)} (hd : (svcOf s k).due = (x, n) :: rest)
    (h : running s = false ∨ tauNow s < x + admitWait s) : fusionAdmission k s = s := by
  unfold fusionAdmission
  rw [hd]
  refine if_pos ?_
  rcases h with h | h <;> simp [h]

/-- An instant admitted in its turn (R289). -/
theorem fusionAdmission_due {k x n : Nat} {rest : List (Nat × Nat)} (hd : (svcOf s k).due = (x, n) :: rest) (hr : running s = true)
    (ht : x + admitWait s ≤ tauNow s) : ∃ o u, o.instant = x ∧ o.seq = n ∧ o.out = actGet s (K.FUS_SVC_CTRL_out k) ∧ o.replay = false ∧ o.noPlan = none ∧
      u = (admitSet k x n (modSvc k (fun v => { v with due := rest }) s)).1 ∧
      fusionAdmission k s = modSvc k (fun v => { v with work := v.work ++ [⟨o, none, none, false⟩] }) u := by
  have hact : (admitSet k x n (modSvc k (fun v => { v with due := rest }) s)).1.active = s.active := by
    obtain ⟨-, hf, -⟩ := admitSet_parts k x n (modSvc k (fun v => { v with due := rest }) s)
    rw [hf]
    rfl
  refine ⟨fusedOutcome (admitSet k x n (modSvc k (fun v => { v with due := rest }) s)).1 k
    (admitSet k x n (modSvc k (fun v => { v with due := rest }) s)).2 false 0 0, _, rfl, rfl, actGet_congr hact _, rfl, rfl, rfl, ?_⟩
  unfold fusionAdmission
  rw [hd]
  refine if_neg ?_
  rw [hr, decide_eq_false (Nat.not_lt.2 ht)]
  decide

theorem fusionAdmission_parts {k x n : Nat} {rest : List (Nat × Nat)} (hd : (svcOf s k).due = (x, n) :: rest) (hr : running s = true)
    (ht : x + admitWait s ≤ tauNow s) :
    let t := fusionAdmission k s
    (∃ o, svcOf t k = { svcOf s k with due := rest, work := (svcOf s k).work ++ [⟨o, none, none, false⟩] } ∧ o.instant = x ∧ o.seq = n ∧
      o.out = actGet s (K.FUS_SVC_CTRL_out k) ∧ o.replay = false ∧ o.noPlan = none) ∧
    (∀ j, j ≠ k → svcOf t j = svcOf s j) ∧
    (∀ c, chanOf t c = if c < 32 ∧ bitOf (actGet s (K.FUS_SVC_MASK_channels k)) c = true then admits x (chanOf s c) else chanOf s c) ∧
    t = { s with reg := t.reg, hosts := t.hosts, mem := { s.mem with host := t.mem.host },
                 fus := { s.fus with svcs := t.fus.svcs, chans := t.fus.chans, ego := t.fus.ego, motions := t.fus.motions } } ∧
    RegsKept [K.EGO_STATUS_source] s t := by
  obtain ⟨o, u, h1, h2, h3, h4, h5, hu, ht⟩ := fusionAdmission_due hd hr ht
  obtain ⟨hchan, hf, hk⟩ := admitSet_parts k x n (modSvc k (fun v => { v with due := rest }) s)
  rw [← hu] at hchan hf hk
  clear hu
  have hsvc : ∀ j, svcOf u j = svcOf (modSvc k (fun v => { v with due := rest }) s) j := fun j => by
    rw [hf]
    rfl
  rw [ht]
  refine ⟨⟨o, ?_, h1, h2, h3, h4, h5⟩, fun j hj => ?_, hchan, ?_, hk⟩
  · rw [svcOf_modSvc_self, hsvc, svcOf_modSvc_self]
  · rw [svcOf_modSvc_ne _ _ hj, hsvc, svcOf_modSvc_ne _ _ hj]
  · rw [hf]
    rfl

/-! Release -/

theorem letGo_frame (e : Nat) (s : State) : letGo e s = { s with frame := (letGo e s).frame } := by
  unfold letGo
  split <;> rfl

/-- A state that differs from another in what the output streams, their rings and their events touch. -/
structure Outputs (s t : State) : Prop where
  frame : t = { s with fus := { s.fus with outs := t.fus.outs }, reg := t.reg, hosts := t.hosts,
                       mem := { s.mem with host := t.mem.host, win := t.mem.win, poisonWin := t.mem.poisonWin } }

theorem Outputs.refl (s : State) : Outputs s s := ⟨rfl⟩

theorem Outputs.trans (h : Outputs s t) (g : Outputs t u) : Outputs s u := by
  obtain ⟨outs, reg, hosts, host, win, poison, rfl⟩ : ∃ outs reg hosts host win poison, t = { s with fus := { s.fus with outs := outs }, reg := reg, hosts := hosts, mem := { s.mem with host := host, win := win, poisonWin := poison } } :=
    ⟨_, _, _, _, _, _, h.frame⟩
  exact ⟨g.frame⟩

theorem Outputs.raise {d : EvDest} {e : Ev} (he : e.cls = 0) (h : Outputs s t) : Outputs s (raise d e t) := by
  obtain ⟨hosts, host, hr⟩ := raise_inform d he t
  refine h.trans ⟨?_⟩
  rw [hr]

theorem Outputs.out {o : Nat} {f : OutStream → OutStream} (h : Outputs s t) : Outputs s (modOut o f t) := h.trans ⟨rfl⟩

theorem Outputs.inc {k : Nat} (h : Outputs s t) : Outputs s (regInc k t) := h.trans ⟨rfl⟩

theorem realmWrite_outputs (r a : Nat) (bs : List Byte) (s : State) : Outputs s (realmWrite r a bs s) := by
  unfold realmWrite dmaWrite
  split
  · split
    · exact ⟨rfl⟩
    · exact ⟨rfl⟩
  · split
    · exact ⟨rfl⟩
    · exact ⟨rfl⟩

theorem putRing_outputs (r : PktRing) (port : Nat) (bs : List Byte) (s : State) : Outputs s (putRing r port bs s).1 := by
  unfold putRing
  extract_lets pos pad base u
  split
  · exact .refl s
  · refine Outputs.trans ?_ (realmWrite_outputs ..)
    refine Outputs.trans ?_ (realmWrite_outputs ..)
    unfold u
    split
    · exact .refl s
    · exact realmWrite_outputs ..

theorem outOpen_outputs (o : Nat) (s : State) : Outputs s (outOpen o s).1 := by
  unfold outOpen
  dsimp only
  split
  · exact (Outputs.refl s).out
  · split
    · exact .refl s
    · exact (Outputs.refl s).out.raise rfl

theorem dropOut_outputs (o x n : Nat) (s : State) : Outputs s (dropOut o x n s) := by
  unfold dropOut
  exact ((Outputs.refl s).out.inc).raise rfl

theorem putOutGap_outputs (o port : Nat) (s : State) : Outputs s (putOutGap o port s).1 := by
  unfold putOutGap
  split
  · exact .refl s
  · rename_i g hg
    have h := putRing_outputs (outRing s o) port (gapRecord port g) s
    split
    · rename_i v hv
      rwa [hv] at h
    · rename_i v prod hv
      rw [hv] at h
      exact (Outputs.out h).trans (realmWrite_outputs ..)

theorem outWritten_outputs (o : Nat) (s : State) : Outputs s (outWritten o s) := by
  unfold outWritten
  dsimp only
  split
  · exact (Outputs.refl s).out.raise rfl
  · exact (Outputs.refl s).out

theorem countStale_outputs (oc : Outcome) (s : State) : Outputs s (countStale oc s) := by
  unfold countStale
  split
  · exact (Outputs.refl s).inc
  · exact .refl s

theorem writeOut_outputs (port : Nat) (oc : Outcome) (simplex : Bool) (s : State) : Outputs s (writeOut port oc simplex s) := by
  unfold writeOut
  extract_lets o st payload u
  have hu : Outputs s u := countStale_outputs oc s
  split
  · exact .refl s
  · have hopen := hu.trans (outOpen_outputs o u)
    split
    · rename_i v hv
      rw [hv] at hopen
      exact hopen.trans (dropOut_outputs ..)
    · rename_i v hv
      rw [hv] at hopen
      have hgap := hopen.trans (putOutGap_outputs o port v)
      split
      · rename_i w hw
        rw [hw] at hgap
        exact hgap.trans (dropOut_outputs ..)
      · rename_i w hw
        rw [hw] at hgap
        have hput := hgap.trans (putRing_outputs (outRing w o) port (recHeader payload.length 0 port 0 0 st 0 ++ payload ++
            zeros (roundUp payload.length 32 - payload.length)) w)
        split
        · rename_i x hx
          rw [hx] at hput
          exact hput.trans (dropOut_outputs ..)
        · rename_i x prod hx
          rw [hx] at hput
          exact hput.out.trans (outWritten_outputs ..)

/-- A read of a realm's own window, where the window, the dies in service and the active bank are the same. -/
theorem realmRead_congr {r a : Nat} (ha : a < hostWinBase) (hw : t.mem.win = s.mem.win) (hact : t.active = s.active)
    (hd : regGet t K.ID_DIES_in_service = regGet s K.ID_DIES_in_service) (n : Nat) : realmRead t r a n = realmRead s r a n := by
  have hpartner (q : Nat) : partnerOf t q = partnerOf s q := by rw [partnerOf, actGet_congr hact, partnerOf]
  have hdie : dieIn t = dieIn s := funext fun d => by rw [dieIn, hd, dieIn]
  have hcopy (q : Nat) : sideCopy t q = sideCopy s q := by rw [sideCopy, quarterCopies, hpartner, hdie, sideCopy, quarterCopies]
  have hq (x : Nat) : quarterOf t x = quarterOf s x := by simp only [quarterOf, actGet_congr hact]
  rw [realmRead, realmRead, if_neg (Nat.not_le.2 ha), if_neg (Nat.not_le.2 ha)]
  simp only [hw, hcopy, hq]

/-- A ring's space is free in a state that has the same window, dies and active bank. -/
theorem RingFree.congr {r : PktRing} {n : Nat} (h : RingFree r n s) (hw : t.mem.win = s.mem.win) (hact : t.active = s.active)
    (hd : regGet t K.ID_DIES_in_service = regGet s K.ID_DIES_in_service) : RingFree r n t := by
  obtain ⟨hc, hb, hp, hf⟩ := h
  have hs : 8 < r.cb + 4096 + r.size := by omega
  have hcons : ringCons t r = ringCons s r := by
    rw [ringCons, realmRead_congr (by omega) hw hact hd, ringCons]
  exact ⟨by rwa [consOk, hcons], hb, hp, by rwa [hcons]⟩

@[simp] theorem outOf_modOut_self (o : Nat) (f : OutStream → OutStream) (s : State) : outOf (modOut o f s) o = f (outOf s o) := tget_tmod_self ..
theorem outOf_modOut_ne {o q : Nat} (f : OutStream → OutStream) (h : q ≠ o) (s : State) : outOf (modOut o f s) q = outOf s q := tget_tmod_ne _ _ f h _

theorem outRing_congr (o : Nat) (hact : t.active = s.active) (hp : (outOf t o).producer = (outOf s o).producer) : outRing t o = outRing s o := by
  simp only [outRing, actGet_congr hact, hp]

/-- The record of a result in its output stream (R298). -/
abbrev outRecord (port : Nat) (oc : Outcome) (simplex : Bool) (s : State) : List Byte :=
  let payload := sealedRecord oc (stampNow s) (outMarks s oc simplex) ++ oc.adm
  recHeader payload.length 0 port 0 0 (stampNow s) 0 ++ payload ++ zeros (roundUp payload.length 32 - payload.length)

/-- The state in which a result's record is written: a STALE mark counted, the stream open. -/
abbrev outStarts (oc : Outcome) (s : State) : State := modOut oc.out (fun x => { x with stopped := false }) (countStale oc s)

theorem countStale_parts (oc : Outcome) (s : State) :
    countStale oc s = { s with reg := (countStale oc s).reg } ∧ RegsKept [K.OUT_STALE_count oc.out] s (countStale oc s) := by
  unfold countStale
  split
  · exact ⟨rfl, kept_inc (by simp) (kept_refl _ s)⟩
  · exact ⟨rfl, kept_refl _ s⟩

/-- A result written into an open stream that has the space and no gap (R298). -/
theorem writeOut_free {port : Nat} {oc : Outcome} {simplex : Bool} (ho : oc.out < 6) (hg : (outOf s oc.out).gap = none)
    (h : RingFree (outRing s oc.out) (outRecord port oc simplex s).length s) :
    writeOut port oc simplex s = outWritten oc.out (modOut oc.out (fun x => { x with producer := ringAfter (outRing s oc.out) (outRecord port oc simplex s).length })
      (putRing (outRing s oc.out) port (outRecord port oc simplex s) (outStarts oc s)).1) := by
  obtain ⟨hf, hk⟩ := countStale_parts oc s
  have hd : regGet (countStale oc s) K.ID_DIES_in_service = regGet s K.ID_DIES_in_service := hk _ (by grind)
  have hfree : RingFree (outRing s oc.out) (outRecord port oc simplex s).length (countStale oc s) := h.congr (by rw [hf]) (by rw [hf]) hd
  have hout : outOf (countStale oc s) oc.out = outOf s oc.out := by
    rw [hf]
    rfl
  have hring : outRing (countStale oc s) oc.out = outRing s oc.out := outRing_congr _ (by rw [hf]) (by rw [hout])
  have hring' : outRing (outStarts oc s) oc.out = outRing s oc.out := by
    rw [outRing_congr (t := outStarts oc s) (s := countStale oc s) _ rfl (by rw [outOf_modOut_self]), hring]
  have hput := putRing_free (s := outStarts oc s) port (h.congr (by rw [outStarts, hf]; rfl) (by rw [outStarts, hf]; rfl) hd)
  have hopen : outOpen oc.out (countStale oc s) = (outStarts oc s, true) := by
    unfold outOpen
    rw [hring]
    exact if_pos hfree.1
  have hgap : putOutGap oc.out port (outStarts oc s) = (outStarts oc s, true) := by
    unfold putOutGap
    rw [outOf_modOut_self, hout]
    dsimp only
    rw [hg]
  unfold writeOut
  rw [if_neg (Nat.not_le.2 ho)]
  dsimp only
  rw [hopen]
  dsimp only
  rw [hgap]
  dsimp only
  rw [hring']
  dsimp only [outRecord] at hput ⊢
  rw [hput]

theorem outWritten_parts (o : Nat) (s : State) :
    (outWritten o s).fus = (modOut o (fun x => { x with last := some (tauNow s), missing := false }) s).fus ∧ (outWritten o s).mem.win = s.mem.win := by
  unfold outWritten
  dsimp only
  split
  · obtain ⟨hosts, host, h⟩ := raise_inform .manager (e := ⟨0x0507, 0, false, iodSteward, o, 0, tauNow (modOut o (fun x => { x with last := some (tauNow s), missing := false }) s)⟩) rfl
      (modOut o (fun x => { x with last := some (tauNow s), missing := false }) s)
    rw [h]
    exact ⟨rfl, rfl⟩
  · exact ⟨rfl, rfl⟩

/-- Records written into a ring of a realm's own window touch the windows' memory alone. -/
theorem putRing_frame {r : PktRing} {port : Nat} {bs : List Byte} (hs : 0 < r.size) (h : RingFree r bs.length s) : ∃ win poison,
    (putRing r port bs s).1 = { s with mem := { s.mem with win := win, poisonWin := poison } } := by
  have hplace := ring_place hs h
  obtain ⟨-, hbase, -, -⟩ := id h
  have hlt := Nat.mod_lt r.producer hs
  have hpad : ∃ win poison, padded r port bs.length s = { s with mem := { s.mem with win := win, poisonWin := poison } } := by
    unfold padded
    split
    · exact ⟨_, _, rfl⟩
    · exact realmWrite_own _ (by omega) s
  obtain ⟨win, poison, hv⟩ := hpad
  rw [putRing_free port h, hv]
  generalize (r.producer + ringPad r bs.length) % r.size = x at hplace
  obtain ⟨win', poison', hw⟩ := realmWrite_own (r := r.realm) (a := 4096 + r.cb + x) bs (by omega) { s with mem := { s.mem with win := win, poisonWin := poison } }
  obtain ⟨win'', poison'', hx⟩ := realmWrite_own (r := r.realm) (a := r.cb) (leBytes 8 (ringAfter r bs.length)) (by omega)
    { s with mem := { s.mem with win := win', poisonWin := poison' } }
  refine ⟨win'', poison'', ?_⟩
  dsimp only at hw ⊢
  rw [hw]
  exact hx

theorem outRing_size (s : State) (o : Nat) : 0 < (outRing s o).size ∧ (outRing s o).size % 32 = 0 := by
  have h : ∃ k, clampNat 16 30 (actGet s (K.OUT_SIZE_log2 o)) = 5 + k := Nat.exists_eq_add_of_le (by unfold clampNat; split <;> (try split) <;> omega)
  obtain ⟨k, hk⟩ := h
  have hsize : (outRing s o).size = 32 * 2 ^ k := by rw [outRing, hk, Nat.pow_add]
  rw [hsize]
  exact ⟨by positivity, Nat.mul_mod_right ..⟩

/-- What a result written leaves of its stream and the ring (R272, R298). -/
theorem writeOut_takes {port : Nat} {oc : Outcome} {simplex : Bool} (ho : oc.out < 6) (hg : (outOf s oc.out).gap = none)
    (h : RingFree (outRing s oc.out) (outRecord port oc simplex s).length s) :
    let t := writeOut port oc simplex s
    outOf t oc.out = { outOf s oc.out with producer := ringAfter (outRing s oc.out) (outRecord port oc simplex s).length, stopped := false,
                                            last := some (tauNow s), missing := false } ∧
    RingTakes (outRing s oc.out) port (outRecord port oc simplex s) s t := by
  obtain ⟨hf, hk⟩ := countStale_parts oc s
  obtain ⟨hs, h32⟩ := outRing_size s oc.out
  have hmem : (outStarts oc s).mem = s.mem := by
    rw [outStarts, hf]
    rfl
  have hout : outOf (countStale oc s) oc.out = outOf s oc.out := by
    rw [hf]
    rfl
  have hfree : RingFree (outRing s oc.out) (outRecord port oc simplex s).length (outStarts oc s) :=
    h.congr (by rw [hmem]) (by rw [outStarts, hf]; rfl) (hk _ (by grind))
  have hlen : 0 < (outRecord port oc simplex s).length := by simp [recHeader]
  obtain ⟨win, poison, hput⟩ := putRing_frame (port := port) hs hfree
  intro t
  have ht : t = writeOut port oc simplex s := rfl
  rw [writeOut_free ho hg h] at ht
  clear_value t
  generalize hv : (putRing (outRing s oc.out) port (outRecord port oc simplex s) (outStarts oc s)).1 = v at ht hput
  obtain ⟨hfus, hwin⟩ := outWritten_parts oc.out (modOut oc.out (fun x => { x with producer := ringAfter (outRing s oc.out) (outRecord port oc simplex s).length }) v)
  rw [← ht] at hfus hwin
  constructor
  · have hvout : outOf v oc.out = { outOf s oc.out with stopped := false } := by
      rw [hput]
      exact (outOf_modOut_self ..).trans (by rw [hout])
    have htau : tauNow (modOut oc.out (fun x => { x with producer := ringAfter (outRing s oc.out) (outRecord port oc simplex s).length }) v) = tauNow s := by
      have hunits : (outStarts oc s).tbUnits = s.tbUnits := by
        rw [outStarts, hf]
        rfl
      rw [hput]
      exact congrArg (· / 2 ^ 32) hunits
    rw [outOf, hfus, ← outOf, outOf_modOut_self, outOf_modOut_self, hvout, htau]
  · obtain ⟨h1, h2, h3, h4⟩ := ringTakes_of_win hs h32 hlen hfree (t := t) (hwin.trans (by rw [hv]; rfl))
    exact ⟨h1, h2, h3, fun k hk => (h4 k hk).trans (by rw [hmem])⟩

/-! The results of the fusion engines -/

/-- The engine of a side's fusion. -/
abbrev sideEngine (side : Side) : Nat := if side = .a then 0 else 1

/-- Whether a side's engine has sent its digest. -/
abbrev sideSent (side : Side) (w : Pend) : Bool := if side = .a then w.digA.isSome else w.digB.isSome

/-- A result whose digest a side has sent. -/
def sends (side : Side) (d : List Byte) (w : Pend) : Pend :=
  match side with
  | .a => { w with digA := some d }
  | .b => { w with digB := some d }

theorem fusionResult_waits {k : Nat} {side : Side} {fault : Option (List Byte)} {w : Pend} {rest : List Pend} (hw : (svcOf s k).work = w :: rest)
    (h : running s = false ∨ engineServes s (sideEngine side) = false ∨ sideSent side w = true ∨ mayGo s (sideEngine side) = false) :
    fusionResult k side fault s = s := by
  unfold fusionResult
  rw [hw]
  refine if_pos (show (!running s || !engineServes s (sideEngine side) || sideSent side w || !mayGo s (sideEngine side)) = true from ?_)
  rcases h with h | h | h | h <;> simp only [h, Bool.not_false, Bool.or_true, Bool.true_or]

theorem fusionResult_goes {k : Nat} {side : Side} {fault : Option (List Byte)} {w : Pend} {rest : List Pend} (hw : (svcOf s k).work = w :: rest)
    (hr : running s = true) (he : engineServes s (sideEngine side) = true) (hs : sideSent side w = false) (hg : mayGo s (sideEngine side) = true) :
    fusionResult k side fault s =
      if (!enginesDuplex s false) = true then releaseService k true (letGo (sideEngine side) s)
      else modWork k (sends side (fault.getD (serviceDigest w.o))) (letGo (sideEngine side) s) := by
  have hidle : ¬(!running s || !engineServes s (sideEngine side) || sideSent side w || !mayGo s (sideEngine side)) = true := by
    rw [hr, he, hs, hg]
    decide
  unfold fusionResult
  rw [hw]
  cases side with
  | a => exact if_neg hidle
  | b => exact if_neg hidle

theorem svcOf_letGo (e : Nat) (s : State) (k : Nat) : svcOf (letGo e s) k = svcOf s k := by
  rw [letGo_frame]
  rfl

/-- A service whose oldest result at work is released (R298, R329). -/
theorem releaseService_parts {k : Nat} {simplex : Bool} {w : Pend} {rest : List Pend} (hw : (svcOf s k).work = w :: rest) :
    let t := releaseService k simplex s
    svcOf t k = { svcOf s k with work := rest, done := w.o :: (svcOf s k).done } ∧ (∀ j, j ≠ k → svcOf t j = svcOf s j) ∧
    t = modSvc k (fun v => { v with work := rest, done := w.o :: v.done }) (writeOut (if k < 4 then 30 else 31) w.o simplex s) ∧
    t = { s with fus := { s.fus with svcs := t.fus.svcs, outs := t.fus.outs }, reg := t.reg, hosts := t.hosts,
                 mem := { s.mem with host := t.mem.host, win := t.mem.win, poisonWin := t.mem.poisonWin } } := by
  intro t
  have ht : t = modSvc k (fun v => { v with work := rest, done := w.o :: v.done }) (writeOut (if k < 4 then 30 else 31) w.o simplex s) := by
    change releaseService k simplex s = _
    unfold releaseService
    rw [hw]
  obtain ⟨hf⟩ := writeOut_outputs (if k < 4 then 30 else 31) w.o simplex s
  clear_value t
  generalize writeOut (if k < 4 then 30 else 31) w.o simplex s = v at ht hf ⊢
  have hsvc : ∀ j, svcOf v j = svcOf s j := fun j => by
    rw [hf]
    rfl
  rw [ht]
  refine ⟨?_, fun j hj => ?_, rfl, ?_⟩
  · rw [svcOf_modSvc_self, hsvc]
  · rw [svcOf_modSvc_ne _ _ hj, hsvc]
  · rw [hf]
    rfl

theorem svcOf_modWork_self {k : Nat} {w : Pend} {rest : List Pend} (f : Pend → Pend) (hw : (svcOf s k).work = w :: rest) :
    svcOf (modWork k f s) k = { svcOf s k with work := f w :: rest } := by
  rw [modWork, svcOf_modSvc_self, hw]

/-! Golden workloads -/

theorem goldenWorkload_runs {e : Nat} (pass : Bool) (hr : running s = true) (he : engineIn s e = true)
    (hg : s.frame.golden.contains e = false ∨ goldenAsked s e = true) :
    goldenWorkload e pass s = if pass = true then
        { noteGolden e pass s with frame := { s.frame with golden := if s.frame.golden.contains e then s.frame.golden else s.frame.golden ++ [e] } }
      else orderEngineRemoval e 0 (noteGolden e pass s) := by
  refine if_neg ?_
  rw [hr, he]
  rcases hg with h | h <;> rw [h] <;> simp

theorem noteGolden_unasked {e : Nat} (pass : Bool) (h : ∀ x ∈ s.dpx.diags, ∀ q ∈ x.arrays, q.1 ≠ 4 + e) :
    (noteGolden e pass s).dpx.diags = s.dpx.diags := by
  refine (List.map_congr_left fun x hx => if_neg ?_).trans (List.map_id _)
  rw [Bool.not_eq_true, List.any_eq_false]
  intro q hq
  rw [beq_iff_eq]
  exact h x hx q hq

/-- The duplex mode without an engine (R334). -/
abbrev withoutEngine (e : Nat) (x : Duplex) : Duplex :=
  { x with engOut := x.engOut ++ [e], testing := x.testing.filter (· != 4 + e), testNext := x.testNext.filter (· != 4 + e), rejoin := x.rejoin.filter (· != 4 + e) }

/-- The record of an engine removed. -/
abbrev engineRemoved (e cause : Nat) (s : State) : State :=
  raiseFault .manager ⟨0x060C, 3, true, iodSteward, e + 1, cause, 0⟩ { s with dpx := withoutEngine e s.dpx }

theorem removeEngine_serving {e cause : Nat} (he : engineIn s e = true) (ho : s.op ≠ .safeOff) (hp : powered s = true) :
    removeEngine e cause s = if enginesGone (engineRemoved e cause s) = true then classD 0 iodSteward (engineRemoved e cause s) else engineRemoved e cause s := by
  refine if_neg ?_
  rw [he, hp, decide_eq_false ho]
  decide

theorem powered_congr (ho : t.op = s.op) (hb : t.boot = s.boot) : powered t = powered s := by
  rw [powered, ho, hb, powered]

theorem enginesGone_congr (h : t.dpx.engOut = s.dpx.engOut) : enginesGone t = enginesGone s := by
  simp only [enginesGone, engineIn, h]

/-- An engine removed (R334). -/
theorem removeEngine_parts {e cause : Nat} (he : engineIn s e = true) (ho : s.op ≠ .safeOff) (hp : powered s = true) :
    let t := removeEngine e cause s
    t.dpx.engOut = s.dpx.engOut ++ [e] ∧ regGet t K.FAULT_COUNT_c = satInc 255 (regGet s K.FAULT_COUNT_c) ∧
    t.op = (if enginesGone t = true then .safeOff else s.op) ∧
    (enginesGone t = false → regGet t K.FAULT_LAST_source = iodSteward ∧ t.dpx = withoutEngine e s.dpx ∧
      t = { s with reg := t.reg, hosts := t.hosts, mem := { s.mem with host := t.mem.host }, lastClass := 3, dpx := t.dpx } ∧
      RegsKept [K.FAULT_COUNT_c, K.FAULT_LAST_source] s t) := by
  intro t
  have ht : t = _ := removeEngine_serving he ho hp
  obtain ⟨hosts, host, hv⟩ : ∃ hosts host, engineRemoved e cause s = { s with
      dpx := withoutEngine e s.dpx, reg := (recordFault 3 iodSteward s).reg, hosts := hosts, mem := { s.mem with host := host }, lastClass := 3 } :=
    raiseFault_parts .manager (Nat.le_add_left 1 2) { s with dpx := withoutEngine e s.dpx }
  clear_value t
  generalize engineRemoved e cause s = v at ht hv
  have hreg : v.reg = (recordFault 3 iodSteward s).reg := by rw [hv]
  have hc : regGet v K.FAULT_COUNT_c = satInc 255 (regGet s K.FAULT_COUNT_c) := by
    rw [regGet_congr hreg, recordFault_c, regGet_regMod_self, regGet_regSet_ne _ _ (by grind)]
  have hsrc : regGet v K.FAULT_LAST_source = iodSteward := by
    rw [regGet_congr hreg, recordFault_c, regGet_regMod_ne _ _ (by grind), regGet_regSet_self]
  have hk : RegsKept [K.FAULT_COUNT_c, K.FAULT_LAST_source] s v :=
    kept_reg hreg (kept_mod (t := regSet K.FAULT_LAST_source iodSteward s) (by simp) (kept_set (by simp) (kept_refl _ s)))
  have hout : v.dpx = withoutEngine e s.dpx := by rw [hv]
  have hop : v.op = s.op := by rw [hv]
  have hpv : powered v = true := by rw [powered_congr hop (by rw [hv]), hp]
  by_cases hgone : enginesGone v = true
  · rw [if_pos hgone] at ht
    have hsame : enginesGone t = true := by rw [ht, enginesGone_congr (classD_engOut ..), hgone]
    refine ⟨?_, ?_, ?_, fun h => absurd hsame (by rw [h]; exact Bool.false_ne_true)⟩
    · rw [ht, classD_engOut, hout]
    · rw [ht, classD_countC, hc]
    · rw [hsame, if_pos rfl, ht, classD_op hpv]
  · rw [if_neg hgone] at ht
    subst ht
    refine ⟨by rw [hout], hc, by rw [if_neg hgone, hop], fun _ => ⟨hsrc, hout, ?_, hk⟩⟩
    rw [hv]

/-- Settles O40: admission by `fusionAdmission_parts`, release by `writeOut_takes`, the removal of an engine by `removeEngine_parts`. -/
theorem fusionServices : Obligations.FusionServices := by
  refine ⟨⟨fun k s x n rest hd => ⟨fun h => congrArg Host.Outcome.next (fusionAdmission_early hd h), fun hr ht => ⟨_, rfl, fusionAdmission_parts hd hr ht⟩⟩,
    fun k s hd => ?noneDue⟩, fun k side fault s w rest hw => ?result, fun o s => ?missing, fun e pass s => ?golden⟩
  case noneDue =>
    refine congrArg Host.Outcome.next ?_
    unfold fusionAdmission
    rw [hd]
  case result =>
    intro e sent dig
    refine ⟨fun h => congrArg Host.Outcome.next (fusionResult_waits hw h), fun hr he hs hg => ⟨fun hdup => ?_, fun hsim => ?_⟩⟩
    · have hexec := (fusionResult_goes (fault := fault) hw hr he hs hg).trans (if_neg (by rw [hdup]; decide))
      have hw' : (svcOf (letGo (sideEngine side) s) k).work = w :: rest := by rw [svcOf_letGo, hw]
      refine ⟨_, congrArg Host.Outcome.next hexec, ?_, fun j hj => ?_, rfl, ?_⟩
      · rw [svcOf_modWork_self _ hw', svcOf_letGo]
        cases side <;> rfl
      · rw [modWork, svcOf_modSvc_ne _ _ hj, svcOf_letGo]
      · rw [letGo_frame]
        rfl
    · have hexec := (fusionResult_goes (fault := fault) hw hr he hs hg).trans (if_pos (by rw [hsim]; rfl))
      obtain ⟨frame, hu⟩ : ∃ frame, letGo (sideEngine side) s = { s with frame := frame } := ⟨_, letGo_frame ..⟩
      change fusionResult k side fault s = releaseService k true (letGo (sideEngine side) s) at hexec
      change Runs (.fusionResult k side fault) s fun t => _ ∧ _ ∧ t.frame = (letGo (sideEngine side) s).frame ∧ _
      rw [hu] at hexec ⊢
      have hw' : (svcOf { s with frame := frame } k).work = w :: rest := hw
      obtain ⟨hsvc, hothers, hwritten, hf⟩ := releaseService_parts (simplex := true) hw'
      rw [if_pos k.isLt] at hwritten
      refine ⟨_, congrArg Host.Outcome.next hexec, hsvc, hothers, ?_, ?_, ?_⟩
      · rw [hf]
      · rw [hf]
      · intro o payload bs ho hgap hfree
        have htakes := writeOut_takes (s := { s with frame := frame }) (port := 30) (oc := w.o) (simplex := true) ho hgap hfree
        rw [hwritten]
        exact htakes
  case missing =>
    intro ms last
    refine ⟨fun hp hon hm hl => ?_, fun h => ?_⟩
    · refine ⟨_, congrArg Host.Outcome.next (if_pos ?_), _, rfl, outOf_modOut_self .., fun q hq => outOf_modOut_ne _ hq _, rfl⟩
      rw [hp, hon, hm, decide_eq_true hl]
      rfl
    · refine congrArg Host.Outcome.next (if_neg ?_)
      rcases h with h | h | h | h
      · simp [h]
      · simp [h]
      · simp [h]
      · rw [decide_eq_false (Nat.not_lt.2 h)]; simp
  case golden =>
    refine ⟨fun h => congrArg Host.Outcome.next (if_pos ?_), fun hr hp he hg => ?_⟩
    · rcases h with h | h | ⟨h, h'⟩
      · rw [h]; rfl
      · rw [h, Bool.not_false, Bool.or_true]; rfl
      · rw [h, h', Bool.not_false, Bool.and_true, Bool.or_true]
    · intro noted
      have hruns (pass : Bool) := goldenWorkload_runs pass hr he hg
      have hho : holder (noteGolden e pass s) = holder s := rfl
      have hgates : gates (noteGolden e pass s) (holder s) = gates s (holder s) := rfl
      refine ⟨noteGolden_unasked pass, fun hpass => ?_, fun hpass hgate => ?_, fun hpass hgate => ?_⟩
      · exact congrArg Host.Outcome.next ((hruns pass).trans (if_pos hpass))
      · refine congrArg Host.Outcome.next ((hruns pass).trans ((if_neg (by rw [hpass]; decide)).trans ?_))
        exact if_pos (hgates.trans hgate)
      · have hexec : goldenWorkload e pass s = removeEngine e 0 (noteGolden e pass s) :=
          (hruns pass).trans ((if_neg (by rw [hpass]; decide)).trans (if_neg (by rw [hho, hgates, hgate]; decide)))
        have hsafe : s.op ≠ .safeOff := fun h => by simp [running, h] at hr
        obtain ⟨h1, h2, h3, h4⟩ := removeEngine_parts (s := noteGolden e pass s) (cause := 0) he hsafe hp
        refine ⟨_, congrArg Host.Outcome.next hexec, h1, h2, h3, fun h => ?_⟩
        obtain ⟨h5, h6, h7, h8⟩ := h4 h
        exact ⟨h5, h6, h7, h8⟩

end Sys2Proof.Machine
end

section
/-! PROOFS. Planning services: admission, the end of the search, the recheck (R144, R308 to R310). -/

namespace Sys2Proof.Machine

variable {s t u : State}

/-! Admission -/

/-- The search gives a plan its cell, its candidates and its reason, and nothing else (R308). -/
theorem beginPlan_keeps (s : State) (r : PlanRun) : ∃ start heading bin cands reason,
    beginPlan s r = { r with start := start, heading := heading, bin := bin, cands := cands, reason := reason } := by
  unfold beginPlan
  extract_lets q
  split
  · exact ⟨_, _, _, _, _, rfl⟩
  · split
    · exact ⟨_, _, _, _, _, rfl⟩
    · exact ⟨_, _, _, _, _, rfl⟩
    · extract_lets m x x0 cell heading bin r'
      split
      · exact ⟨_, _, _, _, _, rfl⟩
      · exact ⟨_, _, _, _, _, rfl⟩

theorem admitPlan_names (s : State) (subj : DupSubject) (p x n ra aa : Nat) :
    (admitPlan s subj p x n ra aa).subj = subj ∧ (admitPlan s subj p x n ra aa).svc = p ∧ (admitPlan s subj p x n ra aa).instant = x ∧
    (admitPlan s subj p x n ra aa).seq = n ∧ (admitPlan s subj p x n ra aa).checking = false := by
  unfold admitPlan
  extract_lets set e f
  obtain ⟨_, _, _, _, _, h⟩ := beginPlan_keeps s ⟨subj, p, x, n, regGet s K.CFG_GEN_gen, (f.map fun x => fieldAt x.2.2.2 32 1).getD (egoSource s),
    ofBits ((List.range 32).map (chanUnsync s)), f.map (fun x => (x.1, x.2.1, x.2.2.2)), set, if e = 0 then [] else [e], [], 0, false, 0,
    (0, 0), 0, 0, planOldest x (f.map (·.2.2.1)) (if e = 0 then none else some (bufF s (mapBuf s set e) 8 8)), false, ra, aa⟩
  rw [h]
  exact ⟨rfl, rfl, rfl, rfl, rfl⟩

/-! Engines that let a plan go -/

theorem letGo_foldl_frame (es : List Nat) (s : State) : es.foldl (fun s e => letGo e s) s = { s with frame := (es.foldl (fun s e => letGo e s) s).frame } := by
  induction es generalizing s with
  | nil => rfl
  | cons e es ih =>
    rw [List.foldl_cons, ih, letGo_frame]

theorem letGo_frame_congr (e : Nat) (h : t.frame = s.frame) : (letGo e t).frame = (letGo e s).frame := by
  unfold letGo
  rw [h]
  split
  · exact h
  · rfl

/-- What lets a plan go reads the frame alone. -/
theorem letGo_foldl_congr (es : List Nat) (h : t.frame = s.frame) : (es.foldl (fun s e => letGo e s) t).frame = (es.foldl (fun s e => letGo e s) s).frame := by
  induction es generalizing s t with
  | nil => exact h
  | cons e es ih => exact ih (letGo_frame_congr e h)

/-- Engines that let a plan go from a state with the same frame, engines and tests. -/
theorem letGo_foldl_letAll (hf : t.frame = s.frame) :
    (([2, 3] : List Nat).filter (engineServes s)).foldl (fun s e => letGo e s) t = { t with frame := (letAll [2, 3] s).frame } := by
  rw [letGo_foldl_frame, letGo_foldl_congr _ hf]
  rfl

/-! The plan that is asked for -/

theorem planOf_mem {subj : DupSubject} {b : Bool} {r : PlanRun} (h : planOf s subj b = some r) : r ∈ s.fus.plans ∧ r.subj = subj ∧ r.checking = b := by
  have hp := List.find?_some h
  rw [Bool.and_eq_true, beq_iff_eq, beq_iff_eq] at hp
  exact ⟨List.mem_of_find?_eq_some h, hp⟩

theorem planSearchEnd_waits {subj : DupSubject} {e : Nat} (he : e = 2 ∨ e = 3) (hs : engineServes s e = true) (hg : mayGo s e = false) : planSearchEnd subj s = s := by
  unfold planSearchEnd
  extract_lets es
  have hall : es.all (mayGo s) = false := by
    rw [List.all_eq_false]
    exact ⟨e, List.mem_filter.2 ⟨by rcases he with rfl | rfl <;> simp, hs⟩, by rw [hg]; exact Bool.false_ne_true⟩
  split
  · rw [hall, Bool.and_false]
    rfl
  · rfl

theorem planSearchEnd_goes {subj : DupSubject} {r : PlanRun} (hr : planOf s subj false = some r) (hrun : running s = true)
    (hg : ∀ e, e = 2 ∨ e = 3 → engineServes s e = true → mayGo s e = true) :
    planSearchEnd subj s = (([2, 3] : List Nat).filter (engineServes s)).foldl (fun s e => letGo e s) (comparePlan r r s) := by
  unfold planSearchEnd
  extract_lets es
  have hall : es.all (mayGo s) = true := by
    rw [List.all_eq_true]
    intro e he
    obtain ⟨hm, hs⟩ := List.mem_filter.1 he
    exact hg e (by simpa using hm) hs
  rw [hr]
  exact if_pos (by rw [hrun, hall]; rfl)

theorem tellNoPlan_inform (r : PlanRun) (s : State) : ∃ hosts host, tellNoPlan r s = { s with hosts := hosts, mem := { s.mem with host := host } } := by
  unfold tellNoPlan
  split
  · exact ⟨s.hosts, s.mem.host, rfl⟩
  · exact raise_inform .manager (e := ⟨0x0508, 0, true, iodSteward, r.svc, r.reason, r.instant⟩) rfl s

/-- A plan that both engines finish: its result is at work with the digest of each, and it is in progress no more (R326, R329). -/
theorem finishPlan_duplex {p : Fin 2} {r : PlanRun} (hsubj : r.subj = .plan p) (hd : enginesDuplex s true = true) :
    finishPlan r s = modSvc (4 + r.svc) (fun v => { v with work := v.work ++
      [⟨planOutcome s r, some (serviceDigest (planOutcome s r)), some (serviceDigest (planOutcome s r)), false⟩] })
      (tellNoPlan r { s with fus := { s.fus with plans := s.fus.plans.filter (· != r) } }) := by
  unfold finishPlan
  rw [hsubj]
  dsimp only
  obtain ⟨hosts, host, htold⟩ := tellNoPlan_inform r { s with fus := { s.fus with plans := s.fus.plans.filter (· != r) } }
  rw [htold]
  exact if_pos hd

theorem putPlan_self (r : PlanRun) (s : State) : putPlan r r s = s := by
  have h : (s.fus.plans.map fun p => if p == r then r else p) = s.fus.plans := by
    conv_rhs => rw [← List.map_id s.fus.plans]
    refine List.map_congr_left fun p _ => ?_
    split
    · exact (beq_iff_eq.1 ‹_›).symm
    · rfl
  unfold putPlan
  rw [h]

theorem planOutcome_names (s : State) (r : PlanRun) : (planOutcome s r).instant = r.instant ∧ (planOutcome s r).seq = r.seq ∧
    (planOutcome s r).noPlan = if r.reason = 0 then none else some r.reason := ⟨rfl, rfl, rfl⟩

/-! The comparison -/

/-- What may be asked of a plan whose first candidate is to be compared with the newest epoch (R308). -/
theorem comparePlan_pins {r old : PlanRun} {c : Cand} {cs : List Cand} {e : Nat} (hc : r.cands = c :: cs) (h0 : r.reason = 0) (hn : r.rechecks < 8)
    (he : newerEpoch s r c = some e) : comparePlan r old s = putPlan old { r with epochs := r.epochs ++ [e], checking := true } s := by
  unfold comparePlan
  rw [hc]
  dsimp only
  rw [if_pos (by rw [h0, decide_eq_true hn]; rfl), he]

theorem comparePlan_finishes {r : PlanRun} {c : Cand} {cs : List Cand} (hc : r.cands = c :: cs) (hr : r.checking = false)
    (he : 8 ≤ r.rechecks ∨ newerEpoch s r c = none) : comparePlan r r s = finishPlan r s := by
  have hsame : { r with cands := c :: cs, checking := false } = r := by rw [← hr, ← hc]
  have hnone : (if (r.reason = 0 && decide (r.rechecks < 8)) = true then newerEpoch s r c else none) = none := by
    rcases he with h | h
    · exact if_neg (by rw [decide_eq_false (by omega : ¬ r.rechecks < 8), Bool.and_false]; exact Bool.false_ne_true)
    · rw [h, ite_self]
  unfold comparePlan
  rw [hc]
  dsimp only
  rw [hnone]
  dsimp only
  rw [hsame, putPlan_self]

theorem comparePlan_empty {r : PlanRun} (hc : r.cands = []) : comparePlan r r s = finishPlan r s := by
  unfold comparePlan
  rw [hc, putPlan_self]

theorem not_mem_filter_ne (r : PlanRun) (rs : List PlanRun) : r ∉ rs.filter (· != r) := by
  rw [List.mem_filter]
  exact fun h => by simp at h

/-! The statements -/

theorem planAdmission_admits (p : Fin 2) {x n : Nat} {rest : List (Nat × Nat)} (hrun : running s = true) (hdue : (svcOf s (4 + p.val)).due = (x, n) :: rest) (hx : x ≤ tauNow s) :
    Runs (.planAdmission p) s fun t => svcOf t (4 + p.val) = { svcOf s (4 + p.val) with due := rest } ∧
      ∃ r, t.fus.plans = s.fus.plans ++ [r] ∧ r.subj = .plan p ∧ r.svc = p.val ∧ r.instant = x ∧ r.seq = n ∧ r.checking = false ∧
        t = { s with fus := { s.fus with svcs := t.fus.svcs, plans := t.fus.plans } } := by
  have hgo : ¬ (!running s || decide (tauNow s < x)) = true := by
    rw [hrun, decide_eq_false (by omega)]
    exact Bool.false_ne_true
  have hexec : planAdmission p.val s = let u := modSvc (4 + p.val) (fun v => { v with due := rest }) s
      { u with fus := { u.fus with plans := u.fus.plans ++ [admitPlan u (.plan (Fin.ofNat 2 p.val)) p.val x n 0 0] } } := by
    unfold planAdmission
    rw [hdue]
    exact if_neg hgo
  refine ⟨_, congrArg Host.Outcome.next hexec, svcOf_modSvc_self s (4 + p.val) fun v => { v with due := rest }, _, rfl, ?_, ?_, ?_, ?_, ?_, rfl⟩
  · exact (admitPlan_names ..).1.trans (congrArg DupSubject.plan (Fin.ofNat_val_eq_self p))
  · exact (admitPlan_names ..).2.1
  · exact (admitPlan_names ..).2.2.1
  · exact (admitPlan_names ..).2.2.2.1
  · exact (admitPlan_names ..).2.2.2.2

theorem planSearchEnd_pins {subj : DupSubject} {r : PlanRun} {c : Cand} {cs : List Cand} {e : Nat} (hr : planOf s subj false = some r) (hrun : running s = true)
    (hc : r.cands = c :: cs) (h0 : r.reason = 0) (hg : ∀ e, e = 2 ∨ e = 3 → engineServes s e = true → mayGo s e = true) (hn : r.rechecks < 8) (he : newerEpoch s r c = some e) :
    planSearchEnd subj s = { s with frame := (letAll [2, 3] s).frame, fus := { s.fus with
      plans := s.fus.plans.map fun q => if q == r then { r with epochs := r.epochs ++ [e], checking := true } else q } } := by
  rw [planSearchEnd_goes hr hrun hg, comparePlan_pins hc h0 hn he]
  exact letGo_foldl_letAll rfl

theorem planSearchEnd_finishes {subj : DupSubject} {p : Fin 2} {r : PlanRun} (hr : planOf s subj false = some r) (hsubj : subj = .plan p) (hrun : running s = true)
    (hg : ∀ e, e = 2 ∨ e = 3 → engineServes s e = true → mayGo s e = true) (hcmp : comparePlan r r s = finishPlan r s) (hd : enginesDuplex s true = true) :
    ∃ hosts host, planSearchEnd subj s = modSvc (4 + r.svc) (fun v => { v with work := v.work ++
        [⟨planOutcome s r, some (serviceDigest (planOutcome s r)), some (serviceDigest (planOutcome s r)), false⟩] })
      { s with frame := (letAll [2, 3] s).frame, fus := { s.fus with plans := s.fus.plans.filter (· != r) }, hosts := hosts, mem := { s.mem with host := host } } ∧
      (r.reason = 0 → hosts = s.hosts ∧ host = s.mem.host) := by
  obtain ⟨-, hs, -⟩ := planOf_mem hr
  rw [planSearchEnd_goes hr hrun hg, hcmp, finishPlan_duplex (hs.trans hsubj) hd]
  by_cases h0 : r.reason = 0
  · refine ⟨s.hosts, s.mem.host, ?_, fun _ => ⟨rfl, rfl⟩⟩
    rw [tellNoPlan, if_pos h0]
    exact letGo_foldl_letAll rfl
  · obtain ⟨hosts, host, htold⟩ := tellNoPlan_inform r { s with fus := { s.fus with plans := s.fus.plans.filter (· != r) } }
    refine ⟨hosts, host, ?_, fun h => absurd h h0⟩
    rw [htold]
    exact letGo_foldl_letAll rfl

theorem recheck_fails {r : PlanRun} {c : Cand} {cs : List Cand} (hc : r.cands = c :: cs) (hne : cs ≠ []) (hn : r.rechecks < 7)
    (hb : blocked s (mapAt s r.mapSet (r.epochs.getLastD 0) r.instant) c.cells c.voxels = true) :
    recheck s r = ({ r with rechecks := r.rechecks + 1, cands := cs, reason := 0 }, false) := by
  have hgoes : ¬ (decide (r.rechecks + 1 = 8) || cs.isEmpty) = true := by
    rw [decide_eq_false (by omega), List.isEmpty_eq_false_iff.2 hne]
    exact Bool.false_ne_true
  unfold recheck
  rw [hc]
  dsimp only
  rw [if_pos hb, if_neg hgoes]

theorem planRecheck_fails {subj : DupSubject} {r : PlanRun} {c : Cand} {cs : List Cand} (hr : planOf s subj true = some r) (hrun : running s = true) (hc : r.cands = c :: cs)
    (hne : cs ≠ []) (hn : r.rechecks < 7) (hb : blocked s (mapAt s r.mapSet (r.epochs.getLastD 0) r.instant) c.cells c.voxels = true) :
    planRecheck subj s = putPlan r { r with rechecks := r.rechecks + 1, cands := cs, reason := 0 } s := by
  unfold planRecheck
  rw [hr]
  dsimp only
  rw [if_neg (by rw [hrun]; exact Bool.false_ne_true), recheck_fails hc hne hn hb]
  rfl

/-- Settles O41: a plan's own lemmas, case by case; a finished one is put to work by `finishPlan_duplex`. -/
theorem planServices : Obligations.PlanServices := by
  unfold Obligations.PlanServices
  refine ⟨fun p s x n rest hrun hdue hx => planAdmission_admits p hrun hdue hx, fun subj s r c cs hr hrun hc h0 => ⟨?_, ?_, ?_⟩, ?_, ?_⟩
  · rintro ⟨e, he, hs, hg⟩
    exact congrArg Host.Outcome.next (planSearchEnd_waits he hs hg)
  · exact fun e hg hn he => congrArg Host.Outcome.next (planSearchEnd_pins hr hrun hc h0 hg hn he)
  · intro p hg hsubj he hd
    obtain ⟨hosts, host, hexec, hsame⟩ := planSearchEnd_finishes hr hsubj hrun hg (comparePlan_finishes hc (planOf_mem hr).2.2 he) hd
    obtain ⟨rfl, rfl⟩ := hsame h0
    refine ⟨_, congrArg Host.Outcome.next hexec, ⟨planOutcome s r, ?_, rfl, rfl, ?_⟩, not_mem_filter_ne r s.fus.plans, rfl⟩
    · rw [svcOf_modSvc_self]
      rfl
    · exact (planOutcome_names s r).2.2.trans (if_pos h0)
  · intro p s r hr hrun hc h0 hd h2 h3
    have hg : ∀ e, e = 2 ∨ e = 3 → engineServes s e = true → mayGo s e = true := by
      rintro e (rfl | rfl) -
      · exact h2
      · exact h3
    obtain ⟨hosts, host, hexec, -⟩ := planSearchEnd_finishes hr rfl hrun hg (comparePlan_empty hc) hd
    refine ⟨_, congrArg Host.Outcome.next hexec, planOutcome s r, ?_, rfl, rfl, ?_⟩
    · rw [svcOf_modSvc_self]
      rfl
    · exact (planOutcome_names s r).2.2.trans (if_neg h0)
  · exact fun subj s r c cs hr hrun hc hne hn hb => congrArg Host.Outcome.next (planRecheck_fails hr hrun hc hne hn hb)

end Sys2Proof.Machine
end

section
/-! PROOFS. The checksums of an array tile (R149): they hold of a product formed as it should be, and one wrong cell shows in its column. -/

namespace Sys2Proof.Machine

/-! Sums modulo M -/

theorem cast_sumM (l : List Nat) : ((sumM l : Nat) : ZMod resM) = (l.map (Nat.cast : Nat → ZMod resM)).sum := by
  rw [sumM, ZMod.natCast_mod, Nat.cast_list_sum]

theorem sumM_eq_iff (l m : List Nat) : sumM l = sumM m ↔ (l.map (Nat.cast : Nat → ZMod resM)).sum = (m.map (Nat.cast : Nat → ZMod resM)).sum := by
  rw [← Nat.cast_list_sum, ← Nat.cast_list_sum, ZMod.natCast_eq_natCast_iff']
  rfl

/-- A sum over rows and columns may be taken by columns. -/
theorem sum_map_comm {M : Type} [AddCommMonoid M] (l m : List Nat) (f : Nat → Nat → M) :
    (l.map fun i => (m.map fun k => f i k).sum).sum = (m.map fun k => (l.map fun i => f i k).sum).sum := by
  induction l with
  | nil => simp
  | cons i l ih => simp only [List.map_cons, List.sum_cons, ih, List.sum_map_add]

/-- A sum over a range of a function that is other than 0 at one place alone. -/
theorem sum_range_single {M : Type} [AddCommMonoid M] {n a : Nat} (ha : a < n) (f : Nat → M) (hf : ∀ i, i < n → i ≠ a → f i = 0) :
    ((List.range n).map f).sum = f a := by
  have hsum : ((List.range n).map f).sum = ∑ i ∈ Finset.range n, f i := rfl
  rw [hsum]
  exact Finset.sum_eq_single_of_mem a (Finset.mem_range.2 ha) fun i hi hne => hf i (Finset.mem_range.1 hi) hne

/-! Residues of a cell -/

/-- The residue of a product is that of the factor of its row times that of its column. -/
theorem termResidue (v : MatView) (e i j k : Nat) :
    numResidue (v.term e i j k).1 * numResidue (v.term e i j k).2 = rowResidue v e i k * numResidue (v.b e k j) := by
  unfold MatView.term rowResidue
  split
  · rfl
  · have h0 : numResidue numZero = 0 := by decide
    rw [h0, Nat.zero_mul, Nat.zero_mul]

theorem cast_cellResidue (v : MatView) (p : TilePos) (q s : Nat) (f : TileFault) (i j : Nat) : ((cellResidue v p q s f i j : Nat) : ZMod resM) =
    ((runPlaces v q s).map fun k => (rowResidue v p.batch i k : ZMod resM) * (numResidue (v.b p.batch k j) : ZMod resM)).sum +
      (cellDelta f (i - 16 * p.row) (j - 64 * p.col) : ZMod resM) := by
  unfold cellResidue
  rw [cast_sumM, List.map_append, List.sum_append, List.map_map]
  refine congrArg₂ (· + ·) (congrArg List.sum (List.map_congr_left fun k _ => ?_)) (by simp)
  simp only [Function.comp_apply, ZMod.natCast_mod, termResidue, Nat.cast_mul]

/-- The congruence of a column holds where the faults of its cells add nothing. -/
theorem columnHolds_iff (v : MatView) (p : TilePos) (q s : Nat) (f : TileFault) (j : Nat) :
    (sumM ((tileRows v p).map fun i => cellResidue v p q s f i j) ==
      sumM ((runPlaces v q s).map fun k => sumM ((tileRows v p).map fun i => rowResidue v p.batch i k) * numResidue (v.b p.batch k j) % resM)) = true ↔
    ((tileRows v p).map fun i => (cellDelta f (i - 16 * p.row) (j - 64 * p.col) : ZMod resM)).sum = 0 := by
  rw [beq_iff_eq, sumM_eq_iff, List.map_map, List.map_map]
  have hrows : ((tileRows v p).map (Nat.cast ∘ fun i => cellResidue v p q s f i j)).sum =
      ((runPlaces v q s).map fun k => ((tileRows v p).map fun i => (rowResidue v p.batch i k : ZMod resM) * (numResidue (v.b p.batch k j) : ZMod resM)).sum).sum +
      ((tileRows v p).map fun i => (cellDelta f (i - 16 * p.row) (j - 64 * p.col) : ZMod resM)).sum := by
    rw [← sum_map_comm, ← List.sum_map_add]
    exact congrArg List.sum (List.map_congr_left fun i _ => cast_cellResidue ..)
  have hplaces : ((runPlaces v q s).map (Nat.cast ∘ fun k => sumM ((tileRows v p).map fun i => rowResidue v p.batch i k) * numResidue (v.b p.batch k j) % resM)).sum =
      ((runPlaces v q s).map fun k => ((tileRows v p).map fun i => (rowResidue v p.batch i k : ZMod resM) * (numResidue (v.b p.batch k j) : ZMod resM)).sum).sum := by
    refine congrArg List.sum (List.map_congr_left fun k _ => ?_)
    rw [List.sum_map_mul_right, Function.comp_apply, ZMod.natCast_mod, Nat.cast_mul, cast_sumM, List.map_map]
    rfl
  rw [hrows, hplaces, add_eq_left]

/-- The congruence of a row holds where the faults of its cells add nothing. -/
theorem rowHolds_of_clean (v : MatView) (p : TilePos) (q s : Nat) (f : TileFault) (i : Nat) (hf : ∀ j, cellDelta f (i - 16 * p.row) (j - 64 * p.col) = 0) :
    (sumM ((tileCols v p).map fun j => cellResidue v p q s f i j) ==
      sumM ((runPlaces v q s).map fun k => rowResidue v p.batch i k * sumM ((tileCols v p).map fun j => numResidue (v.b p.batch k j)) % resM)) = true := by
  rw [beq_iff_eq, sumM_eq_iff, List.map_map, List.map_map]
  have hcols : ((tileCols v p).map (Nat.cast ∘ fun j => cellResidue v p q s f i j)).sum =
      ((runPlaces v q s).map fun k => ((tileCols v p).map fun j => (rowResidue v p.batch i k : ZMod resM) * (numResidue (v.b p.batch k j) : ZMod resM)).sum).sum := by
    rw [← sum_map_comm]
    refine congrArg List.sum (List.map_congr_left fun j _ => (cast_cellResidue ..).trans ?_)
    rw [hf j, Nat.cast_zero, add_zero]
  rw [hcols]
  refine congrArg List.sum (List.map_congr_left fun k _ => ?_)
  rw [List.sum_map_mul_left, Function.comp_apply, ZMod.natCast_mod, Nat.cast_mul, cast_sumM, List.map_map]
  rfl

/-! The checksums -/

theorem cellDelta_clean (i j : Nat) : cellDelta {} i j = 0 := rfl

theorem checksumsHold_clean (v : MatView) (p : TilePos) (q s : Nat) : checksumsHold v p q s {} = true := by
  unfold checksumsHold
  extract_lets rows cols ks
  rw [Bool.and_eq_true, List.all_eq_true, List.all_eq_true]
  refine ⟨fun j _ => (columnHolds_iff v p q s {} j).2 ?_, fun i _ => rowHolds_of_clean v p q s {} i fun j => cellDelta_clean ..⟩
  exact List.sum_eq_zero fun x hx => by
    obtain ⟨i, -, rfl⟩ := List.mem_map.1 hx
    rw [cellDelta_clean, Nat.cast_zero]

theorem cellDelta_one (a : Fin 16) (b : Fin 64) (x i : Nat) : cellDelta { cells := [(a, b, x)] } i b.val = if i = a.val then x % resM else 0 := by
  unfold cellDelta
  by_cases h : i = a.val
  · rw [if_pos h, List.filter_cons_of_pos (by rw [h]; simp)]
    rfl
  · rw [if_neg h, List.filter_cons_of_neg (by simpa using fun e => absurd e.symm h)]
    rfl

/-- One wrong cell shows in the checksum of its column. -/
theorem checksumsHold_wrong (v : MatView) (p : TilePos) (q s : Nat) (a : Fin 16) (b : Fin 64) {x : Nat} (hx : x % resM ≠ 0)
    (hrow : 16 * p.row + a.val < v.rows) (hcol : 64 * p.col + b.val < v.cols) : checksumsHold v p q s { cells := [(a, b, x)] } = false := by
  have hsum : ((tileRows v p).map fun i => (cellDelta { cells := [(a, b, x)] } (i - 16 * p.row) (64 * p.col + b.val - 64 * p.col) : ZMod resM)).sum = (x : ZMod resM) := by
    rw [tileRows, List.map_map, sum_range_single (a := a.val) (by omega)]
    · simp only [Function.comp_apply, Nat.add_sub_cancel_left, cellDelta_one, if_true, ZMod.natCast_mod]
    · intro i _ hi
      simp only [Function.comp_apply, Nat.add_sub_cancel_left, cellDelta_one, if_neg hi, Nat.cast_zero]
  unfold checksumsHold
  extract_lets rows cols ks
  rw [Bool.and_eq_false_iff]
  refine Or.inl (List.all_eq_false.2 ⟨64 * p.col + b.val, List.mem_map.2 ⟨b.val, List.mem_range.2 (by omega), rfl⟩, fun h => ?_⟩)
  have h0 := (columnHolds_iff v p q s { cells := [(a, b, x)] } (64 * p.col + b.val)).1 h
  rw [hsum, ZMod.natCast_eq_zero_iff] at h0
  exact hx (Nat.mod_eq_zero_of_dvd h0)

end Sys2Proof.Machine
end

section
/-! PROOFS. The tile window: what stands in the way of an issue, and what an issue leaves (R134 to R136, R144). -/

namespace Sys2Proof.Machine

variable {s t u : State}

/-! One die's engine -/

theorem enginesKept_refl (d : Nat) (s : State) : EnginesKept d s s := fun _ _ => rfl

theorem enginesKept_mod {d : Nat} {f : Engine → Engine} (h : EnginesKept d s t) : EnginesKept d s (modEngine d f t) :=
  fun c hc => (engineOf_modEngine_ne _ f hc).trans (h c hc)

/-! The counts of an issue -/

/-- Whether an array tile on an array defers a rehearsal that is due at its turn (R144). -/
def defersNow (s : State) (d : Nat) (x : TileDesc) : Bool :=
  x.work.kind == .array && ((engineOf s d).due.any (fun q => q.1 == x.cluster.val * 8 + x.array.val) && turnCome s d (x.cluster.val * 8 + x.array.val))

theorem defersNow_iff (s : State) (d : Nat) (x : TileDesc) : defersNow s d x = true ↔ x.work.kind = .array ∧
    (∃ q ∈ (engineOf s d).due, q.1 = x.cluster.val * 8 + x.array.val) ∧ turnCome s d (x.cluster.val * 8 + x.array.val) = true := by
  simp only [defersNow, Bool.and_eq_true, beq_iff_eq, List.any_eq_true]

/-- An issue counted in the rotation, and as a deferral where it is one (R135, R144). -/
def issueCounted (d : Nat) (x : TileDesc) (s : State) : State :=
  if x.work.kind = .array then countDeferral d (x.cluster.val * 8 + x.array.val) (countIssue d x.realm.val s) else countIssue d x.realm.val s

/-- The issues of a rotation after one more. -/
def spentAfter (s : State) (d r : Nat) : List (Nat × Nat) :=
  if r = 0 then (engineOf s d).spent else tmod 0 r (· + 1) (if (rotationLeft s d).isEmpty then [] else (engineOf s d).spent)

theorem countIssue_engine (d r : Nat) (s : State) : engineOf (countIssue d r s) d = { engineOf s d with spent := spentAfter s d r } := by
  unfold countIssue spentAfter
  split
  · rfl
  · rw [engineOf_modEngine_self]

theorem countIssue_others (d r : Nat) (s : State) : EnginesKept d s (countIssue d r s) := by
  unfold countIssue
  split
  · exact enginesKept_refl d s
  · exact enginesKept_mod (enginesKept_refl d s)

theorem countIssue_frame (d r : Nat) (s : State) : countIssue d r s = { s with engines := (countIssue d r s).engines } := by
  unfold countIssue
  split <;> rfl

/-- The turn of an array reads the engine's due and rehearsing arrays, the frame and the time. -/
theorem turnCome_congr {d : Nat} (i : Nat) (hdue : (engineOf t d).due = (engineOf s d).due) (hreh : (engineOf t d).rehearsing = (engineOf s d).rehearsing)
    (hf : t.frame = s.frame) (htb : t.tbUnits = s.tbUnits) : turnCome t d i = turnCome s d i := by
  simp only [turnCome, hdue, hreh, hf, htb]

theorem turnCome_countIssue (d r i : Nat) (s : State) : turnCome (countIssue d r s) d i = turnCome s d i := by
  have he := countIssue_engine d r s
  refine turnCome_congr i (by rw [he]) (by rw [he]) ?_ ?_ <;> rw [countIssue_frame]

theorem issueCounted_defers {d : Nat} {x : TileDesc} (h : defersNow s d x = true) : issueCounted d x s =
    regInc (K.REH_DEFER_count d) (modEngine d (fun e => { e with due := e.due.map fun q =>
      if q.1 = x.cluster.val * 8 + x.array.val then (q.1, q.2 + 1) else q }) (countIssue d x.realm.val s)) := by
  rw [defersNow, Bool.and_eq_true, beq_iff_eq] at h
  have hdue : (engineOf (countIssue d x.realm.val s) d).due = (engineOf s d).due := by rw [countIssue_engine]
  rw [issueCounted, if_pos h.1, countDeferral, turnCome_countIssue, hdue, if_pos h.2]

theorem issueCounted_plain {d : Nat} {x : TileDesc} (h : ¬ defersNow s d x = true) : issueCounted d x s = countIssue d x.realm.val s := by
  unfold issueCounted
  split
  case isFalse => rfl
  case isTrue hk =>
    have hdue : (engineOf (countIssue d x.realm.val s) d).due = (engineOf s d).due := by rw [countIssue_engine]
    rw [countDeferral, turnCome_countIssue, hdue]
    refine if_neg fun hd => h ?_
    rw [defersNow, Bool.and_eq_true, beq_iff_eq]
    exact ⟨hk, hd⟩

theorem issueCounted_frame (d : Nat) (x : TileDesc) (s : State) : issueCounted d x s = { s with reg := (issueCounted d x s).reg, engines := (issueCounted d x s).engines } := by
  by_cases h : defersNow s d x = true
  · rw [issueCounted_defers h, countIssue_frame]
    rfl
  · rw [issueCounted_plain h, countIssue_frame]

theorem issueCounted_others (d : Nat) (x : TileDesc) (s : State) : EnginesKept d s (issueCounted d x s) := by
  by_cases h : defersNow s d x = true
  · intro c hc
    rw [issueCounted_defers h, engineOf_regInc]
    exact enginesKept_mod (countIssue_others d x.realm.val s) c hc
  · rw [issueCounted_plain h]
    exact countIssue_others d x.realm.val s

theorem issueCounted_engine (d : Nat) (x : TileDesc) (s : State) : engineOf (issueCounted d x s) d = { engineOf s d with
    spent := spentAfter s d x.realm.val,
    due := if defersNow s d x = true then (engineOf s d).due.map fun q => if q.1 = x.cluster.val * 8 + x.array.val then (q.1, q.2 + 1) else q else (engineOf s d).due } := by
  by_cases h : defersNow s d x = true
  · rw [issueCounted_defers h, engineOf_regInc, engineOf_modEngine_self, countIssue_engine, if_pos h]
  · rw [issueCounted_plain h, countIssue_engine, if_neg h]

theorem issueCounted_kept (d : Nat) (x : TileDesc) (s : State) : RegsKept [K.REH_DEFER_count d] s (issueCounted d x s) := by
  have hi : RegsKept [K.REH_DEFER_count d] s (countIssue d x.realm.val s) := by
    rw [countIssue_frame]
    exact kept_refl _ s
  by_cases h : defersNow s d x = true
  · rw [issueCounted_defers h]
    exact kept_inc (t := modEngine d _ (countIssue d x.realm.val s)) (by simp) hi
  · rw [issueCounted_plain h]
    exact hi

theorem issueCounted_defer (d : Nat) (x : TileDesc) (s : State) : regGet (issueCounted d x s) (K.REH_DEFER_count d) =
    if defersNow s d x = true then satInc max32 (regGet s (K.REH_DEFER_count d)) else regGet s (K.REH_DEFER_count d) := by
  have hi : ∀ k, regGet (countIssue d x.realm.val s) k = regGet s k := regGet_congr (by rw [countIssue_frame])
  by_cases h : defersNow s d x = true
  · rw [issueCounted_defers h, regGet_regInc_self, regGet_modEngine, hi, if_pos h]
  · rw [issueCounted_plain h, hi, if_neg h]

/-! The issue -/

/-- What an issue asks for, as the model tests it. -/
theorem issues_iff {d : Nat} {x : TileDesc} {j : Job} {n : GNode} (hj : findJob s x.job = some j) (hn : (jobGraph s j).nodes[x.node]? = some n) :
    Issues s d x j n ↔ (!running s || !dieIn s d || !mayIssue s d x j (jobGraph s j) n ||
      !placeTakes s d x.work.kind x.realm.val x.cluster.val x.array.val ||
      (failedAt (engineOf s d) x).contains (x.cluster.val, if x.work.kind = .array then x.array.val else 0) ||
      (x.work.kind == .array && mustRehearse s d (x.cluster.val * 8 + x.array.val))) = false := by
  have hfailed : ∀ (l : List (Nat × Nat)) (p : Nat × Nat), l.contains p = false ↔ p ∉ l := fun l p => by rw [← Bool.not_eq_true, List.contains_iff_mem]
  simp only [Bool.or_eq_false_iff, Bool.not_eq_false', Bool.and_eq_false_imp, beq_iff_eq, hfailed]
  exact ⟨fun ⟨_, _, hr, hd, hm, hp, hf, hre⟩ => ⟨⟨⟨⟨⟨hr, hd⟩, hm⟩, hp⟩, hf⟩, hre⟩, fun ⟨⟨⟨⟨⟨hr, hd⟩, hm⟩, hp⟩, hf⟩, hre⟩ => ⟨hj, hn, hr, hd, hm, hp, hf, hre⟩⟩

theorem issueTile_issues {d : Nat} {x : TileDesc} {j : Job} {n : GNode} (h : Issues s d x j n) :
    issueTile d x s = putTile d x (formTile s d j (jobGraph s j) n x.work) (issueCounted d x s) := by
  obtain ⟨hj, hn, -⟩ := id h
  unfold issueTile
  rw [hj]
  dsimp only
  rw [hn]
  dsimp only
  rw [if_neg (by rw [(issues_iff hj hn).1 h]; exact Bool.false_ne_true)]
  rfl

theorem issueTile_waits {d : Nat} {x : TileDesc} (h : ∀ j n, ¬ Issues s d x j n) : issueTile d x s = s := by
  unfold issueTile
  split
  · rfl
  next j hj =>
    extract_lets g
    split
    · rfl
    next n hn =>
      refine if_pos ?_
      rw [← Bool.not_eq_false]
      exact fun hf => h j n ((issues_iff hj hn).2 hf)

/-- The engine after a tile is put into its window. -/
theorem putTile_engine (d : Nat) (x : TileDesc) (res : List (List (List Nat))) (s : State) : ∃ owed operands, engineOf (putTile d x res s) d = { engineOf s d with
    tiles := (engineOf s d).tiles ++ [⟨(engineOf s d).nextTile, x.realm.val, x.job, x.node, x.work, x.cluster.val, x.array.val, failedAt (engineOf s d) x, res⟩],
    nextTile := (engineOf s d).nextTile + 1, homes := (engineOf s d).homes.filter fun h => (s.jobs.map (·.acc)).contains h.job, owed := owed, operands := operands } := by
  unfold putTile
  extract_lets live e'
  rw [engineOf_regMod, engineOf_modEngine_self]
  exact ⟨_, _, rfl⟩

theorem putTile_others {d : Nat} {x : TileDesc} {res : List (List (List Nat))} (h : EnginesKept d s t) : EnginesKept d s (putTile d x res t) := by
  intro c hc
  unfold putTile
  extract_lets live e'
  rw [engineOf_regMod]
  exact enginesKept_mod h c hc

theorem putTile_frame (d : Nat) (x : TileDesc) (res : List (List (List Nat))) (s : State) :
    putTile d x res s = { s with reg := (putTile d x res s).reg, engines := (putTile d x res s).engines } := rfl

theorem putTile_highWater (d : Nat) (x : TileDesc) (res : List (List (List Nat))) (s : State) : regGet (putTile d x res s) (K.ENG_HIGH_WATER_tiles d) =
    max (regGet s (K.ENG_HIGH_WATER_tiles d)) ((engineOf s d).tiles.length + 1) := by
  unfold putTile
  extract_lets live e'
  rw [regGet_regMod_self, engineOf_modEngine_self, regGet_modEngine, Nat.max_comm, List.length_append]
  rfl

theorem putTile_kept (d : Nat) (x : TileDesc) (res : List (List (List Nat))) (s : State) : RegsKept [K.ENG_HIGH_WATER_tiles d] s (putTile d x res s) := by
  unfold putTile
  extract_lets live e'
  exact kept_mod (List.mem_singleton.2 rfl) (t := e') (kept_refl _ s)

theorem tileIssue_runs (d : Fin 4) (x : TileDesc) {j : Job} {n : GNode} (h : Issues s d x j n) :
    let e := engineOf s d
    let r := x.realm.val
    let i := x.cluster.val * 8 + x.array.val
    let live := s.jobs.map (·.acc)
    let defers := x.work.kind = .array ∧ (∃ q ∈ e.due, q.1 = i) ∧ turnCome s d i = true
    Runs (.tileIssue d x) s fun t =>
      (engineOf t d).tiles = e.tiles ++ [⟨e.nextTile, r, x.job, x.node, x.work, x.cluster, x.array, failedAt e x, formTile s d j (jobGraph s j) n x.work⟩] ∧
      (engineOf t d).nextTile = e.nextTile + 1 ∧
      (defers → (engineOf t d).due = e.due.map (fun q => if q.1 = i then (q.1, q.2 + 1) else q) ∧
        regGet t (K.REH_DEFER_count d) = satInc max32 (regGet s (K.REH_DEFER_count d))) ∧
      (¬ defers → (engineOf t d).due = e.due ∧ regGet t (K.REH_DEFER_count d) = regGet s (K.REH_DEFER_count d)) ∧
      (engineOf t d).spent = (if r = 0 then e.spent else tmod 0 r (· + 1) (if (rotationLeft s d).isEmpty then [] else e.spent)) ∧
      (engineOf t d).homes = e.homes.filter (fun h => live.contains h.job) ∧
      engineOf t d = { e with tiles := (engineOf t d).tiles, nextTile := e.nextTile + 1, due := (engineOf t d).due, spent := (engineOf t d).spent,
                              homes := (engineOf t d).homes, owed := (engineOf t d).owed, operands := (engineOf t d).operands } ∧
      EnginesKept d s t ∧ regGet t (K.ENG_HIGH_WATER_tiles d) = max (regGet s (K.ENG_HIGH_WATER_tiles d)) (e.tiles.length + 1) ∧
      t = { s with reg := t.reg, engines := t.engines } ∧ RegsKept [K.ENG_HIGH_WATER_tiles d, K.REH_DEFER_count d] s t := by
  intro e r i live defers
  obtain ⟨owed, operands, heng⟩ := putTile_engine d.val x (formTile s d j (jobGraph s j) n x.work) (issueCounted d.val x s)
  have hcount := issueCounted_engine d.val x s
  have hjobs : (issueCounted d.val x s).jobs = s.jobs := by rw [issueCounted_frame]
  have hdefer : regGet (putTile d.val x (formTile s d j (jobGraph s j) n x.work) (issueCounted d.val x s)) (K.REH_DEFER_count d) =
      if defersNow s d x = true then satInc max32 (regGet s (K.REH_DEFER_count d)) else regGet s (K.REH_DEFER_count d) :=
    (putTile_kept d.val x _ _ (K.REH_DEFER_count d) (by grind)).trans (issueCounted_defer d.val x s)
  rw [hcount, hjobs] at heng
  refine ⟨_, congrArg Host.Outcome.next (issueTile_issues h), ?_, ?_, fun hd => ⟨?_, ?_⟩, fun hd => ⟨?_, ?_⟩, ?_, ?_, ?_, ?_, ?_, ?_, ?_⟩
  · rw [heng]
    rfl
  · rw [heng]
  · rw [heng]
    exact if_pos ((defersNow_iff s d x).2 hd)
  · rw [hdefer, if_pos ((defersNow_iff s d x).2 hd)]
  · rw [heng]
    exact if_neg fun hn => hd ((defersNow_iff s d x).1 hn)
  · rw [hdefer, if_neg fun hn => hd ((defersNow_iff s d x).1 hn)]
  · rw [heng]
    rfl
  · rw [heng]
  · rw [heng]
  · exact putTile_others (issueCounted_others d.val x s)
  · rw [putTile_highWater, hcount, issueCounted_kept d.val x s _ (by grind)]
  · rw [putTile_frame, issueCounted_frame]
  · intro k hk
    rw [putTile_kept _ _ _ _ k (by grind), issueCounted_kept _ _ _ k (by grind)]

/-! What an issue implies -/

theorem mayIssue_cases {d : Nat} {x : TileDesc} {j : Job} {g : Graph} {n : GNode} (h : mayIssue s d x j g n = true) :
    j.realm = x.realm.val ∧ windowFree s d x.realm.val = true ∧ withinRunAhead s d j g n.idx = true ∧ inputsReady s d j g n = true ∧
    realmTurn s d x.realm.val = true ∧ jobTurn s d j n.idx = true ∧ (x.realm.val = 0 ∨ risesFast s d = false) := by
  simp only [mayIssue, Bool.and_eq_true, Bool.or_eq_true, beq_iff_eq, Bool.not_eq_true'] at h
  obtain ⟨⟨⟨⟨⟨⟨⟨⟨⟨⟨-, hr⟩, -⟩, hw⟩, ha⟩, hi⟩, -⟩, -⟩, hturn⟩, hjob⟩, hrise⟩ := h
  exact ⟨hr, hw, ha, hi, hturn, hjob, hrise⟩

theorem realmTurn_cases {d r : Nat} (hr : r ≠ 0) (h : realmTurn s d r = true) :
    vehicleWaits s d = false ∧ (spentOf s d r < shareOf s r ∨ rotationLeft s d = []) := by
  simp only [realmTurn, Bool.or_eq_true, Bool.and_eq_true, beq_iff_eq, Bool.not_eq_true', List.isEmpty_iff, List.contains_iff_mem] at h
  obtain ⟨hv, hrot⟩ := h.resolve_left hr
  refine ⟨hv, hrot.symm.imp_left fun hm => ?_⟩
  have hp := (List.mem_filter.1 hm).2
  rw [Bool.and_eq_true] at hp
  exact of_decide_eq_true hp.2

theorem jobTurn_earlier {d node : Nat} {j k : Job} (h : jobTurn s d j node = true) (hk : k ∈ s.jobs) (hr : k.realm = j.realm) (ha : k.acc < j.acc) :
    jobReadyAll s d k = 0 := by
  rw [jobTurn, Bool.and_eq_true, List.all_eq_true] at h
  have hp := h.1 k hk
  simp only [Bool.or_eq_true, bne_iff_ne, decide_eq_true_eq, beq_iff_eq] at hp
  exact hp.resolve_left fun h => h.elim (fun hne => hne hr) (fun hle => absurd hle (by omega))

theorem mustRehearse_waits {d i : Nat} (h : mustRehearse s d i = false) (ht : turnCome s d i = true) {q : Nat × Nat} (hq : q ∈ (engineOf s d).due) (hi : q.1 = i) :
    q.2 < 2 ∧ inBurst s d = true := by
  have hp := List.any_eq_false.1 h q hq
  simp only [ht, hi, beq_self_eq_true, Bool.true_and, Bool.not_eq_true, Bool.not_eq_false', Bool.and_eq_true, decide_eq_true_eq] at hp
  exact hp.symm

theorem issues_implies {d : Nat} {x : TileDesc} {j : Job} {n : GNode} (h : Issues s d x j n) :
    windowFree s d x.realm = true ∧ withinRunAhead s d j (jobGraph s j) n.idx = true ∧ inputsReady s d j (jobGraph s j) n = true ∧
    (x.realm ≠ 0 → vehicleWaits s d = false ∧ risesFast s d = false ∧ (spentOf s d x.realm < shareOf s x.realm ∨ rotationLeft s d = [])) ∧
    (∀ k ∈ s.jobs, k.realm = j.realm → k.acc < j.acc → jobReadyAll s d k = 0) ∧
    (x.work.kind = .array → turnCome s d (x.cluster.val * 8 + x.array.val) = true →
      ∀ q ∈ (engineOf s d).due, q.1 = x.cluster.val * 8 + x.array.val → q.2 < 2 ∧ inBurst s d = true) := by
  obtain ⟨-, -, -, -, hm, -, -, hreh⟩ := h
  obtain ⟨-, hw, ha, hi, hturn, hjob, hrise⟩ := mayIssue_cases hm
  refine ⟨hw, ha, hi, fun hr => ?_, fun k hk hr hacc => jobTurn_earlier hjob hk hr hacc, fun hk ht q hq => mustRehearse_waits (hreh hk) ht hq⟩
  have hr0 : x.realm.val ≠ 0 := fun h0 => hr (Fin.ext h0)
  obtain ⟨hv, hrot⟩ := realmTurn_cases hr0 hturn
  exact ⟨hv, hrise.resolve_left hr0, hrot⟩

end Sys2Proof.Machine
end

section
/-! PROOFS. Tiles leave the window: retirement, detections, the third failure (R137, R148 to R152). -/

namespace Sys2Proof.Machine

variable {s t u : State}

/-! What is written home is memory alone -/

/-- A state that differs from another in its memories alone. -/
def MemOnly (s t : State) : Prop := t = { s with mem := t.mem }

theorem MemOnly.refl (s : State) : MemOnly s s := rfl

theorem MemOnly.trans (h : MemOnly s t) (g : MemOnly t u) : MemOnly s u := by
  rw [MemOnly, g, h]

theorem MemOnly.foldl {α : Type} {f : State → α → State} (hf : ∀ t x, MemOnly t (f t x)) (l : List α) (s : State) : MemOnly s (l.foldl f s) := by
  induction l generalizing s with
  | nil => exact .refl s
  | cons x l ih => exact (hf s x).trans (ih _)

theorem MemOnly.engineOf (h : MemOnly s t) (d : Nat) : engineOf t d = engineOf s d := by
  rw [h]
  rfl

theorem realmWrite_memOnly (r a : Nat) (bs : List Byte) (s : State) : MemOnly s (realmWrite r a bs s) := by
  unfold realmWrite dmaWrite
  split
  · split
    · rfl
    · rfl
  · rfl

theorem sideWrite_memOnly (b : Bool) (r a : Nat) (bs : List Byte) (s : State) : MemOnly s (sideWrite b r a bs s) := by
  unfold sideWrite
  split
  · exact MemOnly.foldl (f := fun s (x : Byte × Nat) => { s with mem := copyWrite r (a + x.2) (sideOff s b (quarterOf s (a + x.2))) [x.1] s.mem }) (fun _ _ => rfl) _ s
  · exact realmWrite_memOnly r a bs s

theorem rowHome_memOnly (b : Bool) (r : Nat) (y : TDesc) (row u0 : Nat) (units : List Nat) (s : State) : MemOnly s (rowHome b r y row u0 units s) := by
  unfold rowHome
  split
  · exact .refl s
  · exact MemOnly.foldl (fun t w => sideWrite_memOnly ..) _ s

theorem blockHome_memOnly (b : Bool) (r : Nat) (y : TDesc) (rows : List Nat) (c0 : Nat) (block : List (List Nat)) (s : State) :
    MemOnly s (blockHome b r y rows c0 block s) := by
  unfold blockHome
  exact MemOnly.foldl (fun t w => rowHome_memOnly ..) _ s

theorem writeHome_memOnly (s : State) (d : Nat) (j : Job) (g : Graph) (n : GNode) (x : Tile) : MemOnly s (writeHome s d j g n x) := by
  unfold writeHome
  extract_lets outs b
  split
  · split
    · exact blockHome_memOnly ..
    · exact .refl s
  · exact MemOnly.foldl (fun t w => blockHome_memOnly ..) _ s
  · exact .refl s

/-! A clean tile -/

theorem arrayFault_clean (v : Option MatView) (w : TileWork) : arrayFault v w {} = false := by
  unfold arrayFault
  split
  · rw [checksumsHold_clean]
    rfl
  · rfl
  · rfl

theorem dropTile_engine (d k : Nat) (s : State) : engineOf (dropTile d k s) d = { engineOf s d with tiles := (engineOf s d).tiles.filter fun u => u.id != k } :=
  engineOf_modEngine_self ..

theorem retireTile_found {d k : Nat} {f : TileFault} {again : Option (Fin 24 × Fin 8)} {x : Tile} (h : (engineOf s d).tiles.find? (fun u => u.id == k) = some x) :
    retireTile d k f again s = checkTile d x f again s := by
  unfold retireTile
  rw [h]

theorem checkTile_clean (d : Nat) (x : Tile) (again : Option (Fin 24 × Fin 8)) (s : State) : checkTile d x {} again s = retirePassed d x {} s := by
  unfold checkTile
  rw [arrayFault_clean]
  rfl

theorem find_id {d k : Nat} {x : Tile} (h : (engineOf s d).tiles.find? (fun u => u.id == k) = some x) : x.id = k := by
  have hp := List.find?_some h
  exact beq_iff_eq.1 hp

theorem retirePassed_gone {d : Nat} {x : Tile} {f : TileFault} (h : findJob s x.job = none) : retirePassed d x f s = dropTile d x.id s := by
  unfold retirePassed
  rw [h]

theorem retirePassed_waits {d : Nat} {x : Tile} {f : TileFault} {j : Job} {n : GNode} (hj : findJob s x.job = some j) (hn : (jobGraph s j).nodes[x.node]? = some n)
    (hk : x.work.kind ≠ .array) (hw : outputsFree s d j (jobGraph s j) n = false ∨ readsSettled s d j (jobGraph s j) n = false) : retirePassed d x f s = s := by
  have hfree : (outputsFree s d j (jobGraph s j) n && readsSettled s d j (jobGraph s j) n) = false := Bool.and_eq_false_iff.2 hw
  unfold retirePassed
  rw [hj]
  dsimp only
  rw [hn]
  dsimp only
  rw [hfree]
  exact if_pos (by rw [bne_iff_ne.2 hk]; rfl)

theorem retirePassed_retires {d : Nat} {x : Tile} {j : Job} {n : GNode} (hj : findJob s x.job = some j) (hn : (jobGraph s j).nodes[x.node]? = some n)
    (hw : x.work.kind = .array ∨ (outputsFree s d j (jobGraph s j) n = true ∧ readsSettled s d j (jobGraph s j) n = true)) :
    retirePassed d x {} s = modEngine d (fun e => { e with tiles := e.tiles.filter (fun u => u.id != x.id), homes := e.homes ++ [⟨x.job, x.node, x.work, x.cluster, x.result⟩] })
      (writeHome s d j (jobGraph s j) n x) := by
  unfold retirePassed
  rw [hj]
  dsimp only
  rw [hn]
  dsimp only
  refine if_neg ?_
  rcases hw with hk | ⟨ho, hr⟩
  · rw [hk]
    exact Bool.false_ne_true
  · rw [ho, hr, Bool.true_and, Bool.not_true, Bool.and_false]
    exact Bool.false_ne_true

/-! A detection -/

theorem recordA_lastClass (src : Nat) (s : State) : recordA src s = { s with lastClass := 1 } := rfl

/-- Records of class A leave their class alone. -/
theorem foldl_recordA {α : Type} (l : List α) (hl : l ≠ []) (src : Nat) (s : State) : l.foldl (fun s _ => recordA src s) s = { s with lastClass := 1 } := by
  have hcons : ∀ (l : List α) (s : State), s.lastClass = 1 → l.foldl (fun s _ => recordA src s) s = s := by
    intro l
    induction l with
    | nil => exact fun _ _ => rfl
    | cons x l ih => exact fun s h => (ih (recordA src s) rfl).trans ((recordA_lastClass src s).trans (by rw [← h]))
  obtain ⟨x, l, rfl⟩ := List.exists_cons_of_ne_nil hl
  exact hcons l _ rfl

/-- What a detection on an array leaves of its engine (R150, R151). -/
theorem detect_array {d i : Nat} (hi : i < 192) (s : State) : engineOf (detect d i s) d = { engineOf s d with
    detections := (engineOf s d).detections ++ [(i, frameNo s)],
    rehearsing := (engineOf s d).rehearsing.map fun q => if q.1 = i then (q.1, true) else q,
    called := if ∃ q ∈ (engineOf s d).called, q.1 = i then (engineOf s d).called else (engineOf s d).called ++ [(i, [i])] } := by
  have hin : ∀ n : Nat, ([i].contains n = true) = (n = i) := fun n => by rw [List.contains_iff_mem, List.mem_singleton]
  have hcalled : ((engineOf s d).called.any (fun q => q.1 == i) || [i].isEmpty) = true ↔ ∃ q ∈ (engineOf s d).called, q.1 = i := by
    rw [List.isEmpty_cons, Bool.or_false, List.any_eq_true]
    simp only [beq_iff_eq]
  unfold detect
  rw [if_pos hi, engineOf_modEngine_self]
  simp only [hin, hcalled]
  rfl

theorem detect_others (d i : Nat) (s : State) : EnginesKept d s (detect d i s) := by
  unfold detect
  exact enginesKept_mod (enginesKept_refl d s)

theorem detect_frame (d i : Nat) (s : State) : detect d i s = { s with engines := (detect d i s).engines } := rfl

/-- The places at which a tile has failed, with the place it is at (R152). -/
def failedNow (x : Tile) : List (Nat × Nat) := if x.failed.contains (placeOf x) then x.failed else x.failed ++ [placeOf x]

theorem checkTile_arrayFault {d : Nat} {x : Tile} {f : TileFault} {again : Option (Fin 24 × Fin 8)} {j : Job} (hj : findJob s x.job = some j)
    (hf : arrayFault (tileView s x) x.work f = true) (hs : sramErrors s f = []) : checkTile d x f again s = failTile d x (x.cluster * 8 + x.array) again s := by
  unfold checkTile
  rw [hf, hs]
  exact if_pos (by rw [List.foldl_nil, hj]; rfl)

theorem failTile_owed {d i : Nat} {x : Tile} (hn : (failedNow x).length < 3) : failTile d x i none s =
    modEngine d (fun e => { e with owed := e.owed ++ [⟨x.job, x.node, x.work, failedNow x⟩] }) (dropTile d x.id (detect d i s)) := by
  unfold failTile
  extract_lets failed u
  exact if_neg (Nat.not_le.2 hn)

/-- A job whose tile has failed for the third time: the window without its tiles. -/
def withoutTiles (job : Nat) (s : State) : State :=
  (List.range 4).foldl (fun s k => modEngine k (fun e => { e with tiles := e.tiles.filter fun u => u.job != job }) s) s

theorem withoutTiles_tiles (job : Nat) (s : State) {c : Nat} (hc : c < 4) :
    (engineOf (withoutTiles job s) c).tiles = (engineOf s c).tiles.filter fun y => y.job != job := by
  have hfold : ∀ (l : List Nat) (s : State), l.Nodup → (engineOf (l.foldl (fun s k => modEngine k (fun e => { e with tiles := e.tiles.filter fun u => u.job != job }) s) s) c).tiles =
      if c ∈ l then (engineOf s c).tiles.filter (fun y => y.job != job) else (engineOf s c).tiles := by
    intro l
    induction l with
    | nil => exact fun _ _ => rfl
    | cons k l ih =>
      intro s hl
      obtain ⟨hk, hl⟩ := List.nodup_cons.1 hl
      rw [List.foldl_cons, ih _ hl]
      by_cases hck : c = k
      · subst hck
        rw [if_neg hk, engineOf_modEngine_self, if_pos List.mem_cons_self]
      · rw [engineOf_modEngine_ne _ _ hck]
        simp only [List.mem_cons, hck, false_or]
  rw [withoutTiles, hfold _ s List.nodup_range, if_pos (List.mem_range.2 hc)]

theorem withoutTiles_frame (job : Nat) (s : State) : ∃ engines, withoutTiles job s = { s with engines := engines } := by
  have hfold : ∀ (l : List Nat) (s : State), ∃ engines,
      l.foldl (fun s k => modEngine k (fun e => { e with tiles := e.tiles.filter fun u => u.job != job }) s) s = { s with engines := engines } := by
    intro l
    induction l with
    | nil => exact fun s => ⟨s.engines, rfl⟩
    | cons k l ih =>
      intro s
      obtain ⟨engines, h⟩ := ih (modEngine k (fun e => { e with tiles := e.tiles.filter fun u => u.job != job }) s)
      exact ⟨engines, h⟩
  exact hfold (List.range 4) s

theorem failTile_fails {d i : Nat} {x : Tile} {j : Job} {again : Option (Fin 24 × Fin 8)} (hj : findJob s x.job = some j) (hn : 3 ≤ (failedNow x).length) :
    failTile d x i again s = engineFault j x.node (withoutTiles x.job (detect d i s)) := by
  have hfound : findJob (withoutTiles x.job (detect d i s)) x.job = some j := by
    obtain ⟨engines, hw⟩ := withoutTiles_frame x.job (detect d i s)
    rw [hw]
    exact hj
  unfold failTile
  extract_lets failed u v
  have hv : findJob v x.job = some j := hfound
  rw [if_pos (show 3 ≤ failed.length from hn), hv]
  rfl

theorem findJob_engineFault (j : Job) (node : Nat) (s : State) : findJob (engineFault j node s) j.acc = none := by
  unfold engineFault
  extract_lets f
  split
  · exact findJob_completeJob ..
  · exact findJob_completeJob ..

/-- A tile whose words alone showed an error is read once more (R150). -/
theorem checkTile_errors {d : Nat} {x : Tile} {f : TileFault} {again : Option (Fin 24 × Fin 8)} (hf : arrayFault (tileView s x) x.work f = false) (hl : laneFault f = false)
    (hd : (f.sram.zipIdx.all fun y => secDed s.freeCtr y != some true) = true) (hs : sramErrors s f ≠ []) : checkTile d x f again s = { s with lastClass := 1 } := by
  have hdouble : f.sram.zipIdx.any (fun y => secDed s.freeCtr y == some true) = false := by
    rw [← Bool.not_eq_true, List.any_eq_true]
    rintro ⟨y, hy, heq⟩
    have := List.all_eq_true.1 hd y hy
    rw [beq_iff_eq.1 heq] at this
    exact absurd this (by decide)
  have hne : (!(sramErrors s f).isEmpty) = true := by rw [List.isEmpty_eq_false_iff.2 hs]; rfl
  unfold checkTile
  rw [hf, hl]
  dsimp only
  rw [foldl_recordA _ hs]
  simp only [if_neg Bool.false_ne_true]
  rw [if_neg (by rw [hdouble]; exact Bool.false_ne_true), if_pos hne]

theorem retireTile_unknown {d k : Nat} {f : TileFault} {again : Option (Fin 24 × Fin 8)} (ht : ∀ u ∈ (engineOf s d).tiles, u.id ≠ k) (hg : ∀ u ∈ (engineOf s d).ghosts, u.id ≠ k) :
    retireTile d k f again s = s := by
  have hnone : ∀ l : List Tile, (∀ u ∈ l, u.id ≠ k) → l.find? (fun u => u.id == k) = none :=
    fun l h => List.find?_eq_none.2 fun u hu => by rw [beq_iff_eq]; exact h u hu
  unfold retireTile
  rw [hnone _ ht]
  dsimp only
  rw [hnone _ hg]

/-! The statement -/

theorem tileRetire_gone {d : Fin 4} {k : Nat} {x : Tile} (again : Option (Fin 24 × Fin 8)) (hx : (engineOf s d).tiles.find? (fun u => u.id == k) = some x)
    (hj : findJob s x.job = none) : Runs (.tileRetire d k {} again) s fun t =>
      engineOf t d = { engineOf s d with tiles := (engineOf s d).tiles.filter fun u => u.id != k } ∧ EnginesKept d s t ∧ t = { s with engines := t.engines } := by
  have hexec : retireTile d.val k {} again s = dropTile d k s := by
    rw [retireTile_found hx, checkTile_clean, retirePassed_gone hj, find_id hx]
  exact ⟨_, congrArg Host.Outcome.next hexec, dropTile_engine .., enginesKept_mod (enginesKept_refl d s), rfl⟩

theorem tileRetire_home {d : Fin 4} {k : Nat} {x : Tile} {j : Job} {n : GNode} (again : Option (Fin 24 × Fin 8))
    (hx : (engineOf s d).tiles.find? (fun u => u.id == k) = some x) (hj : findJob s x.job = some j) (hn : (jobGraph s j).nodes[x.node]? = some n)
    (hw : x.work.kind = .array ∨ (outputsFree s d j (jobGraph s j) n = true ∧ readsSettled s d j (jobGraph s j) n = true)) :
    Runs (.tileRetire d k {} again) s fun t =>
      engineOf t d = { engineOf s d with tiles := (engineOf s d).tiles.filter (fun u => u.id != k), homes := (engineOf s d).homes ++ [⟨x.job, x.node, x.work, x.cluster, x.result⟩] } ∧ EnginesKept d s t ∧
      t = { writeHome s d j (jobGraph s j) n x with engines := t.engines } := by
  have hexec := (retireTile_found (f := {}) (again := again) hx).trans ((checkTile_clean ..).trans (retirePassed_retires hj hn hw))
  have hhome := writeHome_memOnly s d j (jobGraph s j) n x
  rw [find_id hx] at hexec
  refine ⟨_, congrArg Host.Outcome.next hexec, ?_, enginesKept_mod fun c _ => hhome.engineOf c, rfl⟩
  rw [engineOf_modEngine_self, hhome.engineOf]

theorem tileRetire_owed {d : Fin 4} {k : Nat} {x : Tile} {j : Job} {f : TileFault} (hx : (engineOf s d).tiles.find? (fun u => u.id == k) = some x)
    (hj : findJob s x.job = some j) (hi : x.cluster * 8 + x.array < 192) (hf : arrayFault (tileView s x) x.work f = true) (hs : sramErrors s f = [])
    (hn : (failedNow x).length < 3) : Runs (.tileRetire d k f none) s fun t =>
      engineOf t d = { engineOf s d with
        tiles := (engineOf s d).tiles.filter (fun u => u.id != k), owed := (engineOf s d).owed ++ [⟨x.job, x.node, x.work, failedNow x⟩],
        detections := (engineOf s d).detections ++ [(x.cluster * 8 + x.array, frameNo s)],
        rehearsing := (engineOf s d).rehearsing.map (fun q => if q.1 = x.cluster * 8 + x.array then (q.1, true) else q),
        called := if ∃ q ∈ (engineOf s d).called, q.1 = x.cluster * 8 + x.array then (engineOf s d).called
          else (engineOf s d).called ++ [(x.cluster * 8 + x.array, [x.cluster * 8 + x.array])] } ∧
      EnginesKept d s t ∧ t = { s with engines := t.engines } := by
  have hexec := (retireTile_found (f := f) (again := none) hx).trans ((checkTile_arrayFault hj hf hs).trans (failTile_owed hn))
  rw [find_id hx] at hexec
  refine ⟨_, congrArg Host.Outcome.next hexec, ?_, enginesKept_mod (enginesKept_mod (detect_others d _ s)), rfl⟩
  rw [engineOf_modEngine_self, dropTile_engine, detect_array hi]

theorem tileRetire_fails {d : Fin 4} {k : Nat} {x : Tile} {j : Job} {f : TileFault} (again : Option (Fin 24 × Fin 8))
    (hx : (engineOf s d).tiles.find? (fun u => u.id == k) = some x) (hj : findJob s x.job = some j) (hi : x.cluster * 8 + x.array < 192)
    (hf : arrayFault (tileView s x) x.work f = true) (hs : sramErrors s f = []) (hn : 3 ≤ (failedNow x).length) :
    Runs (.tileRetire d k f again) s fun t => findJob t x.job = none ∧ ∃ u, t = engineFault j x.node u ∧ u = { s with engines := u.engines } ∧
      ∀ c, c < 4 → (engineOf u c).tiles = (engineOf s c).tiles.filter (fun y => y.job != x.job) := by
  have hexec := (retireTile_found (f := f) (again := again) hx).trans ((checkTile_arrayFault hj hf hs).trans (failTile_fails hj hn))
  refine ⟨_, congrArg Host.Outcome.next hexec, ?_, _, rfl, ?_, fun c hc => ?_⟩
  · rw [← findJob_acc hj]
    exact findJob_engineFault ..
  · obtain ⟨engines, hw⟩ := withoutTiles_frame x.job (detect d (x.cluster * 8 + x.array) s)
    rw [hw, detect_frame]
  · rw [withoutTiles_tiles _ _ hc]
    by_cases hcd : c = d
    · rw [hcd, detect_array hi]
    · rw [detect_others _ _ _ c hcd]

/-- Settles O42: the issue and its conditions by `tileIssue_runs` and `issues_implies`, the retirement case by case, the checksums by column. -/
theorem tileWindow : Obligations.TileWindow := by
  unfold Obligations.TileWindow
  refine ⟨fun d x s j n h => tileIssue_runs d x h, fun d x s h => congrArg Host.Outcome.next (issueTile_waits h), fun d x s j n h => issues_implies h,
    fun d k again s x hx => ⟨fun hj => tileRetire_gone again hx hj, fun j n hj hn => ⟨fun hw => tileRetire_home again hx hj hn hw, fun hk hw => ?_⟩, ?_, ?_⟩,
    fun d k f again s ht hg => congrArg Host.Outcome.next (retireTile_unknown ht hg),
    fun v p q k => ⟨checksumsHold_clean v p q k, fun a b x hx hrow hcol => checksumsHold_wrong v p q k a b hx hrow hcol⟩⟩
  · exact congrArg Host.Outcome.next ((retireTile_found hx).trans ((checkTile_clean ..).trans (retirePassed_waits hj hn hk hw)))
  · rintro j f fl hj hc ha hf hs rfl
    exact ⟨fun hn => tileRetire_owed hx hj (by omega) hf hs hn, fun hn => tileRetire_fails again hx hj (by omega) hf hs hn⟩
  · exact fun f hf hl hd hs => congrArg Host.Outcome.next ((retireTile_found hx).trans (checkTile_errors hf hl hd hs))

end Sys2Proof.Machine
end

section
/-! PROOFS. Bits of a mask; what an entry to SAFE_OFF and the removal of a die leave (R29, R328, R334). -/

namespace Sys2Proof.Machine

variable {s t u : State}

/-! Bits of a mask -/

/-- A clear bit set by addition: no other bit changes. -/
theorem bitOf_add_two_pow {v i : Nat} (h : bitOf v i = false) (j : Nat) : bitOf (v + 2 ^ i) j = if j = i then true else bitOf v j := by
  have hclear : v / 2 ^ i % 2 = 0 := by
    have := of_decide_eq_false h
    omega
  have hsum : (v + 2 ^ i) / 2 ^ i = v / 2 ^ i + 1 := Nat.add_div_right v (Nat.two_pow_pos i)
  have hj : (v + 2 ^ i) / 2 ^ j % 2 = if j = i then 1 else v / 2 ^ j % 2 := by
    rcases Nat.lt_trichotomy j i with hlt | rfl | hlt
    · obtain ⟨c, rfl⟩ : ∃ c, i = j + 1 + c := ⟨i - (j + 1), by omega⟩
      rw [if_neg (by omega), Nat.pow_add, Nat.pow_succ, Nat.mul_assoc, Nat.add_mul_div_left _ _ (Nat.two_pow_pos j)]
      omega
    · rw [if_pos rfl, hsum]
      omega
    · obtain ⟨c, rfl⟩ : ∃ c, j = i + 1 + c := ⟨j - (i + 1), by omega⟩
      rw [if_neg (by omega), Nat.pow_add, Nat.pow_succ, ← Nat.div_div_eq_div_mul, ← Nat.div_div_eq_div_mul, hsum, ← Nat.div_div_eq_div_mul, ← Nat.div_div_eq_div_mul]
      congr 2
      omega
  unfold bitOf
  rw [hj]
  split
  · rfl
  · rfl

theorem bitOf_sub_two_pow {v i : Nat} (h : bitOf v i = true) (j : Nat) : bitOf (v - 2 ^ i) j = if j = i then false else bitOf v j := by
  have hset : v / 2 ^ i % 2 = 1 := beq_iff_eq.1 h
  have hle : 2 ^ i ≤ v := by
    by_contra hlt
    rw [Nat.div_eq_of_lt (Nat.not_le.1 hlt)] at hset
    exact absurd hset (by decide)
  obtain ⟨w, rfl⟩ : ∃ w, v = w + 2 ^ i := ⟨v - 2 ^ i, by omega⟩
  have hclear : bitOf w i = false := by
    rw [Nat.add_div_right w (Nat.two_pow_pos i)] at hset
    exact decide_eq_false (by omega)
  rw [Nat.add_sub_cancel, bitOf_add_two_pow hclear]
  split
  · subst_vars
    exact hclear
  · rfl

theorem bitOf_withBit (v i : Nat) (b : Bool) (j : Nat) : bitOf (withBit v i b) j = if j = i then b else bitOf v j := by
  unfold withBit
  cases h : bitOf v i <;> cases b
  · rw [if_neg Bool.false_ne_true, if_neg Bool.false_ne_true]
    split
    · subst_vars
      exact h
    · rfl
  · rw [if_neg Bool.false_ne_true, if_pos rfl, bitOf_add_two_pow h]
  · rw [if_pos rfl, if_neg Bool.false_ne_true, bitOf_sub_two_pow h]
  · rw [if_pos rfl, if_pos rfl]
    split
    · subst_vars
      exact h
    · rfl

/-! Nothing stays in the windows of the engines -/

theorem tget_map_snd {α : Type} (d : α) (f : α → α) (hd : f d = d) (k : Nat) (l : List (Nat × α)) : tget d k (l.map fun e => (e.1, f e.2)) = f (tget d k l) := by
  induction l with
  | nil => exact hd.symm
  | cons e l ih =>
    obtain ⟨j, v⟩ := e
    simp only [List.map_cons, tget, ih]
    split <;> rfl

/-- An engine whose work has ended without a record (R33). -/
abbrev endedEngine (e : Engine) : Engine :=
  { e with tiles := [], ghosts := [], homes := [], owed := [], due := [], rehearsing := [], called := [], staged := [], operands := [] }

theorem enterSafeOff_tiles (s : State) (d : Nat) : (engineOf (enterSafeOff s) d).tiles = [] :=
  congrArg Engine.tiles (tget_map_snd Engine.init endedEngine rfl d s.engines)

/-- What leaves SAFE_OFF as it is, or enters it, keeps an empty window empty. -/
theorem safeOffFor_tiles {cause d : Nat} (h : (engineOf s d).tiles = []) : (engineOf (safeOffFor cause s) d).tiles = [] := by
  unfold safeOffFor
  split
  · exact h
  · exact enterSafeOff_tiles ..

theorem engineOf_raiseFault (d : EvDest) (e : Ev) (s : State) (k : Nat) : engineOf (raiseFault d e s) k = engineOf s k :=
  congrArg (tget Engine.init k) (raiseFault_engines d e s)

theorem classD_tiles {cause src d : Nat} (h : (engineOf s d).tiles = []) : (engineOf (classD cause src s) d).tiles = [] := by
  unfold classD
  split
  · rw [safeState, engineOf_raiseFault, safeOffFor_tiles h]
  · exact h

theorem dieIn_congr (h : regGet t K.ID_DIES_in_service = regGet s K.ID_DIES_in_service) (d : Nat) : dieIn t d = dieIn s d := by
  rw [dieIn, h, dieIn]

theorem classD_dieIn (cause src : Nat) (s : State) (d : Nat) : dieIn (classD cause src s) d = dieIn s d :=
  dieIn_congr (classD_kept (ks := classDKeys) (fun _ h => h) (kept_refl _ s) _ (by grind)) d

/-! The removal of a die -/

/-- The duplex mode without a die (R334). -/
abbrev withoutDie (k : Nat) (x : Duplex) : Duplex :=
  { x with testing := x.testing.filter (· != k), testNext := x.testNext.filter (· != k), rejoin := x.rejoin.filter (· != k) }

/-- The engine of a die that has left service: nothing is in its window, nothing is to be rehearsed (R21, R334). -/
abbrev idleEngine (e : Engine) : Engine :=
  { e with tiles := [], ghosts := [], due := [], rehearsing := [], called := [], staged := [], operands := [], homes := e.homes.filter fun h => h.work.kind != .array }

/-- A die out of service, before its stacks and journal are seen to. -/
def dieGone (k : Nat) (s : State) : State :=
  modEngine k idleEngine { (regMod K.ID_DIES_in_service (fun v => withBit v k false) s) with dpx := withoutDie k s.dpx }

/-- The record of a die removed. -/
def dieRemoved (k cause : Nat) (s : State) : State :=
  raiseFault .manager ⟨0x060B, 3, true, iodSteward, k, cause, 0⟩ (rehomeJournal k (loseDie k (dieGone k s)))

theorem removeDie_serving {k cause : Nat} (hd : dieIn s k = true) (ho : s.op ≠ .safeOff) (hp : powered s = true) :
    removeDie k cause s = if vehicleGone (dieRemoved k cause s) = true then classD 0 iodSteward (dieRemoved k cause s)
      else if (dieRemoved k cause s).op = .limp then replaceLimp k (dieRemoved k cause s) else dieRemoved k cause s := by
  refine if_neg ?_
  rw [hd, hp, decide_eq_false ho]
  decide

theorem removeDie_gone {k cause : Nat} (h : dieIn s k = false) : removeDie k cause s = s := if_pos (by rw [h]; rfl)

theorem removeDie_off {k cause : Nat} (h : s.op = .safeOff) : removeDie k cause s = s := if_pos (by rw [h, decide_eq_true rfl, Bool.or_true, Bool.true_or])

theorem removeDie_unpowered {k cause : Nat} (h : powered s = false) : removeDie k cause s = s := if_pos (by rw [h, Bool.not_false, Bool.or_true])

/-- The registers that the removal of a die writes. -/
abbrev removeKeys : List Nat := K.ID_DIES_in_service :: classDKeys

theorem dieGone_frame (k : Nat) (s : State) : ∃ mem, rehomeJournal k (loseDie k (dieGone k s)) = { s with
    reg := (regMod K.ID_DIES_in_service (fun v => withBit v k false) s).reg, dpx := withoutDie k s.dpx, engines := (modEngine k idleEngine s).engines, mem := mem } :=
  ⟨_, rfl⟩

/-- What the record of a die removed leaves: the die out of service, its engine idle, the record of class C; the operating state, the islands and the ports' enables are as they were. -/
theorem dieRemoved_parts (k cause : Nat) (s : State) : ∃ hosts mem, dieRemoved k cause s = { s with
    reg := (recordFault 3 iodSteward (regMod K.ID_DIES_in_service (fun v => withBit v k false) s)).reg, hosts := hosts, mem := mem, lastClass := 3, dpx := withoutDie k s.dpx,
    engines := (modEngine k idleEngine s).engines } := by
  obtain ⟨mem, hm⟩ := dieGone_frame k s
  obtain ⟨hosts, host, ht⟩ := raiseFault_parts .manager (e := ⟨0x060B, 3, true, iodSteward, k, cause, 0⟩) (Nat.le_add_left 1 2) (rehomeJournal k (loseDie k (dieGone k s)))
  rw [hm] at ht
  exact ⟨hosts, _, (congrArg (raiseFault .manager _) hm).trans ht⟩

theorem dieRemoved_reg (k cause : Nat) (s : State) :
    (dieRemoved k cause s).reg = (recordFault 3 iodSteward (regMod K.ID_DIES_in_service (fun v => withBit v k false) s)).reg := by
  obtain ⟨hosts, mem, h⟩ := dieRemoved_parts k cause s
  rw [h]

theorem dieRemoved_kept (k cause : Nat) (s : State) : RegsKept (K.ID_DIES_in_service :: faultKeys) s (dieRemoved k cause s) :=
  kept_reg (dieRemoved_reg k cause s) fun j hj => ((recordFault_regs ..).2 j (by grind)).trans (regGet_regMod_ne _ _ (by grind))

theorem dieRemoved_dieIn (k cause : Nat) (s : State) (d : Nat) : dieIn (dieRemoved k cause s) d = if d = k then false else dieIn s d := by
  have h : regGet (dieRemoved k cause s) K.ID_DIES_in_service = withBit (regGet s K.ID_DIES_in_service) k false := by
    rw [regGet_congr (dieRemoved_reg ..), (recordFault_regs ..).2 _ (by grind), regGet_regMod_self]
  rw [dieIn, h, bitOf_withBit, dieIn]

theorem dieRemoved_countC (k cause : Nat) (s : State) : regGet (dieRemoved k cause s) K.FAULT_COUNT_c = satInc 255 (regGet s K.FAULT_COUNT_c) := by
  rw [regGet_congr (dieRemoved_reg ..), recordFault_c, regGet_regMod_self, regGet_regSet_ne _ _ (by grind), regGet_regMod_ne _ _ (by grind)]

theorem dieRemoved_tiles (k cause : Nat) (s : State) : (engineOf (dieRemoved k cause s) k).tiles = [] := by
  obtain ⟨hosts, mem, h⟩ := dieRemoved_parts k cause s
  rw [h]
  exact congrArg Engine.tiles (engineOf_modEngine_self (s := s) k idleEngine)

/-- A LIMP pair that loses a die takes another, or the module enters SAFE_OFF (R391). -/
theorem replaceLimp_cases (k : Nat) (s : State) : (∃ pair, replaceLimp k s = { s with dpx := { s.dpx with limpPair := pair } }) ∨ replaceLimp k s = classD 8 iodSteward s := by
  unfold replaceLimp
  split
  · exact .inl ⟨_, rfl⟩
  · extract_lets isA side
    split
    · exact .inr rfl
    · exact .inl ⟨_, rfl⟩

/-- What is said of a die removed holds where it is kept by a change of the LIMP pair and by a class D detection. -/
theorem removeDie_keeps {k cause : Nat} {P : State → Prop} (hd : dieIn s k = true) (ho : s.op ≠ .safeOff) (hp : powered s = true) (h : P (dieRemoved k cause s))
    (hl : ∀ u pair, P u → P { u with dpx := { u.dpx with limpPair := pair } }) (hD : ∀ u c, P u → P (classD c iodSteward u)) : P (removeDie k cause s) := by
  rw [removeDie_serving hd ho hp]
  split
  · exact hD _ 0 h
  · split
    · rcases replaceLimp_cases k (dieRemoved k cause s) with ⟨pair, hr⟩ | hr
      · rw [hr]
        exact hl _ pair h
      · rw [hr]
        exact hD _ 8 h
    · exact h

/-- A die that served has left service, recorded as class C; no other die has (R334). -/
theorem removeDie_parts {k cause : Nat} (hd : dieIn s k = true) (ho : s.op ≠ .safeOff) (hp : powered s = true) :
    (∀ d, dieIn (removeDie k cause s) d = if d = k then false else dieIn s d) ∧
    regGet (removeDie k cause s) K.FAULT_COUNT_c = satInc 255 (regGet s K.FAULT_COUNT_c) ∧ (engineOf (removeDie k cause s) k).tiles = [] := by
  refine removeDie_keeps (P := fun t => (∀ d, dieIn t d = if d = k then false else dieIn s d) ∧
    regGet t K.FAULT_COUNT_c = satInc 255 (regGet s K.FAULT_COUNT_c) ∧ (engineOf t k).tiles = []) hd ho hp
    ⟨dieRemoved_dieIn k cause s, dieRemoved_countC k cause s, dieRemoved_tiles k cause s⟩ (fun u pair h => h) fun u c h => ?_
  obtain ⟨hin, hcount, htiles⟩ := h
  exact ⟨fun d => (classD_dieIn ..).trans (hin d), (classD_countC ..).trans hcount, classD_tiles htiles⟩

theorem removeDie_kept {ks : List Nat} {k cause : Nat} (hks : ∀ j ∈ removeKeys, j ∈ ks) (h : RegsKept ks s t) : RegsKept ks s (removeDie k cause t) := by
  by_cases hs : dieIn t k = true ∧ t.op ≠ .safeOff ∧ powered t = true
  · obtain ⟨hd, ho, hp⟩ := hs
    refine removeDie_keeps (P := RegsKept ks s) hd ho hp (fun j hj => ?_) (fun u pair hu => hu) fun u c hu =>
      classD_kept (fun j hj => hks j (List.mem_cons_of_mem _ hj)) hu
    exact (dieRemoved_kept k cause t j (by grind)).trans (h j hj)
  · by_cases hd : dieIn t k = true
    · by_cases hp : powered t = true
      · rw [removeDie_off (by grind)]
        exact h
      · rw [removeDie_unpowered (by simpa using hp)]
        exact h
    · rw [removeDie_gone (by simpa using hd)]
      exact h

/-- After the removal a die is out of service, or the module is in SAFE_OFF. -/
theorem removeDie_dieIn (k cause : Nat) (hp : powered s = true) : dieIn (removeDie k cause s) k = false ∨ (removeDie k cause s).op = .safeOff := by
  by_cases hd : dieIn s k = true
  · by_cases ho : s.op = .safeOff
    · rw [removeDie_off ho]
      exact .inr ho
    · exact .inl (((removeDie_parts hd ho hp).1 k).trans (if_pos rfl))
  · rw [removeDie_gone (by simpa using hd)]
    exact .inl (by simpa using hd)

/-! Decisions of the holder -/

theorem gate_frame (i : Isl) (d : Decision) (s : State) : gate i d s = { s with isl := { s.isl with gated := (gate i d s).isl.gated } } := by
  unfold gate
  split <;> rfl

theorem gateOr_acts {d : Decision} {act : State → State} (h : gates s (holder s) = false) : gateOr d act s = act s :=
  if_neg (by rw [h]; exact Bool.false_ne_true)

theorem gateOr_waits {d : Decision} {act : State → State} (h : gates s (holder s) = true) : gateOr d act s = gate (holder s) d s := if_pos h

theorem orderRemoval_kept {ks : List Nat} {k cause : Nat} (hks : ∀ j ∈ removeKeys, j ∈ ks) (h : RegsKept ks s t) : RegsKept ks s (orderRemoval k cause t) := by
  cases hg : gates t (holder t)
  · rw [orderRemoval, gateOr_acts hg]
    exact removeDie_kept hks h
  · rw [orderRemoval, gateOr_waits hg, gate_frame]
    exact h

end Sys2Proof.Machine
end

section
/-! PROOFS. Arrays and clusters withdrawn (R145, R151), passes recorded (R145, R150). -/

namespace Sys2Proof.Machine

variable {s t u : State}

/-! An array withdrawn -/

/-- The registers that a withdrawal writes. -/
abbrev outKeys (d i : Nat) : List Nat := [K.SERVICE_arrays d (i / 32), K.DET_WITHDRAWN_arrays d]

/-- An engine without what it has due or rehearses on an array. -/
abbrev withoutArray (i : Nat) (e : Engine) : Engine :=
  { e with due := e.due.filter fun q => q.1 != i, rehearsing := e.rehearsing.filter fun q => q.1 != i, called := (callsAfter e i).filter fun q => !q.2.isEmpty }

/-- An array struck from the registers. -/
def arrayStruck (d i : Nat) (s : State) : State :=
  regMod (K.DET_WITHDRAWN_arrays d) (fun v => min 192 (v + 1)) (regMod (K.SERVICE_arrays d (i / 32)) (fun v => withBit v (i % 32) false) s)

/-- An array out of service with its tiles owed, before its die is looked at. -/
def arrayOut (d i : Nat) (s : State) : State := { modEngine d (withoutArray i) (discardTiles d (fun t => onArray t i) (arrayStruck d i s)) with lastClass := 1 }

theorem withdrawArray_absent {d i : Nat} (h : arrayIn s d i = false) : withdrawArray d i s = s := if_pos (by rw [h]; rfl)

theorem withdrawArray_in {d i : Nat} (h : arrayIn s d i = true) : withdrawArray d i s =
    if ((List.range 24).all fun c => !clusterIn (arrayOut d i s) d c) = true then orderRemoval d 2 (arrayOut d i s) else arrayOut d i s := by
  unfold withdrawArray
  rw [if_neg (by rw [h]; exact Bool.false_ne_true)]
  extract_lets a b c e
  have he : e = arrayOut d i s := recordA_lastClass (nodeAddr d 0 0) c
  rw [he]

theorem arrayStruck_frame (d i : Nat) (s : State) : ∃ reg, arrayStruck d i s = { s with reg := reg } :=
  ⟨_, (rfl : arrayStruck d i s = { s with reg := (arrayStruck d i s).reg })⟩

theorem arrayOut_frame (d i : Nat) (s : State) : ∃ reg engines, arrayOut d i s = { s with reg := reg, engines := engines, lastClass := 1 } := by
  obtain ⟨reg, h⟩ := arrayStruck_frame d i s
  unfold arrayOut
  rw [h]
  exact ⟨reg, _, rfl⟩

theorem arrayOut_reg (d i : Nat) (s : State) : (arrayOut d i s).reg = (arrayStruck d i s).reg := rfl

theorem arrayOut_kept (d i : Nat) (s : State) : RegsKept (outKeys d i) s (arrayOut d i s) :=
  kept_reg (t := arrayStruck d i s) (arrayOut_reg d i s) (kept_mod (by simp) (kept_mod (by simp) (kept_refl _ s)))

theorem arrayOut_withdrawn {d i : Nat} (hi : i < 192) (s : State) :
    regGet (arrayOut d i s) (K.DET_WITHDRAWN_arrays d) = min 192 (regGet s (K.DET_WITHDRAWN_arrays d) + 1) := by
  rw [regGet_congr (arrayOut_reg d i s), arrayStruck, regGet_regMod_self, regGet_regMod_ne _ _ (by grind)]

theorem arrayOut_arrayIn {d i k : Nat} (hk : k < 192) (s : State) : arrayIn (arrayOut d i s) d k = if k = i then false else arrayIn s d k := by
  have hreg : regGet (arrayOut d i s) (K.SERVICE_arrays d (k / 32)) =
      if k / 32 = i / 32 then withBit (regGet s (K.SERVICE_arrays d (k / 32))) (i % 32) false else regGet s (K.SERVICE_arrays d (k / 32)) := by
    rw [regGet_congr (arrayOut_reg d i s), arrayStruck, regGet_regMod_ne _ _ (by grind)]
    split
    · rename_i h
      rw [h, regGet_regMod_self]
    · exact regGet_regMod_ne _ _ (by grind)
  rw [arrayIn, hreg, arrayIn]
  split
  · rename_i h
    rw [bitOf_withBit]
    by_cases hki : k = i
    · rw [if_pos hki, if_pos (by rw [hki])]
    · rw [if_neg hki, if_neg (by omega)]
  · rename_i h
    rw [if_neg fun hki => h (by rw [hki])]

theorem arrayOut_engine (d i : Nat) (s : State) : ∃ due rehearsing called, engineOf (arrayOut d i s) d = { engineOf s d with
    tiles := (engineOf s d).tiles.filter fun u => !onArray u i,
    owed := (engineOf s d).owed ++ ((engineOf s d).tiles.filter fun u => onArray u i).map fun u => ⟨u.job, u.node, u.work, u.failed⟩,
    due := due, rehearsing := rehearsing, called := called } := by
  have h : engineOf (arrayOut d i s) d = engineOf (modEngine d (withoutArray i) (discardTiles d (fun t => onArray t i) (arrayStruck d i s))) d := rfl
  rw [h, engineOf_modEngine_self, discardTiles, engineOf_modEngine_self]
  exact ⟨_, _, _, rfl⟩

theorem arrayOut_others (d i : Nat) (s : State) : EnginesKept d s (arrayOut d i s) := by
  intro c hc
  have h : engineOf (arrayOut d i s) c = engineOf (modEngine d (withoutArray i) (discardTiles d (fun t => onArray t i) (arrayStruck d i s))) c := rfl
  rw [h, engineOf_modEngine_ne _ _ hc, discardTiles, engineOf_modEngine_ne _ _ hc]
  rfl

/-- The registers of a die's arrays are none that the removal of a die writes. -/
theorem service_notMem_removeKeys (d w : Nat) : K.SERVICE_arrays d w ∉ removeKeys := by grind

theorem arrayIn_congr {d k : Nat} (h : regGet t (K.SERVICE_arrays d (k / 32)) = regGet s (K.SERVICE_arrays d (k / 32))) : arrayIn t d k = arrayIn s d k := by
  rw [arrayIn, h, arrayIn]

theorem orderRemoval_arrayIn (d c k j : Nat) (s : State) : arrayIn (orderRemoval j c s) d k = arrayIn s d k :=
  arrayIn_congr (orderRemoval_kept (ks := removeKeys) (fun _ h => h) (kept_refl _ s) _ (service_notMem_removeKeys d _))

/-- After its withdrawal an array is out of service, and no other has left it. -/
theorem withdrawArray_arrayIn {d i k : Nat} (hi : i < 192) (hk : k < 192) (s : State) : arrayIn (withdrawArray d i s) d k = if k = i then false else arrayIn s d k := by
  cases h : arrayIn s d i
  · rw [withdrawArray_absent h]
    split
    · subst_vars
      exact h
    · rfl
  · rw [withdrawArray_in h]
    split
    · rw [orderRemoval_arrayIn, arrayOut_arrayIn hk]
    · exact arrayOut_arrayIn hk s

theorem clusterIn_of_arrayIn {d k : Nat} (h : arrayIn s d k = true) : clusterIn s d (k / 8) = true :=
  List.any_eq_true.2 ⟨k % 8, List.mem_range.2 (Nat.mod_lt k (by decide)), by rw [Nat.div_add_mod' k 8]; exact h⟩

/-- Where another array of the die stays in service, so does the die. -/
theorem withdrawArray_stays {d i k : Nat} (h : arrayIn s d i = true) (hk : k < 192) (hne : k ≠ i) (hin : arrayIn s d k = true) :
    withdrawArray d i s = arrayOut d i s := by
  rw [withdrawArray_in h, if_neg]
  intro hall
  have hc := List.all_eq_true.1 hall (k / 8) (List.mem_range.2 (by omega))
  rw [clusterIn_of_arrayIn ((arrayOut_arrayIn hk s).trans ((if_neg hne).trans hin))] at hc
  exact absurd hc (by decide)

theorem withdrawArray_last {d i : Nat} (h : arrayIn s d i = true) (hout : ∀ k < 192, k ≠ i → arrayIn s d k = false) :
    withdrawArray d i s = orderRemoval d 2 (arrayOut d i s) ∧ ∀ k < 192, arrayIn (arrayOut d i s) d k = false := by
  have hnone : ∀ k < 192, arrayIn (arrayOut d i s) d k = false := by
    intro k hk
    rw [arrayOut_arrayIn hk]
    split
    · rfl
    · exact hout k hk ‹_›
  refine ⟨?_, hnone⟩
  rw [withdrawArray_in h, if_pos]
  refine List.all_eq_true.2 fun c hc => ?_
  have hcl : clusterIn (arrayOut d i s) d c = false := List.any_eq_false.2 fun a ha => by
    rw [hnone _ (by have := List.mem_range.1 hc; have := List.mem_range.1 ha; omega)]
    exact Bool.false_ne_true
  rw [hcl]
  rfl

/-! A cluster withdrawn -/

theorem foldl_withdraw_arrayIn {d c k : Nat} (hc : c < 24) (hk : k < 192) (l : List Nat) (hl : ∀ a ∈ l, a < 8) (s : State) :
    arrayIn (l.foldl (fun s a => withdrawArray d (c * 8 + a) s) s) d k = if ∃ a ∈ l, k = c * 8 + a then false else arrayIn s d k := by
  induction l generalizing s with
  | nil => rw [if_neg (by simp)]; rfl
  | cons a l ih =>
    have ha := hl a List.mem_cons_self
    rw [List.foldl_cons, ih (fun b hb => hl b (List.mem_cons_of_mem _ hb)), withdrawArray_arrayIn (by omega) hk]
    by_cases hka : k = c * 8 + a
    · rw [if_pos hka, ite_self, if_pos ⟨a, List.mem_cons_self, hka⟩]
    · rw [if_neg hka]
      simp only [List.mem_cons, exists_eq_or_imp, hka, false_or]

theorem discardTiles_arrayIn (d : Nat) (which : Tile → Bool) (s : State) (e k : Nat) : arrayIn (discardTiles d which s) e k = arrayIn s e k := rfl

theorem withdrawCluster_clusterIn {d c : Nat} (hc : c < 24) (s : State) : clusterIn (withdrawCluster d c s) d c = false := by
  refine List.any_eq_false.2 fun a ha => ?_
  have ha' := List.mem_range.1 ha
  rw [withdrawCluster, discardTiles_arrayIn, foldl_withdraw_arrayIn hc (by omega) _ (fun b hb => List.mem_range.1 hb), if_pos ⟨a, ha, rfl⟩]
  exact Bool.false_ne_true

/-! A pass recorded -/

/-- Records of class A, each counted as a transient of a die. -/
def transients {α : Type} (d : Nat) (l : List α) (s : State) : State := l.foldl (fun s _ => regInc (K.DET_TRANSIENT_count d) (recordA (nodeAddr d 0 0) s)) s

theorem transients_frame {α : Type} (d : Nat) (l : List α) (s : State) :
    transients d l s = { s with reg := (transients d l s).reg, lastClass := (transients d l s).lastClass } ∧ RegsKept [K.DET_TRANSIENT_count d] s (transients d l s) := by
  induction l generalizing s with
  | nil => exact ⟨rfl, kept_refl _ s⟩
  | cons x l ih =>
    obtain ⟨hf, hk⟩ := ih (regInc (K.DET_TRANSIENT_count d) (recordA (nodeAddr d 0 0) s))
    refine ⟨hf, fun k hm => (hk k hm).trans ?_⟩
    exact kept_inc (t := recordA (nodeAddr d 0 0) s) (List.mem_singleton.2 rfl) (kept_refl _ s) k hm

theorem endCalls_eq (d i : Nat) (s : State) : endCalls d i s =
    transients d ((callsAfter (engineOf s d) i).filter fun q => q.2.isEmpty && decide (q.1 < 1000))
      (modEngine d (fun e => { e with called := (callsAfter (engineOf s d) i).filter fun q => !q.2.isEmpty }) s) := rfl

theorem endCalls_frame (d i : Nat) (s : State) :
    endCalls d i s = { s with reg := (endCalls d i s).reg, engines := (endCalls d i s).engines, lastClass := (endCalls d i s).lastClass } ∧
    RegsKept [K.DET_TRANSIENT_count d] s (endCalls d i s) ∧ EnginesKept d s (endCalls d i s) ∧
    engineOf (endCalls d i s) d = { engineOf s d with called := (callsAfter (engineOf s d) i).filter fun q => !q.2.isEmpty } := by
  rw [endCalls_eq]
  generalize hl : (callsAfter (engineOf s d) i).filter (fun q => q.2.isEmpty && decide (q.1 < 1000)) = l
  generalize hu : modEngine d (fun e => { e with called := (callsAfter (engineOf s d) i).filter fun q => !q.2.isEmpty }) s = u
  obtain ⟨hf, hk⟩ := transients_frame d l u
  obtain ⟨reg, cls, ht⟩ : ∃ reg cls, transients d l u = { u with reg := reg, lastClass := cls } := ⟨_, _, hf⟩
  rw [ht] at hk ⊢
  subst hu
  exact ⟨rfl, hk, fun c hc => engineOf_modEngine_ne s (fun e => { e with called := (callsAfter (engineOf s d) i).filter fun q => !q.2.isEmpty }) hc,
    engineOf_modEngine_self s d fun e => { e with called := (callsAfter (engineOf s d) i).filter fun q => !q.2.isEmpty }⟩

/-- What the pass of an array counts, where it ends at most one detection's rehearsal. -/
theorem endCalls_counts (d i : Nat) (s : State) :
    (callsEnded (engineOf s d) i = 0 → regGet (endCalls d i s) (K.DET_TRANSIENT_count d) = regGet s (K.DET_TRANSIENT_count d) ∧ (endCalls d i s).lastClass = s.lastClass) ∧
    (callsEnded (engineOf s d) i = 1 → regGet (endCalls d i s) (K.DET_TRANSIENT_count d) = satInc max32 (regGet s (K.DET_TRANSIENT_count d)) ∧
      (endCalls d i s).lastClass = 1) := by
  rw [endCalls_eq, callsEnded]
  generalize (callsAfter (engineOf s d) i).filter (fun q => q.2.isEmpty && decide (q.1 < 1000)) = l
  refine ⟨fun h => ?_, fun h => ?_⟩
  · obtain rfl := List.length_eq_zero_iff.1 h
    exact ⟨rfl, rfl⟩
  · obtain ⟨x, rfl⟩ := List.length_eq_one_iff.1 h
    exact ⟨regGet_regInc_self .., rfl⟩

end Sys2Proof.Machine
end

section
/-! PROOFS. Rehearsals, detections, keep-warm loops (R141 to R151, R394, R395). -/

namespace Sys2Proof.Machine

variable {s t u : State}

/-! The start of a rehearsal -/

/-- What an array's turn comes to where its cluster rehearses no other. -/
theorem turnCome_iff {d i : Nat} (h : ∀ q ∈ (engineOf s d).rehearsing, q.1 / 8 ≠ i / 8) :
    turnCome s d i = true ↔ s.frame.start + i / 48 * groupGap ≤ s.tbUnits ∧ ∀ q ∈ (engineOf s d).due, q.1 / 8 = i / 8 → i ≤ q.1 := by
  have hreh : (engineOf s d).rehearsing.any (fun q => q.1 / 8 == i / 8) = false :=
    List.any_eq_false.2 fun q hq => by rw [beq_iff_eq]; exact h q hq
  unfold turnCome
  extract_lets e
  rw [Bool.and_eq_true, Bool.and_eq_true, hreh, decide_eq_true_eq, Bool.not_eq_true', List.any_eq_false]
  simp only [Bool.not_false, and_true, Bool.and_eq_true, beq_iff_eq, decide_eq_true_eq, not_and, Nat.not_lt]
  rfl

/-- Whether an array is free to rehearse, and called or due (R141 to R144). -/
def mayRehearse (s : State) (d i : Nat) : Prop :=
  (running s = true ∧ arrayIn s d i = true ∧ arrayOn s d i = true ∧ (engineOf s d).tableBad = false ∧ (∀ q ∈ (engineOf s d).rehearsing, q.1 / 8 ≠ i / 8) ∧
    ∀ u ∈ (engineOf s d).tiles, onArray u i = false) ∧
  ((∃ q ∈ (engineOf s d).called, i ∈ q.2) ∨ ((∃ q ∈ (engineOf s d).due, q.1 = i) ∧ s.frame.start + i / 48 * groupGap ≤ s.tbUnits ∧
    ∀ q ∈ (engineOf s d).due, q.1 / 8 = i / 8 → i ≤ q.1))

theorem startRehearsal_guard (s : State) (d i : Nat) : (!running s || !arrayIn s d i || !arrayOn s d i || (engineOf s d).tableBad ||
    !((engineOf s d).called.any (fun q => q.2.contains i) || ((engineOf s d).due.any (fun q => q.1 == i) && turnCome s d i)) ||
    (engineOf s d).rehearsing.any (fun q => q.1 / 8 == i / 8) || (engineOf s d).tiles.any (fun t => onArray t i)) = false ↔ mayRehearse s d i := by
  simp only [Bool.or_eq_false_iff, Bool.not_eq_false', List.any_eq_false, beq_iff_eq, Bool.not_eq_true, mayRehearse]
  have hturn : ∀ _ : ∀ q ∈ (engineOf s d).rehearsing, q.1 / 8 ≠ i / 8,
      ((engineOf s d).called.any (fun q => q.2.contains i) || ((engineOf s d).due.any (fun q => q.1 == i) && turnCome s d i)) = true ↔
      ((∃ q ∈ (engineOf s d).called, i ∈ q.2) ∨ ((∃ q ∈ (engineOf s d).due, q.1 = i) ∧ s.frame.start + i / 48 * groupGap ≤ s.tbUnits ∧
        ∀ q ∈ (engineOf s d).due, q.1 / 8 = i / 8 → i ≤ q.1)) := by
    intro h
    rw [Bool.or_eq_true, Bool.and_eq_true, turnCome_iff h, List.any_eq_true, List.any_eq_true]
    simp only [beq_iff_eq, List.contains_iff_mem]
  constructor
  · rintro ⟨⟨⟨⟨⟨⟨hr, hin⟩, hon⟩, hb⟩, ht⟩, hre⟩, htiles⟩
    exact ⟨⟨hr, hin, hon, hb, hre, htiles⟩, (hturn hre).1 ht⟩
  · rintro ⟨⟨hr, hin, hon, hb, hre, htiles⟩, ht⟩
    exact ⟨⟨⟨⟨⟨⟨hr, hin⟩, hon⟩, hb⟩, (hturn hre).2 ht⟩, hre⟩, htiles⟩

theorem startRehearsal_starts {d i : Nat} (h : mayRehearse s d i) : startRehearsal d i s =
    modEngine d (fun e => { e with due := e.due.filter fun q => q.1 != i, rehearsing := e.rehearsing ++ [(i, false)] }) s :=
  if_neg (by rw [(startRehearsal_guard s d i).2 h]; exact Bool.false_ne_true)

theorem startRehearsal_waits {d i : Nat} (h : ¬ mayRehearse s d i) : startRehearsal d i s = s :=
  if_pos (by rw [← Bool.not_eq_false]; exact fun hf => h ((startRehearsal_guard s d i).1 hf))

/-! The end of a rehearsal -/

/-- An engine with an array that rehearses no more. -/
abbrev endsOn (i : Nat) (e : Engine) : Engine := { e with rehearsing := e.rehearsing.filter fun q => q.1 != i }

theorem endRehearsal_none {d i : Nat} {run : GoldenRun} (h : ∀ q ∈ (engineOf s d).rehearsing, q.1 ≠ i) : endRehearsal d i run s = s := by
  have hnone : (engineOf s d).rehearsing.find? (fun q => q.1 == i) = none := List.find?_eq_none.2 fun q hq => by rw [beq_iff_eq]; exact h q hq
  unfold endRehearsal
  rw [hnone]

theorem endRehearsal_pass {d i : Nat} {run : GoldenRun} {q : Nat × Bool} (h : (engineOf s d).rehearsing.find? (fun q => q.1 == i) = some q)
    (hrun : goldenOk run = true) (hq : q.2 = false) : endRehearsal d i run s = endCalls d i (markPass d i (modEngine d (endsOn i) s)) := by
  unfold endRehearsal
  rw [h]
  exact if_pos (by rw [hrun, hq]; rfl)

theorem endRehearsal_fails {d i : Nat} {run : GoldenRun} {q : Nat × Bool} (h : (engineOf s d).rehearsing.find? (fun q => q.1 == i) = some q)
    (hrun : goldenOk run = false ∨ q.2 = true) : endRehearsal d i run s =
      if (engineOf s d).called.any (fun c => c.1 == 192 + i / 8 && c.2.contains i) = true then withdrawCluster d (i / 8) (failDiag d i (modEngine d (endsOn i) s))
      else withdrawArray d i (failDiag d i (modEngine d (endsOn i) s)) := by
  have hbad : ¬ (goldenOk run && !q.2) = true := by
    rcases hrun with h | h
    · rw [h]
      exact Bool.false_ne_true
    · rw [h, Bool.not_true, Bool.and_false]
      exact Bool.false_ne_true
  have hcalled : (engineOf (failDiag d i (modEngine d (endsOn i) s)) d).called = (engineOf s d).called :=
    (congrArg Engine.called (engineOf_modEngine_self s d (endsOn i)) :)
  unfold endRehearsal
  rw [h]
  dsimp only
  rw [if_neg hbad, hcalled]

/-- A pass of an array marked and its calls ended, in an engine that has been seen to before (R145, R146, R150). -/
theorem passed_parts {d i : Nat} (f : Engine → Engine) (hf : ∀ e, (f e).called = e.called) (hi : i < 192) (s : State) :
    let t := endCalls d i (markPass d i (modEngine d f s))
    let e := engineOf s d
    regGet t (K.REH_DONE_arrays d (i / 32)) = withBit (regGet s (K.REH_DONE_arrays d (i / 32))) (i % 32) true ∧
    engineOf t d = { f e with called := (callsAfter e i).filter fun q => !q.2.isEmpty } ∧ EnginesKept d s t ∧
    (callsEnded e i = 0 → regGet t (K.DET_TRANSIENT_count d) = regGet s (K.DET_TRANSIENT_count d) ∧ t.lastClass = s.lastClass) ∧
    (callsEnded e i = 1 → regGet t (K.DET_TRANSIENT_count d) = satInc max32 (regGet s (K.DET_TRANSIENT_count d)) ∧ t.lastClass = 1) ∧
    t = { s with reg := t.reg, engines := t.engines, lastClass := t.lastClass } ∧
    RegsKept [K.REH_DONE_arrays d (i / 32), K.DET_TRANSIENT_count d] s t := by
  intro t e
  obtain ⟨hframe, hkept, hothers, heng⟩ := endCalls_frame d i (markPass d i (modEngine d f s))
  obtain ⟨hzero, hone⟩ := endCalls_counts d i (markPass d i (modEngine d f s))
  have he : engineOf (markPass d i (modEngine d f s)) d = f (engineOf s d) := by rw [markPass, engineOf_regMod, engineOf_modEngine_self]
  have hcalls : callsAfter (f e) i = callsAfter e i := by rw [callsAfter, callsAfter, hf]
  have hended : callsEnded (f e) i = callsEnded e i := by rw [callsEnded, callsEnded, hcalls]
  have hdet : regGet (markPass d i (modEngine d f s)) (K.DET_TRANSIENT_count d) = regGet s (K.DET_TRANSIENT_count d) := by
    rw [markPass, regGet_regMod_ne _ _ (by grind), regGet_modEngine]
  rw [he] at heng hzero hone
  rw [hdet] at hzero hone
  rw [hended] at hzero hone
  refine ⟨?_, heng.trans (by rw [hcalls]), fun c hc => ?_, hzero, hone, ?_, fun k hk => ?_⟩
  · rw [hkept _ (by grind), markPass, regGet_regMod_self, regGet_modEngine]
  · rw [hothers c hc, markPass, engineOf_regMod, engineOf_modEngine_ne _ _ hc]
  · obtain ⟨reg, engines, cls, ht⟩ : ∃ reg engines cls, t = { markPass d i (modEngine d f s) with reg := reg, engines := engines, lastClass := cls } := ⟨_, _, _, hframe⟩
    rw [ht]
    rfl
  · rw [hkept k (by grind), markPass, regGet_regMod_ne _ _ (by grind), regGet_modEngine]

/-- A failing array that is not its die's last leaves service (R145, R151). -/
theorem withdrawn_parts {d i k : Nat} (f : Engine → Engine) (hf : ∀ e, (f e).tiles = e.tiles ∧ (f e).owed = e.owed) (hi : i < 192) (h : arrayIn s d i = true) (hk : k < 192)
    (hne : k ≠ i) (hin : arrayIn s d k = true) :
    let t := withdrawArray d i (failDiag d i (modEngine d f s))
    let e := engineOf s d
    arrayIn t d i = false ∧ regGet t (K.DET_WITHDRAWN_arrays d) = min 192 (regGet s (K.DET_WITHDRAWN_arrays d) + 1) ∧
    (∀ k < 192, k ≠ i → arrayIn t d k = arrayIn s d k) ∧ (engineOf t d).tiles = e.tiles.filter (fun u => !onArray u i) ∧
    (engineOf t d).owed = e.owed ++ (e.tiles.filter fun u => onArray u i).map (fun u => ⟨u.job, u.node, u.work, u.failed⟩) ∧ EnginesKept d s t ∧
    t = { s with reg := t.reg, engines := t.engines, lastClass := 1, dpx := { s.dpx with diags := t.dpx.diags } } ∧
    RegsKept [K.SERVICE_arrays d (i / 32), K.DET_WITHDRAWN_arrays d] s t := by
  intro t e
  have ht : t = arrayOut d i (failDiag d i (modEngine d f s)) := withdrawArray_stays h hk hne hin
  obtain ⟨htiles, howed⟩ := hf e
  have he : engineOf (failDiag d i (modEngine d f s)) d = f e := engineOf_modEngine_self s d f
  obtain ⟨due, rehearsing, called, heng⟩ := arrayOut_engine d i (failDiag d i (modEngine d f s))
  rw [ht]
  refine ⟨(arrayOut_arrayIn hi _).trans (if_pos rfl), arrayOut_withdrawn hi _, fun k hk hne => (arrayOut_arrayIn hk _).trans (if_neg hne), ?_, ?_, fun c hc => ?_, ?_, ?_⟩
  · rw [heng, he, htiles]
  · rw [heng, he, howed, htiles]
  · exact (arrayOut_others d i _ c hc).trans (engineOf_modEngine_ne s f hc)
  · obtain ⟨reg, engines, hframe⟩ := arrayOut_frame d i (failDiag d i (modEngine d f s))
    rw [hframe]
    rfl
  · exact fun j hj => arrayOut_kept d i (failDiag d i (modEngine d f s)) j hj

/-! The limit of detections -/

theorem detectionLimit_array {d : Fin 4} (c : Fin 24) (a : Fin 8) : 3 ≤ recentDetections s d (arrayIdx c a) →
    Runs (.detectionLimit d c (some a)) s fun t => arrayIn t d (arrayIdx c a) = false := by
  intro h
  have hi : arrayIdx c a < 192 := by unfold arrayIdx; omega
  exact ⟨_, congrArg Host.Outcome.next (if_neg (Nat.not_lt.2 h)), (withdrawArray_arrayIn hi hi s).trans (if_pos rfl)⟩

theorem detectionLimit_cluster {d : Fin 4} (c : Fin 24) : 3 ≤ recentDetections s d (192 + c.val) →
    Runs (.detectionLimit d c none) s fun t => clusterIn t d c = false :=
  fun h => ⟨_, congrArg Host.Outcome.next (if_neg (Nat.not_lt.2 h)), withdrawCluster_clusterIn c.isLt s⟩

/-! Keep-warm loops -/

/-- A die that keeps warm. -/
def warmed (d : Nat) (s : State) : State := modTherm d (fun x => { x with warming := true }) s

theorem thermOf_warmed (d : Nat) (s : State) : thermOf (warmed d s) d = { thermOf s d with warming := true } := by
  unfold warmed
  rw [thermOf_modTherm_self]

/-- Whether a die heats too fast does not depend on its keeping warm. -/
theorem risesFast_warmed (d : Nat) (s : State) : risesFast (warmed d s) d = risesFast s d := by
  have ht := thermOf_warmed d s
  have hmeans : (tget DieTherm.init d (warmed d s).thm.dies).means = (tget DieTherm.init d s.thm.dies).means := (congrArg DieTherm.means ht :)
  have hrise : meanRise (warmed d s) d = meanRise s d := by
    unfold meanRise
    rw [hmeans]
    rfl
  have hlevel : ∀ g, levelLimit (warmed d s) d g = levelLimit s d g := by
    intro g
    unfold levelLimit
    rw [ht]
    rfl
  have hthrottles : throttles (warmed d s) d = throttles s d := by
    unfold throttles
    simp only [hlevel]
    rfl
  unfold risesFast rampRules
  rw [hrise, hthrottles]
  rfl

theorem keepWarm_waits {d : Nat} {loops : List (Fin 24 × Fin 8 × GoldenRun)} {short : Bool}
    (h : (s.op ≠ .warmIdle ∧ s.op ≠ .drive ∧ s.op ≠ .lodge) ∨ dieIn s d = false ∨ (warming s d = false ∧ fallsFast s d = false)) : keepWarm d loops short s = s := by
  refine if_pos ?_
  rcases h with ⟨h1, h2, h3⟩ | h | ⟨h1, h2⟩
  · rw [decide_eq_true h1, decide_eq_true h2, decide_eq_true h3]
    rfl
  · rw [h, Bool.not_false, Bool.or_true, Bool.true_or]
  · rw [h1, h2, Bool.or_false, Bool.not_false, Bool.or_true]

/-- A die that keeps warm, once its loops have run. -/
def warmRun (d : Nat) (loops : List (Fin 24 × Fin 8 × GoldenRun)) (s : State) : State :=
  if risesFast s d = true then warmed d s else loops.foldl (fun s x => warmLoop d x s) (warmed d s)

/-- Power that falls short of a die's floor told, once an hour (R394). -/
def tellShort (d : Nat) (short : Bool) (s : State) : State :=
  if short && (s.thm.warmShort.all fun w => decide (w + hourTicks ≤ s.ticks)) then
    raise .manager ⟨0x070A, 0, false, nodeAddr d 0 0, d, ofSigned 16 ((readingSum s d).1 / Int.ofNat (max 1 (readingSum s d).2)), floorC s * 16⟩
      { s with thm := { s.thm with warmShort := some s.ticks } }
  else s

theorem dueAgain_all {o : Option Nat} {n : Nat} (h : ∀ w, o = some w → w + hourTicks ≤ n) : (o.all fun w => decide (w + hourTicks ≤ n)) = true :=
  (Option.all_eq_true _ _).2 fun w hw => decide_eq_true (h w hw)

theorem tellShort_tells {d : Nat} (h : (s.thm.warmShort.all fun w => decide (w + hourTicks ≤ s.ticks)) = true) : tellShort d true s =
    raise .manager ⟨0x070A, 0, false, nodeAddr d 0 0, d, ofSigned 16 ((readingSum s d).1 / Int.ofNat (max 1 (readingSum s d).2)), floorC s * 16⟩
      { s with thm := { s.thm with warmShort := some s.ticks } } := if_pos h

theorem keepWarm_warms {d : Nat} {loops : List (Fin 24 × Fin 8 × GoldenRun)} {short : Bool} (ho : s.op = .warmIdle ∨ s.op = .drive ∨ s.op = .lodge)
    (hd : dieIn s d = true) (hw : warming s d = true) :
    keepWarm d loops short s = tellShort d short (regSet K.THM_STATUS_keepwarm_short short.toNat (warmRun d loops s)) := by
  have hgo : ¬ ((s.op ≠ .warmIdle && s.op ≠ .drive && s.op ≠ .lodge) || !dieIn s d || !(warming s d || fallsFast s d)) = true := by
    rw [hd, hw, Bool.not_true, Bool.true_or, Bool.not_true, Bool.or_false, Bool.or_false]
    rcases ho with h | h | h
    all_goals rw [h]; decide
  unfold keepWarm
  extract_lets warm src s1 s2 s3 m t
  have hs1 : s1 = warmed d s := by
    change _ = { s with thm := { s.thm with dies := tmod DieTherm.init d (fun x => { x with warming := true }) s.thm.dies } }
    rw [← hw]
  have hs2 : s2 = warmRun d loops s := by
    change (if risesFast s1 d = true then s1 else _) = _
    rw [hs1, risesFast_warmed]
    rfl
  have hs3 : s3 = regSet K.THM_STATUS_keepwarm_short short.toNat (warmRun d loops s) := congrArg (regSet _ _) hs2
  rw [if_neg hgo, if_neg (show ¬ (!warm) = true by rw [show warm = true from hw]; exact Bool.false_ne_true), ← hs3]
  rfl

/-- The one loop of an array that is free, where its die does not heat too fast. -/
theorem warmLoop_passes {d : Nat} {c : Fin 24} {a : Fin 8} {run : GoldenRun} (hin : arrayIn s d (arrayIdx c a) = true) (hb : (engineOf s d).tableBad = false)
    (hre : ∀ q ∈ (engineOf s d).rehearsing, q.1 ≠ arrayIdx c a) (ht : ∀ u ∈ (engineOf s d).tiles, onArray u (arrayIdx c a) = false) :
    warmLoop d (c, a, run) s = if goldenOk run = true then
        endCalls d (arrayIdx c a) (markPass d (arrayIdx c a) (modEngine d (fun e => { e with due := e.due.filter fun q => q.1 != arrayIdx c a }) s))
      else withdrawArray d (arrayIdx c a) s := by
  have hre' : (engineOf s d).rehearsing.any (fun q => q.1 == arrayIdx c a) = false := List.any_eq_false.2 fun q hq => by rw [beq_iff_eq]; exact hre q hq
  have ht' : (engineOf s d).tiles.any (fun t => onArray t (arrayIdx c a)) = false := List.any_eq_false.2 fun u hu => by rw [ht u hu]; exact Bool.false_ne_true
  unfold warmLoop
  extract_lets i e
  rw [if_neg (by rw [hin, show e.tableBad = false from hb, hre', ht']; exact Bool.false_ne_true)]

theorem keepwarm_rises {d : Fin 4} (loops : List (Fin 24 × Fin 8 × GoldenRun)) (ho : s.op = .warmIdle ∨ s.op = .drive ∨ s.op = .lodge) (hd : dieIn s d = true)
    (hw : warming s d = true) (hr : risesFast s d = true) : keepWarm d loops false s = regSet K.THM_STATUS_keepwarm_short 0 (warmed d s) := by
  rw [keepWarm_warms ho hd hw, warmRun, if_pos hr]
  rfl

theorem keepwarm_loop {d : Fin 4} {c : Fin 24} {a : Fin 8} {run : GoldenRun} (ho : s.op = .warmIdle ∨ s.op = .drive ∨ s.op = .lodge) (hd : dieIn s d = true)
    (hw : warming s d = true) (hr : risesFast s d = false) :
    keepWarm d [(c, a, run)] false s = regSet K.THM_STATUS_keepwarm_short 0 (warmLoop d (c, a, run) (warmed d s)) := by
  rw [keepWarm_warms ho hd hw, warmRun, if_neg (by rw [hr]; exact Bool.false_ne_true)]
  rfl

theorem keepwarm_passes {d : Fin 4} {c : Fin 24} {a : Fin 8} {run : GoldenRun} (ho : s.op = .warmIdle ∨ s.op = .drive ∨ s.op = .lodge) (hd : dieIn s d = true)
    (hw : warming s d = true) (hr : risesFast s d = false) (hin : arrayIn s d (arrayIdx c a) = true) (hb : (engineOf s d).tableBad = false)
    (hre : ∀ q ∈ (engineOf s d).rehearsing, q.1 ≠ arrayIdx c a) (ht : ∀ u ∈ (engineOf s d).tiles, onArray u (arrayIdx c a) = false) (hrun : goldenOk run = true) :
    let i := arrayIdx c a
    Runs (.keepwarmLoop d [(c, a, run)] false) s fun t =>
      regGet t (K.REH_DONE_arrays d (i / 32)) = withBit (regGet s (K.REH_DONE_arrays d (i / 32))) (i % 32) true ∧
      engineOf t d = { engineOf s d with due := (engineOf s d).due.filter (fun q => q.1 != i), called := (callsAfter (engineOf s d) i).filter fun q => !q.2.isEmpty } ∧
      EnginesKept d s t ∧ regGet t K.THM_STATUS_keepwarm_short = 0 ∧
      t = { s with reg := t.reg, engines := t.engines, thm := (warmed d s).thm, lastClass := t.lastClass } ∧
      RegsKept [K.REH_DONE_arrays d (i / 32), K.DET_TRANSIENT_count d, K.THM_STATUS_keepwarm_short] s t := by
  intro i
  have hi : i < 192 := by change c.val * 8 + a.val < 192; omega
  have hexec := (keepwarm_loop (run := run) (c := c) (a := a) ho hd hw hr).trans
    (congrArg (regSet _ 0) ((warmLoop_passes (s := warmed d s) hin hb hre ht).trans (if_pos hrun)))
  obtain ⟨hdone, heng, hothers, -, -, hframe, hkept⟩ :=
    passed_parts (d := d) (i := i) (fun e => { e with due := e.due.filter fun q => q.1 != i }) (fun _ => rfl) hi (warmed d s)
  change keepWarm d [(c, a, run)] false s = regSet K.THM_STATUS_keepwarm_short 0 (endCalls d i (markPass d i (modEngine d _ (warmed d s)))) at hexec
  generalize endCalls d i (markPass d i (modEngine d (fun e => { e with due := e.due.filter fun q => q.1 != i }) (warmed d s))) = u at *
  refine ⟨_, congrArg Host.Outcome.next hexec, ?_, heng, hothers, regGet_regSet_self .., ?_, fun k hk => ?_⟩
  · rw [regGet_regSet_ne _ _ (by grind), hdone]
    rfl
  · obtain ⟨reg, engines, cls, hu⟩ : ∃ reg engines cls, u = { warmed d s with reg := reg, engines := engines, lastClass := cls } := ⟨_, _, _, hframe⟩
    rw [hu]
    rfl
  · rw [regGet_regSet_ne _ _ (by grind), hkept k (by grind)]
    rfl

theorem keepwarm_fails {d : Fin 4} {c : Fin 24} {a : Fin 8} {run : GoldenRun} (ho : s.op = .warmIdle ∨ s.op = .drive ∨ s.op = .lodge) (hd : dieIn s d = true)
    (hw : warming s d = true) (hr : risesFast s d = false) (hin : arrayIn s d (arrayIdx c a) = true) (hb : (engineOf s d).tableBad = false)
    (hre : ∀ q ∈ (engineOf s d).rehearsing, q.1 ≠ arrayIdx c a) (ht : ∀ u ∈ (engineOf s d).tiles, onArray u (arrayIdx c a) = false) (hrun : goldenOk run = false) :
    Runs (.keepwarmLoop d [(c, a, run)] false) s fun t => arrayIn t d (arrayIdx c a) = false ∧ ∀ k < 192, k ≠ arrayIdx c a → arrayIn t d k = arrayIn s d k := by
  have hi : arrayIdx c a < 192 := by unfold arrayIdx; omega
  have hexec := (keepwarm_loop (run := run) (c := c) (a := a) ho hd hw hr).trans
    (congrArg (regSet _ 0) ((warmLoop_passes (s := warmed d s) hin hb hre ht).trans (if_neg (by rw [hrun]; exact Bool.false_ne_true))))
  have harray : ∀ k < 192, arrayIn (regSet K.THM_STATUS_keepwarm_short 0 (withdrawArray d (arrayIdx c a) (warmed d s))) d k =
      if k = arrayIdx c a then false else arrayIn s d k :=
    fun k hk => (arrayIn_congr (regGet_regSet_ne _ _ (by grind))).trans (withdrawArray_arrayIn hi hk _)
  exact ⟨_, congrArg Host.Outcome.next hexec, (harray _ hi).trans (if_pos rfl), fun k hk hne => (harray k hk).trans (if_neg hne)⟩

theorem keepwarm_short {d : Fin 4} (ho : s.op = .warmIdle ∨ s.op = .drive ∨ s.op = .lodge) (hd : dieIn s d = true) (hw : warming s d = true)
    (h : ∀ w, s.thm.warmShort = some w → w + hourTicks ≤ s.ticks) : Runs (.keepwarmLoop d [] true) s fun t =>
      Tells .manager ⟨0x070A, 0, false, nodeAddr d 0 0, d, ofSigned 16 ((readingSum s d).1 / Int.ofNat (max 1 (readingSum s d).2)), floorC s * 16⟩ t fun u =>
        regGet u K.THM_STATUS_keepwarm_short = 1 ∧ u = { s with reg := u.reg, thm := { (warmed d s).thm with warmShort := some s.ticks } } ∧
        RegsKept [K.THM_STATUS_keepwarm_short] s u := by
  have hrun : warmRun d [] s = warmed d s := by
    unfold warmRun
    split
    · rfl
    · rfl
  have hticks : (regSet K.THM_STATUS_keepwarm_short 1 (warmed d s)).ticks = s.ticks := rfl
  have hshort : (regSet K.THM_STATUS_keepwarm_short 1 (warmed d s)).thm.warmShort = s.thm.warmShort := rfl
  have hall := dueAgain_all h
  rw [← hticks, ← hshort] at hall
  have hread : readingSum (regSet K.THM_STATUS_keepwarm_short 1 (warmed d s)) d = readingSum s d := by
    have hk : ∀ w, regGet (regSet K.THM_STATUS_keepwarm_short 1 (warmed d s)) (K.THM_HOT_readingsLo d w) = regGet s (K.THM_HOT_readingsLo d w) ∧
        regGet (regSet K.THM_STATUS_keepwarm_short 1 (warmed d s)) (K.THM_HOT_readingsHi d w) = regGet s (K.THM_HOT_readingsHi d w) :=
      fun w => ⟨regGet_regSet_ne _ _ (by grind), regGet_regSet_ne _ _ (by grind)⟩
    unfold readingSum
    simp only [hk]
  have hfloor : floorC (regSet K.THM_STATUS_keepwarm_short 1 (warmed d s)) = floorC s := rfl
  have hexec := keepWarm_warms (loops := []) (short := true) ho hd hw
  rw [hrun, Bool.toNat_true, tellShort_tells (s := regSet K.THM_STATUS_keepwarm_short 1 (warmed d s)) hall, hread, hfloor] at hexec
  exact ⟨_, congrArg Host.Outcome.next hexec, _, rfl, regGet_regSet_self (warmed d s) K.THM_STATUS_keepwarm_short 1, rfl,
    kept_reg (t := regSet K.THM_STATUS_keepwarm_short 1 (warmed d s)) rfl (kept_set (t := warmed d s) (by simp) (kept_refl _ s))⟩

/-! The statement -/

theorem arrayIdx_div (c : Fin 24) (a : Fin 8) : arrayIdx c a / 8 = c.val := by unfold arrayIdx; omega

theorem arrayIdx_lt (c : Fin 24) (a : Fin 8) : arrayIdx c a < 192 := by unfold arrayIdx; omega

/-- Whether a cluster is called to rehearse on one of its arrays (R150). -/
theorem clusterCalled_iff (calls : List (Nat × List Nat)) (c : Fin 24) (a : Fin 8) :
    calls.any (fun q => q.1 == 192 + arrayIdx c a / 8 && q.2.contains (arrayIdx c a)) = true ↔ ∃ q ∈ calls, q.1 = 192 + c.val ∧ arrayIdx c a ∈ q.2 := by
  rw [List.any_eq_true, arrayIdx_div]
  simp only [Bool.and_eq_true, beq_iff_eq, List.contains_iff_mem]

/-- An array that fails alone is withdrawn. -/
theorem endRehearsal_withdraws {d : Fin 4} {c : Fin 24} {a : Fin 8} {run : GoldenRun} {q : Nat × Bool}
    (h : (engineOf s d).rehearsing.find? (fun q => q.1 == arrayIdx c a) = some q) (hrun : goldenOk run = false ∨ q.2 = true)
    (hcalls : ∀ q ∈ (engineOf s d).called, q.1 = 192 + c.val → arrayIdx c a ∉ q.2) :
    endRehearsal d (arrayIdx c a) run s = withdrawArray d (arrayIdx c a) (failDiag d (arrayIdx c a) (modEngine d (endsOn (arrayIdx c a)) s)) := by
  rw [endRehearsal_fails h hrun, if_neg]
  rw [clusterCalled_iff]
  exact fun ⟨q, hq, hqc, hqi⟩ => hcalls q hq hqc hqi

/-- Settles O43: what stands in the way of a rehearsal, then its end by `passed_parts`, `withdrawn_parts` and `withdrawCluster_clusterIn`, then the loops that keep a die warm. -/
theorem rehearsals : Obligations.Rehearsals := by
  unfold Obligations.Rehearsals
  refine ⟨fun d c a s => ⟨fun hf ht => ?_, fun h => congrArg Host.Outcome.next (startRehearsal_waits h)⟩,
    fun d c a run s h => congrArg Host.Outcome.next (endRehearsal_none h), fun d c a run s fell hfind => ⟨fun hrun hfell => ?_, fun hrun hin hcalls => ⟨?_, ?_⟩, ?_⟩,
    fun d s => ⟨_, rfl, engineOf_modEngine_self .., enginesKept_mod (enginesKept_refl d s), rfl⟩,
    fun d c a s => ⟨detectionLimit_array c a, fun h => congrArg Host.Outcome.next (if_pos h), detectionLimit_cluster c, fun h => congrArg Host.Outcome.next (if_pos h)⟩,
    fun d c a run s ho hd hw => ⟨fun hr => congrArg Host.Outcome.next (keepwarm_rises _ ho hd hw hr), fun hr hin hb hre ht => ⟨?_, ?_⟩, keepwarm_short ho hd hw⟩,
    fun d loops short s h => congrArg Host.Outcome.next (keepWarm_waits h)⟩
  · exact ⟨_, congrArg Host.Outcome.next (startRehearsal_starts ⟨hf, ht⟩), engineOf_modEngine_self .., enginesKept_mod (enginesKept_refl d s), rfl⟩
  · exact ⟨_, congrArg Host.Outcome.next (endRehearsal_pass hfind hrun hfell), passed_parts (endsOn (arrayIdx c a)) (fun _ => rfl) (arrayIdx_lt c a) s⟩
  · rintro ⟨k, hk, hne, hk'⟩
    exact ⟨_, congrArg Host.Outcome.next (endRehearsal_withdraws hfind hrun hcalls),
      withdrawn_parts (endsOn (arrayIdx c a)) (fun _ => ⟨rfl, rfl⟩) (arrayIdx_lt c a) hin hk hne hk'⟩
  · intro hout
    obtain ⟨hlast, hnone⟩ := withdrawArray_last (d := d.val) (i := arrayIdx c a) (s := failDiag d (arrayIdx c a) (modEngine d (endsOn (arrayIdx c a)) s)) hin hout
    exact ⟨_, congrArg Host.Outcome.next ((endRehearsal_withdraws hfind hrun hcalls).trans hlast), _, rfl, hnone⟩
  · intro hrun hcalled
    refine ⟨_, congrArg Host.Outcome.next ((endRehearsal_fails hfind hrun).trans (if_pos ((clusterCalled_iff _ c a).2 hcalled))), ?_⟩
    rw [arrayIdx_div]
    exact withdrawCluster_clusterIn c.isLt _
  · exact fun hrun => keepwarm_passes ho hd hw hr hin hb hre ht hrun
  · exact fun hrun _ => keepwarm_fails ho hd hw hr hin hb hre ht hrun

end Sys2Proof.Machine
end

section
/-! PROOFS. The care of memory: the scrubber and its codewords, erased groups, the cellar's initialisation (R160 to R168, R358). -/

namespace Sys2Proof.Machine

variable {s t u : State}

/-! The scrub moves on -/

/-- The registers of the scrubber (R191). -/
abbrev scrubKeys : List Nat := [K.MEM_SCRUB_PASS_count, K.MEM_SCRUB_POS_permille]

/-- The granules scrubbed in a pass after one more. -/
def scrubNext (n : Nat) : Nat := if n + 1 = scrubTotal then 0 else n + 1

theorem scrubStep_parts (s : State) :
    (scrubStep s).mem.scrubbed = scrubNext s.mem.scrubbed ∧
    regGet (scrubStep s) K.MEM_SCRUB_PASS_count =
      (if s.mem.scrubbed + 1 = scrubTotal then satInc max32 (regGet s K.MEM_SCRUB_PASS_count) else regGet s K.MEM_SCRUB_PASS_count) ∧
    regGet (scrubStep s) K.MEM_SCRUB_POS_permille = scrubNext s.mem.scrubbed * 1000 / scrubTotal ∧
    scrubStep s = { s with reg := (scrubStep s).reg, mem := { s.mem with scrubbed := (scrubStep s).mem.scrubbed } } ∧ RegsKept scrubKeys s (scrubStep s) := by
  unfold scrubStep scrubNext
  generalize scrubTotal = total
  by_cases h : s.mem.scrubbed + 1 = total
  · simp only [if_pos h]
    refine ⟨rfl, ?_, ?_, rfl, ?_⟩
    · rw [regGet_regSet_ne _ _ (by grind), regGet_regInc_self, regGet_modMem]
    · rw [regGet_regSet_self]
      rfl
    · exact kept_set (by simp) (kept_inc (by simp) (kept_reg (t := s) rfl (kept_refl _ s)))
  · simp only [if_neg h]
    refine ⟨rfl, ?_, ?_, rfl, ?_⟩
    · rw [regGet_regSet_ne _ _ (by grind), regGet_modMem]
    · rw [regGet_regSet_self]
      rfl
    · exact kept_set (by simp) (kept_reg (t := s) rfl (kept_refl _ s))

/-! Codewords -/

/-- A state that differs from another in registers and in the scrub's place: what the reading of a granule depends on is the same. -/
theorem granulePoisoned_congr (mem num : Nat) (g : GranuleUse) (hm : t.mem = { s.mem with scrubbed := t.mem.scrubbed }) (ha : t.active = s.active) :
    granulePoisoned t mem num g = granulePoisoned s mem num g := by
  obtain ⟨n, hm⟩ : ∃ n, t.mem = { s.mem with scrubbed := n } := ⟨_, hm⟩
  have hcopy : copyOf t mem g = copyOf s mem g := by
    unfold copyOf hbmQuarter roomOf
    rw [hm]
    simp only [actGet_congr ha]
  have hkey : granuleKey t mem g = granuleKey s mem g := by
    unfold granuleKey
    rw [hcopy]
  unfold granulePoisoned
  rw [hkey, hm]

theorem wrongSymbols_clean {w : Nat} {es : List SymbolError} (h : ∀ e ∈ es, e.bits = 0) : wrongSymbols w es = [] := by
  refine List.filter_eq_nil_iff.2 fun y _ => ?_
  rw [Bool.not_eq_true, List.any_eq_false]
  intro e he
  rw [h e he, bne_self_eq_false, Bool.and_false]
  exact Bool.false_ne_true

theorem judgeWord_clean {mem num gang w : Nat} {es : List SymbolError} (h : wrongSymbols w es = []) : judgeWord s mem num gang w es = .clean := by
  unfold judgeWord
  rw [h]

theorem meetWord_clean (mem num gang w : Nat) (g : GranuleUse) (s : State) : meetWord mem num gang w g .clean s = s := rfl

/-- A granule with wrong symbols in one of its codewords alone: that codeword is met. -/
theorem meetGranule_one {mem num : Nat} {g : GranuleUse} {f : GranuleFinding} {w : Fin 2} (h : ∀ v : Fin 2, v ≠ w → wrongSymbols v f.errors = []) (s : State) :
    meetGranule mem num g f s = meetWord mem num f.gang w g (judgeWord s mem num f.gang w f.errors) s := by
  have htwo : meetGranule mem num g f s = meetWord mem num f.gang 1 g
      (judgeWord (meetWord mem num f.gang 0 g (judgeWord s mem num f.gang 0 f.errors) s) mem num f.gang 1 f.errors)
      (meetWord mem num f.gang 0 g (judgeWord s mem num f.gang 0 f.errors) s) := rfl
  rw [htwo]
  match w with
  | 0 =>
    have h1 : wrongSymbols 1 f.errors = [] := h 1 (by decide)
    rw [judgeWord_clean h1, meetWord_clean]
    rfl
  | 1 =>
    have h0 : wrongSymbols 0 f.errors = [] := h 0 (by decide)
    rw [judgeWord_clean h0, meetWord_clean]
    rfl

theorem meetGranule_clean {mem num : Nat} {g : GranuleUse} {f : GranuleFinding} (h : ∀ w, wrongSymbols w f.errors = []) (s : State) : meetGranule mem num g f s = s := by
  rw [meetGranule_one (w := 0) (fun v _ => h v), judgeWord_clean (h _), meetWord_clean]

/-- One wrong symbol that the code corrects (R160, R163). -/
theorem judgeWord_corrects {mem num gang w y : Nat} {es : List SymbolError} (h : wrongSymbols w es = [y])
    (hc : groupOf mem num w y ∈ erasedOf s mem gang ∨ (erasedOf s mem gang).length < erasedMax mem) :
    judgeWord s mem num gang w es = .corrected y (!(erasedOf s mem gang).isEmpty) := by
  unfold judgeWord
  rw [h]
  dsimp only
  by_cases hm : groupOf mem num w y ∈ erasedOf s mem gang
  · rw [List.filter_cons_of_neg (by rw [List.contains_iff_mem.2 hm]; exact Bool.false_ne_true), List.filter_nil, List.isEmpty_eq_false_iff.2 (List.ne_nil_of_mem hm)]
    rfl
  · rw [List.filter_cons_of_pos (by rw [Bool.not_eq_true', ← Bool.not_eq_true, List.contains_iff_mem]; exact hm), List.filter_nil]
    exact if_pos (hc.resolve_left hm)

/-- Two wrong symbols, with no group erased, are detected. -/
theorem judgeWord_detects {mem num gang w y z : Nat} {es : List SymbolError} (h : wrongSymbols w es = [y, z]) (he : erasedOf s mem gang = []) :
    judgeWord s mem num gang w es = .detected y := by
  have hall : [y, z].filter (fun y => !([] : List Nat).contains (groupOf mem num w y)) = [y, z] := rfl
  unfold judgeWord
  rw [h, he]
  dsimp only
  rw [hall]
  exact if_pos (by rw [List.isEmpty_nil, List.length_cons, List.length_cons, List.length_nil, decide_eq_true rfl]; exact Bool.or_true _)

/-! What a codeword leaves -/

theorem reportCodeword_raise (mem num loc code key : Nat) (s : State) : reportCodeword mem num loc code key s =
    raise .manager ⟨code, 1, false, memNode mem, loc, 0, mem * 2 ^ 60 + num⟩ (regSet K.MEM_LAST_ERR_locator loc (regInc key s)) := rfl

/-- A report changes the registers, the ports and the hosts' memory alone. -/
theorem reportCodeword_told (mem num loc code key : Nat) (s : State) : ∃ hosts host cls, reportCodeword mem num loc code key s =
    { s with reg := (regSet K.MEM_LAST_ERR_locator loc (regInc key s)).reg, hosts := hosts, mem := { s.mem with host := host }, lastClass := cls } := by
  rw [reportCodeword_raise]
  obtain ⟨hosts, host, cls, h⟩ := raise_told .manager ⟨code, 1, false, memNode mem, loc, 0, mem * 2 ^ 60 + num⟩ (regSet K.MEM_LAST_ERR_locator loc (regInc key s))
  exact ⟨hosts, host, cls, h⟩

theorem noteShow_parts (mem gang group num : Nat) (s : State) :
    (noteShow mem gang group num s).mem.shows.getLast? = some ⟨mem, gang, group, num, s.ticks⟩ ∧
    noteShow mem gang group num s = { s with mem := { s.mem with shows := (noteShow mem gang group num s).mem.shows } } :=
  ⟨List.getLast?_concat .., rfl⟩

/-- A poisoned granule is poisoned, and no byte of it has changed. -/
theorem poison_poisons (mem num : Nat) (g : GranuleUse) (s : State) : granulePoisoned (poison mem num g s) mem num g = true := by
  unfold poison
  split
  · assumption
  · extract_lets k
    cases g
    case unmapped => exact List.contains_iff_mem.2 (List.mem_append_right _ (List.mem_singleton.2 rfl))
    case window => exact List.contains_iff_mem.2 (List.mem_append_right _ (List.mem_singleton.2 rfl))
    case room => exact List.contains_iff_mem.2 (List.mem_append_right _ (List.mem_singleton.2 rfl))
    case directory => exact List.contains_iff_mem.2 (List.mem_append_right _ (List.mem_singleton.2 rfl))

theorem poison_frame (mem num : Nat) (g : GranuleUse) (s : State) :
    (poison mem num g s).reg = s.reg ∧ (poison mem num g s).mem.win = s.mem.win ∧ (poison mem num g s).mem.room = s.mem.room := by
  unfold poison
  split
  · exact ⟨rfl, rfl, rfl⟩
  · extract_lets k
    cases g <;> exact ⟨rfl, rfl, rfl⟩

/-! The scrubber -/

theorem scrub_absent {mem num : Nat} {g : GranuleUse} {f : GranuleFinding} (h : memReached s mem = false ∨ granuleFits s mem g = false) : scrub mem num g f s = s := by
  refine if_pos ?_
  rcases h with h | h
  · rw [h]; rfl
  · rw [h, Bool.not_false, Bool.or_true]

theorem scrub_reads {mem num : Nat} {g : GranuleUse} {f : GranuleFinding} (hr : memReached s mem = true) (hf : granuleFits s mem g = true) :
    scrub mem num g f s = if granulePoisoned s mem num g = true then scrubStep s else meetGranule mem num g f (scrubStep s) := by
  obtain ⟨-, -, -, hframe, -⟩ := scrubStep_parts s
  have hp : granulePoisoned (scrubStep s) mem num g = granulePoisoned s mem num g := granulePoisoned_congr mem num g (by rw [hframe]) (by rw [hframe])
  unfold scrub
  rw [if_neg (by rw [hr, hf]; exact Bool.false_ne_true)]
  dsimp only
  rw [hp]

theorem scrub_clean {mem num : Nat} {g : GranuleUse} {f : GranuleFinding} (hr : memReached s mem = true) (hf : granuleFits s mem g = true)
    (h : (∀ e ∈ f.errors, e.bits = 0) ∨ granulePoisoned s mem num g = true) : scrub mem num g f s = scrubStep s := by
  rw [scrub_reads hr hf]
  split
  · rfl
  · exact meetGranule_clean (fun w => wrongSymbols_clean (h.resolve_right ‹_›)) _

theorem scrub_meets {mem num : Nat} {g : GranuleUse} {f : GranuleFinding} {w : Fin 2} (hr : memReached s mem = true) (hf : granuleFits s mem g = true)
    (hp : granulePoisoned s mem num g = false) (h : ∀ v : Fin 2, v ≠ w → wrongSymbols v f.errors = []) :
    scrub mem num g f s = meetWord mem num f.gang w g (judgeWord (scrubStep s) mem num f.gang w f.errors) (scrubStep s) := by
  rw [scrub_reads hr hf, if_neg (by rw [hp]; exact Bool.false_ne_true), meetGranule_one h]

theorem erasedOf_scrubStep (s : State) (mem gang : Nat) : erasedOf (scrubStep s) mem gang = erasedOf s mem gang := by
  obtain ⟨-, -, -, hframe, -⟩ := scrubStep_parts s
  unfold erasedOf
  rw [hframe]

theorem notEmpty_toNat (l : List Nat) : (!l.isEmpty).toNat = if l = [] then 0 else 1 := by
  cases l
  · rfl
  · rw [if_neg (List.cons_ne_nil _ _)]
    rfl

theorem partOf_eq (mem y : Nat) : partOf mem y = if 8 ≤ mem ∧ 64 ≤ y then 1 else 0 := by
  unfold partOf
  simp only [Bool.and_eq_true, decide_eq_true_eq]

/-- A codeword corrected by the scrubber: told with its place, and its group noted (R160, R163, R164). -/
theorem scrub_corrects {m : Fin 10} {n y place : Nat} {g : GranuleUse} {f : GranuleFinding} {w : Fin 2} (hr : memReached s m = true) (hf : granuleFits s m g = true)
    (hp : granulePoisoned s m n g = false) (h : ∀ v : Fin 2, v ≠ w → wrongSymbols v f.errors = []) (hw : wrongSymbols w f.errors = [y])
    (hc : groupOf m n w y ∈ erasedOf s m f.gang ∨ (erasedOf s m f.gang).length < erasedMax m)
    (hplace : locator m (gangOf m f.gang) (partOf m y) y (!(erasedOf s m f.gang).isEmpty).toNat = place) : Runs (.scrubGranule m n g f) s fun t =>
      (∃ v, Tells .manager ⟨0x0101, 1, false, memNode m, place, 0, m.val * 2 ^ 60 + n⟩ v (fun q =>
        regGet q K.MEM_CE_COUNT_count = satInc max32 (regGet s K.MEM_CE_COUNT_count) ∧
        regGet q K.MEM_LAST_ERR_locator = place ∧ q = { s with reg := q.reg, mem := { s.mem with scrubbed := q.mem.scrubbed } } ∧
        RegsKept [K.MEM_CE_COUNT_count, K.MEM_LAST_ERR_locator, K.MEM_SCRUB_PASS_count, K.MEM_SCRUB_POS_permille] s q) ∧ t = { v with mem := { v.mem with shows := t.mem.shows } }) ∧
      t.mem.shows.getLast? = some ⟨m, gangOf m f.gang, groupOf m n w y, n, s.ticks⟩ ∧ t.mem.win = s.mem.win ∧ t.mem.room = s.mem.room := by
  obtain ⟨-, -, -, hframe, hkept⟩ := scrubStep_parts s
  have hexec : scrub m n g f s = noteShow m (gangOf m f.gang) (groupOf m n w y) n (reportCodeword m n place 0x0101 K.MEM_CE_COUNT_count (scrubStep s)) := by
    rw [scrub_meets hr hf hp h, judgeWord_corrects hw (by rw [erasedOf_scrubStep]; exact hc), erasedOf_scrubStep, ← hplace]
    rfl
  obtain ⟨hosts, host, cls, htold⟩ := reportCodeword_told m n place 0x0101 K.MEM_CE_COUNT_count (scrubStep s)
  obtain ⟨hlast, hshow⟩ := noteShow_parts m (gangOf m f.gang) (groupOf m n w y) n (reportCodeword m n place 0x0101 K.MEM_CE_COUNT_count (scrubStep s))
  refine ⟨_, congrArg Host.Outcome.next hexec, ⟨_, ⟨_, reportCodeword_raise .., ?_, regGet_regSet_self .., ?_, ?_⟩, hshow⟩, ?_, ?_, ?_⟩
  · rw [regGet_regSet_ne _ _ (by grind), regGet_regInc_self, hkept _ (by grind)]
  · obtain ⟨reg, k, hs⟩ : ∃ reg k, scrubStep s = { s with reg := reg, mem := { s.mem with scrubbed := k } } := ⟨_, _, hframe⟩
    rw [hs]
    rfl
  · intro k hk
    rw [regGet_regSet_ne _ _ (by grind), regGet_regInc_ne _ (by grind), hkept k (by grind)]
  · rw [hlast, htold, hframe]
  · rw [hshow, htold, hframe]
  · rw [hshow, htold, hframe]

/-- A codeword that the scrubber finds uncorrectable: the granule is poisoned (R164, R166). -/
theorem scrub_detects {m : Fin 10} {n y z place : Nat} {g : GranuleUse} {f : GranuleFinding} {w : Fin 2} (hr : memReached s m = true) (hf : granuleFits s m g = true)
    (hp : granulePoisoned s m n g = false) (h : ∀ v : Fin 2, v ≠ w → wrongSymbols v f.errors = []) (hw : wrongSymbols w f.errors = [y, z]) (he : erasedOf s m f.gang = [])
    (hplace : locator m (gangOf m f.gang) (partOf m y) y 2 = place) : Runs (.scrubGranule m n g f) s fun t =>
      regGet t K.MEM_UE_COUNT_count = satInc max32 (regGet s K.MEM_UE_COUNT_count) ∧ regGet t K.MEM_LAST_ERR_locator = place ∧ granulePoisoned t m n g = true ∧
      t.mem.win = s.mem.win ∧ t.mem.room = s.mem.room := by
  obtain ⟨-, -, -, hframe, hkept⟩ := scrubStep_parts s
  have hexec : scrub m n g f s = poison m n g (reportCodeword m n place 0x0102 K.MEM_UE_COUNT_count (scrubStep s)) := by
    rw [scrub_meets hr hf hp h, judgeWord_detects hw (by rw [erasedOf_scrubStep]; exact he), ← hplace]
    rfl
  obtain ⟨hosts, host, cls, htold⟩ := reportCodeword_told m n place 0x0102 K.MEM_UE_COUNT_count (scrubStep s)
  obtain ⟨hreg, hwin, hroom⟩ := poison_frame m n g (reportCodeword m n place 0x0102 K.MEM_UE_COUNT_count (scrubStep s))
  have hreg' := hreg.trans (congrArg State.reg htold)
  refine ⟨_, congrArg Host.Outcome.next hexec, ?_, ?_, poison_poisons .., ?_, ?_⟩
  · rw [regGet_congr (u := regSet K.MEM_LAST_ERR_locator place (regInc K.MEM_UE_COUNT_count (scrubStep s))) hreg', regGet_regSet_ne _ _ (by grind),
      regGet_regInc_self, hkept _ (by grind)]
  · rw [regGet_congr (u := regSet K.MEM_LAST_ERR_locator place (regInc K.MEM_UE_COUNT_count (scrubStep s))) hreg', regGet_regSet_self]
  · rw [hwin, htold, hframe]
  · rw [hroom, htold, hframe]

/-! Erased groups -/

/-- Two bits of a word written over. -/
theorem bitsAt_two_written (v g n : Nat) (hn : n < 4) : bitsAt (v - bitsAt v (2 * g) 2 * 4 ^ g + n * 4 ^ g) (2 * g) 2 = n := by
  have hpow : 2 ^ (2 * g) = 4 ^ g := by rw [Nat.pow_mul]
  have hpos : 0 < 4 ^ g := Nat.pow_pos (by decide)
  unfold bitsAt
  rw [hpow]
  obtain ⟨q, hq⟩ : ∃ q, q = v / 4 ^ g := ⟨_, rfl⟩
  have hv : v = 4 ^ g * q + v % 4 ^ g := by rw [hq, Nat.div_add_mod]
  have hlow : v % 4 ^ g < 4 ^ g := Nat.mod_lt _ hpos
  rw [← hq]
  have hsum : v - q % 2 ^ 2 * 4 ^ g + n * 4 ^ g = v % 4 ^ g + 4 ^ g * (4 * (q / 4) + n) := by
    have hq4 : 4 ^ g * q = 4 ^ g * (4 * (q / 4)) + 4 ^ g * (q % 4) := by rw [← Nat.mul_add, Nat.div_add_mod]
    have hc : q % 2 ^ 2 * 4 ^ g = 4 ^ g * (q % 4) := Nat.mul_comm _ _
    rw [Nat.mul_add, hc, Nat.mul_comm n]
    omega
  rw [hsum, Nat.add_mul_div_left _ _ hpos, Nat.div_eq_of_lt hlow]
  omega

theorem markErased_marks {m g y : Nat} (hr : memReached s m = true) (hm : m < 8 ∨ (g = 0 ∧ y < 64)) (hs : 64 ≤ showCount s m g y)
    (hl : (erasedOf s m g).length < erasedMax m) (hy : y ∉ erasedOf s m g) : markErased m g y s =
      let n := (erasedOf s m g).length + 1
      let u := modMem (fun q => { q with erased := tset [] (gangKey m g) (erasedOf s m g ++ [y]) q.erased }) s
      raise .manager ⟨0x0104, 1, true, memNode m, locator m g 0 y 0, 0, 0⟩
        (if m < 8 then regMod (K.MEM_ERASED_gangs m) (fun v => v - bitsAt v (2 * g) 2 * 4 ^ g + n * 4 ^ g) u
          else regMod K.MEM_ERASED_CEL_gangs (fun v => v - bitsAt v (2 * (m - 8)) 2 * 4 ^ (m - 8) + n * 4 ^ (m - 8)) u) := by
  have hcel : (decide (8 ≤ m) && (decide (g ≠ 0) || decide (64 ≤ y))) = false := by
    rcases hm with h | ⟨rfl, h⟩
    · rw [decide_eq_false (by omega)]
      rfl
    · rw [decide_eq_false (by omega : ¬ 64 ≤ y), Bool.or_false]
      exact Bool.and_false _
  have hin : (erasedOf s m g).contains y = false := by rw [← Bool.not_eq_true, List.contains_iff_mem]; exact hy
  refine if_neg ?_
  rw [hr, hcel, decide_eq_false (by omega : ¬ showCount s m g y < 64), decide_eq_false (by omega : ¬ erasedMax m ≤ (erasedOf s m g).length), hin]
  exact Bool.false_ne_true

theorem memErased_erases {m : Fin 10} {g : Fin 4} {y : Fin 72} (hr : memReached s m = true) (hm : m.val < 8 ∨ (g.val = 0 ∧ y.val < 64)) (hs : 64 ≤ showCount s m g y)
    (hl : (erasedOf s m g).length < erasedMax m) (hy : y.val ∉ erasedOf s m g) : Runs (.memErased m g y) s fun t =>
      Tells .manager ⟨0x0104, 1, true, memNode m, locator m g 0 y 0, 0, 0⟩ t fun u => erasedOf u m g = erasedOf s m g ++ [y.val] ∧
        (m.val < 8 → bitsAt (regGet u (K.MEM_ERASED_gangs m)) (2 * g.val) 2 = (erasedOf s m g).length + 1) ∧
        (8 ≤ m.val → bitsAt (regGet u K.MEM_ERASED_CEL_gangs) (2 * (m.val - 8)) 2 = (erasedOf s m g).length + 1) ∧
        u = { s with reg := u.reg, mem := { s.mem with erased := u.mem.erased } } := by
  have hmax : erasedMax m ≤ 2 := by unfold erasedMax; split <;> omega
  refine ⟨_, congrArg Host.Outcome.next (markErased_marks hr hm hs hl hy), _, rfl, ?_⟩
  by_cases h8 : m.val < 8
  · simp only [if_pos h8]
    refine ⟨tget_tset_self .., fun _ => ?_, fun h => absurd h8 (by omega), rfl⟩
    rw [regGet_regMod_self]
    exact bitsAt_two_written _ _ _ (by omega)
  · simp only [if_neg h8]
    refine ⟨tget_tset_self .., fun h => absurd h h8, fun _ => ?_, rfl⟩
    rw [regGet_regMod_self]
    exact bitsAt_two_written _ _ _ (by omega)

/-! The cellar's initialisation -/

theorem cellarInitUnit_runs {n : Nat} (h6 : 6 ≤ phase s) (h8 : phase s ≤ 8) (hc : s.boot.cellarIn = true) (hn : n < cellarUnits) (hi : n ∉ s.mem.initUnits) :
    Runs (.cellarInitUnit n) s fun t => t.mem.initUnits = s.mem.initUnits ++ [n] ∧ (s.mem.initUnits.length + 1 = cellarUnits → regGet t K.BOOT_STATUS_cellar_init = 1) ∧
      t = { s with reg := t.reg, mem := { s.mem with initUnits := t.mem.initUnits } } ∧ RegsKept [K.BOOT_STATUS_cellar_init] s t := by
  have hin : s.mem.initUnits.contains n = false := by rw [← Bool.not_eq_true, List.contains_iff_mem]; exact hi
  have hgo : ¬ (decide (regGet s K.BOOT_STATUS_phase < 6) || decide (8 < regGet s K.BOOT_STATUS_phase) || !s.boot.cellarIn || decide (cellarUnits ≤ n) ||
      s.mem.initUnits.contains n) = true := by
    have h6' : ¬ regGet s K.BOOT_STATUS_phase < 6 := Nat.not_lt.2 h6
    have h8' : ¬ 8 < regGet s K.BOOT_STATUS_phase := Nat.not_lt.2 h8
    rw [decide_eq_false h6', decide_eq_false h8', hc, decide_eq_false (Nat.not_le.2 hn), hin]
    exact Bool.false_ne_true
  have hlen : (modMem (fun m => { m with initUnits := m.initUnits ++ [n] }) s).mem.initUnits.length = s.mem.initUnits.length + 1 := List.length_append
  by_cases hall : s.mem.initUnits.length + 1 = cellarUnits
  · exact ⟨_, congrArg Host.Outcome.next ((if_neg hgo).trans (if_pos (hlen.trans hall))), rfl, fun _ => regGet_regSet_self .., rfl,
      kept_set (List.mem_singleton.2 rfl) (kept_reg (t := s) rfl (kept_refl _ s))⟩
  · exact ⟨_, congrArg Host.Outcome.next ((if_neg hgo).trans (if_neg fun h => hall (hlen.symm.trans h))), rfl, fun h => absurd h hall, rfl,
      kept_reg (t := s) rfl (kept_refl _ s)⟩

end Sys2Proof.Machine
end

section
/-! PROOFS. The placement of rooms: promotion and demotion (R188). -/

namespace Sys2Proof.Machine

variable {s t u : State}

/-! A room moved -/

theorem tget_map_keyed {α : Type} (d : α) (f : Nat → α → α) (k : Nat) (hd : f k d = d) (l : List (Nat × α)) :
    tget d k (l.map fun e => (e.1, f e.1 e.2)) = f k (tget d k l) := by
  induction l with
  | nil => exact hd.symm
  | cons e l ih =>
    obtain ⟨j, v⟩ := e
    simp only [List.map_cons, tget, ih]
    split
    · subst_vars
      rfl
    · rfl

/-- A room once no pin holds it in limbo (R181). -/
def drained (s : State) (r k : Nat) (e : Room) : Room :=
  if k / 2 ^ 32 == r && e.st == .limbo && !pinnedAt s r e.freeEpoch then { e with st := .free, inHbm := false, freeEpoch := 0, slots := [] } else e

theorem drained_of_ne {r k : Nat} {e : Room} (h : e.st ≠ .limbo) : drained s r k e = e := by
  unfold drained
  rw [beq_eq_false_iff_ne.2 h, Bool.and_false, Bool.false_and, if_neg Bool.false_ne_true]

theorem drainLimbo_dirs (r : Nat) (s : State) : (drainLimbo r s).mem.dirs = s.mem.dirs.map fun e => (e.1, drained s r e.1 e.2) := by
  refine List.map_congr_left fun e _ => ?_
  dsimp only [drained]
  split <;> rfl

theorem roomOf_drainLimbo (r p q : Nat) (h : (roomOf s p q).st ≠ .limbo) : roomOf (drainLimbo r s) p q = roomOf s p q := by
  rw [roomOf, drainLimbo_dirs, tget_map_keyed Room.init (drained s r) _ (drained_of_ne (by decide))]
  exact drained_of_ne h

/-- A room with its new place. -/
abbrev placed (hot : Bool) (slots : List Slot) (e : Room) : Room := { e with st := if hot then .hot else .cold, inHbm := hot, slots := slots }

theorem moveRoom_frame (r q : Nat) (hot : Bool) (s : State) : ∃ mem, moveRoom r q hot s = { s with mem := mem, freeCtr := s.freeCtr + 1 } ∧
    mem.room = s.mem.room ∧ mem.win = s.mem.win := ⟨_, rfl, rfl, rfl⟩

/-- A room with its new place, before the rooms that no pin holds leave limbo. -/
def replaced (r q : Nat) (hot : Bool) (s : State) : State :=
  invalidateRoom r q (modMem (fun m => { m with slotLimbo := m.slotLimbo ++ oldSlots s r (roomOf s r q) })
    (modRoom r q (placed hot (newSlots s r (roomOf s r q).home hot)) { s with freeCtr := s.freeCtr + 1 }))

theorem moveRoom_replaced (r q : Nat) (hot : Bool) (s : State) : moveRoom r q hot s = drainLimbo r (replaced r q hot s) := rfl

theorem roomOf_replaced (r q p : Nat) (hot : Bool) (s : State) : roomOf (replaced r q hot s) r p =
    tget Room.init (dirKey r p) (tmod Room.init (dirKey r q) (placed hot (newSlots s r (roomOf s r q).home hot)) s.mem.dirs) := rfl

theorem moveRoom_self (r q : Nat) (hot : Bool) (s : State) :
    roomOf (moveRoom r q hot s) r q = placed hot (newSlots s r (roomOf s r q).home hot) (roomOf s r q) := by
  have hroom : roomOf (replaced r q hot s) r q = placed hot (newSlots s r (roomOf s r q).home hot) (roomOf s r q) := by
    rw [roomOf_replaced, tget_tmod_self]
    rfl
  have hst : (placed hot (newSlots s r (roomOf s r q).home hot) (roomOf s r q)).st ≠ .limbo := by cases hot <;> exact RoomState.noConfusion
  rw [moveRoom_replaced, roomOf_drainLimbo r r q (by rw [hroom]; exact hst), hroom]

theorem dirKey_ne {r p q : Nat} (h : p ≠ q) : dirKey r p ≠ dirKey r q := by
  unfold dirKey
  omega

theorem moveRoom_other {r p q : Nat} (hot : Bool) (h : p ≠ q) (hst : (roomOf s r p).st ≠ .limbo) : roomOf (moveRoom r q hot s) r p = roomOf s r p := by
  have hroom : roomOf (replaced r q hot s) r p = roomOf s r p := by
    rw [roomOf_replaced, tget_tmod_ne _ _ _ (dirKey_ne h)]
    rfl
  rw [moveRoom_replaced, roomOf_drainLimbo r r p (by rw [hroom]; exact hst), hroom]

/-! Promotion -/

theorem promoteRoom_promotes {r q : Nat} (hr : running s = true) (hc : canPromote s r q = true) (hq : q < roomCount s r)
    (ha : q ∈ (realmOf s r).selected ∨ q ∈ (realmOf s r).askedHot) : promoteRoom r q s = moveRoom r q true s := by
  have hcp := hc
  rw [canPromote, Bool.and_eq_true, beq_iff_eq] at hcp
  obtain ⟨hst, hplace⟩ := hcp
  have hasked : ((realmOf s r).selected.contains q || (realmOf s r).askedHot.contains q) = true := by
    rw [Bool.or_eq_true, List.contains_iff_mem, List.contains_iff_mem]
    exact ha
  have hgo : ¬ (!running s || decide ((roomOf s r q).st ≠ .cold) || !((realmOf s r).selected.contains q || (realmOf s r).askedHot.contains q) ||
      decide (roomCount s r ≤ q)) = true := by
    rw [hr, hasked, hst, decide_eq_false (Nat.not_le.2 hq)]
    decide
  unfold promoteRoom
  extract_lets e m v
  have hv : v = s := if_pos hplace
  rw [if_neg hgo, hv, if_pos hc]

/-! Demotion -/

theorem coldPlaces_cellar (s : State) (r ctr : Nat) : ∀ p ∈ coldPlaces s r ctr, 4 ≤ p := by
  intro p hp
  unfold coldPlaces at hp
  split at hp
  · simp only [List.mem_cons, List.not_mem_nil, or_false] at hp
    omega
  · split at hp
    · rw [List.mem_singleton.1 hp]
      decide
    · split at hp
      · exact (List.mem_singleton.1 hp).ge
      · rw [List.mem_singleton.1 hp]
        exact Nat.le_add_right 4 _

theorem pickSlot_place (s : State) (r ctr p : Nat) : (pickSlot s r ctr p).place = p := rfl

/-- Where a cold room's slots lie (R172, R201). -/
theorem newSlots_cold (s : State) (r home : Nat) : ∀ x ∈ newSlots s r home false, 4 ≤ x.place := by
  intro x hx
  rw [newSlots, if_neg Bool.false_ne_true] at hx
  obtain ⟨p, hp, rfl⟩ := List.mem_map.1 hx
  rw [pickSlot_place]
  exact coldPlaces_cellar s r s.freeCtr p hp

/-- A cold room with its slots in the cellar, in a state that differs from another in what moves of rooms change. -/
structure Demoted (r q : Nat) (s t : State) : Prop where
  cold : (roomOf t r q).st = .cold
  inHbm : (roomOf t r q).inHbm = false
  slots : ∀ x ∈ (roomOf t r q).slots, 4 ≤ x.place
  room : t.mem.room = s.mem.room
  win : t.mem.win = s.mem.win
  frame : t = { s with mem := t.mem, freeCtr := t.freeCtr }

theorem moveRoom_demoted (r q : Nat) (s : State) : Demoted r q s (moveRoom r q false s) := by
  obtain ⟨mem, hf, hroom, hwin⟩ := moveRoom_frame r q false s
  have hq := moveRoom_self r q false s
  refine ⟨by rw [hq]; rfl, by rw [hq], fun x hx => ?_, by rw [hf, hroom], by rw [hf, hwin], by rw [hf]⟩
  rw [hq] at hx
  exact newSlots_cold s r _ x hx

/-- A room demoted stays so while others are. -/
theorem Demoted.move {r p q : Nat} (h : Demoted r q s t) (hp : canDemote t r p = true) : Demoted r q s (moveRoom r p false t) := by
  have hne : q ≠ p := by
    rintro rfl
    simp only [canDemote, Bool.and_eq_true, beq_iff_eq, h.cold] at hp
    obtain ⟨⟨⟨⟨hhot, -⟩, -⟩, -⟩, -⟩ := hp
    cases hhot
  obtain ⟨mem, hf, hroom, hwin⟩ := moveRoom_frame r p false t
  have hq : roomOf (moveRoom r p false t) r q = roomOf t r q := moveRoom_other false hne (by rw [h.cold]; exact RoomState.noConfusion)
  exact ⟨by rw [hq, h.cold], by rw [hq, h.inHbm], fun x hx => h.slots x (by rw [hq] at hx; exact hx), by rw [hf, hroom, h.room], by rw [hf, hwin, h.win],
    by rw [hf]; exact congrArg (fun v : State => { v with mem := mem, freeCtr := t.freeCtr + 1 }) h.frame⟩

theorem demoteSome_demoted {r d q : Nat} (l : List Nat) (h : Demoted r q s t) : Demoted r q s (demoteSome r d l t) := by
  induction l generalizing t with
  | nil => exact h
  | cons p l ih =>
    unfold demoteSome
    split
    · exact h
    · refine ih ?_
      split
      · exact h.move ‹_›
      · exact h

theorem demotable_canDemote {r d q : Nat} (h : q ∈ demotable s r d) : canDemote s r q = true := by
  have hrooms : ∀ p ∈ ((realmRooms s r).filter fun e => slotOn d e.2 && e.2.fill == 64 && canDemote s r e.1).map (·.1), canDemote s r p = true := by
    intro p hp
    obtain ⟨e, he, rfl⟩ := List.mem_map.1 hp
    have hf := (List.mem_filter.1 he).2
    rw [Bool.and_eq_true] at hf
    exact hf.2
  unfold demotable at h
  extract_lets rooms sel at h
  rcases List.mem_append.1 h with hm | hm
  · exact hrooms q (List.mem_filter.1 hm).1
  · exact hrooms q (List.contains_iff_mem.1 (List.mem_filter.1 hm).2)

/-- Below a sixty-fourth of free slots the first room that may be demoted is. -/
theorem demoteSome_first {r d q : Nat} (hfree : 64 * hbmFreeOn s r d < hbmSlots s r) (hq : (demotable s r d).head? = some q) :
    Demoted r q s (demoteSome r d (demotable s r d) s) := by
  obtain ⟨l, hl⟩ := List.head?_eq_some_iff.1 hq
  have hc : canDemote s r q = true := demotable_canDemote (by rw [hl]; exact List.mem_cons_self)
  rw [hl]
  unfold demoteSome
  rw [if_neg (by omega), if_pos hc]
  exact demoteSome_demoted l (moveRoom_demoted r q s)

/-! The statement -/

/-- Settles O44: the scrubber by `scrub_corrects` and `scrub_detects`, the rooms by `moveRoom_self` and the moves that keep a room demoted. -/
theorem memoryCare : Obligations.MemoryCare := by
  unfold Obligations.MemoryCare
  refine ⟨fun m n g f s h => congrArg Host.Outcome.next (scrub_absent h), fun m n g f s hr hf h => ?_,
    fun m n g f w y s hr hf hp h => ⟨fun hw hc => scrub_corrects hr hf hp h hw hc ?_, fun z hw he => scrub_detects hr hf hp h hw he ?_⟩,
    fun m g y s hr hm hs hl hy => memErased_erases hr hm hs hl hy, fun n s h6 h8 hc hn hi => cellarInitUnit_runs h6 h8 hc hn hi, fun r q s hr hc hq ha => ?_,
    fun r d q s hr hfree hq => ?_, fun r d s h => congrArg Host.Outcome.next (if_neg ?_)⟩
  · obtain ⟨hn, hpass, hpos, hframe, hkept⟩ := scrubStep_parts s
    exact ⟨_, congrArg Host.Outcome.next (scrub_clean hr hf h), hn, hpass, by rw [hn]; exact hpos, hframe, hkept⟩
  · rw [notEmpty_toNat, partOf_eq]
    rfl
  · rw [partOf_eq]
    rfl
  · obtain ⟨mem, hframe, hroom, hwin⟩ := moveRoom_frame r.val q.toNat true s
    refine ⟨_, congrArg Host.Outcome.next (promoteRoom_promotes hr hc hq ha), moveRoom_self .., fun p hp hst => moveRoom_other true hp hst, ?_, ?_, ?_⟩
    · rw [hframe, hroom]
    · rw [hframe, hwin]
    · rw [hframe]
  · have hd := demoteSome_first hfree hq
    exact ⟨_, congrArg Host.Outcome.next (if_pos (by rw [hr, decide_eq_true hfree]; rfl)), hd.cold, hd.inHbm, hd.slots, hd.room, hd.win, hd.frame⟩
  · rcases h with h | h
    · rw [h]
      exact Bool.false_ne_true
    · rw [decide_eq_false (by omega), Bool.and_false]
      exact Bool.false_ne_true

end Sys2Proof.Machine
end

section
/-! PROOFS. Comparisons of the two sides' digests, disputes and diagnoses (R318, R329, R330). -/

namespace Sys2Proof.Machine

variable {s t u : State}

/-! Decisions -/

theorem decideNow_acts {d : Decision} (hp : powered s = true) (hr : islRuns s (holder s) = true) (hg : gates s (holder s) = false) : decideNow d s = carryOut d s := by
  unfold decideNow
  rw [if_neg (by rw [hp, hr]; exact Bool.false_ne_true), gateOr_acts hg]

theorem decideNow_waits {d : Decision} (hp : powered s = true) (hr : islRuns s (holder s) = true) (hg : gates s (holder s) = true) : decideNow d s = gate (holder s) d s := by
  unfold decideNow
  rw [if_neg (by rw [hp, hr]; exact Bool.false_ne_true), gateOr_waits hg]

theorem gate_new {i : Isl} {d : Decision} (h : (i, d) ∉ s.isl.gated) : gate i d s = { s with isl := { s.isl with gated := s.isl.gated ++ [(i, d)] } } :=
  if_neg (by rw [List.contains_iff_mem]; exact h)

/-! Withheld results -/

theorem digests_withheld {a : Nat} {j : Job} {r : JobResult} (hj : findJob s a = some j) (hp : j.phase = .withheld) (hr : j.held = some r) (hd : j.dispute = none) :
    digests s (.job a) = some (some r.digest, some r.digest, false) := by
  unfold digests
  dsimp only
  rw [hj]
  dsimp only
  rw [hp, hr, hd]

theorem digests_disputed {a : Nat} {j : Job} {r : JobResult} {d : Dispute} (hj : findJob s a = some j) (hp : j.phase = .withheld) (hr : j.held = some r)
    (hd : j.dispute = some d) : digests s (.job a) = some (d.digA, d.digB, true) := by
  unfold digests
  dsimp only
  rw [hj]
  dsimp only
  rw [hp, hr, hd]

theorem digests_fusion {k : Fin 4} {w : Pend} {rest : List Pend} (hw : (svcOf s k).work = w :: rest) : digests s (.fusion k) = some (w.digA, w.digB, w.dispute) := by
  unfold digests
  dsimp only
  rw [hw]
  rfl

theorem releaseSubj_job {a : Nat} {j : Job} {r : JobResult} (simplex : Bool) (cls : Nat) (hj : findJob s a = some j) (hr : j.held = some r) :
    releaseSubj (.job a) simplex cls s = releaseResult j r simplex cls s := by
  unfold releaseSubj
  dsimp only
  rw [hj]
  dsimp only
  rw [hr]

theorem carryOut_release {x : DupSubject} {p q : List Byte} (h : digests s x = some (some p, some q, false)) : carryOut (.release x) s = releaseSubj x false 0 s := by
  unfold carryOut
  dsimp only
  rw [h]
  rfl

/-! Diagnoses -/

/-- A cluster called to rehearse for a diagnosis. -/
def callCluster (s0 : State) (c : Nat × Nat) (s : State) : State :=
  modEngine c.1 (fun e => { e with called := e.called ++ (if (clusterArrays s0 c.1 c.2).isEmpty then [] else [(1000 + c.2, clusterArrays s0 c.1 c.2)]) }) s

/-- The calls of a diagnosis read the registers alone: each may be read off the state before them. -/
theorem foldl_callCluster (cs : List (Nat × Nat)) (s0 s : State) (h : ∃ engines, s = { s0 with engines := engines }) :
    cs.foldl (fun s c => modEngine c.1 (fun e => { e with
      called := e.called ++ (if (clusterArrays s c.1 c.2).isEmpty then [] else [(1000 + c.2, clusterArrays s c.1 c.2)]) }) s) s =
    cs.foldl (fun s c => callCluster s0 c s) s := by
  induction cs generalizing s with
  | nil => rfl
  | cons c cs ih =>
    obtain ⟨engines, rfl⟩ := h
    exact ih _ ⟨_, rfl⟩

theorem foldl_call_frame (cs : List (Nat × Nat)) (s0 s : State) : ∃ engines, cs.foldl (fun s c => callCluster s0 c s) s = { s with engines := engines } := by
  induction cs generalizing s with
  | nil => exact ⟨s.engines, rfl⟩
  | cons c cs ih =>
    obtain ⟨engines, h⟩ := ih (callCluster s0 c s)
    exact ⟨engines, h⟩

/-- A call stands through later ones. -/
theorem foldl_call_keeps (cs : List (Nat × Nat)) (s0 s : State) {d : Nat} {x : Nat × List Nat} (h : x ∈ (engineOf s d).called) :
    x ∈ (engineOf (cs.foldl (fun s c => callCluster s0 c s) s) d).called := by
  induction cs generalizing s with
  | nil => exact h
  | cons c cs ih =>
    refine ih _ ?_
    unfold callCluster
    by_cases hd : d = c.1
    · subst hd
      rw [engineOf_modEngine_self]
      exact List.mem_append_left _ h
    · rw [engineOf_modEngine_ne _ _ hd]
      exact h

theorem foldl_call_calls (cs : List (Nat × Nat)) (s0 s : State) {c : Nat × Nat} (hc : c ∈ cs) (hne : clusterArrays s0 c.1 c.2 ≠ []) :
    (1000 + c.2, clusterArrays s0 c.1 c.2) ∈ (engineOf (cs.foldl (fun s c => callCluster s0 c s) s) c.1).called := by
  induction cs generalizing s with
  | nil => exact absurd hc List.not_mem_nil
  | cons x cs ih =>
    rcases List.mem_cons.1 hc with rfl | hm
    · refine foldl_call_keeps cs s0 _ ?_
      unfold callCluster
      rw [engineOf_modEngine_self, List.isEmpty_eq_false_iff.2 hne]
      exact List.mem_append_right _ (List.mem_singleton.2 rfl)
    · exact ih _ hm

/-- A diagnosis begun: it stands among the others, and the clusters that held a tile are called; one that runs already goes on (R330). -/
theorem beginDiag_parts (x : DupSubject) (s : State) :
    (∃ z ∈ (beginDiag x s).dpx.diags, z.subj = x) ∧
    (∃ engines diags, beginDiag x s = { s with engines := engines, dpx := { s.dpx with diags := diags } }) ∧
    ((∀ z ∈ s.dpx.diags, z.subj ≠ x) → ∀ c ∈ diagClusters s x, clusterArrays s c.1 c.2 ≠ [] → (1000 + c.2, clusterArrays s c.1 c.2) ∈ (engineOf (beginDiag x s) c.1).called) ∧
    (diagClusters s x = [] → (beginDiag x s).engines = s.engines) := by
  by_cases h : (s.dpx.diags.any fun z => z.subj == x) = true
  · have hsame : beginDiag x s = s := if_pos h
    obtain ⟨z, hz, hzx⟩ := List.any_eq_true.1 h
    rw [hsame]
    exact ⟨⟨z, hz, beq_iff_eq.1 hzx⟩, ⟨s.engines, s.dpx.diags, rfl⟩, fun hno => absurd (beq_iff_eq.1 hzx) (hno z hz), fun _ => rfl⟩
  · obtain ⟨arrays, hbegin⟩ : ∃ arrays, beginDiag x s = (diagClusters s x).foldl (fun t c => callCluster s c t)
        { s with dpx := { s.dpx with diags := s.dpx.diags ++ [⟨x, arrays, false, false⟩] } } := by
      refine ⟨((diagClusters s x).flatMap fun c => (clusterArrays s c.1 c.2).map fun a => (c.1, a)) ++ (diagEngines s x).map (fun e => (4 + e, 0)), ?_⟩
      unfold beginDiag
      rw [if_neg h]
      extract_lets cs dpx v
      rw [foldl_callCluster cs v v ⟨v.engines, rfl⟩]
      rfl
    obtain ⟨engines, hf⟩ := foldl_call_frame (diagClusters s x) s { s with dpx := { s.dpx with diags := s.dpx.diags ++ [⟨x, arrays, false, false⟩] } }
    refine ⟨?_, ⟨engines, _, hbegin.trans hf⟩, fun _ c hc hne => ?_, fun hnil => ?_⟩
    · rw [hbegin, hf]
      exact ⟨_, List.mem_append_right _ (List.mem_singleton.2 rfl), rfl⟩
    · rw [hbegin]
      exact foldl_call_calls _ s _ hc hne
    · rw [hbegin, hnil]
      rfl

/-! Comparisons -/

theorem compare_agrees {x : DupSubject} {p : List Byte} (h : digests s x = some (some p, some p, false)) : compare x none none s = decideNow (.release x) s := by
  unfold compare
  rw [h]
  exact if_pos (beq_self_eq_true p)

theorem compare_differs {x : DupSubject} {p q : List Byte} {oa ob : Option (List Byte)} (hne : p ≠ q) (h : digests s x = some (oa, ob, false)) :
    compare x (some p) (some q) s = disagree x false (some p) (some q) s := by
  unfold compare
  rw [h]
  exact if_neg (by rw [beq_iff_eq]; exact hne)

theorem compare_late {x : DupSubject} {oa ob : Option (List Byte)} (fa fb : Option (List Byte)) (h : digests s x = some (oa, ob, true)) :
    compare x fa fb s = setDispute x ((oa.or fa).or (trueDigest s x)) ((ob.or fb).or (trueDigest s x)) s := by
  unfold compare
  rw [h]

theorem compare_misses {x : DupSubject} {oa : Option (List Byte)} (h : digests s x = some (oa, none, false)) : compare x none none s = s := by
  unfold compare
  rw [h]
  cases oa <;> rfl

theorem duplexCompare_exec {x : DupSubject} {fa fb : Option (List Byte)} (hp : powered s = true) (hr : islRuns s (holder s) = true) :
    exec (.duplexCompare x fa fb) s = .next (compare x fa fb s) := congrArg Host.Outcome.next (if_pos (by rw [hp, hr]; rfl))

theorem trueDigest_job {a : Nat} {j : Job} {r : JobResult} (hj : findJob s a = some j) (hr : j.held = some r) : trueDigest s (.job a) = some r.digest := by
  unfold trueDigest
  dsimp only
  rw [hj, Option.bind_some, hr]
  rfl

theorem setDispute_job {a : Nat} {j : Job} (oa ob : Option (List Byte)) (hj : findJob s a = some j) :
    findJob (setDispute (.job a) oa ob s) a = some { j with dispute := some ⟨oa, ob⟩ } ∧ setDispute (.job a) oa ob s = { s with jobs := (setDispute (.job a) oa ob s).jobs } :=
  ⟨findJob_modJob (f := fun j => { j with dispute := some ⟨oa, ob⟩ }) hj fun _ => rfl, rfl⟩

/-- A dispute about a job opened: its jobs show it, a diagnosis runs, its clusters are called (R329, R330). -/
theorem disputed_parts {a : Nat} {j : Job} (oa ob : Option (List Byte)) (hj : findJob s a = some j) :
    let u := beginDiag (.job a) (setDispute (.job a) oa ob s)
    findJob u a = some { j with dispute := some ⟨oa, ob⟩ } ∧ (∃ z ∈ u.dpx.diags, z.subj = .job a) ∧
    ((∀ z ∈ s.dpx.diags, z.subj ≠ .job a) → ∀ d ∈ sideDies s false ++ sideDies s true, ∀ c ∈ jobClusters s a d, clusterArrays s d c ≠ [] →
      (1000 + c, clusterArrays s d c) ∈ (engineOf u d).called) ∧
    u = { s with jobs := u.jobs, engines := u.engines, dpx := { s.dpx with diags := u.dpx.diags } } := by
  intro u
  obtain ⟨hjob, hset⟩ := setDispute_job oa ob hj
  obtain ⟨jobs, hjobs⟩ : ∃ jobs, setDispute (.job a) oa ob s = { s with jobs := jobs } := ⟨_, hset⟩
  obtain ⟨hdiag, ⟨engines, diags, hframe⟩, hcalls, -⟩ := beginDiag_parts (.job a) (setDispute (.job a) oa ob s)
  refine ⟨?_, hdiag, fun hno d hd c hc hne => ?_, ?_⟩
  · change findJob (beginDiag (.job a) (setDispute (.job a) oa ob s)) a = _
    rw [hframe, ← hjob]
    rfl
  · have hmem : (d, c) ∈ diagClusters (setDispute (.job a) oa ob s) (.job a) := by
      rw [hjobs]
      exact List.mem_flatMap.2 ⟨d, hd, List.mem_map.2 ⟨c, hc, rfl⟩⟩
    have hcall := hcalls (by rw [hjobs]; exact hno) (d, c) hmem
    rw [hjobs] at hcall
    have hgoal := hcall hne
    rw [← hjobs] at hgoal
    exact hgoal
  · change beginDiag (.job a) (setDispute (.job a) oa ob s) = _
    rw [show u = _ from hframe, hframe, hjobs]

theorem waitTimeout_gated {x : DupSubject} {m : Side} (h : (holder s, Decision.release x) ∈ s.isl.gated) : waitTimeout x m s = s := if_pos (List.contains_iff_mem.2 h)

theorem waitTimeout_misses {x : DupSubject} {p : List Byte} (hg : (holder s, Decision.release x) ∉ s.isl.gated) (h : digests s x = some (some p, none, false)) :
    waitTimeout x .b s = disagree x true (some p) none s := by
  unfold waitTimeout
  rw [if_neg (by rw [List.contains_iff_mem]; exact hg), h]
  rfl

/-- The dispute about a service's result whose second digest has not come. -/
theorem disputed_service {k : Fin 4} {w : Pend} {rest : List Pend} (hw : (svcOf s k).work = w :: rest) :
    let u := beginDiag (.fusion k) (setDispute (.fusion k) w.digA w.digB s)
    (svcOf u k).work = { w with dispute := true } :: rest ∧ u = { s with fus := { s.fus with svcs := u.fus.svcs }, dpx := { s.dpx with diags := u.dpx.diags } } := by
  intro u
  obtain ⟨-, ⟨engines, diags, hframe⟩, -, hengines⟩ := beginDiag_parts (.fusion k) (setDispute (.fusion k) w.digA w.digB s)
  have hsame : engines = s.engines := by
    have h := hengines rfl
    rw [hframe] at h
    exact h
  have hset : svcOf (setDispute (.fusion k) w.digA w.digB s) k = { svcOf s k with work := { w with dispute := true } :: rest } :=
    svcOf_modWork_self (fun p => { p with digA := w.digA, digB := w.digB, dispute := true }) hw
  obtain ⟨svcs, hsvcs⟩ : ∃ svcs, setDispute (.fusion k) w.digA w.digB s = { s with fus := { s.fus with svcs := svcs } } := ⟨_, rfl⟩
  refine ⟨?_, ?_⟩
  · have h : svcOf u k = svcOf (setDispute (.fusion k) w.digA w.digB s) k := by
      rw [show u = _ from hframe]
      rfl
    rw [h, hset]
  · rw [show u = _ from hframe, hsvcs, hsame]

/-! The statement -/

/-- Settles O45: what a comparison decides by `compare_agrees`, `compare_differs` and `compare_late`; what a dispute leaves by `disputed_parts`. -/
theorem duplexCompares : Obligations.DuplexCompares := by
  unfold Obligations.DuplexCompares
  refine ⟨fun a s j r hp hr hj hph hheld => ⟨fun hd => ⟨fun hg => ?_, fun hg hnew => ?_, fun x y hne => ?_⟩, fun d fa fb hd => ?_⟩,
    fun k s w rest x hp hr hw hdis ha => ⟨fun hb hg => ?_, fun hb => ?_, fun hb hnew => ?_⟩, fun x m s h => ?_⟩
  · have hdig := digests_withheld hj hph hheld hd
    rw [duplexCompare_exec hp hr, compare_agrees hdig, decideNow_acts hp hr hg, carryOut_release hdig, releaseSubj_job false 0 hj hheld]
  · rw [duplexCompare_exec hp hr, compare_agrees (digests_withheld hj hph hheld hd), decideNow_waits hp hr hg, gate_new hnew]
  · exact ⟨_, (duplexCompare_exec hp hr).trans (congrArg Host.Outcome.next (compare_differs hne (digests_withheld hj hph hheld hd))), _, rfl, disputed_parts (some x) (some y) hj⟩
  · refine ⟨_, (duplexCompare_exec hp hr).trans (congrArg Host.Outcome.next (compare_late fa fb (digests_disputed hj hph hheld hd))), ?_⟩
    rw [trueDigest_job hj hheld]
    exact setDispute_job _ _ hj
  · have hdig : digests s (.fusion k) = some (some x, some x, false) := by rw [digests_fusion hw, ha, hb, hdis]
    obtain ⟨hsvc, -, -, -⟩ := releaseService_parts (simplex := false) hw
    refine ⟨_, (duplexCompare_exec hp hr).trans (congrArg Host.Outcome.next ((compare_agrees hdig).trans ((decideNow_acts hp hr hg).trans (carryOut_release hdig)))), ?_, ?_⟩
    · exact congrArg Svc.work hsvc
    · exact congrArg Svc.done hsvc
  · rw [duplexCompare_exec hp hr, compare_misses (by rw [digests_fusion hw, hb, hdis])]
  · have hdig : digests s (.fusion k) = some (some x, none, false) := by rw [digests_fusion hw, ha, hb, hdis]
    refine ⟨_, congrArg Host.Outcome.next ((if_pos (by rw [hp, hr]; rfl)).trans (waitTimeout_misses hnew hdig)), _, rfl, ?_⟩
    have hset : setDispute (.fusion k) (some x) none s = setDispute (.fusion k) w.digA w.digB s := by rw [ha, hb]
    change (svcOf (beginDiag (.fusion k) (setDispute (.fusion k) (some x) none s)) k).work = _ ∧ beginDiag (.fusion k) (setDispute (.fusion k) (some x) none s) = _
    rw [hset]
    exact disputed_service hw
  · refine congrArg Host.Outcome.next ?_
    split
    · exact waitTimeout_gated h
    · rfl

end Sys2Proof.Machine
end

section
/-! PROOFS. Verdicts on disputed jobs (R330, R331, R334, R337). -/

namespace Sys2Proof.Machine

variable {s t u : State}

/-! What the end of a withheld job leaves of the registers -/

theorem settleEntries_memOnly (r newLen : Nat) (l : List JEntry) (s : State) : MemOnly s (settleEntries r newLen l s) := by
  induction l generalizing s with
  | nil => exact .refl s
  | cons e l ih =>
    rw [settleEntries]
    split
    · exact ih s
    · have hset (tab : RTable) : MemOnly s (freeNow r e.newRoom (setEntry r tab e.block e.group e.oldRoom s)) := (realmWrite_memOnly ..).trans rfl
      refine .trans ?_ (ih _)
      split
      · exact (hset _).trans rfl
      · exact hset _

theorem noteFill_memOnly (r : Nat) (tab : RTable) (len : Nat) (s : State) : MemOnly s (noteFill r tab len s) := by
  refine MemOnly.foldl (fun t x => ?_) _ s
  dsimp only
  split
  · exact .refl t
  · rfl

theorem settleAll_memOnly (r acc : Nat) (lens : List (Nat × Nat)) (s : State) : MemOnly s (settleAll r acc lens s) := by
  have htable (l : Nat × Nat) (s : State) : MemOnly s (settleTable r acc l.1 l.2 s) :=
    (((settleEntries_memOnly ..).trans (realmWrite_memOnly ..)).trans (noteFill_memOnly ..)).trans rfl
  exact (MemOnly.foldl (fun t l => htable l t) lens s).trans rfl

/-- The registers that the end of a job may write, but for the count of stale results. -/
abbrev endKeys : List Nat := [K.UND_STATE_state, K.FAULT_LAST_source]

/-- The active banks and all registers but those of the end of a job are as they were. -/
structure Closing (s t : State) : Prop where
  active : t.active = s.active
  regs : RegsKept endKeys s t

theorem Closing.refl (s : State) : Closing s s := ⟨rfl, kept_refl _ s⟩

theorem Closing.of_eq (ha : t.active = s.active) (hr : t.reg = s.reg) : Closing s t := ⟨ha, fun k _ => regGet_congr hr k⟩

theorem Closing.trans (h : Closing s t) (g : Closing t u) : Closing s u := ⟨g.active.trans h.active, fun k hk => (g.regs k hk).trans (h.regs k hk)⟩

theorem MemOnly.closing (h : MemOnly s t) : Closing s t := .of_eq (by rw [h]) (by rw [h])

theorem leaveOpen_closing (r : Nat) (l : List (Nat × Nat)) (s : State) : Closing s (leaveOpen r l s) := by
  have h := MemOnly.foldl (f := fun t x => leaveSeg s.freeCtr r x t) (fun t x => (realmWrite_memOnly r x.1 _ t).trans rfl) l { s with freeCtr := s.freeCtr + 1 }
  exact (Closing.of_eq (s := s) (t := { s with freeCtr := s.freeCtr + 1 }) rfl rfl).trans h.closing

theorem withUnd_closing (m : Understudy) (h : Closing s t) : Closing s { t with und := m } := ⟨h.active, h.regs⟩

theorem undCompare_closing (x : UndJob) (s : State) : Closing s (undCompare x s) := by
  unfold undCompare
  split
  · exact .refl s
  · dsimp only
    split
    · exact .refl s
    · split
      · exact withUnd_closing _ (withUnd_closing _ (.refl s))
      · refine ⟨?_, kept_raise (kept_set (by simp) ?_)⟩
        · rw [raise_active]
          rfl
        · exact (withUnd_closing _ (withUnd_closing _ (.refl s))).regs

theorem undComplete_closing (c : Option Nat) (ok : Bool) (d : List Byte) (s : State) : Closing s (undComplete c ok d s) := by
  unfold undComplete
  split
  · exact .refl s
  · split
    · exact .refl s
    · dsimp only
      split
      · exact (withUnd_closing _ (withUnd_closing _ (.refl s))).trans (undCompare_closing ..)
      · exact withUnd_closing _ (.refl s)

theorem completeJob_closing (j : Job) (r : JobResult) (simplex : Bool) (cls : Nat) (s : State) : Closing s (completeJob j r simplex cls s) := by
  unfold completeJob
  extract_lets a b c d e f
  have ha : Closing s a := by
    unfold a
    split
    · exact (realmWrite_memOnly ..).closing
    · exact .refl s
  have hd : Closing s d := by
    unfold d
    split
    · exact ha.trans (.of_eq rfl rfl)
    · exact ha.trans (.of_eq rfl rfl)
  have hf : Closing s f := (hd.trans (.of_eq (t := drainLimbo j.realm e) rfl rfl)).trans (undComplete_closing ..)
  split
  · exact hf.trans ⟨rfl, kept_set (by simp) (kept_refl _ f)⟩
  · exact hf

theorem dropResult_closing (j : Job) (r : JobResult) (f : Fail) (s : State) : Closing s (dropResult j r f s) :=
  ((leaveOpen_closing ..).trans (settleAll_memOnly ..).closing).trans (completeJob_closing ..)

/-- A register that no end of a job writes is as it was after a release. -/
theorem releaseResult_regs {k : Nat} (hk : k ∉ endKeys) (hstale : ∀ i, k ≠ K.OUT_STALE_count i) (j : Job) (r : JobResult) (simplex : Bool) (cls : Nat) (s : State) :
    regGet (releaseResult j r simplex cls s) k = regGet s k := by
  have hraise (d : EvDest) (e : Ev) : Closing s (raise d e s) := .of_eq (by simp) (by simp)
  unfold releaseResult
  split
  · exact ((hraise ..).trans (dropResult_closing ..)).regs k hk
  · refine ((completeJob_closing ..).regs k hk).trans ?_
    have hset : regGet (settleAll j.realm j.acc (r.lens.map fun l => (l.1, l.2.2)) s) k = regGet s k := (settleAll_memOnly ..).closing.regs k hk
    split
    · refine (((realmWrite_memOnly ..).trans (realmWrite_memOnly ..)).closing.regs k hk).trans ?_
      unfold countStale
      split
      · rw [regGet_regInc_ne _ (hstale _), hset]
      · exact hset
    · exact hset

theorem findJob_dropResult (j : Job) (r : JobResult) (f : Fail) (s : State) : findJob (dropResult j r f s) j.acc = none := findJob_completeJob ..

theorem findJob_releaseResult (j : Job) (r : JobResult) (simplex : Bool) (cls : Nat) (s : State) : findJob (releaseResult j r simplex cls s) j.acc = none := by
  unfold releaseResult
  split
  · exact findJob_dropResult ..
  · exact findJob_completeJob ..

/-! What a verdict reads -/

theorem findJob_congr (h : t.jobs = s.jobs) (a : Nat) : findJob t a = findJob s a := by rw [findJob, h, findJob]

theorem sideDies_congr (hl : t.dpx = s.dpx) (ha : t.active = s.active) (hr : regGet t K.ID_DIES_in_service = regGet s K.ID_DIES_in_service) (b : Bool) :
    sideDies t b = sideDies s b := by
  have hv : vehicleDie t = vehicleDie s := by
    funext d
    rw [vehicleDie, dieIn_congr hr, hl, vehicleDie]
  rw [sideDies, sideDies, hl, hv, duplexPairs, actGet_congr ha, duplexPairs]

theorem diesDuplex_congr (h : ∀ b, sideDies t b = sideDies s b) : diesDuplex t = diesDuplex s := by
  rw [diesDuplex, h, h, diesDuplex]

theorem dieIn_of_sideDies {b : Bool} {d : Nat} (h : d ∈ sideDies s b) : dieIn s d = true :=
  (Bool.and_eq_true_iff.1 (List.mem_filter.1 h).2).1

theorem shown_pass {x : DupSubject} (h : ∀ z, diagOf s x = some z → z.failA = false ∧ z.failB = false) (b : Bool) (v : SideVerdict) : shown s x b v = v := by
  unfold shown
  split
  · rename_i z hz
    obtain ⟨ha, hb⟩ := h z hz
    rw [ha, hb, ite_self, Bool.and_false]
    rfl
  · rfl

theorem shown_fail (x : DupSubject) (b : Bool) (d : Option (Fin 4)) (cs : List (Fin 4 × Fin 24)) : shown s x b (.fail d cs) = .fail d cs := by
  unfold shown
  split <;> rfl

theorem unready_done {x : DupSubject} {b : Bool} (h : ∀ z, diagOf s x = some z → diagTodo s z b = false) (v : SideVerdict) : unready s x b v = false := by
  unfold unready
  split
  · rename_i z hz
    rw [h z hz, Bool.and_false]
  · rw [Bool.and_false]

/-- A verdict given at once: what each side has shown decides (R331). -/
theorem verdict_decides {x : DupSubject} {da db : Option (List Byte)} (h : digests s x = some (da, db, true)) {a b : SideVerdict}
    (ha : unready s x false (shown s x false a) = false) (hb : unready s x true (shown s x true b) = false) :
    verdict x a b s = match failed (shown s x false a), failed (shown s x true b) with
      | false, false => if (da.isSome && da == db) = true then releaseSubj x false 0 (endDiag x s) else transient x (subjPair s x) (endDiag x s)
      | false, true => located x (subjPair s x) true (shown s x true b) (endDiag x s)
      | true, false => located x (subjPair s x) false (shown s x false a) (endDiag x s)
      | true, true => bothFail x (subjPair s x) (shown s x false a) (shown s x true b) (endDiag x s) := by
  unfold verdict
  rw [h]
  dsimp only
  rw [ha, hb]
  rfl

end Sys2Proof.Machine
end

section
/-! PROOFS. What a verdict on a disputed job leaves (R330, R331, R334). -/

namespace Sys2Proof.Machine

variable {s t u : State}

/-! One side fails -/

theorem leaveSideB_frame (l : List (Nat × Nat)) (s : State) : ∃ mem, leaveSideB l s = { s with mem := mem, freeCtr := s.freeCtr + 1 } := by
  have hput (x : Nat × Nat) (s : State) : MemOnly s ((List.range x.2).foldl (fun t i =>
      let a := x.1 + i
      if mirrored 0 a then { t with mem := copyWrite 0 a (sideOff t true (quarterOf t a)) [Config.leftByte s.freeCtr a] t.mem } else t) s) := by
    refine MemOnly.foldl (fun t i => ?_) _ s
    dsimp only
    split
    · rfl
    · exact .refl t
  have h := MemOnly.foldl (fun t x => hput x t) l s
  exact ⟨_, congrArg (fun t : State => { t with freeCtr := s.freeCtr + 1 }) h⟩

theorem ifLeft_frame (c : Bool) (l : List (Nat × Nat)) (s : State) : ∃ mem ctr, (if c then leaveSideB l s else s) = { s with mem := mem, freeCtr := ctr } := by
  cases c
  · exact ⟨s.mem, s.freeCtr, rfl⟩
  · obtain ⟨mem, h⟩ := leaveSideB_frame l s
    exact ⟨mem, _, h⟩

/-- The class of a verdict that fails one side. -/
abbrev sideClass (p : Nat) (b : Bool) (v : SideVerdict) (s : State) : Nat := if removes s p b v then 3 else 1

/-- A verdict told, what the failing side has written into its own copy of the window left there. -/
def judged (x : DupSubject) (p : Nat) (b : Bool) (v : SideVerdict) (s : State) : State :=
  let w := raiseFault .manager (verdictEv s (sideClass p b v s) p (if b then 1 else 2)) s
  if b && p < 2 && diesDuplex w then leaveSideB (subjExtents w x) w else w

theorem located_judged (x : DupSubject) (p : Nat) (b : Bool) (v : SideVerdict) (s : State) : located x p b v s =
    if (withdraw (judged x p b v s) p b v).op = .safeOff then withdraw (judged x p b v s) p b v
    else raise .manager ⟨0x0609, sideClass p b v s, true, islNode (holder s), p, if b then 0 else 1, subjTag s x⟩
      (releaseSubj x true (sideClass p b v s) (withdraw (judged x p b v s) p b v)) := rfl

theorem judged_parts (x : DupSubject) (p : Nat) (b : Bool) (v : SideVerdict) (s : State) : ∃ hosts mem cls ctr, judged x p b v s =
    { s with reg := (recordFault (sideClass p b v s) (islNode (holder s)) s).reg, hosts := hosts, mem := mem, lastClass := cls, freeCtr := ctr } := by
  obtain ⟨hosts, host, cls, ht⟩ := raiseFault_told .manager (verdictEv s (sideClass p b v s) p (if b then 1 else 2)) s
  obtain ⟨mem, ctr, h⟩ : ∃ mem ctr, judged x p b v s =
      { raiseFault .manager (verdictEv s (sideClass p b v s) p (if b then 1 else 2)) s with mem := mem, freeCtr := ctr } := ifLeft_frame ..
  rw [ht] at h
  exact ⟨hosts, mem, cls, ctr, h⟩

theorem judged_sideDies (x : DupSubject) (p : Nat) (b : Bool) (v : SideVerdict) (s : State) (c : Bool) : sideDies (judged x p b v s) c = sideDies s c := by
  obtain ⟨hosts, mem, cls, ctr, h⟩ := judged_parts x p b v s
  refine sideDies_congr (by rw [h]) (by rw [h]) ?_ c
  rw [regGet_congr (u := recordFault (sideClass p b v s) (islNode (holder s)) s) (by rw [h]), (recordFault_regs ..).2 _ (by grind)]

theorem withdraw_engineless {p : Nat} (h : p < 2) (b : Bool) (e : Option (Fin 4)) (cs : List (Fin 4 × Fin 24)) (s : State) : withdraw s p b (.fail e cs) =
    match removedDie s p b (.fail e cs) with
    | some d => removeDie d 0 ((failedClusters s p b (.fail e cs)).foldl (fun s c => withdrawCluster c.1 c.2 s) s)
    | none => (failedClusters s p b (.fail e cs)).foldl (fun s c => withdrawCluster c.1 c.2 s) s :=
  (if_neg (by simp)).trans (if_neg (by omega))

theorem withdraw_none {p : Nat} (h : p < 2) (b : Bool) (s : State) : withdraw s p b (.fail none) = s := by
  rw [withdraw_engineless h]
  change (failedClusters s p b (.fail none)).foldl _ s = s
  rw [failedClusters, if_pos h]
  rfl

/-! Jobs of a removed die -/

/-- A job is in flight as before, or the module has entered SAFE_OFF and none is (R33). -/
def JobsOrOff (s t : State) : Prop := (t.op ≠ .safeOff ∧ t.jobs = s.jobs) ∨ (t.op = .safeOff ∧ t.jobs = [])

theorem classD_jobsOrOff {cause src : Nat} (h : JobsOrOff s t) : JobsOrOff s (classD cause src t) := by
  unfold classD
  split
  · refine .inr ⟨by rw [safeState, raiseFault_op, (safeOffFor_offed cause t).op], ?_⟩
    rw [safeState, raiseFault_jobs]
    unfold safeOffFor
    rcases h with ⟨ho, -⟩ | ⟨ho, hj⟩
    · rw [if_neg ho]
      rfl
    · rw [if_pos ho, hj]
  · exact h

theorem removeDie_jobsOrOff {k cause : Nat} (hd : dieIn s k = true) (ho : s.op ≠ .safeOff) (hp : powered s = true) : JobsOrOff s (removeDie k cause s) := by
  refine removeDie_keeps (P := JobsOrOff s) hd ho hp (.inl ?_) (fun u pair h => h) fun u c h => classD_jobsOrOff h
  obtain ⟨hosts, mem, h⟩ := dieRemoved_parts k cause s
  rw [h]
  exact ⟨ho, rfl⟩

/-! The other side's result released -/

theorem sideClass_plain {p : Nat} (h : p < 2) (b : Bool) (cs : List (Fin 4 × Fin 24)) (s : State) : sideClass p b (.fail none cs) s = 1 := by
  rw [sideClass, removes, decide_eq_false (by omega : ¬ 2 ≤ p)]
  rfl

theorem judged_jobs (x : DupSubject) (p : Nat) (b : Bool) (v : SideVerdict) (s : State) : (judged x p b v s).jobs = s.jobs := by
  obtain ⟨hosts, mem, cls, ctr, h⟩ := judged_parts x p b v s
  rw [h]

theorem judged_op (x : DupSubject) (p : Nat) (b : Bool) (v : SideVerdict) (s : State) : (judged x p b v s).op = s.op := by
  obtain ⟨hosts, mem, cls, ctr, h⟩ := judged_parts x p b v s
  rw [h]

theorem judged_powered (x : DupSubject) (p : Nat) (b : Bool) (v : SideVerdict) (s : State) : powered (judged x p b v s) = powered s := by
  obtain ⟨hosts, mem, cls, ctr, h⟩ := judged_parts x p b v s
  rw [h]
  rfl

theorem subjTag_job {a : Nat} {j : Job} (hj : findJob s a = some j) : subjTag s (.job a) = dF j 16 8 := by
  unfold subjTag
  dsimp only
  rw [hj]

/-- A side fails and no element of it is removed: the other's result is released as simplex (R331). -/
theorem located_plain {a p : Nat} {j : Job} {r : JobResult} (b : Bool) (hj : findJob s a = some j) (hr : j.held = some r) (hp : p < 2) (ho : s.op ≠ .safeOff) :
    located (.job a) p b (.fail none) s = raise .manager ⟨0x0609, 1, true, islNode (holder s), p, if b then 0 else 1, dF j 16 8⟩
      (releaseResult j r true 1 (judged (.job a) p b (.fail none) s)) := by
  rw [located_judged, withdraw_none hp, if_neg (by rw [judged_op]; exact ho), sideClass_plain hp, subjTag_job hj,
    releaseSubj_job true 1 ((findJob_congr (judged_jobs ..) a).trans hj) hr]

theorem subjExtents_congr {a : Nat} (h : t.jobs = s.jobs) : subjExtents t (.job a) = subjExtents s (.job a) := by
  unfold subjExtents
  dsimp only
  rw [findJob_congr h]

theorem judged_a (a : Nat) {p : Nat} (hp : p < 2) (s : State) : Told s (judged (.job a) p false (.fail none) s) := by
  unfold judged
  rw [sideClass_plain hp]
  exact raise_told ..

theorem judged_b (a : Nat) {p : Nat} (hp : p < 2) (s : State) :
    ∃ w, Told s w ∧ judged (.job a) p true (.fail none) s = if diesDuplex s = true then leaveSideB (subjExtents s (.job a)) w else w := by
  have hw : Told s (raise .manager (verdictEv s 1 p 1) s) := raise_told ..
  refine ⟨_, hw, ?_⟩
  have hdup : diesDuplex (raise .manager (verdictEv s 1 p 1) s) = diesDuplex s := diesDuplex_congr fun b => sideDies_congr (by simp) (by simp) (by simp) b
  unfold judged
  rw [sideClass_plain hp]
  change (if (true && decide (p < 2) && diesDuplex (raise .manager (verdictEv s 1 p 1) s)) = true then
    leaveSideB (subjExtents (raise .manager (verdictEv s 1 p 1) s) (.job a)) (raise .manager (verdictEv s 1 p 1) s) else raise .manager (verdictEv s 1 p 1) s) = _
  rw [hdup, subjExtents_congr (raise_jobs ..), decide_eq_true hp, Bool.true_and, Bool.true_and]

/-- A job whose result goes, or has gone with the work that SAFE_OFF ends. -/
theorem findJob_releaseSubj {a : Nat} {j : Job} {r : JobResult} (simplex : Bool) (cls : Nat) (hj : findJob s a = some j) (hr : j.held = some r) (h : t.jobs = s.jobs) :
    releaseSubj (.job a) simplex cls t = releaseResult j r simplex cls t ∧ findJob (releaseResult j r simplex cls t) a = none :=
  ⟨releaseSubj_job simplex cls ((findJob_congr h a).trans hj) hr, by rw [← findJob_acc hj, findJob_releaseResult]⟩

/-- The removal that a verdict asks for of a die of side B (R330). -/
theorem located_die {a p : Nat} {j : Job} {r : JobResult} {k : Fin 4} (hj : findJob s a = some j) (hr : j.held = some r) (hp : p < 2) (ho : s.op ≠ .safeOff)
    (hpow : powered s = true) (hk : k.val ∈ sideDies s true) :
    dieIn (located (.job a) p true (.fail (some k)) s) k = false ∧ findJob (located (.job a) p true (.fail (some k)) s) a = none := by
  obtain ⟨w, hw⟩ : ∃ w, judged (.job a) p true (.fail (some k)) s = w := ⟨_, rfl⟩
  have hside : k.val ∈ sideDies w true := by rw [← hw, judged_sideDies]; exact hk
  have hgone : withdraw w p true (.fail (some k)) = removeDie k 0 w := by
    rw [withdraw_engineless hp, removedDie, failedClusters, if_pos hp, decide_eq_true hp, List.contains_iff_mem.2 hside]
    rfl
  have how : w.op ≠ .safeOff := by rw [← hw, judged_op]; exact ho
  have hpw : powered w = true := by rw [← hw, judged_powered, hpow]
  have hjobs : w.jobs = s.jobs := by rw [← hw, judged_jobs]
  have hdie : dieIn (removeDie k 0 w) k = false := ((removeDie_parts (dieIn_of_sideDies hside) how hpw).1 k).trans (if_pos rfl)
  rw [located_judged, hw, hgone]
  rcases removeDie_jobsOrOff (k := k.val) (cause := 0) (dieIn_of_sideDies hside) how hpw with ⟨hon, hsame⟩ | ⟨hoff, hnone⟩
  · obtain ⟨hrel, hfind⟩ := findJob_releaseSubj (t := removeDie k 0 w) true (sideClass p true (.fail (some k)) s) hj hr (hsame.trans hjobs)
    rw [if_neg hon, hrel]
    refine ⟨?_, ?_⟩
    · rw [dieIn_congr (regGet_raise ..), dieIn_congr (releaseResult_regs (by grind) (by grind) ..), hdie]
    · rw [findJob_congr (raise_jobs ..), hfind]
  · rw [if_pos hoff]
    exact ⟨hdie, by rw [findJob, hnone]; rfl⟩

theorem releaseSubj_regs {k : Nat} (hk : k ∉ endKeys) (hstale : ∀ i, k ≠ K.OUT_STALE_count i) (a : Nat) (simplex : Bool) (cls : Nat) (s : State) :
    regGet (releaseSubj (.job a) simplex cls s) k = regGet s k := by
  unfold releaseSubj
  dsimp only
  split
  · split
    · exact releaseResult_regs hk hstale ..
    · rfl
  · rfl

/-- The withdrawal that a verdict asks for of a cluster of side B (R330). -/
theorem located_cluster {p : Nat} {k : Fin 4} {c : Fin 24} (a : Nat) (hp : p < 2) (hk : k.val ∈ sideDies s true) :
    clusterIn (located (.job a) p true (.fail none [(k, c)]) s) k c = false := by
  obtain ⟨w, hw⟩ : ∃ w, judged (.job a) p true (.fail none [(k, c)]) s = w := ⟨_, rfl⟩
  have hside : k.val ∈ sideDies w true := by rw [← hw, judged_sideDies]; exact hk
  have hfailed : failedClusters w p true (.fail none [(k, c)]) = [(k.val, c.val)] := by
    rw [failedClusters, if_pos hp, List.filter_singleton, List.contains_iff_mem.2 hside]
    rfl
  have hgone : withdraw w p true (.fail none [(k, c)]) = withdrawCluster k c w := by
    rw [withdraw_engineless hp, hfailed]
    rfl
  have hcl : clusterIn (withdrawCluster k c w) k c = false := withdrawCluster_clusterIn c.isLt w
  rw [located_judged, hw, hgone]
  generalize withdrawCluster k c w = v at hcl
  split
  · exact hcl
  · refine List.any_eq_false.2 fun i hi => ?_
    have hlt := List.mem_range.1 hi
    rw [arrayIn_congr ((regGet_raise ..).trans (releaseSubj_regs (by grind) (by grind) ..))]
    exact List.any_eq_false.1 hcl i hi

/-! A transient, and two sides that fail -/

theorem dropSubj_job {a : Nat} {j : Job} {r : JobResult} (hj : findJob s a = some j) (hr : j.held = some r) :
    dropSubj (.job a) s = dropResult j r ⟨0x23, frameNo s⟩ s := by
  unfold dropSubj
  dsimp only
  rw [hj]
  dsimp only
  rw [hr]

/-- The state of a transient before its result is dropped: one more, with its pair and frame. -/
abbrev oneMoreTransient (p : Nat) (s : State) : State :=
  regInc K.DPX_TRANSIENT_count { s with dpx := { s.dpx with transients := s.dpx.transients ++ [(p, frameNo s)] } }

theorem transient_job {a p : Nat} {j : Job} {r : JobResult} (hj : findJob s a = some j) (hr : j.held = some r) :
    findJob (transient (.job a) p s) a = none ∧ (transient (.job a) p s).dpx.transients = s.dpx.transients ++ [(p, frameNo s)] ∧
    regGet (transient (.job a) p s) K.DPX_TRANSIENT_count = satInc max32 (regGet s K.DPX_TRANSIENT_count) := by
  obtain ⟨f, hdrop⟩ : ∃ f, dropSubj (.job a) (oneMoreTransient p s) = dropResult j r f (oneMoreTransient p s) := ⟨_, dropSubj_job hj hr⟩
  have ht : transient (.job a) p s = raiseFault .manager (verdictEv (oneMoreTransient p s) 1 p 0) (dropResult j r f (oneMoreTransient p s)) :=
    congrArg (raiseFault .manager _) hdrop
  rw [ht]
  refine ⟨?_, ?_, ?_⟩
  · rw [findJob_congr (raiseFault_jobs ..), ← findJob_acc hj, findJob_dropResult]
  · rw [raiseFault_dpx, (dropResult_ending ..).dpx]
    rfl
  · rw [regGet_congr (raiseFault_reg ..), (recordFault_regs ..).2 _ (by grind), (dropResult_closing ..).regs _ (by grind)]
    exact regGet_regInc_self ..

/-- Both sides of a die pair fail with no element to remove: the result is dropped (R331). -/
theorem bothFail_job {a p : Nat} {j : Job} {r : JobResult} (hj : findJob s a = some j) (hr : j.held = some r) (hp : p < 2) (ho : s.op ≠ .safeOff) (hpow : powered s = true) :
    let u := dropResult j r ⟨0x23, frameNo s⟩ s
    (diesDuplex s = true → bothFail (.job a) p (.fail none) (.fail none) s = raiseFault .manager (verdictEv u 3 p 3) u) ∧
    (diesDuplex s = false → (bothFail (.job a) p (.fail none) (.fail none) s).op = .safeOff) := by
  intro u
  have hu : Ending s u := dropResult_ending ..
  have hsides (t : State) (hd : t.dpx = u.dpx) (ha : t.active = u.active) (hr : regGet t K.ID_DIES_in_service = regGet u K.ID_DIES_in_service) : diesDuplex t = diesDuplex s := by
    have hc : Closing s u := dropResult_closing ..
    exact diesDuplex_congr fun b => sideDies_congr (hd.trans hu.dpx) (ha.trans hc.active) (hr.trans (hc.regs _ (by grind))) b
  have hgone (t : State) : duplexGone t p = !diesDuplex t := if_pos hp
  unfold bothFail
  dsimp only
  rw [dropSubj_job hj hr, withdraw_none hp, withdraw_none hp, withdraw_none hp, withdraw_none hp]
  refine ⟨fun hdup => ?_, fun hdup => ?_⟩
  · have h3 : diesDuplex (raiseFault .manager (verdictEv u 3 p 3) u) = true := by
      rw [hsides _ (raiseFault_dpx ..) (raiseFault_active ..), hdup]
      rw [regGet_congr (raiseFault_reg ..), (recordFault_regs ..).2 _ (by grind)]
    rw [hgone, hdup, decide_eq_false ho]
    change (if (_ && duplexGone (raiseFault .manager (verdictEv u 3 p 3) u) p) = true then _ else _) = _
    rw [hgone, h3, Bool.not_true, Bool.and_false]
    rfl
  · rw [hgone, hdup, decide_eq_false ho]
    change (if ((raise .manager (verdictEv u 4 p 3) u).op != .safeOff && duplexGone (raise .manager (verdictEv u 4 p 3) u) p) = true then
      classD 0 _ (raise .manager (verdictEv u 4 p 3) u) else _).op = _
    have h4 : diesDuplex (raise .manager (verdictEv u 4 p 3) u) = false := by
      rw [hsides _ (by simp) (by simp) (by simp), hdup]
    rw [hgone, h4, raise_op, hu.op, bne_iff_ne.2 ho]
    refine classD_op ?_
    rw [powered_congr ((raise_op ..).trans hu.op) ((raise_boot ..).trans hu.boot), hpow]

theorem verdictEv_closing (h : Closing s t) (cls p row : Nat) : verdictEv t cls p row = ⟨0x0608, cls, decide (3 ≤ cls), islNode (holder s), p, row, frameNo s⟩ := by
  have hh : holder t = holder s := by rw [holder, h.regs _ (by grind), holder]
  have hf : frameNo t = frameNo s := h.regs _ (by grind)
  rw [verdictEv, hh, hf]

theorem bothFail_tells {a p : Nat} {j : Job} {r : JobResult} (hj : findJob s a = some j) (hr : j.held = some r) (hp : p < 2) (ho : s.op ≠ .safeOff)
    (hpow : powered s = true) (hdup : diesDuplex s = true) : bothFail (.job a) p (.fail none) (.fail none) s =
      raise .manager ⟨0x0608, 3, true, islNode (holder s), p, 3, frameNo s⟩ (recordFault 3 (islNode (holder s)) (dropResult j r ⟨0x23, frameNo s⟩ s)) := by
  rw [(bothFail_job hj hr hp ho hpow).1 hdup, verdictEv_closing (dropResult_closing ..)]
  rfl

/-! The statement -/

theorem duplexVerdict_exec {x : DupSubject} {a b : SideVerdict} (hp : powered s = true) (hr : islRuns s (holder s) = true) (hg : gates s (holder s) = false) :
    exec (.duplexVerdict x a b) s = .next (verdict x a b s) := congrArg Host.Outcome.next (decideNow_acts hp hr hg)

theorem verdict_waits {x : DupSubject} {da db : Option (List Byte)} (h : digests s x = some (da, db, true)) {a b : SideVerdict}
    (hw : (unready s x false (shown s x false a) || unready s x true (shown s x true b)) = true) : verdict x a b s = s := by
  unfold verdict
  rw [h]
  exact if_pos hw

/-- A side that is said to pass and has shown a failure fails. -/
theorem verdict_shown {x : DupSubject} (h : shown s x true .pass = .fail none) (a : SideVerdict) : verdict x a .pass s = verdict x a (.fail none) s := by
  unfold verdict
  rw [h, shown_fail]

/-- Settles O46: what decides by `verdict_decides`; a failed side by `located_plain`, `located_die` and `located_cluster`, both by `bothFail_job`. -/
theorem duplexVerdicts : Obligations.DuplexVerdicts := by
  unfold Obligations.DuplexVerdicts
  intro a s j r d p ended v hpow hruns ho hj hph hheld hdis
  have hdig : digests s (.job a) = some (d.digA, d.digB, true) := digests_disputed hj hph hheld hdis
  have hje : findJob ended a = some j := hj
  refine ⟨fun hg hnew => ?_, fun hg => ?_⟩
  · exact congrArg Host.Outcome.next ((decideNow_waits hpow hruns hg).trans (gate_new hnew))
  have hv (x y : SideVerdict) : v x y = .next (verdict (.job a) x y s) := duplexVerdict_exec hpow hruns hg
  refine ⟨fun x hx => ⟨fun hA htodo => ?_, fun htodo hA hB => ?_⟩, fun hnone => ?_⟩
  · have hready : unready s (.job a) false .pass = true := by
      unfold unready
      rw [hx]
      exact htodo
    have hshown : shown s (.job a) false .pass = .pass := by
      unfold shown
      rw [hx]
      dsimp only
      rw [if_neg Bool.false_ne_true, hA]
      rfl
    rw [hv, verdict_waits hdig (by rw [hshown, hready]; rfl)]
  · have hshown : shown s (.job a) true .pass = .fail none := by
      unfold shown
      rw [hx]
      dsimp only
      rw [if_pos rfl, hB]
      rfl
    rw [hv, hv, verdict_shown hshown .pass]
  have hpass (b : Bool) (w : SideVerdict) : shown s (.job a) b w = w := shown_pass (fun z hz => ⟨(hnone z hz).1, (hnone z hz).2.1⟩) b w
  have hready (b : Bool) (w : SideVerdict) : unready s (.job a) b w = false := by
    refine unready_done (fun z hz => ?_) w
    obtain ⟨-, -, htA, htB⟩ := hnone z hz
    cases b
    · exact htA
    · exact htB
  have hdec (x y : SideVerdict) := verdict_decides (a := x) (b := y) hdig (hready ..) (hready ..)
  simp only [hpass] at hdec
  refine ⟨fun hsome heq => ?_, fun hne => ?_, fun hp => ?_, fun hp => ?_, fun k hp hk => ?_, fun k c hp hk => ?_, fun hp hdup => ?_, fun hp hdup => ?_⟩
  · have hsame : (d.digA.isSome && d.digA == d.digB) = true := by
      rw [hsome, Bool.true_and]
      exact beq_iff_eq.2 heq
    rw [hv, hdec]
    refine congrArg Host.Outcome.next ((if_pos hsame).trans ?_)
    exact releaseSubj_job false 0 hje hheld
  · have hdiff : ¬ (d.digA.isSome && d.digA == d.digB) = true := by
      rw [Bool.and_eq_true_iff, beq_iff_eq]
      rintro ⟨hs, heq⟩
      rcases hne with hnil | hne
      · rw [hnil] at hs
        exact absurd hs (by decide)
      · exact hne heq
    refine ⟨_, hv _ _, ?_⟩
    rw [hdec]
    change findJob (if _ then _ else transient (.job a) p ended) a = none ∧ _
    rw [if_neg hdiff]
    exact transient_job hje hheld
  · refine ⟨_, hv _ _, _, (hdec _ _).trans (located_plain true hje hheld hp ho), ?_⟩
    obtain ⟨w, hw, hj⟩ := judged_b a hp ended
    exact ⟨w, hw, congrArg (releaseResult j r true 1) hj⟩
  · exact ⟨_, hv _ _, _, (hdec _ _).trans (located_plain false hje hheld hp ho), _, judged_a a hp ended, rfl⟩
  · refine ⟨_, hv _ _, ?_⟩
    rw [hdec]
    exact located_die hje hheld hp ho hpow hk
  · refine ⟨_, hv _ _, ?_⟩
    rw [hdec]
    exact located_cluster a hp hk
  · exact ⟨_, hv _ _, _, (hdec _ _).trans (bothFail_tells hje hheld hp ho hpow hdup), rfl⟩
  · refine ⟨_, hv _ _, ?_⟩
    rw [hdec]
    exact (bothFail_job hje hheld hp ho hpow).2 hdup

end Sys2Proof.Machine
end

section
/-! PROOFS. The safety islands: their records and states, class D where both fail, the halt of a pair (R316, R319, R320). -/

namespace Sys2Proof.Machine

variable {s t u : State}

/-! The record of an island -/

@[simp] theorem islOf_modIsl_self (i : Isl) (f : Island → Island) (s : State) : islOf (modIsl i f s) i = f (islOf s i) := by cases i <;> rfl

@[simp] theorem islOf_modIsl_other (i : Isl) (f : Island → Island) (s : State) : islOf (modIsl i f s) (otherIsl i) = islOf s (otherIsl i) := by cases i <;> rfl

theorem modIsl_gated (i : Isl) (f : Island → Island) (s : State) : (modIsl i f s).isl.gated = s.isl.gated := by cases i <;> rfl

theorem modIsl_duty (i : Isl) (f : Island → Island) (s : State) : (modIsl i f s).isl.duty = s.isl.duty := by cases i <;> rfl

theorem modIsl_report (i : Isl) (f : Island → Island) (s : State) : (modIsl i f s).isl.report = s.isl.report := by cases i <;> rfl

theorem islOf_congr (h : t.isl = s.isl) (i : Isl) : islOf t i = islOf s i := by cases i <;> simp only [islOf, h]

/-! The state of an island -/

theorem islState_modIsl (i j : Isl) (f : Island → Island) (s : State) : islState (modIsl i f s) j = islState s j := regGet_congr (modIsl_reg ..) _

/-- The registers that the state of an island stands in. -/
abbrev stateKeys (i : Isl) : List Nat := [islKey i, K.ID_DIES_sia_ok, K.ID_DIES_sib_ok]

theorem setIsl_kept (i : Isl) (v : Nat) (s : State) : RegsKept (stateKeys i) s (setIsl i v s) := by
  cases i <;> exact kept_set (by simp) (kept_set (by simp) (kept_refl _ s))

@[simp] theorem islState_setIsl_self (i : Isl) (v : Nat) (s : State) : islState (setIsl i v s) i = v := by
  cases i <;> exact (regGet_regSet_ne _ _ (by grind [islKey])).trans (regGet_regSet_self ..)

@[simp] theorem islState_setIsl_other (i : Isl) (v : Nat) (s : State) : islState (setIsl i v s) (otherIsl i) = islState s (otherIsl i) := by
  cases i <;> exact (regGet_regSet_ne _ _ (by grind [islKey, otherIsl])).trans (regGet_regSet_ne _ _ (by grind [islKey, otherIsl]))

theorem islOf_setIsl (i j : Isl) (v : Nat) (s : State) : islOf (setIsl i v s) j = islOf s j := islOf_congr rfl j

theorem islState_raise (d : EvDest) (e : Ev) (s : State) (i : Isl) : islState (raise d e s) i = islState s i := regGet_raise ..

theorem islState_raiseFault (d : EvDest) (e : Ev) (s : State) (i : Isl) : islState (raiseFault d e s) i = islState s i := by
  rw [islState, regGet_congr (raiseFault_reg ..)]
  cases i <;> exact (recordFault_regs ..).2 _ (by grind [islKey])

theorem islRuns_congr {i : Isl} (hs : islState t i = islState s i) (h : islOf t i = islOf s i) : islRuns t i = islRuns s i := by
  rw [islRuns, h, hs, islRuns]

theorem islLocked_congr {i : Isl} (hs : islState t i = islState s i) (h : islOf t i = islOf s i) : islLocked t i = islLocked s i := by
  rw [islLocked, h, hs, islLocked]

theorem gates_congr {i : Isl} (ha : t.active = s.active) (hs : islState t i = islState s i) (h : islOf t i = islOf s i) : gates t i = gates s i := by
  rw [gates, cmpMode, actGet_congr ha, islLocked_congr hs h, gates, cmpMode]

theorem islLocked_state {i : Isl} (h : islLocked s i = true) : islState s i = 0 := by
  unfold islLocked at h
  simp only [Bool.and_eq_true, beq_iff_eq] at h
  exact h.1.1

theorem islLocked_stopped {i : Isl} (h : islLocked s i = true) : (islOf s i).stopped = false := by
  unfold islLocked at h
  simp only [Bool.and_eq_true, Bool.not_eq_true'] at h
  exact h.1.2

theorem islLocked_runs {i : Isl} (h : islLocked s i = true) : islRuns s i = true := by
  unfold islLocked at h
  simp only [Bool.and_eq_true, beq_iff_eq, Bool.not_eq_true'] at h
  obtain ⟨⟨hstate, hstopped⟩, hlost⟩ := h
  rw [islRuns, hstate, hstopped, hlost]
  rfl

theorem gates_locked {i : Isl} (h : gates s i = true) : islLocked s i = true := (Bool.and_eq_true_iff.1 h).2

theorem islRuns_of_state {i : Isl} (h : islState s i = 2) : islRuns s i = false := by
  rw [islRuns, h]
  simp

/-! Decisions gated -/

theorem gate_mem (i : Isl) (d : Decision) (s : State) : (i, d) ∈ (gate i d s).isl.gated := by
  unfold gate
  split
  · exact List.contains_iff_mem.1 ‹_›
  · exact List.mem_append_right _ (List.mem_singleton.2 rfl)

/-! Both islands fail -/

/-- What an island's record and the gated decisions are after an entry to SAFE_OFF: the records as they were, no decision new. -/
structure IslandsKept (s t : State) : Prop where
  parts : ∃ gated report, t.isl = { s.isl with gated := gated, report := report } ∧ ∀ x ∈ gated, x ∈ s.isl.gated
  regs : RegsKept classDKeys s t

theorem IslandsKept.refl (s : State) : IslandsKept s s := ⟨⟨_, _, rfl, fun _ h => h⟩, kept_refl _ s⟩

theorem IslandsKept.islOf (h : IslandsKept s t) (i : Isl) : islOf t i = islOf s i := by
  obtain ⟨gated, report, hisl, -⟩ := h.parts
  cases i <;> simp only [Machine.islOf, hisl]

theorem IslandsKept.islState (h : IslandsKept s t) (i : Isl) : islState t i = islState s i := by
  cases i <;> exact h.regs _ (by grind [islKey])

theorem IslandsKept.duty (h : IslandsKept s t) : t.isl.duty = s.isl.duty := by
  obtain ⟨gated, report, hisl, -⟩ := h.parts
  rw [hisl]

theorem IslandsKept.gated (h : IslandsKept s t) : ∀ x ∈ t.isl.gated, x ∈ s.isl.gated := by
  obtain ⟨gated, report, hisl, hsub⟩ := h.parts
  rw [hisl]
  exact hsub

theorem safeOffFor_gated (cause : Nat) (s : State) : ∀ x ∈ (safeOffFor cause s).isl.gated, x ∈ s.isl.gated := by
  unfold safeOffFor
  split
  · exact fun _ h => h
  · exact fun x h => absurd h List.not_mem_nil

theorem safeOffFor_islandsKept (cause : Nat) (s : State) : IslandsKept s (safeOffFor cause s) := by
  have h := safeOffFor_offed cause s
  refine ⟨⟨_, s.isl.report, h.isl, safeOffFor_gated cause s⟩, fun k hk => h.regs k fun hm => hk (List.mem_append_left _ hm)⟩

theorem classD_islandsKept (cause src : Nat) (s : State) : IslandsKept s (classD cause src s) := by
  refine ⟨?_, classD_kept (fun _ h => h) (kept_refl _ s)⟩
  unfold classD
  split
  · obtain ⟨gated, report, hisl, hsub⟩ := (safeOffFor_islandsKept cause s).parts
    exact ⟨gated, report, by rw [safeState, raiseFault_isl, hisl], hsub⟩
  · exact (IslandsKept.refl s).parts

theorem islandsFail_cases (s : State) : (∃ src, islandsFail s = classD 1 src s) ∨
    (powered s = true ∧ islandsFail s = { safeOffFor 1 s with isl := { (safeOffFor 1 s).isl with report := true } }) ∨ (powered s = false ∧ islandsFail s = s) := by
  unfold islandsFail
  split
  · exact .inl ⟨_, rfl⟩
  · split
    · exact .inl ⟨_, rfl⟩
    · split
      · cases hp : powered s
        · exact .inr (.inr ⟨rfl, rfl⟩)
        · exact .inr (.inl ⟨rfl, rfl⟩)
      · exact .inl ⟨_, rfl⟩

theorem islandsFail_kept (s : State) : IslandsKept s (islandsFail s) := by
  rcases islandsFail_cases s with ⟨src, h⟩ | ⟨-, h⟩ | ⟨-, h⟩
  · rw [h]
    exact classD_islandsKept ..
  · obtain ⟨⟨gated, report, hisl, hsub⟩, hregs⟩ := safeOffFor_islandsKept 1 s
    rw [h]
    exact ⟨⟨gated, true, by rw [hisl], hsub⟩, hregs⟩
  · rw [h]
    exact .refl s

theorem islandsFail_op (h : powered s = true) : (islandsFail s).op = .safeOff := by
  rcases islandsFail_cases s with ⟨src, hf⟩ | ⟨-, hf⟩ | ⟨hp, -⟩
  · rw [hf, classD_op h]
  · rw [hf]
    exact (safeOffFor_offed 1 s).op
  · rw [h] at hp
    exact absurd hp (by decide)

theorem islandsFail_countC (s : State) : regGet (islandsFail s) K.FAULT_COUNT_c = regGet s K.FAULT_COUNT_c := by
  rcases islandsFail_cases s with ⟨src, h⟩ | ⟨-, h⟩ | ⟨-, h⟩
  · rw [h, classD_countC]
  · rw [h]
    exact (safeOffFor_offed 1 s).regs _ (by grind)
  · rw [h]

/-- Where the only hope of a working core is a self-test that runs, the report waits for its verdict (R320). -/
theorem islandsFail_waits (hp : powered s = true) (ha : islRuns s .a = false) (hb : islRuns s .b = false) {i : Isl} (h : selfTesting s i = true) :
    (islandsFail s).isl.report = true := by
  have htest : (selfTesting s .a || selfTesting s .b) = true := by
    cases i
    · rw [h, Bool.true_or]
    · rw [h, Bool.or_true]
  unfold islandsFail
  rw [ha, hb, if_neg Bool.false_ne_true, if_neg Bool.false_ne_true, if_pos htest, if_pos hp]

/-! The halt of a pair -/

/-- A pair halted, told to no one yet: its state, its notice, nothing of it gated (R319). -/
def halted (i : Isl) (s : State) : State :=
  modIsl i (fun x => { x with notice := true, dbgHalt := false, core := [], checker := [] }) (setIsl i 2
    { s with isl := { s.isl with gated := s.isl.gated.filter fun x => x.1 != i } })

theorem halted_self (i : Isl) (s : State) : islOf (halted i s) i = { islOf s i with notice := true, dbgHalt := false, core := [], checker := [] } := by
  rw [halted, islOf_modIsl_self, islOf_setIsl]
  cases i <;> rfl

theorem halted_other (i : Isl) (s : State) : islOf (halted i s) (otherIsl i) = islOf s (otherIsl i) := by
  rw [halted, islOf_modIsl_other, islOf_setIsl]
  cases i <;> rfl

theorem halted_state (i : Isl) (s : State) : islState (halted i s) i = 2 := by
  rw [halted, islState_modIsl, islState_setIsl_self]

theorem halted_state_other (i : Isl) (s : State) : islState (halted i s) (otherIsl i) = islState s (otherIsl i) := by
  rw [halted, islState_modIsl, islState_setIsl_other]
  rfl

theorem halted_gated (i : Isl) (s : State) : (halted i s).isl.gated = s.isl.gated.filter fun x => x.1 != i := by
  rw [halted, modIsl_gated]
  rfl

theorem halted_frame (i : Isl) (s : State) : halted i s = { s with reg := (halted i s).reg, isl := (halted i s).isl } := by cases i <;> rfl

theorem halted_kept (i : Isl) (s : State) : RegsKept (stateKeys i) s (halted i s) :=
  kept_reg (t := setIsl i 2 { s with isl := { s.isl with gated := s.isl.gated.filter fun x => x.1 != i } }) (modIsl_reg ..) (setIsl_kept i 2 { s with isl := { s.isl with gated := s.isl.gated.filter fun x => x.1 != i } })

/-- A halt told to the manager (R319). -/
def haltTold (i : Isl) (cycles : Nat) (s : State) : State := raise .manager ⟨0x0601, 0, true, islNode i, islNum i, actGet s K.ISL_CMP_mode, cycles⟩ (halted i s)

theorem haltIsl_told (i : Isl) (cycles : Nat) (s : State) : haltIsl i cycles s =
    if (!islRuns s (otherIsl i) || (holdsDuty s i && islState s (otherIsl i) != 0)) = true then islandsFail (haltTold i cycles s) else haltTold i cycles s := by
  have hact : actGet (halted i s) K.ISL_CMP_mode = actGet s K.ISL_CMP_mode := by cases i <;> rfl
  have hfold : haltIsl i cycles s = if (!islRuns (raise .manager ⟨0x0601, 0, true, islNode i, islNum i, actGet (halted i s) K.ISL_CMP_mode, cycles⟩ (halted i s)) (otherIsl i) ||
      (holdsDuty s i && islState (raise .manager ⟨0x0601, 0, true, islNode i, islNum i, actGet (halted i s) K.ISL_CMP_mode, cycles⟩ (halted i s)) (otherIsl i) != 0)) = true
      then islandsFail (raise .manager ⟨0x0601, 0, true, islNode i, islNum i, actGet (halted i s) K.ISL_CMP_mode, cycles⟩ (halted i s))
      else raise .manager ⟨0x0601, 0, true, islNode i, islNum i, actGet (halted i s) K.ISL_CMP_mode, cycles⟩ (halted i s) := rfl
  have hstate : islState (haltTold i cycles s) (otherIsl i) = islState s (otherIsl i) := (islState_raise ..).trans (halted_state_other i s)
  have hof : islOf (haltTold i cycles s) (otherIsl i) = islOf s (otherIsl i) := (islOf_congr (raise_isl ..) _).trans (halted_other i s)
  rw [hfold, hact]
  change (if (!islRuns (haltTold i cycles s) (otherIsl i) || (holdsDuty s i && islState (haltTold i cycles s) (otherIsl i) != 0)) = true then _ else _) = _
  rw [islRuns_congr hstate hof, hstate]
  rfl

theorem haltTold_powered (i : Isl) (cycles : Nat) (s : State) : powered (haltTold i cycles s) = powered s := by
  have h : powered (haltTold i cycles s) = powered (halted i s) := powered_congr (raise_op ..) (raise_boot ..)
  rw [h, halted_frame]
  rfl

/-- A pair that halts: its state, its notice, nothing of it gated; whether or not class D follows. -/
theorem haltIsl_parts (i : Isl) (cycles : Nat) (s : State) :
    islState (haltIsl i cycles s) i = 2 ∧ islOf (haltIsl i cycles s) i = { islOf s i with notice := true, dbgHalt := false, core := [], checker := [] } ∧
    ∀ x ∈ (haltIsl i cycles s).isl.gated, x.1 ≠ i := by
  have htold : islState (haltTold i cycles s) i = 2 ∧ islOf (haltTold i cycles s) i = { islOf s i with notice := true, dbgHalt := false, core := [], checker := [] } ∧
      ∀ x ∈ (haltTold i cycles s).isl.gated, x.1 ≠ i := by
    refine ⟨(islState_raise ..).trans (halted_state i s), (islOf_congr (raise_isl ..) _).trans (halted_self i s), fun x hx => ?_⟩
    rw [haltTold, raise_isl, halted_gated] at hx
    exact bne_iff_ne.1 (List.mem_filter.1 hx).2
  rw [haltIsl_told]
  split
  · have hk := islandsFail_kept (haltTold i cycles s)
    obtain ⟨hstate, hof, hgated⟩ := htold
    exact ⟨(hk.islState i).trans hstate, (hk.islOf i).trans hof, fun x hx => hgated x (hk.gated x hx)⟩
  · exact htold

theorem mismatch_halts {i : Isl} {cycles : Nat} (hp : powered s = true) (hl : islLocked s i = true) : mismatch i cycles s = haltIsl i cycles s :=
  if_pos (by rw [hp, hl]; rfl)

end Sys2Proof.Machine
end

section
/-! PROOFS. Splits of pairs, extended tests, signature windows (R146, R318, R319, R332). -/

namespace Sys2Proof.Machine

variable {s t u : State}

/-! Splits -/

theorem splitPair_due {p : Nat} (hr : running s = true) (ho : s.op ≠ .limp) (ht : inTest s p = false) (hn : 3 ≤ recentTransients s p) : splitPair p s =
    raise .manager ⟨0x060A, 0, true, islNode (holder s), p, 0, 0⟩ { s with dpx := { s.dpx with splitNext := s.dpx.splitNext ++ [p] } } := by
  refine if_neg ?_
  rw [hr, ht, decide_eq_false (by omega), beq_eq_false_iff_ne.2 ho]
  decide

theorem splitPair_stays {p : Nat} (h : running s = false ∨ s.op = .limp ∨ inTest s p = true ∨ recentTransients s p < 3) : splitPair p s = s := by
  refine if_pos ?_
  rcases h with h | h | h | h
  · rw [h, Bool.not_false, Bool.or_true]
  · rw [beq_iff_eq.2 h, Bool.or_true, Bool.true_or]
  · rw [h, Bool.or_true, Bool.true_or, Bool.true_or]
  · rw [decide_eq_true h, Bool.true_or, Bool.true_or, Bool.true_or]

/-! Extended tests -/

/-- The arrays of a die that has passed its test, marked as rehearsed (R146). -/
def markedAs (l : List Nat) (d : Nat) (s : State) : State := l.foldl (fun s w => regSet (K.REH_DONE_arrays d w) (regGet s (K.SERVICE_arrays d w)) s) s

theorem markedAs_frame (l : List Nat) (d : Nat) (s : State) : ∃ reg, markedAs l d s = { s with reg := reg } := by
  induction l generalizing s with
  | nil => exact ⟨s.reg, rfl⟩
  | cons w l ih =>
    obtain ⟨reg, h⟩ := ih (regSet (K.REH_DONE_arrays d w) (regGet s (K.SERVICE_arrays d w)) s)
    exact ⟨reg, h⟩

theorem markedAs_kept (l : List Nat) (d : Nat) (s : State) : RegsKept (l.map (K.REH_DONE_arrays d)) s (markedAs l d s) := by
  induction l generalizing s with
  | nil => exact kept_refl _ s
  | cons w l ih =>
    intro k hk
    rw [List.map_cons, List.mem_cons, not_or] at hk
    obtain ⟨hne, hk⟩ := hk
    exact (ih _ k hk).trans (regGet_regSet_ne _ _ hne)

theorem rehDone_ne (d : Nat) {w x : Nat} (h : w ≠ x) : K.REH_DONE_arrays d w ≠ K.REH_DONE_arrays d x := by
  unfold K.REH_DONE_arrays fieldKey
  omega

theorem service_ne_rehDone (d : Nat) {w x : Nat} (h : x < w + 8) : K.SERVICE_arrays d w ≠ K.REH_DONE_arrays d x := by
  unfold K.SERVICE_arrays K.REH_DONE_arrays fieldKey
  omega

theorem markedAs_marks (d w : Nat) (l : List Nat) (hl : ∀ x ∈ l, x < 6) (s : State) :
    regGet (markedAs l d s) (K.REH_DONE_arrays d w) = if w ∈ l then regGet s (K.SERVICE_arrays d w) else regGet s (K.REH_DONE_arrays d w) := by
  induction l generalizing s with
  | nil => rfl
  | cons x l ih =>
    have hx := hl x List.mem_cons_self
    refine (ih (fun y hy => hl y (List.mem_cons_of_mem _ hy)) _).trans ?_
    have hserv (v : Nat) : regGet (regSet (K.REH_DONE_arrays d x) v s) (K.SERVICE_arrays d w) = regGet s (K.SERVICE_arrays d w) :=
      regGet_regSet_ne _ _ (service_ne_rehDone d (by omega))
    dsimp only
    rw [hserv]
    by_cases hwx : w = x
    · subst hwx
      rw [regGet_regSet_self, ite_self, if_pos List.mem_cons_self]
    · rw [regGet_regSet_ne _ _ (rehDone_ne d hwx)]
      simp only [List.mem_cons, hwx, false_or]

theorem elNum_die (k : Fin 4) : elNum (.die k) = k.val := rfl
theorem elNum_engine (e : Fin 4) : elNum (.engine e) = 4 + e.val := rfl

/-- A test passed: the element rejoins at the next frame start. -/
abbrev rejoining (el : Nat) (s : State) : State := { s with dpx := { s.dpx with rejoin := s.dpx.rejoin ++ [el] } }

theorem testDone_passed {el : Nat} (ht : s.dpx.testing.contains el = true) (hr : s.dpx.rejoin.contains el = false) :
    testDone el true s = if el < 4 then markedAs (List.range 6) el (rejoining el s) else rejoining el s := by
  unfold testDone
  rw [if_neg (by rw [ht, hr]; decide), if_pos rfl]
  rfl

/-- A failed element that still serves: no other of its pair waits for a test. -/
abbrev untested (p : Nat) (s : State) : State := { s with dpx := { s.dpx with testNext := s.dpx.testNext.filter fun e => pairOf s e != p } }

/-- A die that its test has failed is not reset. -/
abbrev resetBarred (k : Nat) (s : State) : State := { s with boot := { s.boot with noReset := s.boot.noReset ++ [k] } }

theorem testDone_failed {el : Nat} (ht : s.dpx.testing.contains el = true) (hr : s.dpx.rejoin.contains el = false) :
    testDone el false s = raise .manager ⟨0x060A, 0, true, islNode (holder s), pairOf s el, 2, 0⟩
      (if el < 4 then removeDie el 1 (resetBarred el (untested (pairOf s el) s)) else removeEngine (el - 4) 1 (untested (pairOf s el) s)) := by
  unfold testDone
  rw [if_neg (by rw [ht, hr]; decide), if_neg Bool.false_ne_true]

/-- A die that is removed is out of service. -/
theorem removeDie_out {k cause : Nat} (ho : s.op ≠ .safeOff) (hp : powered s = true) : dieIn (removeDie k cause s) k = false := by
  cases hd : dieIn s k
  · rw [removeDie_gone hd, hd]
  · exact ((removeDie_parts hd ho hp).1 k).trans (if_pos rfl)

theorem removeEngine_out {e cause : Nat} (ho : s.op ≠ .safeOff) (hp : powered s = true) : engineIn (removeEngine e cause s) e = false := by
  cases he : engineIn s e
  · have hsame : removeEngine e cause s = s := if_pos (by rw [he]; rfl)
    rw [hsame, he]
  · obtain ⟨hout, -⟩ := removeEngine_parts (cause := cause) he ho hp
    rw [engineIn, hout, List.contains_iff_mem.2 (List.mem_append_right _ (List.mem_singleton.2 rfl))]
    rfl

/-! The statement -/

theorem duplexSplit_exec (p : Fin 4) (s : State) : exec (.duplexSplit p) s = .next (decideNow (.split p.val) s) := rfl
theorem extendedTestDone_exec (x : DupElement) (b : Bool) (s : State) : exec (.extendedTestDone x b) s = .next (decideNow (.tested (elNum x) b) s) := rfl

/-- Settles O47: `decideNow_waits` before a window, then `splitPair_due`, `testDone_passed`, `testDone_failed` and `haltIsl_parts`. -/
theorem splitsAndTests : Obligations.SplitsAndTests := by
  unfold Obligations.SplitsAndTests
  refine ⟨fun p x b s hp hr hg => ⟨?_, ?_⟩, fun p s hp hr hg => ⟨fun hrun ho ht hn => ?_, fun h => ?_⟩, fun x s hp hr hg ht hrej => ⟨?_, fun ho => ?_⟩,
    fun i cyc s hp hl hmode => ⟨?_, ?_⟩⟩
  · rw [duplexSplit_exec, decideNow_waits hp hr hg]
  · rw [extendedTestDone_exec, decideNow_waits hp hr hg]
  · exact ⟨_, congrArg Host.Outcome.next (decideNow_acts hp hr hg), _, splitPair_due hrun ho ht hn, rfl⟩
  · rw [duplexSplit_exec, decideNow_acts hp hr hg]
    exact congrArg Host.Outcome.next (splitPair_stays h)
  · refine ⟨_, congrArg Host.Outcome.next ((decideNow_acts hp hr hg).trans (testDone_passed ht hrej)), ?_⟩
    cases x with
    | die k =>
      have hk : elNum (.die k) < 4 := k.isLt
      rw [if_pos hk, elNum_die]
      refine ⟨?_, fun w hw => ?_, ?_⟩
      · obtain ⟨reg, h⟩ := markedAs_frame (List.range 6) k (rejoining k s)
        rw [h]
      · rw [markedAs_marks k w _ (fun x hx => List.mem_range.1 hx), if_pos (List.mem_range.2 hw)]
        rfl
      · exact markedAs_kept (List.range 6) k (rejoining k s)
    | engine e =>
      rw [if_neg (by rw [elNum_engine]; omega)]
      exact ⟨rfl, rfl⟩
  · refine ⟨_, congrArg Host.Outcome.next ((decideNow_acts hp hr hg).trans (testDone_failed ht hrej)), _, rfl, ?_⟩
    cases x with
    | die k =>
      have hk : elNum (.die k) < 4 := k.isLt
      rw [if_pos hk]
      exact removeDie_out (s := resetBarred k (untested (pairOf s k) s)) ho hp
    | engine e =>
      rw [if_neg (by rw [elNum_engine]; omega), elNum_engine, Nat.add_sub_cancel_left]
      exact removeEngine_out (s := untested (pairOf s (4 + e)) s) ho hp
  · refine congrArg Host.Outcome.next ((if_neg ?_).trans (if_neg (by decide)))
    rw [hp, hl, hmode]
    decide
  · have hhalt : windowClose i false cyc.toNat s = haltIsl i cyc.toNat s := by
      refine (if_neg ?_).trans (if_pos rfl)
      rw [hp, hl, hmode]
      decide
    obtain ⟨hstate, hof, hgated⟩ := haltIsl_parts i cyc.toNat s
    exact ⟨_, congrArg Host.Outcome.next hhalt, hstate, by rw [hof], hgated⟩

end Sys2Proof.Machine
end

section
/-! PROOFS. Heartbeats, loss, mismatch and take-over of an island (R315, R316, R318 to R320). -/

namespace Sys2Proof.Machine

variable {s t u : State}

/-! Taking over -/

/-- Every duty taken, before the role message: what the other had gated is gone (R316). -/
def dutyTaken (o : Isl) (s : State) : State :=
  regSet K.ISL_STATUS_holder (islNum o) { s with isl := { s.isl with duty := some o, gated := s.isl.gated.filter fun x => x.1 == o } }

theorem takeOver_told (o : Isl) (cause : Nat) (s : State) : takeOver o cause s = raise .manager ⟨0x0604, 0, true, islNode o, islNum o, cause, 0⟩ (dutyTaken o s) := rfl

theorem dutyTaken_islOf (o i : Isl) (s : State) : islOf (dutyTaken o s) i = islOf s i := by cases i <;> rfl

theorem dutyTaken_holder (o : Isl) (s : State) : regGet (dutyTaken o s) K.ISL_STATUS_holder = islNum o := regGet_regSet_self ..

theorem dutyTaken_kept (o : Isl) (s : State) : RegsKept [K.ISL_STATUS_holder] s (dutyTaken o s) := kept_set (by simp) (kept_refl _ s)

theorem orderRole_acts {o : Isl} {cause : Nat} (h : gates s o = false) : orderRole o cause s = takeOver o cause s := if_neg (by rw [h]; exact Bool.false_ne_true)

theorem orderRole_waits {o : Isl} {cause : Nat} (h : gates s o = true) : orderRole o cause s = gate o (.role o cause) s := if_pos h

theorem gate_duty (i : Isl) (d : Decision) (s : State) : (gate i d s).isl.duty = s.isl.duty := by rw [gate_frame]

theorem gate_islOf (i j : Isl) (d : Decision) (s : State) : islOf (gate i d s) j = islOf s j := by
  rw [gate_frame]
  cases j <;> rfl

/-- What the other island's role message leaves of the islands' records and of the registers. -/
theorem orderRole_keeps (o : Isl) (cause : Nat) (s : State) : (∀ i, islOf (orderRole o cause s) i = islOf s i) ∧ RegsKept [K.ISL_STATUS_holder] s (orderRole o cause s) ∧
    (orderRole o cause s).op = s.op ∧ (orderRole o cause s).boot = s.boot := by
  cases h : gates s o
  · rw [orderRole_acts h, takeOver_told]
    refine ⟨fun i => (islOf_congr (raise_isl ..) i).trans (dutyTaken_islOf o i s), kept_raise (dutyTaken_kept o s), ?_, ?_⟩
    · rw [raise_op]
      rfl
    · rw [raise_boot]
      rfl
  · rw [orderRole_waits h]
    refine ⟨fun i => gate_islOf o i _ s, ?_, ?_, ?_⟩
    · rw [gate_frame]
      exact kept_reg rfl (kept_refl _ s)
    · rw [gate_frame]
    · rw [gate_frame]

/-! An island lost -/

/-- An island declared lost: its state but where its self-test runs, its record. -/
def isLost (i : Isl) (s : State) : State := modIsl i (fun x => { x with lost := true }) (if islState s i = 2 then s else setIsl i 4 s)

/-- The loss told, class C (R316, R338). -/
def lossTold (i : Isl) (s : State) : State := raiseFault .manager ⟨0x0605, 3, true, islNode (otherIsl i), islNum i, (islOf s i).missed, 0⟩ (isLost i s)

theorem loseIsl_told {i : Isl} (hp : powered s = true) (hr : islRuns s (otherIsl i) = true) (hl : (islOf s i).lost = false) : loseIsl i s =
    if (holdsDuty s i && islState (orderRole (otherIsl i) 1 (lossTold i s)) (otherIsl i) != 0) = true then islandsFail (orderRole (otherIsl i) 1 (lossTold i s))
    else orderRole (otherIsl i) 1 (lossTold i s) := by
  refine if_neg ?_
  rw [hp, hr, hl]
  decide

theorem isLost_frame (i : Isl) (s : State) : ∃ reg isl, isLost i s = { s with reg := reg, isl := isl } := by
  unfold isLost
  split
  · cases i <;> exact ⟨_, _, rfl⟩
  · cases i <;> exact ⟨_, _, rfl⟩

theorem isLost_kept (i : Isl) (s : State) : RegsKept (stateKeys i) s (isLost i s) := by
  unfold isLost
  refine kept_reg (t := if islState s i = 2 then s else setIsl i 4 s) (modIsl_reg ..) ?_
  split
  · exact kept_refl _ s
  · exact setIsl_kept i 4 s

theorem isLost_state (i : Isl) (s : State) : islState (isLost i s) i = if islState s i = 2 then 2 else 4 := by
  rw [isLost, islState_modIsl]
  split
  · assumption
  · exact islState_setIsl_self i 4 s

theorem isLost_state_other (i : Isl) (s : State) : islState (isLost i s) (otherIsl i) = islState s (otherIsl i) := by
  rw [isLost, islState_modIsl]
  split
  · rfl
  · exact islState_setIsl_other i 4 s

theorem isLost_isl (i : Isl) (s : State) : (isLost i s).isl = (modIsl i (fun x => { x with lost := true }) s).isl := by
  unfold isLost
  split
  · rfl
  · cases i <;> rfl

theorem lossTold_state (i j : Isl) (s : State) : islState (lossTold i s) j = islState (isLost i s) j := islState_raiseFault ..

theorem lossTold_islOf (i j : Isl) (s : State) : islOf (lossTold i s) j = islOf (modIsl i (fun x => { x with lost := true }) s) j :=
  islOf_congr ((raiseFault_isl ..).trans (isLost_isl i s)) j

theorem lossTold_duty (i : Isl) (s : State) : (lossTold i s).isl.duty = s.isl.duty := by
  have h : (lossTold i s).isl = _ := (raiseFault_isl ..).trans (isLost_isl i s)
  rw [h, modIsl_duty]

theorem lossTold_op (i : Isl) (s : State) : (lossTold i s).op = s.op := by
  obtain ⟨reg, isl, h⟩ := isLost_frame i s
  exact (raiseFault_op ..).trans (by rw [h])

theorem lossTold_powered (i : Isl) (s : State) : powered (lossTold i s) = powered s := by
  obtain ⟨reg, isl, h⟩ := isLost_frame i s
  exact powered_congr (lossTold_op i s) ((raiseFault_boot ..).trans (by rw [h]))

theorem lossTold_gates (i : Isl) (s : State) : gates (lossTold i s) (otherIsl i) = gates s (otherIsl i) := by
  obtain ⟨reg, isl, h⟩ := isLost_frame i s
  exact gates_congr ((raiseFault_active ..).trans (by rw [h])) ((lossTold_state ..).trans (isLost_state_other i s))
    ((lossTold_islOf ..).trans (islOf_modIsl_other ..))

theorem lossTold_countC (i : Isl) (s : State) : regGet (lossTold i s) K.FAULT_COUNT_c = satInc 255 (regGet s K.FAULT_COUNT_c) := by
  have hne : K.FAULT_COUNT_c ∉ stateKeys i := by cases i <;> grind [islKey]
  have h : regGet (lossTold i s) K.FAULT_COUNT_c = regGet (recordFault 3 (islNode (otherIsl i)) (isLost i s)) K.FAULT_COUNT_c := regGet_congr (raiseFault_reg ..) _
  rw [h, recordFault_c, regGet_regMod_self, regGet_regSet_ne _ _ (by grind), isLost_kept i s _ hne]

theorem islKey_ne_holder (i : Isl) : islKey i ∉ [K.ISL_STATUS_holder] := by cases i <;> grind [islKey]

/-- An island that is lost: its record, its state, the count of class C, and the other's duties (R316, R320). -/
theorem loseIsl_parts {i : Isl} (hp : powered s = true) (hr : islRuns s (otherIsl i) = true) (hl : (islOf s i).lost = false) :
    let t := loseIsl i s
    islState t i = (if islState s i = 2 then 2 else 4) ∧ (islOf t i).lost = true ∧ regGet t K.FAULT_COUNT_c = satInc 255 (regGet s K.FAULT_COUNT_c) ∧
    (gates s (otherIsl i) = true → (otherIsl i, Decision.role (otherIsl i) 1) ∈ t.isl.gated ∧ t.isl.duty = s.isl.duty) ∧
    (gates s (otherIsl i) = false → t.isl.duty = some (otherIsl i) ∧ regGet t K.ISL_STATUS_holder = islNum (otherIsl i)) ∧
    ((islState s (otherIsl i) = 0 ∨ holdsDuty s i = false) → t.op = s.op) ∧ (islState s (otherIsl i) ≠ 0 → holdsDuty s i = true → t.op = .safeOff) := by
  intro t
  have ht : t = _ := loseIsl_told hp hr hl
  obtain ⟨hof, hregs, hop, hboot⟩ := orderRole_keeps (otherIsl i) 1 (lossTold i s)
  have hother : islState (orderRole (otherIsl i) 1 (lossTold i s)) (otherIsl i) = islState s (otherIsl i) :=
    (hregs _ (islKey_ne_holder _)).trans ((lossTold_state ..).trans (isLost_state_other i s))
  have hstate : islState (orderRole (otherIsl i) 1 (lossTold i s)) i = if islState s i = 2 then 2 else 4 :=
    (hregs _ (islKey_ne_holder _)).trans ((lossTold_state ..).trans (isLost_state i s))
  have hlost : (islOf (orderRole (otherIsl i) 1 (lossTold i s)) i).lost = true := by rw [hof, lossTold_islOf, islOf_modIsl_self]
  have hcount : regGet (orderRole (otherIsl i) 1 (lossTold i s)) K.FAULT_COUNT_c = satInc 255 (regGet s K.FAULT_COUNT_c) :=
    (hregs _ (by grind)).trans (lossTold_countC i s)
  have hacts : gates s (otherIsl i) = false → (orderRole (otherIsl i) 1 (lossTold i s)).isl.duty = some (otherIsl i) ∧
      regGet (orderRole (otherIsl i) 1 (lossTold i s)) K.ISL_STATUS_holder = islNum (otherIsl i) := by
    intro hg
    rw [orderRole_acts ((lossTold_gates i s).trans hg), takeOver_told, raise_isl, regGet_raise]
    exact ⟨rfl, dutyTaken_holder ..⟩
  have hwaits : gates s (otherIsl i) = true → (otherIsl i, Decision.role (otherIsl i) 1) ∈ (orderRole (otherIsl i) 1 (lossTold i s)).isl.gated ∧
      (orderRole (otherIsl i) 1 (lossTold i s)).isl.duty = s.isl.duty := by
    intro hg
    rw [orderRole_waits ((lossTold_gates i s).trans hg)]
    exact ⟨gate_mem .., (gate_duty ..).trans (lossTold_duty i s)⟩
  rw [hother] at ht
  have hpow : powered (orderRole (otherIsl i) 1 (lossTold i s)) = true := (powered_congr hop hboot).trans ((lossTold_powered i s).trans hp)
  have hsame : (orderRole (otherIsl i) 1 (lossTold i s)).op = s.op := hop.trans (lossTold_op i s)
  clear_value t
  generalize orderRole (otherIsl i) 1 (lossTold i s) = v at *
  by_cases hfail : holdsDuty s i = true ∧ islState s (otherIsl i) ≠ 0
  · obtain ⟨hheld, hne⟩ := hfail
    rw [if_pos (by rw [hheld, bne_iff_ne.2 hne]; rfl)] at ht
    have hk := islandsFail_kept v
    rw [ht]
    refine ⟨(hk.islState i).trans hstate, (congrArg Island.lost (hk.islOf i)).trans hlost, (islandsFail_countC v).trans hcount, fun hg => ?_, fun hg => ?_, fun h => ?_,
      fun _ _ => islandsFail_op hpow⟩
    · exact absurd (islLocked_state (gates_locked hg)) hne
    · exact ⟨hk.duty.trans (hacts hg).1, (hk.regs _ (by grind)).trans (hacts hg).2⟩
    · rcases h with h | h
      · exact absurd h hne
      · rw [hheld] at h
        exact absurd h (by decide)
  · have hcond : ¬ (holdsDuty s i && islState s (otherIsl i) != 0) = true := by
      rw [Bool.and_eq_true_iff, bne_iff_ne]
      exact hfail
    rw [if_neg hcond] at ht
    rw [ht]
    exact ⟨hstate, hlost, hcount, hwaits, hacts, fun _ => hsame, fun hne hheld => absurd ⟨hheld, hne⟩ hfail⟩

/-! The statement -/

theorem otherIsl_runs_halts {i : Isl} {cycles : Nat} (hr : islRuns s (otherIsl i) = true) (h : holdsDuty s i = false ∨ islState s (otherIsl i) = 0) :
    haltIsl i cycles s = haltTold i cycles s := by
  rw [haltIsl_told, if_neg]
  rw [hr]
  rcases h with h | h
  · rw [h, Bool.false_and]
    decide
  · rw [bne_eq_false_iff_eq.2 h, Bool.and_false]
    decide

theorem halts_fails {i : Isl} {cycles : Nat} (h : islRuns s (otherIsl i) = false ∨ (islState s (otherIsl i) ≠ 0 ∧ holdsDuty s i = true)) :
    haltIsl i cycles s = islandsFail (haltTold i cycles s) := by
  rw [haltIsl_told, if_pos]
  rcases h with h | ⟨hs, hd⟩
  · rw [h]
    rfl
  · rw [hd, bne_iff_ne.2 hs, Bool.and_self, Bool.or_true]

/-- Settles O48: a loss by `loseIsl_parts`, a mismatch by the parts of `halted`, a notice by `orderRole`. -/
theorem islandTakeover : Obligations.IslandTakeover := by
  unfold Obligations.IslandTakeover
  refine ⟨fun i b s hp hr => ?_, ?_, fun i s hm => ?_, ?_, ?_⟩
  · obtain ⟨f, hf, hact⟩ : ∃ f : Island → Island, f (islOf s i) = { islOf s i with missed := if (b && islRuns s i) = true then 0 else (islOf s i).missed + 1 } ∧
        exec (.islandHeartbeat i b) s = .next (modIsl i f s) := by
      have hgo : ¬ (!powered s || !islRuns s (otherIsl i)) = true := by
        rw [hp, hr]
        decide
      by_cases hb : (b && islRuns s i) = true
      · exact ⟨fun x => { x with missed := 0 }, by rw [if_pos hb], congrArg Host.Outcome.next ((if_neg hgo).trans (if_pos hb))⟩
      · exact ⟨fun x => { x with missed := x.missed + 1 }, by rw [if_neg hb], congrArg Host.Outcome.next ((if_neg hgo).trans (if_neg hb))⟩
    refine ⟨_, hact, (islOf_modIsl_self ..).trans hf, islOf_modIsl_other .., ?_⟩
    cases i <;> rfl
  · intro i s o hp hr hl hm
    exact ⟨_, congrArg Host.Outcome.next (if_neg (by omega)), loseIsl_parts hp hr hl⟩
  · exact congrArg Host.Outcome.next (if_pos hm)
  · intro i cyc s o hp hlock
    refine ⟨fun hr h => ?_, fun hr hs hd => ?_, fun hr => ?_⟩
    · refine ⟨_, congrArg Host.Outcome.next ((mismatch_halts hp hlock).trans (otherIsl_runs_halts hr h)), halted i s, rfl, halted_state i s, halted_self i s,
        halted_other i s, halted_gated i s, halted_frame i s, halted_kept i s⟩
    · refine ⟨_, congrArg Host.Outcome.next ((mismatch_halts hp hlock).trans (halts_fails (.inr ⟨hs, hd⟩))), ?_⟩
      exact islandsFail_op ((haltTold_powered ..).trans hp)
    · refine ⟨_, congrArg Host.Outcome.next ((mismatch_halts hp hlock).trans (halts_fails (.inl hr))), islandsFail_op ((haltTold_powered ..).trans hp), ?_⟩
      have hstate : islState (haltTold i cyc.toNat s) i = 2 := (islState_raise ..).trans (halted_state i s)
      have hof : islOf (haltTold i cyc.toNat s) i = _ := (islOf_congr (raise_isl ..) i).trans (halted_self i s)
      have hself : islRuns (haltTold i cyc.toNat s) i = false := islRuns_of_state hstate
      have hother : islRuns (haltTold i cyc.toNat s) (otherIsl i) = false :=
        (islRuns_congr ((islState_raise ..).trans (halted_state_other i s)) ((islOf_congr (raise_isl ..) _).trans (halted_other i s))).trans hr
      have htest : selfTesting (haltTold i cyc.toNat s) i = true := by
        rw [selfTesting, hstate, hof, islLocked_stopped hlock]
        rfl
      have hpow : powered (haltTold i cyc.toNat s) = true := (haltTold_powered ..).trans hp
      cases i
      · exact islandsFail_waits hpow hself hother htest
      · exact islandsFail_waits hpow hother hself htest
  · intro i s o hn hr
    obtain ⟨v, hv⟩ : ∃ v, v = modIsl i (fun x => { x with notice := false }) s := ⟨_, rfl⟩
    have hnotice : (islOf v i).notice = false := by rw [hv, islOf_modIsl_self]
    have hframe : v = { s with isl := v.isl } := by rw [hv]; cases i <;> rfl
    have hgated : v.isl.gated = s.isl.gated := by rw [hv, modIsl_gated]
    have hduty : v.isl.duty = s.isl.duty := by rw [hv, modIsl_duty]
    have hother : islOf v o = islOf s o := by rw [hv, islOf_modIsl_other]
    have hstate : islState v o = islState s o := by rw [hv, islState_modIsl]
    have hgates : gates v o = gates s o := gates_congr (by rw [hframe]) hstate hother
    have hexec : exec (.haltNotice i) s = .next (orderRole o 0 v) := by
      rw [hv]
      refine congrArg Host.Outcome.next ((if_neg (by rw [hn]; decide)).trans (if_pos ?_))
      rw [← hv, islRuns_congr hstate hother, hr]
    refine ⟨fun hg => ⟨_, hexec.trans (congrArg Host.Outcome.next (orderRole_acts (hgates.trans hg))), dutyTaken o v, rfl, ?_, rfl, ?_, dutyTaken_holder o v, ?_, ?_⟩,
      fun hg => ⟨_, hexec.trans (congrArg Host.Outcome.next (orderRole_waits (hgates.trans hg))), gate_mem .., ?_, (gate_duty ..).trans hduty, ?_⟩⟩
    · rw [dutyTaken_islOf, hnotice]
    · rw [← hgated]
      rfl
    · rw [hframe]
      rfl
    · intro k hk
      rw [dutyTaken_kept o v k hk, hframe]
      rfl
    · rw [gate_islOf, hnotice]
    · rw [gate_frame, hframe]

end Sys2Proof.Machine
end

section
/-! PROOFS. Self-tests and latent differences of an island (R319 to R322, R324). -/

namespace Sys2Proof.Machine

variable {s t u : State}

/-! The verdict of a self-test -/

/-- An island whose self-test has ended is lost no more (R319). -/
abbrev retried (x : Island) : Island := { x with lost := false, missed := 0 }

/-- A pair that re-locks. -/
def relocked (i : Isl) (s : State) : State := setIsl i 0 (modIsl i retried s)

/-- A pair that goes on on one core, before its record. -/
def onOneCore (i : Isl) (main : Bool) (s : State) : State := modIsl i (fun x => { x with onChecker := main, oneCore := true }) (setIsl i 3 s)

theorem islandVerdict_exec {i : Isl} {v : CoreVerdict} (h : selfTesting s i = true) : exec (.islandVerdict i v) s = .next (match v with
    | .bothGood => reportD i true (raiseFault .manager ⟨0x0602, 1, false, islNode i, islNum i, 0, 0⟩ (relocked i s))
    | .mainBroken => reportD i true (singleIsl i true (modIsl i retried s))
    | .checkerBroken => reportD i true (singleIsl i false (modIsl i retried s))
    | .bothBroken => reportD i false (failIsl i (modIsl i retried s))) :=
  congrArg Host.Outcome.next (if_neg (by rw [h]; exact Bool.false_ne_true))

theorem islandVerdict_broken {i : Isl} {b : Bool} (h : selfTesting s i = true) : exec (.islandVerdict i (if b then .mainBroken else .checkerBroken)) s =
    .next (reportD i true (singleIsl i b (modIsl i retried s))) := by
  cases b
  · exact islandVerdict_exec h
  · exact islandVerdict_exec h

theorem reportD_none {i : Isl} {b : Bool} (h : s.isl.report = false) : reportD i b s = s := if_pos (by rw [h]; rfl)

theorem reportD_works {i : Isl} (h : s.isl.report = true) : reportD i true s = safeState 1 (islNode i) { s with isl := { s.isl with report := false } } := by
  unfold reportD
  rw [if_neg (by rw [h]; decide), if_pos rfl]

theorem reportD_waits {i : Isl} (h : selfTesting s (otherIsl i) = true) : reportD i false s = s := by
  unfold reportD
  rw [if_neg Bool.false_ne_true, if_pos h, ite_self]

theorem reportD_last {i : Isl} (hr : s.isl.report = true) (h : selfTesting s (otherIsl i) = false) :
    reportD i false s = safeState 1 iodSteward { s with isl := { s.isl with report := false } } := by
  unfold reportD
  rw [if_neg (by rw [hr]; decide), if_neg Bool.false_ne_true, if_neg (by rw [h]; decide)]

theorem selfTesting_congr {i : Isl} (hs : islState t i = islState s i) (h : islOf t i = islOf s i) : selfTesting t i = selfTesting s i := by
  rw [selfTesting, hs, h, selfTesting]

theorem relocked_report (i : Isl) (s : State) : (relocked i s).isl.report = s.isl.report := modIsl_report ..

theorem relocked_islOf (i : Isl) (s : State) : islOf (relocked i s) i = { islOf s i with lost := false, missed := 0 } := by
  rw [relocked, islOf_setIsl, islOf_modIsl_self]

theorem relocked_frame (i : Isl) (s : State) : relocked i s = { s with reg := (relocked i s).reg, isl := (relocked i s).isl } := by cases i <;> rfl

theorem relocked_kept (i : Isl) (s : State) : RegsKept (stateKeys i) s (relocked i s) := by
  intro k hk
  rw [relocked, setIsl_kept i 0 _ k hk, regGet_congr (modIsl_reg ..)]

theorem onOneCore_state (i : Isl) (b : Bool) (s : State) : islState (onOneCore i b s) i = 3 := by
  rw [onOneCore, islState_modIsl, islState_setIsl_self]

theorem onOneCore_islOf (i : Isl) (b : Bool) (s : State) : islOf (onOneCore i b s) i = { islOf s i with onChecker := b, oneCore := true } := by
  rw [onOneCore, islOf_modIsl_self, islOf_setIsl]

theorem countC_notMem_stateKeys (i : Isl) : K.FAULT_COUNT_c ∉ stateKeys i := by cases i <;> grind [islKey]

theorem onOneCore_countC (i : Isl) (b : Bool) (s : State) : regGet (onOneCore i b s) K.FAULT_COUNT_c = regGet s K.FAULT_COUNT_c := by
  rw [onOneCore, regGet_congr (modIsl_reg ..), setIsl_kept i 3 s _ (countC_notMem_stateKeys i)]

theorem singleIsl_told (i : Isl) (b : Bool) (s : State) : singleIsl i b s =
    raise .manager ⟨0x0602, 3, true, islNode i, islNum i, if b then 1 else 2, 0⟩ (recordFault 3 (islNode i) (onOneCore i b s)) := rfl

theorem failIsl_told (i : Isl) (s : State) : failIsl i s =
    raise .manager ⟨0x0602, 3, true, islNode (otherIsl i), islNum i, 3, 0⟩ (recordFault 3 (islNode (otherIsl i)) (setIsl i 4 s)) := rfl

theorem recordFault_islState (cls src : Nat) (s : State) (i : Isl) : islState (recordFault cls src s) i = islState s i := by
  cases i <;> exact (recordFault_regs ..).2 _ (by grind [islKey])

theorem recordFault_isl (cls src : Nat) (s : State) : (recordFault cls src s).isl = s.isl := by rw [(recordFault_regs cls src s).1]

theorem recordC_counts (src : Nat) (s : State) : regGet (recordFault 3 src s) K.FAULT_COUNT_c = satInc 255 (regGet s K.FAULT_COUNT_c) ∧
    regGet (recordFault 3 src s) K.FAULT_LAST_source = src := by
  rw [recordFault_c]
  exact ⟨by rw [regGet_regMod_self, regGet_regSet_ne _ _ (by grind)], by rw [regGet_regMod_ne _ _ (by grind), regGet_regSet_self]⟩

theorem failIsl_state (i : Isl) (s : State) : islState (failIsl i s) i = 4 := (islState_raiseFault ..).trans (islState_setIsl_self i 4 s)

theorem failIsl_state_other (i : Isl) (s : State) : islState (failIsl i s) (otherIsl i) = islState s (otherIsl i) :=
  (islState_raiseFault ..).trans (islState_setIsl_other i 4 s)

theorem failIsl_isl (i : Isl) (s : State) : (failIsl i s).isl = s.isl := raiseFault_isl ..

/-! Latent differences -/

/-- A difference that parity repairs: one more re-lock (R321, R322). -/
def repaired (i : Isl) (s : State) : State := modIsl i (fun x => { x with relocks := recentLocks s i ++ [s.ticks] }) s

theorem latent_repaired {i : Isl} {m c : Bool} (hp : powered s = true) (hl : islLocked s i = true) (h : (m || c) = true) : latent i false m c s =
    raise .manager ⟨0x0603, 1, false, islNode i, islNum i, (recentLocks s i).length + 1, 0⟩ (repaired i s) := by
  have hgo : ¬ (!powered s || !islLocked s i || false) = true := by
    rw [hp, hl]
    decide
  have hparity : ¬ (!m && !c) = true := by
    rw [← Bool.not_or, h]
    decide
  refine (if_neg hgo).trans ((if_neg hparity).trans ?_)
  dsimp only
  rw [List.length_append, List.length_singleton]
  rfl

theorem latent_halts {i : Isl} {m c : Bool} (hp : powered s = true) (hl : islLocked s i = true) (h : (m || c) = false) : latent i false m c s =
    haltIsl i (Config.cycles s.freeCtr).toNat { s with freeCtr := s.freeCtr + 1 } := by
  have hgo : ¬ (!powered s || !islLocked s i || false) = true := by
    rw [hp, hl]
    decide
  refine (if_neg hgo).trans (if_pos ?_)
  rw [← Bool.not_or, h]
  rfl

/-! The statement -/

/-- Settles O49: a verdict by its state before the report, `reportD_none` to `reportD_last`; the rest by `latent_repaired`, `latent_halts` and `haltIsl_parts`. -/
theorem islandSelfTests : Obligations.IslandSelfTests := by
  unfold Obligations.IslandSelfTests
  refine ⟨fun i s h => ⟨fun hr => ⟨?_, fun b => ?_, ?_⟩, fun hr => ⟨?_, fun ho => ?_, fun ho => ?_⟩⟩,
    fun i m c s hp hl => ⟨?_, fun h => ?_, fun h => ?_, fun h => ?_, fun h => ?_⟩, fun i main s => ⟨?_, fun hs hr => ?_⟩⟩
  · have hrep : (raiseFault .manager ⟨0x0602, 1, false, islNode i, islNum i, 0, 0⟩ (relocked i s)).isl.report = false := by rw [raiseFault_isl, relocked_report, hr]
    refine ⟨_, (islandVerdict_exec h).trans (congrArg Host.Outcome.next (reportD_none hrep)), relocked i s, rfl, islState_setIsl_self .., relocked_islOf i s, relocked_frame i s,
      relocked_kept i s⟩
  · have hrep : (singleIsl i b (modIsl i retried s)).isl.report = false := by
      rw [singleIsl_told, raise_isl, recordFault_isl, onOneCore, modIsl_report]
      exact (modIsl_report ..).trans hr
    obtain ⟨hcount, hlast⟩ := recordC_counts (islNode i) (onOneCore i b (modIsl i retried s))
    refine ⟨_, (islandVerdict_broken h).trans (congrArg Host.Outcome.next (reportD_none hrep)), _, singleIsl_told .., ?_, ?_, ?_, hlast⟩
    · rw [recordFault_islState, onOneCore_state]
    · rw [islOf_congr (recordFault_isl ..), onOneCore_islOf, islOf_modIsl_self]
    · rw [hcount, onOneCore_countC, regGet_congr (modIsl_reg ..)]
  · have hrep : (failIsl i (modIsl i retried s)).isl.report = false := by rw [failIsl_isl, modIsl_report, hr]
    obtain ⟨hcount, hlast⟩ := recordC_counts (islNode (otherIsl i)) (setIsl i 4 (modIsl i retried s))
    refine ⟨_, (islandVerdict_exec h).trans (congrArg Host.Outcome.next (reportD_none hrep)), _, failIsl_told .., ?_, ?_, hlast⟩
    · rw [recordFault_islState, islState_setIsl_self]
    · rw [hcount, setIsl_kept i 4 _ _ (countC_notMem_stateKeys i), regGet_congr (modIsl_reg ..)]
  · have hrep : (raiseFault .manager ⟨0x0602, 1, false, islNode i, islNum i, 0, 0⟩ (relocked i s)).isl.report = true := by rw [raiseFault_isl, relocked_report, hr]
    refine ⟨_, (islandVerdict_exec h).trans (congrArg Host.Outcome.next (reportD_works hrep)), _, rfl, ?_, ?_⟩
    · rw [recordFault_isl]
    · rw [recordFault_islState]
      exact (islState_raiseFault ..).trans (islState_setIsl_self ..)
  · have hrep : (failIsl i (modIsl i retried s)).isl.report = true := by rw [failIsl_isl, modIsl_report, hr]
    have hother : selfTesting (failIsl i (modIsl i retried s)) (otherIsl i) = false := by
      rw [selfTesting_congr ((failIsl_state_other ..).trans (islState_modIsl ..)) ((islOf_congr (failIsl_isl ..) _).trans (islOf_modIsl_other ..)), ho]
    refine ⟨_, (islandVerdict_exec h).trans (congrArg Host.Outcome.next (reportD_last hrep hother)), _, rfl, ?_, ?_⟩
    · rw [recordFault_isl]
    · rw [recordFault_islState]
      exact failIsl_state ..
  · have hother : selfTesting (failIsl i (modIsl i retried s)) (otherIsl i) = true := by
      rw [selfTesting_congr ((failIsl_state_other ..).trans (islState_modIsl ..)) ((islOf_congr (failIsl_isl ..) _).trans (islOf_modIsl_other ..)), ho]
    refine ⟨_, (islandVerdict_exec h).trans (congrArg Host.Outcome.next (reportD_waits hother)), ?_, failIsl_state ..⟩
    rw [failIsl_isl, modIsl_report, hr]
  · exact congrArg Host.Outcome.next (if_pos (Bool.or_true _))
  · refine ⟨_, congrArg Host.Outcome.next (latent_repaired hp hl h), repaired i s, rfl, islOf_modIsl_self .., ?_⟩
    cases i <;> rfl
  · exact ⟨_, congrArg Host.Outcome.next (latent_halts hp hl h), (haltIsl_parts ..).1⟩
  · have hgo : (powered s && islLocked s i && decide (4 ≤ (recentLocks s i).length)) = true := by
      rw [hp, hl, decide_eq_true h]
      rfl
    obtain ⟨hstate, hof, -⟩ := haltIsl_parts i (Config.cycles s.freeCtr).toNat { s with freeCtr := s.freeCtr + 1 }
    exact ⟨_, congrArg Host.Outcome.next (if_pos hgo), hstate, by rw [hof]⟩
  · refine congrArg Host.Outcome.next (if_neg ?_)
    rw [decide_eq_false (by omega), Bool.and_false]
    exact Bool.false_ne_true
  · exact congrArg Host.Outcome.next (if_pos rfl)
  · have hgo : ¬ (false || decide (islState s i ≠ 1) || !islRuns s i) = true := by
      rw [hs, hr]
      decide
    refine ⟨_, congrArg Host.Outcome.next (if_neg hgo), ?_, ?_, ?_⟩
    · exact (islState_raiseFault ..).trans (onOneCore_state ..)
    · exact congrArg Island.onChecker ((islOf_congr (raiseFault_isl ..) i).trans (onOneCore_islOf ..))
    · exact congrArg Island.oneCore ((islOf_congr (raiseFault_isl ..) i).trans (onOneCore_islOf ..))

end Sys2Proof.Machine
end

section
/-! PROOFS. Resets and clock losses of an island, debug sessions (R320, R324, R325, R424, R426). -/

namespace Sys2Proof.Machine

variable {s t u : State}

/-! An island stopped -/

theorem modIsl_isl (i : Isl) (f : Island → Island) (s : State) : modIsl i f s = { s with isl := (modIsl i f s).isl } := by cases i <;> rfl

theorem powered_modIsl (i : Isl) (f : Island → Island) (s : State) : powered (modIsl i f s) = powered s := powered_congr (modIsl_op ..) (modIsl_boot ..)

theorem islRuns_modIsl_other (i : Isl) (f : Island → Island) (s : State) : islRuns (modIsl i f s) (otherIsl i) = islRuns s (otherIsl i) :=
  islRuns_congr (islState_modIsl ..) (islOf_modIsl_other ..)

theorem islLocked_modIsl_other (i : Isl) (f : Island → Island) (s : State) : islLocked (modIsl i f s) (otherIsl i) = islLocked s (otherIsl i) :=
  islLocked_congr (islState_modIsl ..) (islOf_modIsl_other ..)

/-- An island that stops beside a locked one: nothing follows (R320). -/
theorem stopIsl_alone {i : Isl} (h : islLocked s (otherIsl i) = true) : stopIsl i s = modIsl i (fun x => { x with stopped := true }) s := by
  refine if_neg ?_
  rw [islRuns_modIsl_other, islState_modIsl, islLocked_runs h, islLocked_state h]
  cases holdsDuty s i <;> decide

theorem stopIsl_last {i : Isl} (h : islRuns s (otherIsl i) = false) : stopIsl i s = islandsFail (modIsl i (fun x => { x with stopped := true }) s) := by
  refine if_pos ?_
  rw [islRuns_modIsl_other, h]
  rfl

theorem stopIsl_cases (i : Isl) (s : State) : stopIsl i s = modIsl i (fun x => { x with stopped := true }) s ∨
    stopIsl i s = islandsFail (modIsl i (fun x => { x with stopped := true }) s) := by
  unfold stopIsl
  dsimp only
  split
  · exact .inr rfl
  · exact .inl rfl

theorem islandReset_exec {i : Isl} (hp : powered s = true) : exec (.islandReset i) s = .next
    (if (!islLocked (stopIsl i (modIsl i (fun x => { x with resetLow := true }) s)) (otherIsl i) &&
      (stopIsl i (modIsl i (fun x => { x with resetLow := true }) s)).op != .safeOff) = true
      then islandsFail (stopIsl i (modIsl i (fun x => { x with resetLow := true }) s)) else stopIsl i (modIsl i (fun x => { x with resetLow := true }) s)) :=
  congrArg Host.Outcome.next (if_neg (by rw [powered_modIsl, hp]; exact Bool.false_ne_true))

/-- A stop beside an island that is not locked: the module leaves service, by the stop or after it (R320, R426). -/
theorem stopIsl_off {i : Isl} (hp : powered s = true) (h : islLocked s (otherIsl i) = false) :
    (if (!islLocked (stopIsl i s) (otherIsl i) && (stopIsl i s).op != .safeOff) = true then islandsFail (stopIsl i s) else stopIsl i s).op = .safeOff := by
  have hlock : islLocked (modIsl i (fun x => { x with stopped := true }) s) (otherIsl i) = false := (islLocked_modIsl_other ..).trans h
  have hpow : powered (modIsl i (fun x => { x with stopped := true }) s) = true := (powered_modIsl ..).trans hp
  rcases stopIsl_cases i s with hs | hs
  · rw [hs, hlock, Bool.not_false, Bool.true_and]
    split
    · exact islandsFail_op hpow
    · exact bne_eq_false_iff_eq.1 (Bool.not_eq_true _ ▸ ‹¬ _›)
  · have hop := islandsFail_op hpow
    rw [hs, hop, if_neg (by simp), hop]

/-! An island out of reset -/

/-- An island that starts anew: what is broken stays broken (R324, R426). -/
abbrev restarted (x : Island) : Island :=
  { x with resetLow := false, stopped := false, lost := false, missed := 0, notice := false, relocks := [], dbgHalt := false, core := [], checker := [] }

/-- An island out of reset, before its firmware is held to its hash: where it held duties the other takes them. -/
def outOfReset (i : Isl) (s : State) : State :=
  let u := modIsl i (fun x => { x with stopped := false, lost := false, missed := 0, notice := false, relocks := [], dbgHalt := false, core := [], checker := [] })
    (modIsl i (fun x => { x with resetLow := false }) s)
  if holdsDuty u i && islRuns u (otherIsl i) then orderRole (otherIsl i) 1 u else u

theorem islandResetRelease_exec {i : Isl} {ok : Bool} (hp : powered s = true) (hr : (islOf s i).resetLow = true) : exec (.islandResetRelease i ok) s = .next
    (if ok = true then setIsl i (if (islOf (outOfReset i s) i).oneCore = true then 3 else 0) (outOfReset i s) else failIsl i (outOfReset i s)) :=
  congrArg Host.Outcome.next ((if_neg (by rw [hr]; decide)).trans (if_neg (by rw [powered_modIsl, hp]; decide)))

theorem outOfReset_islOf (i : Isl) (s : State) : islOf (outOfReset i s) i = restarted (islOf s i) := by
  unfold outOfReset
  dsimp only
  split
  · rw [(orderRole_keeps ..).1, islOf_modIsl_self, islOf_modIsl_self]
  · rw [islOf_modIsl_self, islOf_modIsl_self]

/-! Debug sessions -/

theorem debugAction_island {i : Isl} {act : DebugAct} (ha : regGet s K.DBG_STATUS_active = 1) (hs : bitOf (regGet s K.DBG_STATUS_scope) (islNum i) = true)
    (hl : islLocked s i = true) : exec (.debugAction (.island i) act) s = .next (dbgIsland i act s) := by
  refine congrArg Host.Outcome.next ((if_neg ?_).trans (if_pos ?_))
  · exact fun h => h ha
  · rw [hs, hl]
    rfl

theorem debugAction_closed {x : DebugTarget} {act : DebugAct} (h : regGet s K.DBG_STATUS_active ≠ 1) : exec (.debugAction x act) s = .next s :=
  congrArg Host.Outcome.next (if_pos h)

theorem debugAction_outside {i : Isl} {act : DebugAct} (h : bitOf (regGet s K.DBG_STATUS_scope) (islNum i) = false ∨ islLocked s i = false) :
    exec (.debugAction (.island i) act) s = .next s := by
  have hout : (bitOf (regGet s K.DBG_STATUS_scope) (islNum i) && islLocked s i) = false := by
    rcases h with h | h
    · rw [h, Bool.false_and]
    · rw [h, Bool.and_false]
  have hidle : (if (bitOf (regGet s K.DBG_STATUS_scope) (islNum i) && islLocked s i) = true then dbgIsland i act s else s) = s :=
    if_neg (by rw [hout]; exact Bool.false_ne_true)
  exact congrArg Host.Outcome.next ((congrArg (ite (regGet s K.DBG_STATUS_active ≠ 1) s) hidle).trans (ite_self s))

theorem debugAction_steward {d : Fin 5} {act : DebugAct} (h : bitOf (regGet s K.DBG_STATUS_scope) 2 = false ∨ ((∀ n, act ≠ .readReg n) ∧ ∀ a, act ≠ .readMem a)) :
    exec (.debugAction (.steward d) act) s = .next s := by
  change execDebugAction (.steward d) act s = .next s
  unfold execDebugAction
  dsimp only
  refine congrArg Host.Outcome.next ?_
  split
  · rfl
  · split
    · rfl
    · rename_i hbit
      rcases h with h | ⟨hreg, hmem⟩
      · rw [h] at hbit
        exact absurd rfl hbit
      · cases act with
        | readReg r => exact absurd rfl (hreg r)
        | readMem a => exact absurd rfl (hmem a)
        | _ => rfl

/-- A word put into a core: the last value written there. -/
abbrev wordPut (w v : Nat) (l : List (Nat × Nat)) : List (Nat × Nat) := (l.filter fun x => x.1 != w) ++ [(w, v)]

theorem wordPut_mem (w v : Nat) (l : List (Nat × Nat)) : (w, v) ∈ wordPut w v l := List.mem_append_right _ (List.mem_singleton.2 rfl)

theorem wordPut_only {w v : Nat} {l : List (Nat × Nat)} : ∀ x ∈ wordPut w v l, x.1 = w → x.2 = v := by
  intro x hx hw
  rcases List.mem_append.1 hx with h | h
  · exact absurd hw (bne_iff_ne.1 (List.mem_filter.1 h).2)
  · rw [List.mem_singleton.1 h]

theorem dbgWrite_islOf (i : Isl) (w v : Nat) (s : State) :
    islOf (dbgWrite i w v s) i = { islOf s i with core := wordPut w v (islOf s i).core, checker := wordPut w v (islOf s i).checker } := islOf_modIsl_self ..

theorem dbgWrite_isl (i : Isl) (w v : Nat) (s : State) : dbgWrite i w v s = { s with isl := (dbgWrite i w v s).isl } := by
  cases i <;> rfl

theorem debugSession_open {l : DebugLicence} (hp : powered s = true) (h : licenceOk s l = true) : exec (.debugSession l) s = .next
    (raise .manager ⟨0x060E, 0, true, islNode (keyIsl s), 0, l.scope.toNat, l.serial.toNat % 2 ^ 64⟩ (regSet K.DBG_STATUS_active 1 (regSet K.DBG_STATUS_scope l.scope.toNat
        { s with isl := { s.isl with dbgSerial := l.serial.toNat % 2 ^ 64, dbgEver := true } }))) := by
  refine congrArg Host.Outcome.next ((if_neg (by rw [hp]; decide)).trans ?_)
  rw [h]
  rfl

theorem debugSession_refused {l : DebugLicence} (hp : powered s = true) (h : licenceOk s l = false) : exec (.debugSession l) s = .next
    (raise .manager ⟨0x060E, 0, true, islNode (keyIsl s), 2, l.scope.toNat, l.serial.toNat % 2 ^ 64⟩ s) := by
  refine congrArg Host.Outcome.next ((if_neg (by rw [hp]; decide)).trans ?_)
  rw [h]
  rfl

/-! The statement -/

/-- Settles O50: a stop by `stopIsl_alone`, `stopIsl_last` and `stopIsl_off`, a release by `outOfReset_islOf`, an action by `debugAction_island`. -/
theorem islandResetsAndDebug : Obligations.IslandResetsAndDebug := by
  unfold Obligations.IslandResetsAndDebug
  refine ⟨fun i s hp => ⟨fun hl => ⟨?_, ?_⟩, fun hl => ?_, fun hr => ?_, fun hlow => ?_, fun hlow => ?_⟩, ?_, fun x act s h => debugAction_closed h,
    fun i act s h => debugAction_outside h, fun i s ha hs hl => ⟨fun h3 hd => ?_, fun h => ?_, fun a v => ?_, fun n v => ?_, fun a v hh hf => ?_, fun hh => ?_⟩,
    fun d act s h => debugAction_steward h, fun d a s ha hs => ?_, fun s ha => ?_⟩
  · have hlow : islLocked (modIsl i (fun x => { x with resetLow := true }) s) (otherIsl i) = true := (islLocked_modIsl_other ..).trans hl
    refine ⟨_, (islandReset_exec hp).trans (congrArg Host.Outcome.next (if_neg ?_)), ?_⟩
    · rw [stopIsl_alone hlow, islLocked_modIsl_other, hlow]
      exact Bool.false_ne_true
    · rw [stopIsl_alone hlow]
      refine ⟨(islOf_modIsl_self ..).trans (by rw [islOf_modIsl_self]), ?_⟩
      cases i <;> rfl
  · refine ⟨_, congrArg Host.Outcome.next ((if_pos hp).trans (stopIsl_alone hl)), islOf_modIsl_self .., modIsl_isl ..⟩
  · exact ⟨_, islandReset_exec hp, stopIsl_off ((powered_modIsl ..).trans hp) ((islLocked_modIsl_other ..).trans hl)⟩
  · exact ⟨_, congrArg Host.Outcome.next ((if_pos hp).trans (stopIsl_last hr)), islandsFail_op ((powered_modIsl ..).trans hp)⟩
  · refine ⟨_, (islandResetRelease_exec hp hlow).trans (congrArg Host.Outcome.next (if_pos rfl)), ?_, ?_⟩
    · rw [islState_setIsl_self, outOfReset_islOf]
    · rw [islOf_setIsl, outOfReset_islOf]
  · refine ⟨_, (islandResetRelease_exec hp hlow).trans (congrArg Host.Outcome.next (if_neg (by decide))), failIsl_state .., ?_⟩
    rw [islOf_congr (failIsl_isl ..), outOfReset_islOf]
  · intro l s low hp
    refine ⟨fun h => ⟨_, debugSession_open hp h, _, rfl, regGet_regSet_self .., ?_, rfl, rfl, ?_⟩, fun h => ⟨_, debugSession_refused hp h, s, rfl, rfl⟩⟩
    · exact (regGet_regSet_ne _ _ (by grind)).trans (regGet_regSet_self ..)
    · exact kept_set (by simp) (kept_set (by simp) (kept_reg rfl (kept_refl _ s)))
  · refine ⟨_, (debugAction_island ha hs hl).trans (congrArg Host.Outcome.next (if_pos (by rw [h3, hd]; rfl))), islOf_modIsl_self .., modIsl_isl ..⟩
  · refine (debugAction_island ha hs hl).trans (congrArg Host.Outcome.next (if_neg ?_))
    rcases h with h | h
    · rw [h]
      exact Bool.false_ne_true
    · rw [h, Bool.not_true, Bool.and_false]
      exact Bool.false_ne_true
  · refine ⟨dbgWrite i a.toNat v.toNat s, debugAction_island ha hs hl, ?_⟩
    beta_reduce
    rw [dbgWrite_islOf]
    exact ⟨wordPut_mem .., wordPut_mem .., wordPut_only, rfl, islOf_modIsl_other .., dbgWrite_isl ..⟩
  · refine ⟨dbgWrite i (2 ^ 64 + n) v.toNat s, debugAction_island ha hs hl, ?_⟩
    beta_reduce
    rw [dbgWrite_islOf]
    exact ⟨wordPut_mem .., wordPut_mem .., dbgWrite_isl ..⟩
  · refine (debugAction_island ha hs hl).trans (congrArg Host.Outcome.next ?_)
    change dbgInspect (islOf s i).dbgHalt a.toNat (islOf s i).core s = _
    unfold dbgInspect
    rw [hh, hf]
  · exact (debugAction_island ha hs hl).trans (congrArg Host.Outcome.next (if_neg (by rw [hh]; exact Bool.false_ne_true)))
  · refine ⟨_, congrArg Host.Outcome.next ((if_neg fun h => h ha).trans (if_neg ?_)), rfl⟩
    rw [hs]
    exact Bool.false_ne_true
  · refine ⟨_, congrArg Host.Outcome.next (if_neg fun h => h ha), _, rfl, regGet_regSet_self .., ?_, rfl, fun i => ?_, rfl, ?_⟩
    · exact (regGet_regSet_ne _ _ (by grind)).trans (regGet_regSet_self ..)
    · cases i <;> rfl
    · exact kept_set (by simp) (kept_set (by simp) (kept_reg rfl (kept_refl _ s)))

end Sys2Proof.Machine
end

section
/-! PROOFS. Links: their directions and flits, lanes lost, links that fail (R340 to R347). -/

namespace Sys2Proof.Machine

variable {s t u : State}

/-! The two directions of a link -/

theorem flowOf_modFlow_self (rev : Bool) (f : LinkFlow → LinkFlow) (k : Link) : flowOf (modFlow rev f k) rev = f (flowOf k rev) := by cases rev <;> rfl

theorem flowOf_modFlow_other (rev : Bool) (f : LinkFlow → LinkFlow) (k : Link) : flowOf (modFlow rev f k) (!rev) = flowOf k (!rev) := by cases rev <;> rfl

theorem flowOf_modFlow_not (rev : Bool) (f : LinkFlow → LinkFlow) (k : Link) : flowOf (modFlow (!rev) f k) rev = flowOf k rev := by cases rev <;> rfl

theorem errs_modFlow (rev : Bool) (f : LinkFlow → LinkFlow) (k : Link) : (modFlow rev f k).errs = k.errs := by cases rev <;> rfl

/-! What links write -/

/-- Only registers differ. -/
def RegOnly (s t : State) : Prop := t = { s with reg := t.reg }

theorem RegOnly.refl (s : State) : RegOnly s s := rfl

theorem RegOnly.set (k v : Nat) (h : RegOnly s t) : RegOnly s (regSet k v t) := by
  obtain ⟨reg, rfl⟩ : ∃ reg, t = { s with reg := reg } := ⟨_, h⟩
  rfl

theorem RegOnly.linkOf (h : RegOnly s t) (l : Nat) : linkOf t l = linkOf s l := by
  rw [h]
  rfl

/-- Only registers and links differ. -/
def LinkOnly (s t : State) : Prop := t = { s with reg := t.reg, links := t.links }

theorem LinkOnly.refl (s : State) : LinkOnly s s := rfl

theorem LinkOnly.trans (h : LinkOnly s t) (g : LinkOnly t u) : LinkOnly s u := by
  obtain ⟨reg, links, rfl⟩ : ∃ reg links, t = { s with reg := reg, links := links } := ⟨_, _, h⟩
  exact g

theorem LinkOnly.set (k v : Nat) (h : LinkOnly s t) : LinkOnly s (regSet k v t) := by
  obtain ⟨reg, links, rfl⟩ : ∃ reg links, t = { s with reg := reg, links := links } := ⟨_, _, h⟩
  rfl

theorem LinkOnly.mod (l : Nat) (f : Link → Link) (h : LinkOnly s t) : LinkOnly s (modLink l f t) := by
  obtain ⟨reg, links, rfl⟩ : ∃ reg links, t = { s with reg := reg, links := links } := ⟨_, _, h⟩
  rfl

theorem RegOnly.linkOnly (h : RegOnly s t) : LinkOnly s t := by
  obtain ⟨reg, rfl⟩ : ∃ reg, t = { s with reg := reg } := ⟨_, h⟩
  rfl

/-! The registers of a link -/

/-- The registers that show the two directions of a link (R363). -/
abbrev showKeys (l : Nat) : List Nat :=
  [K.LNK_STATUS_width_fwd l, K.LNK_STATUS_width_rev l, K.LNK_STATUS_extra_fwd l, K.LNK_STATUS_extra_rev l, K.LNK_EPOCH_epoch l]

theorem showLink_regOnly (l : Nat) (s : State) : RegOnly s (showLink l s) := .set _ _ (.set _ _ (.set _ _ (.set _ _ (.set _ _ (.refl s)))))

theorem showLink_linkOf (l q : Nat) (s : State) : linkOf (showLink l s) q = linkOf s q := (showLink_regOnly l s).linkOf q

theorem showLink_kept (l : Nat) (s : State) : RegsKept (showKeys l) s (showLink l s) :=
  kept_set (by simp) (kept_set (by simp) (kept_set (by simp) (kept_set (by simp) (kept_set (by simp) (kept_refl _ s)))))

theorem state_notMem_showKeys (q l : Nat) : K.LNK_STATUS_state q ∉ showKeys l := by grind

theorem showLink_state (l q : Nat) (s : State) : linkState (showLink l s) q = linkState s q := showLink_kept l s _ (state_notMem_showKeys q l)

/-! Lanes lost -/

/-- A lane out of the good set of a direction; a mapped one awaits its step (R343). -/
def lostLane (rev : Bool) (p : Nat) (k : Link) : Link :=
  let mapped := (dirOf k rev).map.contains p
  let k := modDir rev (fun d => { d with good := withBit d.good p false }) k
  if mapped then { k with left := k.left ++ [(rev, p)] } else k

/-- What lanes lost leave of a link: all but the good set of one direction and the lanes that await their step. -/
structure LanesLost (rev : Bool) (lost : Nat → Prop) [DecidablePred lost] (k k' : Link) : Prop where
  good : ∀ p, bitOf (dirOf k' rev).good p = if lost p then false else bitOf (dirOf k rev).good p
  other : dirOf k' (!rev) = dirOf k (!rev)
  retrain : k'.retrain = k.retrain

theorem lostLane_dir (rev : Bool) (p : Nat) (k : Link) : dirOf (lostLane rev p k) rev = { dirOf k rev with good := withBit (dirOf k rev).good p false } := by
  unfold lostLane
  dsimp only
  split
  · cases rev <;> rfl
  · cases rev <;> rfl

theorem lostLane_other (rev : Bool) (p : Nat) (k : Link) : dirOf (lostLane rev p k) (!rev) = dirOf k (!rev) := by
  unfold lostLane
  dsimp only
  split
  · cases rev <;> rfl
  · cases rev <;> rfl

theorem lostLane_retrain (rev : Bool) (p : Nat) (k : Link) : (lostLane rev p k).retrain = k.retrain := by
  unfold lostLane
  dsimp only
  split
  · cases rev <;> rfl
  · cases rev <;> rfl

theorem lostLane_left {rev : Bool} {p : Nat} {k : Link} (h : (dirOf k rev).map.contains p = true) : (lostLane rev p k).left = k.left ++ [(rev, p)] := by
  unfold lostLane
  rw [if_pos h]
  cases rev <;> rfl

theorem foldl_lostLane (rev : Bool) (l : List Nat) (k : Link) : LanesLost rev (· ∈ l) k (l.foldl (fun k p => lostLane rev p k) k) := by
  induction l generalizing k with
  | nil => exact ⟨fun p => (if_neg List.not_mem_nil).symm, rfl, rfl⟩
  | cons q l ih =>
    obtain ⟨hgood, hother, hretrain⟩ := ih (lostLane rev q k)
    refine ⟨fun p => ?_, hother.trans (lostLane_other ..), hretrain.trans (lostLane_retrain ..)⟩
    rw [List.foldl_cons, hgood, lostLane_dir, bitOf_withBit]
    by_cases hq : p = q
    · rw [if_pos hq, ite_self, if_pos (List.mem_cons.2 (.inl hq))]
    · rw [if_neg hq]
      by_cases hl : p ∈ l
      · rw [if_pos hl, if_pos (List.mem_cons_of_mem _ hl)]
      · rw [if_neg hl, if_neg (by rw [List.mem_cons, not_or]; exact ⟨hq, hl⟩)]

/-- The registers that the last lane lost stands in. -/
abbrev laneKeys (l : Nat) : List Nat := [K.LNK_LANE_ERR_lane l, K.LNK_LANE_ERR_dir l]

/-- The lanes of a list that are good. -/
abbrev goodOf (s : State) (l : Nat) (rev : Bool) (lanes : List Nat) : List Nat := lanes.filter fun p => bitOf (dirOf (linkOf s l) rev).good p

theorem loseLanes_fold (l : Nat) (rev : Bool) (lanes : List Nat) (s : State) : loseLanes l rev lanes s = (goodOf s l rev lanes).foldl (fun s p =>
    regSet (K.LNK_LANE_ERR_lane l) p (regSet (K.LNK_LANE_ERR_dir l) rev.toNat (modLink l (lostLane rev p) s))) s := rfl

theorem foldl_lose_parts (l : Nat) (rev : Bool) (gone : List Nat) (s : State) :
    let t := gone.foldl (fun s p => regSet (K.LNK_LANE_ERR_lane l) p (regSet (K.LNK_LANE_ERR_dir l) rev.toNat (modLink l (lostLane rev p) s))) s
    linkOf t l = gone.foldl (fun k p => lostLane rev p k) (linkOf s l) ∧ LinkOnly s t ∧ RegsKept (laneKeys l) s t := by
  induction gone generalizing s with
  | nil => exact ⟨rfl, .refl s, kept_refl _ s⟩
  | cons p gone ih =>
    obtain ⟨hlink, hframe, hkept⟩ := ih (regSet (K.LNK_LANE_ERR_lane l) p (regSet (K.LNK_LANE_ERR_dir l) rev.toNat (modLink l (lostLane rev p) s)))
    have hkeep : RegsKept (laneKeys l) s (regSet (K.LNK_LANE_ERR_lane l) p (regSet (K.LNK_LANE_ERR_dir l) rev.toNat (modLink l (lostLane rev p) s))) :=
      kept_set (by simp) (kept_set (by simp) (kept_reg (t := s) rfl (kept_refl _ s)))
    refine ⟨hlink.trans ?_, (LinkOnly.set _ _ (.set _ _ (.mod _ _ (.refl s)))).trans hframe, fun k hk => (hkept k hk).trans (hkeep k hk)⟩
    rw [linkOf_regSet, linkOf_regSet, linkOf_modLink_self]
    rfl

theorem mem_goodOf_lost {l : Nat} {rev : Bool} {lanes : List Nat} (p : Nat) :
    (if p ∈ goodOf s l rev lanes then false else bitOf (dirOf (linkOf s l) rev).good p) = if p ∈ lanes then false else bitOf (dirOf (linkOf s l) rev).good p := by
  by_cases hl : p ∈ lanes
  · cases hb : bitOf (dirOf (linkOf s l) rev).good p
    · rw [ite_self, ite_self]
    · rw [if_pos (List.mem_filter.2 ⟨hl, hb⟩), if_pos hl]
  · rw [if_neg fun h => hl (List.mem_filter.1 h).1, if_neg hl]

/-- Lanes that leave the good set of a direction: nothing else of the link's directions changes (R343). -/
theorem loseLanes_parts (l : Nat) (rev : Bool) (lanes : List Nat) (s : State) :
    let t := loseLanes l rev lanes s
    LanesLost rev (· ∈ lanes) (linkOf s l) (linkOf t l) ∧ LinkOnly s t ∧ RegsKept (laneKeys l) s t := by
  intro t
  obtain ⟨hlink, hframe, hkept⟩ := foldl_lose_parts l rev (goodOf s l rev lanes) s
  obtain ⟨hgood, hother, hretrain⟩ := foldl_lostLane rev (goodOf s l rev lanes) (linkOf s l)
  refine ⟨?_, hframe, hkept⟩
  rw [show linkOf t l = _ from hlink]
  exact ⟨fun p => (hgood p).trans (mem_goodOf_lost p), hother, hretrain⟩

/-! A link fails -/

theorem removeDie_links (k cause : Nat) (s : State) : (removeDie k cause s).links = s.links := by
  by_cases hd : dieIn s k = true
  · by_cases ho : s.op = .safeOff
    · rw [removeDie_off ho]
    · by_cases hp : powered s = true
      · refine removeDie_keeps (P := fun t => t.links = s.links) hd ho hp ?_ (fun u pair h => h) fun u c h => ?_
        · obtain ⟨hosts, mem, h⟩ := dieRemoved_parts k cause s
          rw [h]
        · unfold classD
          split
          · rw [safeState, raiseFault_links, (safeOffFor_offed c u).links, h]
          · exact h
      · rw [removeDie_unpowered (by simpa using hp)]
  · rw [removeDie_gone (by simpa using hd)]

theorem orderRemoval_links (k cause : Nat) (s : State) : (orderRemoval k cause s).links = s.links := by
  cases hg : gates s (holder s)
  · rw [orderRemoval, gateOr_acts hg, removeDie_links]
  · rw [orderRemoval, gateOr_waits hg, gate_frame]

theorem dropIsolated_parts (s : State) : (dropIsolated s).links = s.links ∧ RegsKept removeKeys s (dropIsolated s) := by
  unfold dropIsolated
  generalize List.range 4 = l
  induction l generalizing s with
  | nil => exact ⟨rfl, kept_refl _ s⟩
  | cons d l ih =>
    rw [List.foldl_cons]
    split
    · obtain ⟨hl, hk⟩ := ih (orderRemoval d 4 s)
      exact ⟨hl.trans (orderRemoval_links ..), fun k hm => (hk k hm).trans (orderRemoval_kept (fun _ h => h) (kept_refl _ s) k hm)⟩
    · exact ih s

theorem giveUpReset_parts (s : State) : (giveUpReset s).links = s.links ∧ (giveUpReset s).reg = s.reg := by
  unfold giveUpReset
  generalize s.boot.resetting = l
  induction l generalizing s with
  | nil => exact ⟨rfl, rfl⟩
  | cons d l ih =>
    rw [List.foldl_cons]
    split
    · exact ih s
    · obtain ⟨hl, hr⟩ := ih (raise .manager ⟨0x0309, 0, true, islNode (keyIsl s), d, 2, 0⟩ { s with boot := { s.boot with resetting := s.boot.resetting.filter (· != d) } })
      exact ⟨hl.trans (raise_links ..), hr.trans (raise_reg ..)⟩

/-- A link that has failed, before its event. -/
abbrev failed' (l : Nat) (s : State) : State := regSet (K.LNK_STATUS_state l) 3 (modLink l (fun k => { k with retrain := none, left := [] }) s)

theorem linkOf_congr (h : t.links = s.links) (l : Nat) : linkOf t l = linkOf s l := by rw [linkOf, h, linkOf]

/-- A link that fails: its state, its retrain and its steps; its directions stay (R346). -/
theorem failLink_parts (l good : Nat) (rev : Bool) (s : State) : linkState (failLink l good rev s) l = 3 ∧
    linkOf (failLink l good rev s) l = { linkOf s l with retrain := none, left := [] } ∧ RegsKept (K.LNK_STATUS_state l :: removeKeys) s (failLink l good rev s) := by
  obtain ⟨hl, hk⟩ := dropIsolated_parts (raiseFault .manager ⟨0x0303, 3, true, linkNode l rev, l, good, 0⟩ (failed' l s))
  have hfault : RegsKept removeKeys (failed' l s) (failLink l good rev s) := fun k hm =>
    (hk k hm).trans (raiseFault_kept (fun _ h => by grind) (kept_refl _ _) k hm)
  refine ⟨(hfault _ (by grind)).trans (regGet_regSet_self ..), ?_, fun k hm => ?_⟩
  · refine (linkOf_congr (hl.trans (raiseFault_links ..)) l).trans ?_
    rw [linkOf_regSet, linkOf_modLink_self]
  · rw [List.mem_cons, not_or] at hm
    exact (hfault k hm.2).trans (regGet_regSet_ne _ _ hm.1)

/-! The judgement of a link -/

/-- The registers that a judgement of a link may write. -/
abbrev judgeKeys (l : Nat) : List Nat := K.LNK_STATUS_state l :: (removeKeys ++ showKeys l)

/-- A link that has lanes enough, or that a retrain holds back, is shown; another fails (R346). -/
theorem judgeLink_shows {l : Nat} (h : (linkOf s l).retrain.isSome = true ∨ (16 ≤ goodLanes (linkOf s l).fwd ∧ 16 ≤ goodLanes (linkOf s l).rev)) : judgeLink l s = showLink l s := by
  unfold judgeLink
  dsimp only
  rcases h with h | ⟨hf, hr⟩
  · rw [if_pos h]
  · rw [if_neg (Nat.not_lt.2 hf), if_neg (Nat.not_lt.2 hr), ite_self]

theorem judgeLink_fails {l : Nat} (hn : (linkOf s l).retrain = none) (h : goodLanes (linkOf s l).fwd < 16 ∨ goodLanes (linkOf s l).rev < 16) :
    ∃ good rev, judgeLink l s = giveUpReset (failLink l good rev s) := by
  unfold judgeLink
  dsimp only
  rw [hn, if_neg (by decide)]
  by_cases hf : goodLanes (linkOf s l).fwd < 16
  · rw [if_pos hf]
    exact ⟨_, _, rfl⟩
  · rw [if_neg hf, if_pos (h.resolve_left hf)]
    exact ⟨_, _, rfl⟩

theorem judgeLink_failed {l : Nat} (hn : (linkOf s l).retrain = none) (h : goodLanes (linkOf s l).fwd < 16 ∨ goodLanes (linkOf s l).rev < 16) :
    linkState (judgeLink l s) l = 3 ∧ linkOf (judgeLink l s) l = { linkOf s l with retrain := none, left := [] } ∧ RegsKept (judgeKeys l) s (judgeLink l s) := by
  obtain ⟨good, rev, hj⟩ := judgeLink_fails hn h
  obtain ⟨hl, hr⟩ := giveUpReset_parts (failLink l good rev s)
  obtain ⟨hstate, hlink, hk⟩ := failLink_parts l good rev s
  rw [hj]
  refine ⟨(regGet_congr hr _).trans hstate, (linkOf_congr hl l).trans hlink, fun k hm => (regGet_congr hr k).trans (hk k fun h => hm ?_)⟩
  rw [List.mem_cons, List.mem_append]
  exact (List.mem_cons.1 h).imp id .inl

end Sys2Proof.Machine
end

section
/-! PROOFS. Flits on a link and their replay (R341 to R343). -/

namespace Sys2Proof.Machine

variable {s t u : State}

/-! A flit sent -/

/-- The flow of a sender after a flit: a new one is kept for a replay (R342). -/
abbrev sentFlow (n : Nat) (y : Flit) (f : LinkFlow) : LinkFlow := if n = f.sent then { f with sent := f.sent + 1, buf := f.buf ++ [y] } else f

/-- The errors of the last second with those of a flit (R343). -/
abbrev errsAfter (rev : Bool) (lanes : List Nat) (now : Nat) (k : Link) : List (Bool × Nat × Nat) :=
  k.errs.filter (fun e => decide (now < e.2.2 + secondTicks)) ++ lanes.map fun p => (rev, p, now)

/-- A link that a flit has crossed, before its receiver acts. -/
def crossed (rev : Bool) (n : Nat) (y : Flit) (lanes : List Nat) (now : Nat) (k : Link) : Link :=
  countErrs rev lanes now (if n = (flowOf k rev).sent then modFlow rev (fun f => { f with sent := f.sent + 1, buf := f.buf ++ [y] }) k else k)

theorem crossed_flow (rev : Bool) (n : Nat) (y : Flit) (lanes : List Nat) (now : Nat) (k : Link) : flowOf (crossed rev n y lanes now k) rev = sentFlow n y (flowOf k rev) := by
  unfold crossed sentFlow
  split
  · cases rev <;> rfl
  · cases rev <;> rfl

theorem crossed_other (rev : Bool) (n : Nat) (y : Flit) (lanes : List Nat) (now : Nat) (k : Link) : flowOf (crossed rev n y lanes now k) (!rev) = flowOf k (!rev) := by
  unfold crossed
  split
  · cases rev <;> rfl
  · cases rev <;> rfl

theorem crossed_errs (rev : Bool) (n : Nat) (y : Flit) (lanes : List Nat) (now : Nat) (k : Link) : (crossed rev n y lanes now k).errs = errsAfter rev lanes now k := by
  unfold crossed countErrs
  split
  · rw [errs_modFlow]
  · rfl

theorem sentFlow_want (n : Nat) (y : Flit) (f : LinkFlow) : (sentFlow n y f).want = f.want := by
  unfold sentFlow
  split <;> rfl

theorem sentFlow_run (n : Nat) (y : Flit) (f : LinkFlow) : (sentFlow n y f).run = f.run := by
  unfold sentFlow
  split <;> rfl

/-- What arrives of a flit. -/
abbrev arrived (s : State) (l : Nat) (rev : Bool) (n : Nat) (y : Flit) (bad : List (Fin 68 × Fin 72)) : Nat :=
  flitArrives (dirOf (linkOf s l) rev) bad (flitWire (dirOf (linkOf s l) rev).width (flitBytes n (flowOf (linkOf s l) (!rev)).want y))

/-- The state that a receiver meets a flit in. -/
abbrev flitCrossed (l : Nat) (rev : Bool) (n : Nat) (y : Flit) (bad : List (Fin 68 × Fin 72)) (s : State) : State :=
  modLink l (crossed rev n y (parityFails (dirOf (linkOf s l) rev) (arrived s l rev n y bad)) s.ticks) s

theorem isRev_dir (rev : Bool) : isRev (if rev then .rev else .fwd) = rev := by cases rev <;> rfl

theorem flitReceive_exec {l : Fin 8} {rev : Bool} {n : Nat} {x : Flit} {bad : List (Fin 68 × Fin 72)} (hs : linkState s l = 2) (hu : unitsOn s = true) :
    exec (.flitReceive l (if rev then .rev else .fwd) n x bad) s = .next (match flitSent (flowOf (linkOf s l) rev) n x with
      | none => s
      | some y => takeFlit l rev n ((parityFails (dirOf (linkOf s l) rev) (arrived s l rev n y bad)).isEmpty && crcHolds (flitData (arrived s l rev n y bad))) y
          (flowOf (linkOf s l) (!rev)).want (modLink l (fun k => countErrs rev (parityFails (dirOf (linkOf s l) rev) (arrived s l rev n y bad)) s.ticks
            (if n = (flowOf (linkOf s l) rev).sent then modFlow rev (fun f => { f with sent := f.sent + 1, buf := f.buf ++ [y] }) k else k)) s)) := by
  change Host.Outcome.next (receiveFlit l (isRev _) n x bad s) = _
  rw [isRev_dir, receiveFlit]
  refine congrArg Host.Outcome.next (if_neg ?_)
  rw [hs, hu]
  decide

theorem flitReceive_none {l : Fin 8} {rev : Bool} {n : Nat} {x : Flit} {bad : List (Fin 68 × Fin 72)} (hs : linkState s l = 2) (hu : unitsOn s = true)
    (h : flitSent (flowOf (linkOf s l) rev) n x = none) : exec (.flitReceive l (if rev then .rev else .fwd) n x bad) s = .next s := by
  rw [flitReceive_exec hs hu, h]

theorem flitReceive_sent {l : Fin 8} {rev : Bool} {n : Nat} {x y : Flit} {bad : List (Fin 68 × Fin 72)} (hs : linkState s l = 2) (hu : unitsOn s = true)
    (h : flitSent (flowOf (linkOf s l) rev) n x = some y) : exec (.flitReceive l (if rev then .rev else .fwd) n x bad) s =
      .next (takeFlit l rev n ((parityFails (dirOf (linkOf s l) rev) (arrived s l rev n y bad)).isEmpty && crcHolds (flitData (arrived s l rev n y bad))) y
        (flowOf (linkOf s l) (!rev)).want (flitCrossed l rev n y bad s)) := by
  have hlink (b : Prop) [Decidable b] (f : Link → Link) (g : Link → Link) (hf : f (linkOf s l) = g (linkOf s l)) : modLink l f s = modLink l g s := by
    unfold modLink tmod
    change { s with links := tset Link.init l (f (linkOf s l)) s.links } = { s with links := tset Link.init l (g (linkOf s l)) s.links }
    rw [hf]
  rw [flitReceive_exec hs hu, h]
  refine congrArg Host.Outcome.next (congrArg (takeFlit l rev n _ y _) ?_)
  exact hlink True _ _ rfl

/-! The receiver -/

theorem takeFlit_delivers {l : Nat} {rev : Bool} {n : Nat} {y : Flit} {ack : Nat} (h : n = (flowOf (linkOf s l) rev).want) :
    takeFlit l rev n true y ack s = modLink l (fun k => modFlow (!rev) (acknowledge ack) (modFlow rev (fun f => { f with want := n + 1, run := 0, got := some y }) k)) s := by
  unfold takeFlit
  dsimp only
  rw [if_neg (by omega), if_pos (by rw [decide_eq_true h]; rfl)]

theorem takeFlit_asks {l : Nat} {rev good : Bool} {n : Nat} {y : Flit} {ack : Nat}
    (h : (n = (flowOf (linkOf s l) rev).want ∧ good = false) ∨ ((flowOf (linkOf s l) rev).want < n ∧ (flowOf (linkOf s l) rev).run = 0)) :
    takeFlit l rev n good y ack s = regInc (K.LNK_RETRY_count l) (modLink l (modFlow rev fun f => { f with run := f.run + 1 }) s) := by
  unfold takeFlit
  dsimp only
  rcases h with ⟨hn, hg⟩ | ⟨hn, hr⟩
  · rw [if_neg (by omega), hg, Bool.and_false, if_neg Bool.false_ne_true, if_pos (by rw [decide_eq_true hn]; rfl)]
  · rw [if_neg (by omega), if_neg (by rw [decide_eq_false (by omega)]; exact Bool.false_ne_true), if_pos (by rw [hr]; simp)]

theorem takeFlit_drops {l : Nat} {rev good : Bool} {n : Nat} {y : Flit} {ack : Nat}
    (h : n < (flowOf (linkOf s l) rev).want ∨ ((flowOf (linkOf s l) rev).want < n ∧ (flowOf (linkOf s l) rev).run ≠ 0)) : takeFlit l rev n good y ack s = s := by
  unfold takeFlit
  dsimp only
  rcases h with hn | ⟨hn, hr⟩
  · rw [if_pos hn]
  · have hne : decide (n = (flowOf (linkOf s l) rev).want) = false := decide_eq_false (by omega)
    rw [if_neg (by omega), hne, Bool.false_and, if_neg Bool.false_ne_true, if_neg (by simpa using hr)]

/-- What the receiver of a flit that its sender sends finds of it. -/
abbrev flitGood (s : State) (l : Nat) (rev : Bool) (n : Nat) (y : Flit) (bad : List (Fin 68 × Fin 72)) : Prop :=
  parityFails (dirOf (linkOf s l) rev) (arrived s l rev n y bad) = [] ∧ crcHolds (flitData (arrived s l rev n y bad)) = true

theorem flitCrossed_link (l : Nat) (rev : Bool) (n : Nat) (y : Flit) (bad : List (Fin 68 × Fin 72)) (s : State) :
    linkOf (flitCrossed l rev n y bad s) l = crossed rev n y (parityFails (dirOf (linkOf s l) rev) (arrived s l rev n y bad)) s.ticks (linkOf s l) :=
  linkOf_modLink_self ..

theorem flitCrossed_flow (l : Nat) (rev : Bool) (n : Nat) (y : Flit) (bad : List (Fin 68 × Fin 72)) (s : State) :
    flowOf (linkOf (flitCrossed l rev n y bad s) l) rev = sentFlow n y (flowOf (linkOf s l) rev) := by
  rw [flitCrossed_link, crossed_flow]

/-- The flit expected, its checks good, is delivered (R342). -/
theorem flitReceive_delivers {l : Fin 8} {rev : Bool} {n : Nat} {x y : Flit} {bad : List (Fin 68 × Fin 72)} (hs : linkState s l = 2) (hu : unitsOn s = true)
    (h : flitSent (flowOf (linkOf s l) rev) n x = some y) (hn : n = (flowOf (linkOf s l) rev).want) (hg : flitGood s l rev n y bad) :
    Runs (.flitReceive l (if rev then .rev else .fwd) n x bad) s fun t =>
      flowOf (linkOf t l) rev = { sentFlow n y (flowOf (linkOf s l) rev) with want := n + 1, run := 0, got := some y } ∧
      flowOf (linkOf t l) (!rev) = acknowledge (flowOf (linkOf s l) (!rev)).want (flowOf (linkOf s l) (!rev)) ∧
      (linkOf t l).errs = errsAfter rev (parityFails (dirOf (linkOf s l) rev) (arrived s l rev n y bad)) s.ticks (linkOf s l) ∧ t = { s with links := t.links } := by
  obtain ⟨hpar, hcrc⟩ := hg
  have hgood : ((parityFails (dirOf (linkOf s l) rev) (arrived s l rev n y bad)).isEmpty && crcHolds (flitData (arrived s l rev n y bad))) = true := by
    rw [hpar, hcrc]
    rfl
  have hwant : n = (flowOf (linkOf (flitCrossed l rev n y bad s) l) rev).want := by rw [flitCrossed_flow, sentFlow_want, hn]
  have hexec := flitReceive_sent (bad := bad) hs hu h
  rw [hgood, takeFlit_delivers hwant] at hexec
  refine ⟨_, hexec, ?_, ?_, ?_, rfl⟩
  · rw [linkOf_modLink_self, flowOf_modFlow_not, flowOf_modFlow_self, flitCrossed_flow]
  · rw [linkOf_modLink_self, flowOf_modFlow_self, flowOf_modFlow_other, flitCrossed_link, crossed_other]
  · rw [linkOf_modLink_self, errs_modFlow, errs_modFlow, flitCrossed_link, crossed_errs]

/-- A flit in its turn that is bad, or the first beyond a gap: a replay is asked for (R342). -/
theorem flitReceive_asks {l : Fin 8} {rev : Bool} {n : Nat} {x y : Flit} {bad : List (Fin 68 × Fin 72)} (hs : linkState s l = 2) (hu : unitsOn s = true)
    (h : flitSent (flowOf (linkOf s l) rev) n x = some y)
    (hask : n = (flowOf (linkOf s l) rev).want ∧ ¬ flitGood s l rev n y bad ∨ (flowOf (linkOf s l) rev).want < n ∧ (flowOf (linkOf s l) rev).run = 0) :
    Runs (.flitReceive l (if rev then .rev else .fwd) n x bad) s fun t =>
      flowOf (linkOf t l) rev = { sentFlow n y (flowOf (linkOf s l) rev) with run := (flowOf (linkOf s l) rev).run + 1 } ∧
      flowOf (linkOf t l) (!rev) = flowOf (linkOf s l) (!rev) ∧
      (linkOf t l).errs = errsAfter rev (parityFails (dirOf (linkOf s l) rev) (arrived s l rev n y bad)) s.ticks (linkOf s l) ∧
      regGet t (K.LNK_RETRY_count l) = satInc max32 (regGet s (K.LNK_RETRY_count l)) ∧ t = { s with reg := t.reg, links := t.links } ∧
      RegsKept [K.LNK_RETRY_count l] s t := by
  have hflow := flitCrossed_flow l rev n y bad s
  have hask' : (n = (flowOf (linkOf (flitCrossed l rev n y bad s) l) rev).want ∧
      ((parityFails (dirOf (linkOf s l) rev) (arrived s l rev n y bad)).isEmpty && crcHolds (flitData (arrived s l rev n y bad))) = false) ∨
      ((flowOf (linkOf (flitCrossed l rev n y bad s) l) rev).want < n ∧ (flowOf (linkOf (flitCrossed l rev n y bad s) l) rev).run = 0) := by
    rw [hflow, sentFlow_want, sentFlow_run]
    refine hask.imp (fun hb => ⟨hb.1, ?_⟩) id
    rw [← Bool.not_eq_true, Bool.and_eq_true_iff, List.isEmpty_iff]
    exact hb.2
  refine ⟨_, (flitReceive_sent hs hu h).trans (congrArg Host.Outcome.next (takeFlit_asks hask')), ?_, ?_, ?_, regGet_regInc_self .., rfl,
    kept_inc (by simp) (kept_reg (t := s) rfl (kept_refl _ s))⟩
  · rw [linkOf_regInc, linkOf_modLink_self, flowOf_modFlow_self, hflow]
    unfold sentFlow
    split <;> rfl
  · rw [linkOf_regInc, linkOf_modLink_self, flowOf_modFlow_other, flitCrossed_link, crossed_other]
  · rw [linkOf_regInc, linkOf_modLink_self, errs_modFlow, flitCrossed_link, crossed_errs]

/-- A flit seen before, or beyond a gap whose replay is awaited: nothing follows (R342). -/
theorem flitReceive_drops {l : Fin 8} {rev : Bool} {n : Nat} {x y : Flit} {bad : List (Fin 68 × Fin 72)} (hs : linkState s l = 2) (hu : unitsOn s = true)
    (h : flitSent (flowOf (linkOf s l) rev) n x = some y)
    (hdrop : n < (flowOf (linkOf s l) rev).want ∨ (flowOf (linkOf s l) rev).want < n ∧ (flowOf (linkOf s l) rev).run ≠ 0) :
    Runs (.flitReceive l (if rev then .rev else .fwd) n x bad) s fun t =>
      flowOf (linkOf t l) rev = sentFlow n y (flowOf (linkOf s l) rev) ∧ flowOf (linkOf t l) (!rev) = flowOf (linkOf s l) (!rev) ∧
      (linkOf t l).errs = errsAfter rev (parityFails (dirOf (linkOf s l) rev) (arrived s l rev n y bad)) s.ticks (linkOf s l) ∧ t = { s with links := t.links } := by
  have hflow := flitCrossed_flow l rev n y bad s
  have hdrop' : n < (flowOf (linkOf (flitCrossed l rev n y bad s) l) rev).want ∨
      ((flowOf (linkOf (flitCrossed l rev n y bad s) l) rev).want < n ∧ (flowOf (linkOf (flitCrossed l rev n y bad s) l) rev).run ≠ 0) := by
    rw [hflow, sentFlow_want, sentFlow_run]
    exact hdrop
  refine ⟨_, (flitReceive_sent hs hu h).trans (congrArg Host.Outcome.next (takeFlit_drops hdrop')), hflow, ?_, ?_, rfl⟩
  · rw [flitCrossed_link, crossed_other]
  · rw [flitCrossed_link, crossed_errs]

end Sys2Proof.Machine
end

section
/-! PROOFS. Lane health: replays without end, lanes over the threshold, spares and narrower widths (R342 to R347). -/

namespace Sys2Proof.Machine

variable {s t u : State}

/-! A retrain begins -/

/-- A link that retrains for a cause: its replays are counted anew (R362). -/
abbrev retraining (cause : Nat) (k : Link) : Link := { k with flowF := { k.flowF with run := 0 }, flowR := { k.flowR with run := 0 }, retrain := some cause }

theorem startRetrain_link (l cause : Nat) (s : State) : linkOf (startRetrain l cause s) l = retraining cause (linkOf s l) :=
  (linkOf_regSet ..).trans (linkOf_modLink_self ..)

theorem startRetrain_state (l cause : Nat) (s : State) : linkState (startRetrain l cause s) l = 1 := regGet_regSet_self ..

theorem startRetrain_other {l q : Nat} (cause : Nat) (h : q ≠ l) (s : State) : linkOf (startRetrain l cause s) q = linkOf s q ∧
    linkState (startRetrain l cause s) q = linkState s q := by
  refine ⟨(linkOf_regSet ..).trans (linkOf_modLink_ne (s := s) _ h), regGet_regSet_ne _ _ ?_⟩
  unfold K.LNK_STATUS_state fieldKey
  omega

theorem startRetrain_linkOnly (l cause : Nat) (s : State) : LinkOnly s (startRetrain l cause s) := .set _ _ (.mod _ _ (.refl s))

theorem startRetrain_kept (l cause : Nat) (s : State) : RegsKept [K.LNK_STATUS_state l] s (startRetrain l cause s) :=
  kept_set (by simp) (kept_reg (t := s) rfl (kept_refl _ s))

/-! Replays without end -/

theorem lanesNot_mem {m p : Nat} (hp : p < 68) : p ∈ lanesNot m ↔ bitOf m p = false := by
  rw [lanesNot, List.mem_filter, List.mem_range, Bool.not_eq_true']
  exact and_iff_right hp

theorem bitOf_toNat {n : Nat} (v : BitVec n) (p : Nat) : bitOf v.toNat p = v.getLsbD p := bitOf_testBit ..

/-- The lanes that a retrain for replays measures bad are lost. -/
abbrev measured (l f r : Nat) (s : State) : State := loseLanes l true (lanesNot r) (loseLanes l false (lanesNot f) s)

theorem measured_parts (l : Nat) (f r : BitVec 68) (s : State) :
    let k := linkOf (measured l f.toNat r.toNat s) l
    (∀ p < 68, bitOf k.fwd.good p = (bitOf (linkOf s l).fwd.good p && f.getLsbD p) ∧ bitOf k.rev.good p = (bitOf (linkOf s l).rev.good p && r.getLsbD p)) ∧
    k.retrain = (linkOf s l).retrain ∧ linkState (measured l f.toNat r.toNat s) l = linkState s l := by
  intro k
  obtain ⟨⟨hgoodF, hotherF, hretF⟩, -, hkF⟩ := loseLanes_parts l false (lanesNot f.toNat) s
  obtain ⟨⟨hgoodR, hotherR, hretR⟩, -, hkR⟩ := loseLanes_parts l true (lanesNot r.toNat) (loseLanes l false (lanesNot f.toNat) s)
  have hfwd : k.fwd = (linkOf (loseLanes l false (lanesNot f.toNat) s) l).fwd := hotherR
  have hrev : (linkOf (loseLanes l false (lanesNot f.toNat) s) l).rev = (linkOf s l).rev := hotherF
  have hlost {m : BitVec 68} {p : Nat} (hp : p < 68) (v : Bool) : (if p ∈ lanesNot m.toNat then false else v) = (v && m.getLsbD p) := by
    have hmem : p ∈ lanesNot m.toNat ↔ m.getLsbD p = false := by rw [lanesNot_mem hp, bitOf_toNat]
    cases hb : m.getLsbD p
    · rw [if_pos (hmem.2 hb), Bool.and_false]
    · rw [if_neg fun h => by rw [hmem.1 h] at hb; exact absurd hb (by decide), Bool.and_true]
  refine ⟨fun p hp => ⟨?_, ?_⟩, hretR.trans hretF, (hkR _ (by grind)).trans (hkF _ (by grind))⟩
  · rw [hfwd, ← hlost hp]
    exact hgoodF p
  · rw [← hrev, ← hlost hp]
    exact hgoodR p

theorem replayLimit_exec {l : Fin 8} {f r : BitVec 68} (hs : linkState s l = 2) (hu : unitsOn s = true) (h : 8 ≤ (linkOf s l).flowF.run ∨ 8 ≤ (linkOf s l).flowR.run) :
    exec (.replayLimit l f r) s = .next (if linkState (judgeLink l (measured l f.toNat r.toNat s)) l = 2
      then startRetrain l 0 (judgeLink l (measured l f.toNat r.toNat s)) else judgeLink l (measured l f.toNat r.toNat s)) := by
  have hrun : (decide ((linkOf s l).flowF.run < 8) && decide ((linkOf s l).flowR.run < 8)) = false := by
    rcases h with h | h
    · rw [decide_eq_false (by omega), Bool.false_and]
    · rw [decide_eq_false (p := (linkOf s l).flowR.run < 8) (by omega), Bool.and_false]
  refine congrArg Host.Outcome.next (if_neg ?_)
  rw [hs, hu, hrun]
  decide

theorem replayLimit_idle {l : Fin 8} {f r : BitVec 68} (h : linkState s l ≠ 2 ∨ unitsOn s = false ∨ ((linkOf s l).flowF.run < 8 ∧ (linkOf s l).flowR.run < 8)) :
    exec (.replayLimit l f r) s = .next s := by
  refine congrArg Host.Outcome.next (if_pos ?_)
  rcases h with h | h | ⟨hf, hr⟩
  · rw [decide_eq_true h]
    rfl
  · rw [h, Bool.not_false, Bool.or_true]
    rfl
  · rw [decide_eq_true hf, decide_eq_true hr, Bool.and_self, Bool.or_true]

/-- The outcome of eight replays in a row: the link retrains, or has too few lanes left (R342, R346). -/
theorem replayLimit_parts {l : Fin 8} {f r : BitVec 68} (hs : linkState s l = 2) (hu : unitsOn s = true) (hn : (linkOf s l).retrain = none)
    (h : 8 ≤ (linkOf s l).flowF.run ∨ 8 ≤ (linkOf s l).flowR.run) : Runs (.replayLimit l f r) s fun t =>
      (∀ p < 68, bitOf (linkOf t l).fwd.good p = (bitOf (linkOf s l).fwd.good p && f.getLsbD p) ∧ bitOf (linkOf t l).rev.good p = (bitOf (linkOf s l).rev.good p && r.getLsbD p)) ∧
      (if 16 ≤ goodLanes (linkOf t l).fwd ∧ 16 ≤ goodLanes (linkOf t l).rev then linkState t l = 1 ∧ (linkOf t l).retrain = some 0 ∧
        (linkOf t l).flowF.run = 0 ∧ (linkOf t l).flowR.run = 0 else linkState t l = 3) := by
  refine ⟨_, replayLimit_exec hs hu h, ?_⟩
  obtain ⟨hgood, hret, hstate⟩ := measured_parts l f r s
  generalize measured l f.toNat r.toNat s = v at *
  by_cases hl : 16 ≤ goodLanes (linkOf v l).fwd ∧ 16 ≤ goodLanes (linkOf v l).rev
  · rw [judgeLink_shows (.inr hl), showLink_state, hstate, if_pos hs]
    rw [startRetrain_link, showLink_linkOf]
    refine ⟨hgood, ?_⟩
    dsimp only
    rw [if_pos hl]
    exact ⟨startRetrain_state .., rfl, rfl, rfl⟩
  · obtain ⟨hfail, hlink, -⟩ := judgeLink_failed (s := v) (l := l) (hret.trans hn) (by omega)
    rw [if_neg (by rw [hfail]; decide)]
    rw [hlink, hfail]
    refine ⟨hgood, ?_⟩
    dsimp only
    rw [if_neg hl]

/-! Lanes over the threshold -/

theorem laneErrors_idle {l : Fin 10} {rev : Bool} {p : Fin 68} {n : Nat} (h : errsOf s l rev p + n ≤ laneLimit s ∨ unitsOn s = false) :
    exec (.laneErrorThreshold l (if rev then .rev else .fwd) p n) s = .next s := by
  change Host.Outcome.next (laneErrors l (isRev _) p n s) = _
  rw [isRev_dir, laneErrors]
  refine congrArg Host.Outcome.next (if_pos ?_)
  rcases h with h | h
  · rw [decide_eq_true h, Bool.true_or]
  · rw [h, Bool.not_false, Bool.or_true]

theorem laneErrors_exec {l : Fin 10} {rev : Bool} {p : Fin 68} {n : Nat} (h : laneLimit s < errsOf s l rev p + n) (hu : unitsOn s = true) :
    exec (.laneErrorThreshold l (if rev then .rev else .fwd) p n) s = .next (if 8 ≤ l.val then islandLink l rev p s
      else if (linkState s l = 0 || linkState s l = 3 || !bitOf (dirOf (linkOf s l) rev).good p) = true then s else judgeLink l (loseLanes l rev [p.val] s)) := by
  change Host.Outcome.next (laneErrors l (isRev _) p n s) = _
  rw [isRev_dir, laneErrors]
  refine congrArg Host.Outcome.next (if_neg ?_)
  rw [hu, decide_eq_false (by omega)]
  decide

/-- A good lane lost. -/
theorem loseLane_one {l p : Nat} {rev : Bool} (h : bitOf (dirOf (linkOf s l) rev).good p = true) : loseLanes l rev [p] s =
    regSet (K.LNK_LANE_ERR_lane l) p (regSet (K.LNK_LANE_ERR_dir l) rev.toNat (modLink l (lostLane rev p) s)) := by
  have hone : goodOf s l rev [p] = [p] := by rw [goodOf, List.filter_singleton, h]; rfl
  rw [loseLanes_fold, hone]
  rfl

theorem loseLane_link {l p : Nat} {rev : Bool} (h : bitOf (dirOf (linkOf s l) rev).good p = true) : linkOf (loseLanes l rev [p] s) l = lostLane rev p (linkOf s l) := by
  rw [loseLane_one h, linkOf_regSet, linkOf_regSet, linkOf_modLink_self]

theorem laneKeys_notMem_judgeKeys (l : Nat) : K.LNK_LANE_ERR_lane l ∉ judgeKeys l ∧ K.LNK_LANE_ERR_dir l ∉ judgeKeys l := by
  simp only [List.cons_append, List.nil_append, List.mem_cons, List.not_mem_nil, or_false, not_or]
  unfold K.LNK_LANE_ERR_lane K.LNK_LANE_ERR_dir K.LNK_STATUS_state K.LNK_STATUS_width_fwd K.LNK_STATUS_width_rev K.LNK_STATUS_extra_fwd K.LNK_STATUS_extra_rev
    K.LNK_EPOCH_epoch K.ID_DIES_in_service K.BOOT_STATUS_phase K.BOOT_STATUS_code K.FAULT_LAST_source K.FAULT_COUNT_c K.FAULT_COUNT_d fieldKey
  omega

/-- What a judgement leaves of a link: its directions; and of the registers what it may write. -/
theorem judgeLink_keeps (l : Nat) (s : State) : (∀ rev, dirOf (linkOf (judgeLink l s) l) rev = dirOf (linkOf s l) rev) ∧ RegsKept (judgeKeys l) s (judgeLink l s) := by
  by_cases hn : (linkOf s l).retrain = none ∧ (goodLanes (linkOf s l).fwd < 16 ∨ goodLanes (linkOf s l).rev < 16)
  · obtain ⟨-, hlink, hk⟩ := judgeLink_failed hn.1 hn.2
    rw [hlink]
    exact ⟨fun rev => by cases rev <;> rfl, hk⟩
  · have hshow : (linkOf s l).retrain.isSome = true ∨ (16 ≤ goodLanes (linkOf s l).fwd ∧ 16 ≤ goodLanes (linkOf s l).rev) := by
      cases hr : (linkOf s l).retrain with
      | some c => exact .inl rfl
      | none => exact .inr (by have := not_and.1 hn hr; omega)
    rw [judgeLink_shows hshow]
    refine ⟨fun rev => by rw [showLink_linkOf], fun k hk => showLink_kept l s k fun hm => hk ?_⟩
    exact List.mem_cons_of_mem _ (List.mem_append_right _ hm)

/-- A lane over the threshold leaves the good set; too few lanes left fail the link (R343, R346). -/
theorem laneErrors_parts {l : Fin 10} {rev : Bool} {p : Fin 68} {n : Nat} (h : laneLimit s < errsOf s l rev p + n) (hu : unitsOn s = true)
    (hb : bitOf (dirOf (linkOf s l) rev).good p = true) (hl : l.val < 8) (hs : linkState s l = 1 ∨ linkState s l = 2) :
    Runs (.laneErrorThreshold l (if rev then .rev else .fwd) p n) s fun t =>
      bitOf (dirOf (linkOf t l) rev).good p = false ∧ regGet t (K.LNK_LANE_ERR_lane l) = p ∧ regGet t (K.LNK_LANE_ERR_dir l) = rev.toNat ∧
      (16 ≤ goodLanes (linkOf t l).fwd → 16 ≤ goodLanes (linkOf t l).rev → linkState t l = linkState s l ∧
        ((dirOf (linkOf s l) rev).map.contains p.val = true → (linkOf t l).left = (linkOf s l).left ++ [(rev, p.val)])) ∧
      ((linkOf s l).retrain = none → (goodLanes (linkOf t l).fwd < 16 ∨ goodLanes (linkOf t l).rev < 16) → linkState t l = 3) := by
  have hgo : ¬ (linkState s l = 0 || linkState s l = 3 || !bitOf (dirOf (linkOf s l) rev).good p) = true := by
    rw [hb]
    rcases hs with h | h <;> rw [h] <;> decide
  refine ⟨_, (laneErrors_exec h hu).trans (congrArg Host.Outcome.next ((if_neg (by omega)).trans (if_neg hgo))), ?_⟩
  obtain ⟨hlane, hdir⟩ := laneKeys_notMem_judgeKeys l
  have hlink := loseLane_link (l := l) hb
  have hreg := loseLane_one (l := l) hb
  have hstate : linkState (loseLanes l rev [p.val] s) l = linkState s l := (loseLanes_parts l rev [p.val] s).2.2 _ (by grind)
  obtain ⟨hdirs, hk⟩ := judgeLink_keeps l (loseLanes l rev [p.val] s)
  have hfwd : (linkOf (judgeLink l (loseLanes l rev [p.val] s)) l).fwd = (lostLane rev p (linkOf s l)).fwd := (hdirs false).trans (by rw [hlink]; rfl)
  have hrev : (linkOf (judgeLink l (loseLanes l rev [p.val] s)) l).rev = (lostLane rev p (linkOf s l)).rev := (hdirs true).trans (by rw [hlink]; rfl)
  refine ⟨?_, ?_, ?_, fun hF hR => ?_, fun hn hfew => ?_⟩
  · rw [hdirs, hlink, lostLane_dir, bitOf_withBit, if_pos rfl]
  · rw [hk _ hlane, hreg, regGet_regSet_self]
  · rw [hk _ hdir, hreg, regGet_regSet_ne _ _ (by grind), regGet_regSet_self]
  · rw [hfwd] at hF
    rw [hrev] at hR
    rw [judgeLink_shows (.inr (by rw [hlink]; exact ⟨hF, hR⟩)), showLink_state, showLink_linkOf, hstate, hlink]
    exact ⟨rfl, lostLane_left⟩
  · rw [hfwd, hrev] at hfew
    exact (judgeLink_failed (by rw [hlink, lostLane_retrain, hn]) (by rw [hlink]; exact hfew)).1

end Sys2Proof.Machine
end

section
/-! PROOFS. Link records, spares, width steps; the lanes of an island link (R316, R344 to R347). -/

namespace Sys2Proof.Machine

variable {s t u : State}

/-! The lanes of an island link -/

theorem unitsOn_powered (h : unitsOn s = true) : powered s = true := (Bool.and_eq_true_iff.1 h).1

/-- An island link that has lost a lane, told. -/
def islandLane (l : Nat) (rev : Bool) (lane : Nat) (s : State) : State :=
  let s := modLink l (modDir rev fun d => { d with good := withBit d.good lane false }) s
  raiseFault .manager ⟨0x0303, 3, true, linkNode l rev, l, popCount 8 (dirOf (linkOf s l) rev).good, 0⟩ s

theorem islandLane_keeps (l : Nat) (rev : Bool) (lane : Nat) (s : State) : (∀ i, islOf (islandLane l rev lane s) i = islOf s i) ∧
    (∀ i, islState (islandLane l rev lane s) i = islState s i) ∧ powered (islandLane l rev lane s) = powered s :=
  ⟨fun i => islOf_congr (raiseFault_isl ..) i, fun i => islState_raiseFault _ _ _ i, powered_congr (raiseFault_op ..) (raiseFault_boot ..)⟩

/-- A lane of an island link lost: the link has no spare, its island is lost (R316, R346). -/
theorem islandLink_loses {l p : Nat} {rev : Bool} (hu : unitsOn s = true) (hp : p < 8) (hb : bitOf (dirOf (linkOf s l) rev).good p = true)
    (hr : islRuns s (otherIsl (if l = 8 then .a else .b)) = true) : (islOf (islandLink l rev p s) (if l = 8 then .a else .b)).lost = true := by
  have hgo : islandLink l rev p s = loseIsl (if l = 8 then .a else .b) (islandLane l rev p s) := by
    refine if_neg ?_
    rw [hb, unitsOn_powered hu, decide_eq_false (by omega)]
    decide
  obtain ⟨hof, hstate, hpow⟩ := islandLane_keeps l rev p s
  rw [hgo]
  generalize (if l = 8 then Isl.a else Isl.b) = i at *
  cases hl : (islOf (islandLane l rev p s) i).lost
  · exact (loseIsl_parts (hpow.trans (unitsOn_powered hu)) ((islRuns_congr (hstate _) (hof _)).trans hr) hl).2.1
  · have hsame : loseIsl i (islandLane l rev p s) = islandLane l rev p s := if_pos (by rw [hl]; rfl)
    rw [hsame, hl]

/-! Link records -/

/-- Only the link records of the always-on block differ. -/
def RecordsOnly (s t : State) : Prop := t = { s with kept := { s.kept with records := t.kept.records } }

theorem writeEnd_recordsOnly (l fin : Nat) (rev : Bool) (s : State) : RecordsOnly s (writeEnd l fin rev s) := by
  by_cases h : endWrites s (if fin = 0 then (linkEnds l).1 else (linkEnds l).2) = true
  · rw [writeEnd, if_pos h]
    rfl
  · rw [writeEnd, if_neg h]
    rfl

theorem RecordsOnly.trans (h : RecordsOnly s t) (g : RecordsOnly t u) : RecordsOnly s u := by
  obtain ⟨records, rfl⟩ : ∃ records, t = { s with kept := { s.kept with records := records } } := ⟨_, h⟩
  exact g

theorem RecordsOnly.linkOf (h : RecordsOnly s t) (l : Nat) : linkOf t l = linkOf s l := by
  rw [h]
  rfl

theorem RecordsOnly.reg (h : RecordsOnly s t) : t.reg = s.reg := by rw [h]

theorem RecordsOnly.endWrites (h : RecordsOnly s t) (d : Nat) : endWrites t d = endWrites s d := by
  rw [h]
  rfl

theorem writeRecord_recordsOnly (l : Nat) (rev : Bool) (s : State) : RecordsOnly s (writeRecord l rev s) := (writeEnd_recordsOnly ..).trans (writeEnd_recordsOnly ..)

/-- The end of a link, by its number. -/
abbrev endOf (l fin : Nat) : Nat := if fin = 0 then (linkEnds l).1 else (linkEnds l).2

theorem writeEnd_record (l fin q : Nat) (rev : Bool) (s : State) : tget LinkDir.init q (writeEnd l fin rev s).kept.records =
    if q = recordKey l fin rev ∧ endWrites s (endOf l fin) = true then dirOf (linkOf s l) rev else tget LinkDir.init q s.kept.records := by
  unfold writeEnd
  by_cases h : endWrites s (endOf l fin) = true
  · rw [if_pos h]
    by_cases hq : q = recordKey l fin rev
    · rw [if_pos ⟨hq, h⟩, hq]
      exact tget_tset_self ..
    · rw [if_neg fun hn => hq hn.1]
      exact tget_tset_ne _ _ _ hq _
  · rw [if_neg h, if_neg fun hn => h hn.2]

/-- Both ends' records follow the direction where their stewards can write (R347). -/
theorem writeRecord_records (l fin : Nat) (hf : fin < 2) (rev : Bool) (s : State) : tget LinkDir.init (recordKey l fin rev) (writeRecord l rev s).kept.records =
    if endWrites s (endOf l fin) = true then dirOf (linkOf s l) rev else tget LinkDir.init (recordKey l fin rev) s.kept.records := by
  have hfirst := writeEnd_recordsOnly l 0 rev s
  have hne : recordKey l 0 rev ≠ recordKey l 1 rev := by
    unfold recordKey
    omega
  rw [writeRecord, writeEnd_record, writeEnd_record, hfirst.endWrites, hfirst.linkOf]
  rcases (by omega : fin = 0 ∨ fin = 1) with rfl | rfl
  · rw [if_neg fun h => hne h.1]
    simp only [true_and]
  · rw [if_neg fun h : recordKey l 1 rev = recordKey l 0 rev ∧ _ => hne h.1.symm]
    simp only [true_and]

/-! Spares -/

/-- A logical lane moved to a spare (R344). -/
def spared (rev : Bool) (lane q : Nat) (k : Link) : Link :=
  let k := modDir rev (fun d => { d with map := d.map.map fun x => if x = lane then q else x, epoch := (d.epoch + 1) % 2 ^ 32 }) k
  { k with left := k.left.filter (· != (rev, lane)) }

theorem spared_dir (rev : Bool) (lane q : Nat) (k : Link) : dirOf (spared rev lane q k) rev =
    { dirOf k rev with map := (dirOf k rev).map.map (fun x => if x = lane then q else x), epoch := ((dirOf k rev).epoch + 1) % 2 ^ 32 } := by cases rev <;> rfl

theorem spared_left (rev : Bool) (lane q : Nat) (k : Link) : (spared rev lane q k).left = k.left.filter (· != (rev, lane)) := by cases rev <;> rfl

/-- A lane spared, before its event: both ends' records show it. -/
abbrev sparedState (l : Nat) (rev : Bool) (lane q : Nat) (s : State) : State := writeRecord l rev (showLink l (modLink l (spared rev lane q) s))

theorem sparedState_link (l : Nat) (rev : Bool) (lane q : Nat) (s : State) : linkOf (sparedState l rev lane q s) l = spared rev lane q (linkOf s l) := by
  rw [(writeRecord_recordsOnly ..).linkOf, showLink_linkOf, linkOf_modLink_self]

theorem laneSpared_exec {l : Fin 8} {rev : Bool} {p : Fin 68} {q : Nat} {qs : List Nat} (hs : linkState s l = 2) (hu : unitsOn s = true)
    (hl : (linkOf s l).left.contains (rev, p.val) = true) (hq : spares (dirOf (linkOf s l) rev) = q :: qs) : exec (.laneSpared l (if rev then .rev else .fwd) p) s = .next
      (raise .manager ⟨0x0301, 1, false, linkNode l rev, l, rev.toNat + p.val * 256, (dirOf (linkOf (sparedState l rev p q s) l) rev).epoch⟩ (sparedState l rev p q s)) := by
  change Host.Outcome.next (spareLane l (isRev _) p s) = _
  rw [isRev_dir, spareLane]
  dsimp only
  rw [if_neg (by rw [hs, hu, hl]; decide), hq]
  rfl

theorem sparedState_frame (l : Nat) (rev : Bool) (lane q : Nat) (s : State) : sparedState l rev lane q s =
    { s with reg := (sparedState l rev lane q s).reg, links := (sparedState l rev lane q s).links, kept := { s.kept with records := (sparedState l rev lane q s).kept.records } } := by
  have hrec := writeRecord_recordsOnly l rev (showLink l (modLink l (spared rev lane q) s))
  obtain ⟨reg, hshow⟩ : ∃ reg, showLink l (modLink l (spared rev lane q) s) = { modLink l (spared rev lane q) s with reg := reg } := ⟨_, showLink_regOnly ..⟩
  have h : sparedState l rev lane q s = _ := hrec
  rw [h, hshow]
  rfl

theorem dies_notMem_showKeys (l : Nat) : K.ID_DIES_in_service ∉ showKeys l := by
  simp only [List.mem_cons, List.not_mem_nil, or_false, not_or]
  unfold K.ID_DIES_in_service K.LNK_STATUS_width_fwd K.LNK_STATUS_width_rev K.LNK_STATUS_extra_fwd K.LNK_STATUS_extra_rev K.LNK_EPOCH_epoch fieldKey
  omega

theorem endWrites_spared (l : Nat) (rev : Bool) (lane q d : Nat) (s : State) : endWrites (showLink l (modLink l (spared rev lane q) s)) d = endWrites s d := by
  have hdie : dieIn (showLink l (modLink l (spared rev lane q) s)) d = dieIn s d := dieIn_congr (showLink_kept l _ _ (dies_notMem_showKeys l)) d
  obtain ⟨reg, hshow⟩ : ∃ reg, showLink l (modLink l (spared rev lane q) s) = { modLink l (spared rev lane q) s with reg := reg } := ⟨_, showLink_regOnly ..⟩
  rw [endWrites, hdie, hshow]
  rfl

/-! Width steps -/

/-- A direction stepped down (R345). -/
def stepped (rev : Bool) (k : Link) : Link :=
  let k := modDir rev (fun d => freshDir d.good (widthFor (goodLanes d)) ((d.epoch + 1) % 2 ^ 32)) k
  { k with left := k.left.filter fun x => x.1 != rev }

theorem stepped_dir (rev : Bool) (k : Link) : dirOf (stepped rev k) rev =
    ⟨widthFor (goodLanes (dirOf k rev)), newMap (dirOf k rev).good (widthFor (goodLanes (dirOf k rev))), (dirOf k rev).good, ((dirOf k rev).epoch + 1) % 2 ^ 32⟩ := by
  cases rev <;> rfl

theorem stepped_other (rev : Bool) (k : Link) : dirOf (stepped rev k) (!rev) = dirOf k (!rev) := by cases rev <;> rfl

theorem stepped_left (rev : Bool) (k : Link) : (stepped rev k).left = k.left.filter fun x => x.1 != rev := by cases rev <;> rfl

theorem stepDir_link (l : Nat) (rev : Bool) (s : State) : linkOf (stepDir l rev s) l = if stepDue (linkOf s l) rev = true then stepped rev (linkOf s l) else linkOf s l := by
  unfold stepDir
  cases h : stepDue (linkOf s l) rev
  · rw [if_pos (by rfl), if_neg Bool.false_ne_true]
  · rw [if_neg (by decide), if_pos rfl]
    refine (linkOf_congr (raiseFault_links ..) l).trans ?_
    rw [(writeRecord_recordsOnly ..).linkOf, showLink_linkOf, linkOf_modLink_self]
    rfl

/-- A step of one direction leaves the other due where it was. -/
theorem stepDue_stepped (rev : Bool) (k : Link) : stepDue (stepped (!rev) k) rev = stepDue k rev := by
  have hdir : dirOf (stepped (!rev) k) rev = dirOf k rev := by
    have h := stepped_other (!rev) k
    rwa [Bool.not_not] at h
  have hany : ((k.left.filter fun x => x.1 != !rev).any fun x => x.1 == rev) = k.left.any fun x => x.1 == rev := by
    rw [List.any_filter]
    refine congrArg (fun p => k.left.any p) (funext fun x => ?_)
    cases x.1 <;> cases rev <;> rfl
  rw [stepDue, hdir, stepped_left, hany, stepDue]

/-- A direction that was due has stepped, whatever the other did (R345, R346). -/
theorem stepDir_both {l : Nat} {rev : Bool} (h : stepDue (linkOf s l) rev = true) : dirOf (linkOf (stepDir l true (stepDir l false s)) l) rev = dirOf (stepped rev (linkOf s l)) rev := by
  have hfirst := stepDir_link l false s
  have hsecond := stepDir_link l true (stepDir l false s)
  cases rev
  · rw [if_pos h] at hfirst
    rw [hsecond, hfirst]
    split
    · exact stepped_other true _
    · rfl
  · have hdue : stepDue (linkOf (stepDir l false s) l) true = true := by
      rw [hfirst]
      split
      · exact (stepDue_stepped true _).trans h
      · exact h
    have hsame : dirOf (linkOf (stepDir l false s) l) true = dirOf (linkOf s l) true := by
      rw [hfirst]
      split
      · exact stepped_other false _
      · rfl
    rw [hsecond, if_pos hdue, stepped_dir, hsame, stepped_dir]

/-! The statement -/

/-- Settles O51: flits by `flitReceive_delivers`, `flitReceive_asks` and `flitReceive_drops`; lanes by `replayLimit_parts`, `laneErrors_parts` and `islandLink_loses`; spares and steps by the
records that `writeRecord_records` gives and by `stepDir_both`. -/
theorem linkHealth : Obligations.LinkHealth := by
  unfold Obligations.LinkHealth
  refine ⟨fun w seq ack x hw => ⟨crcHolds_flitBytes seq ack x, flitData_flitWire w seq ack x (by omega), fun m g e => ?_⟩, ?_, fun l f r s hs hu hn h => replayLimit_parts hs hu hn h,
    fun l f r s h => replayLimit_idle h, ?_, fun l rev p q qs s hs hu hl hq => ?_, fun l rev s hs hu => ⟨fun h => ?_, fun h => ?_⟩⟩
  · rcases hw with rfl | rfl | rfl | rfl
    · exact parityFails_flitWire ⟨16, m, g, e⟩ 71 seq ack x rfl (Nat.le_of_ble_eq_true rfl)
    · exact parityFails_flitWire ⟨32, m, g, e⟩ 35 seq ack x rfl (Nat.le_of_ble_eq_true rfl)
    · exact parityFails_flitWire ⟨48, m, g, e⟩ 23 seq ack x rfl (Nat.le_of_ble_eq_true rfl)
    · exact parityFails_flitWire ⟨64, m, g, e⟩ 17 seq ack x rfl (Nat.le_of_ble_eq_true rfl)
  · intro l rev n x y bad s hs hu
    exact ⟨flitReceive_none hs hu, fun h => ⟨flitReceive_delivers hs hu h, flitReceive_asks hs hu h, flitReceive_drops hs hu h⟩⟩
  · intro l rev p n s
    refine ⟨fun h => laneErrors_idle h, fun h hu hb => ⟨fun hl hs => laneErrors_parts h hu hb hl hs, ?_⟩⟩
    intro hl hp i hr
    exact ⟨_, (laneErrors_exec h hu).trans (congrArg Host.Outcome.next (if_pos hl)), islandLink_loses hu hp hb hr⟩
  · have hlink := sparedState_link l rev p q s
    have hepoch : (dirOf (linkOf (sparedState l rev p q s) l) rev).epoch = ((dirOf (linkOf s l) rev).epoch + 1) % 2 ^ 32 := by rw [hlink, spared_dir]
    refine ⟨_, laneSpared_exec hs hu hl hq, sparedState l rev p q s, by rw [hepoch], ?_, ?_, fun fin hf => ?_, sparedState_frame ..⟩
    · rw [hlink, spared_dir]
    · rw [hlink, spared_left]
    · rw [sparedState, writeRecord_records l fin hf, endWrites_spared, (writeRecord_recordsOnly ..).linkOf, showLink_regOnly]
      rfl
  · have hexec : exec (.linkNarrowed l (if rev then .rev else .fwd)) s = .next (startRetrain l 1 (stepDir l true (stepDir l false s))) := by
      change Host.Outcome.next (if (linkState s l ≠ 2 || !unitsOn s || !stepDue (linkOf s l) (isRev _)) = true then s else _) = _
      rw [isRev_dir, if_neg (by rw [hs, hu, h]; decide)]
    refine ⟨_, hexec, startRetrain_state .., ?_, ?_⟩
    · rw [startRetrain_link]
    · rw [startRetrain_link]
      have hdir : dirOf (retraining 1 (linkOf (stepDir l true (stepDir l false s)) l)) rev = dirOf (linkOf (stepDir l true (stepDir l false s)) l) rev := by cases rev <;> rfl
      rw [hdir, stepDir_both h, stepped_dir]
  · change Host.Outcome.next (if (linkState s l ≠ 2 || !unitsOn s || !stepDue (linkOf s l) (isRev _)) = true then s else _) = _
    rw [isRev_dir, if_pos (by rw [h, Bool.not_false, Bool.or_true])]

end Sys2Proof.Machine
end

section
/-! PROOFS. Retraining links on request and on completion (R345, R346, R349, R362). -/

namespace Sys2Proof.Machine

variable {s t u : State}

/-! Full retrains on request -/

/-- Whether a link that a write names takes up a full retrain (R349). -/
abbrev takesUp (s : State) (mask l : Nat) : Bool := bitOf mask l && (linkOf s l).retrain.isNone && (linkState s l == 2 || linkState s l == 3)

theorem RegOnly.trans (h : RegOnly s t) (g : RegOnly t u) : RegOnly s u := by
  obtain ⟨reg, rfl⟩ : ∃ reg, t = { s with reg := reg } := ⟨_, h⟩
  exact g

theorem foldl_request (mask : Nat) (ls : List Nat) (hn : ls.Nodup) (s : State) :
    let t := ls.foldl (fun s l => if takesUp s mask l then startRetrain l 3 s else s) s
    (∀ l, if l ∈ ls ∧ takesUp s mask l = true then linkState t l = 1 ∧ linkOf t l = retraining 3 (linkOf s l) else linkState t l = linkState s l ∧ linkOf t l = linkOf s l) ∧
    LinkOnly s t ∧ RegsKept (ls.map K.LNK_STATUS_state) s t := by
  induction ls generalizing s with
  | nil => exact ⟨fun l => by rw [if_neg fun h => List.not_mem_nil h.1]; exact ⟨rfl, rfl⟩, .refl s, kept_refl _ s⟩
  | cons q ls ih =>
    obtain ⟨hq, hn⟩ := List.nodup_cons.1 hn
    rw [List.foldl_cons]
    by_cases ht : takesUp s mask q = true
    · rw [if_pos ht]
      obtain ⟨hl, hframe, hk⟩ := ih hn (startRetrain q 3 s)
      have hkq := startRetrain_kept q 3 s
      refine ⟨fun l => ?_, (startRetrain_linkOnly q 3 s).trans hframe, fun k hm => ?_⟩
      · have h := hl l
        by_cases hlq : l = q
        · subst hlq
          rw [if_neg fun h => hq h.1] at h
          rw [if_pos ⟨List.mem_cons_self, ht⟩, h.1, h.2]
          exact ⟨startRetrain_state .., startRetrain_link ..⟩
        · obtain ⟨hlink, hstate⟩ := startRetrain_other 3 hlq s
          have htakes : takesUp (startRetrain q 3 s) mask l = takesUp s mask l := by rw [takesUp, hlink, hstate]
          rw [htakes, hlink, hstate] at h
          simp only [List.mem_cons, hlq, false_or]
          exact h
      · rw [List.map_cons, List.mem_cons, not_or] at hm
        exact (hk k hm.2).trans (hkq k (by rw [List.mem_singleton]; exact hm.1))
    · rw [if_neg ht]
      obtain ⟨hl, hframe, hk⟩ := ih hn s
      refine ⟨fun l => ?_, hframe, fun k hm => hk k fun h => hm (List.mem_cons_of_mem _ h)⟩
      have h := hl l
      by_cases hlq : l = q
      · subst hlq
        rw [if_neg fun h => hq h.1] at h
        rw [if_neg fun h => ht h.2]
        exact h
      · simp only [List.mem_cons, hlq, false_or]
        exact h

theorem request_lists (m : BitVec 8) {p : Nat} (hp : p = s.mgrPort) (ho : s.op = .warmIdle) :
    lnkRequest p m.toNat s = (List.range 8).foldl (fun s l => if takesUp s m.toNat l then startRetrain l 3 s else s) s := by
  refine if_neg ?_
  rw [decide_eq_false fun h => h hp, decide_eq_false fun h => h ho]
  decide

theorem takesUp_iff (m : BitVec 8) (l : Nat) :
    takesUp s m.toNat l = true ↔ m.getLsbD l = true ∧ (linkOf s l).retrain = none ∧ (linkState s l = 2 ∨ linkState s l = 3) := by
  rw [takesUp, bitOf_toNat, Bool.and_eq_true_iff, Bool.and_eq_true_iff, Bool.or_eq_true_iff, beq_iff_eq, beq_iff_eq, Option.isNone_iff_eq_none, and_assoc]

/-! A retrain completes -/

/-- A link whose retrain has completed. -/
abbrev trainedUp (k : Link) : Link := { k with retrain := none, trained := true }

/-- The registers of a link's topology entries (R410). -/
abbrev topoKeys (l : Nat) : List Nat := [K.ID_TOPO_entry (2 * l) 0, K.ID_TOPO_entry (2 * l + 1) 0]

theorem retopo_regOnly (l : Nat) (s : State) : RegOnly s (retopo l s) := .set _ _ (.set _ _ (.refl s))

theorem retopo_kept (l : Nat) (s : State) : RegsKept (topoKeys l) s (retopo l s) := by
  unfold retopo
  rw [List.foldl_cons, List.foldl_cons, List.foldl_nil]
  exact kept_mod (List.mem_cons_of_mem _ List.mem_cons_self) (kept_mod List.mem_cons_self (kept_refl _ s))

/-- A retrain counted and shown, not told yet. -/
def retrainCounted (l : Nat) (s : State) : State := retopo l (showLink l (regInc (K.LNK_RETRAIN_count l) (regInc (K.WEAR_RETRAIN_count l) s)))

theorem retrainCounted_regOnly (l : Nat) (s : State) : RegOnly s (retrainCounted l s) := by
  have h1 : RegOnly s (regInc (K.LNK_RETRAIN_count l) (regInc (K.WEAR_RETRAIN_count l) s)) := .set _ _ (.set _ _ (.refl s))
  have h2 := showLink_regOnly l (regInc (K.LNK_RETRAIN_count l) (regInc (K.WEAR_RETRAIN_count l) s))
  have h3 := retopo_regOnly l (showLink l (regInc (K.LNK_RETRAIN_count l) (regInc (K.WEAR_RETRAIN_count l) s)))
  exact (h1.trans h2).trans h3

theorem retrainCounted_regs {l : Nat} (hl : l < 8) (s : State) : linkState (retrainCounted l s) l = linkState s l ∧
    regGet (retrainCounted l s) (K.LNK_RETRAIN_count l) = satInc max32 (regGet s (K.LNK_RETRAIN_count l)) ∧
    regGet (retrainCounted l s) (K.WEAR_RETRAIN_count l) = satInc max32 (regGet s (K.WEAR_RETRAIN_count l)) := by
  have hk {k : Nat} (ht : k ∉ topoKeys l) (hs : k ∉ showKeys l) : regGet (retrainCounted l s) k = regGet (regInc (K.LNK_RETRAIN_count l) (regInc (K.WEAR_RETRAIN_count l) s)) k :=
    (retopo_kept l _ k ht).trans (showLink_kept l _ k hs)
  refine ⟨?_, ?_, ?_⟩
  · rw [linkState, hk (by grind) (state_notMem_showKeys l l), regGet_regInc_ne _ (by grind), regGet_regInc_ne _ (by grind)]
    rfl
  · rw [hk (by grind) (by grind), regGet_regInc_self, regGet_regInc_ne _ (by grind)]
  · rw [hk (by grind) (by grind), regGet_regInc_ne _ (by grind), regGet_regInc_self]

/-- The end of a retrain told. -/
abbrev retrainTold (l c us : Nat) (s : State) : State := raise .manager ⟨0x0304, 0, false, nodeAddr 4 0 0, l, c, us⟩ (retrainCounted l s)

theorem retrainTold_link (l c us : Nat) (s : State) : linkOf (retrainTold l c us s) l = linkOf s l := (linkOf_raise ..).trans ((retrainCounted_regOnly l s).linkOf l)

theorem retrainTold_state (l c us : Nat) (hl : l < 8) (s : State) : linkState (retrainTold l c us s) l = linkState s l := (regGet_raise ..).trans (retrainCounted_regs hl s).1

/-- A full retrain's lane test told, its directions in force. -/
abbrev fullyTested (l f r : Nat) (s : State) : State := laneTest l f r (modLink l (fullDirs f r) (modLink l trainedUp s))

theorem endRetrain_away {l c f r us : Nat} (hu : unitsOn s = true) (hc : (linkOf s l).retrain = some c) (h2 : c ≠ 2)
    (h : ∃ d < 4, d ∈ [(linkEnds l).1, (linkEnds l).2] ∧ dieIn s d = false) :
    endRetrain l f r us s = regSet (K.LNK_STATUS_state l) 0 (modLink l (fun k => { k with retrain := none }) s) := by
  have haway : (decide ((linkEnds l).1 < 4) && !dieIn s (linkEnds l).1 || (decide ((linkEnds l).2 < 4) && !dieIn s (linkEnds l).2)) = true := by
    obtain ⟨d, hd, hm, hout⟩ := h
    simp only [List.mem_cons, List.not_mem_nil, or_false] at hm
    rcases hm with rfl | rfl
    · rw [hout, decide_eq_true hd]
      rfl
    · rw [hout, decide_eq_true hd, Bool.not_false, Bool.and_self, Bool.or_true]
  unfold endRetrain
  rw [if_pos hu, hc]
  dsimp only
  rw [if_pos]
  rw [haway, decide_eq_true h2]
  rfl

theorem endRetrain_here {l c f r us : Nat} (hu : unitsOn s = true) (hc : (linkOf s l).retrain = some c)
    (h : ∀ d < 4, d ∈ [(linkEnds l).1, (linkEnds l).2] → dieIn s d = true) :
    endRetrain l f r us s =
      (let v := if c = 3 then fullyTested l f r s else modLink l trainedUp s
      if (c = 3 && (goodLanes (linkOf v l).fwd < 16 || goodLanes (linkOf v l).rev < 16)) = true then judgeLink l v
      else judgeLink l (retrainTold l c us (if c = 3 then writeRecord l true (writeRecord l false (regSet (K.LNK_STATUS_state l) 2 v)) else regSet (K.LNK_STATUS_state l) 2 v))) := by
  have hin {d : Nat} (hm : d ∈ [(linkEnds l).1, (linkEnds l).2]) : (decide (d < 4) && !dieIn s d) = false := by
    by_cases hd : d < 4
    · rw [h d hd hm, Bool.not_true, Bool.and_false]
    · rw [decide_eq_false hd, Bool.false_and]
  unfold endRetrain
  rw [if_pos hu, hc]
  dsimp only
  rw [if_neg]
  · rfl
  · rw [hin List.mem_cons_self, hin (List.mem_cons_of_mem _ List.mem_cons_self), Bool.or_false, Bool.and_false]
    exact Bool.false_ne_true

/-! The outcome of a retrain -/

theorem fullDir_good (good : Nat) (d : LinkDir) : (fullDir good d).good = good := by
  unfold fullDir
  dsimp only
  split <;> rfl

theorem fullDir_width (good : Nat) (d : LinkDir) : (fullDir good d).width = widthFor (popCount 68 good) := by
  unfold fullDir
  dsimp only
  split <;> rfl

theorem goodLanes_fullDir (good : Nat) (d : LinkDir) : goodLanes (fullDir good d) = popCount 68 good := by rw [goodLanes, fullDir_good]

theorem fullyTested_link (l f r : Nat) (s : State) : linkOf (fullyTested l f r s) l = fullDirs f r (trainedUp (linkOf s l)) := by
  rw [fullyTested, laneTest, linkOf_raise, linkOf_modLink_self, linkOf_modLink_self]

theorem linkRetrain_exec {l : Fin 8} {f r : BitVec 68} {us : BitVec 64} (h : endRetrain l f.toNat r.toNat us.toNat s = t) : exec (.linkRetrain l f r us) s = .next t :=
  congrArg Host.Outcome.next h

/-- A retrain for replays, for a step or after a reset: the link is up, or has too few lanes (R345, R346). -/
theorem endRetrain_plain {l c f r us : Nat} (hl : l < 8) (hu : unitsOn s = true) (hc : (linkOf s l).retrain = some c)
    (hin : ∀ d < 4, d ∈ [(linkEnds l).1, (linkEnds l).2] → dieIn s d = true) (h3 : c ≠ 3) :
    let v := regSet (K.LNK_STATUS_state l) 2 (modLink l trainedUp s)
    endRetrain l f r us s = judgeLink l (retrainTold l c us v) ∧ linkOf (retrainTold l c us v) l = trainedUp (linkOf s l) ∧ linkState (retrainTold l c us v) l = 2 := by
  intro v
  refine ⟨?_, ?_, ?_⟩
  · rw [endRetrain_here hu hc hin]
    dsimp only
    rw [if_neg h3, if_neg h3, decide_eq_false h3, Bool.false_and, if_neg Bool.false_ne_true]
  · rw [retrainTold_link, linkOf_regSet, linkOf_modLink_self]
  · rw [retrainTold_state l c us hl]
    exact regGet_regSet_self ..

/-- A full retrain: the widths that its lane test allows, or too few lanes (R349). -/
theorem endRetrain_full {l f r us : Nat} (hl : l < 8) (hu : unitsOn s = true) (hc : (linkOf s l).retrain = some 3)
    (hin : ∀ d < 4, d ∈ [(linkEnds l).1, (linkEnds l).2] → dieIn s d = true) :
    let v := fullyTested l f r s
    let w := writeRecord l true (writeRecord l false (regSet (K.LNK_STATUS_state l) 2 v))
    (16 ≤ popCount 68 f → 16 ≤ popCount 68 r → endRetrain l f r us s = judgeLink l (retrainTold l 3 us w) ∧
      linkOf (retrainTold l 3 us w) l = fullDirs f r (trainedUp (linkOf s l)) ∧ linkState (retrainTold l 3 us w) l = 2) ∧
    ((popCount 68 f < 16 ∨ popCount 68 r < 16) → endRetrain l f r us s = judgeLink l v) := by
  intro v w
  have hlink : linkOf v l = fullDirs f r (trainedUp (linkOf s l)) := fullyTested_link l f r s
  have hF : goodLanes (linkOf v l).fwd = popCount 68 f := by rw [hlink]; exact goodLanes_fullDir ..
  have hR : goodLanes (linkOf v l).rev = popCount 68 r := by rw [hlink]; exact goodLanes_fullDir ..
  have hrec : RecordsOnly (regSet (K.LNK_STATUS_state l) 2 v) w := (writeRecord_recordsOnly ..).trans (writeRecord_recordsOnly ..)
  have hend := endRetrain_here (f := f) (r := r) (us := us) hu hc hin
  dsimp only at hend
  rw [if_pos rfl, if_pos rfl] at hend
  refine ⟨fun hf hr => ⟨?_, ?_, ?_⟩, fun h => ?_⟩
  · refine hend.trans (if_neg ?_)
    rw [hF, hR, decide_eq_false (p := popCount 68 f < 16) (by omega), decide_eq_false (p := popCount 68 r < 16) (by omega)]
    decide
  · rw [retrainTold_link, hrec.linkOf, linkOf_regSet, hlink]
  · rw [retrainTold_state l 3 us hl]
    exact (regGet_congr hrec.reg _).trans (regGet_regSet_self ..)
  · refine hend.trans (if_pos ?_)
    rw [hF, hR]
    rcases h with h | h
    · rw [decide_eq_true h]
      rfl
    · rw [decide_eq_true h, Bool.or_true]
      rfl

/-! The statement -/

/-- Settles O52: requests by `foldl_request`, completions by `endRetrain_away`, `endRetrain_plain` and `endRetrain_full`. -/
theorem linkRetrains : Obligations.LinkRetrains := by
  unfold Obligations.LinkRetrains
  refine ⟨fun p m s hw hp ho => ?_, fun p m s hw h => ?_, ?_, fun l f r us s h => ?_⟩
  · obtain ⟨hl, hframe, hk⟩ := foldl_request m.toNat (List.range 8) List.nodup_range s
    refine ⟨_, congrArg Host.Outcome.next ((if_pos hw).trans (request_lists m hp ho)), fun l => ?_, hframe, hk⟩
    have h := hl l
    by_cases ht : takesUp s m.toNat l = true
    · rw [if_pos ⟨List.mem_range.2 l.isLt, ht⟩] at h
      rw [if_pos ((takesUp_iff m l).1 ht), h.1, h.2]
      exact ⟨rfl, rfl⟩
    · rw [if_neg fun hn => ht hn.2] at h
      rw [if_neg fun hn => ht ((takesUp_iff m l).2 hn)]
      exact h
  · refine ⟨_, congrArg Host.Outcome.next ((if_pos hw).trans (if_pos ?_)), denied_counts p s⟩
    rcases h with h | h
    · rw [decide_eq_true h, Bool.true_or]
    · rw [decide_eq_true h, Bool.or_true]
  · intro l f r us s c cmd hu hc
    refine ⟨fun h2 haway => ⟨_, linkRetrain_exec (endRetrain_away hu hc h2 haway), regGet_regSet_self .., ?_, rfl, kept_set (by simp) (kept_reg (t := s) rfl (kept_refl _ s))⟩,
      fun hin => ⟨fun h3 hf hr => ?_, fun h3 hfew => ?_, fun h3 hf hr => ?_, fun h3 hfew => ?_⟩⟩
    · rw [linkOf_regSet, linkOf_modLink_self]
    · obtain ⟨hend, hlink, hstate⟩ := endRetrain_plain (f := f.toNat) (r := r.toNat) (us := us.toNat) l.isLt hu hc hin h3
      have hshow := judgeLink_shows (s := retrainTold l c us.toNat (regSet (K.LNK_STATUS_state l) 2 (modLink l trainedUp s))) (l := l) (.inr (by rw [hlink]; exact ⟨hf, hr⟩))
      have hreg := retrainCounted_regOnly l.val (regSet (K.LNK_STATUS_state l) 2 (modLink l trainedUp s))
      obtain ⟨hst, hcount, hwear⟩ := retrainCounted_regs l.isLt (regSet (K.LNK_STATUS_state l) 2 (modLink l trainedUp s))
      refine ⟨_, linkRetrain_exec (hend.trans hshow), _, rfl, _, rfl, hst.trans (regGet_regSet_self ..), ?_, hcount.trans ?_, hwear.trans ?_, ?_⟩
      · rw [hreg.linkOf, linkOf_regSet, linkOf_modLink_self]
      · rw [regGet_regSet_ne _ _ (by grind)]
        rfl
      · rw [regGet_regSet_ne _ _ (by grind)]
        rfl
      · exact (LinkOnly.set _ _ (.mod _ _ (.refl s))).trans hreg.linkOnly
    · obtain ⟨hend, hlink, -⟩ := endRetrain_plain (f := f.toNat) (r := r.toNat) (us := us.toNat) l.isLt hu hc hin h3
      exact ⟨_, linkRetrain_exec hend, (judgeLink_failed (by rw [hlink]) (by rw [hlink]; exact hfew)).1⟩
    · subst h3
      obtain ⟨hend, hlink, hstate⟩ := (endRetrain_full (f := f.toNat) (r := r.toNat) (us := us.toNat) l.isLt hu hc hin).1 hf hr
      refine ⟨_, linkRetrain_exec (hend.trans (judgeLink_shows (.inr ?_))), ?_⟩
      · rw [hlink]
        exact ⟨hf.trans_eq (goodLanes_fullDir ..).symm, hr.trans_eq (goodLanes_fullDir ..).symm⟩
      · beta_reduce
        rw [showLink_state, showLink_linkOf, hlink, hstate]
        exact ⟨rfl, rfl, rfl, rfl, fullDir_width .., fullDir_width ..⟩
    · subst h3
      have hend := (endRetrain_full (f := f.toNat) (r := r.toNat) (us := us.toNat) l.isLt hu hc hin).2 hfew
      have hlink := fullyTested_link l f.toNat r.toNat s
      refine ⟨_, linkRetrain_exec hend, (judgeLink_failed (by rw [hlink]; rfl) ?_).1⟩
      rw [hlink]
      exact hfew.imp (fun h => (goodLanes_fullDir ..).trans_lt h) fun h => (goodLanes_fullDir ..).trans_lt h
  · refine linkRetrain_exec ?_
    unfold endRetrain
    rcases h with h | h
    · rw [h, ite_self]
    · rw [h, if_neg Bool.false_ne_true]

end Sys2Proof.Machine
end

section
/-! PROOFS. Breaks of the management ring (R17). -/

namespace Sys2Proof.Machine

variable {s t u : State}

/-! What the loss of a node keeps -/

theorem islRuns_mono {i : Isl} (hs : islState t i = islState s i) (h : islOf t i = islOf s i) (hr : islRuns t i = true) : islRuns s i = true :=
  (islRuns_congr hs h).symm.trans hr

/-- What stays through the loss of a node: the boot state, the compare mode, what has left service, what no longer runs. -/
structure NodeLost (s t : State) : Prop where
  boot : t.boot = s.boot
  active : t.active = s.active
  powered : powered s = true → powered t = true
  off : s.op = .safeOff → t.op = .safeOff
  dies : ∀ d, dieIn s d = false → dieIn t d = false
  runs : ∀ i, islRuns t i = true → islRuns s i = true
  lost : ∀ i, (islOf s i).lost = true → (islOf t i).lost = true

theorem NodeLost.refl (s : State) : NodeLost s s := ⟨rfl, rfl, id, id, fun _ h => h, fun _ h => h, fun _ h => h⟩

theorem NodeLost.trans (h : NodeLost s t) (g : NodeLost t u) : NodeLost s u :=
  ⟨g.boot.trans h.boot, g.active.trans h.active, fun hp => g.powered (h.powered hp), fun ho => g.off (h.off ho), fun d hd => g.dies d (h.dies d hd),
    fun i hi => h.runs i (g.runs i hi), fun i hi => g.lost i (h.lost i hi)⟩

theorem powered_of_safeOff (ho : t.op = .safeOff) (hb : t.boot = s.boot) (h : powered s = true) : powered t = true := by
  have hlow : (!s.boot.mrstLow) = true := (Bool.and_eq_true_iff.1 h).2
  rw [powered, ho, hb, hlow]
  rfl

theorem NodeLost.of_islands (hb : t.boot = s.boot) (ha : t.active = s.active) (ho : t.op = s.op ∨ t.op = .safeOff) (hk : IslandsKept s t) : NodeLost s t := by
  refine ⟨hb, ha, fun hp => ?_, fun h => ?_, fun d hd => ?_, fun i => islRuns_mono (hk.islState i) (hk.islOf i), fun i h => ?_⟩
  · rcases ho with ho | ho
    · exact (powered_congr ho hb).trans hp
    · exact powered_of_safeOff ho hb hp
  · exact ho.elim (fun ho => ho.trans h) id
  · exact (dieIn_congr (hk.regs _ (by grind)) d).trans hd
  · rw [hk.islOf i, h]

theorem classD_boot (cause src : Nat) (s : State) : (classD cause src s).boot = s.boot ∧ (classD cause src s).active = s.active := by
  unfold classD
  split
  · rw [safeState, raiseFault_boot, raiseFault_active, (safeOffFor_offed cause s).boot, (safeOffFor_offed cause s).active]
    exact ⟨rfl, rfl⟩
  · exact ⟨rfl, rfl⟩

theorem classD_op_cases (cause src : Nat) (s : State) : (classD cause src s).op = s.op ∨ (classD cause src s).op = .safeOff := by
  cases hp : powered s
  · have h : classD cause src s = s := if_neg (by rw [hp]; exact Bool.false_ne_true)
    rw [h]
    exact .inl rfl
  · exact .inr (classD_op hp)

theorem classD_nodeLost (cause src : Nat) (s : State) : NodeLost s (classD cause src s) :=
  .of_islands (classD_boot ..).1 (classD_boot ..).2 (classD_op_cases ..) (classD_islandsKept ..)

theorem islandsFail_boot (s : State) : (islandsFail s).boot = s.boot ∧ (islandsFail s).active = s.active := by
  rcases islandsFail_cases s with ⟨src, h⟩ | ⟨-, h⟩ | ⟨-, h⟩
  · rw [h]
    exact classD_boot ..
  · rw [h]
    exact ⟨(safeOffFor_offed 1 s).boot, (safeOffFor_offed 1 s).active⟩
  · rw [h]
    exact ⟨rfl, rfl⟩

theorem islandsFail_nodeLost (s : State) : NodeLost s (islandsFail s) := by
  refine .of_islands (islandsFail_boot s).1 (islandsFail_boot s).2 ?_ (islandsFail_kept s)
  cases hp : powered s
  · rcases islandsFail_cases s with ⟨src, h⟩ | ⟨hp', -⟩ | ⟨-, h⟩
    · rw [h]
      exact classD_op_cases ..
    · rw [hp] at hp'
      exact absurd hp' (by decide)
    · rw [h]
      exact .inl rfl
  · exact .inr (islandsFail_op hp)

/-! A die that no running island reaches -/

theorem removeDie_nodeLost (k cause : Nat) (s : State) : NodeLost s (removeDie k cause s) := by
  by_cases hd : dieIn s k = true
  · by_cases ho : s.op = .safeOff
    · rw [removeDie_off ho]
      exact .refl s
    · by_cases hp : powered s = true
      · refine removeDie_keeps (P := NodeLost s) hd ho hp ?_ (fun u pair h => ⟨h.boot, h.active, h.powered, h.off, h.dies, h.runs, h.lost⟩)
          fun u c h => h.trans (classD_nodeLost ..)
        obtain ⟨hosts, mem, h⟩ := dieRemoved_parts k cause s
        have hk := dieRemoved_kept k cause s
        have hin := dieRemoved_dieIn k cause s
        have hisl : (dieRemoved k cause s).isl = s.isl := by rw [h]
        have hstate (i : Isl) : islState (dieRemoved k cause s) i = islState s i := by cases i <;> exact hk _ (by grind [islKey])
        refine ⟨by rw [h], by rw [h], fun hp => ?_, fun ho => ?_, fun d hd => ?_, fun i => islRuns_mono (hstate i) (islOf_congr hisl i), fun i hl => ?_⟩
        · rw [h]
          exact hp
        · rw [h]
          exact ho
        · rw [hin]
          split
          · rfl
          · exact hd
        · rw [islOf_congr hisl, hl]
      · rw [removeDie_unpowered (by simpa using hp)]
        exact .refl s
  · rw [removeDie_gone (by simpa using hd)]
    exact .refl s

theorem gate_nodeLost (i : Isl) (d : Decision) (s : State) : NodeLost s (gate i d s) := by
  have hof (j : Isl) : islOf (gate i d s) j = islOf s j := gate_islOf i j d s
  have hreg : (gate i d s).reg = s.reg := by rw [gate_frame]
  refine ⟨by rw [gate_frame], by rw [gate_frame], fun h => ?_, fun h => ?_, fun k h => (dieIn_congr (regGet_congr hreg _) k).trans h,
    fun j => islRuns_mono (regGet_congr hreg _) (hof j), fun j h => by rw [hof, h]⟩
  · rw [gate_frame]
    exact h
  · rw [gate_frame]
    exact h

theorem orderRemoval_nodeLost (k cause : Nat) (s : State) : NodeLost s (orderRemoval k cause s) := by
  cases hg : gates s (holder s)
  · rw [orderRemoval, gateOr_acts hg]
    exact removeDie_nodeLost ..
  · rw [orderRemoval, gateOr_waits hg]
    exact gate_nodeLost ..

/-! An island that the other no longer reaches -/

theorem isl_cases (i j : Isl) : j = i ∨ j = otherIsl i := by cases i <;> cases j <;> simp [otherIsl]

theorem orderRole_active (o : Isl) (cause : Nat) (s : State) : (orderRole o cause s).active = s.active := by
  cases h : gates s o
  · rw [orderRole_acts h, takeOver_told, raise_active]
    rfl
  · rw [orderRole_waits h, gate_frame]

/-- An island lost, its duties taken, before class D. -/
abbrev dutiesMoved (i : Isl) (s : State) : State := orderRole (otherIsl i) 1 (lossTold i s)

theorem dutiesMoved_nodeLost (i : Isl) (s : State) : NodeLost s (dutiesMoved i s) := by
  obtain ⟨hof, hregs, hop, hboot⟩ := orderRole_keeps (otherIsl i) 1 (lossTold i s)
  obtain ⟨reg, isl, hframe⟩ := isLost_frame i s
  have hb : (dutiesMoved i s).boot = s.boot := hboot.trans ((raiseFault_boot ..).trans (by rw [hframe]))
  have ho : (dutiesMoved i s).op = s.op := hop.trans (lossTold_op i s)
  have ha : (dutiesMoved i s).active = s.active := (orderRole_active ..).trans ((raiseFault_active ..).trans (by rw [hframe]))
  have hdies : regGet (dutiesMoved i s) K.ID_DIES_in_service = regGet s K.ID_DIES_in_service := by
    refine (hregs _ (by grind)).trans ?_
    have hreg : regGet (lossTold i s) K.ID_DIES_in_service = regGet (recordFault 3 (islNode (otherIsl i)) (isLost i s)) K.ID_DIES_in_service := regGet_congr (raiseFault_reg ..) _
    rw [hreg, (recordFault_regs ..).2 _ (by grind), isLost_kept i s]
    cases i <;> grind [islKey]
  have hself : islOf (dutiesMoved i s) i = { islOf s i with lost := true } := by rw [hof, lossTold_islOf, islOf_modIsl_self]
  have hother : islOf (dutiesMoved i s) (otherIsl i) = islOf s (otherIsl i) := by rw [hof, lossTold_islOf, islOf_modIsl_other]
  have hstate : islState (dutiesMoved i s) (otherIsl i) = islState s (otherIsl i) :=
    (hregs _ (islKey_ne_holder _)).trans ((lossTold_state ..).trans (isLost_state_other i s))
  refine ⟨hb, ha, fun hp => (powered_congr ho hb).trans hp, fun h => ho.trans h, fun d hd => (dieIn_congr hdies d).trans hd, fun j hr => ?_, fun j hl => ?_⟩
  · rcases isl_cases i j with rfl | rfl
    · rw [islRuns, hself] at hr
      simp at hr
    · exact islRuns_mono hstate hother hr
  · rcases isl_cases i j with rfl | rfl
    · rw [hself]
    · rw [hother, hl]

theorem loseIsl_nodeLost (i : Isl) (s : State) : NodeLost s (loseIsl i s) := by
  by_cases h : powered s = true ∧ islRuns s (otherIsl i) = true ∧ (islOf s i).lost = false
  · obtain ⟨hp, hr, hl⟩ := h
    rw [loseIsl_told hp hr hl]
    split
    · exact (dutiesMoved_nodeLost i s).trans (islandsFail_nodeLost _)
    · exact dutiesMoved_nodeLost i s
  · have hsame : loseIsl i s = s := by
      refine if_pos ?_
      cases hp : powered s
      · rw [Bool.not_false, Bool.or_true]
      · cases hr : islRuns s (otherIsl i)
        · rw [Bool.not_false, Bool.or_true]
          rfl
        · cases hl : (islOf s i).lost
          · exact absurd ⟨hp, hr, hl⟩ h
          · rfl
    rw [hsame]
    exact .refl s

/-- An island that the other watches is lost once it is declared so. -/
theorem loseIsl_lost {i : Isl} (hp : powered s = true) (hr : islRuns s (otherIsl i) = true) : (islOf (loseIsl i s) i).lost = true := by
  cases hl : (islOf s i).lost
  · exact (loseIsl_parts hp hr hl).2.1
  · have hsame : loseIsl i s = s := if_pos (by rw [hl]; rfl)
    rw [hsame, hl]

/-! Nodes cut off -/

theorem loseNode_nodeLost (i : Nat) (s : State) : NodeLost s (loseNode i s) := by
  unfold loseNode
  split
  · exact .refl s
  · split
    · exact classD_nodeLost ..
    · exact loseIsl_nodeLost ..
    · exact loseIsl_nodeLost ..
    · exact orderRemoval_nodeLost ..

theorem foldl_loseNode (l : List Nat) (s : State) : NodeLost s (l.foldl (fun s i => loseNode i s) s) := by
  induction l generalizing s with
  | nil => exact .refl s
  | cons i l ih => exact (loseNode_nodeLost i s).trans (ih _)

/-- What no running island reaches, none reaches later. -/
theorem NodeLost.unreached (h : NodeLost s t) {i : Nat} (hi : reached s i = false) : reached t i = false := by
  rw [← Bool.not_eq_true, reached, List.any_eq_true] at hi ⊢
  rintro ⟨x, hx, hreach⟩
  refine hi ⟨x, hx, ?_⟩
  rw [ringJoins, h.boot] at hreach
  rw [Bool.and_eq_true_iff, Bool.and_eq_true_iff] at hreach ⊢
  obtain ⟨⟨hr, hne⟩, hj⟩ := hreach
  exact ⟨⟨h.runs x.1 hr, hne⟩, hj⟩

/-- A property that a node's loss brings, and that later losses keep, holds at the end. -/
theorem foldl_loseNode_brings {P : State → Prop} {i : Nat} (hP : ∀ u, NodeLost s u → P (loseNode i u)) (hkeep : ∀ u v, NodeLost u v → P u → P v)
    (l : List Nat) (hi : i ∈ l) (h : NodeLost s t) : P (l.foldl (fun s i => loseNode i s) t) := by
  induction l generalizing t with
  | nil => exact absurd hi List.not_mem_nil
  | cons j l ih =>
    rcases List.mem_cons.1 hi with rfl | hm
    · exact hkeep _ _ (foldl_loseNode l _) (hP t h)
    · exact ih hm (h.trans (loseNode_nodeLost j t))

/-- A die that no running island reaches has left service, or the module is in SAFE_OFF (R17). -/
theorem loseNode_die {i : Nat} (hp : powered s = true) (hm : cmpMode s ≠ 1) (hd : nth ringNodes i 0 < 4) (hr : reached s i = false) :
    dieIn (loseNode i s) (nth ringNodes i 0) = false ∨ (loseNode i s).op = .safeOff := by
  have hgo : loseNode i s = orderRemoval (nth ringNodes i 0) 3 s := by
    unfold loseNode
    rw [if_neg (by rw [hr]; exact Bool.false_ne_true)]
    split
    · omega
    · omega
    · omega
    · rfl
  have hgates : gates s (holder s) = false := by rw [gates, beq_eq_false_iff_ne.2 hm, Bool.false_and]
  rw [hgo, orderRemoval, gateOr_acts hgates]
  exact removeDie_dieIn _ 3 hp

theorem loseNode_iod (hp : powered s = true) (hr : reached s 3 = false) : (loseNode 3 s).op = .safeOff := by
  have hgo : loseNode 3 s = classD 2 (islNode (keyIsl s)) s := if_neg (by rw [hr]; exact Bool.false_ne_true)
  rw [hgo]
  exact classD_op hp

theorem loseNode_siA (hp : powered s = true) (hr : reached s 0 = false) (hb : islRuns s .b = true) : (islOf (loseNode 0 s) .a).lost = true := by
  have hgo : loseNode 0 s = loseIsl .a s := if_neg (by rw [hr]; exact Bool.false_ne_true)
  rw [hgo]
  exact loseIsl_lost hp hb

end Sys2Proof.Machine
end

section
/-! PROOFS. The reset of one die and its return (R348). -/

namespace Sys2Proof.Machine

variable {s t u : State}

/-! What the links of a reset die leave -/

/-- The boot state is as it was, and an engine at reset stays so. -/
structure EngineIdle (d : Nat) (s t : State) : Prop where
  boot : t.boot = s.boot
  engine : engineOf s d = Engine.init → engineOf t d = Engine.init

theorem EngineIdle.refl (d : Nat) (s : State) : EngineIdle d s s := ⟨rfl, id⟩

theorem EngineIdle.trans {d : Nat} (h : EngineIdle d s t) (g : EngineIdle d t u) : EngineIdle d s u := ⟨g.boot.trans h.boot, fun he => g.engine (h.engine he)⟩

theorem EngineIdle.of_eq {d : Nat} (hb : t.boot = s.boot) (he : t.engines = s.engines) : EngineIdle d s t :=
  ⟨hb, fun h => by rw [engineOf, he]; exact h⟩

theorem RegOnly.engineIdle {d : Nat} (h : RegOnly s t) : EngineIdle d s t := .of_eq (by rw [h]) (by rw [h])

theorem LinkOnly.engineIdle {d : Nat} (h : LinkOnly s t) : EngineIdle d s t := .of_eq (by rw [h]) (by rw [h])

theorem RecordsOnly.engineIdle {d : Nat} (h : RecordsOnly s t) : EngineIdle d s t := .of_eq (by rw [h]) (by rw [h])

theorem raise_engineIdle (d : Nat) (p : EvDest) (e : Ev) (s : State) : EngineIdle d s (raise p e s) := .of_eq (raise_boot ..) (raise_engines ..)

theorem safeOffFor_engine {cause d : Nat} (h : engineOf s d = Engine.init) : engineOf (safeOffFor cause s) d = Engine.init := by
  unfold safeOffFor
  split
  · exact h
  · dsimp only
    have hended (v : State) (hv : engineOf v d = Engine.init) : engineOf (enterSafeOff v) d = Engine.init := by
      have hmap : engineOf (enterSafeOff v) d = endedEngine (engineOf v d) := tget_map_snd Engine.init endedEngine rfl d v.engines
      rw [hmap, hv]
      rfl
    refine hended _ ?_
    split
    · split
      · exact h
      · exact h
    · exact h

theorem classD_engineIdle (d cause src : Nat) (s : State) : EngineIdle d s (classD cause src s) := by
  refine ⟨(classD_boot ..).1, fun h => ?_⟩
  unfold classD
  split
  · rw [safeState, engineOf_raiseFault, safeOffFor_engine h]
  · exact h

theorem removeDie_engineIdle (d k cause : Nat) (s : State) : EngineIdle d s (removeDie k cause s) := by
  by_cases hd : dieIn s k = true
  · by_cases ho : s.op = .safeOff
    · rw [removeDie_off ho]
      exact .refl d s
    · by_cases hp : powered s = true
      · refine removeDie_keeps (P := EngineIdle d s) hd ho hp ?_ (fun u pair h => ⟨h.boot, h.engine⟩) fun u c h => h.trans (classD_engineIdle ..)
        obtain ⟨hosts, mem, h⟩ := dieRemoved_parts k cause s
        refine ⟨by rw [h], fun he => ?_⟩
        have hmod : engineOf (dieRemoved k cause s) d = engineOf (modEngine k idleEngine s) d := by rw [h]; rfl
        rw [hmod]
        by_cases hdk : d = k
        · subst hdk
          rw [engineOf_modEngine_self, he]
          rfl
        · rw [engineOf_modEngine_ne _ _ hdk, he]
      · rw [removeDie_unpowered (by simpa using hp)]
        exact .refl d s
  · rw [removeDie_gone (by simpa using hd)]
    exact .refl d s

theorem orderRemoval_engineIdle (d k cause : Nat) (s : State) : EngineIdle d s (orderRemoval k cause s) := by
  cases hg : gates s (holder s)
  · rw [orderRemoval, gateOr_acts hg]
    exact removeDie_engineIdle ..
  · rw [orderRemoval, gateOr_waits hg]
    exact .of_eq (by rw [gate_frame]) (by rw [gate_frame])

theorem failLink_engineIdle (d l good : Nat) (rev : Bool) (s : State) : EngineIdle d s (failLink l good rev s) := by
  have hdrop (v : State) : EngineIdle d v (dropIsolated v) := by
    unfold dropIsolated
    generalize List.range 4 = ds
    induction ds generalizing v with
    | nil => exact .refl d v
    | cons k ds ih =>
      rw [List.foldl_cons]
      split
      · exact (orderRemoval_engineIdle d k 4 v).trans (ih _)
      · exact ih v
  have hfailed : EngineIdle d s (failed' l s) := (LinkOnly.set _ _ (.mod _ _ (.refl s))).engineIdle
  exact (hfailed.trans (.of_eq (raiseFault_boot ..) (raiseFault_engines ..))).trans (hdrop _)

theorem startRetrain_engineIdle (d l cause : Nat) (s : State) : EngineIdle d s (startRetrain l cause s) := (startRetrain_linkOnly ..).engineIdle

theorem trainLink_engineIdle (d : Nat) (x : LinkTrain) (s : State) : EngineIdle d s (trainLink x s) := by
  have hmod (l : Nat) (f : Link → Link) (v : State) : EngineIdle d v (modLink l f v) := .of_eq rfl rfl
  have hshow (l : Nat) (v : State) : EngineIdle d v (showLink l v) := (showLink_regOnly l v).engineIdle
  unfold trainLink
  dsimp only
  split
  · exact ((hmod ..).trans (hshow ..)).trans (startRetrain_engineIdle ..)
  · have hlinks (f : Link → Link) : EngineIdle d s (modLink x.link f (laneTest x.link x.testFwd.toNat x.testRev.toNat s)) := (raise_engineIdle ..).trans (hmod ..)
    split
    · exact (hlinks _).trans (failLink_engineIdle ..)
    · split
      · exact (hlinks _).trans (failLink_engineIdle ..)
      · exact ((((hlinks _).trans (writeRecord_recordsOnly ..).engineIdle).trans (writeRecord_recordsOnly ..).engineIdle).trans (hshow ..)).trans
          (startRetrain_engineIdle ..)

theorem foldl_trainLink (d : Nat) (l : List LinkTrain) (s : State) : EngineIdle d s (l.foldl (fun s t => trainLink t s) s) := by
  induction l generalizing s with
  | nil => exact .refl d s
  | cons x l ih => exact (trainLink_engineIdle d x s).trans (ih _)

/-! An attempt given up -/

/-- Whether a link of a die trains or is up. -/
abbrev linkAlive (s : State) (d : Nat) : Bool := (linksOf d).any fun l => linkState s l == 1 || linkState s l == 2

/-- The dies being reset of which no link trains or is up are so no longer (R348, R362). -/
theorem giveUpReset_resetting (s : State) : (giveUpReset s).reg = s.reg ∧ (giveUpReset s).engines = s.engines ∧ (giveUpReset s).boot.resetAt = s.boot.resetAt ∧
    ∀ d ∈ s.boot.resetting, (giveUpReset s).boot.resetting.contains d = linkAlive s d := by
  have hfold (l : List Nat) (v : State) : let w := l.foldl (fun s d => if linkAlive s d then s
        else raise .manager ⟨0x0309, 0, true, islNode (keyIsl s), d, 2, 0⟩ { s with boot := { s.boot with resetting := s.boot.resetting.filter (· != d) } }) v
      w.reg = v.reg ∧ w.engines = v.engines ∧ w.boot.resetAt = v.boot.resetAt ∧
      ∀ d, d ∈ w.boot.resetting ↔ d ∈ v.boot.resetting ∧ (d ∈ l → linkAlive v d = true) := by
    induction l generalizing v with
    | nil => exact ⟨rfl, rfl, rfl, fun d => by simp⟩
    | cons x l ih =>
      rw [List.foldl_cons]
      by_cases hx : linkAlive v x = true
      · rw [if_pos hx]
        obtain ⟨hr, he, ha, hm⟩ := ih v
        refine ⟨hr, he, ha, fun d => (hm d).trans (and_congr_right fun _ => ?_)⟩
        rw [List.mem_cons]
        exact ⟨fun h hd => hd.elim (fun hdx => hdx ▸ hx) h, fun h hd => h (.inr hd)⟩
      · rw [if_neg hx]
        obtain ⟨hr, he, ha, hm⟩ := ih (raise .manager ⟨0x0309, 0, true, islNode (keyIsl v), x, 2, 0⟩ { v with boot := { v.boot with resetting := v.boot.resetting.filter (· != x) } })
        refine ⟨hr.trans (raise_reg ..), he.trans (raise_engines ..), ha.trans (by rw [raise_boot]), fun d => (hm d).trans ?_⟩
        have halive : linkAlive (raise .manager ⟨0x0309, 0, true, islNode (keyIsl v), x, 2, 0⟩ { v with boot := { v.boot with resetting := v.boot.resetting.filter (· != x) } }) d = linkAlive v d := by
          simp only [linkAlive, linkState, regGet_raise]
          rfl
        rw [raise_boot, halive, List.mem_filter, bne_iff_ne, List.mem_cons]
        constructor
        · rintro ⟨⟨hd, hne⟩, h⟩
          exact ⟨hd, fun hdl => h (hdl.resolve_left hne)⟩
        · rintro ⟨hd, h⟩
          exact ⟨⟨hd, fun hdx => hx (hdx ▸ h (.inl hdx))⟩, fun hdl => h (.inr hdl)⟩
  obtain ⟨hr, he, ha, hm⟩ := hfold s.boot.resetting s
  refine ⟨hr, he, ha, fun d hd => ?_⟩
  rw [Bool.eq_iff_iff, List.contains_iff_mem]
  exact (hm d).trans ⟨fun h => h.2 hd, fun h => ⟨hd, fun _ => h⟩⟩

/-! One die reset alone -/

/-- A die whose reset begins: its engine at reset, what its stacks held lost (R348). -/
def resetBegun (d : Nat) (s : State) : State :=
  modEngine d (fun _ => Engine.init) (loseDie d (raise .manager ⟨0x0309, 0, true, islNode (keyIsl s), d, 0, 0⟩
    { s with boot := { s.boot with resetAt := (s.boot.resetAt.filter fun x => x.1 != d) ++ [(d, s.ticks)], resetting := s.boot.resetting ++ [d] } }))

/-- The links of a die down. -/
def linksDown (l : List Nat) (s : State) : State := l.foldl (fun s l => regSet (K.LNK_STATUS_state l) 0 (modLink l (fun k =>
  { k with retrain := none, flowF := LinkFlow.init, flowR := LinkFlow.init, errs := [] }) s)) s

theorem linksDown_linkOnly (l : List Nat) (s : State) : LinkOnly s (linksDown l s) := by
  induction l generalizing s with
  | nil => exact .refl s
  | cons q l ih => exact (LinkOnly.set _ _ (.mod _ _ (.refl s))).trans (ih _)

theorem resetBegun_boot (d : Nat) (s : State) : (resetBegun d s).boot =
    { s.boot with resetAt := (s.boot.resetAt.filter fun x => x.1 != d) ++ [(d, s.ticks)], resetting := s.boot.resetting ++ [d] } :=
  raise_boot .manager ⟨0x0309, 0, true, islNode (keyIsl s), d, 0, 0⟩
    { s with boot := { s.boot with resetAt := (s.boot.resetAt.filter fun x => x.1 != d) ++ [(d, s.ticks)], resetting := s.boot.resetting ++ [d] } }

theorem resetBegun_engine (d : Nat) (s : State) : engineOf (resetBegun d s) d = Engine.init := engineOf_modEngine_self ..

theorem partialReset_runs {d : Nat} {tr : List LinkTrain} (h : mayReset s d = true) : partialReset d tr s =
    giveUpReset ((ownTrains d tr).foldl (fun s t => trainLink t s) (linksDown (linksOf d) (resetBegun d s))) := if_neg (by rw [h]; exact Bool.false_ne_true)

/-- A die reset alone: its instant, its engine, and whether a link of it trains (R348). -/
theorem partialReset_parts {d : Nat} {tr : List LinkTrain} (h : mayReset s d = true) : (d, s.ticks) ∈ (partialReset d tr s).boot.resetAt ∧
    engineOf (partialReset d tr s) d = Engine.init ∧ (partialReset d tr s).boot.resetting.contains d = linkAlive (partialReset d tr s) d := by
  rw [partialReset_runs h]
  have hidle := ((linksDown_linkOnly (linksOf d) (resetBegun d s)).engineIdle (d := d)).trans (foldl_trainLink d (ownTrains d tr) _)
  generalize (ownTrains d tr).foldl (fun s t => trainLink t s) (linksDown (linksOf d) (resetBegun d s)) = v at *
  obtain ⟨hreg, heng, hat, hm⟩ := giveUpReset_resetting v
  have hboot : v.boot = _ := hidle.boot.trans (resetBegun_boot d s)
  refine ⟨?_, ?_, ?_⟩
  · rw [hat, hboot]
    exact List.mem_append_right _ (List.mem_singleton.2 rfl)
  · rw [engineOf, heng]
    exact hidle.engine (resetBegun_engine d s)
  · refine (hm d ?_).trans ?_
    · rw [hboot]
      exact List.mem_append_right _ (List.mem_singleton.2 rfl)
    · simp only [linkAlive, linkState, regGet_congr hreg]

/-! A die that rejoins -/

/-- A state that differs from another in its memories and the counter of free values alone. -/
def MemFree (s t : State) : Prop := t = { s with mem := t.mem, freeCtr := t.freeCtr }

theorem MemFree.trans (h : MemFree s t) (g : MemFree t u) : MemFree s u := by
  obtain ⟨mem, ctr, rfl⟩ : ∃ mem ctr, t = { s with mem := mem, freeCtr := ctr } := ⟨_, _, h⟩
  exact g

theorem refill_memFree (k : Nat) (s : State) : MemFree s (refill k s) := by
  have hslots (l : List Nat) (v : State) : MemFree v (l.foldl (fun s r => giveSlot k r s) v) := by
    induction l generalizing v with
    | nil => exact rfl
    | cons r l ih => exact MemFree.trans (t := giveSlot k r v) rfl (ih _)
  unfold refill
  dsimp only
  exact MemFree.trans (t := modMem _ s) rfl (hslots _ _)

/-- A die back in service, its rehearsals begun anew (R348, R411). -/
def restored (k : Nat) (s : State) : State := (List.range 6).foldl (fun s w => regSet (K.REH_DONE_arrays k w) 0 s) (regMod K.ID_DIES_in_service (fun v => withBit v k true) s)

theorem restored_parts (k : Nat) (s : State) : restored k s = { s with reg := (restored k s).reg } ∧ dieIn (restored k s) k = true ∧
    (∀ w < 6, regGet (restored k s) (K.REH_DONE_arrays k w) = 0) ∧ RegsKept (K.ID_DIES_in_service :: (List.range 6).map (K.REH_DONE_arrays k)) s (restored k s) := by
  obtain ⟨hframe, hk, hz⟩ := clearDone_regs k (List.range 6) (regMod K.ID_DIES_in_service (fun v => withBit v k true) s)
  have hne : K.ID_DIES_in_service ∉ (List.range 6).map (K.REH_DONE_arrays k) := by
    rw [List.mem_map]
    rintro ⟨w, -, hw⟩
    unfold K.REH_DONE_arrays K.ID_DIES_in_service fieldKey at hw
    omega
  refine ⟨hframe, ?_, fun w hw => hz w (List.mem_range.2 hw), fun j hj => ?_⟩
  · have hreg : regGet (restored k s) K.ID_DIES_in_service = withBit (regGet s K.ID_DIES_in_service) k true := (hk _ hne).trans (regGet_regMod_self ..)
    rw [dieIn, hreg, bitOf_withBit, if_pos rfl]
  · rw [List.mem_cons, not_or] at hj
    exact (hk j hj.2).trans (regGet_regMod_ne _ _ hj.1)

/-- A die no longer being reset. -/
abbrev resetOver (k : Nat) (s : State) : State := { s with boot := { s.boot with resetting := s.boot.resetting.filter (· != k) } }

theorem restoreDie_tells {k : Nat} (hm : k ∈ s.boot.resetting) (hr : running s = true) : restoreDie k s =
    raise .manager ⟨0x0309, 0, true, islNode (keyIsl s), k, 1, 0⟩ (restored k (refill k (resetOver k s))) := by
  have hkey : keyIsl (restored k (refill k (resetOver k s))) = keyIsl s := by
    have hrest := (restored_parts k (refill k (resetOver k s))).1
    have hfill : (refill k (resetOver k s)).isl = s.isl := by rw [refill_memFree]
    have hisl : (restored k (refill k (resetOver k s))).isl = s.isl := by rw [hrest, hfill]
    rw [keyIsl, hisl, keyIsl]
  rw [← hkey]
  refine if_neg ?_
  rw [List.contains_iff_mem.2 hm, hr]
  decide

/-! The statement -/

/-- Settles O53: breaks by what every loss of a node keeps (`NodeLost`), a reset by `partialReset_parts`, a return by `restoreDie_tells`. -/
theorem ringAndDieReset : Obligations.RingAndDieReset := by
  unfold Obligations.RingAndDieReset
  refine ⟨?_, fun d tr s => ⟨fun h => ⟨_, rfl, partialReset_parts h⟩, fun h => congrArg Host.Outcome.next (if_pos (by rw [h]; rfl))⟩, ?_⟩
  · intro g s cut hp
    refine ⟨fun hnil => ?_, fun hsome hg => ?_, fun hg => ?_⟩
    · have hgo : ¬ (!powered s || s.boot.broken.contains g.val) = true := by
        rw [hp, hnil]
        exact Bool.false_ne_true
      refine congrArg Host.Outcome.next ((if_neg hgo).trans ((if_pos ?_).trans (recordA_lastClass (islNode (keyIsl s)) cut)))
      rw [hnil]
      rfl
    · have hgo : ¬ (!powered s || s.boot.broken.contains g.val) = true := by
        rw [hp, Bool.not_true, Bool.false_or, List.contains_iff_mem]
        exact hg
      have hlen : ¬ (s.boot.broken ++ [g.val]).length = 1 := by
        rw [List.length_append, List.length_singleton]
        have := List.length_pos_of_ne_nil hsome
        omega
      have hpc : powered cut = true := hp
      have hlost (u : State) (h : NodeLost cut u) : powered u = true := h.powered hpc
      refine ⟨_, congrArg Host.Outcome.next ((if_neg hgo).trans (if_neg hlen)), congrArg Boot.broken (foldl_loseNode (List.range 7) cut).boot, fun hm i hi hd hr => ?_,
        fun hr => ?_, fun hr hb => ?_⟩
      · exact foldl_loseNode_brings (s := cut) (P := fun t => dieIn t (nth ringNodes i 0) = false ∨ t.op = .safeOff)
          (fun u h => loseNode_die (hlost u h) (by rw [cmpMode, actGet_congr h.active]; exact hm) hd (h.unreached hr)) (fun u v h => Or.imp (h.dies _) h.off)
          _ (List.mem_range.2 hi) (.refl cut)
      · exact foldl_loseNode_brings (s := cut) (P := fun t => t.op = .safeOff) (fun u h => loseNode_iod (hlost u h) (h.unreached hr)) (fun u v h => h.off)
          _ (List.mem_range.2 (by decide)) (.refl cut)
      · exact (foldl_loseNode [1, 2, 3, 4, 5, 6] (loseNode 0 cut)).lost .a (loseNode_siA hpc hr hb)
    · refine congrArg Host.Outcome.next (if_pos ?_)
      rw [List.contains_iff_mem.2 hg, Bool.or_true]
  · intro d s ready
    have hgo (h : ready) : ¬ (!s.boot.resetting.contains d.val || !running s || s.frame.start ≠ s.tbUnits || !(linksOf d.val).any (fun l => linkState s l == 2)) = true := by
      obtain ⟨hm, hr, hf, l, hl, hs⟩ := h
      have hup : (linksOf d.val).any (fun l => linkState s l == 2) = true := List.any_eq_true.2 ⟨l, hl, beq_iff_eq.2 hs⟩
      rw [List.contains_iff_mem.2 hm, hr, hf, hup]
      simp
    refine ⟨fun h hg => ?_, fun h hg => ?_, fun h => ?_⟩
    · obtain ⟨hframe, hin, hz, hk⟩ := restored_parts d (refill d (resetOver d s))
      refine ⟨_, congrArg Host.Outcome.next ((if_neg (hgo h)).trans ((gateOr_acts hg).trans (restoreDie_tells h.1 h.2.1))), _, rfl, hin, fun w => hz w w.isLt, hframe, fun k hm => ?_⟩
      have hreg : (refill d (resetOver d s)).reg = s.reg := by rw [refill_memFree]
      exact (hk k hm).trans (regGet_congr hreg k)
    · exact congrArg Host.Outcome.next ((if_neg (hgo h)).trans (gateOr_waits hg))
    · refine congrArg Host.Outcome.next (if_pos ?_)
      by_contra hno
      refine h ?_
      simp only [Bool.or_eq_true, Bool.not_eq_true', not_or, Bool.not_eq_false, decide_eq_true_eq, not_not] at hno
      obtain ⟨⟨⟨hm, hr⟩, hf⟩, hup⟩ := hno
      obtain ⟨l, hl, hs⟩ := List.any_eq_true.1 hup
      exact ⟨List.contains_iff_mem.1 hm, hr, hf, l, hl, beq_iff_eq.1 hs⟩

end Sys2Proof.Machine
end

section
/-! PROOFS. The resets of a host port and a fall of Bus Master Enable (R221, R356, R400, R401, R411). -/
namespace Sys2Proof.Machine
variable {s t u : State}

/-- A table with some of its keys left out reads its default there and as before elsewhere. -/
theorem tget_filter {α : Type} (d : α) (p : Nat → Bool) (k : Nat) (l : List (Nat × α)) :
    tget d k (l.filter fun e => p e.1) = if p k = true then tget d k l else d := by
  induction l with
  | nil => exact (ite_self d).symm
  | cons e l ih =>
    rw [List.filter_cons]
    by_cases he : k = e.1
    · subst he
      split <;> simp_all [tget]
    · have he' : e.1 ≠ k := Ne.symm he
      split <;> simp_all [tget]

/-! A port put back at reset -/

theorem resetPort_portOf (p : Nat) (s : State) : portOf (resetPort p s) p = { HostPort.init with perstLow := (portOf s p).perstLow } :=
  portOf_modPort_self (muteJobs p (resetPortRegs p s)) p (fun h => { HostPort.init with perstLow := h.perstLow })

theorem resetPort_portOf_ne {p q : Nat} (h : q ≠ p) (s : State) : portOf (resetPort p s) q = portOf s q :=
  portOf_modPort_ne (s := muteJobs p (resetPortRegs p s)) (fun h => { HostPort.init with perstLow := h.perstLow }) h

theorem resetPort_regs (p k : Nat) (s : State) :
    regGet (resetPort p s) k = if k / 32 / 0x10000 = p ∧ k / 32 % 0x10000 < 0x800 then resetOf k else regGet s k := by
  refine (tget_filter _ (fun k => !(k / 32 / 0x10000 == p && decide (k / 32 % 0x10000 < 0x800))) k s.reg).trans ?_
  by_cases h : k / 32 / 0x10000 = p ∧ k / 32 % 0x10000 < 0x800
  · rw [if_pos h, if_neg (by simp [h.1, h.2])]
  · rw [if_neg h, if_pos (by simpa only [Bool.not_eq_true', Bool.and_eq_false_iff, beq_eq_false_iff_ne, decide_eq_false_iff_not, not_and_or] using h), regGet]

/-! A fall of Bus Master Enable -/

/-- The ring enables of a port cleared. -/
def ringsOff (p : Nat) (l : List Nat) (s : State) : State := l.foldl (fun s i => regSet (K.RING_CTRL_enable p i) 0 s) s

theorem ringsOff_parts (p : Nat) (l : List Nat) (s : State) : ringsOff p l s = { s with reg := (ringsOff p l s).reg } ∧
    (∀ i ∈ l, regGet (ringsOff p l s) (K.RING_CTRL_enable p i) = 0) ∧ RegsKept (l.map (K.RING_CTRL_enable p)) s (ringsOff p l s) := by
  induction l generalizing s with
  | nil => exact ⟨rfl, fun i h => absurd h List.not_mem_nil, fun _ _ => rfl⟩
  | cons q l ih =>
    obtain ⟨hframe, hz, hk⟩ := ih (regSet (K.RING_CTRL_enable p q) 0 s)
    refine ⟨hframe, fun i hi => ?_, fun k hm => ?_⟩
    · by_cases hl : K.RING_CTRL_enable p i ∈ l.map (K.RING_CTRL_enable p)
      · obtain ⟨j, hj, he⟩ := List.mem_map.1 hl
        rw [← he]
        exact hz j hj
      · have hiq : i = q := (List.mem_cons.1 hi).resolve_right fun h => hl (List.mem_map_of_mem h)
        subst hiq
        exact (hk _ hl).trans (regGet_regSet_self ..)
    · rw [List.map_cons, List.mem_cons, not_or] at hm
      exact (hk k hm.2).trans (regGet_regSet_ne _ _ hm.1)

/-- A port without Bus Master Enable, its jobs' records discarded. -/
def mastered (p : Nat) (s : State) : State := muteJobs p (modPort p (fun h => { h with busMaster := false }) s)

theorem mastered_portOf (p : Nat) (s : State) : portOf (mastered p s) p = { portOf s p with busMaster := false } :=
  portOf_modPort_self s p fun h => { h with busMaster := false }

theorem mastered_portOf_ne {p q : Nat} (h : q ≠ p) (s : State) : portOf (mastered p s) q = portOf s q :=
  portOf_modPort_ne (s := s) (fun h => { h with busMaster := false }) h

theorem masterFall_off {p : Nat} (h : (portOf s p).busMaster = true) (hon : hostOn s p = false) : masterFall p s = mastered p s := by
  have hreg : regGet s (K.HOST_CTRL_enable p) ≠ 1 := beq_eq_false_iff_ne.1 hon
  exact (if_neg (by rw [h]; exact Bool.false_ne_true)).trans (if_pos hreg)

theorem masterFall_on {p : Nat} (h : (portOf s p).busMaster = true) (hon : hostOn s p = true) : masterFall p s =
    regSet (K.HOST_CTRL_enable p) 0 (regSet (K.EVT_CTRL_enable p) 0 (ringsOff p (List.range 8) (mastered p s))) := by
  have hreg : ¬ regGet s (K.HOST_CTRL_enable p) ≠ 1 := not_not.2 (beq_iff_eq.1 hon)
  exact (if_neg (by rw [h]; exact Bool.false_ne_true)).trans (if_neg hreg)

/-! The statement -/

/-- Settles O57: a reset by what its parts leave, a fall by whether the host was enabled. -/
theorem portResets : Obligations.PortResets := by
  unfold Obligations.PortResets
  refine ⟨?_, fun p s h => congrArg Host.Outcome.next (if_pos h), fun p s => ⟨_, rfl, portOf_modPort_self .., rfl⟩, ?_⟩
  · rintro p s c (⟨rfl, hlow⟩ | ⟨rfl, hup⟩)
    · refine ⟨_, congrArg Host.Outcome.next (if_neg (by rw [hlow]; exact Bool.false_ne_true)), ?_,
        fun q hq => (portOf_modPort_ne (s := resetPort p s) (fun h => { h with perstLow := true }) hq).trans (resetPort_portOf_ne hq s), fun k => resetPort_regs p k s, rfl, rfl, rfl⟩
      rw [portOf_modPort_self, resetPort_portOf, decide_eq_true rfl]
    · have hlow : (portOf s p).perstLow = false := by
        rw [portUp, Bool.and_eq_true, Bool.not_eq_true'] at hup
        exact hup.1
      refine ⟨_, congrArg Host.Outcome.next (if_pos hup), ?_, fun q hq => resetPort_portOf_ne hq s, fun k => resetPort_regs p k s, rfl, rfl, rfl⟩
      rw [resetPort_portOf, hlow, decide_eq_false (fun h => nomatch h)]
  · refine fun p s => ⟨fun h => congrArg Host.Outcome.next (if_pos (by rw [h]; rfl)), fun h => ?_⟩
    by_cases hon : hostOn s p = true
    · obtain ⟨hframe, hz, hk⟩ := ringsOff_parts p (List.range 8) (mastered p s)
      have hfall := masterFall_on h hon
      have hfields : masterFall p s = { mastered p s with reg := (masterFall p s).reg } := by
        rw [hfall, hframe]
        rfl
      have hregs : RegsKept (K.HOST_CTRL_enable p :: K.EVT_CTRL_enable p :: (List.range 8).map (K.RING_CTRL_enable p)) s (masterFall p s) := by
        rw [hfall]
        refine kept_set (by simp) (kept_set (by simp) fun k hm => hk k ?_)
        exact fun hr => hm (List.mem_cons_of_mem _ (List.mem_cons_of_mem _ hr))
      have hport (q : Nat) : portOf (masterFall p s) q = portOf (mastered p s) q := by rw [hfields]; rfl
      refine ⟨_, rfl, (hport p).trans (mastered_portOf p s), fun q hq => (hport q).trans (mastered_portOf_ne hq s), by rw [hfields]; rfl, ?_,
        fun _ => ⟨?_, ?_, fun i => ?_, hregs⟩, fun hoff => ?_⟩
      · rw [hfields]
        rfl
      · rw [hostOn, hfall, regGet_regSet_self]
        rfl
      · rw [evtOn, hfall, regGet_regSet_ne _ _ (by grind), regGet_regSet_self]
        rfl
      · rw [ringOn, hfall, regGet_regSet_ne _ _ (by grind), regGet_regSet_ne _ _ (by grind), hz i (List.mem_range.2 i.isLt)]
        rfl
      · rw [hon] at hoff
        contradiction
    · have hoff : hostOn s p = false := Bool.eq_false_iff.2 hon
      have hfall := masterFall_off h hoff
      refine ⟨_, congrArg Host.Outcome.next hfall, mastered_portOf p s, fun q hq => mastered_portOf_ne hq s, rfl, rfl, fun h => absurd h hon, fun _ => rfl⟩

end Sys2Proof.Machine
end

section
/-! PROOFS. Module reset, power removal and wake (R29, R355, R361, R396, R403, R411, R422, R423, R426). -/
namespace Sys2Proof.Machine
variable {s t u : State}

/-! A reset of the whole module -/

theorem resetAll_regs (keys : List Nat) (s : State) (k : Nat) : regGet (resetAll keys s) k = if k ∈ keys then regGet s k else resetOf k := by
  refine (tget_filter (resetOf k) (fun k => keys.contains k) k s.reg).trans ?_
  simp only [List.contains_iff_mem]
  rfl

theorem tget_reset (l m : List (Nat × HostPort)) (hl : (l.map (·.1)).Nodup) (p : Nat) :
    tget HostPort.init p (l.foldl (fun l e => tset HostPort.init e.1 { HostPort.init with perstLow := e.2.perstLow } l) m) =
      if p ∈ l.map (·.1) then { HostPort.init with perstLow := (tget HostPort.init p l).perstLow } else tget HostPort.init p m := by
  induction l generalizing m with
  | nil => rfl
  | cons e l ih =>
    rw [List.map_cons, List.nodup_cons] at hl
    rw [List.foldl_cons, ih _ hl.2, List.map_cons]
    by_cases hp : p = e.1
    · subst hp
      rw [if_neg hl.1, tget_tset_self, if_pos List.mem_cons_self]
      simp [tget]
    · have hskip : tget HostPort.init p (e :: l) = tget HostPort.init p l := if_neg (Ne.symm hp)
      rw [tget_tset_ne _ _ _ hp, hskip]
      simp only [List.mem_cons, hp, false_or]

/-- A reset of the whole module leaves PERST_n of each port as it is (R411). -/
theorem resetPorts_perst (l : List (Nat × HostPort)) (hl : (l.map (·.1)).Nodup) (p : Nat) :
    (tget HostPort.init p (resetPorts l)).perstLow = (tget HostPort.init p l).perstLow := by
  rw [resetPorts, tget_reset l [] hl]
  by_cases hp : p ∈ l.map (·.1)
  · rw [if_pos hp]
  · rw [if_neg hp, tget_notMem _ hp, tget_nil]

/-! The start of the boot -/

theorem startBoot_regs (s : State) : regGet (startBoot s) K.BOOT_STATUS_phase = 1 ∧ islState (startBoot s) .a = 2 ∧ islState (startBoot s) .b = 2 ∧
    RegsKept [K.BOOT_STATUS_phase, K.ISL_STATUS_sia, K.ISL_STATUS_sib] s (startBoot s) := by
  have hreg : (startBoot s).reg = (regSet K.BOOT_STATUS_phase 1 (regSet K.ISL_STATUS_sia 2 (regSet K.ISL_STATUS_sib 2 s))).reg := rfl
  refine ⟨?_, ?_, ?_, ?_⟩
  · rw [regGet_congr hreg, regGet_regSet_self]
  · rw [islState, regGet_congr hreg, islKey, regGet_regSet_ne _ _ (by decide), regGet_regSet_self]
  · rw [islState, regGet_congr hreg, islKey, regGet_regSet_ne _ _ (by decide), regGet_regSet_ne _ _ (by decide), regGet_regSet_self]
  · intro k hk
    rw [regGet_congr hreg]
    exact kept_set (by simp) (kept_set (by simp) (kept_set (by simp) (kept_refl _ s))) k hk

theorem startBoot_realm (s : State) : realmPort (startBoot s) 0 = s.mgrPort := tget_tset_self ..

theorem wearKeys_notBoot {k : Nat} (h : k ∈ wearKeys) : k ∉ [K.BOOT_STATUS_phase, K.ISL_STATUS_sia, K.ISL_STATUS_sib] := by
  revert k
  decide

/-! Resets -/

theorem mrstAssert_off (s : State) : ∃ log, exec .mrstAssert s =
    .next { resetAll wearKeys { s with boot := { s.boot with mrstLow := true } } with op := .off, opLog := log } := by
  by_cases h : s.op = .off
  · refine ⟨s.opLog, congrArg Host.Outcome.next ((if_pos h).trans ?_)⟩
    rw [← h]
    rfl
  · exact ⟨_, congrArg Host.Outcome.next (if_neg h)⟩

/-- The wear counters of the store as the registers of a module without power. -/
theorem tget_wear (l : List (Nat × Nat)) {k : Nat} (h : ∀ e ∈ l, e.1 ≠ k) (m : List (Nat × Nat)) :
    tget (resetOf k) k (l.foldl (fun r e => tset (resetOf e.1) e.1 e.2 r) m) = tget (resetOf k) k m := by
  induction l generalizing m with
  | nil => rfl
  | cons e l ih =>
    rw [List.foldl_cons, ih fun x hx => h x (List.mem_cons_of_mem _ hx)]
    exact tget_tset_ne _ _ _ (h e List.mem_cons_self).symm _

/-- The module as it starts to boot from DORMANT. -/
def woken (s : State) : State :=
  let r := resetAll (wearKeys ++ wakeKeys) s
  { r with tbUnits := s.tbUnits, time := s.time, thm := { Thermal.init with inletLog := s.thm.inletLog }, boot := { r.boot with wake := true } }

theorem woken_regs {k : Nat} (h : k ∈ wearKeys ++ wakeKeys) (s : State) : regGet (woken s) k = regGet s k :=
  (resetAll_regs (wearKeys ++ wakeKeys) s k).trans (if_pos h)

/-! The statement -/

/-- Settles O54: a boot by its start, a reset by what `resetAll` keeps. -/
theorem powerAndReset : Obligations.PowerAndReset := by
  unfold Obligations.PowerAndReset
  refine ⟨fun x s hlow => ?_, fun x b s hlow => ?_, fun s hlow => ?_, fun s => ?_, fun s => ?_, fun s hd => ?_, fun s hd => ?_⟩
  · have hgo : ¬ (!s.boot.mrstLow) = true := by
      rw [hlow]
      decide
    obtain ⟨hphase, ha, hb, -⟩ := startBoot_regs { s with boot := { s.boot with mrstLow := false, railsGood := true }, mgrPort := x.val }
    exact ⟨⟨_, congrArg Host.Outcome.next ((if_neg hgo).trans (if_pos rfl)), rfl, rfl, hphase, ha, hb, startBoot_realm _, rfl⟩,
      congrArg Host.Outcome.next ((if_neg hgo).trans (if_neg Bool.false_ne_true))⟩
  · refine congrArg Host.Outcome.next (if_pos ?_)
    rw [hlow]
    rfl
  · refine ⟨fun hr => ?_, fun hr => ?_⟩
    · obtain ⟨hphase, -, -, -⟩ := startBoot_regs { s with boot := { s.boot with railsGood := true } }
      refine ⟨_, congrArg Host.Outcome.next (if_neg ?_), rfl, hphase, rfl⟩
      rw [hlow, hr]
      decide
    · refine congrArg Host.Outcome.next (if_pos ?_)
      rw [hr, Bool.or_true]
  · obtain ⟨log, h⟩ := mrstAssert_off s
    refine ⟨_, h, rfl, rfl, rfl, rfl, rfl, rfl, rfl, fun i => ?_, rfl, fun k => ?_, fun k => ⟨rfl, rfl⟩, rfl, rfl, rfl, fun hn p => ?_⟩
    · cases i <;> rfl
    · exact resetAll_regs wearKeys { s with boot := { s.boot with mrstLow := true } } k
    · exact resetPorts_perst s.hosts hn p
  · exact ⟨_, rfl, rfl, rfl, rfl, fun k => rfl, fun k hk => tget_wear s.kept.wear hk [], rfl, rfl⟩
  · refine ⟨fun hb => ?_, fun hb => ?_⟩
    · have hgo : ¬ (s.op ≠ .dormant || s.isl.b.resetLow) = true := by
        rw [hd, hb]
        decide
      obtain ⟨hphase, -, -, hk⟩ := startBoot_regs (woken s)
      refine ⟨_, congrArg Host.Outcome.next (if_neg hgo), rfl, hphase, rfl, rfl, ?_, fun k hw => ?_, rfl, rfl⟩
      · exact (hk _ (by decide)).trans (woken_regs (by decide) s)
      · exact (hk k (wearKeys_notBoot hw)).trans (woken_regs (List.mem_append_left _ hw) s)
    · refine congrArg Host.Outcome.next (if_pos ?_)
      rw [hb, Bool.or_true]
  · refine congrArg Host.Outcome.next (if_pos ?_)
    rw [decide_eq_true hd, Bool.true_or]

end Sys2Proof.Machine
end

section
/-! PROOFS. The boot from the ROM self-test to the loading of the stewards (R352 to R355, R359, R360, R385, R387, R419). -/
namespace Sys2Proof.Machine
variable {s t u : State}

/-! A boot that ends -/

/-- SAFE_OFF entered from the boot reads phase 15, and keeps the code where an island is left (R360). -/
theorem safeOffFor_boot (cause : Nat) (h : s.op = .booting) : regGet (safeOffFor cause s) K.BOOT_STATUS_phase = 15 ∧
    (cause ≠ 1 → regGet (safeOffFor cause s) K.BOOT_STATUS_code = regGet s K.BOOT_STATUS_code) := by
  have hoff : s.op ≠ .safeOff := by
    rw [h]
    decide
  have hreg : (safeOffFor cause s).reg = (regSet K.BOOT_STATUS_phase 15 (if cause = 1 then regSet K.BOOT_STATUS_code 5 s else s)).reg := by
    unfold safeOffFor
    rw [if_neg hoff]
    dsimp only
    rw [if_pos h]
    rfl
  refine ⟨by rw [regGet_congr hreg, regGet_regSet_self], fun hc => ?_⟩
  rw [regGet_congr hreg, regGet_regSet_ne _ _ (by decide), if_neg hc]

theorem phase_notMem_faultKeys : K.BOOT_STATUS_phase ∉ faultKeys ∧ K.BOOT_STATUS_code ∉ faultKeys := by decide

/-- A class D detection in the boot. -/
theorem classD_booting {cause : Nat} (src : Nat) (h : s.op = .booting) (hp : powered s = true) :
    (classD cause src s).op = .safeOff ∧ regGet (classD cause src s) K.BOOT_STATUS_phase = 15 ∧
    (cause ≠ 1 → regGet (classD cause src s) K.BOOT_STATUS_code = regGet s K.BOOT_STATUS_code) := by
  obtain ⟨hphase, hcode⟩ := safeOffFor_boot cause h
  refine ⟨classD_op hp, ?_, fun hc => ?_⟩
  · rw [classD_parts hp]
    exact (raiseFault_kept (fun k hk => hk) (kept_refl faultKeys _) _ phase_notMem_faultKeys.1).trans hphase
  · rw [classD_parts hp]
    exact (raiseFault_kept (fun k hk => hk) (kept_refl faultKeys _) _ phase_notMem_faultKeys.2).trans (hcode hc)

/-- A boot that cannot go on (R360). -/
theorem bootFail_parts (code src : Nat) (h : s.op = .booting) (hp : powered s = true) : (bootFail code src s).op = .safeOff ∧
    regGet (bootFail code src s) K.BOOT_STATUS_phase = 15 ∧ regGet (bootFail code src s) K.BOOT_STATUS_code = code := by
  let v := regSet K.BOOT_STATUS_phase 15 (regSet K.BOOT_STATUS_code code s)
  have hfail : bootFail code src s = classD 7 src (raise .manager ⟨0x0307, 4, true, src, code, phase s, 0⟩ v) := by
    refine (if_neg ?_).trans (if_neg ?_)
    · rw [show powered v = true from hp]
      decide
    · rw [show v.op = .booting from h]
      decide
  obtain ⟨hop, hphase, hcode⟩ := classD_booting (cause := 7) (s := raise .manager ⟨0x0307, 4, true, src, code, phase s, 0⟩ v) src
    ((raise_op ..).trans h) ((powered_congr (raise_op ..) (raise_boot ..)).trans hp)
  rw [hfail]
  refine ⟨hop, hphase, (hcode (by decide)).trans ?_⟩
  rw [regGet_raise, regGet_regSet_ne _ _ (by decide), regGet_regSet_self]

/-! Phases -/

theorem bootAt_iff {p : Nat} : bootAt s p = true ↔ s.op = .booting ∧ regGet s K.BOOT_STATUS_phase = p := by
  rw [bootAt, Bool.and_eq_true, beq_iff_eq, beq_iff_eq]
  rfl

theorem not_bootAt_ne {p : Nat} (h : s.op ≠ .booting) : bootAt s p = false := by
  rw [Bool.eq_false_iff, ne_eq, bootAt_iff]
  exact fun hb => h hb.1

theorem toPhase_booting (p : Nat) (h : s.op = .booting) : toPhase p s = regSet K.BOOT_STATUS_phase p s := if_pos h

theorem toPhase_fieldSet (p : Nat) (h : s.op = .booting) : FieldSet K.BOOT_STATUS_phase (fun _ => p) s (toPhase p s) := by
  rw [toPhase_booting p h]
  exact ⟨regGet_regSet_self .., rfl, kept_set (by simp) (kept_refl _ s)⟩

/-! The ROM self-test -/

/-- Both islands after the ROM self-test. -/
def selfTested (a b : Nat) (s : State) : State := regSet K.ISL_STATUS_sia a (regSet K.ISL_STATUS_sib b s)

theorem selfTested_states (a b : Nat) (s : State) : islState (selfTested a b s) .a = a ∧ islState (selfTested a b s) .b = b := by
  refine ⟨regGet_regSet_self .., ?_⟩
  exact (regGet_regSet_ne _ _ (by decide)).trans (regGet_regSet_self ..)

theorem romSelfTest_runs (a b : Bool) (h1 : bootAt s 1 = true) (ha : islState s .a = 2) (hb : islState s .b = 2) : exec (.romSelfTest a b) s = .next (
    let v := selfTested (if a then 0 else 4) (if b then 0 else 4) s
    if !a then (if b then bootFail 4 (islNode .b) v else bootFail 5 iodSteward v)
    else if b then v else raiseFault .manager ⟨0x0602, 3, true, islNode .a, 1, 3, 0⟩ v) := by
  refine congrArg Host.Outcome.next (if_neg ?_)
  rw [h1, ha, hb]
  decide

/-! A slot -/

/-- Whether an image is genuine: its key, its signature, the digests of its components (R353). -/
def Genuine (x : SlotImage) (s : State) : Prop := sha384 x.key = s.kept.keyHashA ∧ x.sigOk = true ∧ x.components.map sha384 = x.listed

theorem slotFault_forged {x : SlotImage} (h : ¬ Genuine x s) : slotFault s x = some 1 := by
  refine if_pos ?_
  by_contra hno
  simp only [Bool.or_eq_true, not_or, decide_eq_true_eq, not_not, Bool.not_eq_true', Bool.not_eq_false] at hno
  exact h ⟨hno.1.1, hno.1.2, hno.2⟩

theorem slotFault_genuine {x : SlotImage} (h : Genuine x s) : slotFault s x = if x.svn.toNat < s.kept.svnMin then some 2 else none := by
  obtain ⟨hkey, hsig, hlist⟩ := h
  refine if_neg ?_
  rw [hkey, hsig, hlist]
  simp

/-! Fields filled one after another -/

/-- A field for each entry of a list set to its value. -/
def fill {α : Type} (key val : α → Nat) (l : List α) (s : State) : State := l.foldl (fun s w => regSet (key w) (val w) s) s

section
variable {α : Type} {key val : α → Nat} {l : List α}

theorem fill_frame (key val : α → Nat) (l : List α) (s : State) : fill key val l s = { s with reg := (fill key val l s).reg } := by
  induction l generalizing s with
  | nil => rfl
  | cons q l ih => exact ih (regSet (key q) (val q) s)

theorem fill_kept (key val : α → Nat) (l : List α) (s : State) : RegsKept (l.map key) s (fill key val l s) := by
  induction l generalizing s with
  | nil => exact fun _ _ => rfl
  | cons q l ih =>
    intro k hk
    rw [List.map_cons, List.mem_cons, not_or] at hk
    exact (ih (regSet (key q) (val q) s) k hk.2).trans (regGet_regSet_ne _ _ hk.1)

theorem fill_get {w : α} (hinj : ∀ x ∈ l, key x = key w → x = w) (hw : w ∈ l) (s : State) : regGet (fill key val l s) (key w) = val w := by
  induction l generalizing s with
  | nil => exact absurd hw List.not_mem_nil
  | cons q l ih =>
    by_cases hl : w ∈ l
    · exact ih (fun x hx => hinj x (List.mem_cons_of_mem _ hx)) hl _
    · obtain rfl := (List.mem_cons.1 hw).resolve_right hl
      have hnot : key w ∉ l.map key := fun hm => by
        obtain ⟨x, hx, he⟩ := List.mem_map.1 hm
        exact hl (hinj x (List.mem_cons_of_mem _ hx) he ▸ hx)
      exact (fill_kept key val l _ _ hnot).trans (regGet_regSet_self ..)

end

theorem measureKey_injective {a b : Nat} (h : K.ID_MEASURE_m a = K.ID_MEASURE_m b) : a = b := by
  unfold K.ID_MEASURE_m fieldKey at h
  omega

theorem measureKey_ne_phase {w : Nat} (hw : w < 12) : K.ID_MEASURE_m w ≠ K.BOOT_STATUS_phase := by
  intro h
  unfold K.ID_MEASURE_m K.BOOT_STATUS_phase fieldKey at h
  omega

/-! A slot that boots -/

/-- The registers of a slot that has been measured (R352, R353). -/
def slotRegs (slot : Nat) (x : SlotImage) (s : State) : State :=
  regSet K.BOOT_STATUS_slot slot (regSet K.BOOT_SVN_svn x.svn.toNat (fill K.ID_MEASURE_m (fun w => fieldAt (measure x.listed) (4 * w) 4) (List.range 12) s))

/-- A slot taken, what it carries noted. -/
def slotTaken (slot : Nat) (x : SlotImage) (s : State) : State :=
  { slotRegs slot x s with boot := { (slotRegs slot x s).boot with
    key := x.key, listed := x.listed, svn := x.svn.toNat, raiseMin := x.raiseMin, log := x.listed } }

theorem slotTaken_parts (slot : Nat) (x : SlotImage) (s : State) :
    slotTaken slot x s = { s with reg := (slotTaken slot x s).reg, boot := { s.boot with key := x.key, listed := x.listed, svn := x.svn.toNat, raiseMin := x.raiseMin, log := x.listed } } := by
  rw [slotTaken, slotRegs, fill_frame]
  rfl

theorem slotTaken_regs (slot : Nat) (x : SlotImage) (s : State) : regGet (slotTaken slot x s) K.BOOT_STATUS_slot = slot ∧
    regGet (slotTaken slot x s) K.BOOT_SVN_svn = x.svn.toNat ∧ ∀ w < 12, regGet (slotTaken slot x s) (K.ID_MEASURE_m w) = fieldAt (measure x.listed) (4 * w) 4 := by
  have hreg : (slotTaken slot x s).reg = (slotRegs slot x s).reg := rfl
  refine ⟨?_, ?_, fun w hw => ?_⟩
  · rw [regGet_congr hreg, slotRegs, regGet_regSet_self]
  · rw [regGet_congr hreg, slotRegs, regGet_regSet_ne _ _ (by decide), regGet_regSet_self]
  · rw [regGet_congr hreg, slotRegs, regGet_regSet_ne _ _ (by grind), regGet_regSet_ne _ _ (by grind)]
    exact fill_get (fun _ _ => measureKey_injective) (List.mem_range.2 hw) s

/-- A slot taken, and slot 0's failure told (R362). -/
theorem takeSlot_told (slot : Nat) (x : SlotImage) (s : State) : ∃ v, takeSlot slot x s = toPhase 2 v ∧ v.reg = (slotTaken slot x s).reg ∧
    v.op = s.op ∧ v.boot = { s.boot with key := x.key, listed := x.listed, svn := x.svn.toNat, raiseMin := x.raiseMin, log := x.listed } := by
  have hparts := slotTaken_parts slot x s
  have hop : (slotTaken slot x s).op = s.op := by rw [hparts]
  have hboot : (slotTaken slot x s).boot = { s.boot with key := x.key, listed := x.listed, svn := x.svn.toNat, raiseMin := x.raiseMin, log := x.listed } := by rw [hparts]
  have htake : takeSlot slot x s = toPhase 2 (match (slotTaken slot x s).boot.slot0 with
    | some c => raiseFault .manager ⟨0x0306, 1, true, islNode .a, slot, c, 0⟩ (slotTaken slot x s)
    | none => slotTaken slot x s) := rfl
  refine ⟨_, htake, ?_⟩
  split
  · exact ⟨raise_reg .., (raise_op ..).trans hop, (raise_boot ..).trans hboot⟩
  · exact ⟨rfl, hop, hboot⟩

/-! The rails -/

/-- The voltage that a die's levels ask for (R385). -/
def railWanted (s : State) (d : Nat) : Nat := ((List.range 4).map fun g => levelMv (levelOf s d g)).foldl max 0

/-- The rails of some dies set, but for those whose steward has refused its code. -/
def railsSet (refused l : List Nat) (s : State) : State := l.foldl (fun s d => if refused.contains d then s else followRail d s) s

theorem railsSet_parts (refused l : List Nat) (s : State) : railsSet refused l s = { s with thm := { s.thm with dies := (railsSet refused l s).thm.dies } } ∧
    ∀ d, thermOf (railsSet refused l s) d = { thermOf s d with rail := if d ∈ l ∧ d ∉ refused then railWanted s d else (thermOf s d).rail } := by
  induction l generalizing s with
  | nil => exact ⟨rfl, fun d => by rw [if_neg fun h => absurd h.1 List.not_mem_nil]; rfl⟩
  | cons q l ih =>
    have hstep : railsSet refused (q :: l) s = railsSet refused l (if refused.contains q then s else followRail q s) := rfl
    rw [hstep]
    by_cases hq : q ∈ refused
    · rw [if_pos (List.contains_iff_mem.2 hq)]
      obtain ⟨hframe, hd⟩ := ih s
      refine ⟨hframe, fun d => (hd d).trans ?_⟩
      have hiff : (d ∈ q :: l ∧ d ∉ refused) ↔ (d ∈ l ∧ d ∉ refused) :=
        ⟨fun h => ⟨(List.mem_cons.1 h.1).resolve_left fun he => h.2 (he ▸ hq), h.2⟩, fun h => ⟨List.mem_cons_of_mem _ h.1, h.2⟩⟩
      simp only [hiff]
    · rw [if_neg fun h => hq (List.contains_iff_mem.1 h)]
      obtain ⟨hframe, hd⟩ := ih (followRail q s)
      refine ⟨?_, fun d => (hd d).trans ?_⟩
      · generalize railsSet refused l (followRail q s) = v at hframe
        rw [hframe]
        rfl
      · have hwant : railWanted (followRail q s) d = railWanted s d := rfl
        rw [hwant]
        by_cases hdq : d = q
        · subst hdq
          rw [followRail, thermOf_modTherm_self, ← railWanted, ite_self, if_pos ⟨List.mem_cons_self, hq⟩]
        · have hsame : thermOf (followRail q s) d = thermOf s d := thermOf_modTherm_ne (s := s) (fun t => { t with rail := railWanted s q }) hdq
          rw [hsame]
          simp only [List.mem_cons, hdq, false_or]

/-- A step that asks the state which stewards refused asks what stands, since no rail changes it. -/
theorem foldl_followRail (refused l : List Nat) (h : s.boot.refused = refused) :
    l.foldl (fun s d => if s.boot.refused.contains d then s else followRail d s) s = railsSet refused l s := by
  induction l generalizing s with
  | nil => rfl
  | cons q l ih =>
    rw [List.foldl_cons, railsSet, List.foldl_cons, h]
    refine ih ?_
    split
    · exact h
    · exact h

/-- The dies powered: the first set point of each rail (R355, R385, R419, R420). -/
theorem powerDies_parts (s : State) : FirstRails s.boot.refused s (powerDies s) ∧
    powerDies s = { s with thm := (powerDies s).thm, boot := { s.boot with loaded := true } } := by
  let v : State := { s with boot := { s.boot with loaded := true } }
  have hsame : powerDies s = railsSet s.boot.refused (List.range 4) v := foldl_followRail _ _ rfl
  obtain ⟨hframe, hd⟩ := railsSet_parts s.boot.refused (List.range 4) v
  rw [hsame]
  refine ⟨⟨?_, fun d => (hd d).trans ?_⟩, ?_⟩
  · rw [hframe]
  · have hin : (d : Nat) ∈ List.range 4 := List.mem_range.2 d.isLt
    have hv : thermOf v d = thermOf s d := rfl
    rw [hv]
    by_cases hr : (d : Nat) ∈ s.boot.refused
    · rw [if_pos hr, if_neg fun h => h.2 hr]
    · rw [if_neg hr, if_pos ⟨hin, hr⟩]
      rfl
  · rw [hframe]

/-! The statement -/

theorem romSelfTests (h1 : bootAt s 1 = true) (hp : powered s = true) (ha : islState s .a = 2) (hb : islState s .b = 2) :
    (Runs (.romSelfTest true true) s fun t => islState t .a = 0 ∧ islState t .b = 0 ∧ t = { s with reg := t.reg } ∧ RegsKept [K.ISL_STATUS_sia, K.ISL_STATUS_sib] s t) ∧
    (Runs (.romSelfTest true false) s fun t => islState t .a = 0 ∧ islState t .b = 4 ∧ regGet t K.FAULT_COUNT_c = satInc 255 (regGet s K.FAULT_COUNT_c) ∧ t.op = .booting) ∧
    (∀ b, Runs (.romSelfTest false b) s fun t => t.op = .safeOff ∧ regGet t K.BOOT_STATUS_phase = 15 ∧ regGet t K.BOOT_STATUS_code = if b then 4 else 5) := by
  obtain ⟨hop, -⟩ := bootAt_iff.1 h1
  have hkept (a b : Nat) : RegsKept [K.ISL_STATUS_sia, K.ISL_STATUS_sib] s (selfTested a b s) := kept_set (by simp) (kept_set (by simp) (kept_refl _ s))
  refine ⟨⟨_, romSelfTest_runs true true h1 ha hb, (selfTested_states 0 0 s).1, (selfTested_states 0 0 s).2, rfl, hkept 0 0⟩,
    ⟨_, romSelfTest_runs true false h1 ha hb, ?_, ?_, ?_, ?_⟩, fun b => ⟨_, romSelfTest_runs false b h1 ha hb, ?_⟩⟩
  · exact (islState_raiseFault ..).trans (selfTested_states 0 4 s).1
  · exact (islState_raiseFault ..).trans (selfTested_states 0 4 s).2
  · refine (regGet_congr (raiseFault_reg ..) _).trans ((recordC_counts ..).1.trans ?_)
    exact congrArg (satInc 255) (hkept 0 4 K.FAULT_COUNT_c (by decide))
  · exact (raiseFault_op ..).trans hop
  · cases b
    · exact bootFail_parts (s := selfTested 4 4 s) 5 iodSteward hop hp
    · exact bootFail_parts (s := selfTested 4 0 s) 4 (islNode .b) hop hp

theorem bootSlot_runs {i : Fin 2} (x : SlotImage) (h1 : bootAt s 1 = true) (ha : islState s .a = 0) (hs : i.val = 1 ↔ s.boot.slot0.isSome = true) :
    exec (.bootSlot i x) s = .next (match slotFault s x, s.boot.slot0 with
      | none, _ => takeSlot i.val x s
      | some c, none => { s with boot := { s.boot with slot0 := some c } }
      | some c, some c0 => bootFail (max c c0) (islNode .a) s) := by
  have hread : (decide (i.val = 1) != s.boot.slot0.isSome) = false := by
    rw [bne_eq_false_iff_eq, Bool.eq_iff_iff, decide_eq_true_iff]
    exact hs
  refine congrArg Host.Outcome.next (if_neg ?_)
  rw [h1, ha, hread]
  decide

/-- The stewards that refuse their code end the boot, or set the rails, or the boot waits for its coolant (R354, R355, R359). -/
theorem stewardLoad_runs (h3 : bootAt s 3 = true) (hl : s.boot.loaded = false) : exec .stewardLoad s = .next (
    let v := { s with boot := { s.boot with refused := refusals s } }
    if (refusals s).contains 4 then classD 2 (islNode .a) v
    else if f32Le f32One (flowUsed s) then powerDies v else toPhase 9 v) := by
  refine congrArg Host.Outcome.next (if_neg ?_)
  rw [h3, hl]
  decide

theorem bootResume_runs (h9 : bootAt s 9 = true) (hf : flowStays s = true) : exec .bootResume s = .next (toPhase 3 (powerDies s)) := by
  refine congrArg Host.Outcome.next (if_pos ?_)
  rw [h9, hf]
  rfl

/-- A slot that verifies boots; one that does not is noted, or with the other ends the boot (R352, R353, R360). -/
theorem bootSlots (x : SlotImage) (i : Fin 2) (h1 : bootAt s 1 = true) (hp : powered s = true) (ha : islState s .a = 0) (hs : i.val = 1 ↔ s.boot.slot0.isSome = true) :
    (Genuine x s → s.kept.svnMin ≤ x.svn.toNat → Runs (.bootSlot i x) s fun t => regGet t K.BOOT_STATUS_phase = 2 ∧
      regGet t K.BOOT_STATUS_slot = i ∧ regGet t K.BOOT_SVN_svn = x.svn.toNat ∧
      (∀ w : Fin 12, regGet t (K.ID_MEASURE_m w) = fieldAt (measure x.listed) (4 * w.val) 4) ∧ t.op = .booting ∧
      t.boot = { s.boot with key := x.key, listed := x.listed, svn := x.svn.toNat, raiseMin := x.raiseMin, log := x.listed }) ∧
    (∀ c, (¬ Genuine x s ∧ c = 1 ∨ Genuine x s ∧ x.svn.toNat < s.kept.svnMin ∧ c = 2) →
      (s.boot.slot0 = none → exec (.bootSlot i x) s = .next { s with boot := { s.boot with slot0 := some c } }) ∧
      (∀ c0, s.boot.slot0 = some c0 → Runs (.bootSlot i x) s fun t => t.op = .safeOff ∧ regGet t K.BOOT_STATUS_phase = 15 ∧ regGet t K.BOOT_STATUS_code = max c c0)) := by
  obtain ⟨hop, -⟩ := bootAt_iff.1 h1
  have hrun := bootSlot_runs x h1 ha hs
  refine ⟨fun hg hv => ?_, fun c hc => ?_⟩
  · have hf : slotFault s x = none := (slotFault_genuine hg).trans (if_neg (Nat.not_lt.2 hv))
    rw [hf] at hrun
    obtain ⟨v, hv, hreg, hvop, hboot⟩ := takeSlot_told i.val x s
    obtain ⟨hslot, hsvn, hm⟩ := slotTaken_regs i.val x s
    rw [hv, toPhase_booting 2 (hvop.trans hop)] at hrun
    have hget {k : Nat} (h : k ≠ K.BOOT_STATUS_phase) : regGet (regSet K.BOOT_STATUS_phase 2 v) k = regGet (slotTaken i.val x s) k :=
      (regGet_regSet_ne _ _ h).trans (regGet_congr hreg k)
    exact ⟨_, hrun, regGet_regSet_self .., (hget (by decide)).trans hslot, (hget (by decide)).trans hsvn, fun w => (hget (measureKey_ne_phase w.isLt)).trans (hm w w.isLt),
      hvop.trans hop, hboot⟩
  · have hf : slotFault s x = some c := by
      obtain ⟨hno, rfl⟩ | ⟨hg, hv, rfl⟩ := hc
      · exact slotFault_forged hno
      · exact (slotFault_genuine hg).trans (if_pos hv)
    rw [hf] at hrun
    refine ⟨fun h0 => ?_, fun c0 h0 => ?_⟩
    · rw [h0] at hrun
      exact hrun
    · rw [h0] at hrun
      exact ⟨_, hrun, bootFail_parts _ _ hop hp⟩

/-- The ring's load under SI_B's own hash of the key. -/
def LoadGood (x : RingLoad) (s : State) : Prop := x.sigOk = true ∧ sha384 s.boot.key = s.kept.keyHashB ∧ sha384 x.firmware = nth s.boot.listed 1 []

/-- SI_B runs its firmware or is FAILED, and the boot goes on (R354). -/
theorem sibLoads (x : RingLoad) (h2 : bootAt s 2 = true) :
    ((LoadGood x s ∨ islState s .b = 4) →
      Runs (.sibFirmwareVerify x) s (FieldSet K.BOOT_STATUS_phase (fun _ => 3) { s with boot := { s.boot with codes := x.codes } })) ∧
    (¬ LoadGood x s → islState s .b ≠ 4 → Runs (.sibFirmwareVerify x) s fun t => t.boot = { s.boot with codes := x.codes } ∧ islState t .b = 4 ∧ regGet t K.BOOT_STATUS_phase = 3 ∧
      regGet t K.FAULT_COUNT_c = satInc 255 (regGet s K.FAULT_COUNT_c)) := by
  obtain ⟨hop, -⟩ := bootAt_iff.1 h2
  have hgo : ¬ (!bootAt s 2) = true := by
    rw [h2]
    decide
  have hok : (x.sigOk && sha384 s.boot.key == s.kept.keyHashB && sha384 x.firmware == nth s.boot.listed 1 []) = true ↔ LoadGood x s := by
    rw [Bool.and_eq_true, Bool.and_eq_true, beq_iff_eq, beq_iff_eq, and_assoc]
    rfl
  let v : State := { s with boot := { s.boot with codes := x.codes } }
  refine ⟨fun h => ?_, fun hno hb => ?_⟩
  · refine ⟨_, congrArg Host.Outcome.next ((if_neg hgo).trans (congrArg (toPhase 3) (if_pos ?_))), toPhase_fieldSet 3 (s := v) hop⟩
    rw [Bool.or_eq_true, beq_iff_eq]
    exact h.imp hok.2 id
  · have hfault : ¬ ((x.sigOk && sha384 s.boot.key == s.kept.keyHashB && sha384 x.firmware == nth s.boot.listed 1 []) || islState v .b == 4) = true := by
      rw [Bool.or_eq_true, beq_iff_eq, hok]
      exact not_or.2 ⟨hno, hb⟩
    let u := raiseFault .manager ⟨0x0602, 3, true, islNode .b, 1, 3, 0⟩ (regSet K.ISL_STATUS_sib 4 v)
    have huop : u.op = .booting := (raiseFault_op ..).trans hop
    have hcount := (recordC_counts (islNode .b) (regSet K.ISL_STATUS_sib 4 v)).1
    refine ⟨_, congrArg Host.Outcome.next ((if_neg hgo).trans ((congrArg (toPhase 3) (if_neg hfault)).trans (toPhase_booting (s := u) 3 huop))), raiseFault_boot ..,
      ?_, regGet_regSet_self .., ?_⟩
    · refine (regGet_regSet_ne _ _ (by decide)).trans ((islState_raiseFault (i := .b) ..).trans (regGet_regSet_self ..))
    · rw [regGet_regSet_ne _ _ (by decide), regGet_congr (raiseFault_reg ..), hcount, regGet_regSet_ne _ _ (by decide)]
      rfl

/-- The stewards' loading by what they refuse and the coolant (R354, R355, R359). -/
theorem stewardLoads (h3 : bootAt s 3 = true) (hl : s.boot.loaded = false) :
    (∀ d, d ∈ refusals s ↔ d < 5 ∧ sha384 (nth s.boot.codes d []) ≠ nth s.boot.listed 2 []) ∧
    (4 ∉ refusals s → f32Le f32One (flowUsed s) = true →
      Runs .stewardLoad s fun t => FirstRails (refusals s) s t ∧
        t = { s with thm := t.thm, boot := { s.boot with refused := refusals s, loaded := true } }) ∧
    (4 ∉ refusals s → f32Le f32One (flowUsed s) = false → Runs .stewardLoad s fun t => regGet t K.BOOT_STATUS_phase = 9 ∧
      t = { s with reg := t.reg, boot := { s.boot with refused := refusals s } } ∧ RegsKept [K.BOOT_STATUS_phase] s t) ∧
    (4 ∈ refusals s → powered s = true → Runs .stewardLoad s fun t => t.op = .safeOff ∧ regGet t K.BOOT_STATUS_phase = 15) := by
  obtain ⟨hop, -⟩ := bootAt_iff.1 h3
  let v : State := { s with boot := { s.boot with refused := refusals s } }
  have hrun := stewardLoad_runs h3 hl
  refine ⟨fun d => ?_, fun h4 hf => ?_, fun h4 hf => ?_, fun h4 hp => ?_⟩
  · rw [refusals, List.mem_filter, List.mem_range, bne_iff_ne]
  · obtain ⟨hrails, hframe⟩ := powerDies_parts v
    refine ⟨_, hrun.trans (congrArg Host.Outcome.next ((if_neg fun h => h4 (List.contains_iff_mem.1 h)).trans (if_pos hf))), hrails, hframe⟩
  · obtain ⟨hphase, hframe, hk⟩ := toPhase_fieldSet 9 (s := v) hop
    refine ⟨_, hrun.trans (congrArg Host.Outcome.next ((if_neg fun h => h4 (List.contains_iff_mem.1 h)).trans (if_neg ?_))), hphase, hframe, hk⟩
    rw [hf]
    exact Bool.false_ne_true
  · obtain ⟨hoff, hphase, -⟩ := classD_booting (s := v) (cause := 2) (islNode .a) hop hp
    exact ⟨_, hrun.trans (congrArg Host.Outcome.next (if_pos (List.contains_iff_mem.2 h4))), hoff, hphase⟩

/-- The boot goes on once the flow has stayed (R359, R387). -/
theorem bootResumes (h9 : bootAt s 9 = true) :
    (flowStays s = true → Runs .bootResume s fun t => regGet t K.BOOT_STATUS_phase = 3 ∧ FirstRails s.boot.refused s t ∧
      t = { s with reg := t.reg, thm := t.thm, boot := { s.boot with loaded := true } } ∧ RegsKept [K.BOOT_STATUS_phase] s t) ∧
    (flowStays s = false → exec .bootResume s = .next s) ∧
    (∀ x, regGet s K.THM_STATUS_sensor_ok = 1 → s.thm.goodFrom = some x → (flowStays s = true ↔ x + secTicks ≤ s.ticks)) := by
  obtain ⟨hop, -⟩ := bootAt_iff.1 h9
  refine ⟨fun hf => ?_, fun hf => ?_, fun x hok hx => ?_⟩
  · obtain ⟨⟨hthm, hrails⟩, hframe⟩ := powerDies_parts s
    have hup : (powerDies s).op = .booting := by
      rw [hframe]
      exact hop
    refine ⟨_, (bootResume_runs h9 hf).trans (congrArg Host.Outcome.next (toPhase_booting 3 hup)), regGet_regSet_self .., ⟨hthm, hrails⟩, ?_, ?_⟩
    · generalize powerDies s = v at hframe
      rw [hframe]
      rfl
    · refine kept_set (by simp) ?_
      rw [hframe]
      exact fun _ _ => rfl
  · refine congrArg Host.Outcome.next (if_neg ?_)
    rw [hf, Bool.and_false]
    exact Bool.false_ne_true
  · rw [flowStays, if_pos hok, hx, Option.any_some, decide_eq_true_iff]

/-- Settles O55: each step by what it runs where the boot is at its phase. -/
theorem secureBoot : Obligations.SecureBoot := by
  unfold Obligations.SecureBoot
  exact ⟨fun s h1 hp ha hb => romSelfTests h1 hp ha hb, fun x i s h1 hp ha hs => bootSlots x i h1 hp ha hs, fun x s h2 => sibLoads x h2,
    fun s h3 hl => stewardLoads h3 hl, fun s h9 => bootResumes h9⟩

end Sys2Proof.Machine
end

section
/-! PROOFS. Discovery: the links train, the topology and the stacks' identities are gathered (R349, R350, R410). -/
namespace Sys2Proof.Machine
variable {s t u : State}

theorem RegOnly.op_boot (h : RegOnly s t) : t.op = s.op ∧ t.boot = s.boot := by
  obtain ⟨reg, rfl⟩ : ∃ reg, t = { s with reg := reg } := ⟨_, h⟩
  exact ⟨rfl, rfl⟩

theorem RecordsOnly.op_boot (h : RecordsOnly s t) : t.op = s.op ∧ t.boot = s.boot := by
  obtain ⟨records, rfl⟩ : ∃ records, t = { s with kept := { s.kept with records := records } } := ⟨_, h⟩
  exact ⟨rfl, rfl⟩

/-! Links that train in full -/

/-- A link up in the widths that its lanes allow. -/
def TrainedUp (f r : Nat) (t : State) (l : Nat) : Prop :=
  linkState t l = 2 ∧ (linkOf t l).fwd.width = widthFor (popCount 68 f) ∧ (linkOf t l).rev.width = widthFor (popCount 68 r)

/-- What the training of links leaves: the module's state, the boot's, and every link but those. -/
structure Trains (ls : List Nat) (s t : State) : Prop where
  op : t.op = s.op
  boot : t.boot = s.boot
  link : ∀ q, q ∉ ls → linkOf t q = linkOf s q
  state : ∀ q, q ∉ ls → linkState t q = linkState s q

/-- A link's directions at the start of a full training: what the latest of its records holds. -/
def fromRecords (l goodF goodR : Nat) (s : State) (k : Link) : Link :=
  let from_ := fun rev =>
    let a := tget LinkDir.init (recordKey l 0 rev) s.kept.records
    let b := tget LinkDir.init (recordKey l 1 rev) s.kept.records
    if a.epoch < b.epoch then b else a
  { fullDirs goodF goodR { k with fwd := from_ false, rev := from_ true } with trained := true }

/-- A link whose lane test has found its lanes, its records written, up. -/
def trainedLink (l goodF goodR : Nat) (s : State) : State :=
  regSet (K.LNK_STATUS_state l) 2 (writeRecord l true (writeRecord l false (laneTest l goodF goodR (modLink l (fromRecords l goodF goodR s) s))))

theorem trainedLink_state (l f r : Nat) (s : State) : linkState (trainedLink l f r s) l = 2 := regGet_regSet_self ..

theorem trainedLink_records (l f r : Nat) (s : State) : RecordsOnly (laneTest l f r (modLink l (fromRecords l f r s) s))
    (writeRecord l true (writeRecord l false (laneTest l f r (modLink l (fromRecords l f r s) s)))) := (writeRecord_recordsOnly ..).trans (writeRecord_recordsOnly ..)

theorem trainedLink_linkOf (l f r q : Nat) (s : State) : linkOf (trainedLink l f r s) q = linkOf (modLink l (fromRecords l f r s) s) q := by
  rw [trainedLink, linkOf_regSet, (trainedLink_records l f r s).linkOf, laneTest, linkOf_raise]

theorem trainedLink_op_boot (l f r : Nat) (s : State) : (trainedLink l f r s).op = s.op ∧ (trainedLink l f r s).boot = s.boot := by
  obtain ⟨hop, hboot⟩ := (trainedLink_records l f r s).op_boot
  exact ⟨hop.trans (raise_op ..), hboot.trans (raise_boot ..)⟩

theorem trainFull_enough {l f r : Nat} (hf : 16 ≤ popCount 68 f) (hr : 16 ≤ popCount 68 r) (s : State) : trainFull l f r s = showLink l (trainedLink l f r s) := by
  refine if_neg ?_
  rw [decide_eq_false (p := popCount 68 f < 16) (by omega), decide_eq_false (p := popCount 68 r < 16) (by omega)]
  decide

/-- A link with lanes enough is up in the widths they allow (R349). -/
theorem trainFull_up {l f r : Nat} (hf : 16 ≤ popCount 68 f) (hr : 16 ≤ popCount 68 r) (s : State) :
    TrainedUp f r (trainFull l f r s) l ∧ Trains [l] s (trainFull l f r s) := by
  rw [trainFull_enough hf hr]
  obtain ⟨hop, hboot⟩ := (showLink_regOnly l (trainedLink l f r s)).op_boot
  have hrec := trainedLink_records l f r s
  refine ⟨⟨(showLink_state ..).trans (trainedLink_state ..), ?_, ?_⟩, ⟨hop.trans (trainedLink_op_boot ..).1, hboot.trans (trainedLink_op_boot ..).2,
    fun q hq => ?_, fun q hq => ?_⟩⟩
  · rw [showLink_linkOf, trainedLink_linkOf, linkOf_modLink_self]
    exact fullDir_width ..
  · rw [showLink_linkOf, trainedLink_linkOf, linkOf_modLink_self]
    exact fullDir_width ..
  · rw [showLink_linkOf, trainedLink_linkOf, linkOf_modLink_ne (s := s) _ fun h => hq (List.mem_singleton.2 h)]
  · have hne : K.LNK_STATUS_state q ≠ K.LNK_STATUS_state l := fun h => hq (List.mem_singleton.2 (by unfold K.LNK_STATUS_state fieldKey at h; omega))
    rw [showLink_state, linkState, trainedLink, regGet_regSet_ne _ _ hne, regGet_congr hrec.reg, laneTest, regGet_raise]
    rfl

/-- The links that answer at both their ends train (R349, R350). -/
theorem foldl_trainFull {ans : Nat → Bool} {f r : Nat → Nat} (ls : List Nat) (hok : ∀ l ∈ ls, ans l = true → 16 ≤ popCount 68 (f l) ∧ 16 ≤ popCount 68 (r l)) (s : State) :
    let t := ls.foldl (fun s l => if ans l then trainFull l (f l) (r l) s else s) s
    (∀ l ∈ ls, ans l = true → TrainedUp (f l) (r l) t l) ∧ Trains ls s t := by
  induction ls generalizing s with
  | nil => exact ⟨fun l h => absurd h List.not_mem_nil, ⟨rfl, rfl, fun _ _ => rfl, fun _ _ => rfl⟩⟩
  | cons q ls ih =>
    intro t
    have hrest := ih (fun l hl => hok l (List.mem_cons_of_mem _ hl))
    by_cases ha : ans q = true
    · obtain ⟨hf, hr⟩ := hok q List.mem_cons_self ha
      have ht : t = ls.foldl (fun s l => if ans l then trainFull l (f l) (r l) s else s) (trainFull q (f q) (r q) s) := by
        rw [show t = _ from List.foldl_cons .., if_pos ha]
      obtain ⟨hup, hone⟩ := trainFull_up (l := q) hf hr s
      obtain ⟨hups, hall⟩ := hrest (trainFull q (f q) (r q) s)
      rw [ht]
      refine ⟨fun l hl hal => ?_, hall.op.trans hone.op, hall.boot.trans hone.boot, fun l hl => ?_, fun l hl => ?_⟩
      · by_cases hm : l ∈ ls
        · exact hups l hm hal
        · obtain rfl := (List.mem_cons.1 hl).resolve_right hm
          rw [TrainedUp, hall.link l hm, hall.state l hm]
          exact hup
      · rw [List.mem_cons, not_or] at hl
        exact (hall.link l hl.2).trans (hone.link l fun h => hl.1 (List.mem_singleton.1 h))
      · rw [List.mem_cons, not_or] at hl
        exact (hall.state l hl.2).trans (hone.state l fun h => hl.1 (List.mem_singleton.1 h))
    · have ht : t = ls.foldl (fun s l => if ans l then trainFull l (f l) (r l) s else s) s := by
        rw [show t = _ from List.foldl_cons .., if_neg ha]
      obtain ⟨hups, hall⟩ := hrest s
      rw [ht]
      refine ⟨fun l hl hal => ?_, hall.op, hall.boot, fun l hl => hall.link l fun h => hl (List.mem_cons_of_mem _ h),
        fun l hl => hall.state l fun h => hl (List.mem_cons_of_mem _ h)⟩
      rcases List.mem_cons.1 hl with rfl | hm
      · exact absurd hal ha
      · exact hups l hm hal

/-! The topology table -/

/-- The identity that an end has heard. -/
def heardId (ends : List EndAnn) (e : Nat) : Nat := if (annOf ends e).answered then (annOf ends e).rid.toNat else 0

/-- A topology entry gathered (R350, R410). -/
def topoSet (ends : List EndAnn) (e : Nat) (s : State) : State :=
  regSet (K.ID_TOPO_entry e 0) (topoWord s ends e) (regSet (K.ID_TOPO_entry e 1) (heardId ends e % 2 ^ 32) (regSet (K.ID_TOPO_entry e 2) (heardId ends e / 2 ^ 32) s))

/-- The registers of the topology table. -/
abbrev tableKeys : List Nat := (List.range 20).flatMap fun e => [K.ID_TOPO_entry e 0, K.ID_TOPO_entry e 1, K.ID_TOPO_entry e 2]

theorem mem_tableKeys {e : Nat} (h : e < 20) : K.ID_TOPO_entry e 0 ∈ tableKeys ∧ K.ID_TOPO_entry e 1 ∈ tableKeys ∧ K.ID_TOPO_entry e 2 ∈ tableKeys := by
  have hm (k : Nat) (hk : k ∈ [K.ID_TOPO_entry e 0, K.ID_TOPO_entry e 1, K.ID_TOPO_entry e 2]) : k ∈ tableKeys := List.mem_flatMap.2 ⟨e, List.mem_range.2 h, hk⟩
  exact ⟨hm _ (by simp), hm _ (by simp), hm _ (by simp)⟩

theorem topoSet_entry (ends : List EndAnn) (e : Nat) (s : State) : regGet (topoSet ends e s) (K.ID_TOPO_entry e 1) = heardId ends e % 2 ^ 32 := by
  rw [topoSet, regGet_regSet_ne _ _ (by grind), regGet_regSet_self]

theorem topoSet_other (ends : List EndAnn) {e q : Nat} (h : q ≠ e) (s : State) : regGet (topoSet ends e s) (K.ID_TOPO_entry q 1) = regGet s (K.ID_TOPO_entry q 1) := by
  rw [topoSet, regGet_regSet_ne _ _ (by grind), regGet_regSet_ne _ _ (by grind), regGet_regSet_ne _ _ (by grind)]

theorem topoSet_kept {e : Nat} (h : e < 20) (ends : List EndAnn) (s : State) : RegsKept tableKeys s (topoSet ends e s) :=
  kept_set (mem_tableKeys h).1 (kept_set (mem_tableKeys h).2.1 (kept_set (mem_tableKeys h).2.2 (kept_refl _ s)))

theorem foldl_topoSet (ends : List EndAnn) (es : List Nat) (hes : ∀ e ∈ es, e < 20) (s : State) :
    let t := es.foldl (fun s e => topoSet ends e s) s
    (∀ e ∈ es, regGet t (K.ID_TOPO_entry e 1) = heardId ends e % 2 ^ 32) ∧ (∀ e, e ∉ es → regGet t (K.ID_TOPO_entry e 1) = regGet s (K.ID_TOPO_entry e 1)) ∧
    RegOnly s t ∧ RegsKept tableKeys s t := by
  induction es generalizing s with
  | nil => exact ⟨fun e h => absurd h List.not_mem_nil, fun _ _ => rfl, .refl s, fun _ _ => rfl⟩
  | cons q es ih =>
    obtain ⟨hin, hout, hframe, hk⟩ := ih (fun e he => hes e (List.mem_cons_of_mem _ he)) (topoSet ends q s)
    refine ⟨fun e he => ?_, fun e he => ?_, (RegOnly.set _ _ (.set _ _ (.set _ _ (.refl s)))).trans hframe, fun k hm => ?_⟩
    · by_cases hm : e ∈ es
      · exact hin e hm
      · obtain rfl := (List.mem_cons.1 he).resolve_right hm
        exact (hout e hm).trans (topoSet_entry ends e s)
    · rw [List.mem_cons, not_or] at he
      exact (hout e he.2).trans (topoSet_other ends he.1 s)
    · exact (hk k hm).trans (topoSet_kept (hes q List.mem_cons_self) ends s k hm)

/-! The stacks' identities -/

/-- The words of the stacks' identities. -/
abbrev stackWords : List (Nat × Nat) := (List.range 8).flatMap fun h => (List.range 4).map fun w => (h, w)

theorem mem_stackWords {x : Nat × Nat} : x ∈ stackWords ↔ x.1 < 8 ∧ x.2 < 4 := by
  simp only [stackWords, List.mem_flatMap, List.mem_map, List.mem_range]
  constructor
  · rintro ⟨h, hh, w, hw, rfl⟩
    exact ⟨hh, hw⟩
  · exact fun ⟨hh, hw⟩ => ⟨x.1, hh, x.2, hw, rfl⟩

/-- The register of a word of a stack's identity. -/
abbrev stackKey (x : Nat × Nat) : Nat := K.ID_HBM_id x.1 x.2

theorem stackKey_inj {x y : Nat × Nat} (hx : x ∈ stackWords) (hy : y ∈ stackWords) (h : stackKey x = stackKey y) : x = y := by
  rw [mem_stackWords] at hx hy
  unfold stackKey K.ID_HBM_id fieldKey at h
  exact Prod.ext (by omega) (by omega)

/-- The stacks' identities gathered. -/
def stacksHeard (ids : List (BitVec 128)) (s : State) : State := fill stackKey (fun x => bitsAt (nth ids x.1 0).toNat (32 * x.2) 32) stackWords s

theorem foldl_stacks (ids : List (BitVec 128)) (s : State) : (List.range 8).foldl (fun s h => (List.range 4).foldl (fun s w =>
    regSet (K.ID_HBM_id h w) (bitsAt (nth ids h 0).toNat (32 * w) 32) s) s) s = stacksHeard ids s := by
  rw [stacksHeard, fill, stackWords, List.foldl_flatMap]
  simp only [List.foldl_map]

theorem notMem_stackKeys {k : Nat} (h : ∀ x ∈ stackWords, k ≠ stackKey x) : k ∉ stackWords.map stackKey := by
  rw [List.mem_map]
  rintro ⟨x, hx, rfl⟩
  exact h x hx rfl

/-- The state of a link is none of the registers that discovery gathers. -/
theorem linkState_notGathered {l : Nat} (hl : l < 8) : K.LNK_STATUS_state l ≠ K.BOOT_STATUS_phase ∧ K.LNK_STATUS_state l ∉ tableKeys ∧
    K.LNK_STATUS_state l ∉ stackWords.map stackKey := by
  refine ⟨?_, ?_, notMem_stackKeys fun x hx h => ?_⟩
  · intro h
    unfold K.LNK_STATUS_state K.BOOT_STATUS_phase fieldKey at h
    omega
  · simp only [tableKeys, List.mem_flatMap, List.mem_range, List.mem_cons, List.not_mem_nil, or_false]
    rintro ⟨e, he, h⟩
    unfold K.LNK_STATUS_state K.ID_TOPO_entry fieldKey at h
    omega
  · rw [mem_stackWords] at hx
    unfold K.LNK_STATUS_state stackKey K.ID_HBM_id fieldKey at h
    omega

/-- A topology entry is neither the phase nor a word of a stack's identity. -/
theorem topoEntry_notGathered {e : Nat} (he : e < 20) : K.ID_TOPO_entry e 1 ≠ K.BOOT_STATUS_phase ∧ K.ID_TOPO_entry e 1 ∉ stackWords.map stackKey := by
  refine ⟨fun h => ?_, notMem_stackKeys fun x hx h => ?_⟩
  · unfold K.ID_TOPO_entry K.BOOT_STATUS_phase fieldKey at h
    omega
  · rw [mem_stackWords] at hx
    unfold K.ID_TOPO_entry stackKey K.ID_HBM_id fieldKey at h
    omega

/-! What a training gathers -/

/-- The links trained. -/
def linksTrained (ends : List EndAnn) (f r : List (BitVec 68)) (s : State) : State := (List.range 8).foldl (fun s l => if linkAnswered ends l then
  trainFull l (nth f l 0).toNat (nth r l 0).toNat s else s) s

/-- The topology table gathered. -/
def topoHeard (ends : List EndAnn) (s : State) : State := (List.range 20).foldl (fun s e => topoSet ends e s) s

theorem linkTraining_runs (given : List EndAnn) (ids : List (BitVec 128)) (f r : List (BitVec 68)) (h3 : bootAt s 3 = true) (hl : s.boot.loaded = true) :
    exec (.linkTrainingDone given ids f r) s = .next (toPhase 4 (stacksHeard ids (topoHeard (heardEnds s given)
      (linksTrained (heardEnds s given) f r { s with boot := { s.boot with ends := heardEnds s given } })))) := by
  have hgo : ¬ (!bootAt s 3 || !s.boot.loaded) = true := by
    rw [h3, hl]
    decide
  rw [← foldl_stacks]
  exact congrArg Host.Outcome.next (if_neg hgo)

theorem linkTrained (given : List EndAnn) (ids : List (BitVec 128)) (f r : List (BitVec 68)) (h3 : bootAt s 3 = true) (hl : s.boot.loaded = true)
    (hok : ∀ l < 8, linkAnswered (heardEnds s given) l = true → 16 ≤ popCount 68 (nth f l 0).toNat ∧ 16 ≤ popCount 68 (nth r l 0).toNat) :
    Runs (.linkTrainingDone given ids f r) s fun t => regGet t K.BOOT_STATUS_phase = 4 ∧ t.boot.ends = heardEnds s given ∧
      (∀ l < 8, linkAnswered (heardEnds s given) l = true → TrainedUp (nth f l 0).toNat (nth r l 0).toNat t l) ∧
      (∀ (h : Fin 8) (w : Fin 4), regGet t (K.ID_HBM_id h w) = bitsAt (nth ids h 0).toNat (32 * w.val) 32) ∧
      (∀ e < 20, regGet t (K.ID_TOPO_entry e 1) = heardId (heardEnds s given) e % 2 ^ 32) := by
  obtain ⟨hop, -⟩ := bootAt_iff.1 h3
  have hrun := linkTraining_runs given ids f r h3 hl
  generalize heardEnds s given = ends at *
  let a : State := { s with boot := { s.boot with ends := ends } }
  obtain ⟨hups, htrain⟩ := foldl_trainFull (ans := linkAnswered ends) (f := fun l => (nth f l 0).toNat) (r := fun l => (nth r l 0).toNat) (List.range 8)
    (fun l hl ha => hok l (List.mem_range.1 hl) ha) a
  let b := linksTrained ends f r a
  obtain ⟨hent, -, htopo, hkept⟩ := foldl_topoSet ends (List.range 20) (fun e he => List.mem_range.1 he) b
  let c := topoHeard ends b
  let d := stacksHeard ids c
  have hstack : RegOnly c d := fill_frame ..
  have hregs : RegsKept (stackWords.map stackKey) c d := fun k hk => fill_kept _ _ _ _ k hk
  obtain ⟨hbop, hbboot⟩ := (htopo.trans hstack).op_boot
  rw [toPhase_booting 4 (hbop.trans (htrain.op.trans hop))] at hrun
  have hlink (l : Nat) : linkOf (regSet K.BOOT_STATUS_phase 4 d) l = linkOf b l := (linkOf_regSet ..).trans ((htopo.trans hstack).linkOf l)
  have hstate {l : Nat} (hl : l < 8) : linkState (regSet K.BOOT_STATUS_phase 4 d) l = linkState b l := by
    obtain ⟨hp, ht, hs⟩ := linkState_notGathered hl
    exact (regGet_regSet_ne _ _ hp).trans ((hregs _ hs).trans (hkept _ ht))
  refine ⟨_, hrun, regGet_regSet_self .., congrArg Boot.ends (hbboot.trans htrain.boot), fun l hl ha => ?_, fun h w => ?_, fun e he => ?_⟩
  · rw [TrainedUp, hlink, hstate hl]
    exact hups l (List.mem_range.2 hl) ha
  · have hm : ((h : Nat), (w : Nat)) ∈ stackWords := mem_stackWords.2 ⟨h.isLt, w.isLt⟩
    exact (regGet_regSet_ne _ _ (by grind)).trans (fill_get (fun x hx he => stackKey_inj hx hm he) hm c)
  · obtain ⟨hp, hs⟩ := topoEntry_notGathered he
    exact (regGet_regSet_ne _ _ hp).trans ((hregs _ hs).trans (hent e (List.mem_range.2 he)))

end Sys2Proof.Machine
end

section
/-! PROOFS. The manifest check (R351, R409). -/
namespace Sys2Proof.Machine
variable {s t u : State}

/-! A manifest that does not match -/

theorem foldl_mismatches (fs : List (Nat × Nat × Nat)) (s : State) :
    (fs.foldl (fun s x => raiseFault .manager (mismatchEv x) s) s).op = s.op ∧ RegsKept faultKeys s (fs.foldl (fun s x => raiseFault .manager (mismatchEv x) s) s) := by
  induction fs generalizing s with
  | nil => exact ⟨rfl, fun _ _ => rfl⟩
  | cons f fs ih =>
    obtain ⟨hop, hk⟩ := ih (raiseFault .manager (mismatchEv f) s)
    exact ⟨hop.trans (raiseFault_op ..), fun k hm => (hk k hm).trans (raiseFault_kept (fun _ h => h) (kept_refl _ s) k hm)⟩

/-- A fault of the manifest ends the boot with code 3, however many there are (R335, R351). -/
theorem failManifest_parts (fs : List (Nat × Nat × Nat)) (h : s.op = .booting) (hp : powered s = true) : (failManifest fs s).op = .safeOff ∧
    regGet (failManifest fs s) K.BOOT_STATUS_phase = 15 ∧ regGet (failManifest fs s) K.BOOT_STATUS_code = 3 := by
  cases fs with
  | nil => exact bootFail_parts 3 (islNode .a) h hp
  | cons f fs =>
    obtain ⟨hop, hphase, hcode⟩ := bootFail_parts (s := raise .manager (mismatchEv f) s) 3 (islNode .a) ((raise_op ..).trans h)
      ((powered_congr (raise_op ..) (raise_boot ..)).trans hp)
    obtain ⟨hsame, hk⟩ := foldl_mismatches fs (bootFail 3 (islNode .a) (raise .manager (mismatchEv f) s))
    exact ⟨hsame.trans hop, (hk _ phase_notMem_faultKeys.1).trans hphase, (hk _ phase_notMem_faultKeys.2).trans hcode⟩

/-! A manifest that matches -/

/-- Whether a die position is heard. -/
abbrev thereAt (s : State) (d : Nat) : Bool := !(heard s.boot.ends d).isEmpty

/-- The identities of the dies found. -/
def diesNamed (m : Manifest) (there : Nat → Bool) (ds : List Nat) (s : State) : State := ds.foldl (fun s d => if there d then
  regSet (K.ID_DIE_LO_id d) ((nth m.dies d 0).toNat % 2 ^ 32) (regSet (K.ID_DIE_HI_id d) ((nth m.dies d 0).toNat / 2 ^ 32) s) else s) s

/-- The registers of the identities of the dies. -/
abbrev nameKeys : List Nat := (List.range 7).flatMap fun d => [K.ID_DIE_LO_id d, K.ID_DIE_HI_id d]

theorem diesNamed_parts (m : Manifest) (there : Nat → Bool) (ds : List Nat) (hds : ∀ d ∈ ds, d < 7) (s : State) :
    RegOnly s (diesNamed m there ds s) ∧ RegsKept nameKeys s (diesNamed m there ds s) := by
  induction ds generalizing s with
  | nil => exact ⟨.refl s, fun _ _ => rfl⟩
  | cons q ds ih =>
    rw [diesNamed, List.foldl_cons]
    split
    · obtain ⟨hframe, hk⟩ := ih (fun d hd => hds d (List.mem_cons_of_mem _ hd))
        (regSet (K.ID_DIE_LO_id q) ((nth m.dies q 0).toNat % 2 ^ 32) (regSet (K.ID_DIE_HI_id q) ((nth m.dies q 0).toNat / 2 ^ 32) s))
      have hq (k : Nat) (h : k ∈ [K.ID_DIE_LO_id q, K.ID_DIE_HI_id q]) : k ∈ nameKeys := List.mem_flatMap.2 ⟨q, List.mem_range.2 (hds q List.mem_cons_self), h⟩
      refine ⟨(RegOnly.set _ _ (.set _ _ (.refl s))).trans hframe, fun k hk' => (hk k hk').trans ?_⟩
      exact kept_set (hq _ (by simp)) (kept_set (hq _ (by simp)) (kept_refl _ s)) k hk'
    · exact ih (fun d hd => hds d (List.mem_cons_of_mem _ hd)) s

/-- Dies found and matched, noted, none removed yet (R351, R409). -/
def matched (m : Manifest) (s : State) : State :=
  let v := regSet K.ID_DIES_present (ofBits ((List.range 4).map (thereAt s))) (regSet K.ID_DIES_in_service 15 (diesNamed m (thereAt s) (List.range 7) s))
  toPhase 5 (regSet K.ID_DIES_sia_ok (islState v .a != 4).toNat (regSet K.ID_DIES_sib_ok (islState v .b != 4).toNat v))

/-- The registers that a match writes. -/
abbrev matchKeys : List Nat := [K.BOOT_STATUS_phase, K.ID_DIES_sia_ok, K.ID_DIES_sib_ok, K.ID_DIES_present, K.ID_DIES_in_service] ++ nameKeys

theorem matched_parts (m : Manifest) (h : s.op = .booting) : RegOnly s (matched m s) ∧ RegsKept matchKeys s (matched m s) ∧
    regGet (matched m s) K.BOOT_STATUS_phase = 5 ∧ regGet (matched m s) K.ID_DIES_present = ofBits ((List.range 4).map (thereAt s)) ∧
    regGet (matched m s) K.ID_DIES_in_service = 15 := by
  obtain ⟨hnamed, hk⟩ := diesNamed_parts m (thereAt s) (List.range 7) (fun d hd => List.mem_range.1 hd) s
  let v := regSet K.ID_DIES_present (ofBits ((List.range 4).map (thereAt s))) (regSet K.ID_DIES_in_service 15 (diesNamed m (thereAt s) (List.range 7) s))
  let w := regSet K.ID_DIES_sia_ok (islState v .a != 4).toNat (regSet K.ID_DIES_sib_ok (islState v .b != 4).toNat v)
  have hw : RegOnly s w := .set _ _ (.set _ _ (.set _ _ (.set _ _ hnamed)))
  have hm : matched m s = regSet K.BOOT_STATUS_phase 5 w := toPhase_booting 5 (hw.op_boot.1.trans h)
  rw [hm]
  refine ⟨.set _ _ hw, ?_, regGet_regSet_self .., ?_, ?_⟩
  · refine kept_set (by simp) (kept_set (by simp) (kept_set (by simp) (kept_set (by simp) (kept_set (by simp) fun k hm => hk k fun hn => hm ?_))))
    exact List.mem_append_right _ hn
  · rw [regGet_regSet_ne _ _ (by decide), regGet_regSet_ne _ _ (by decide), regGet_regSet_ne _ _ (by decide), regGet_regSet_self]
  · rw [regGet_regSet_ne _ _ (by decide), regGet_regSet_ne _ _ (by decide), regGet_regSet_ne _ _ (by decide), regGet_regSet_ne _ _ (by decide), regGet_regSet_self]

theorem linkState_notMatch {l : Nat} (hl : l < 8) : K.LNK_STATUS_state l ∉ matchKeys := by
  simp only [matchKeys, nameKeys, List.mem_append, List.mem_cons, List.not_mem_nil, or_false, List.mem_flatMap, List.mem_range]
  unfold K.LNK_STATUS_state K.BOOT_STATUS_phase K.ID_DIES_sia_ok K.ID_DIES_sib_ok K.ID_DIES_present K.ID_DIES_in_service K.ID_DIE_LO_id K.ID_DIE_HI_id fieldKey
  rintro (h | ⟨d, hd, h⟩) <;> omega

theorem stackWord_notMatch {h w : Nat} (hh : h < 8) (hw : w < 4) : K.ID_HBM_id h w ∉ matchKeys := by
  simp only [matchKeys, nameKeys, List.mem_append, List.mem_cons, List.not_mem_nil, or_false, List.mem_flatMap, List.mem_range]
  unfold K.ID_HBM_id K.BOOT_STATUS_phase K.ID_DIES_sia_ok K.ID_DIES_sib_ok K.ID_DIES_present K.ID_DIES_in_service K.ID_DIE_LO_id K.ID_DIE_HI_id fieldKey
  rintro (h | ⟨d, hd, h⟩) <;> omega

theorem matched_stackId (m : Manifest) (h : s.op = .booting) {q : Nat} (hq : q < 8) : stackId (matched m s) q = stackId s q := by
  obtain ⟨-, hk, -⟩ := matched_parts m h
  have hmap : ((List.range 4).map fun w => regGet (matched m s) (K.ID_HBM_id q w) * 2 ^ (32 * w)) = (List.range 4).map fun w => regGet s (K.ID_HBM_id q w) * 2 ^ (32 * w) :=
    List.map_congr_left fun w hw => by rw [hk _ (stackWord_notMatch hq (List.mem_range.1 hw))]
  rw [stackId, hmap, stackId]

theorem matched_linkState (m : Manifest) (h : s.op = .booting) {l : Nat} (hl : l < 8) : linkState (matched m s) l = linkState s l :=
  (matched_parts m h).2.1 _ (linkState_notMatch hl)

/-! Dies missing -/

/-- The dies not found removed. -/
def missingDies (there : Nat → Bool) (s : State) : State := (List.range 4).foldl (fun s d => if there d then s else removeDie d 3 s) s

/-- The dies whose stack is not found removed. -/
def missingStacks (there : Nat → Bool) (s : State) : State :=
  (List.range 8).foldl (fun s h => if there (h / 2) && stackId s h == 0 then removeDie (h / 2) 0 s else s) s

/-- A missing SI_B is FAILED. -/
def missingIsland (s : State) : State := if !(annOf s.boot.ends 18).answered && !islRuns s .b && islState s .b != 4 then failIsl .b s else s

theorem passManifest_runs (m : Manifest) (s : State) :
    passManifest m s = missingIsland (dropIsolated (missingStacks (thereAt s) (missingDies (thereAt s) (matched m s)))) := by
  unfold passManifest missingIsland missingStacks missingDies matched diesNamed
  rfl

/-- What the removal of missing dies keeps: nothing comes back into service, and no register but those of removals changes. -/
def Removes (s t : State) : Prop := NodeLost s t ∧ RegsKept removeKeys s t

theorem Removes.refl (s : State) : Removes s s := ⟨.refl s, kept_refl _ s⟩

theorem Removes.trans (h : Removes s t) (g : Removes t u) : Removes s u := ⟨h.1.trans g.1, fun k hk => (g.2 k hk).trans (h.2 k hk)⟩

theorem removeDie_removes (k cause : Nat) (s : State) : Removes s (removeDie k cause s) := ⟨removeDie_nodeLost .., removeDie_kept (fun _ h => h) (kept_refl _ s)⟩

theorem orderRemoval_removes (k cause : Nat) (s : State) : Removes s (orderRemoval k cause s) :=
  ⟨orderRemoval_nodeLost .., orderRemoval_kept (fun _ h => h) (kept_refl _ s)⟩

theorem foldl_removes {f : State → Nat → State} (hf : ∀ s x, Removes s (f s x)) (l : List Nat) (s : State) : Removes s (l.foldl f s) := by
  induction l generalizing s with
  | nil => exact .refl s
  | cons x l ih => exact (hf s x).trans (ih _)

theorem missing_removes (there : Nat → Bool) (s : State) : Removes s (missingStacks there (missingDies there s)) := by
  refine (foldl_removes (fun s d => ?_) _ s).trans (foldl_removes (fun s h => ?_) _ _)
  · split
    · exact .refl s
    · exact removeDie_removes ..
  · split
    · exact removeDie_removes ..
    · exact .refl s

/-- A die that none of its links joins, by what the registers of the links say. -/
abbrev cutOff (s : State) (d : Nat) : Bool := (linksOf d).all fun l => linkState s l == 3

theorem linksOf_lt {d l : Nat} (h : l ∈ linksOf d) : l < 8 := List.mem_range.1 (List.mem_filter.1 h).1

theorem cutOff_iff {d : Nat} : cutOff s d = true ↔ ∀ l ∈ linksOf d, linkState s l = 3 := by
  rw [cutOff, List.all_eq_true]
  exact forall₂_congr fun l _ => beq_iff_eq

theorem linkState_notRemove (l : Nat) : K.LNK_STATUS_state l ∉ removeKeys := by grind

theorem Removes.cutOff (h : Removes s t) {d : Nat} (hd : cutOff s d = true) : cutOff t d = true := by
  rw [cutOff_iff] at hd ⊢
  exact fun l hl => (h.2 _ (linkState_notRemove l)).trans (hd l hl)

/-- One die of `dropIsolated`. -/
def dropOne (s : State) (d : Nat) : State := if cutOff s d = true then orderRemoval d 4 s else s

theorem dropOne_removes (s : State) (d : Nat) : Removes s (dropOne s d) := by
  unfold dropOne
  split
  · exact orderRemoval_removes ..
  · exact .refl s

/-- A die cut off leaves service, or the module is in SAFE_OFF (R346). -/
theorem dropOne_dies {d : Nat} (hp : powered s = true) (hm : cmpMode s ≠ 1) (hd : cutOff s d = true) : dieIn (dropOne s d) d = false ∨ (dropOne s d).op = .safeOff := by
  have hgates : gates s (holder s) = false := by rw [gates, beq_eq_false_iff_ne.2 hm, Bool.false_and]
  rw [dropOne, if_pos hd, orderRemoval, gateOr_acts hgates]
  exact removeDie_dieIn _ 4 hp

theorem foldl_dropOne {l : List Nat} {d : Nat} (h : d ∈ l) (hp : powered s = true) (hm : cmpMode s ≠ 1) (hd : cutOff s d = true) :
    dieIn (l.foldl dropOne s) d = false ∨ (l.foldl dropOne s).op = .safeOff := by
  induction l generalizing s with
  | nil => exact absurd h List.not_mem_nil
  | cons q l ih =>
    obtain ⟨hlost, hkept⟩ := dropOne_removes s q
    rw [List.foldl_cons]
    rcases List.mem_cons.1 h with rfl | hl
    · obtain ⟨hrest, -⟩ := foldl_removes dropOne_removes l (dropOne s d)
      exact (dropOne_dies hp hm hd).imp (hrest.dies d) hrest.off
    · refine ih hl (hlost.powered hp) ?_ (Removes.cutOff ⟨hlost, hkept⟩ hd)
      rw [cmpMode, actGet_congr hlost.active]
      exact hm

theorem missingIsland_keeps (s : State) : (missingIsland s).op = s.op ∧ RegsKept (stateKeys .b ++ faultKeys) s (missingIsland s) := by
  unfold missingIsland
  split
  · refine ⟨raiseFault_op .., raiseFault_kept (fun k h => List.mem_append_right _ h) fun k hk => setIsl_kept .b 4 s k fun h => hk (List.mem_append_left _ h)⟩
  · exact ⟨rfl, kept_refl _ s⟩

/-! Nothing missing -/

theorem foldl_same {α : Type} {f : State → α → State} {l : List α} (h : ∀ x ∈ l, f s x = s) : l.foldl f s = s := by
  induction l with
  | nil => rfl
  | cons x l ih => rw [List.foldl_cons, h x List.mem_cons_self, ih fun y hy => h y (List.mem_cons_of_mem _ hy)]

theorem noneMissing (m : Manifest) (h : s.op = .booting) (hd : ∀ d < 4, heard s.boot.ends d ≠ [] ∧ ∃ l ∈ linksOf d, linkState s l ≠ 3) (hst : ∀ q < 8, stackId s q ≠ 0) :
    passManifest m s = missingIsland (matched m s) := by
  have hthere {d : Nat} (hlt : d < 4) : thereAt s d = true := by
    rw [thereAt, Bool.not_eq_true', List.isEmpty_eq_false_iff]
    exact (hd d hlt).1
  have hdies : missingDies (thereAt s) (matched m s) = matched m s := foldl_same fun d hm => if_pos (hthere (List.mem_range.1 hm))
  have hstacks : missingStacks (thereAt s) (matched m s) = matched m s := by
    refine foldl_same fun q hm => if_neg ?_
    have hq := List.mem_range.1 hm
    rw [matched_stackId m h hq, beq_eq_false_iff_ne.2 (hst q hq), Bool.and_false]
    exact Bool.false_ne_true
  have hdrop : dropIsolated (matched m s) = matched m s := by
    refine foldl_same fun d hm => if_neg fun hcut => ?_
    obtain ⟨l, hl, hne⟩ := (hd d (List.mem_range.1 hm)).2
    exact hne ((matched_linkState m h (linksOf_lt hl)).symm.trans (cutOff_iff.1 hcut l hl))
  rw [passManifest_runs, hdies, hstacks, hdrop]

theorem allThere (h : ∀ d < 4, heard s.boot.ends d ≠ []) : ofBits ((List.range 4).map (thereAt s)) = 15 := by
  have hmap : (List.range 4).map (thereAt s) = (List.range 4).map fun _ => true := List.map_congr_left fun d hd => by
    rw [thereAt, Bool.not_eq_true', List.isEmpty_eq_false_iff]
    exact h d (List.mem_range.1 hd)
  rw [hmap]
  rfl

/-! What the check runs -/

theorem manifestCheck_fails {m : Manifest} (h4 : bootAt s 4 = true) (hp : powered s = true) (h : m.sigOk = false ∨ m.serial.toNat ≠ moduleSerial s ∨ manifestFaults s m ≠ []) :
    Runs (.manifestCheck m) s fun t => t.op = .safeOff ∧ regGet t K.BOOT_STATUS_phase = 15 ∧ regGet t K.BOOT_STATUS_code = 3 := by
  obtain ⟨hop, -⟩ := bootAt_iff.1 h4
  have hgo : ¬ (!bootAt s 4) = true := by
    rw [h4]
    decide
  by_cases hsig : (!m.sigOk || m.serial.toNat ≠ moduleSerial s) = true
  · exact ⟨_, congrArg Host.Outcome.next ((if_neg hgo).trans (if_pos hsig)), bootFail_parts 3 (islNode .a) hop hp⟩
  · have hfaults : ¬ (manifestFaults s m).isEmpty = true := by
      rw [Bool.or_eq_true, Bool.not_eq_true', decide_eq_true_eq, not_or] at hsig
      rw [List.isEmpty_iff]
      exact (h.resolve_left hsig.1).resolve_left hsig.2
    exact ⟨_, congrArg Host.Outcome.next ((if_neg hgo).trans ((if_neg hsig).trans (if_neg hfaults))), failManifest_parts _ hop hp⟩

theorem manifestCheck_passes {m : Manifest} (h4 : bootAt s 4 = true) (hs : m.sigOk = true) (hn : m.serial.toNat = moduleSerial s) (hf : manifestFaults s m = []) :
    exec (.manifestCheck m) s = .next (passManifest m s) := by
  have hgo : ¬ (!bootAt s 4) = true := by
    rw [h4]
    decide
  have hsig : ¬ (!m.sigOk || m.serial.toNat ≠ moduleSerial s) = true := by
    rw [hs, decide_eq_false (not_not.2 hn)]
    decide
  exact congrArg Host.Outcome.next ((if_neg hgo).trans ((if_neg hsig).trans (if_pos (List.isEmpty_iff.2 hf))))

/-- A manifest that matches a whole module passes (R351). -/
theorem manifestCheck_whole {m : Manifest} (h4 : bootAt s 4 = true) (hs : m.sigOk = true) (hn : m.serial.toNat = moduleSerial s) (hf : manifestFaults s m = [])
    (hd : ∀ d < 4, heard s.boot.ends d ≠ [] ∧ ∃ l ∈ linksOf d, linkState s l ≠ 3) (hst : ∀ q < 8, stackId s q ≠ 0) :
    Runs (.manifestCheck m) s fun t => regGet t K.BOOT_STATUS_phase = 5 ∧ regGet t K.ID_DIES_present = 15 ∧ regGet t K.ID_DIES_in_service = 15 ∧ t.op = .booting := by
  obtain ⟨hop, -⟩ := bootAt_iff.1 h4
  obtain ⟨hframe, -, hphase, hpres, hserv⟩ := matched_parts m hop
  obtain ⟨hsame, hk⟩ := missingIsland_keeps (matched m s)
  refine ⟨_, manifestCheck_passes h4 hs hn hf, ?_⟩
  rw [noneMissing m hop hd hst]
  exact ⟨(hk _ (by decide)).trans hphase, (hk _ (by decide)).trans (hpres.trans (allThere fun d h => (hd d h).1)), (hk _ (by decide)).trans hserv,
    hsame.trans (hframe.op_boot.1.trans hop)⟩

/-- A die whose links have all failed is removed (R351). -/
theorem manifestCheck_cutOff {m : Manifest} (h4 : bootAt s 4 = true) (hp : powered s = true) (hs : m.sigOk = true) (hn : m.serial.toNat = moduleSerial s)
    (hf : manifestFaults s m = []) {d : Nat} (hd : d < 4) (hm : cmpMode s ≠ 1) (hl : ∀ l ∈ linksOf d, linkState s l = 3) :
    Runs (.manifestCheck m) s fun t => dieIn t d = false ∨ t.op = .safeOff := by
  obtain ⟨hop, -⟩ := bootAt_iff.1 h4
  obtain ⟨hframe, -⟩ := matched_parts m hop
  have hactive : (matched m s).active = s.active := by rw [hframe]
  have hpow : powered (matched m s) = true := (powered_congr hframe.op_boot.1 hframe.op_boot.2).trans hp
  have hcut : cutOff (matched m s) d = true := cutOff_iff.2 fun l hm => (matched_linkState m hop (linksOf_lt hm)).trans (hl l hm)
  obtain ⟨hlost, hregs⟩ := missing_removes (thereAt s) (matched m s)
  have hout := foldl_dropOne (List.mem_range.2 hd) (hlost.powered hpow) (by rw [cmpMode, actGet_congr (hlost.active.trans hactive)]; exact hm) (Removes.cutOff ⟨hlost, hregs⟩ hcut)
  obtain ⟨hsame, hk⟩ := missingIsland_keeps (dropIsolated (missingStacks (thereAt s) (missingDies (thereAt s) (matched m s))))
  refine ⟨_, manifestCheck_passes h4 hs hn hf, ?_⟩
  rw [passManifest_runs]
  exact hout.imp (fun h => (dieIn_congr (hk _ (by decide)) d).trans h) fun h => hsame.trans h

end Sys2Proof.Machine
end

section
/-! PROOFS. The boot from the memories to the host windows (R145, R310, R351, R353, R355, R356). -/
namespace Sys2Proof.Machine
variable {s t u : State}

/-! Memories -/

/-- A module whose cellar has failed its training. -/
def cellarOut (s : State) : State := { s with lastClass := 3, boot := { s.boot with cellarIn := false } }

theorem memoryTraining_runs (b : Bool) (h5 : bootAt s 5 = true) : exec (.memoryTrainingDone [] b) s = .next (
    if b then recordFault 3 iodSteward (cellarOut (regSet K.BOOT_STATUS_phase 6 s)) else regSet K.BOOT_STATUS_phase 6 s) := by
  have hgo : ¬ (!bootAt s 5) = true := by
    rw [h5]
    decide
  have hphase : toPhase 6 s = regSet K.BOOT_STATUS_phase 6 s := toPhase_booting 6 (bootAt_iff.1 h5).1
  rw [← hphase]
  exact congrArg Host.Outcome.next (if_neg hgo)

theorem memoriesTrained (h5 : bootAt s 5 = true) : Runs (.memoryTrainingDone [] false) s (FieldSet K.BOOT_STATUS_phase (fun _ => 6) s) ∧
    Runs (.memoryTrainingDone [] true) s fun t => regGet t K.BOOT_STATUS_phase = 6 ∧ t.boot.cellarIn = false ∧
      regGet t K.FAULT_COUNT_c = satInc 255 (regGet s K.FAULT_COUNT_c) := by
  let v := cellarOut (regSet K.BOOT_STATUS_phase 6 s)
  obtain ⟨hframe, hk⟩ := recordFault_regs 3 iodSteward v
  have hcount : regGet (regSet K.BOOT_STATUS_phase 6 s) K.FAULT_COUNT_c = regGet s K.FAULT_COUNT_c := regGet_regSet_ne _ _ (by decide)
  have hphase : regGet v K.BOOT_STATUS_phase = 6 := regGet_regSet_self s _ 6
  refine ⟨⟨_, memoryTraining_runs false h5, regGet_regSet_self .., rfl, kept_set (by simp) (kept_refl _ s)⟩, ⟨_, memoryTraining_runs true h5, ?_, ?_, ?_⟩⟩
  · exact (hk _ phase_notMem_faultKeys.1).trans hphase
  · change (recordFault 3 iodSteward v).boot.cellarIn = false
    rw [hframe]
    rfl
  · exact (recordC_counts iodSteward v).1.trans (congrArg (satInc 255) hcount)

/-! Rehearsals of the boot -/

/-- The passes of one die at the end of the boot's rehearsals: all its arrays in service. -/
def passAll (s : State) (d : Nat) : State := if dieIn s d then (List.range 6).foldl (fun s w => regSet (K.REH_DONE_arrays d w) (regGet s (K.SERVICE_arrays d w)) s) s else s

/-- The registers of the passes. -/
abbrev passKeys : List Nat := (List.range 4).flatMap fun d => (List.range 6).map (K.REH_DONE_arrays d)

theorem mem_passKeys {k : Nat} : k ∈ passKeys ↔ ∃ d < 4, ∃ w < 6, K.REH_DONE_arrays d w = k := by
  simp only [passKeys, List.mem_flatMap, List.mem_map, List.mem_range]

theorem service_notPass {d w : Nat} (hw : w < 6) : K.SERVICE_arrays d w ∉ passKeys := by
  rw [mem_passKeys]
  rintro ⟨e, he, x, hx, h⟩
  unfold K.REH_DONE_arrays K.SERVICE_arrays fieldKey at h
  omega

theorem boot_notPass : K.BOOT_STATUS_phase ∉ passKeys ∧ K.ID_DIES_in_service ∉ passKeys := by
  simp only [mem_passKeys]
  unfold K.REH_DONE_arrays K.BOOT_STATUS_phase K.ID_DIES_in_service fieldKey
  refine ⟨?_, ?_⟩ <;> rintro ⟨e, he, x, hx, h⟩ <;> omega

theorem foldl_words {d : Nat} (hd : d < 4) (ws : List Nat) (hw : ∀ w ∈ ws, w < 6) (h : RegsKept passKeys s t) :
    ws.foldl (fun s w => regSet (K.REH_DONE_arrays d w) (regGet s (K.SERVICE_arrays d w)) s) t = fill (K.REH_DONE_arrays d) (fun w => regGet s (K.SERVICE_arrays d w)) ws t := by
  induction ws generalizing t with
  | nil => rfl
  | cons q ws ih =>
    have hq := hw q List.mem_cons_self
    rw [fill, List.foldl_cons, List.foldl_cons, h _ (service_notPass hq)]
    exact ih (fun w hm => hw w (List.mem_cons_of_mem _ hm)) (kept_set (mem_passKeys.2 ⟨d, hd, q, hq, rfl⟩) h)

/-- What the passes of a die leave, from the state before the rehearsals. -/
theorem passAll_parts {d : Nat} (hd : d < 4) (h : RegsKept passKeys s t) : RegOnly t (passAll t d) ∧ RegsKept ((List.range 6).map (K.REH_DONE_arrays d)) t (passAll t d) ∧
    (dieIn s d = true → ∀ w < 6, regGet (passAll t d) (K.REH_DONE_arrays d w) = regGet s (K.SERVICE_arrays d w)) := by
  unfold passAll
  rw [dieIn_congr (h _ boot_notPass.2) d]
  split
  · rw [foldl_words hd (List.range 6) (fun w hw => List.mem_range.1 hw) h]
    refine ⟨fill_frame .., fun k hk => fill_kept _ _ _ _ k hk, fun _ w hw => fill_get (fun x _ he => ?_) (List.mem_range.2 hw) t⟩
    unfold K.REH_DONE_arrays fieldKey at he
    omega
  · rename_i hout
    exact ⟨.refl t, kept_refl _ t, fun hin => absurd hin hout⟩

theorem foldl_passAll (ds : List Nat) (hds : ∀ d ∈ ds, d < 4) (h : RegsKept passKeys s t) :
    RegOnly t (ds.foldl passAll t) ∧ RegsKept passKeys s (ds.foldl passAll t) ∧ RegsKept (ds.flatMap fun d => (List.range 6).map (K.REH_DONE_arrays d)) t (ds.foldl passAll t) ∧
    ∀ d ∈ ds, dieIn s d = true → ∀ w < 6, regGet (ds.foldl passAll t) (K.REH_DONE_arrays d w) = regGet s (K.SERVICE_arrays d w) := by
  induction ds generalizing t with
  | nil => exact ⟨.refl t, h, fun _ _ => rfl, fun d hd => absurd hd List.not_mem_nil⟩
  | cons q ds ih =>
    have hq := hds q List.mem_cons_self
    obtain ⟨hframe, hk, hin⟩ := passAll_parts hq h
    have hkept : RegsKept passKeys s (passAll t q) := fun k hm => (hk k fun hn => hm ?_).trans (h k hm)
    · obtain ⟨hf, hkeep, hrest, hall⟩ := ih (fun d hd => hds d (List.mem_cons_of_mem _ hd)) hkept
      refine ⟨hframe.trans hf, hkeep, fun k hm => ?_, fun d hd hs w hw => ?_⟩
      · rw [List.flatMap_cons, List.mem_append, not_or] at hm
        exact (hrest k hm.2).trans (hk k hm.1)
      · by_cases hm : d ∈ ds
        · exact hall d hm hs w hw
        · obtain rfl := (List.mem_cons.1 hd).resolve_right hm
          refine (hrest _ fun hn => ?_).trans (hin hs w hw)
          obtain ⟨e, he, hn⟩ := List.mem_flatMap.1 hn
          obtain ⟨x, hx, hn⟩ := List.mem_map.1 hn
          have hlt := hds e (List.mem_cons_of_mem _ he)
          rw [List.mem_range] at hx
          have hed : e = d := by
            unfold K.REH_DONE_arrays fieldKey at hn
            omega
          exact hm (hed ▸ he)
    · exact List.mem_flatMap.2 ⟨q, List.mem_range.2 hq, hn⟩

/-- The registers at the end of the boot's rehearsals. -/
def rehearsalsPassed (s : State) : State := (List.range 4).foldl passAll (regSet K.BOOT_STATUS_phase 7 s)

theorem bootRehearsal_runs (h6 : bootAt s 6 = true) : exec (.bootRehearsalDone [] []) s = .next
    { rehearsalsPassed s with frame := { (rehearsalsPassed s).frame with golden := (List.range 4).filter (engineIn (rehearsalsPassed s)) } } := by
  have hgo : ¬ (!bootAt s 6) = true := by
    rw [h6]
    decide
  have hphase : toPhase 7 s = regSet K.BOOT_STATUS_phase 7 s := toPhase_booting 7 (bootAt_iff.1 h6).1
  rw [rehearsalsPassed, ← hphase]
  exact congrArg Host.Outcome.next (if_neg hgo)

theorem bootRehearsed (h6 : bootAt s 6 = true) : Runs (.bootRehearsalDone [] []) s fun t => regGet t K.BOOT_STATUS_phase = 7 ∧
    (∀ (d : Fin 4) (w : Fin 6), dieIn s d = true → regGet t (K.REH_DONE_arrays d w) = regGet s (K.SERVICE_arrays d w)) ∧
    t.frame.golden = (List.range 4).filter (engineIn s) ∧ t = { s with reg := t.reg, frame := t.frame } := by
  let v := regSet K.BOOT_STATUS_phase 7 s
  obtain ⟨hframe, hk, -, hall⟩ := foldl_passAll (s := v) (t := v) (List.range 4) (fun d hd => List.mem_range.1 hd) (kept_refl _ v)
  have hdie (d : Nat) : dieIn v d = dieIn s d := dieIn_congr (regGet_regSet_ne _ _ (by decide)) d
  have hservice (d : Fin 4) (w : Fin 6) : regGet v (K.SERVICE_arrays d w) = regGet s (K.SERVICE_arrays d w) := regGet_regSet_ne _ _ (by grind)
  have hreg : RegOnly s (rehearsalsPassed s) := (RegOnly.set _ _ (.refl s)).trans hframe
  refine ⟨_, bootRehearsal_runs h6, (hk _ boot_notPass.1).trans (regGet_regSet_self ..), fun d w hd => ?_, ?_, ?_⟩
  · exact (hall d (List.mem_range.2 d.isLt) ((hdie d).trans hd) w w.isLt).trans (hservice d w)
  · rw [hreg]
    rfl
  · rw [hreg]

/-! Host windows -/

/-- The registers of a boot that has ended. -/
def bootTimed (s : State) : State := regSet K.BOOT_STATUS_phase 8 (regSet K.BOOT_TIME_us (((s.ticks - s.boot.relTick) / 500) % 2 ^ 32) s)

/-- A boot that ends in WARM_IDLE, or a module in SAFE_OFF that lets its hosts in (R353, R355, R356). -/
theorem windowsReady (s : State) : (bootAt s 7 = true → Runs .hostWindowsReady s fun t => t.op = .warmIdle ∧ t.boot.windows = true ∧ t.frame.due = true ∧
      regGet t K.BOOT_STATUS_phase = 8 ∧ t.kept.svnMin = (if s.boot.raiseMin = true then max s.kept.svnMin s.boot.svn else s.kept.svnMin)) ∧
    (s.op = .safeOff → exec .hostWindowsReady s = .next { s with boot := { s.boot with windows := true } }) := by
  have hphase : regGet (bootTimed s) K.BOOT_STATUS_phase = 8 := regGet_regSet_self ..
  refine ⟨fun h7 => ⟨_, congrArg Host.Outcome.next (if_pos h7), rfl, rfl, rfl, hphase, rfl⟩, fun ho => ?_⟩
  have h7 : ¬ bootAt s 7 = true := by
    rw [not_bootAt_ne (by rw [ho]; decide)]
    exact Bool.false_ne_true
  refine congrArg Host.Outcome.next ((if_neg h7).trans (if_pos ?_))
  rw [decide_eq_true ho, Bool.or_true]

/-! The statement -/

theorem bootSteps_idle {c : Instr} (h : s.op ≠ .booting) (hc : c = .stewardLoad ∨ c = .bootResume ∨ (∃ a b, c = .romSelfTest a b) ∨ (∃ i x, c = .bootSlot i x) ∨
    (∃ x, c = .sibFirmwareVerify x) ∨ (∃ e i f r, c = .linkTrainingDone e i f r) ∨ (∃ m, c = .manifestCheck m) ∨ (∃ l b, c = .memoryTrainingDone l b) ∨
    (∃ l e, c = .bootRehearsalDone l e)) : exec c s = .next s := by
  have hno (p : Nat) : bootAt s p = false := not_bootAt_ne h
  rcases hc with rfl | rfl | ⟨a, b, rfl⟩ | ⟨i, x, rfl⟩ | ⟨x, rfl⟩ | ⟨e, i, f, r, rfl⟩ | ⟨m, rfl⟩ | ⟨l, b, rfl⟩ | ⟨l, e, rfl⟩
  · exact congrArg Host.Outcome.next (if_pos (by rw [hno]; rfl))
  · exact congrArg Host.Outcome.next (if_neg (by rw [hno]; exact Bool.false_ne_true))
  · exact congrArg Host.Outcome.next (if_pos (by rw [hno]; rfl))
  · exact congrArg Host.Outcome.next (if_pos (by rw [hno]; rfl))
  · exact congrArg Host.Outcome.next (if_pos (by rw [hno]; rfl))
  · exact congrArg Host.Outcome.next (if_pos (by rw [hno]; rfl))
  · exact congrArg Host.Outcome.next (if_pos (by rw [hno]; rfl))
  · exact congrArg Host.Outcome.next (if_pos (by rw [hno]; rfl))
  · exact congrArg Host.Outcome.next (if_pos (by rw [hno]; rfl))

/-- Settles O56: discovery by `linkTrained`, the manifest by its three outcomes, the rest by their phases. -/
theorem bootCompletes : Obligations.BootCompletes := by
  unfold Obligations.BootCompletes
  refine ⟨?_, fun m s h4 hp => ⟨manifestCheck_fails h4 hp, fun hs hn hf =>
      ⟨manifestCheck_whole h4 hs hn hf, fun d hd hm hl => manifestCheck_cutOff h4 hp hs hn hf hd hm hl⟩⟩,
    fun s h5 => memoriesTrained h5, fun s h6 => bootRehearsed h6, windowsReady, fun c s h hc => bootSteps_idle h hc⟩
  intro given ids f r s ends h3 hl hok
  obtain ⟨t, hrun, hphase, hends, hlinks, hids, htopo⟩ := linkTrained given ids f r h3 hl hok
  refine ⟨t, hrun, hphase, hends, hlinks, hids, fun e he => (htopo e he).trans ?_⟩
  rw [heardId]
  split
  · rfl
  · rfl

end Sys2Proof.Machine
end

section
/-! PROOFS. The levels of the cluster groups and the rails that follow them (R385, R386, R420). -/
namespace Sys2Proof.Machine
variable {s t u : State}

/-! One group's level in its word -/

theorem levelOf_lt (s : State) (d g : Nat) : levelOf s d g < 8 := Nat.mod_lt _ (by decide)

/-- One nibble of a word of levels written over, for each of the four groups. -/
theorem nibble_written (v : Nat) {g q l : Nat} (hg : g < 4) (hq : q < 4) (hl : l < 8) :
    bitsAt (v - bitsAt v (4 * g) 4 * 16 ^ g + l * 16 ^ g) (4 * q) 3 = if q = g then l else bitsAt v (4 * q) 3 := by
  unfold bitsAt
  interval_cases g <;> interval_cases q <;> simp only [Nat.reduceMul, Nat.reducePow, Nat.reduceEqDiff, if_true, if_false] <;> omega

theorem levelKey_inj {d e : Nat} (h : K.THM_LEVEL_levels d = K.THM_LEVEL_levels e) : d = e := by
  unfold K.THM_LEVEL_levels fieldKey at h
  omega

/-- What a change of levels leaves: registers but those of the levels, and of the sensors only the counts of cool milliseconds and the dies. -/
def LevelsOnly (s t : State) : Prop := t = { s with reg := t.reg, thm := { s.thm with cool := t.thm.cool, dies := t.thm.dies } }

theorem LevelsOnly.refl (s : State) : LevelsOnly s s := rfl

theorem LevelsOnly.trans (h : LevelsOnly s t) (g : LevelsOnly t u) : LevelsOnly s u := by
  obtain ⟨reg, cool, dies, rfl⟩ : ∃ reg cool dies, t = { s with reg := reg, thm := { s.thm with cool := cool, dies := dies } } := ⟨_, _, _, h⟩
  exact g

/-- A level set: the word's other groups, and the other dies, keep theirs. -/
theorem setLevel_parts {g l : Nat} (d : Nat) (hg : g < 4) (hl : l < 8) (s : State) :
    (∀ q < 4, levelOf (setLevel d g l s) d q = if q = g then l else levelOf s d q) ∧ LevelsOnly s (setLevel d g l s) ∧
    (setLevel d g l s).thm.dies = s.thm.dies ∧ RegsKept [K.THM_LEVEL_levels d] s (setLevel d g l s) := by
  by_cases h : levelOf s d g = l
  · rw [setLevel, if_pos h]
    refine ⟨fun q _ => ?_, .refl s, rfl, kept_refl _ s⟩
    by_cases hq : q = g
    · rw [if_pos hq, hq, h]
    · rw [if_neg hq]
  · rw [setLevel, if_neg h]
    refine ⟨fun q hq => ?_, rfl, rfl, kept_mod (by simp) (kept_reg (t := s) rfl (kept_refl _ s))⟩
    rw [levelOf, regGet_regMod_self]
    exact nibble_written _ hg hq hl

theorem levelOf_kept {d e : Nat} (h : RegsKept [K.THM_LEVEL_levels d] s t) (he : e ≠ d) (g : Nat) : levelOf t e g = levelOf s e g := by
  rw [levelOf, h _ fun hm => he (levelKey_inj (List.mem_singleton.1 hm)), levelOf]

/-! Groups held at their limits -/

/-- The levels of some groups held at their limits. -/
def heldGroups (d : Nat) (gs : List Nat) (s : State) : State := gs.foldl (fun s g => setLevel d g (max (levelOf s d g) (levelLimit s d g)) s) s

theorem spotBlind_congr (h : regGet t K.THM_BLIND_IOD_spots = regGet s K.THM_BLIND_IOD_spots) (h' : regGet t K.THM_BLIND_spots = regGet s K.THM_BLIND_spots) (d q : Nat) :
    spotBlind t d q = spotBlind s d q := by rw [spotBlind, h, h', spotBlind]

theorem blind_notLevels {d : Nat} (hd : d < 4) : K.THM_BLIND_IOD_spots ∉ [K.THM_LEVEL_levels d] ∧ K.THM_BLIND_spots ∉ [K.THM_LEVEL_levels d] := by
  simp only [List.mem_singleton]
  unfold K.THM_BLIND_IOD_spots K.THM_BLIND_spots K.THM_LEVEL_levels fieldKey
  omega

theorem levelLimit_congr {d : Nat} (hd : d < 4) (hk : RegsKept [K.THM_LEVEL_levels d] s t) (h : (thermOf t d).levelCap = (thermOf s d).levelCap) (g : Nat) :
    levelLimit t d g = levelLimit s d g := by
  obtain ⟨hi, hc⟩ := blind_notLevels hd
  rw [levelLimit, h, spotBlind_congr (hk _ hi) (hk _ hc), spotBlind_congr (hk _ hi) (hk _ hc), levelLimit]

/-- Groups held: each of the list at its limit, the others as they were. -/
theorem heldGroups_parts {d : Nat} (hd : d < 4) (hcap : ∀ g, levelLimit s d g < 8) (gs : List Nat) (hgs : ∀ g ∈ gs, g < 4) :
    (∀ q < 4, levelOf (heldGroups d gs s) d q = if q ∈ gs then max (levelOf s d q) (levelLimit s d q) else levelOf s d q) ∧ LevelsOnly s (heldGroups d gs s) ∧
    (heldGroups d gs s).thm.dies = s.thm.dies ∧ RegsKept [K.THM_LEVEL_levels d] s (heldGroups d gs s) := by
  induction gs generalizing s with
  | nil => exact ⟨fun q _ => (if_neg List.not_mem_nil).symm, .refl s, rfl, kept_refl _ s⟩
  | cons g gs ih =>
    obtain ⟨hset, hframe, hdies, hk⟩ := setLevel_parts d (l := max (levelOf s d g) (levelLimit s d g)) (hgs g List.mem_cons_self) (max_lt (levelOf_lt s d g) (hcap g)) s
    have hlimit (q : Nat) : levelLimit (setLevel d g (max (levelOf s d g) (levelLimit s d g)) s) d q = levelLimit s d q :=
      levelLimit_congr hd hk (by rw [thermOf, hdies, thermOf]) q
    obtain ⟨hrest, hf, hdies', hk'⟩ := ih (s := setLevel d g (max (levelOf s d g) (levelLimit s d g)) s) (fun q => (hlimit q).trans_lt (hcap q))
      (fun q hq => hgs q (List.mem_cons_of_mem _ hq))
    refine ⟨fun q hq => (hrest q hq).trans ?_, hframe.trans hf, hdies'.trans hdies, fun k hm => (hk' k hm).trans (hk k hm)⟩
    rw [hlimit, hset q hq]
    by_cases hqg : q = g
    · subst hqg
      rw [if_pos rfl, if_pos List.mem_cons_self, max_assoc, max_self, ite_self]
    · rw [if_neg hqg]
      simp only [List.mem_cons, hqg, false_or]

theorem followRail_rail (d : Nat) (s : State) : (thermOf (followRail d s) d).rail = railWanted s d := by
  rw [followRail, thermOf_modTherm_self]
  rfl

theorem followRail_levelsOnly (d : Nat) (s : State) : LevelsOnly s (followRail d s) := rfl

/-- A die's groups held at or below their limits, its rail with them (R384, R385, R420). -/
theorem holdLevels_parts {d : Nat} (hd : d < 4) (hcap : (thermOf s d).levelCap < 8) :
    (thermOf (holdLevels d s) d).levelCap = (thermOf s d).levelCap ∧ (∀ g < 4, levelOf (holdLevels d s) d g = max (levelOf s d g) (levelLimit s d g)) ∧
    (thermOf (holdLevels d s) d).rail = railWanted (holdLevels d s) d ∧ LevelsOnly s (holdLevels d s) ∧ RegsKept [K.THM_LEVEL_levels d] s (holdLevels d s) := by
  have hlimit (g : Nat) : levelLimit s d g < 8 := by
    refine max_lt hcap ?_
    split <;> decide
  obtain ⟨hin, hframe, hdies, hk⟩ := heldGroups_parts hd hlimit (List.range 4) (fun g hg => List.mem_range.1 hg)
  have hhold : holdLevels d s = followRail d (heldGroups d (List.range 4) s) := rfl
  rw [hhold]
  refine ⟨?_, fun g hg => (hin g hg).trans (if_pos (List.mem_range.2 hg)), followRail_rail .., hframe.trans (followRail_levelsOnly ..), hk⟩
  rw [followRail, thermOf_modTherm_self, thermOf, hdies, thermOf]

end Sys2Proof.Machine
end

section
/-! PROOFS. Rails, clocks, voltage faults and wear counters (R385, R396, R397, R420, R423, R424). -/
namespace Sys2Proof.Machine
variable {s t u : State}

/-! Class D of the IOD -/

/-- The loss of the IOD's rails or of the system clock (R423, R424): SAFE_OFF, nothing in progress, nothing in the stacks. -/
theorem classD_empties {cause src : Nat} (hp : powered s = true) (ho : s.op ≠ .safeOff) : (classD cause src s).op = .safeOff ∧ (classD cause src s).jobs = [] ∧
    (classD cause src s).mem.win = [] ∧ (classD cause src s).mem.room = [] ∧ regGet (classD cause src s) K.FAULT_COUNT_d = satInc 255 (regGet s K.FAULT_COUNT_d) ∧
    regGet (classD cause src s) K.FAULT_LAST_source = src := by
  have hkept := (safeOffFor_offed cause s).regs
  have hempty : (safeOffFor cause s).jobs = [] ∧ (safeOffFor cause s).mem.win = [] ∧ (safeOffFor cause s).mem.room = [] := by
    rw [safeOffFor, if_neg ho]
    exact ⟨rfl, rfl, rfl⟩
  obtain ⟨hosts, host, hf⟩ := raiseFault_parts .manager (e := ⟨0x060D, 4, true, src, cause, 0, 0⟩) (Nat.le_add_left 1 3) (safeOffFor cause s)
  have hsafe : classD cause src s = _ := (classD_parts hp).trans hf
  have hreg : (classD cause src s).reg = (recordFault 4 src (safeOffFor cause s)).reg := by rw [hsafe]
  refine ⟨classD_op hp, ?_, ?_, ?_, ?_, ?_⟩
  · rw [hsafe]
    exact hempty.1
  · rw [hsafe]
    exact hempty.2.1
  · rw [hsafe]
    exact hempty.2.2
  · rw [regGet_congr hreg, recordFault_d, regGet_regMod_self, regGet_regSet_ne _ _ (by decide), hkept _ (by decide)]
  · rw [regGet_congr hreg, recordFault_d, regGet_regMod_ne _ _ (by decide), regGet_regSet_self]

/-! Voltage faults -/

/-- A die's regulator limited to a level. -/
abbrev capped (d l : Nat) (s : State) : State := modTherm d (fun t => { t with levelCap := l }) s

theorem avsFaulted (d : Fin 4) (l : Fin 6) (hr : running s = true) : Runs (.avsFault d l) s fun t => (thermOf t d).levelCap = l ∧
    (∀ g : Fin 4, levelOf t d g = max (levelOf s d g) (max l.val (if spotBlind s d (2 * g.val) || spotBlind s d (2 * g.val + 1) then 3 else 0))) ∧
    (thermOf t d).rail = ((List.range 4).map fun g => levelMv (levelOf t d g)).foldl max 0 ∧
    t = { s with reg := t.reg, thm := t.thm } ∧ RegsKept [K.THM_LEVEL_levels d] s t := by
  have hcap : (thermOf (capped d l s) d).levelCap = l := by rw [capped, thermOf_modTherm_self]
  obtain ⟨hc, hlevels, hrail, hframe, hk⟩ := holdLevels_parts d.isLt (s := capped d l s) (hcap.trans_lt (Nat.lt_trans l.isLt (by decide)))
  refine ⟨_, congrArg Host.Outcome.next (if_pos hr), hc.trans hcap, fun g => (hlevels g g.isLt).trans ?_, hrail, ?_, hk⟩
  · rw [levelLimit, hcap]
    rfl
  · generalize holdLevels d (capped d l s) = v at hframe
    obtain ⟨reg, cool, dies, rfl⟩ : ∃ reg cool dies, v = { capped d l s with reg := reg, thm := { (capped d l s).thm with cool := cool, dies := dies } } := ⟨_, _, _, hframe⟩
    rfl

/-! The statement -/

/-- Settles O58: rails by `removeDie_parts` and `classD_empties`, a voltage fault by `holdLevels_parts`. -/
theorem railsClocksWear : Obligations.RailsClocksWear := by
  unfold Obligations.RailsClocksWear
  refine ⟨fun c k s hc hp ho hd => ?_, fun k s hg => congrArg Host.Outcome.next (gateOr_waits hg), fun c s hc hp ho => ?_, fun i s hp hl => ?_, fun b s ho => ?_,
    fun d l s hr => avsFaulted d l hr, fun s ho => congrArg Host.Outcome.next (if_neg ho), fun x s hd => ?_⟩
  · have hrun : exec c s = .next (removeDie k.val 3 s) := by
      obtain rfl | ⟨rfl, hg⟩ := hc
      · rfl
      · exact congrArg Host.Outcome.next (gateOr_acts hg)
    obtain ⟨hin, hcount, htiles⟩ := removeDie_parts (cause := 3) hd ho hp
    exact ⟨_, hrun, (hin k).trans (if_pos rfl), hcount, fun d _ hne => (hin d).trans (if_neg hne), htiles⟩
  · have hrun : ∃ cause, exec c s = .next (classD cause iodSteward s) := by
      obtain rfl | rfl | rfl | rfl := hc
      · exact ⟨5, rfl⟩
      · exact ⟨5, rfl⟩
      · exact ⟨5, rfl⟩
      · exact ⟨6, rfl⟩
    obtain ⟨cause, hrun⟩ := hrun
    exact ⟨_, hrun, classD_empties hp ho⟩
  · cases i with
    | a => exact ⟨_, congrArg Host.Outcome.next ((if_pos hp).trans (stopIsl_alone hl)), islOf_modIsl_self .., modIsl_isl ..⟩
    | b => exact ⟨_, congrArg Host.Outcome.next ((if_pos hp).trans (stopIsl_alone hl)), islOf_modIsl_self .., modIsl_isl ..⟩
  · refine ⟨fun hb => ⟨_, congrArg Host.Outcome.next (if_neg ?_), _, rfl, rfl⟩, fun hb => congrArg Host.Outcome.next (if_pos ?_)⟩
    · rw [decide_eq_false ho, hb, bne_self_eq_false]
      exact Bool.false_ne_true
    · rw [bne_iff_ne.2 hb, Bool.or_true]
  · refine ⟨fun hx => congrArg Host.Outcome.next (if_pos ?_), fun hl hh => congrArg Host.Outcome.next (if_neg ?_)⟩
    · rw [decide_eq_true hd, Bool.true_and, Bool.or_eq_true, decide_eq_true_eq, decide_eq_true_eq]
      exact hx
    · rw [decide_eq_false (p := x < -640) (by omega), decide_eq_false (p := 1360 < x) (by omega), Bool.or_false, Bool.and_false]
      exact Bool.false_ne_true

end Sys2Proof.Machine
end

section
/-! PROOFS. Samplings of the sensors, thermal trips, the flow sensor (R382, R383, R387, R393). -/
namespace Sys2Proof.Machine
variable {s t u : State}

/-! Coolant -/

/-- A coolant sample taken, the sensor not judged. -/
def coolantRead (i o f : Int) (s : State) : State :=
  let s := regSet K.THM_COOLANT_inlet (ofSigned 16 i) (regSet K.THM_COOLANT_outlet (ofSigned 16 o) (regSet K.THM_FLOW_sensor (flowCode f) s))
  trackFlow f { s with thm := { s.thm with coolant := ⟨s.ticks, i, o, f⟩ :: s.thm.coolant.filter fun c => decide (s.ticks < c.tick + secTicks) } }

/-- The registers of a coolant sample. -/
abbrev coolantKeys : List Nat := [K.THM_COOLANT_inlet, K.THM_COOLANT_outlet, K.THM_FLOW_sensor]

theorem coolantRead_reg (i o f : Int) (s : State) : (coolantRead i o f s).reg =
    (regSet K.THM_COOLANT_inlet (ofSigned 16 i) (regSet K.THM_COOLANT_outlet (ofSigned 16 o) (regSet K.THM_FLOW_sensor (flowCode f) s))).reg := rfl

theorem coolantRead_kept (i o f : Int) (s : State) : RegsKept coolantKeys s (coolantRead i o f s) :=
  kept_reg (coolantRead_reg i o f s) (kept_set (by simp) (kept_set (by simp) (kept_set (by simp) (kept_refl _ s))))

theorem coolantRead_regs (i o f : Int) (s : State) : regGet (coolantRead i o f s) K.THM_COOLANT_inlet = ofSigned 16 i ∧
    regGet (coolantRead i o f s) K.THM_COOLANT_outlet = ofSigned 16 o ∧ regGet (coolantRead i o f s) K.THM_FLOW_sensor = (clampInt 0 65535 f).toNat := by
  have hreg := coolantRead_reg i o f s
  refine ⟨?_, ?_, ?_⟩
  · rw [regGet_congr hreg, regGet_regSet_self]
  · rw [regGet_congr hreg, regGet_regSet_ne _ _ (by decide), regGet_regSet_self]
  · rw [regGet_congr hreg, regGet_regSet_ne _ _ (by decide), regGet_regSet_ne _ _ (by decide), regGet_regSet_self, flowCode]

theorem coolantSample_runs (i o f : Int) (hp : powered s = true) : exec (.sensorSample (.coolant i o f)) s = .next (
    let v := coolantRead i o f s
    if (f < 0 || 10000 < f) && regGet v K.THM_STATUS_sensor_ok == 1 then
      raiseFault .manager ⟨0x0709, 1, true, thmNode, flowCode f, 0, regGet v K.THM_FLOW_cal⟩ (regSet K.THM_STATUS_sensor_ok 0 v)
    else v) := congrArg Host.Outcome.next (if_neg (by rw [sensing, hp]; exact Bool.false_ne_true))

theorem coolantSampled (i o f : Int) (hp : powered s = true) (h : 0 ≤ f ∧ f ≤ 10000 ∨ regGet s K.THM_STATUS_sensor_ok ≠ 1) :
    exec (.sensorSample (.coolant i o f)) s = .next (coolantRead i o f s) := by
  refine (coolantSample_runs i o f hp).trans (congrArg Host.Outcome.next (if_neg ?_))
  rw [coolantRead_kept i o f s _ (by decide)]
  rcases h with ⟨h0, h1⟩ | h
  · rw [decide_eq_false (p := f < 0) (by omega), decide_eq_false (p := 10000 < f) (by omega)]
    exact Bool.false_ne_true
  · rw [beq_eq_false_iff_ne.2 h, Bool.and_false]
    exact Bool.false_ne_true

theorem coolantFails (i o f : Int) (hp : powered s = true) (h : f < 0 ∨ 10000 < f) (hok : regGet s K.THM_STATUS_sensor_ok = 1) :
    exec (.sensorSample (.coolant i o f)) s = .next (raise .manager ⟨0x0709, 1, true, thmNode, (clampInt 0 65535 f).toNat, 0, regGet s K.THM_FLOW_cal⟩
      (regSet K.THM_STATUS_sensor_ok 0 (coolantRead i o f s))) := by
  have hkept := coolantRead_kept i o f s
  have hout : ((f < 0 || 10000 < f) && regGet (coolantRead i o f s) K.THM_STATUS_sensor_ok == 1) = true := by
    rw [hkept _ (by decide), hok, beq_self_eq_true, Bool.and_true, Bool.or_eq_true, decide_eq_true_eq, decide_eq_true_eq]
    exact h
  refine (coolantSample_runs i o f hp).trans (congrArg Host.Outcome.next ((if_pos hout).trans ?_))
  rw [hkept K.THM_FLOW_cal (by decide)]
  rfl

/-! Triggers of SAFE_OFF -/

/-- A detection of class D with an event of its own: the module is in SAFE_OFF, its sensors as they were (R335, R393). -/
theorem classDWith_off (e : Ev) (cause : Nat) (hp : powered s = true) : (classDWith e cause s).op = .safeOff ∧ (classDWith e cause s).thm = s.thm := by
  have hno : ¬ (!powered s) = true := by
    rw [hp]
    decide
  rw [classDWith, if_neg hno]
  split
  · rename_i ho
    exact ⟨(raiseFault_op ..).trans ho, raiseFault_thm ..⟩
  · have hpow : powered (raise .manager e s) = true := (powered_congr (raise_op ..) (raise_boot ..)).trans hp
    refine ⟨classD_op hpow, ?_⟩
    rw [classD_parts hpow, safeState, raiseFault_thm, (safeOffFor_offed cause _).thm, raise_thm]

theorem fireOnce_again {trigger : Nat} {act : State → State} (h : trigger ∈ s.thm.fired) : fireOnce trigger act s = s := if_pos (List.contains_iff_mem.2 h)

/-- A trigger that has not acted takes the module to SAFE_OFF and has then acted (R382, R393). -/
theorem fireOnce_off {trigger : Nat} (e : Ev) (cause : Nat) (hp : powered s = true) (h : trigger ∉ s.thm.fired) :
    (fireOnce trigger (classDWith e cause) s).op = .safeOff ∧ trigger ∈ (fireOnce trigger (classDWith e cause) s).thm.fired := by
  have hfire : fireOnce trigger (classDWith e cause) s = classDWith e cause { s with thm := { s.thm with fired := s.thm.fired ++ [trigger] } } :=
    if_neg fun hm => h (List.contains_iff_mem.1 hm)
  obtain ⟨hop, hthm⟩ := classDWith_off (s := { s with thm := { s.thm with fired := s.thm.fired ++ [trigger] } }) e cause hp
  rw [hfire]
  refine ⟨hop, ?_⟩
  rw [hthm]
  exact List.mem_append_right _ (List.mem_singleton.2 rfl)

/-! A hot spot -/

/-- What the sensors of a die keep through the reading of a hot spot: their diodes' samples, what has fired; no other state but registers. -/
structure Sensed (d : Nat) (s t : State) : Prop where
  frame : t = { s with reg := t.reg, thm := { s.thm with dies := t.thm.dies } }
  diodes : (thermOf t d).diodes = (thermOf s d).diodes

theorem Sensed.refl (d : Nat) (s : State) : Sensed d s s := ⟨rfl, rfl⟩

theorem Sensed.trans {d : Nat} (h : Sensed d s t) (g : Sensed d t u) : Sensed d s u := by
  refine ⟨?_, g.diodes.trans h.diodes⟩
  obtain ⟨reg, dies, rfl⟩ : ∃ reg dies, t = { s with reg := reg, thm := { s.thm with dies := dies } } := ⟨_, _, h.frame⟩
  exact g.frame

theorem Sensed.keeps {d : Nat} (h : Sensed d s t) : t.op = s.op ∧ t.thm.fired = s.thm.fired ∧ powered t = powered s := by
  obtain ⟨reg, dies, rfl⟩ : ∃ reg dies, t = { s with reg := reg, thm := { s.thm with dies := dies } } := ⟨_, _, h.frame⟩
  exact ⟨rfl, rfl, rfl⟩

theorem sensed_set (d k v : Nat) (s : State) : Sensed d s (regSet k v s) := ⟨rfl, rfl⟩

theorem sensed_therm {d : Nat} {f : DieTherm → DieTherm} (h : (f (thermOf s d)).diodes = (thermOf s d).diodes) : Sensed d s (modTherm d f s) :=
  ⟨rfl, by rw [thermOf_modTherm_self, h]⟩

theorem judgeGap_within {d h : Nat} {gap : Int} (hg : gap ≤ 64) (s : State) : Sensed d s (judgeGap d h gap s) ∧ (judgeGap d h gap s).reg = s.reg := by
  unfold judgeGap
  dsimp only
  rw [if_neg (by omega)]
  split
  · exact ⟨sensed_therm rfl, rfl⟩
  · exact ⟨.refl d s, rfl⟩

/-- The reading of a hot spot formed from two good diodes, not acted on. -/
def spotRead (d h : Nat) (x : Int × Int) (s : State) : State :=
  let r := max x.1 x.2
  let s := regSet (hotKey d h) (ofSigned 16 r) (judgeGap d h (max (x.1 - x.2) (x.2 - x.1)) s)
  if 1520 < r then modTherm d (fun t => { t with hotMinute := true }) s else s

theorem spotRead_parts {d h : Nat} {x : Int × Int} (hg : max (x.1 - x.2) (x.2 - x.1) ≤ 64) (s : State) :
    Sensed d s (spotRead d h x s) ∧ regGet (spotRead d h x s) (hotKey d h) = ofSigned 16 (max x.1 x.2) := by
  obtain ⟨hgap, -⟩ := judgeGap_within (d := d) (h := h) hg s
  have hset := hgap.trans (sensed_set d (hotKey d h) (ofSigned 16 (max x.1 x.2)) _)
  unfold spotRead
  dsimp only
  split
  · exact ⟨hset.trans (sensed_therm rfl), regGet_regSet_self ..⟩
  · exact ⟨hset, regGet_regSet_self ..⟩

/-- A diode in its range, with no sample before, is good (R383). -/
theorem judgeDiode_good {d h i : Nat} {v : Int} (h0 : -640 ≤ v) (h1 : v ≤ 2400) (s : State) : judgeDiode d h i none v s = s := by
  refine if_pos ?_
  rw [decide_eq_true h0, decide_eq_true h1, Bool.or_eq_true]
  exact .inr rfl

/-- A hot spot with two good diodes (R383, R393). -/
theorem readSpot_good {d h : Nat} {x y : Int} (hn : (thermOf s d).diodes = []) (hf0 : diodeFailed s d h 0 = false) (hf1 : diodeFailed s d h 1 = false)
    (hx : -640 ≤ x ∧ x ≤ 2400) (hy : -640 ≤ y ∧ y ≤ 2400) : readSpot d h (x, y) s =
      if 1760 ≤ max x y then fireOnce (16 * d + h) (classDWith ⟨0x0705, 4, true, thmNode, d, h, ofSigned 16 (max x y)⟩ 3) (spotRead d h (x, y) s)
      else spotRead d h (x, y) s := by
  unfold readSpot
  dsimp only
  rw [hn]
  dsimp only [List.getElem?_nil, Option.map_none]
  simp only [judgeDiode_good hx.1 hx.2, judgeDiode_good hy.1 hy.2, hf0, hf1, Bool.and_false, Bool.or_false, Bool.false_eq_true, if_false]
  rfl

/-! A sampling of hot spots -/

theorem turn_diodes (m : Int) (t : DieTherm) : (turn m t).diodes = t.diodes := by
  unfold turn
  dsimp only
  split
  · rfl
  · split
    · rfl
    · rfl

/-- The cycles of a die counted from its sensors and the mean reading. -/
def cyclesCounted (d : Nat) (t u : DieTherm) (s : State) : State :=
  if u.turns ≠ t.turns && u.turns % 2 = 0 then regInc (K.WEAR_CYCLES_count d) (modTherm d (fun _ => u) s) else modTherm d (fun _ => u) s

/-- The sensors of a die from which its turning points are searched on: those of its first sampling start at the reading (R396). -/
def searched (mean : Int) (t : DieTherm) : DieTherm := if t.diodes.isEmpty then { t with turnHi := mean, turnLo := mean } else t

theorem searched_diodes (mean : Int) (t : DieTherm) : (searched mean t).diodes = t.diodes := by
  unfold searched
  split
  · rfl
  · rfl

theorem cyclesCounted_sensed {d : Nat} (t : DieTherm) {u : DieTherm} (h : u.diodes = (thermOf s d).diodes) :
    Sensed d s (cyclesCounted d t u s) ∧ RegsKept [K.WEAR_CYCLES_count d] s (cyclesCounted d t u s) := by
  unfold cyclesCounted
  split
  · exact ⟨(sensed_therm h).trans (sensed_set ..), kept_inc (by simp) (kept_reg (t := s) rfl (kept_refl _ s))⟩
  · exact ⟨sensed_therm h, kept_reg (t := s) rfl (kept_refl _ s)⟩

theorem countCycles_sensed (d : Nat) (s : State) : Sensed d s (countCycles d s) ∧ RegsKept [K.WEAR_CYCLES_count d] s (countCycles d s) := by
  by_cases h : (readingSum s d).2 = 0
  · rw [countCycles, if_pos h]
    exact ⟨.refl d s, kept_refl _ s⟩
  · rw [countCycles, if_neg h]
    exact cyclesCounted_sensed (searched _ (thermOf s d)) ((turn_diodes _ _).trans (searched_diodes _ _))

/-- The end of a sampling of hot spots: the samples and the means kept (R383, R389). -/
def samplesKept (d : Nat) (ds : List (Int × Int)) (s : State) : State :=
  let m := readingSum s d
  modTherm d (fun t => { t with
    warming := warming s d,
    diodes := ds ++ t.diodes.drop ds.length,
    means := (s.ticks, m.1, m.2) :: t.means.filter fun x => decide (s.ticks < x.1 + secTicks) }) s

theorem samplesKept_parts (d : Nat) (ds : List (Int × Int)) (s : State) : (samplesKept d ds s).op = s.op ∧ (samplesKept d ds s).reg = s.reg ∧
    (samplesKept d ds s).thm.fired = s.thm.fired ∧ (thermOf (samplesKept d ds s) d).diodes = ds ++ (thermOf s d).diodes.drop ds.length := by
  refine ⟨rfl, rfl, rfl, ?_⟩
  rw [samplesKept, thermOf_modTherm_self]

theorem hotSpot_runs (d : Fin 5) (x : Int × Int) (hp : powered s = true) :
    exec (.sensorSample (.hotSpots d [x])) s = .next (samplesKept d [x] (countCycles d (readSpot d 0 x s))) := by
  have htake : [x].take (spotCount d) = [x] := by
    unfold spotCount
    split
    · rfl
    · rfl
  have hgo : ¬ (!sensing s) = true := by
    rw [sensing, hp]
    decide
  refine congrArg Host.Outcome.next ((if_neg hgo).trans ?_)
  dsimp only
  rw [htake]
  rfl

theorem hotKey_notCycles (d : Fin 5) : hotKey d 0 ∉ [K.WEAR_CYCLES_count d] := by
  revert d
  decide

/-- A hot spot sampled: its reading, and SAFE_OFF where it first stands at 110 °C (R382, R383, R393). -/
theorem hotSpotSampled {d : Fin 5} {x y : Int} (hp : powered s = true) (hn : (thermOf s d).diodes = []) (hf0 : diodeFailed s d 0 0 = false)
    (hf1 : diodeFailed s d 0 1 = false) (hx : -640 ≤ x ∧ x ≤ 2400) (hy : -640 ≤ y ∧ y ≤ 2400) (hxy : x - y ≤ 64) (hyx : y - x ≤ 64) :
    ((max x y < 1760 ∨ 16 * d.val ∈ s.thm.fired) → Runs (.sensorSample (.hotSpots d [(x, y)])) s fun t => regGet t (hotKey d 0) = ofSigned 16 (max x y) ∧ t.op = s.op ∧
      (thermOf t d).diodes = [(x, y)]) ∧
    (1760 ≤ max x y → 16 * d.val ∉ s.thm.fired → Runs (.sensorSample (.hotSpots d [(x, y)])) s fun t => t.op = .safeOff ∧ 16 * d.val ∈ t.thm.fired) := by
  have hread := readSpot_good (h := 0) hn hf0 hf1 hx hy
  obtain ⟨hsensed, hreg⟩ := spotRead_parts (d := d) (h := 0) (x := (x, y)) (max_le hxy hyx) s
  obtain ⟨hop, hfired, hpow⟩ := hsensed.keeps
  refine ⟨fun h => ?_, fun h hm => ?_⟩
  · have hquiet : readSpot d 0 (x, y) s = spotRead d 0 (x, y) s := by
      rw [hread]
      split
      · rename_i hhot
        refine fireOnce_again ?_
        rw [hfired]
        exact h.resolve_left (by omega)
      · rfl
    obtain ⟨hcyc, hk⟩ := countCycles_sensed d (spotRead d 0 (x, y) s)
    obtain ⟨hop', hreg', -, hd'⟩ := samplesKept_parts d [(x, y)] (countCycles d (spotRead d 0 (x, y) s))
    have hall := hsensed.trans hcyc
    refine ⟨_, hotSpot_runs d (x, y) hp, ?_⟩
    rw [hquiet]
    refine ⟨(regGet_congr hreg' _).trans ((hk _ (hotKey_notCycles d)).trans hreg), hop'.trans hall.keeps.1, hd'.trans ?_⟩
    rw [hall.diodes, hn]
    rfl
  · obtain ⟨hoff, hin⟩ := fireOnce_off (s := spotRead d 0 (x, y) s) (trigger := 16 * d.val) ⟨0x0705, 4, true, thmNode, d, 0, ofSigned 16 (max x y)⟩ 3 (hpow.trans hp) (by rw [hfired]; exact hm)
    have hfire : readSpot d 0 (x, y) s = fireOnce (16 * d.val) (classDWith ⟨0x0705, 4, true, thmNode, d, 0, ofSigned 16 (max x y)⟩ 3) (spotRead d 0 (x, y) s) :=
      hread.trans (if_pos h)
    refine ⟨_, hotSpot_runs d (x, y) hp, ?_⟩
    rw [hfire]
    generalize fireOnce (16 * d.val) (classDWith ⟨0x0705, 4, true, thmNode, d, 0, ofSigned 16 (max x y)⟩ 3) (spotRead d 0 (x, y) s) = v at hoff hin
    obtain ⟨hop', -, hf', -⟩ := samplesKept_parts d [(x, y)] (countCycles d v)
    obtain ⟨hopc, hfc, -⟩ := (countCycles_sensed d v).1.keeps
    exact ⟨hop'.trans (hopc.trans hoff), by rw [hf', hfc]; exact hin⟩

/-! The statement -/

theorem flowSensor_runs {x : Nat} (hp : powered s = true) (hd : s.thm.differFrom = some x) (hok : regGet s K.THM_STATUS_sensor_ok = 1) : exec .flowSensor s = .next (
    if x + 10 * secTicks ≤ s.ticks then raise .manager ⟨0x0709, 1, true, thmNode, regGet s K.THM_FLOW_sensor, 1, regGet s K.THM_FLOW_cal⟩
      { s with thm := { s.thm with differFrom := some s.ticks } } else s) := by
  have hexec : exec .flowSensor s = execFlowSensor s := rfl
  rw [hexec, execFlowSensor, hd]
  dsimp only
  rw [sensing, hp, hok, beq_self_eq_true, Bool.true_and, Bool.and_true]
  simp only [decide_eq_true_eq]
  rfl

/-- Settles O59: samplings by what they read, SAFE_OFF by the triggers that act once. -/
theorem sensors : Obligations.Sensors := by
  unfold Obligations.Sensors
  refine ⟨fun i o f s hp h => ?_, fun i o f s hp h hok => ?_,
    fun ps s hp => ⟨_, congrArg Host.Outcome.next (if_neg (by rw [sensing, hp]; exact Bool.false_ne_true)), rfl, rfl⟩,
    fun d x y s hp hn hf0 hf1 hx hx' hy hy' hxy hyx => hotSpotSampled hp hn hf0 hf1 ⟨hx, hx'⟩ ⟨hy, hy'⟩ hxy hyx, fun d s hp => ⟨fun h => ?_, fun h => ?_⟩,
    fun x s hp hd hok => ⟨fun h => ?_, fun h => ?_⟩⟩
  · obtain ⟨hin, hout, hflow⟩ := coolantRead_regs i o f s
    exact ⟨_, coolantSampled i o f hp h, hin, hout, hflow, rfl, rfl, rfl, coolantRead_kept i o f s⟩
  · obtain ⟨reg, thm, hread⟩ : ∃ reg thm, coolantRead i o f s = { s with reg := reg, thm := thm } := ⟨_, _, rfl⟩
    have hrun := coolantFails i o f hp h hok
    rw [hread] at hrun
    exact ⟨_, hrun, _, rfl, regGet_regSet_self _ K.THM_STATUS_sensor_ok 0, rfl⟩
  · exact ⟨_, congrArg Host.Outcome.next (if_pos hp), fireOnce_off _ 4 hp h⟩
  · exact congrArg Host.Outcome.next ((if_pos hp).trans (fireOnce_again h))
  · exact ⟨_, (flowSensor_runs hp hd hok).trans (congrArg Host.Outcome.next (if_pos h)), _, rfl, rfl⟩
  · exact (flowSensor_runs hp hd hok).trans (congrArg Host.Outcome.next (if_neg (Nat.not_le.2 h)))

end Sys2Proof.Machine
end

section
/-! PROOFS. The entry to LIMP and its end (R29, R32, R369, R390, R391, R392). -/
namespace Sys2Proof.Machine
variable {s t u : State}

/-! The pair chosen -/

theorem hottest_congr {d : Nat} (h : ∀ w, regGet t (K.THM_HOT_readingsLo d w) = regGet s (K.THM_HOT_readingsLo d w) ∧
    regGet t (K.THM_HOT_readingsHi d w) = regGet s (K.THM_HOT_readingsHi d w)) : hottest t d = hottest s d := by
  unfold hottest
  simp only [h]

theorem hotOr_congr {d : Nat} (h : ∀ w, regGet t (K.THM_HOT_readingsLo d w) = regGet s (K.THM_HOT_readingsLo d w) ∧
    regGet t (K.THM_HOT_readingsHi d w) = regGet s (K.THM_HOT_readingsHi d w)) : hotOr t d = hotOr s d := by rw [hotOr, hottest_congr h, hotOr]

theorem duplexPairs_congr (h : t.active = s.active) : duplexPairs t = duplexPairs s := by rw [duplexPairs, actGet_congr h, duplexPairs]

theorem vehicleDie_congr (hin : ∀ d, dieIn t d = dieIn s d) (hdpx : t.dpx = s.dpx) : vehicleDie t = vehicleDie s := by
  funext d
  rw [vehicleDie, hin, hdpx, vehicleDie]

theorem qualifies_congr (hin : ∀ d, dieIn t d = dieIn s d) (hdpx : t.dpx = s.dpx) (heng : t.engines = s.engines) (ha : t.active = s.active) :
    qualifies t = qualifies s := by
  have hside : sideDies t true = sideDies s true := by rw [sideDies, vehicleDie_congr hin hdpx, duplexPairs_congr ha, hdpx, sideDies]
  funext d
  rw [qualifies, diagPending, hside, hdpx, heng, hin, qualifies, diagPending]

/-- The choice reads the dies in service, their hot spots, the diagnoses and the pairing (R391). -/
theorem chooseLimp_congr (hin : ∀ d, dieIn t d = dieIn s d) (hhot : ∀ d, hotOr t d = hotOr s d) (hdpx : t.dpx = s.dpx) (heng : t.engines = s.engines)
    (ha : t.active = s.active) : chooseLimp t = chooseLimp s := by
  have hheat : pairHeat t = pairHeat s := by
    funext p
    rw [pairHeat, hhot, hhot, pairHeat]
  have hcool : coolest t = coolest s := by
    funext ds
    unfold coolest
    simp only [hhot]
  unfold chooseLimp
  rw [hheat, hcool, qualifies_congr hin hdpx heng ha, duplexPairs_congr ha]

/-! The entry -/

/-- The cause of an entry shown and told (R390). -/
def limpCaused (cause die : Nat) (s : State) : State := flowStop cause die (regSet K.THM_STATUS_limp_cause cause s)

theorem limpCaused_told (cause die : Nat) (s : State) : ∃ hosts host, limpCaused cause die s =
    { (regSet K.THM_STATUS_limp_cause cause s) with hosts := hosts, mem := { s.mem with host := host } } :=
  raise_inform .manager (e := ⟨0x0703, 0, true, nodeAddr 4 20 0, cause, die, regGet (regSet K.THM_STATUS_limp_cause cause s) K.THM_FLOW_sensor⟩) rfl
    (regSet K.THM_STATUS_limp_cause cause s)

theorem limpCaused_kept (cause die : Nat) (s : State) : RegsKept [K.THM_STATUS_limp_cause] s (limpCaused cause die s) := by
  obtain ⟨hosts, host, h⟩ := limpCaused_told cause die s
  rw [h]
  exact kept_set (by simp) (kept_refl _ s)

theorem limpCaused_chooses (cause die : Nat) (s : State) : chooseLimp (limpCaused cause die s) = chooseLimp s := by
  have hk := limpCaused_kept cause die s
  have hhot (d w : Nat) : regGet (limpCaused cause die s) (K.THM_HOT_readingsLo d w) = regGet s (K.THM_HOT_readingsLo d w) ∧
      regGet (limpCaused cause die s) (K.THM_HOT_readingsHi d w) = regGet s (K.THM_HOT_readingsHi d w) := by
    constructor
    · refine hk _ fun hm => ?_
      rw [List.mem_singleton] at hm
      unfold K.THM_HOT_readingsLo K.THM_STATUS_limp_cause fieldKey at hm
      omega
    · refine hk _ fun hm => ?_
      rw [List.mem_singleton] at hm
      unfold K.THM_HOT_readingsHi K.THM_STATUS_limp_cause fieldKey at hm
      omega
  obtain ⟨hosts, host, h⟩ := limpCaused_told cause die s
  refine chooseLimp_congr (fun d => dieIn_congr (hk _ (by decide)) d) (fun d => hotOr_congr (hhot d)) ?_ ?_ ?_
  · rw [h]
    rfl
  · rw [h]
    rfl
  · rw [h]
    rfl

/-- The module in LIMP with its pair: what else ran is off, the counts of cool milliseconds begin anew (R32, R391). -/
def limpEntered (p : Nat × Nat) (s : State) : State :=
  setOp .limp { s with
    dpx := { s.dpx with limpPair := [p.1, p.2], testing := [], testNext := [], rejoin := [], splitNext := [] },
    engines := s.engines.map fun e => (e.1, { e.2 with
      tiles := e.2.tiles.filter fun t => (e.1 == p.1 || e.1 == p.2) && decide (t.cluster < 12),
      due := e.2.due.filter fun q => (e.1 == p.1 || e.1 == p.2) && decide (q.1 < 96),
      rehearsing := e.2.rehearsing.filter fun q => (e.1 == p.1 || e.1 == p.2) && decide (q.1 < 96),
      called := if e.1 == p.1 || e.1 == p.2 then
          (e.2.called.map fun q => (q.1, q.2.filter (· < 96))).filter fun q => !q.2.isEmpty else [] }),
    thm := { s.thm with limpAt := s.ticks, cool := [] } }

/-- Every group of some dies at L5, their rails with it (R385, R391). -/
def allLow (ds : List Nat) (s : State) : State := ds.foldl (fun s d => followRail d (regSet (K.THM_LEVEL_levels d) 0x5555 s)) s

/-- The lodgers' work stopped at an entry to LIMP (R369). -/
def lodgersStopped (s : State) : State :=
  if lodgingOn s then limpRelease (dropLodgerTiles (stopLodgers 1 false { s with lodging := { s.lodging with limpStop := !s.lodging.realms.isEmpty } })) else s

/-- Whether LIMP may be entered. -/
abbrev mayLimp (s : State) : Prop := s.op = .warmIdle ∨ s.op = .drive ∨ s.op = .lodge

theorem enterLimp_runs (cause die : Nat) (h : mayLimp s) : enterLimp cause die s = match chooseLimp s with
    | none => classD 8 (nodeAddr 4 20 0) (limpCaused cause die s)
    | some p => lodgersStopped (dropDisputes (allLow (List.range 4) (limpEntered p (limpCaused cause die s)))) := by
  have hgo : ¬ (s.op ≠ .warmIdle && s.op ≠ .drive && s.op ≠ .lodge) = true := by
    rcases h with h | h | h
    · rw [h]
      decide
    · rw [h]
      decide
    · rw [h]
      decide
  rw [← limpCaused_chooses cause die s]
  exact if_neg hgo

theorem enterLimp_none (cause die : Nat) (h : ¬ mayLimp s) : enterLimp cause die s = s := by
  refine if_pos ?_
  rw [not_or, not_or] at h
  rw [decide_eq_true h.1, decide_eq_true h.2.1, decide_eq_true h.2.2]
  rfl

/-! What stays after the entry -/

/-- What the end of disputes and the release of lodgers leave of an entry to LIMP. -/
structure LimpStays (s t : State) : Prop where
  op : t.op = s.op
  thm : t.thm = s.thm
  pair : t.dpx.limpPair = s.dpx.limpPair

theorem LimpStays.trans (h : LimpStays s t) (g : LimpStays t u) : LimpStays s u := ⟨g.op.trans h.op, g.thm.trans h.thm, g.pair.trans h.pair⟩

theorem Ending.limpStays (h : Ending s t) : LimpStays s t := ⟨h.op, h.thm, congrArg Duplex.limpPair h.dpx⟩

theorem dropDisputes_keeps (s : State) : LimpStays s (dropDisputes s) ∧ RegsKept endKeys s (dropDisputes s) := by
  unfold dropDisputes
  generalize s.jobs.filter (fun j => j.dispute.isSome && jType j != 4 && jType j != 5 && diagStuck s j.acc) = l
  induction l generalizing s with
  | nil => exact ⟨⟨rfl, rfl, rfl⟩, kept_refl _ s⟩
  | cons j l ih =>
    rw [List.foldl_cons]
    split
    · rename_i r _
      let v : State := { s with dpx := { s.dpx with diags := s.dpx.diags.filter fun x => x.subj != .job j.acc } }
      obtain ⟨hstay, hk⟩ := ih (dropResult j r ⟨0x23, regGet s K.DPX_FRAME_frame⟩ v)
      have hone : LimpStays s (dropResult j r ⟨0x23, regGet s K.DPX_FRAME_frame⟩ v) := LimpStays.trans (t := v) ⟨rfl, rfl, rfl⟩ (dropResult_ending ..).limpStays
      exact ⟨hone.trans hstay, fun k hm => (hk k hm).trans ((dropResult_closing ..).regs k hm)⟩
    · exact ih s

theorem foldl_limpStays {f : State → Nat → State} (hf : ∀ s x, LimpStays s (f s x)) (l : List Nat) (s : State) : LimpStays s (l.foldl f s) := by
  induction l generalizing s with
  | nil => exact ⟨rfl, rfl, rfl⟩
  | cons x l ih => exact (hf s x).trans (ih _)

theorem dropLodgerTiles_stays (s : State) : LimpStays s (dropLodgerTiles s) := by
  refine foldl_limpStays (f := fun s d => modEngine d (fun e => { e with
    tiles := e.tiles.filter fun t => !s.lodging.realms.contains t.realm,
    ghosts := e.ghosts ++ e.tiles.filter fun t => s.lodging.realms.contains t.realm }) s) ?_ _ s
  exact fun s d => ⟨rfl, rfl, rfl⟩

theorem lodgersStopped_stays (s : State) : LimpStays s (lodgersStopped s) := by
  unfold lodgersStopped
  split
  · let v : State := { s with lodging := { s.lodging with limpStop := !s.lodging.realms.isEmpty } }
    have hstop := (stopLodgers_ending 1 false v).limpStays
    exact LimpStays.trans (t := v) ⟨rfl, rfl, rfl⟩ (hstop.trans ((dropLodgerTiles_stays _).trans (limpRelease_ending _).limpStays))
  · exact ⟨rfl, rfl, rfl⟩

/-! Levels in LIMP -/

theorem allLow_parts (ds : List Nat) (s : State) : (∀ d ∈ ds, regGet (allLow ds s) (K.THM_LEVEL_levels d) = 0x5555 ∧ (thermOf (allLow ds s) d).rail = 700) ∧
    (∀ d, d ∉ ds → thermOf (allLow ds s) d = thermOf s d) ∧ allLow ds s = { s with reg := (allLow ds s).reg, thm := { s.thm with dies := (allLow ds s).thm.dies } } ∧
    RegsKept (ds.map K.THM_LEVEL_levels) s (allLow ds s) := by
  induction ds generalizing s with
  | nil => exact ⟨fun d h => absurd h List.not_mem_nil, fun _ _ => rfl, rfl, fun _ _ => rfl⟩
  | cons q ds ih =>
    let v := followRail q (regSet (K.THM_LEVEL_levels q) 0x5555 s)
    have hreg : regGet v (K.THM_LEVEL_levels q) = 0x5555 := regGet_regSet_self s _ _
    have hlevel (g : Nat) : levelOf (regSet (K.THM_LEVEL_levels q) 0x5555 s) q g = bitsAt 0x5555 (4 * g) 3 := by rw [levelOf, regGet_regSet_self]
    have hrail : (thermOf v q).rail = 700 := by
      refine (followRail_rail q _).trans ?_
      rw [railWanted]
      simp only [hlevel]
      decide
    obtain ⟨hin, hout, hframe, hk⟩ := ih v
    have hstep : allLow (q :: ds) s = allLow ds v := rfl
    rw [hstep]
    refine ⟨fun d hd => ?_, fun d hd => ?_, ?_, fun k hm => ?_⟩
    · by_cases hm : d ∈ ds
      · exact hin d hm
      · obtain rfl := (List.mem_cons.1 hd).resolve_right hm
        refine ⟨(hk _ fun hn => ?_).trans hreg, (congrArg DieTherm.rail (hout d hm)).trans hrail⟩
        obtain ⟨e, he, hn⟩ := List.mem_map.1 hn
        exact hm (levelKey_inj hn ▸ he)
    · rw [List.mem_cons, not_or] at hd
      exact (hout d hd.2).trans (thermOf_modTherm_ne (s := regSet (K.THM_LEVEL_levels q) 0x5555 s)
        (fun t => { t with rail := railWanted (regSet (K.THM_LEVEL_levels q) 0x5555 s) q }) hd.1)
    · obtain ⟨reg, dies, hw⟩ : ∃ reg dies, allLow ds v = { v with reg := reg, thm := { v.thm with dies := dies } } := ⟨_, _, hframe⟩
      rw [hw]
      rfl
    · rw [List.map_cons, List.mem_cons, not_or] at hm
      exact (hk k hm.2).trans (regGet_regSet_ne s _ hm.1)

/-! An entry -/

/-- The module as LIMP begins, before disputes and lodgers are seen to. -/
def limpBegun (cause die : Nat) (p : Nat × Nat) (s : State) : State := allLow (List.range 4) (limpEntered p (limpCaused cause die s))

theorem limpBegun_parts (cause die : Nat) (p : Nat × Nat) (s : State) : (limpBegun cause die p s).op = .limp ∧ (limpBegun cause die p s).dpx.limpPair = [p.1, p.2] ∧
    (limpBegun cause die p s).thm.limpAt = s.ticks ∧ (limpBegun cause die p s).thm.cool = [] ∧
    (∀ d < 4, regGet (limpBegun cause die p s) (K.THM_LEVEL_levels d) = 0x5555 ∧ (thermOf (limpBegun cause die p s) d).rail = 700) ∧
    RegsKept (K.THM_STATUS_limp_cause :: (List.range 4).map K.THM_LEVEL_levels) s (limpBegun cause die p s) ∧
    regGet (limpBegun cause die p s) K.THM_STATUS_limp_cause = cause := by
  obtain ⟨hin, -, hframe, hk⟩ := allLow_parts (List.range 4) (limpEntered p (limpCaused cause die s))
  have hkept := limpCaused_kept cause die s
  have hcause : regGet (limpCaused cause die s) K.THM_STATUS_limp_cause = cause := by
    obtain ⟨hosts, host, h⟩ := limpCaused_told cause die s
    rw [h]
    exact regGet_regSet_self s _ _
  have hticks : (limpCaused cause die s).ticks = s.ticks := by
    obtain ⟨hosts, host, h⟩ := limpCaused_told cause die s
    rw [h]
    rfl
  have hbegun : limpBegun cause die p s = allLow (List.range 4) (limpEntered p (limpCaused cause die s)) := rfl
  rw [hbegun]
  obtain ⟨reg, dies, hw⟩ : ∃ reg dies, allLow (List.range 4) (limpEntered p (limpCaused cause die s)) = { limpEntered p (limpCaused cause die s) with
    reg := reg, thm := { (limpEntered p (limpCaused cause die s)).thm with dies := dies } } := ⟨_, _, hframe⟩
  refine ⟨?_, ?_, ?_, ?_, fun d hd => hin d (List.mem_range.2 hd), fun k hm => ?_, ?_⟩
  · rw [hw]
    rfl
  · rw [hw]
    rfl
  · rw [hw]
    exact hticks
  · rw [hw]
    rfl
  · rw [List.mem_cons, not_or] at hm
    exact (hk k hm.2).trans (hkept k (by rw [List.mem_singleton]; exact hm.1))
  · exact (hk _ (by decide)).trans hcause

/-- An entry to LIMP for which a pair can be made (R29, R390, R391). -/
theorem enterLimp_limps {p : Nat × Nat} (cause die : Nat) (h : mayLimp s) (hc : chooseLimp s = some p) : (enterLimp cause die s).op = .limp ∧
    (enterLimp cause die s).dpx.limpPair = [p.1, p.2] ∧ (lodgingOn s = false → regGet (enterLimp cause die s) K.THM_STATUS_limp_cause = cause ∧
      (∀ d : Fin 4, regGet (enterLimp cause die s) (K.THM_LEVEL_levels d) = 0x5555 ∧ (thermOf (enterLimp cause die s) d).rail = 700) ∧
      (enterLimp cause die s).thm.limpAt = s.ticks ∧ (enterLimp cause die s).thm.cool = []) := by
  have hrun : enterLimp cause die s = lodgersStopped (dropDisputes (limpBegun cause die p s)) := by
    rw [enterLimp_runs cause die h, hc]
    rfl
  obtain ⟨hop, hpair, hat, hcool, hlow, hk, hcause⟩ := limpBegun_parts cause die p s
  obtain ⟨hstay, hend⟩ := dropDisputes_keeps (limpBegun cause die p s)
  have hall := hstay.trans (lodgersStopped_stays (dropDisputes (limpBegun cause die p s)))
  rw [hrun]
  refine ⟨hall.op.trans hop, hall.pair.trans hpair, fun hl => ?_⟩
  have hoff : ¬ lodgingOn (dropDisputes (limpBegun cause die p s)) = true := by
    rw [lodgingOn, hend _ (by decide), hk _ (by decide)]
    exact fun h => absurd (hl.symm.trans h) Bool.false_ne_true
  have hsame : lodgersStopped (dropDisputes (limpBegun cause die p s)) = dropDisputes (limpBegun cause die p s) := if_neg hoff
  rw [hsame]
  refine ⟨(hend _ (by decide)).trans hcause, fun d => ⟨(hend _ ?_).trans (hlow d d.isLt).1, ?_⟩, by rw [hstay.thm, hat], by rw [hstay.thm, hcool]⟩
  · revert d
    decide
  · rw [thermOf, hstay.thm]
    exact (hlow d d.isLt).2

/-- An entry to LIMP ends in LIMP, or where no pair can be made in SAFE_OFF (R29, R391). -/
theorem enterLimp_op (cause die : Nat) (h : mayLimp s) (hp : powered s = true) : (enterLimp cause die s).op = .limp ∨ (enterLimp cause die s).op = .safeOff := by
  cases hc : chooseLimp s with
  | some p => exact .inl (enterLimp_limps cause die h hc).1
  | none =>
    refine .inr ?_
    obtain ⟨hosts, host, hcaused⟩ := limpCaused_told cause die s
    have hpow : powered (limpCaused cause die s) = true := by
      rw [hcaused]
      exact hp
    rw [enterLimp_runs cause die h, hc]
    exact classD_op hpow

/-! The end of LIMP -/

/-- The module back from LIMP, not told yet (R392). -/
def limpLeft (s : State) : State :=
  regSet K.THM_STATUS_limp_cause 0 (setOp (if s.inDrive then .drive else .warmIdle) { s with dpx := { s.dpx with limpPair := [] } })

theorem allCool_iff : ((List.range 5).all fun d => decide (hotOr s d < 1360)) = true ↔ ∀ d : Fin 5, hotOr s d < 1360 := by
  rw [List.all_eq_true]
  exact ⟨fun h d => of_decide_eq_true (h d (List.mem_range.2 d.isLt)), fun h d hd => decide_eq_true (h ⟨d, List.mem_range.1 hd⟩)⟩

theorem limpExit_runs {x : Nat} (hl : s.op = .limp) (hok : regGet s K.THM_STATUS_sensor_ok = 1) (hx : s.thm.goodFrom = some x) : exec .limpExit s = .next (
    if (∀ d : Fin 5, hotOr s d < 1360) ∧ x + 10 * secTicks ≤ s.ticks then
      raise .manager ⟨0x0704, 0, false, thmNode, 0, 0, (s.ticks - s.thm.limpAt) / msTicks⟩ (limpLeft s)
    else s) := by
  have hexec : exec .limpExit s = .next (limpExit s) := rfl
  rw [hexec, limpExit]
  dsimp only
  rw [hx]
  dsimp only
  refine congrArg Host.Outcome.next ?_
  by_cases h : (∀ d : Fin 5, hotOr s d < 1360) ∧ x + 10 * secTicks ≤ s.ticks
  · rw [if_pos h]
    refine if_neg ?_
    rw [allCool_iff.2 h.1, decide_eq_true h.2, decide_eq_false (not_not.2 hl), decide_eq_false (not_not.2 hok)]
    decide
  · rw [if_neg h]
    refine if_pos ?_
    rw [Bool.or_eq_true, Bool.or_eq_true, Bool.not_eq_true', Bool.not_eq_true']
    by_cases hc : ∀ d : Fin 5, hotOr s d < 1360
    · exact .inr (decide_eq_false fun ht => h ⟨hc, ht⟩)
    · exact .inl (.inr (Bool.eq_false_iff.2 fun ha => hc (allCool_iff.1 ha)))

theorem limpLeft_parts (s : State) : (limpLeft s).op = (if s.inDrive = true then .drive else .warmIdle) ∧ (limpLeft s).dpx = { s.dpx with limpPair := [] } ∧
    regGet (limpLeft s) K.THM_STATUS_limp_cause = 0 ∧
    limpLeft s = { s with op := (limpLeft s).op, opLog := (limpLeft s).opLog, dpx := (limpLeft s).dpx, reg := (limpLeft s).reg } ∧
    RegsKept [K.THM_STATUS_limp_cause] s (limpLeft s) :=
  ⟨rfl, rfl, regGet_regSet_self .., rfl, kept_set (by simp) (kept_reg (t := s) rfl (kept_refl _ s))⟩

/-! A stopped flow -/

theorem flowStop_runs {x : Nat} (hx : s.thm.lowFrom = some x) (hok : regGet s K.THM_STATUS_sensor_ok = 1) :
    exec .flowStop s = .next (if x + 5 * msTicks ≤ s.ticks then enterLimp 1 0 s else s) := by
  have hexec : exec .flowStop s = execFlowStop s := rfl
  rw [hexec, execFlowStop, hx]
  dsimp only
  rw [hok, beq_self_eq_true, Bool.true_and]
  simp only [decide_eq_true_eq]

end Sys2Proof.Machine
end

section
/-! PROOFS. The period of the thermal controller: the cap, the rise tests, the levels (R385 to R389). -/
namespace Sys2Proof.Machine
variable {s t u : State}

/-! What the cap and the rise tests leave -/

/-- The registers of the estimate and the cap. -/
abbrev capKeys : List Nat := [K.THM_FLOW_cal, K.THM_STATUS_cal_valid, K.THM_CAP_w]

/-- What the estimate, the cap and the rise tests leave: all but their registers, the dies' models, the flow's disagreement, the cap reported and events. -/
structure Gauged (s t : State) : Prop where
  frame : t = { s with reg := t.reg, hosts := t.hosts, mem := { s.mem with host := t.mem.host }, thm := { s.thm with dies := t.thm.dies, differFrom := t.thm.differFrom, capReported := t.thm.capReported } }
  regs : RegsKept capKeys s t
  limit : ∀ d, (thermOf t d).levelCap = (thermOf s d).levelCap

namespace Gauged

theorem refl (s : State) : Gauged s s := ⟨rfl, kept_refl _ s, fun _ => rfl⟩

theorem trans (h : Gauged s t) (g : Gauged t u) : Gauged s u := by
  refine ⟨?_, fun k hk => (g.regs k hk).trans (h.regs k hk), fun d => (g.limit d).trans (h.limit d)⟩
  obtain ⟨reg, hosts, host, dies, diff, cap, rfl⟩ : ∃ reg hosts host dies diff cap, t = { s with reg := reg, hosts := hosts, mem := { s.mem with host := host }, thm := { s.thm with dies := dies, differFrom := diff, capReported := cap } } := ⟨_, _, _, _, _, _, h.frame⟩
  exact g.frame

theorem op (h : Gauged s t) : t.op = s.op := (congrArg State.op h.frame :)
theorem boot (h : Gauged s t) : t.boot = s.boot := (congrArg State.boot h.frame :)
theorem active (h : Gauged s t) : t.active = s.active := (congrArg State.active h.frame :)
theorem ticks (h : Gauged s t) : t.ticks = s.ticks := (congrArg State.ticks h.frame :)
theorem power (h : Gauged s t) : t.thm.power = s.thm.power := (congrArg (fun u => u.thm.power) h.frame :)
theorem coolant (h : Gauged s t) : t.thm.coolant = s.thm.coolant := (congrArg (fun u => u.thm.coolant) h.frame :)
theorem cool (h : Gauged s t) : t.thm.cool = s.thm.cool := (congrArg (fun u => u.thm.cool) h.frame :)
theorem powered (h : Gauged s t) : powered t = powered s := powered_congr h.op h.boot

theorem dieIn (h : Gauged s t) (d : Nat) : dieIn t d = dieIn s d := dieIn_congr (h.regs _ (by decide)) d

theorem set {k v : Nat} (h : Gauged s t) (hk : k ∈ capKeys) : Gauged s (regSet k v t) := h.trans ⟨rfl, kept_set hk (kept_refl _ t), fun _ => rfl⟩

theorem raise (h : Gauged s t) (d : EvDest) {e : Ev} (he : e.cls = 0) : Gauged s (raise d e t) := by
  refine h.trans ?_
  obtain ⟨hosts, host, ht⟩ := raise_inform d he t
  rw [ht]
  exact ⟨rfl, fun _ _ => rfl, fun _ => rfl⟩

theorem differs (h : Gauged s t) (x : Option Nat) : Gauged s { t with thm := { t.thm with differFrom := x } } := h.trans ⟨rfl, fun _ _ => rfl, fun _ => rfl⟩

theorem reported (h : Gauged s t) (x : Nat) : Gauged s { t with thm := { t.thm with capReported := x } } := h.trans ⟨rfl, fun _ _ => rfl, fun _ => rfl⟩

theorem hotRegs (h : Gauged s t) (d w : Nat) : regGet t (K.THM_HOT_readingsLo d w) = regGet s (K.THM_HOT_readingsLo d w) ∧
    regGet t (K.THM_HOT_readingsHi d w) = regGet s (K.THM_HOT_readingsHi d w) := by
  have hno (k : Nat) (hk : 0x1D00 * 32 ≤ k) : k ∉ capKeys := by
    simp only [capKeys, List.mem_cons, List.not_mem_nil, or_false]
    unfold K.THM_FLOW_cal K.THM_STATUS_cal_valid K.THM_CAP_w fieldKey
    omega
  exact ⟨h.regs _ (hno _ (by unfold K.THM_HOT_readingsLo fieldKey; omega)), h.regs _ (hno _ (by unfold K.THM_HOT_readingsHi fieldKey; omega))⟩

theorem hottest (h : Gauged s t) (d : Nat) : hottest t d = hottest s d := hottest_congr (h.hotRegs d)

theorem calFlow (h : Gauged s t) : calFlow t = calFlow s := by
  unfold Machine.calFlow fullSecond
  rw [h.power, h.coolant, actGet_congr h.active, h.ticks, h.boot]

theorem flowUsed (h : Gauged s t) : flowUsed t = flowUsed s := by
  unfold Machine.flowUsed sensorFlow
  rw [h.calFlow, h.regs _ (by decide), h.regs K.THM_FLOW_sensor (by decide)]

theorem inletNow (h : Gauged s t) : inletNow t = inletNow s := by rw [Machine.inletNow, h.regs _ (by decide), Machine.inletNow]

theorem capMilliW (h : Gauged s t) : capMilliW t = capMilliW s := by
  unfold Machine.capMilliW
  rw [h.flowUsed, h.inletNow, actGet_congr h.active]

theorem powerNow (h : Gauged s t) : powerNow t = powerNow s := by rw [Machine.powerNow, h.power, Machine.powerNow]

end Gauged

/-! The cap -/

/-- The estimate in its registers (R387). -/
def estimateShown (s : State) : State := regSet K.THM_FLOW_cal (min 65535 (milli (calFlow s).1)) (regSet K.THM_STATUS_cal_valid (calFlow s).2.toNat s)

/-- Since when the sensor has stood above the estimate (R387). -/
def differsSince (c : F32 × Bool) (s : State) : Option Nat :=
  if c.2 && regGet s K.THM_STATUS_sensor_ok == 1 && f32Lt (f32Mul c.1 0x3F99999A) (sensorFlow s) then some (s.thm.differFrom.getD s.ticks) else none

/-- The estimate shown, before the cap. -/
def estimated (s : State) : State :=
  { estimateShown s with thm := { (estimateShown s).thm with differFrom := differsSince (calFlow s) (estimateShown s) } }

theorem estimateShown_gauged (s : State) : Gauged s (estimateShown s) := by
  have hvalid : Gauged s (regSet K.THM_STATUS_cal_valid (calFlow s).2.toNat s) := .set (.refl s) (by simp)
  exact .set hvalid (by simp)

theorem estimated_gauged (s : State) : Gauged s (estimated s) := (estimateShown_gauged s).differs (differsSince (calFlow s) (estimateShown s))

/-- The cap of a state shown, and told where it has moved by a tenth (R388). -/
def capTold (s : State) : State :=
  let cap := capMilliW s / 1000
  let last := s.thm.capReported
  let s := regSet K.THM_CAP_w cap s
  if cap ≠ last ∧ last ≤ 10 * (max cap last - min cap last) then
    raise .manager ⟨0x0702, 0, true, thmNode, cap, milli (flowUsed s), regGet s K.THM_FLOW_sensor⟩
      { s with thm := { s.thm with capReported := cap } }
  else s

theorem capTold_parts (s : State) : Gauged s (capTold s) ∧ regGet (capTold s) K.THM_CAP_w = capMilliW s / 1000 := by
  unfold capTold
  extract_lets cap last v
  have hv : Gauged s v := .set (.refl s) (by simp)
  have hcap : regGet v K.THM_CAP_w = cap := regGet_regSet_self ..
  split
  · exact ⟨(hv.reported cap).raise _ rfl, (regGet_raise ..).trans hcap⟩
  · exact ⟨hv, hcap⟩

theorem updateCap_runs (s : State) : updateCap s = capTold (estimated s) := by
  unfold updateCap estimated estimateShown differsSince
  rfl

theorem capTold_dies (s : State) : (capTold s).thm.dies = s.thm.dies := by
  unfold capTold
  extract_lets cap last v
  split
  · rw [raise_thm]
    rfl
  · rfl

theorem estimateShown_thm (s : State) : (estimateShown s).thm = s.thm := by rw [estimateShown, regSet_thm, regSet_thm]

theorem estimated_dies (s : State) : (estimated s).thm.dies = s.thm.dies := by
  have h : (estimated s).thm = { (estimateShown s).thm with differFrom := differsSince (calFlow s) (estimateShown s) } := by rw [estimated]
  rw [h, estimateShown_thm]

/-- The estimate and the cap touch no die's sensors. -/
theorem updateCap_dies (s : State) : (updateCap s).thm.dies = s.thm.dies := by rw [updateCap_runs, capTold_dies, estimated_dies]

/-- The estimate and the cap recomputed (R387, R388). -/
theorem updateCap_parts (s : State) : Gauged s (updateCap s) ∧ regGet (updateCap s) K.THM_CAP_w = capMilliW s / 1000 := by
  have hest := estimated_gauged s
  obtain ⟨hgauge, hcap⟩ := capTold_parts (estimated s)
  rw [updateCap_runs]
  refine ⟨hest.trans hgauge, hcap.trans ?_⟩
  rw [hest.capMilliW]

/-! Rise tests -/

theorem riseTest_gauged (d : Nat) (s : State) : Gauged s (riseTest d s).1 ∧ ∀ e, e ≠ d → thermOf (riseTest d s).1 e = thermOf s e := by
  unfold riseTest
  split
  · exact ⟨.refl s, fun _ _ => rfl⟩
  · dsimp only
    refine ⟨⟨rfl, fun _ _ => rfl, fun e => ?_⟩, fun e he => thermOf_modTherm_ne (s := s) _ he⟩
    rw [thermOf_modTherm]
    split
    · rfl
    · rfl

theorem riseTest_reg (d : Nat) (s : State) : (riseTest d s).1.reg = s.reg := by
  unfold riseTest
  split
  · rfl
  · rfl

theorem riseTest_congr {d : Nat} (h : Gauged s t) (hd : thermOf t d = thermOf s d) : (riseTest d t).2 = (riseTest d s).2 := by
  unfold riseTest
  rw [h.hottest d, hd, h.inletNow, h.powerNow]
  simp only [actGet_congr h.active]
  split
  · rfl
  · rfl

/-- The rise test of one die in service. -/
def riseStep (s : State) (d : Nat) : State :=
  if !dieIn s d then s
  else
    let r := riseTest d s
    if r.2 then enterLimp 2 d r.1 else r.1

/-- Rise tests that no die fails. -/
theorem foldl_riseStep (ds : List Nat) (hn : ds.Nodup) (hno : ∀ d ∈ ds, dieIn s d = true → (riseTest d s).2 = false) (h : Gauged s t)
    (hd : ∀ d ∈ ds, thermOf t d = thermOf s d) : Gauged s (ds.foldl riseStep t) ∧ (ds.foldl riseStep t).reg = t.reg := by
  induction ds generalizing t with
  | nil => exact ⟨h, rfl⟩
  | cons q ds ih =>
    obtain ⟨hq, hn⟩ := List.nodup_cons.1 hn
    have hstep : riseStep t q = t ∨ riseStep t q = (riseTest q t).1 := by
      unfold riseStep
      split
      · exact .inl rfl
      · rename_i hin
        have hin' : dieIn s q = true := by
          rw [← h.dieIn]
          simpa using hin
        dsimp only
        rw [riseTest_congr h (hd q List.mem_cons_self), hno q List.mem_cons_self hin']
        exact .inr rfl
    obtain ⟨hone, hother⟩ := riseTest_gauged q t
    rw [List.foldl_cons]
    rcases hstep with he | he
    · rw [he]
      exact ih hn (fun d hm => hno d (List.mem_cons_of_mem _ hm)) h fun d hm => hd d (List.mem_cons_of_mem _ hm)
    · rw [he]
      obtain ⟨hall, hreg⟩ := ih hn (fun d hm => hno d (List.mem_cons_of_mem _ hm)) (h.trans hone) fun d hm =>
        (hother d fun he => hq (he ▸ hm)).trans (hd d (List.mem_cons_of_mem _ hm))
      exact ⟨hall, hreg.trans (riseTest_reg q t)⟩

/-- A module that has left normal operation for LIMP or SAFE_OFF. -/
abbrev Limped (s : State) : Prop := s.op = .limp ∨ s.op = .safeOff

theorem Limped.not_mayLimp (h : Limped s) : ¬ mayLimp s := by
  rintro (ho | ho | ho)
  all_goals
    rw [Limped, ho] at h
    revert h
    decide

theorem riseStep_limped (h : Limped s) (d : Nat) : Limped (riseStep s d) := by
  unfold riseStep
  split
  · exact h
  · have hop : (riseTest d s).1.op = s.op := (riseTest_gauged d s).1.op
    have hl : Limped (riseTest d s).1 := by
      rw [Limped, hop]
      exact h
    dsimp only
    split
    · rw [enterLimp_none 2 d hl.not_mayLimp]
      exact hl
    · exact hl

/-- Rise tests keep the module as it runs, or end in LIMP or SAFE_OFF. -/
theorem foldl_riseStep_or (hm : mayLimp s) (hp : powered s = true) (ds : List Nat) (h : Gauged s t ∨ Limped t) :
    Gauged s (ds.foldl riseStep t) ∨ Limped (ds.foldl riseStep t) := by
  induction ds generalizing t with
  | nil => exact h
  | cons q ds ih =>
    rw [List.foldl_cons]
    refine ih ?_
    rcases h with h | h
    · have hone := h.trans (riseTest_gauged q t).1
      unfold riseStep
      split
      · exact .inl h
      · dsimp only
        split
        · refine .inr (enterLimp_op 2 q ?_ (hone.powered.trans hp))
          rw [mayLimp, hone.op]
          exact hm
        · exact .inl hone
    · exact .inr (riseStep_limped h q)

/-- Rise tests where LIMP may not be entered. -/
theorem foldl_riseStep_idle (hm : ¬ mayLimp s) (ds : List Nat) (h : Gauged s t) : Gauged s (ds.foldl riseStep t) ∧ (ds.foldl riseStep t).reg = t.reg := by
  induction ds generalizing t with
  | nil => exact ⟨h, rfl⟩
  | cons q ds ih =>
    have hone := h.trans (riseTest_gauged q t).1
    have hstep : riseStep t q = t ∨ riseStep t q = (riseTest q t).1 := by
      unfold riseStep
      split
      · exact .inl rfl
      · dsimp only
        rw [enterLimp_none 2 q (by rw [mayLimp, hone.op]; exact hm), ite_self]
        exact .inr rfl
    rw [List.foldl_cons]
    rcases hstep with he | he
    · rw [he]
      exact ih h
    · rw [he]
      obtain ⟨hall, hreg⟩ := ih hone
      exact ⟨hall, hreg.trans (riseTest_reg q t)⟩

end Sys2Proof.Machine
end

section
/-! PROOFS. The levels of a period, and throttling with its end in LIMP (R385 to R391). -/
namespace Sys2Proof.Machine
variable {s t u : State}

/-! The next level of a group -/

theorem nextLevel_lt (s : State) (d g : Nat) : (nextLevel s d g).1 < 8 := by
  have hl := levelOf_lt s d g
  unfold nextLevel
  dsimp only
  split
  · split_ifs
    all_goals omega
  · split_ifs
    all_goals omega

namespace Gauged

theorem levels (h : Gauged s t) (d g : Nat) : levelOf t d g = levelOf s d g := by
  have hno : K.THM_LEVEL_levels d ∉ capKeys := by
    simp only [capKeys, List.mem_cons, List.not_mem_nil, or_false]
    unfold K.THM_FLOW_cal K.THM_STATUS_cal_valid K.THM_CAP_w K.THM_LEVEL_levels fieldKey
    omega
  rw [levelOf, h.regs _ hno, levelOf]

theorem blind (h : Gauged s t) : spotBlind t = spotBlind s := by
  funext d q
  exact spotBlind_congr (h.regs _ (by decide)) (h.regs _ (by decide)) d q

theorem groupHot (h : Gauged s t) (d g : Nat) : groupHot t d g = groupHot s d g := by
  have hkey (q : Nat) : regGet t (hotKey d q) = regGet s (hotKey d q) := by
    unfold hotKey
    split
    · exact (h.hotRegs d _).1
    · exact (h.hotRegs d _).2
  unfold Machine.groupHot
  simp only [h.blind, hkey]

/-- The next level reads nothing that the cap and the rise tests change. -/
theorem nextLevel (h : Gauged s t) (d g : Nat) : nextLevel t d g = nextLevel s d g := by
  have hover : overShare t d = overShare s d := by rw [overShare, h.capMilliW, h.powerNow, overShare]
  have hshed : shedGroup t d = shedGroup s d := by
    unfold shedGroup
    simp only [h.levels]
  have hlimit : levelLimit t d g = levelLimit s d g := by rw [levelLimit, h.limit, h.blind, levelLimit]
  unfold Machine.nextLevel
  rw [h.levels, actGet_congr h.active, h.cool, h.groupHot, hover, hshed, hlimit]

end Gauged

/-! The levels of one die set -/

/-- One group at its next level, its count of cool milliseconds kept. -/
def groupSet (d g : Nat) (x : Nat × Nat) (s : State) : State :=
  let s := setLevel d g x.1 s
  { s with thm := { s.thm with cool := tset 0 (4 * d + g) x.2 s.thm.cool } }

theorem groupSet_parts {d g : Nat} {x : Nat × Nat} (hg : g < 4) (hx : x.1 < 8) (s : State) :
    (∀ q < 4, levelOf (groupSet d g x s) d q = if q = g then x.1 else levelOf s d q) ∧ LevelsOnly s (groupSet d g x s) ∧
    (groupSet d g x s).thm.dies = s.thm.dies ∧ RegsKept [K.THM_LEVEL_levels d] s (groupSet d g x s) := by
  obtain ⟨hset, hframe, hdies, hk⟩ := setLevel_parts d hg hx s
  exact ⟨hset, hframe.trans (u := groupSet d g x s) rfl, hdies, hk⟩

/-- The groups of a list at the levels that a function gives. -/
def groupsSet (d : Nat) (next : Nat → Nat × Nat) (gs : List Nat) (s : State) : State := gs.foldl (fun s g => groupSet d g (next g) s) s

theorem groupsSet_parts {d : Nat} {next : Nat → Nat × Nat} (hnext : ∀ g, (next g).1 < 8) (gs : List Nat) (hgs : ∀ g ∈ gs, g < 4) (s : State) :
    (∀ q < 4, levelOf (groupsSet d next gs s) d q = if q ∈ gs then (next q).1 else levelOf s d q) ∧ LevelsOnly s (groupsSet d next gs s) ∧
    (groupsSet d next gs s).thm.dies = s.thm.dies ∧ RegsKept [K.THM_LEVEL_levels d] s (groupsSet d next gs s) := by
  induction gs generalizing s with
  | nil => exact ⟨fun q _ => (if_neg List.not_mem_nil).symm, .refl s, rfl, kept_refl _ s⟩
  | cons g gs ih =>
    obtain ⟨hset, hframe, hdies, hk⟩ := groupSet_parts (d := d) (hgs g List.mem_cons_self) (hnext g) s
    obtain ⟨hrest, hf, hd, hk'⟩ := ih (fun q hq => hgs q (List.mem_cons_of_mem _ hq)) (groupSet d g (next g) s)
    refine ⟨fun q hq => (hrest q hq).trans ?_, hframe.trans hf, hd.trans hdies, fun k hm => (hk' k hm).trans (hk k hm)⟩
    rw [hset q hq]
    by_cases hqg : q = g
    · subst hqg
      rw [if_pos rfl, if_pos List.mem_cons_self, ite_self]
    · rw [if_neg hqg]
      simp only [List.mem_cons, hqg, false_or]

/-- What the levels of a period leave: registers but their own, the sensors, events. -/
def Throttled (s t : State) : Prop := t = { s with reg := t.reg, thm := t.thm, hosts := t.hosts, mem := { s.mem with host := t.mem.host } }

theorem Throttled.refl (s : State) : Throttled s s := rfl

theorem Throttled.trans (h : Throttled s t) (g : Throttled t u) : Throttled s u := by
  obtain ⟨reg, thm, hosts, host, rfl⟩ : ∃ reg thm hosts host, t = { s with reg := reg, thm := thm, hosts := hosts, mem := { s.mem with host := host } } := ⟨_, _, _, _, h⟩
  exact g

theorem LevelsOnly.throttled (h : LevelsOnly s t) : Throttled s t := by
  obtain ⟨reg, cool, dies, rfl⟩ : ∃ reg cool dies, t = { s with reg := reg, thm := { s.thm with cool := cool, dies := dies } } := ⟨_, _, _, h⟩
  rfl

theorem Gauged.throttled (h : Gauged s t) : Throttled s t := by
  obtain ⟨reg, hosts, host, dies, diff, cap, rfl⟩ : ∃ reg hosts host dies diff cap, t = { s with reg := reg, hosts := hosts, mem := { s.mem with host := host }, thm := { s.thm with dies := dies, differFrom := diff, capReported := cap } } := ⟨_, _, _, _, _, _, h.frame⟩
  rfl

/-- One die's levels and rail after a period whose levels are read from a state. -/
structure DieStepped (s0 : State) (d : Nat) (s t : State) : Prop where
  levels : ∀ g < 4, levelOf t d g = (nextLevel s0 d g).1
  rail : (thermOf t d).rail = railWanted t d
  others : ∀ e, e ≠ d → thermOf t e = thermOf s e
  frame : Throttled s t
  regs : RegsKept [K.THM_LEVEL_levels d] s t

/-- The levels of a die set, its rail with them, not told yet. -/
def railed (s0 : State) (d : Nat) (s : State) : State := followRail d (groupsSet d (fun g => nth ((List.range 4).map fun g => nextLevel s0 d g) g (0, 0)) (List.range 4) s)

theorem nth_levels {g : Nat} (s0 : State) (d : Nat) (hg : g < 4) : nth ((List.range 4).map fun g => nextLevel s0 d g) g (0, 0) = nextLevel s0 d g := by
  rw [nth, List.getD_eq_getElem?_getD, List.getElem?_map, List.getElem?_range hg]
  rfl

theorem nth_levels_lt (s0 : State) (d g : Nat) : (nth ((List.range 4).map fun g => nextLevel s0 d g) g (0, 0)).1 < 8 := by
  by_cases hg : g < 4
  · rw [nth_levels s0 d hg]
    exact nextLevel_lt s0 d g
  · have hlen : ((List.range 4).map fun g => nextLevel s0 d g).length ≤ g := by
      rw [List.length_map, List.length_range]
      omega
    rw [nth, List.getD_eq_default _ _ hlen]
    decide

theorem railed_stepped (s0 : State) (d : Nat) (s : State) : DieStepped s0 d s (railed s0 d s) := by
  obtain ⟨hlevels, hframe, hdies, hk⟩ := groupsSet_parts (d := d) (nth_levels_lt s0 d) (List.range 4) (fun g hg => List.mem_range.1 hg) s
  refine ⟨fun g hg => ?_, followRail_rail d _, fun e he => ?_, (hframe.trans (followRail_levelsOnly d _)).throttled, hk⟩
  · refine (hlevels g hg).trans ((if_pos (List.mem_range.2 hg)).trans ?_)
    rw [nth_levels s0 d hg]
  · refine (thermOf_modTherm_ne (s := groupsSet d _ (List.range 4) s) _ he).trans ?_
    rw [thermOf, hdies, thermOf]

/-- The change of a die's levels told, at most once a second (R386). -/
def throttleTold (changed : Bool) (d : Nat) (s : State) : State :=
  if changed && ((thermOf s d).throttled.all fun t => decide (t + secTicks ≤ s.ticks)) then
    raise .manager ⟨0x0701, 0, false, thmNode, d, regGet s (K.THM_LEVEL_levels d), ofSigned 16 (hotOr s d)⟩
      (modTherm d (fun t => { t with throttled := some s.ticks }) s)
  else s

theorem throttleTold_stepped {s0 : State} {d : Nat} (changed : Bool) (h : DieStepped s0 d s t) : DieStepped s0 d s (throttleTold changed d t) := by
  unfold throttleTold
  split
  · obtain ⟨hosts, host, ht⟩ := raise_inform .manager (e := ⟨0x0701, 0, false, thmNode, d, regGet t (K.THM_LEVEL_levels d), ofSigned 16 (hotOr t d)⟩) rfl
      (modTherm d (fun x => { x with throttled := some t.ticks }) t)
    rw [ht]
    refine ⟨h.levels, ?_, fun e he => ?_, h.frame.trans rfl, h.regs⟩
    · exact (congrArg DieTherm.rail (thermOf_modTherm_self (s := t) d fun x => { x with throttled := some t.ticks })).trans h.rail
    · exact (thermOf_modTherm_ne (s := t) (fun x => { x with throttled := some t.ticks }) he).trans (h.others e he)
  · exact h

theorem stepDie_stepped (s0 : State) (d : Nat) (s : State) : DieStepped s0 d s (stepDie s0 d s) := by
  have htold : ∃ changed, stepDie s0 d s = throttleTold changed d (railed s0 d s) := by
    unfold stepDie throttleTold railed groupsSet groupSet
    exact ⟨_, rfl⟩
  obtain ⟨changed, h⟩ := htold
  rw [h]
  exact throttleTold_stepped changed (railed_stepped s0 d s)

/-! The levels of all dies -/

/-- One die's levels set where it is in service. -/
def dieStep (s0 : State) (t : State) (d : Nat) : State := if dieIn t d then stepDie s0 d t else t

/-- The levels and rails of some dies after a period whose levels are read from a state. -/
structure DiesStepped (s0 : State) (ds : List Nat) (s t : State) : Prop where
  levels : ∀ d, ∀ g < 4, levelOf t d g = if d ∈ ds ∧ dieIn s d = true then (nextLevel s0 d g).1 else levelOf s d g
  rail : ∀ d ∈ ds, dieIn s d = true → (thermOf t d).rail = railWanted t d
  others : ∀ d, d ∉ ds → thermOf t d = thermOf s d
  frame : Throttled s t
  regs : RegsKept (ds.map K.THM_LEVEL_levels) s t

theorem dieIn_levels {ds : List Nat} (h : RegsKept (ds.map K.THM_LEVEL_levels) s t) (d : Nat) : dieIn t d = dieIn s d := by
  refine dieIn_congr (h _ fun hm => ?_) d
  obtain ⟨q, -, hq⟩ := List.mem_map.1 hm
  unfold K.THM_LEVEL_levels K.ID_DIES_in_service fieldKey at hq
  omega

theorem railWanted_congr {d : Nat} (h : ∀ g < 4, levelOf t d g = levelOf s d g) : railWanted t d = railWanted s d := by
  have hmap : ((List.range 4).map fun g => levelMv (levelOf t d g)) = (List.range 4).map fun g => levelMv (levelOf s d g) :=
    List.map_congr_left fun g hg => by rw [h g (List.mem_range.1 hg)]
  rw [railWanted, hmap, railWanted]

theorem foldl_dieStep (s0 : State) (ds : List Nat) (hn : ds.Nodup) (s : State) : DiesStepped s0 ds s (ds.foldl (dieStep s0) s) := by
  induction ds generalizing s with
  | nil => exact ⟨fun d g _ => (if_neg fun h => List.not_mem_nil h.1).symm, fun d h => absurd h List.not_mem_nil, fun _ _ => rfl, .refl s, fun _ _ => rfl⟩
  | cons q ds ih =>
    obtain ⟨hq, hn⟩ := List.nodup_cons.1 hn
    rw [List.foldl_cons]
    by_cases hin : dieIn s q = true
    · have hstep : dieStep s0 s q = stepDie s0 q s := if_pos hin
      rw [hstep]
      have hone := stepDie_stepped s0 q s
      have hrest := ih hn (stepDie s0 q s)
      have hdie (d : Nat) : dieIn (stepDie s0 q s) d = dieIn s d :=
        dieIn_levels (ds := [q]) hone.regs d
      refine ⟨fun d g hg => (hrest.levels d g hg).trans ?_, fun d hd hs => ?_, fun d hd => ?_, hone.frame.trans hrest.frame, fun k hk => ?_⟩
      · rw [hdie]
        by_cases hdq : d = q
        · subst hdq
          rw [if_neg fun h => hq h.1, if_pos ⟨List.mem_cons_self, hin⟩]
          exact hone.levels g hg
        · rw [levelOf_kept hone.regs hdq]
          simp only [List.mem_cons, hdq, false_or]
      · by_cases hm : d ∈ ds
        · exact hrest.rail d hm ((hdie d).trans hs)
        · obtain rfl := (List.mem_cons.1 hd).resolve_right hm
          rw [hrest.others d hm, hone.rail]
          exact (railWanted_congr fun g hg => (hrest.levels d g hg).trans (if_neg fun h => hm h.1)).symm
      · rw [List.mem_cons, not_or] at hd
        exact (hrest.others d hd.2).trans (hone.others d hd.1)
      · rw [List.map_cons, List.mem_cons, not_or] at hk
        exact (hrest.regs k hk.2).trans (hone.regs k (by rw [List.mem_singleton]; exact hk.1))
    · have hstep : dieStep s0 s q = s := if_neg hin
      rw [hstep]
      have hrest := ih hn s
      refine ⟨fun d g hg => (hrest.levels d g hg).trans ?_, fun d hd hs => hrest.rail d ?_ hs, fun d hd => hrest.others d fun h => hd (List.mem_cons_of_mem _ h),
        hrest.frame, fun k hk => hrest.regs k fun h => hk (List.mem_cons_of_mem _ h)⟩
      · by_cases hdq : d = q
        · subst hdq
          rw [if_neg fun h => hin h.2, if_neg fun h => hin h.2]
        · simp only [List.mem_cons, hdq, false_or]
      · exact (List.mem_cons.1 hd).resolve_left fun h => hin (h ▸ hs)

/-! A period -/

/-- A period after its cap and rise tests. -/
def throttleOn (s : State) : State :=
  let s := if f32Le (flowUsed s) f32One then enterLimp 3 0 s else s
  if s.op = .warmIdle || s.op = .drive || s.op = .lodge then (List.range 4).foldl (dieStep s) s else s

theorem throttle_runs (hp : powered s = true) : exec .thermalThrottle s = .next (throttleOn ((List.range 4).foldl riseStep (updateCap s))) := by
  refine congrArg Host.Outcome.next (if_neg ?_)
  rw [sensing, hp]
  exact Bool.false_ne_true

theorem mayLimp_iff : (s.op = .warmIdle || s.op = .drive || s.op = .lodge) = true ↔ mayLimp s := by
  rw [Bool.or_eq_true, Bool.or_eq_true, decide_eq_true_eq, decide_eq_true_eq, decide_eq_true_eq, or_assoc]

theorem throttleOn_idle (h : ¬ mayLimp s) : throttleOn s = s := by
  have hlow : (if f32Le (flowUsed s) f32One then enterLimp 3 0 s else s) = s := by
    rw [enterLimp_none 3 0 h, ite_self]
  unfold throttleOn
  rw [hlow]
  exact if_neg fun hm => h (mayLimp_iff.1 hm)

/-- A coolant flow of 1.0 L/min or less ends in LIMP, or where no pair can be made in SAFE_OFF (R390). -/
theorem throttleOn_low (h : mayLimp s) (hp : powered s = true) (hf : f32Le (flowUsed s) f32One = true) : Limped (throttleOn s) := by
  have hl : Limped (enterLimp 3 0 s) := enterLimp_op 3 0 h hp
  unfold throttleOn
  rw [if_pos hf]
  dsimp only
  rw [if_neg fun hm => hl.not_mayLimp (mayLimp_iff.1 hm)]
  exact hl

theorem throttleOn_flows (h : mayLimp s) (hf : f32Le (flowUsed s) f32One = false) : throttleOn s = (List.range 4).foldl (dieStep s) s := by
  have hno : ¬ f32Le (flowUsed s) f32One = true := by
    rw [hf]
    exact Bool.false_ne_true
  unfold throttleOn
  rw [if_neg hno]
  exact if_pos (mayLimp_iff.2 h)

/-- A period outside normal operation: the cap alone (R388). -/
theorem throttled_idle (hp : powered s = true) (h : ¬ mayLimp s) : Runs .thermalThrottle s fun t => regGet t K.THM_CAP_w = capMilliW s / 1000 ∧
    t = { s with reg := t.reg, thm := t.thm, hosts := t.hosts, mem := { s.mem with host := t.mem.host } } ∧
    RegsKept [K.THM_FLOW_cal, K.THM_STATUS_cal_valid, K.THM_CAP_w] s t := by
  obtain ⟨hcap, hw⟩ := updateCap_parts s
  have hno : ¬ mayLimp (updateCap s) := by
    rw [mayLimp, hcap.op]
    exact h
  obtain ⟨hrise, hreg⟩ := foldl_riseStep_idle hno (List.range 4) (.refl _)
  have hall := hcap.trans hrise
  refine ⟨_, throttle_runs hp, ?_⟩
  rw [throttleOn_idle (by rw [mayLimp, hall.op]; exact h)]
  exact ⟨(regGet_congr hreg _).trans hw, hall.throttled, hall.regs⟩

/-- A period in normal operation whose flow suffices and whose rise tests no die fails: the cap and every level (R386 to R388). -/
theorem throttled_levels (hp : powered s = true) (h : mayLimp s) (hf : f32Le (flowUsed s) f32One = false)
    (hno : ∀ d < 4, dieIn s d = true → (riseTest d s).2 = false) : Runs .thermalThrottle s fun t =>
      regGet t K.THM_CAP_w = capMilliW s / 1000 ∧ (∀ d g : Fin 4, levelOf t d g = if dieIn s d = true then (nextLevel s d g).1 else levelOf s d g) ∧
      (∀ d : Fin 4, dieIn s d = true → (thermOf t d).rail = ((List.range 4).map fun g => levelMv (levelOf t d g)).foldl max 0) ∧
      t = { s with reg := t.reg, thm := t.thm, hosts := t.hosts, mem := { s.mem with host := t.mem.host } } ∧
      RegsKept (K.THM_FLOW_cal :: K.THM_STATUS_cal_valid :: K.THM_CAP_w :: (List.range 4).map K.THM_LEVEL_levels) s t := by
  obtain ⟨hcap, hw⟩ := updateCap_parts s
  have hpass (d : Nat) (hd : d ∈ List.range 4) (hin : dieIn (updateCap s) d = true) : (riseTest d (updateCap s)).2 = false := by
    have hsame : thermOf (updateCap s) d = thermOf s d := by rw [thermOf, updateCap_dies, thermOf]
    exact (riseTest_congr hcap hsame).trans (hno d (List.mem_range.1 hd) ((hcap.dieIn d).symm.trans hin))
  obtain ⟨hrise, hreg⟩ := foldl_riseStep (List.range 4) List.nodup_range hpass (.refl _) fun _ _ => rfl
  have hall := hcap.trans hrise
  let v := (List.range 4).foldl riseStep (updateCap s)
  have hstep := foldl_dieStep v (List.range 4) List.nodup_range v
  have hgo : throttleOn v = (List.range 4).foldl (dieStep v) v := throttleOn_flows (by rw [mayLimp, hall.op]; exact h) (by rw [hall.flowUsed]; exact hf)
  refine ⟨_, (throttle_runs hp).trans (congrArg Host.Outcome.next hgo), ?_, fun d g => ?_, fun d hd => ?_, hall.throttled.trans hstep.frame, fun k hk => ?_⟩
  · exact (hstep.regs _ (by decide)).trans ((regGet_congr hreg _).trans hw)
  · refine (hstep.levels d g g.isLt).trans ?_
    rw [hall.dieIn, hall.nextLevel, hall.levels]
    simp only [List.mem_range, d.isLt, true_and]
  · exact hstep.rail d (List.mem_range.2 d.isLt) ((hall.dieIn d).trans hd)
  · simp only [List.mem_cons, not_or] at hk
    obtain ⟨hflow, hvalid, hcapk, hlevel⟩ := hk
    refine (hstep.regs k hlevel).trans (hall.regs k ?_)
    simp only [capKeys, List.mem_cons, List.not_mem_nil, or_false, not_or]
    exact ⟨hflow, hvalid, hcapk⟩

/-- A period in normal operation whose flow is too low ends in LIMP or SAFE_OFF (R390). -/
theorem throttled_low (hp : powered s = true) (h : mayLimp s) (hf : f32Le (flowUsed s) f32One = true) :
    Runs .thermalThrottle s fun t => t.op = .limp ∨ t.op = .safeOff := by
  have hcap := (updateCap_parts s).1
  refine ⟨_, throttle_runs hp, ?_⟩
  obtain hg | hl := foldl_riseStep_or h hp (List.range 4) (.inl hcap)
  · exact throttleOn_low (by rw [mayLimp, hg.op]; exact h) (hg.powered.trans hp) (by rw [hg.flowUsed]; exact hf)
  · rw [throttleOn_idle hl.not_mayLimp]
    exact hl

/-! The statement -/

/-- Settles O60: a period by its cap, its rise tests and its levels, entries to LIMP by `enterLimp_limps`, its end by `limpExit_runs`. -/
theorem flowAndLimp : Obligations.FlowAndLimp := by
  unfold Obligations.FlowAndLimp
  refine ⟨fun s hp hw hd hl => throttled_idle hp fun h => h.elim hw fun h => h.elim hd hl,
    fun s hp h => ⟨fun hf => throttled_low hp h hf, fun hf hno => throttled_levels hp h hf hno⟩,
    fun s x hx hok => ⟨fun p ht h hc => ⟨_, (flowStop_runs hx hok).trans (congrArg Host.Outcome.next (if_pos ht)), enterLimp_limps 1 0 h hc⟩,
      fun ht => (flowStop_runs hx hok).trans (congrArg Host.Outcome.next (if_neg (Nat.not_le.2 ht)))⟩,
    fun s x hl hok hx => ⟨fun ht hc => ⟨_, (limpExit_runs hl hok hx).trans (congrArg Host.Outcome.next (if_pos ⟨hc, ht⟩)), _, rfl, limpLeft_parts s⟩, fun h => ?_⟩⟩
  refine (limpExit_runs hl hok hx).trans (congrArg Host.Outcome.next (if_neg fun hn => ?_))
  obtain ht | ⟨d, hd⟩ := h
  · exact Nat.not_le.2 ht hn.2
  · exact absurd (hn.1 d) (by omega)

end Sys2Proof.Machine
end
